-- ==== Sys2Proof/Word.lean ====
section
/-! DEFINITION. The words, identifiers and small enumerations of the Twiholt T25 (spec/00_scope.md). -/

namespace Sys2Proof

abbrev Byte := BitVec 8
abbrev W16 := BitVec 16
abbrev W32 := BitVec 32
abbrev W64 := BitVec 64
abbrev W128 := BitVec 128
/-- A 64 B submission entry (R278), byte k in bits [8k+7:8k]. -/
abbrev Entry := BitVec 512

/-- Instance 0-15 (R266). -/
abbrev Inst := Fin 16
/-- Partition 0-15 (R293); the group of the same number serves it (R241). -/
abbrev Part := Fin 16
/-- Physical core index 18d + c (R4). -/
abbrev PCore := Fin 144
/-- Logical core (R5). -/
abbrev LCore := Fin 128
/-- Compute die CDd. -/
abbrev Die := Fin 8
/-- Quadrant, bridge die, collective engine and update engine number (R2). -/
abbrev Quad := Fin 4
/-- Ring of an instance (R272). -/
abbrev RingId := Fin 16384
/-- PCIe function: 0 is the PF, i + 1 the virtual function of instance i (R266). -/
abbrev Fn := Fin 17
/-- Fabric port (R213, R214). -/
abbrev Port := Fin 18
/-- Scale-out rail (R214). -/
abbrev Rail := Fin 6
/-- Adapter tag (R109). -/
abbrev Tag := BitVec 16
/-- Collective stream handle (R243). -/
abbrev Handle := Fin 4096

/-- The tag record of a granule (R109): none is TAGV = 0. -/
abbrev TagRec := Option Tag

/-- Service states (R366). -/
inductive Svc where
  | startup | normal | test | recovery
  deriving DecidableEq, Repr

/-- Anchor roles of an Armature session (R361). -/
inductive Role where
  | control | observe
  deriving DecidableEq, Repr

/-- Power states (R386). -/
inductive PState where
  | active | reduced | doze | nap
  deriving DecidableEq, Repr

end Sys2Proof
end

