-- ==== Sys2Proof/Config.lean ====
section
/-! DEFINITION. What the spec fixes outside this model (named standards), what a device's own fuses fix, and
the free values: opaque constants with no body, so that nothing can be proved of one value of them
(assumption log 2, 3, 4). -/

namespace Sys2Proof

/-- The fused serial number (R413 GL_SERIAL, reset "fused value"). -/
opaque Config.serial : W64
/-- The factory MAC address of the Armature port (R360, R363 IDENT). -/
opaque Config.armatureMac : BitVec 48
/-- The fused root key and the identity key generated at manufacture (R308). -/
opaque Config.rootKey : BitVec 256
/-- The identity key's private scalar (R308, R324). -/
opaque Config.identityKey : BitVec 384
/-- The signature (r and s) that the Meridun firmware key, whose hash is fused, makes of bytes 0-71 of an image's header
(R369). It verifies. -/
opaque Config.imageSignature : List Byte → BitVec 768
/-- Whether another signature of those bytes verifies under that key: ECDSA has more than one. -/
opaque Config.imageSignatureOk : List Byte → BitVec 768 → Bool
/-- The fused minimum SVN of each image target at manufacture (R369). -/
opaque Config.fusedSvn : Nat → BitVec 32

/-- Fresh random values, drawn in order of the state's draw counter (R308: random at device reset, at the
first BASE LOAD). A free value (assumption log 3). -/
opaque Config.random : Nat → BitVec 256
/-- The value of a byte of host memory or of a field for which the spec states no value (assumption log 4). -/
opaque Config.freeByte : Nat → Byte
/-- A free word, by draw counter (assumption log 4). -/
opaque Config.freeWord : Nat → W64

/-- Which of the slots that a module holds an adapter that it owns belongs to (R167), by tag: its rank is this number modulo their
count. The spec names no place that says so (assumption log 67). -/
opaque Config.adapterSlot : Nat → Nat

/-- Elements E of a base tensor (R209), by partition and tensor ID: no structure tells the device (assumption log 68). -/
opaque Config.tensorElems : Nat → Nat → Nat

/-- HMAC-SHA-256 (R309, R318). -/
opaque Config.hmacSha256 : BitVec 256 → List Byte → BitVec 256
/-- HMAC-SHA-384 (R324). -/
opaque Config.hmacSha384 : BitVec 256 → List Byte → BitVec 384
/-- SHA-384 (R369). -/
opaque Config.sha384 : List Byte → BitVec 384
/-- AES-256-XTS of one 64 B data unit (R309): data key, tweak key, tweak; encryption is a permutation of the units, and
decryption its inverse. -/
opaque Config.xtsUnit : BitVec 256 → BitVec 256 → Nat → Equiv.Perm (BitVec 512)
/-- What becomes of a run's last bytes where they fill no data unit, encrypted (true) or decrypted: the spec is silent. -/
opaque Config.xtsPart : Bool → BitVec 256 → BitVec 256 → Nat → List Byte → List Byte
/-- The key stream of AES-256-GCM by byte (R224): key, nonce. -/
opaque Config.gcmStream : BitVec 256 → BitVec 96 → Nat → Byte
/-- The 16 B tag of AES-256-GCM (R224): key, nonce, additional data, ciphertext. -/
opaque Config.gcmTag : BitVec 256 → BitVec 96 → List Byte → List Byte → BitVec 128
/-- AES-256 key wrap (NIST SP 800-38F KW), used for key table entries and the journal (R318, R324). -/
opaque Config.keyWrap : BitVec 256 → List Byte → List Byte
/-- ECDSA P-384 signature by the identity key (R363 ATTEST, R361). -/
opaque Config.sign : BitVec 384 → List Byte → List Byte
/-- The integrity check value of a MACsec frame under GCM-AES-XPN-256 (R226): secure association key, SCI, packet number,
what the frame protects. -/
opaque Config.macsecIcv : BitVec 256 → W64 → W64 → List Byte → BitVec 128
/-- The measurement of an image or of the microcode of a target (R315). -/
opaque Config.measure : Nat → List Byte

/-- The module that holds the role of buddy of an adapter at an epoch, as a non-owner's collective engine knows it (R259): tag, epoch. No
state that the spec gives a non-owner names it (assumption log 175). -/
opaque Config.buddyModule : Nat → Nat → Nat

/-- Bytes of a tile store (R1): 12 MiB. -/
def Config.tileStoreBytes : Nat := 12 * 1048576
/-- The end of device memory (R189). -/
def Config.devMemEnd : Nat := 0xC000000000
/-- Bytes of a granule (R69, R109). -/
def Config.granule : Nat := 2048
/-- Bytes of a device page (R200). -/
def Config.pageBytes : Nat := 2097152
/-- Device pages (R200). -/
def Config.pages : Nat := 393216
/-- Incomplete commands of a core (R69). -/
def Config.maxInFlight : Nat := 32
/-- Posted receives of a core (R102). -/
def Config.maxRcv : Nat := 16
/-- Ledger entries per compute die (R174). -/
def Config.ledgerEntries : Nat := 8192
/-- Entries of the accepted-send table (R179). -/
def Config.acceptedEntries : Nat := 16384
/-- The duplicate window in ns: 2 ms (R179). -/
def Config.dupWindow : Nat := 2000000
/-- Quarantine of a retired key in ns: 10 ms (R319). -/
def Config.quarantine : Nat := 10000000

end Sys2Proof
end

