-- ==== Sys2Proof/Machine/Bits.lean ====
section
/-! DEFINITION. Bit fields, byte order, CRC-64 (R221), the stochastic-rounding hash (R35) and the digest (R183). -/

namespace Sys2Proof.Machine

/-- Bits [hi:lo] of a word (R6). -/
def bits (w hi lo : Nat) : Nat := w / 2 ^ lo % 2 ^ (hi + 1 - lo)

/-- Bit `b` of a word. -/
def bit (w b : Nat) : Bool := w / 2 ^ b % 2 == 1

/-- The word with bits [hi:lo] replaced by the low bits of `v`. -/
def setBits (w hi lo v : Nat) : Nat :=
  w - bits w hi lo * 2 ^ lo + v % 2 ^ (hi + 1 - lo) * 2 ^ lo

/-- A Bool as a bit. -/
def b2n (b : Bool) : Nat := if b then 1 else 0

/-- The `n` low bytes of a number, little-endian (R6). -/
def leBytes : Nat → Nat → List Byte
  | 0, _ => []
  | n + 1, v => BitVec.ofNat 8 v :: leBytes n (v / 256)

/-- A number read from little-endian bytes (R6). -/
def ofLe : List Byte → Nat
  | [] => 0
  | b :: bs => b.toNat + 256 * ofLe bs

/-- Fields laid end to end from bit 0 upwards: each pair is (width in bits, value). -/
def packFields : List (Nat × Nat) → Nat
  | [] => 0
  | (w, v) :: rest => v % 2 ^ w + 2 ^ w * packFields rest

/-- `a - b` mod 2^32 read as a two's-complement integer (R273). -/
def sdiff32 (a b : W32) : Int := (a - b).toInt

/-- `a - b` mod 256 read as a two's-complement integer: key generations (R319; 128 counts as older). -/
def sdiff8 (a b : Byte) : Int := (a - b).toInt

/-- A value held at its field's maximum (the spec's "saturating"). -/
def satAdd (w v n : Nat) : Nat := min (2 ^ w - 1) (v + n)

/-- ⌈a / b⌉. -/
def ceilDiv (a b : Nat) : Nat := (a + b - 1) / b

/-- ⌈log8 n⌉ (R242). -/
def log8 (n : Nat) : Nat := ((List.range 8).filter fun l => 8 ^ l < n).length

/-- One byte of reflected CRC-64 with the ECMA-182 polynomial (R221). -/
def crc64Bits : Nat → W64 → W64
  | 0, c => c
  | n + 1, c => crc64Bits n (if c.getLsbD 0 then (c >>> 1) ^^^ 0xC96C5795D7870F42#64 else c >>> 1)

/-- CRC-64 over bytes, reflected, initial value and final XOR all ones (R221). -/
def crc64 (bs : List Byte) : W64 :=
  ~~~ (bs.foldl (fun c b => crc64Bits 8 (c ^^^ b.zeroExtend 64)) (BitVec.allOnes 64))

/-- mix64 (R35). -/
def mix64 (z : W64) : W64 :=
  let z := (z ^^^ (z >>> 30)) * 0xBF58476D1CE4E5B9#64
  let z := (z ^^^ (z >>> 27)) * 0x94D049BB133111EB#64
  z ^^^ (z >>> 31)

/-- The 16-bit random integer u of step n, tensor g, element i (R35). -/
def srBits (n : W32) (g : BitVec 24) (i : Nat) : W16 :=
  let a := mix64 ((g.zeroExtend 64 <<< 32) ||| n.zeroExtend 64)
  let z := mix64 (a + BitVec.ofNat 64 i * 0x9E3779B97F4A7C15#64)
  (z >>> 48).truncate 16

/-- The digest prime 2^64 - 59 (R183). -/
def digestP : Nat := 0xFFFFFFFFFFFFFFC5

/-- horner of R183. -/
def horner (ws : List Nat) : Nat :=
  ws.foldl (fun h w => (h * 0x5851F42D4C957F2D + w % digestP) % digestP) 0

/-- Every `step`-th element starting at the list's head, with fuel (R183: w[j::64]). -/
def everyNth (step : Nat) : Nat → List Nat → List Nat
  | 0, _ => []
  | _, [] => []
  | fuel + 1, x :: xs => x :: everyNth step fuel (xs.drop (step - 1))

/-- The digest of a word sequence (R183). -/
def digest (w : List Nat) : W64 :=
  BitVec.ofNat 64 (horner (w.length :: (List.range 64).map fun j => horner (everyNth 64 w.length (w.drop j))))

/-- Split a list into pieces of `n` elements, with fuel. -/
def chunks {α : Type} (n : Nat) : Nat → List α → List (List α)
  | 0, _ => []
  | _, [] => []
  | fuel + 1, xs => xs.take n :: chunks n fuel (xs.drop n)

/-- ASCII bytes of a label (R309). -/
def ascii (s : String) : List Byte := s.toList.map fun c => BitVec.ofNat 8 c.toNat

end Sys2Proof.Machine
end

