-- ==== Sys2Proof/Syntax.lean ====
section
/-! DEFINITION. The commands of the block: one constructor per row of spec/opcode_table.json, in the table's order,
and the messages they carry. A tile command carries the core that issues it and bits [119:0] of its 128-bit word
(R70); its opcode is its constructor's. A register command carries the value written. An event of the outside
world carries what it brings (a packet, a sample, a defect found). -/

namespace Sys2Proof

/-- A tile at a receiver: the fields of the FLP header (R218) that a receiver uses, and the sent bytes. -/
structure TileMsg where
  srcMod : BitVec 19
  home   : BitVec 3
  engine : Bool := false
  seq    : BitVec 48
  inst   : Inst
  rtag   : BitVec 12
  tfmt   : BitVec 3
  ord    : W16
  tag    : TagRec
  data   : List Byte
  deriving DecidableEq, Repr

/-- An engine shard (R245, R246): the elements that slot `src` passes slot `dst` at level `lvl`, packed in ascending
element index, from tile `ord` on; `child` is the sender's child index in the destination's node. -/
structure ShardMsg where
  phase : BitVec 2
  lvl   : Nat
  child : Nat
  src   : Nat
  dst   : Nat
  ord   : Nat
  words : List W32
  deriving DecidableEq, Repr

/-- A header tile (R247). -/
structure HeaderMsg where
  lvl    : Nat
  child  : Nat
  src    : Nat
  dst    : Nat
  step   : W32
  ovf    : Bool
  close  : Bool
  loss   : Bool
  form   : Bool
  op     : Byte
  first  : W32
  last   : W32
  digest : W64
  deriving DecidableEq, Repr

/-- A frame on a rail (R217): traffic class, flow label, addresses, UDP ports and checksum, its MACsec fields (R226), and the FLP
packet it carries. -/
structure RailFrame where
  tclass  : Byte := 0#8
  flow    : BitVec 20 := 0#20
  src     : BitVec 128 := 0#128
  dst     : BitVec 128
  udpSrc  : W16 := 0#16
  udpDst  : W16
  udpSum  : W16 := 0#16
  sci     : W64
  an      : BitVec 2
  pn      : W64
  icv     : W128
  payload : List Byte
  deriving DecidableEq, Repr

/-- The payload of a key command (R316) and the session that carries it. -/
structure KeyMsg where
  sess   : Fin 2
  kind   : Byte
  tag    : W16
  keygen : Byte
  rsvd   : BitVec 24
  key    : BitVec 256
  deriving DecidableEq, Repr

/-- A key: an adapter's, an instance's or the migration key (R316 KIND). -/
inductive KeyId where
  | adapter (tag : Tag)
  | instance_ (i : Inst)
  | migration
  deriving DecidableEq, Repr

/-- A request to a function's SPDM responder that is not a key command (R315). -/
inductive SpdmReq where
  /-- GET_VERSION naming a version, major and minor in one byte each. -/
  | getVersion (ver : W16)
  | getCertificate
  | challenge (nonce : BitVec 256)
  | getMeasurements (index : Byte)
  | keyExchange (certDigest : BitVec 384)
  | endSession (sess : Fin 2)
  /-- A VENDOR_DEFINED_REQUEST of a session whose CMD is not one of R316's. -/
  | vendor (sess : Fin 2) (cmd : Byte)
  deriving DecidableEq, Repr

/-- A request over I3C (R367). -/
inductive MctpReq where
  | mctpControl (cmd : Byte)
  | pldmBase (cmd : Byte)
  | pldmSensor (id : W16)
  | pldmServiceState
  | pldmEffecter (id : W16)
  | pldmFru
  | pldmFirmwareUpdate
  | spdmCertificate
  | spdmChallenge (nonce : BitVec 256)
  | spdmMeasurements (index : Byte)
  | spdmKeyExchange
  deriving DecidableEq, Repr

/-- The header of an Ecneuz request (R362) on one of the four sessions. -/
structure EcHdr where
  sess  : Fin 4
  ver   : Byte
  mtype : Byte
  id    : W32
  len   : W32
  rsvd  : BitVec 24
  deriving DecidableEq, Repr

/-- The payload of MACSEC (R379). -/
structure MacsecSa where
  rail   : Byte
  dir    : Byte
  an     : Byte
  active : Byte
  sci    : W64
  ssci   : W32
  salt   : BitVec 96
  pn     : W64
  sak    : BitVec 256
  deriving DecidableEq, Repr

/-- What a TLS connection to the Plinth shows (R360, R361): the TCP port and which anchor its chain ends at. -/
structure TlsHello where
  port     : W16
  tls13    : Bool
  suiteOk  : Bool
  psk      : Bool
  anchor   : Option Nat
  deriving DecidableEq, Repr

/-- A request on the Armature port outside TLS (R360). -/
inductive NdReq where
  | neighbourSolicitation (target : BitVec 128)
  | echoRequest (data : List Byte)
  | routerAdvertisement (pfx : W64)
  deriving DecidableEq, Repr

/-- One telemetry sample: group, sensor ID, flags and value (R368). -/
structure Sensor where
  group : Byte
  id    : W16
  flags : Byte
  value : W32
  deriving DecidableEq, Repr

/-- The state an owner or a buddy sends its partner (R131, R185): per update of the step, the tensor ID, the update
block and the streams M, S1, S2, W it names as bytes, with the norm entries by layer. -/
structure MirrorUpd where
  tid    : BitVec 24
  block  : BitVec 512
  m      : List Byte
  s1     : List Byte
  s2     : List Byte
  w      : List Byte
  norms  : List (BitVec 12 × W128)
  deriving DecidableEq, Repr

/-- The mirror of one step of an adapter. -/
structure Mirror where
  step : W32
  upds : List MirrorUpd
  deriving DecidableEq, Repr

/-- What reaches an owner or a buddy in a restore (R131): at the owner the buddy's mirror with the digest it formed of it; at the
buddy the owner's request, or the digest that the owner formed as it wrote. -/
inductive RestoreEv where
  | take (m : Mirror) (peer : W64)
  | asked
  | compare (own : W64)
  deriving DecidableEq, Repr

/-- The commands (spec/opcode_table.json). -/
inductive Instr where
  /-- TLD (R193). -/
  | tld (k : PCore) (b : BitVec 120)
  /-- TLD_ACCLD (R194). -/
  | tldAccld (k : PCore) (b : BitVec 120)
  /-- TST (R193). -/
  | tst (k : PCore) (b : BitVec 120)
  /-- TCP (R197). -/
  | tcp (k : PCore) (b : BitVec 120)
  /-- MMZ (R73). -/
  | mmz (k : PCore) (b : BitVec 120)
  /-- MMA (R74). -/
  | mma (k : PCore) (b : BitVec 120)
  /-- MMW (R74). -/
  | mmw (k : PCore) (b : BitVec 120)
  /-- MMQ (R75). -/
  | mmq (k : PCore) (b : BitVec 120)
  /-- PRO (R84). -/
  | pro (k : PCore) (b : BitVec 120)
  /-- EPI (R89); `bad`: an array error stands that the drain's checksum comparison reports (R64). -/
  | epi (k : PCore) (b : BitVec 120) (bad : Bool)
  /-- CHN (R96); `bad`: the array whose comparison, of the score set or of an output set (R97), has an error to report. -/
  | chn (k : PCore) (b : BitVec 120) (bad : Option (Fin 4))
  /-- SEG_LOAD (R117). -/
  | segLoad (k : PCore) (b : BitVec 120)
  /-- SEG_SELECT (R118). -/
  | segSelect (k : PCore) (b : BitVec 120)
  /-- SEG_CLEAR (R118). -/
  | segClear (k : PCore) (b : BitVec 120)
  /-- SND_SEND (R99). -/
  | sndSend (k : PCore) (b : BitVec 120)
  /-- SND_ATTACH (R99). -/
  | sndAttach (k : PCore) (b : BitVec 120)
  /-- SND_DETACH (R99). -/
  | sndDetach (k : PCore) (b : BitVec 120)
  /-- RCV_PLACE (R102). -/
  | rcvPlace (k : PCore) (b : BitVec 120)
  /-- RCV_COMBINE (R104). -/
  | rcvCombine (k : PCore) (b : BitVec 120)
  /-- SYN_WAIT (R76). -/
  | synWait (k : PCore) (b : BitVec 120)
  /-- SYN_SIGNAL (R76). -/
  | synSignal (k : PCore) (b : BitVec 120)
  /-- NRM (R150). -/
  | nrm (k : PCore) (b : BitVec 120)
  /-- UPD (R154). -/
  | upd (k : PCore) (b : BitVec 120)
  /-- TRP (R77). -/
  | trp (k : PCore) (b : BitVec 120)
  /-- END (R78). -/
  | endItem (k : PCore) (b : BitVec 120)
  /-- START_GRANT (R66): one decision of a die's arbiter. -/
  | startGrant (d : Die)
  /-- TRANSFER_TIMEOUT (R105). -/
  | transferTimeout (k : PCore)
  /-- TILE_ARRIVAL (R103). -/
  | tileArrival (k : PCore) (t : TileMsg)
  /-- TILE_ACK (R176): the tile SEQ of a die's ledger is acknowledged. -/
  | tileAck (home : Die) (seq : BitVec 48)
  /-- TILE_RESEND_RETRY (R103). -/
  | tileResendRetry (home : Die) (seq : BitVec 48)
  /-- DOORBELL (R273): a BAR2 access of `size` bytes at offset `off` of a function: a write of a value, or a read. -/
  | doorbell (fn : Fn) (off : Nat) (size : Nat) (val : Option W64)
  /-- ADMIT (R274). -/
  | admitEntry (i : Inst) (r : RingId)
  /-- WORK (R279): the admitted entry SUBSEQ of a ring. -/
  | work (i : Inst) (r : RingId) (q : W32)
  /-- ORDER (R278). -/
  | order (i : Inst) (r : RingId) (q : W32)
  /-- ADAPTER_LOAD (R415). -/
  | adapterLoad (i : Inst) (r : RingId) (q : W32)
  /-- ADAPTER_SWAP (R136). -/
  | adapterSwap (i : Inst) (r : RingId) (q : W32)
  /-- ADAPTER_PIN (R134). -/
  | adapterPin (i : Inst) (r : RingId) (q : W32)
  /-- ADAPTER_UNPIN (R134). -/
  | adapterUnpin (i : Inst) (r : RingId) (q : W32)
  /-- ADAPTER_EVICT (R133). -/
  | adapterEvict (i : Inst) (r : RingId) (q : W32)
  /-- ADAPTER_FREE (R416). -/
  | adapterFree (i : Inst) (r : RingId) (q : W32)
  /-- BASE_LOAD (R418). -/
  | baseLoad (i : Inst) (r : RingId) (q : W32)
  /-- BASE_SWAP (R137). -/
  | baseSwap (i : Inst) (r : RingId) (q : W32)
  /-- BASE_FREEZE (R123). -/
  | baseFreeze (i : Inst) (r : RingId) (q : W32)
  /-- BASE_UNFREEZE (R123). -/
  | baseUnfreeze (i : Inst) (r : RingId) (q : W32)
  /-- MEM_ALLOC (R417). -/
  | memAlloc (i : Inst) (r : RingId) (q : W32)
  /-- MEM_FREE (R417). -/
  | memFree (i : Inst) (r : RingId) (q : W32)
  /-- COPY (R280). -/
  | copy (i : Inst) (r : RingId) (q : W32)
  /-- NORMREAD (R282). -/
  | normread (i : Inst) (r : RingId) (q : W32)
  /-- PEER_OPEN (R280). -/
  | peerOpen (i : Inst) (r : RingId) (q : W32)
  /-- PEER_CLOSE (R283). -/
  | peerClose (i : Inst) (r : RingId) (q : W32)
  /-- STREAM_OPEN (R243). -/
  | streamOpen (i : Inst) (r : RingId) (q : W32)
  /-- STREAM_CLOSE (R280). -/
  | streamClose (i : Inst) (r : RingId) (q : W32)
  /-- NOP (R278). -/
  | nop (i : Inst) (r : RingId) (q : W32)
  /-- GENERATION_SATISFIED (R294). -/
  | generationSatisfied (i : Inst) (r : RingId) (q : W32)
  /-- DISPATCH (R295): one choice for a free core. -/
  | dispatch (l : LCore)
  /-- LEDGER_RELEASE (R18): entry `slot` of a die's ledger. -/
  | ledgerRelease (d : Die) (slot : Fin 8192)
  /-- PREEMPT (R300): for the longest waiting item that the conditions of R300 allow in a partition. -/
  | preempt (l : LCore)
  /-- SWITCH_OUT (R301). -/
  | switchOut (k : PCore)
  /-- CONTEXT_RESTORE (R301): context slot onto a physical core. -/
  | contextRestore (slot : Fin 128) (k : PCore)
  /-- MICROBATCH_BOUNDARY (R136). -/
  | microbatchBoundary (p : Part)
  /-- PREVDIR_RELEASE (R136): an adapter's old copy, or the partition's old base copy. -/
  | prevdirRelease (p : Part) (tag : TagRec)
  /-- OVERFLOW_NOTIFY (R140): an overflow of step n in layer `layer`; `train` says the class half. -/
  | overflowNotify (p : Part) (n : W32) (layer : BitVec 12) (train : Bool)
  /-- VERDICT_EXCHANGE (R143): the values of the slots that other modules hold, by slot. -/
  | verdictExchange (p : Part) (others : List (Nat × W32))
  /-- DECIDE (R141): on the closing reduction that completed first and is not decided yet. -/
  | lsDecide (p : Part)
  /-- TN_HOLD_APPLY (R145): the value written to TN_HOLD. -/
  | tnHoldApply (p : Part) (v : W64)
  /-- TN_HOLD_DISCARD (R145). -/
  | tnHoldDiscard (p : Part) (v : W64)
  /-- LS_ENABLE (R141): the value written to LS_CTL. -/
  | lsEnable (p : Part) (v : W32)
  /-- UPD_RUN (R155). -/
  | updRun (n : Quad)
  /-- UPD_COMPLETE (R156). -/
  | updComplete (n : Quad)
  /-- MIRROR_SEND (R185): at the owner none; at the buddy the mirror that arrives. -/
  | mirrorSend (tag : Tag) (arrives : Option Mirror)
  /-- DIGEST_EXCHANGE (R185): the partner's digest of the step. -/
  | digestExchange (tag : Tag) (peer : W64)
  /-- ADAPTER_RESTORE (R131): a step of the restore between an owner and its buddy. -/
  | adapterRestore (tag : Tag) (ev : RestoreEv)
  /-- WORKING_COPY_REFRESH (R164): the owner's working copy of step n, or none where it is unchanged. -/
  | workingCopyRefresh (tag : Tag) (n : W32) (w : Option (List Byte))
  /-- CAST (R252). -/
  | cast (h : Handle)
  /-- CONTRIBUTION_ARRIVAL (R244). -/
  | contributionArrival (h : Handle) (t : TileMsg)
  /-- ENGINE_SHARD_ARRIVAL (R245). -/
  | engineShardArrival (h : Handle) (m : ShardMsg)
  /-- HEADER_TILE (R247). -/
  | headerTile (h : Handle) (m : HeaderMsg)
  /-- STREAM_DONE (R250). -/
  | streamDone (h : Handle)
  /-- GROUP_FORM (R241): the value written to CE_GRPCFG and the headers that arrive in the
  barrier before it completes. -/
  | groupForm (g : Part) (v : W64) (heard : List HeaderMsg)
  /-- GROUP_RESET (R254): the value written to CE_GRPCFG. -/
  | groupReset (g : Part) (v : W64)
  /-- GROUP_RESET_APPLY (R254): headers of the reset's barrier that arrive. -/
  | groupResetApply (g : Part) (heard : List HeaderMsg)
  /-- DATA_SHARD (R231): a DATA packet at a port. -/
  | dataShard (p : Port) (pkt : List Byte)
  /-- REPORT (R222). -/
  | report (p : Port) (pkt : List Byte)
  /-- REQ (R232). -/
  | req (p : Port) (pkt : List Byte)
  /-- PACKET_FORWARD (R228); `fecBad`: an uncorrectable codeword was found in it (R221). -/
  | packetForward (p : Port) (pkt : List Byte) (fecBad : Bool)
  /-- RAIL_FRAME (R226). -/
  | railFrame (r : Rail) (f : RailFrame)
  /-- SHARD_RESEND_TIMEOUT (R232): shard of a retained tile. -/
  | shardResendTimeout (home : BitVec 3) (engine : Bool) (seq : BitVec 48) (shard : BitVec 2)
  /-- REQ_TIMEOUT (R232): an incomplete tile of a bridge die's assembly buffer. -/
  | reqTimeout (srcMod : BitVec 19) (home : BitVec 3) (engine : Bool) (seq : BitVec 48)
  /-- LANE (R235). -/
  | lane (p : Port) (l : Fin 4)
  /-- PORT (R235). -/
  | portLoss (p : Port)
  /-- NOTICE (R258): a MEMB packet (R219, R257) at a port, as the four that follow. -/
  | notice (p : Port) (pkt : List Byte)
  /-- CHANGE (R258). -/
  | change (p : Port) (pkt : List Byte)
  /-- VOTE (R258). -/
  | vote (p : Port) (pkt : List Byte)
  /-- VOTE_WINDOW_EXPIRY (R258). -/
  | voteWindowExpiry (g : Part)
  /-- COMMIT (R238). -/
  | commit (p : Port) (pkt : List Byte)
  /-- TAKEOVER (R258). -/
  | takeover (p : Port) (pkt : List Byte)
  /-- TAKEOVER_TIMEOUT (R258). -/
  | takeoverTimeout (g : Part)
  /-- KEY_FETCH (R129): a miss of bridge die n for a tag; `ok`: the unwrap's integrity check passes. -/
  | keyFetch (n : Quad) (tag : Tag) (ok : Bool)
  /-- RETIRE_FINISH (R320). -/
  | retireFinish (k : KeyId)
  /-- RULE_CHANGE_COMPLETE (R313). -/
  | ruleChangeComplete (i : Inst)
  /-- PAGE_ZEROED (R204). -/
  | pageZeroed (n : Fin 393216)
  /-- SETKEY (R319). -/
  | setkey (fn : Fn) (m : KeyMsg)
  /-- RETIRE (R320). -/
  | retire (fn : Fn) (m : KeyMsg)
  /-- QUERY (R316). -/
  | query (fn : Fn) (m : KeyMsg)
  /-- SEAL (R327). -/
  | seal (fn : Fn) (m : KeyMsg)
  /-- UNSEAL (R329). -/
  | unseal (fn : Fn) (m : KeyMsg)
  /-- SPDM_REQUEST (R315). -/
  | spdmRequest (fn : Fn) (q : SpdmReq)
  /-- IDE_KM (R327): the stream of a function is keyed. -/
  | ideKm (fn : Fn) (key : BitVec 256)
  /-- TENANT_REMOVAL (R322): the value written to IS_REMOVE. -/
  | tenantRemoval (i : Inst) (v : W32)
  /-- INSTCTL_RESET (R287): the value written to QM_INSTCTL. -/
  | instctlReset (i : Inst) (v : W32)
  /-- INSTCTL_QUIESCE (R286). -/
  | instctlQuiesce (i : Inst) (v : W32)
  /-- INSTANCE_QUIESCED (R286). -/
  | instanceQuiesced (i : Inst)
  /-- INSTCTL_RESUME (R286). -/
  | instctlResume (i : Inst) (v : W32)
  /-- INSTCTL_FREEZE (R291). -/
  | instctlFreeze (i : Inst) (v : W32)
  /-- INSTCTL_SAVE (R291). -/
  | instctlSave (i : Inst) (v : W32)
  /-- INSTCTL_RESTORE (R291). -/
  | instctlRestore (i : Inst) (v : W32)
  /-- INSTCTL_THAW (R291). -/
  | instctlThaw (i : Inst) (v : W32)
  /-- FLR_VF (R266). -/
  | flrVf (i : Inst)
  /-- FLR_PF (R266). -/
  | flrPf
  /-- RING_ENABLE (R275): the value written to QM_RCFG by a function. -/
  | ringEnable (fn : Fn) (i : Inst) (r : RingId) (v : W32)
  /-- DIRTY_ENABLE (R290): the value written to QM_DIRTYCTL. -/
  | dirtyEnable (i : Inst) (v : W64)
  /-- DIRTY_SELECT (R290). -/
  | dirtySelect (i : Inst) (v : W64)
  /-- FLIPPED (R290). -/
  | flipped (i : Inst)
  /-- TN_NANSTAT_REARM (R39). -/
  | tnNanstatRearm (i : Inst) (v : W32)
  /-- MR_NANSTAT_REARM (R270). -/
  | mrNanstatRearm (i : Inst) (v : W32)
  /-- FC_LSTAT_REARM (R338). -/
  | fcLstatRearm (c : Fin 16) (v : W32)
  /-- IS_VIOL_REARM (R311). -/
  | isViolRearm (i : Inst) (v : W64)
  /-- FC_ACK (R339): the value written to FC_ACK. -/
  | fcAck (v : W32)
  /-- REVERIFY (R356): the value written to FC_SDC, and what the two re-reads find against their write-time digests. -/
  | reverify (v : W64) (buddyReread : W64)
  /-- KEEPOWNER (R356): the digest the buddy forms of the mirror it receives. -/
  | keepowner (v : W64) (buddyDigest : W64)
  /-- KEEPBUDDY (R356): the buddy's mirror and its digest. -/
  | keepbuddy (v : W64) (mir : Mirror) (buddyDigest : W64)
  /-- XVAL_STAGE (R314): the value written to IS_XVAL. -/
  | xvalStage (i : Inst) (v : W64)
  /-- RULECTL_COMMIT (R314): the value written to IS_RULECTL. -/
  | rulectlCommit (i : Inst) (v : W32)
  /-- SEAL_ARM (R327): the value written to IS_SEALCTL. -/
  | sealArm (v : W32)
  /-- QM_AP_WRITE (R312). -/
  | qmApWrite (i : Inst) (v : W64)
  /-- TABLE_BASE_WRITE (R414): a table base register's offset and the value. -/
  | tableBaseWrite (off : Nat) (v : W64)
  /-- INSTCFG_WRITE (R293). -/
  | instcfgWrite (i : Inst) (v : W32)
  /-- PCORES_WRITE (R293): SC_PCORES0 or SC_PCORES1. -/
  | pcoresWrite (p : Part) (half : Fin 2) (v : W64)
  /-- QUOTA_WRITE (R202): the offset of MT_QUOTA[i] or MT_PQUOTA[p] and the value. -/
  | quotaWrite (off : Nat) (v : W32)
  /-- PORT_ENABLE (R410): the value written to FB_PORTCTL. -/
  | portEnable (p : Port) (v : W32)
  /-- PORT_TRAINING (R410): the port came up with its partner, or its 8 s passed. -/
  | portTraining (p : Port) (up : Bool)
  /-- TR_DUMP (R397): the value written. -/
  | trDump (v : W64)
  /-- MAILBOX_WORD_WRITE (R284): word w of slot s, written by the instance's tenant (fn 0 false) or the manager. -/
  | mailboxWordWrite (tenant : Bool) (i : Inst) (slot : Fin 16) (w : Fin 8) (v : W64)
  /-- MAILBOX_PUBLISH (R284): the OWN bits written 1. -/
  | mailboxPublish (tenant : Bool) (i : Inst) (mask : W16)
  /-- MAILBOX_RELEASE (R284): the OWN bits written 1. -/
  | mailboxRelease (tenant : Bool) (i : Inst) (mask : W16)
  /-- DEVICE_NOTICE (R285). -/
  | deviceNotice (i : Inst)
  /-- BAR4_ACCESS (R271): a read of `n` bytes, or a write of the bytes given. -/
  | bar4Access (fn : Fn) (off : Nat) (n : Nat) (wr : Option (List Byte))
  /-- REGISTER_WRITE (R12): a BAR0 write of `size` bytes by a function. -/
  | registerWrite (fn : Fn) (off : Nat) (size : Nat) (v : W64)
  /-- FAULT_MESSAGE (R340). -/
  | faultMessage (m : W128)
  /-- LOGIC (R343). -/
  | logic (k : PCore)
  /-- DIE_FENCE (R341). -/
  | dieFence (d : Die)
  /-- PCRETIRE (R344): pseudo-channel `pc` of stack `m`. -/
  | pcretire (m : Fin 12) (pc : Fin 64)
  /-- PC_COPY_DONE (R344). -/
  | pcCopyDone (m : Fin 12) (pc : Fin 64)
  /-- STACKFAIL (R336). -/
  | stackfail (m : Fin 12)
  /-- RING (R336): one direction of bridge-ring link `l`. -/
  | ring (l : Fin 4)
  /-- FW_WATCHDOG (R346). -/
  | fwWatchdog
  /-- HEARTBEAT_MISS (R347). -/
  | heartbeatMiss
  /-- GLITCH (R330). -/
  | glitch (detector : BitVec 48)
  /-- THERMWARN (R392): a die's or stack's (R3) sensor above its warning limit. -/
  | thermwarn (die : BitVec 5) (sensor : BitVec 48)
  /-- THERMTRIP (R392). -/
  | thermtrip (die : BitVec 5) (sensor : BitVec 48)
  /-- RAIL (R336). -/
  | rail (r : BitVec 48)
  /-- POWER_SAMPLE (R390): input power and 1 ms package average, in W. -/
  | powerSample (input avg : W16)
  /-- CLOCK_STEP (R381): one 25 MHz step of a die's core clock. -/
  | clockStep (d : Die) (up : Bool)
  /-- DOZE_ENTRY (R386): idle cycles seen. -/
  | dozeEntry (k : PCore) (idle : Nat)
  /-- NAP_ENTRY (R387): microseconds in Doze; `wake`: a wake request arrives during the entry. -/
  | napEntry (k : PCore) (us : Nat) (wake : Bool)
  /-- DIE_NAP (R388): microseconds without a transfer toward the die. -/
  | dieNap (d : Die) (us : Nat)
  /-- WAKE (R385): a transfer toward a die, and toward one of its cores. -/
  | wake (d : Die) (c : Option (Fin 18))
  /-- TRACE_DROP (R395). -/
  | traceDrop (k : PCore)
  /-- PERST_ASSERT (R406). -/
  | perstAssert
  /-- PERST_RELEASE (R409): ms to configuration space ready; cores and dies that fail (R411). -/
  | perstRelease (cfgMs : W32) (badCores : List PCore) (badDies : List Die)
  /-- MEMDONE (R409): pseudo-channels and stacks that fail training (R411). -/
  | memdone (badPcs : List (Fin 12 × Fin 64)) (badStacks : List (Fin 12))
  /-- READY (R409): ms since release. -/
  | ready (ms : W32)
  /-- PLINTH_BOOT (R408): the supplies present and in range, the inlet below 45 °C. -/
  | plinthBoot (stby v54 inletOk : Bool)
  /-- PWR_WARN (R352). -/
  | pwrWarn
  /-- UNDERVOLTAGE (R406). -/
  | undervoltage
  /-- ARMATURE_CONNECT (R360). -/
  | armatureConnect (t : TlsHello)
  /-- IDENT (R363). -/
  | ident (h : EcHdr)
  /-- ATTEST (R363). -/
  | attest (h : EcHdr) (nonce : BitVec 256)
  /-- CERTS (R363). -/
  | certs (h : EcHdr)
  /-- LOGREAD (R363). -/
  | logread (h : EcHdr) (first : W32) (count : W16)
  /-- TELEM (R368). -/
  | telem (h : EcHdr) (mask : W32)
  /-- SUBSCRIBE (R363). -/
  | subscribe (h : EcHdr) (level : Byte) (interval : W16)
  /-- TELEMETRY_EVENT (R368): the sensors sampled. -/
  | telemetryEvent (sess : Fin 4) (samples : List Sensor)
  /-- INSTRESET (R355); `late`: RESETDONE has not set within 1 ms. -/
  | instreset (h : EcHdr) (inst : Byte) (late : Bool)
  /-- QUIESCE (R353). -/
  | quiesce (h : EcHdr)
  /-- HALT (R354). -/
  | halt (h : EcHdr)
  /-- RAILCUT (R355). -/
  | railcut (h : EcHdr)
  /-- ZEROISE (R355). -/
  | zeroise (h : EcHdr)
  /-- DEVRESET (R363). -/
  | devreset (h : EcHdr)
  /-- FAULTACK (R363). -/
  | faultack (h : EcHdr) (cls : Byte) (scope : W16)
  /-- SVCSTATE (R366). -/
  | svcstate (h : EcHdr) (new : Byte)
  /-- IMGWRITE (R369). -/
  | imgwrite (h : EcHdr) (target : Byte) (off : W32) (data : List Byte)
  /-- IMGACT (R369). -/
  | imgact (h : EcHdr) (target flags : Byte)
  /-- HANDOVER_TIMEOUT (R373). -/
  | handoverTimeout
  /-- JRNLUPD (R326); `readback`: both read-backs match. -/
  | jrnlupd (h : EcHdr) (mode : Byte) (readback : Bool)
  /-- MACSEC (R379). -/
  | macsec (h : EcHdr) (sa : MacsecSa)
  /-- ANCHOR (R361). -/
  | anchor (h : EcHdr) (slot : Byte) (cert : List Byte)
  /-- PCTRAIN (R375). -/
  | pctrain (h : EcHdr) (stack pc mode : Byte)
  /-- LANEEQ (R376). -/
  | laneeq (h : EcHdr) (port lane : Byte)
  /-- COREREPL (R377). -/
  | corerepl (h : EcHdr) (core flags : Byte)
  /-- PROCSTAT (R363). -/
  | procstat (h : EcHdr) (num : W16)
  /-- MCTP_REQUEST (R367). -/
  | mctpRequest (q : MctpReq)
  /-- PLDM_ANCHOR_INSTALL (R367). -/
  | pldmAnchorInstall (slot : Byte) (cert : List Byte)
  /-- PLINTH_REBOOT (R374). -/
  | plinthReboot
  /-- ROOTBLOCK (R336): the unit of the root die (R335). -/
  | rootblock (unit : BitVec 11)
  /-- PLINTH_RAIL_LOSS (R403): microseconds both supplies were absent. -/
  | plinthRailLoss (us : Nat)
  /-- LOW_HALF_READ (R12): a read of `size` bytes of a function's BAR0 at an offset. -/
  | lowHalfRead (fn : Fn) (off : Nat) (size : Nat)
  /-- NEIGHBOUR_DISCOVERY (R360). -/
  | neighbourDiscovery (q : NdReq)
  /-- OPCODE_NOT_IN_TABLE (R71): the whole word. -/
  | opcodeNotInTable (k : PCore) (w : W128)
  /-- SAVED (R291). -/
  | saved (i : Inst)
  /-- TR_DUMP_DONE (R397). -/
  | trDumpDone
  /-- LOADING_DONE (R416). -/
  | loadingDone (tag : Tag)
  deriving DecidableEq, Repr

end Sys2Proof
end

