-- ==== Sys2Proof/Decode.lean ====
section
/-! DEFINITION. What a word spells: the rows of spec/opcode_table.json that give bits, and the tile command of a core's
command word (R70, R71). -/

namespace Sys2Proof

open Sys2Proof.Machine

/-- The command a word spells by the table's bits: no row of the table gives any, so no word spells one. -/
def decodeTableWord (_nbits _w : Nat) : Option Instr := none

/-- The tile command that a core reads in a 128-bit command word (R70, R71): OPCODE in bits [127:120] picks it, and where one opcode
has several rows its own field does: ACCLD of a TLD of an uncoded format (R193), OP of a SEG and a SYN (R117, R118, R76), MODE of an SND and an RCV (R99, R102).
Any other opcode is none of R71's. A drain's and a chain's command start with no array error to report (R64). -/
def tileCommand (k : PCore) (w : W128) : Instr :=
  let b : BitVec 120 := w.truncate 120
  let fld := fun (hi lo : Nat) => bits w.toNat hi lo
  match bits w.toNat 127 120 with
  | 0x01 => if fld 7 7 = 1 ∧ fld 103 101 ≠ 3 ∧ fld 103 101 ≠ 4 then .tldAccld k b else .tld k b
  | 0x02 => .tst k b
  | 0x03 => .tcp k b
  | 0x10 => .mmz k b
  | 0x11 => .mma k b
  | 0x12 => .mmw k b
  | 0x13 => .mmq k b
  | 0x20 => .pro k b
  | 0x21 => .epi k b false
  | 0x22 => .chn k b none
  | 0x23 => if fld 103 102 = 0 then .segLoad k b else if fld 103 102 = 1 then .segSelect k b else .segClear k b
  | 0x30 => if fld 103 102 = 0 then .sndSend k b else if fld 103 102 = 1 then .sndAttach k b else .sndDetach k b
  | 0x31 => if fld 103 102 = 0 then .rcvPlace k b else .rcvCombine k b
  | 0x40 => if fld 103 103 = 0 then .synWait k b else .synSignal k b
  | 0x41 => .nrm k b
  | 0x50 => .upd k b
  | 0xF0 => .trp k b
  | 0xFF => .endItem k b
  | _ => .opcodeNotInTable k w

end Sys2Proof
end

