-- ==== Sys2Proof/Machine/Tab.lean ====
section
/-! DEFINITION. Sparse tables with natural-number keys, and byte memories, each in one canonical form: keys
strictly rising, and no entry equal to what an unlisted key reads as. -/

namespace Sys2Proof.Machine

/-- A sparse table. What an unlisted key reads as is named where the table is read. -/
abbrev Tab (α : Type) := List (Nat × α)

/-- The entry of a key, when one is listed. -/
def Tab.find {α : Type} : Tab α → Nat → Option α
  | [], _ => none
  | (k, v) :: t, key => if k = key then some v else Tab.find t key

/-- The value of a key; `d` where the key is not listed. -/
def Tab.get {α : Type} (d : α) (t : Tab α) (key : Nat) : α := (Tab.find t key).getD d

/-- List a value at a key, keeping the keys rising. -/
def Tab.insert {α : Type} : Tab α → Nat → α → Tab α
  | [], key, v => [(key, v)]
  | (k, x) :: t, key, v =>
    if key < k then (key, v) :: (k, x) :: t
    else if key = k then (key, v) :: t
    else (k, x) :: Tab.insert t key v

/-- Unlist a key. -/
def Tab.erase {α : Type} : Tab α → Nat → Tab α
  | [], _ => []
  | (k, x) :: t, key => if k = key then Tab.erase t key else (k, x) :: Tab.erase t key

/-- Write a value in canonical form: the default `d` unlists the key. -/
def Tab.put {α : Type} [DecidableEq α] (d : α) (t : Tab α) (key : Nat) (v : α) : Tab α :=
  if v = d then Tab.erase t key else Tab.insert t key v

/-- Change the value of a key. -/
def Tab.upd {α : Type} [DecidableEq α] (d : α) (t : Tab α) (key : Nat) (f : α → α) : Tab α :=
  Tab.put d t key (f (Tab.get d t key))

/-- The keys rise strictly from above `lo` (exclusive bound given as `lo ≤ key`). -/
def Tab.risingFrom {α : Type} : Nat → Tab α → Bool
  | _, [] => true
  | lo, (k, _) :: t => decide (lo ≤ k) && Tab.risingFrom (k + 1) t

/-- The canonical form of a table whose unlisted keys read as `d`. -/
def Tab.wf {α : Type} [DecidableEq α] (d : α) (t : Tab α) : Bool :=
  Tab.risingFrom 0 t && t.all fun kv => decide (kv.2 ≠ d)

/-- A byte memory: unlisted addresses read as zero (R204 for device memory; assumption log 5 for host memory). -/
abbrev Memory := List Host.Cell

/-- One byte. -/
def Memory.get (m : Memory) (a : Nat) : Byte := Tab.get (α := Byte) 0#8 m a

/-- `n` bytes from `a`. -/
def Memory.read (m : Memory) (a n : Nat) : List Byte := (List.range n).map fun k => Memory.get m (a + k)

/-- The cells of a run of bytes, zeros left out. -/
def Memory.cells : Nat → List Byte → Memory
  | _, [] => []
  | a, b :: bs => if b = 0#8 then Memory.cells (a + 1) bs else (a, b) :: Memory.cells (a + 1) bs

/-- Write a run of bytes at `a`. -/
def Memory.write (m : Memory) (a : Nat) (bs : List Byte) : Memory :=
  m.filter (fun c => decide (c.1 < a)) ++ Memory.cells a bs ++ m.filter (fun c => decide (a + bs.length ≤ c.1))

/-- Zero `n` bytes from `a`. -/
def Memory.zero (m : Memory) (a n : Nat) : Memory :=
  m.filter (fun c => decide (c.1 < a)) ++ m.filter (fun c => decide (a + n ≤ c.1))

/-- The canonical form of a memory. -/
def Memory.wf (m : Memory) : Bool := Tab.wf (α := Byte) 0#8 m

/-- A little-endian number of `n` bytes (R6). -/
def Memory.num (m : Memory) (a n : Nat) : Nat := ofLe (Memory.read m a n)

end Sys2Proof.Machine
end

