-- ==== Sys2Proof/Machine/Fp.lean ====
section
/-! DEFINITION. Number formats and arithmetic (R23 to R37): exact dyadic values, the rounding points, carried
FP32 accumulation, the row unit's correctly rounded functions and the stochastic cast. Every rounding is
round-to-nearest-even (R26). -/

namespace Sys2Proof.Machine

/-- An exact dyadic value m * 2^e. -/
structure Dy where
  m : Int := 0
  e : Int := 0
  deriving DecidableEq, Repr, Inhabited

/-- Bring a dyadic value to a common exponent not above its own. -/
def Dy.mantAt (x : Dy) (e : Int) : Int := x.m * 2 ^ (x.e - e).toNat

/-- Exact sum. -/
def Dy.add (x y : Dy) : Dy :=
  let e := min x.e y.e
  { m := x.mantAt e + y.mantAt e, e := e }

/-- Exact product. -/
def Dy.mul (x y : Dy) : Dy := { m := x.m * y.m, e := x.e + y.e }

/-- A decoded number. A finite value is ±m * 2^e; m = 0 is a zero of that sign. -/
inductive Fv where
  | nan
  | inf (neg : Bool)
  | fin (neg : Bool) (m : Nat) (e : Int)
  deriving DecidableEq, Repr, Inhabited

def Fv.isNan : Fv → Bool
  | .nan => true
  | _ => false

def Fv.isFinite : Fv → Bool
  | .fin _ _ _ => true
  | _ => false

def Fv.isZero : Fv → Bool
  | .fin _ 0 _ => true
  | _ => false

def Fv.zero : Fv := .fin false 0 0
def Fv.one : Fv := .fin false 1 0
def Fv.ofNat (n : Nat) : Fv := .fin false n 0

/-- The exact dyadic value of a finite number. -/
def Fv.dy : Fv → Dy
  | .fin neg m e => { m := if neg then -(m : Int) else m, e := e }
  | _ => {}

/-- A dyadic value as a number; `neg0` is the sign given to an exact zero. -/
def Fv.ofDy (neg0 : Bool) (x : Dy) : Fv :=
  if x.m = 0 then .fin neg0 0 x.e else .fin (decide (x.m < 0)) x.m.natAbs x.e

def Fv.neg : Fv → Fv
  | .nan => .nan
  | .inf n => .inf (!n)
  | .fin n m e => .fin (!n) m e

def Fv.abs : Fv → Fv
  | .nan => .nan
  | .inf _ => .inf false
  | .fin _ m e => .fin false m e

/-- Decode FP16. -/
def dec16 (x : W16) : Fv :=
  let w := x.toNat
  let e := bits w 14 10
  let f := bits w 9 0
  if e = 31 then (if f = 0 then .inf (bit w 15) else .nan)
  else if e = 0 then .fin (bit w 15) f (-24)
  else .fin (bit w 15) (1024 + f) ((e : Int) - 25)

/-- Decode FP32. -/
def dec32 (x : W32) : Fv :=
  let w := x.toNat
  let e := bits w 30 23
  let f := bits w 22 0
  if e = 255 then (if f = 0 then .inf (bit w 31) else .nan)
  else if e = 0 then .fin (bit w 31) f (-149)
  else .fin (bit w 31) (8388608 + f) ((e : Int) - 150)

/-- Decode an F8 code (R44). -/
def decF8 (c : Byte) : Fv :=
  let w := c.toNat
  let e := bits w 6 3
  let f := bits w 2 0
  if w % 128 = 127 then .nan
  else if e = 0 then .fin (bit w 7) f (-9)
  else .fin (bit w 7) (8 + f) ((e : Int) - 10)

/-- Decode a block scale (R48). -/
def decBlockScale (c : Byte) : Fv :=
  let w := c.toNat
  let e := bits w 7 3
  let f := bits w 2 0
  if e = 31 then .nan
  else if e = 0 then .fin false f (-17)
  else .fin false (8 + f) ((e : Int) - 18)

/-- Decode a group scale: ±∞ and NaN decode as NaN (R49). -/
def decGroupScale (x : W16) : Fv :=
  match dec16 x with
  | .fin n m e => .fin n m e
  | _ => .nan

/-- An I8 code as an integer (R43). -/
def decI8 (c : Byte) : Fv :=
  let v := c.toInt
  .fin (decide (v < 0)) v.natAbs 0

/-- The number of binary digits of `n`. -/
def bitLen (n : Nat) : Nat := if n = 0 then 0 else Nat.log2 n + 1

/-- Round m * 2^e to a multiple of 2^q, ties to even: the multiple. -/
def rneAt (m : Nat) (e q : Int) : Nat :=
  if q ≤ e then m * 2 ^ (e - q).toNat
  else
    let k := (q - e).toNat
    let d := m / 2 ^ k
    let r := m % 2 ^ k
    if 2 * r > 2 ^ k || (2 * r == 2 ^ k && d % 2 == 1) then d + 1 else d

/-- Round m * 2^e to `p` significant bits, the unit not below 2^qmin when one is given: the multiple and its exponent. -/
def rneP (p : Nat) (qmin : Option Int) (m : Nat) (e : Int) : Nat × Int :=
  let q0 := (bitLen m : Int) + e - p
  let q := match qmin with
    | some b => max q0 b
    | none => q0
  (rneAt m e q, q)

/-- The canonical quiet NaNs (R36). -/
def nan16 : W16 := 0x7E00#16
def nan32 : W32 := 0x7FC00000#32

/-- RNE to FP32 of an exact value; the Bool says that a finite value became infinite (R40). -/
def rne32 : Fv → W32 × Bool
  | .nan => (nan32, false)
  | .inf n => (BitVec.ofNat 32 (b2n n * 2 ^ 31 + 0x7F800000), false)
  | .fin n m e =>
    let (m1, q1) := rneP 24 (some (-149)) m e
    let (m2, q2) := if m1 = 2 ^ 24 then (2 ^ 23, q1 + 1) else (m1, q1)
    if m2 < 2 ^ 23 then (BitVec.ofNat 32 (b2n n * 2 ^ 31 + m2), false)
    else
      let be := (q2 + 150).toNat
      if 255 ≤ be then (BitVec.ofNat 32 (b2n n * 2 ^ 31 + 0x7F800000), true)
      else (BitVec.ofNat 32 (b2n n * 2 ^ 31 + be * 2 ^ 23 + (m2 - 2 ^ 23)), false)

/-- RNE to FP16 of an exact value; the Bool says that a finite value became infinite (R40). -/
def rne16 : Fv → W16 × Bool
  | .nan => (nan16, false)
  | .inf n => (BitVec.ofNat 16 (b2n n * 2 ^ 15 + 0x7C00), false)
  | .fin n m e =>
    let (m1, q1) := rneP 11 (some (-24)) m e
    let (m2, q2) := if m1 = 2 ^ 11 then (2 ^ 10, q1 + 1) else (m1, q1)
    if m2 < 2 ^ 10 then (BitVec.ofNat 16 (b2n n * 2 ^ 15 + m2), false)
    else
      let be := (q2 + 25).toNat
      if 31 ≤ be then (BitVec.ofNat 16 (b2n n * 2 ^ 15 + 0x7C00), true)
      else (BitVec.ofNat 16 (b2n n * 2 ^ 15 + be * 2 ^ 10 + (m2 - 2 ^ 10)), false)

/-- r40: RNE to a 40-bit significand with unbounded exponent (R31, R91). -/
def r40 : Fv → Fv
  | .fin n m e => if m = 0 then .fin n 0 e else let (m1, q) := rneP 40 none m e; .fin n m1 q
  | x => x

/-- Exact sum under the IEEE rules for special values and signs of zero (RNE: an exact zero sum is +0 unless both are -0). -/
def Fv.add : Fv → Fv → Fv
  | .nan, _ => .nan
  | _, .nan => .nan
  | .inf a, .inf b => if a = b then .inf a else .nan
  | .inf a, _ => .inf a
  | _, .inf b => .inf b
  | .fin a m e, .fin b k f =>
    Fv.ofDy (a && b && decide (m = 0) && decide (k = 0)) ((Fv.fin a m e).dy.add (Fv.fin b k f).dy)

/-- Exact product under the IEEE rules. -/
def Fv.mul : Fv → Fv → Fv
  | .nan, _ => .nan
  | _, .nan => .nan
  | .inf a, .inf b => .inf (a != b)
  | .inf a, .fin b m _ => if m = 0 then .nan else .inf (a != b)
  | .fin a m _, .inf b => if m = 0 then .nan else .inf (a != b)
  | .fin a m e, .fin b k f => .fin (a != b) (m * k) (e + f)

/-- The sign of a number: true for a negative one and for -0. -/
def Fv.signBit : Fv → Bool
  | .nan => false
  | .inf n => n
  | .fin n _ _ => n

/-- Exact ordering `x < y` with -0 below +0 (R96, R158); false with a NaN. -/
def Fv.lt : Fv → Fv → Bool
  | .nan, _ => false
  | _, .nan => false
  | .inf a, .inf b => a && !b
  | .inf a, .fin _ _ _ => a
  | .fin _ _ _, .inf b => !b
  | .fin a m e, .fin b k f =>
    let d := ((Fv.fin a m e).dy.add (Fv.fin b k f).neg.dy).m
    if d = 0 then a && !b && decide (m = 0) else decide (d < 0)

/-- `x > 0`. -/
def Fv.pos : Fv → Bool
  | .inf n => !n
  | .fin n m _ => !n && decide (0 < m)
  | .nan => false

/-- max and min with -0 ordered below +0; a NaN operand gives NaN. -/
def Fv.max (x y : Fv) : Fv := if x.isNan || y.isNan then .nan else if Fv.lt x y then y else x
def Fv.min (x y : Fv) : Fv := if x.isNan || y.isNan then .nan else if Fv.lt y x then y else x

/-- Integer square root by digits, with fuel: the largest r with r * r ≤ n among r < 2^fuel. -/
def isqrt (n : Nat) : Nat → Nat → Nat
  | 0, r => r
  | k + 1, r => let c := r + 2 ^ k; isqrt n k (if c * c ≤ n then c else r)

/-- 1 / x, exact up to a sticky last bit far below every rounding point (R33). -/
def Fv.rcp : Fv → Fv
  | .nan => .nan
  | .inf n => .fin n 0 0
  | .fin n m e =>
    if m = 0 then .inf n
    else
      let k := bitLen m + 80
      .fin n (2 * (2 ^ k / m) + (if 2 ^ k % m = 0 then 0 else 1)) (-(k : Int) - 1 - e)

/-- The square root; -0 gives -0, a negative non-zero value NaN (R158). -/
def Fv.sqrt : Fv → Fv
  | .nan => .nan
  | .inf n => if n then .nan else .inf false
  | .fin n m e =>
    if m = 0 then .fin n 0 0
    else if n then .nan
    else
      let (m1, e1) := if e % 2 = 0 then (m, e) else (2 * m, e - 1)
      let w := m1 * 2 ^ 160
      let r := isqrt w (bitLen w / 2 + 1) 0
      .fin false (2 * r + (if r * r = w then 0 else 1)) ((e1 - 160) / 2 - 1)

/-- 1 / √x (R33: ±0 gives ±∞, a negative non-zero value and -∞ NaN). -/
def Fv.rsqrt : Fv → Fv
  | .nan => .nan
  | .inf n => if n then .nan else .fin false 0 0
  | .fin n m e =>
    if m = 0 then .inf n
    else if n then .nan
    else
      let (m1, e1) := if e % 2 = 0 then (m, e) else (2 * m, e - 1)
      let k := 2 * (bitLen m1 + 80)
      let r := isqrt (2 ^ k / m1) (k / 2 + 1) 0
      .fin false (2 * r + (if r * r * m1 = 2 ^ k then 0 else 1)) (-((k : Int) / 2) - 1 - e1 / 2)

/-- ln 2 with 320 fractional bits. -/
def ln2Fix : Nat :=
  0xb17217f7d1cf79abc9e3b39803f2f6af40f343267298b62d8a0d175b8baafa2be7b876206debac98

/-- Taylor terms of exp on fixed point with 320 fractional bits: sum of r^k / k! from term `k`, with fuel. -/
def expSeries (r : Int) : Nat → Nat → Int → Int
  | 0, _, term => term
  | fuel + 1, k, term => term + expSeries r fuel (k + 1) (term * r / (2 ^ 320 * (k + 1 : Nat)))

/-- exp, exact up to a sticky last bit about 2^-290 below the value, far finer than any FP32 result is close to a
rounding boundary (R33; assumption log 6). Arguments beyond ±256 are taken at ±256: the FP32 result is then the same. -/
def Fv.exp : Fv → Fv
  | .nan => .nan
  | .inf n => if n then .fin false 0 0 else .inf false
  | .fin n m e =>
    if m = 0 then Fv.one
    else
      let big := decide (256 < m * 2 ^ e.toNat / 2 ^ (-e).toNat)
      let x : Int := if big then 256 * 2 ^ 320 else (m * 2 ^ (e + 320).toNat / 2 ^ (-(e + 320)).toNat : Nat)
      let xs : Int := if n then -x else x
      let q : Int := xs / (ln2Fix : Int)
      let r : Int := xs - q * (ln2Fix : Int)
      let y : Int := expSeries r 90 0 (2 ^ 320)
      .fin false (2 * y.toNat + 1) (q - 321)

/-- atanh terms on fixed point with 320 fractional bits: sum of z^(2k+1) / (2k+1). -/
def atanhSeries (z2 : Nat) : Nat → Nat → Nat → Nat
  | 0, _, _ => 0
  | fuel + 1, k, p => p / (2 * k + 1) + atanhSeries z2 fuel (k + 1) (p * z2 / 2 ^ 320)

/-- log, exact up to a sticky last bit (R33: ±0 gives -∞, negative NaN; assumption log 6). -/
def Fv.log : Fv → Fv
  | .nan => .nan
  | .inf n => if n then .nan else .inf false
  | .fin n m e =>
    if m = 0 then .inf true
    else if n then .nan
    else
      let b := bitLen m
      let ex : Int := e + b - 1
      let mf : Nat := m * 2 ^ 320 / 2 ^ (b - 1)
      let z := (mf - 2 ^ 320) * 2 ^ 320 / (mf + 2 ^ 320)
      let v : Int := ex * (ln2Fix : Int) + (2 * atanhSeries (z * z / 2 ^ 320) 110 0 z : Nat)
      if ex = 0 ∧ m = 2 ^ (b - 1) then Fv.zero
      else if v < 0 then .fin true (2 * v.natAbs + 1) (-321) else .fin false (2 * v.natAbs + 1) (-321)

/-- A row-unit or engine operation's result: FP32 bits, with the overflow mark (R32, R40). -/
abbrev R32v := W32 × Bool

/-- Row-unit operations on FP32 values, each rounding once (R32, R33). -/
def fAdd (x y : W32) : R32v := rne32 ((dec32 x).add (dec32 y))
def fSub (x y : W32) : R32v := rne32 ((dec32 x).add (dec32 y).neg)
def fMul (x y : W32) : R32v := rne32 ((dec32 x).mul (dec32 y))
def fFma (x y z : W32) : R32v := rne32 (((dec32 x).mul (dec32 y)).add (dec32 z))
def fRcp (x : W32) : R32v := rne32 (dec32 x).rcp
def fRsqrt (x : W32) : R32v := rne32 (dec32 x).rsqrt
def fSqrt (x : W32) : R32v := rne32 (dec32 x).sqrt
def fExp (x : W32) : R32v := rne32 (dec32 x).exp
def fLog (x : W32) : R32v := rne32 (dec32 x).log
def fNeg (x : W32) : W32 := if (dec32 x).isNan then nan32 else x ^^^ 0x80000000#32
def fAbs (x : W32) : W32 := if (dec32 x).isNan then nan32 else x &&& 0x7FFFFFFF#32
def fMax (x y : W32) : W32 := (rne32 ((dec32 x).max (dec32 y))).1
def fMin (x y : W32) : W32 := (rne32 ((dec32 x).min (dec32 y))).1
def fGt (x y : W32) : Bool := Fv.lt (dec32 y) (dec32 x) && !((dec32 x).isZero && (dec32 y).isZero)
def isNan32 (x : W32) : Bool := (dec32 x).isNan
def isFin32 (x : W32) : Bool := (dec32 x).isFinite

/-- Widen FP16 exactly to FP32. -/
def widen (x : W16) : W32 := (rne32 (dec16 x)).1

/-- 2^k as FP32. -/
def pow2F (k : Int) : W32 := (rne32 (.fin false 1 k)).1

/-- A number of operations' overflow marks. -/
def ovfs (bs : List Bool) : Nat := (bs.filter id).length

/-- One level of the tree of R92: pairs added, an odd last value carried. -/
def treeLevel (addf : W32 → W32 → R32v) : List W32 → List W32 × Nat
  | x :: y :: rest =>
    let (v, o) := addf x y
    let (r, n) := treeLevel addf rest
    (v :: r, b2n o + n)
  | [x] => ([x], 0)
  | [] => ([], 0)

/-- tree(v) of R92, with fuel; an empty list gives +0. -/
def treeN : Nat → List W32 → W32 × Nat
  | 0, xs => (xs.headD 0#32, 0)
  | fuel + 1, xs =>
    if xs.length ≤ 1 then (xs.headD 0#32, 0)
    else
      let (ys, o) := treeLevel fAdd xs
      let (v, n) := treeN fuel ys
      (v, o + n)

/-- tree(v) of R92. -/
def tree (xs : List W32) : W32 × Nat := treeN (bitLen xs.length + 1) xs

/-- fold of R169: RNE32 additions in list order; the Nat counts overflows. -/
def foldSum : List W32 → W32 × Nat
  | [] => (0#32, 0)
  | x :: xs => xs.foldl (fun acc y => let (v, o) := fAdd acc.1 y; (v, acc.2 + b2n o)) (x, 0)

/-- Groups of eight folded in order, with fuel (R169's radix-8 tree). -/
def radix8 : Nat → List W32 → W32
  | 0, xs => xs.headD 0#32
  | fuel + 1, xs =>
    if xs.length ≤ 1 then xs.headD 0#32
    else radix8 fuel ((chunks 8 xs.length xs).map fun g => (foldSum g).1)

/-- The canonical value over slot sums (R169). -/
def canonicalSlots (sums : List W32) : W32 := radix8 8 sums

/-- A carried FP32 pair (R27): value s and residue t in units of ulp(s) * 2^-15. -/
structure Pair where
  s : W32 := 0#32
  t : W16 := 0#16
  deriving DecidableEq, Repr, Inhabited

/-- The exponent of ulp(s) for a finite s (R27). -/
def ulpExp (s : W32) : Int := (max 1 (bits s.toNat 30 23) : Nat) - (150 : Int)

/-- The residue's value (R27). -/
def Pair.res (p : Pair) : Dy := { m := p.t.toInt, e := ulpExp p.s - 15 }

/-- Why an accumulation or a function produced a NaN (R36, R38): NANIN says that an operand was one. -/
inductive Produced (α : Type) where
  | ok (v : α) (ovf : Bool)
  | nan (nanin : Bool)
  deriving DecidableEq, Repr

/-- s' = RNE32(v) and t' = RNE(v - s') on the grid of s' (R28), with the zero rule of R30 given by `neg0`. -/
def pairOf (neg0 : Bool) (v : Dy) : Produced Pair :=
  let (s', o) := rne32 (Fv.ofDy neg0 v)
  match dec32 s' with
  | .fin n m e =>
    let d := v.add ((Fv.fin n m e).neg.dy)
    let g := ulpExp s' - 15
    let k := rneAt d.m.natAbs d.e g
    .ok { s := s', t := BitVec.ofInt 16 (if d.m < 0 then -(k : Int) else k) } o
  | _ => .ok { s := s', t := 0#16 } o

/-- One accumulator addition of an exact product (R28, R30). -/
def accAdd (a : Pair) (p : Fv) : Produced Pair :=
  match p, dec32 a.s with
  | .nan, x => .nan x.isNan
  | _, .nan => .nan true
  | .inf x, .inf y => if x = y then .ok { s := a.s, t := 0#16 } false else .nan false
  | .fin _ _ _, .inf _ => .ok { s := a.s, t := 0#16 } false
  | .inf x, .fin _ _ _ => .ok { s := (rne32 (.inf x)).1, t := 0#16 } false
  | .fin pn pm pe, .fin sn sm se =>
    let v := ((Fv.fin sn sm se).dy.add a.res).add (Fv.fin pn pm pe).dy
    pairOf (sn && decide (sm = 0) && decide (a.t = 0#16) && pn && decide (pm = 0)) v

/-- The drain value (R31); NaN in s traps where it is used. -/
def Pair.drain (a : Pair) : Fv :=
  match dec32 a.s with
  | .fin n m e => if m = 0 ∧ a.t = 0#16 then .fin n 0 0 else Fv.ofDy false ((Fv.fin n m e).dy.add a.res)
  | x => x

/-- v = (s + r) * c exactly, then s' and t' as R28 (R97). -/
def Pair.scale (a : Pair) (c : W32) : Produced Pair :=
  match (a.drain).mul (dec32 c) with
  | .nan => .nan (a.drain.isNan || isNan32 c)
  | .inf n => .ok { s := (rne32 (.inf n)).1, t := 0#16 } false
  | .fin n m e => pairOf n (Fv.fin n m e).dy

/-- hi(x) and lo(x) of an FP32 operand (R24); a part not taken is none. -/
def hiPart (x : W32) : Fv :=
  match dec32 x with
  | .fin n m e => .fin n (m / 4096 * 4096) e
  | v => v

def loPart (x : W32) : Option Fv :=
  match dec32 x with
  | .fin n m e => some (.fin n (m % 4096) e)
  | _ => none

/-- The largest FP16 magnitude not above m * 2^e and the spacing above it, as a multiple and an exponent (R34). -/
def fp16Floor (m : Nat) (e : Int) : Nat × Int :=
  let q := max ((bitLen m : Int) + e - 11) (-24)
  (if q ≤ e then m * 2 ^ (e - q).toNat else m / 2 ^ (q - e).toNat, q)

/-- The stochastic cast to FP16 (R34), u of R35. -/
def stochastic16 (x : W32) (u : W16) : W16 × Bool :=
  match dec32 x with
  | .fin n m e =>
    if m = 0 then rne16 (dec32 x)
    else
      let (lo, q) := fp16Floor m e
      if 65504 ≤ lo * 2 ^ q.toNat ∧ 0 ≤ q then rne16 (dec32 x)
      else
        let rem : Dy := ({ m := m, e := e } : Dy).add { m := -(lo : Int), e := q }
        -- δ * 2^16 > u, with δ = rem / 2^q
        let lhs : Dy := { m := rem.m, e := rem.e + 16 }
        let up := decide (0 < (lhs.add { m := -(u.toNat : Int), e := q }).m)
        rne16 (.fin n (if up then lo + 1 else lo) q)
  | v => rne16 v

end Sys2Proof.Machine
end

