-- ==== Sys2Proof/Machine/State.lean ====
section
/-! DEFINITION. The block's state, as plain data, and its value at reset (R13). INVENTORY.md lists every piece with
the rule that names it. -/

namespace Sys2Proof.Machine

/-- The state of an accumulator set (R57). -/
inductive SetState where
  | undefined | zeroed | live
  deriving DecidableEq, Repr, Inhabited

/-- An accumulator set (R57, R60, R120, R124): pairs by index (row * columns + column), unlisted pairs (+0, 0); the
checksum cells by row and by column (R64), none where a non-finite value entered. -/
structure AccSet where
  st     : SetState := .undefined
  wide   : Bool := false
  qsel   : Nat := 0
  tag    : TagRec := none
  cells  : Tab Pair := []
  chkRow : Tab (Option Dy) := []
  chkCol : Tab (Option Dy) := []
  deriving DecidableEq, Repr, Inhabited

/-- An attached prologue (R84, R85, R87): the statistics are latched by the PRO. -/
structure Prologue where
  row   : Bool
  fn    : Nat
  norm  : Nat
  mu    : List W32
  rstd  : List W32
  paddr : Nat
  layer : Nat
  deriving DecidableEq, Repr, Inhabited

/-- A send attached to an array (R99, R100): tiles counted from 0. -/
structure Attach where
  dkind : Nat
  dest  : Nat
  rtag  : Nat
  ord   : Nat
  count : Nat := 0
  deriving DecidableEq, Repr, Inhabited

/-- A feeder's codebook latch (R46); presence is its valid bit. -/
structure Latch where
  addr    : Nat
  c8      : Bool
  entries : List W16
  deriving DecidableEq, Repr, Inhabited

/-- One array of a core: its two sets, prologue, send, latches (column, row), activity level L and credit (R65), and the
cycles until a grant that admits it in its turn raises L to 1 (R66). -/
structure Arr where
  set0    : AccSet := {}
  set1    : AccSet := {}
  pro     : Option Prologue := none
  att     : Option Attach := none
  latchC  : Option Latch := none
  latchR  : Option Latch := none
  level   : Nat := 0
  credit  : Nat := 0
  turn   : Option Nat := none
  deriving DecidableEq, Repr, Inhabited

/-- A latched segment with its descriptor's fields (R115, R117). -/
structure SegEnt where
  tag    : Tag
  first  : Nat
  count  : Nat
  alpha  : W32
  keygen : Byte
  rankq  : Nat
  dir    : Nat
  deriving DecidableEq, Repr, Inhabited

/-- A latched segment table (R117). -/
structure SegTab where
  train : Bool
  ents  : List SegEnt
  deriving DecidableEq, Repr, Inhabited

/-- A selection (R118). -/
structure Sel where
  sidx    : Nat
  tax     : Nat
  rax     : Nat
  rowbase : Nat
  deriving DecidableEq, Repr, Inhabited

/-- A command that issued and is not complete (R69, R76, R101, R102, R155). -/
inductive FlightKind where
  /-- A SEND's tiles from number n0 on, each with its tile-store range. -/
  | send (n0 : Nat) (tiles : List (Nat × Nat))
  /-- An EPI's tiles through an attachment; tracked by the attachment, and no incomplete command (R101, R107). -/
  | epiSend (n0 : Nat) (tiles : List (Nat × Nat))
  /-- An accumulating command on a set of an array: fill cycles and passes still to come, and passes of a K step (R61, R62, R65). -/
  | acc (arr set fill passes per : Nat)
  /-- A posted receive, by its post number. -/
  | rcv (id : Nat)
  /-- A UPD, by its job number. -/
  | upd (id : Nat)
  /-- A queued SIGNAL. -/
  | signal (sem count : Nat)
  deriving DecidableEq, Repr, Inhabited

/-- An incomplete command: index, SYN unit (R107; 7 waits for all), and the byte ranges of the tile store (start and length) it
still reads and writes (R68), beside those of a send's tiles (R101). -/
structure Flight where
  idx  : Nat
  unit : Nat
  kind : FlightKind
  rd   : List (Nat × Nat) := []
  wr   : List (Nat × Nat) := []
  deriving DecidableEq, Repr, Inhabited

/-- A posted receive (R102, R104): the filled slots with their tags, and how many leading contributions are combined. -/
structure Rcv where
  id      : Nat
  idx     : Nat
  combine : Bool
  tfmt    : Nat
  rtag    : Nat
  ord     : Nat
  nt      : Nat
  addr    : Nat
  baddr   : Nat
  layer   : Nat
  got     : Tab TagRec := []
  done    : Nat := 0
  time    : W64 := 0#64
  deriving DecidableEq, Repr, Inhabited

/-- A tile store with its tag records: a granule listed is written (R109, R205). -/
structure TileStore where
  mem  : Memory := []
  gran : Tab TagRec := []
  deriving DecidableEq, Repr, Inhabited

/-- A GSQ contribution of an NRM whose item has not committed (R148, R149). -/
structure GsqPart where
  base  : Bool
  who   : Nat
  layer : Nat
  step  : W32
  v     : W32
  deriving DecidableEq, Repr, Inhabited

/-- A physical core (R67, R81): the ledger key of its item, the next command index, WAIT, the next send number and
post number, arrays, semaphores, incomplete commands, tile store, posted receives, segment table and selection,
and power state (R386). -/
structure Core where
  item   : Option Nat := none
  cmdIdx : Nat := 0
  wait   : Nat := 0
  sendN  : Nat := 0
  posts  : Nat := 0
  arrs   : Tab Arr := []
  sems   : Tab Nat := []
  flight : List Flight := []
  store  : TileStore := {}
  rcvs   : List Rcv := []
  seg    : Option SegTab := none
  sel    : Option Sel := none
  gsq    : List GsqPart := []
  power  : PState := .active
  /-- A context switch is in progress: issue has stopped (R294, R301). -/
  switching : Bool := false
  deriving DecidableEq, Repr, Inhabited

/-- Ledger entry states (R174). -/
inductive LState where
  | free | dispatched | running | finishing | replay
  deriving DecidableEq, Repr, Inhabited

/-- A ledger entry (R174), with the fields the spec derives from DESC kept decoded, and what the model keeps beside it:
the ring's bases at admission (R275), admission order and PASSED count (R295), the tags its SEG LOADs latched (R133),
ERA (R224), start time (R283) and the base fingerprint it names (R117). -/
structure Led where
  desc    : Entry
  lsn     : Nat
  st      : LState
  home    : Die
  replays : Nat := 0
  inst    : Inst
  cls     : Nat
  swapSeq : W32
  step    : W32
  ingen   : List (W32 × W32)
  pcore   : Option PCore
  lcore   : LCore
  sent    : Nat := 0
  ackPfx  : Nat := 0
  ackWin  : W64 := 0#64
  ring    : RingId
  subseq  : W32
  rsq     : W64
  rcq     : W64
  mgr     : Bool
  order   : Nat
  passed  : Nat := 0
  latched : List Tag := []
  era     : Nat := 0
  start   : W64 := 0#64
  /-- ns it ran before it was last switched out, or until it committed. -/
  ran     : Nat := 0
  basefp  : W64 := 0#64
  deriving DecidableEq, Repr, Inhabited

/-- An admitted ring entry that has not completed (R274). -/
structure Op where
  inst   : Inst
  ring   : RingId
  subseq : W32
  desc   : Entry
  rsq    : W64
  rcq    : W64
  mgr    : Bool
  order  : Nat
  /-- A WORK entry whose checks passed waits for its generations (R294). -/
  waiting : Bool := false
  /-- A MEM, ADAPTER or other operation waits for the device to finish its part (R136, R416, R243). -/
  parked  : Bool := false
  deriving DecidableEq, Repr, Inhabited

/-- An item in an eligible queue (R294, R295), with its context slot when it was switched out (R301). -/
structure Elig where
  op     : Op
  part   : Part
  cls    : Nat
  passed : Nat := 0
  slot   : Option Nat := none
  ledKey : Option Nat := none
  /-- A core is being switched out for it (R300). -/
  claim  : Bool := false
  deriving DecidableEq, Repr, Inhabited

/-- A completion not yet written (R283, R313). -/
structure Compl where
  inst    : Inst
  ring    : RingId
  subseq  : W32
  rsq     : W64
  rcq     : W64
  typ     : Nat
  status  : Nat
  value   : Nat := 0
  outcome : Nat := 0
  recd    : Bool := false
  intr    : Bool := false
  /-- The entry's order of admission. -/
  order   : Nat
  deriving DecidableEq, Repr, Inhabited

/-- A ring (R272 to R276, R292). -/
structure Ring where
  rsq     : W64 := 0#64
  rcfg    : W32 := 0x04200000#32
  rcq     : W64 := 0#64
  tail    : W32 := 0#32
  head    : W32 := 0#32
  err     : Bool := false
  /-- Completions written since the ring was enabled. -/
  written : W32 := 0#32
  /-- SUBSEQ of the next entry to be admitted. -/
  next    : W32 := 0#32
  outst   : Nat := 0
  /-- The order of the first entry admitted since the ring was enabled, and how many of earlier enables have not completed (R275). -/
  first   : Nat := 0
  older   : Nat := 0
  deriving DecidableEq, Repr, Inhabited

/-- Page kinds (R200). -/
inductive Kind where
  | free | zeroing | base | act | adstate | adgrad | stage | system | retired
  deriving DecidableEq, Repr, Inhabited

/-- What still uses a page: a stream, an accepted UPD, or an admitted operation, by handle, number and order (R206). -/
inductive PageUser where
  | stream (h : Nat)
  | job (id : Nat)
  | op (order : Nat)
  deriving DecidableEq, Repr, Inhabited

/-- A page record (R200), with a mark for a free request that waits for the transfers that used the page when it came (R206). -/
structure Page where
  kind    : Kind := .free
  inst    : Inst := 0
  part    : Part := 0
  tag     : Tag := 0#16
  owngen  : W32 := 0#32
  freeing : Bool := false
  users   : List PageUser := []
  deriving DecidableEq, Repr, Inhabited

/-- Adapter descriptor states and roles (R113). -/
inductive AState where
  | free | loading | resident | trainable | refused | evicting | retiring | restoring
  deriving DecidableEq, Repr, Inhabited

inductive ARole where
  | serve | nonowner | owner | buddy
  deriving DecidableEq, Repr, Inhabited

/-- An adapter descriptor (R112), with the run of pages each of its parts lies in and the copy a pending SWAP built. -/
structure Desc where
  st        : AState := .free
  inst      : Inst := 0
  role      : ARole := .serve
  pin       : Bool := false
  keygen    : Byte := 0#8
  rankq     : Nat := 0
  nproj     : Nat := 0
  alpha     : W32 := 0#32
  lastStep  : W32 := 0#32
  basefp    : W64 := 0#64
  dir       : Nat := 0
  grad      : Nat := 0
  state     : Nat := 0
  peerctx   : W16 := 0#16
  swapSeq   : W32 := 0#32
  prevDir   : Nat := 0
  /-- Pages of the image and the gradient buffer, and of the master and moments. -/
  pages     : List Nat := []
  stPages   : List Nat := []
  prevPages : List Nat := []
  newDir    : Nat := 0
  newGrad   : Nat := 0
  newPages  : List Nat := []
  /-- Bytes of the image, and of a pending copy's. -/
  len       : Nat := 0
  newLen    : Nat := 0
  /-- The state LOADING leaves to (R113, R415). -/
  target    : AState := .free
  /-- Its gradient buffer holds an unreduced contribution (R133). -/
  gradDirty : Bool := false
  deriving DecidableEq, Repr, Inhabited

/-- Key states (R318). -/
inductive KState where
  | absent | active | retiring | retired
  deriving DecidableEq, Repr, Inhabited

/-- A key table entry (R318), an instance key or the migration key. -/
structure KeyEnt where
  keygen  : Byte := 0#8
  st      : KState := .absent
  inst    : Inst := 0
  lastret : Byte := 0#8
  rettime : W64 := 0#64
  key     : BitVec 256 := 0#256
  /-- Transfers under the current generation are refused after an unwrap failure (R337 UNWRAP). -/
  refused : Bool := false
  deriving DecidableEq, Repr, Inhabited

/-- A norm table entry (R147). -/
structure Norm where
  gsq  : W32 := 0#32
  wsq  : W32 := 0#32
  usq  : W32 := 0#32
  upd  : Bool := false
  step : BitVec 30 := 0#30
  deriving DecidableEq, Repr, Inhabited

/-- The outcome of a step (R141, R145, R155). -/
inductive Outcome3 where
  | pending | held | applied | suppressed | discarded
  deriving DecidableEq, Repr, Inhabited

/-- What a loss-scale context remembers of a step (R141, R143, R251). -/
structure StepRec where
  step    : W32 := 0#32
  outcome : Outcome3 := .pending
  reduced : Bool := false
  loss    : Option W32 := none
  gsum    : Option W32 := none
  nf      : Nat := 0
  /-- Cause of a hold (R144, R145). -/
  cause   : Nat := 0
  /-- TN_CTL as the step's decision read it (R146, R162). -/
  ctl     : Nat := 0
  /-- A train item of the step has been dispatched. -/
  begun   : Bool := false
  /-- A base swap within the step refuses the items of it that remain, and its update does not run (R137). -/
  refused : Bool := false
  /-- Its update was lost with accepted tiles of an item: no update of it runs here until the runtime redoes it (R181). -/
  lost    : Bool := false
  /-- The closing header's sample of the local flag has been taken (R140). -/
  sampled : Bool := false
  /-- EXP of the step, recorded at its decision (R141, R148, R158). -/
  exp     : Int := 0
  deriving DecidableEq, Repr, Inhabited

/-- A loss-scale context beside its registers (R139): the steps it still keeps, the closing reductions that completed and wait
for the decision, with their OR (R140, R141), and the scale block's published generation (R277). -/
structure LsCtx where
  recs   : List StepRec := []
  closed : List (W32 × Bool) := []
  gen    : W32 := 0#32
  deriving DecidableEq, Repr, Inhabited

/-- The stages of an accepted UPD (R154 to R156). -/
inductive UpdStage where
  | waiting | ran | trapped
  deriving DecidableEq, Repr, Inhabited

/-- An accepted UPD (R154): what the engine read at acceptance, and its sums once it ran (R159). -/
structure UpdJob where
  id     : Nat
  led    : Nat
  core   : PCore
  idx    : Nat
  base   : Bool
  tag    : Tag
  inst   : Inst
  part   : Part
  layer  : Nat
  step   : W32
  block  : BitVec 512
  consts : List W32
  prog   : List W32
  stage  : UpdStage := .waiting
  wsq    : W32 := 0#32
  usq    : W32 := 0#32
  /-- The engine that ran it. -/
  eng    : Nat := 0
  deriving DecidableEq, Repr, Inhabited

/-- A UPD of a step that ran, kept for the digest, the mirror and the Cast export (R184, R185, R252). -/
structure RanUpd where
  base  : Bool := false
  part  : Part := 0
  tag   : Tag
  step  : W32
  tid   : Nat
  layer : Nat
  block : BitVec 512
  deriving DecidableEq, Repr, Inhabited

/-- An adapter's part in a step's stage 12 (R21, R185): owner or buddy, the own digest, and whether it ended. -/
structure Stage12 where
  part     : Part
  step     : W32
  tag      : Tag
  own      : Option W64 := none
  done     : Bool := false
  mismatch : Bool := false
  /-- A new buddy is being built: items that load the adapter wait at dispatch (R259). -/
  rebuild  : Bool := false
  deriving DecidableEq, Repr, Inhabited

/-- A peer context (R230). -/
structure Peer where
  remmod : BitVec 19 := 0#19
  st     : Nat := 0
  inst   : Inst := 0
  group  : Part := 0
  cls    : Bool := false
  remctx : W16 := 0#16
  epoch  : W32 := 0#32
  deriving DecidableEq, Repr, Inhabited

/-- A shard of a retained tile (R232): attempts after the first transmission, route, time of the last transmission, and
whether it has left at all (not so while the tile has been held since it was ready, R237). -/
structure Shard where
  attempts : Nat := 0
  route    : Nat := 0
  last     : W64 := 0#64
  started  : Bool := true
  deriving DecidableEq, Repr, Inhabited

/-- A tile a core sent and whose acknowledgement is outstanding (R101, R103, R232). -/
structure Sent where
  led    : Nat
  core   : PCore
  n      : Nat
  era    : Nat
  dkind  : Nat
  dest   : Nat
  msg    : TileMsg
  shards : List Shard
  time   : W64
  /-- Key generation it is sealed under, 0 for a clear tile, and whether it still waits for ACKPFX (R176). -/
  keygen : Byte := 0#8
  waits  : Bool := false
  /-- When a REPORT last refused it NOTPOSTED, BADCTX or EPOCH, until it is sent again (R232). -/
  refused : Option W64 := none
  deriving DecidableEq, Repr

/-- An incomplete tile of an assembly buffer (R232): the header of its shards and the payloads that arrived. -/
structure Asm where
  quad  : Quad
  /-- The peer context it came through, none for an engine's tile. -/
  ctx   : Option Nat := none
  hdr   : Nat
  got   : Tab (List Byte)
  sealB : List Byte := []
  first : W64
  reqs  : Nat := 0
  deriving DecidableEq, Repr, Inhabited

/-- A tile accepted by a receiver (R179): its source and when it was accepted. -/
structure Acc where
  srcMod : BitVec 19
  home   : BitVec 3
  engine : Bool
  seq    : BitVec 48
  inst   : Inst
  time   : W64
  deriving DecidableEq, Repr, Inhabited

/-- A journalled tile (R180), the ledger key of the receiving item, the die that holds it, and the number of the posted
receive that took it. -/
structure JTile where
  led  : Nat
  die  : Nat
  post : Nat
  msg  : TileMsg
  deriving DecidableEq, Repr

/-- Stream states (R243). -/
inductive SState where
  | free | open_ | active | done | aborted
  deriving DecidableEq, Repr, Inhabited

/-- A collective stream (R243): the entry's fields, the operation that opened it, contributions (by position *
2^16 + tile), the children folded into nodes, node values, gathered elements, the node header, and what has
been sent (R245 to R250). -/
structure Stream where
  st      : SState := .free
  op      : Nat := 0
  group   : Part := 0
  inst    : Inst := 0
  cls     : Bool := false
  tagv    : Bool := false
  close   : Bool := false
  loss    : Bool := false
  keygen  : Byte := 0#8
  tag     : Tag := 0#16
  layer   : Nat := 0
  norm    : Bool := false
  step    : W32 := 0#32
  e       : Nat := 0
  nlocal  : Nat := 0
  root    : Nat := 0
  src     : Nat := 0
  result  : Nat := 0
  epoch   : W32 := 0#32
  opener  : Option Op := none
  contrib : Tab (List W32) := []
  /-- Child values that arrived: key (lvl, node, child, element). -/
  kids    : List ((Nat × Nat × Nat × Nat) × W32) := []
  /-- Node values: key (lvl, node, element). -/
  nodes   : List ((Nat × Nat × Nat) × W32) := []
  /-- Gathered results by element. -/
  vals    : Tab W32 := []
  ovf     : Bool := false
  /-- The module has sampled its local flag for the headers it sends (R251). -/
  headerOut : Bool := false
  /-- Headers taken, by level, source and destination slot. -/
  heard   : List (Nat × Nat × Nat) := []
  /-- Tiles and headers sent: transfer (phase, level, source and destination slot) and tile number plus one, 0 the header. -/
  sentTo  : List ((Nat × Nat × Nat × Nat) × Nat) := []
  /-- Tiles taken from the fabric, by their sender's module, engine and SEQ (R103), each header with its level and slots. -/
  came    : List ((Nat × Nat × Nat) × Option (Nat × Nat × Nat)) := []
  /-- Tiles of data taken: transfer and tile number. -/
  took    : List ((Nat × Nat × Nat × Nat) × Nat) := []
  deriving DecidableEq, Repr, Inhabited

/-- Group states (R263). -/
inductive GState where
  | unformed | stable | changing | resetting | formfail | noquorum
  deriving DecidableEq, Repr, Inhabited

/-- A group's membership protocol (R257, R258): who suspects whom, who voted, when it changed. -/
structure Grp where
  st       : GState := .unformed
  suspects : List (Nat × List Nat) := []
  voted    : List Nat := []
  coord    : Nat := 0
  since    : W64 := 0#64
  /-- When the change began (R263 LASTMS). -/
  start    : W64 := 0#64
  resetReq : Bool := false
  /-- The barrier of a formation or a reset (R241, R254): an exchange of headers on the small path, under no handle. -/
  bar      : Stream := {}
  /-- The newest epoch above the group's own that a packet has signalled (R237), 0 for none. -/
  ahead    : W32 := 0#32
  deriving DecidableEq, Repr, Inhabited

/-- Per-instance control beside its registers (R286, R291, R312 to R314). -/
structure InstX where
  stopped  : Bool := false
  quiescing : Bool := false
  freezing : Bool := false
  /-- The quadrant of a compute-die roll that a freeze waits for (R378). -/
  behind   : Option Nat := none
  commitQ  : Bool := false
  staged   : List (Nat × W64) := []
  deferred : List Compl := []
  notices  : List (Byte × W32) := []
  /-- Pages that a tenant removal zeroes (R322). -/
  removing : List Nat := []
  saving   : Bool := false
  deriving DecidableEq, Repr, Inhabited

/-- A base copy (R280, R137): fingerprint and pages. -/
structure BaseCopy where
  fp    : W64
  pages : List Nat
  len   : Nat
  deriving DecidableEq, Repr, Inhabited

/-- Per-partition control beside its registers (R123, R136, R137). -/
structure PartX where
  frozen  : Bool := false
  cur     : Option BaseCopy := none
  built   : Option BaseCopy := none
  prev    : Option BaseCopy := none
  /-- A copy whose BROADCAST stream has not delivered yet (R280). -/
  coming  : Option BaseCopy := none
  /-- Swap sequence at which `cur` became current. -/
  curSeq  : W32 := 0#32
  /-- SWAP operations that await the boundary: adapters by tag, none for the base. -/
  swaps   : List (TagRec × Op) := []
  key     : Option (BitVec 256) := none
  deriving DecidableEq, Repr, Inhabited

/-- A saved context (R301, R303). -/
structure Ctx where
  core : Core
  led  : Nat
  lsn  : Nat
  home : Die
  deriving DecidableEq, Repr, Inhabited

/-- What a migration image carries (R291), beside the bytes written to host memory: the partition's shape and base,
ring registers, generation table, entries, contexts, pages with their contents, and adapter descriptors. -/
structure Image where
  len    : Nat
  /-- Orders of admission in it are below this. -/
  orders : Nat
  cores0 : Nat
  cores1 : Nat
  fp     : W64
  rings  : Tab Ring
  gens   : Tab W32
  ops    : List Op
  elig   : List Elig
  leds   : Tab Led
  ctxs   : List Ctx
  pages  : Tab Page
  data   : Memory
  descs  : Tab Desc
  deriving DecidableEq, Repr, Inhabited

/-- A pending escalation key (R339): class, scope, level. -/
structure EscKey where
  cls   : Nat
  scope : Nat
  level : Nat
  unit  : Nat := 0
  die   : Nat := 0
  /-- When the fault was taken, and the ledger entries whose replay its action still waits for (R337, R342). -/
  since : W64 := 0#64
  waits : List Nat := []
  deriving DecidableEq, Repr, Inhabited

/-- Armature session (R360, R361, R363 SUBSCRIBE). -/
structure Session where
  role     : Role
  level    : Nat := 8
  interval : Nat := 0
  evSeq    : Nat := 0
  deriving DecidableEq, Repr

/-- Procedure states (R363 PROCSTAT). -/
inductive ProcState where
  | queued | running | done | abandoned
  deriving DecidableEq, Repr, Inhabited

/-- A live procedure (R370): its kind (0 image, 1 memory, 2 lane, 3 core) and the resource it acts on (R378). -/
structure Proc where
  num    : Nat
  kind   : Nat
  res    : Nat
  st     : ProcState
  step   : Nat := 0
  start  : W64 := 0#64
  /-- When the current step ends, once that is known. -/
  finish : Option W64 := none
  /-- FUSESVN of IMGACT; the mode of PCTRAIN. -/
  arg    : Nat := 0
  deriving DecidableEq, Repr, Inhabited

/-- An image slot of the SPI NOR (R369). -/
structure Img where
  bytes   : Memory := []
  erased  : Bool := true
  version : W32 := 0#32
  valid   : Bool := false
  deriving DecidableEq, Repr, Inhabited

/-- A key journal slot (R324). -/
structure JSlot where
  bodyOk   : Bool := false
  gen      : W32 := 0#32
  commitOk : Bool := false
  cgen     : W32 := 0#32
  sealKey  : BitVec 256 := 0#256
  deriving DecidableEq, Repr, Inhabited

/-- The Plinth (R355, R360 to R379): the Plinth reset domain and the SPI NOR. -/
structure Plinth where
  up        : Bool := false
  svc       : Svc := .startup
  sessions  : Tab Session := []
  anchors   : Tab (List Byte) := []
  log       : List W128 := []
  logBase   : Nat := 0
  gap       : Bool := false
  logTail   : List W128 := []
  img       : Tab Img := []
  active    : Tab Nat := []
  svnMin    : Tab Nat := []
  jslot0    : JSlot := { bodyOk := true, commitOk := true }
  jslot1    : JSlot := {}
  jsel      : Option Bool := none
  procs     : List Proc := []
  procNum   : Nat := 0
  macsec    : Tab (W64 × W64 × BitVec 256 × Bool) := []
  sensors   : List Sensor := []
  ipGlobal  : Option W64 := none
  era       : Tab Nat := []
  engSeq    : Tab Nat := []
  /-- The Plinth reboots (R374): the messages logged when it left. -/
  away      : Option Nat := none
  deriving DecidableEq, Repr

/-- A page that a waiting allocation's own evictions free (R203), with the entry it waits for. -/
structure Resv where
  page   : Nat
  inst   : Inst
  ring   : RingId
  order  : Nat
  deriving DecidableEq, Repr, Inhabited

/-- The input-power limiter (R390): since when the input is above INPUT, and when the last excursion ended. -/
structure Limiter where
  since : Option W64 := none
  last  : Option W64 := none
  c16   : Bool := false
  c24   : Bool := false
  tdp   : Bool := false
  deriving DecidableEq, Repr, Inhabited

/-- A pseudo-channel out of service (R344): its index stack * 64 + pc, its 512 pages, and whether the copy is done. -/
structure Retired where
  pc    : Nat
  pages : List Nat
  done  : Bool := false
  deriving DecidableEq, Repr, Inhabited

/-- What the block drives at its interfaces, in order: the model's own record (assumption log 7). -/
inductive Out where
  | msix (fn : Fn) (vec : Nat)
  | tile (dkind dest : Nat) (t : TileMsg)
  | tileAck (t : BitVec 19 × BitVec 3 × Bool × BitVec 48) (code : Nat)
  | packet (port : Nat) (bytes : List Byte)
  /-- A frame on a rail (R217), to a destination MAC. -/
  | frame (r : Nat) (mac : W64) (f : RailFrame)
  /-- A header tile of a group's barrier under no handle (R241, R254), to a module. -/
  | header (g : Nat) (dst : Nat) (bytes : List Byte)
  | verdict (p : Nat) (step : W32) (vals : List (Nat × W32))
  /-- A mirror sealed under a generation of the adapter key (R128, R185). -/
  | mirror (tag : Tag) (keygen : Byte) (bytes : List Byte)
  | digest (tag : Tag) (v : W64)
  | restoreAsk (tag : Tag)
  | unchanged (tag : Tag) (gen : W32)
  | refresh (tag : Tag) (gen : W32)
  | spdm (fn : Fn) (bytes : List Byte)
  | ec (sess : Nat) (cmd : Nat) (id : W32) (status : Nat) (payload : List Byte)
  | ecEvent (sess : Nat) (cmd : Nat) (seq : Nat) (payload : List Byte)
  | ecClose (sess : Nat)
  | mctp (bytes : List Byte)
  | net (bytes : List Byte)
  | readData (fn : Fn) (bytes : List Byte)
  | alert (low : Bool)
  deriving DecidableEq, Repr

/-- Faults of a step: none of the block's commands ends in one (NOTES.md, Stops). The constructor is raised by no
meaning; were one to raise it, the run would stop there, which is safe. -/
inductive Fault where
  /-- Raised by nothing. Safe. -/
  | none_
  deriving DecidableEq, Repr

/-- Refusals of a step. -/
inductive Refusal where
  /-- A command whose meaning is not written yet: raised by exec's arm of that name only. Safe. -/
  | notModelled (mnemonic : String)
  deriving DecidableEq, Repr

/-- Errors that a pseudo-channel records (R344): uncorrectable ones since start-up, when the corrected ones of the last second came, and
whether it has reached its threshold. -/
structure PcErr where
  ue    : Nat := 0
  ce    : List W64 := []
  spent : Bool := false
  deriving DecidableEq, Repr, Inhabited

/-- The block. -/
structure State where
  /-- Commands that are waiting, first in, first out. -/
  pending  : List Instr := []
  /-- The timebase (R382). -/
  time     : W64 := 0#64
  /-- BAR0 registers of the PF by offset, unlisted at their reset value (R9, R13). -/
  regs     : Tab W64 := []
  /-- Pending low halves and latched high halves by function * 2^32 + register offset (R12). -/
  lowPend  : Tab W32 := []
  hiLatch  : Tab W32 := []
  /-- Pins (R406), true for high; the rails; BAR0 reachable (R409). -/
  perstN   : Bool := false
  pwrWarnN : Bool := true
  modPwrgd : Bool := false
  alertN   : Bool := true
  rails    : Bool := false
  /-- The 54 V input is in range and the inlet cool (R408, R412). -/
  inputIn  : Bool := false
  barUp    : Bool := false
  halted   : Bool := false
  /-- Draw counters of the free values. -/
  draws    : Nat := 0
  /-- Device memory and host memory (R188). -/
  dev      : Memory := []
  host     : Memory := []
  pages    : Tab Page := []
  /-- Pages claimed per table base register, and at 2^32 + i for instance i (R414). -/
  claims   : Tab (List Nat) := []
  resv     : List Resv := []
  heldBase : Tab W64 := []
  poison   : List Nat := []
  retired  : List Retired := []
  /-- By pseudo-channel, stack * 64 + pc (R344). -/
  pcErrs   : Tab PcErr := []
  /-- Cores by physical index, at 144 + a ledger key what an item that reached END left behind (R295), and per-die state. -/
  cores    : Tab Core := []
  scratch  : Tab TileStore := []
  journal  : List JTile := []
  accepted : Tab (List Acc) := []
  led      : Tab Led := []
  lsn      : Tab Nat := []
  fenced   : List PCore := []
  diesOut  : List Die := []
  dieNap   : List Die := []
  ctx      : Tab Ctx := []
  /-- What the migration images in host memory carry, this module's and others' (R291; assumption log 97); a SAVE lists its own by the
  address it writes to. -/
  images   : Tab Image := []
  /-- Queue manager and dispatchers. -/
  rings    : Tab Ring := []
  ops      : List Op := []
  orders   : Nat := 0
  elig     : List Elig := []
  gens     : Tab W32 := []
  wcGen    : Tab W32 := []
  vtClass  : Tab Nat := []
  vtPart   : Tab Nat := []
  insts    : Tab InstX := []
  parts    : Tab PartX := []
  mbUp     : Tab W64 := []
  mbDown   : Tab W64 := []
  mbUpOwn  : Tab W16 := []
  mbDownOwn : Tab W16 := []
  mbUpDrop : Tab Nat := []
  mbDownDrop : Tab Nat := []
  /-- Adapters, keys, translation. -/
  descs    : Tab Desc := []
  ktab     : Tab KeyEnt := []
  ikeys    : Tab KeyEnt := []
  migKey   : KeyEnt := {}
  kcache   : Tab Byte := []
  sysKey   : BitVec 256 := 0#256
  tableKey : BitVec 256 := 0#256
  linkKeys : Tab (BitVec 256) := []
  xlat     : Tab W64 := []
  spdm     : Tab (BitVec 384) := []
  sealCert : BitVec 384 := 0#384
  /-- Keys of the IDE streams, by function (R265). -/
  ideKeys  : Tab (BitVec 256) := []
  /-- Sealed mode ends once every bound instance has been removed (R329). -/
  unsealing : Bool := false
  /-- Training. -/
  ls       : Tab LsCtx := []
  norms    : Tab Norm := []
  bnorms   : Tab Norm := []
  /-- GSQ of a base shard by the slot it belongs to (R143, R167): partition * 2^20 + slot, then * 4096 + layer. -/
  slotGsq  : Tab Norm := []
  updLog   : List (Nat × Nat × Nat) := []
  jobs     : List UpdJob := []
  jobNum   : Nat := 0
  ran      : List RanUpd := []
  stage12  : List Stage12 := []
  mirrors  : Tab (Mirror × W64) := []
  /-- Refreshes of a working copy that wait for eval items on the older generation (R164): the step, and the new copy where
  it changes. -/
  refreshes : Tab (W32 × Option (List Byte)) := []
  /-- Digest mismatches that the manager has not resolved (R356): the step, the own digest and the partner's. -/
  held     : List (Tag × W32 × W64 × W64) := []
  /-- Ports enabled before MEMDONE whose wait has not ended (R410). -/
  portWait : List Port := []
  ueMap    : Tab Nat := []
  /-- Fabric and collectives. -/
  peers    : Tab Peer := []
  sent     : List Sent := []
  asm      : List Asm := []
  history  : Tab (List (List Byte)) := []
  pnSeen   : Tab Nat := []
  streams  : Tab Stream := []
  grps     : Tab Grp := []
  /-- Faults. -/
  esc      : List EscKey := []
  /-- Power and trace. -/
  pw       : Limiter := {}
  clkHot   : List Nat := []
  /-- Start arbiters (R66): per die, the physical core granted last and when; the last release of a die whose arrays all stood
  at L = 0 (R391). -/
  grants   : Tab (Nat × W64) := []
  released : Option W64 := none
  trFifo   : Tab (List W128) := []
  trDrop   : Tab Nat := []
  trBuf    : Tab (List W128) := []
  trCopy   : List W128 := []
  /-- Where in host memory the copy in progress goes (R397). -/
  trTo     : Nat := 0
  /-- The size of a function's BAR4 by its logarithm, 36 where not listed: configuration space sets it (R267; assumption log 168). -/
  bar4Log  : Tab Nat := []
  plinth   : Plinth := {}
  /-- What the block drove outward, oldest first. -/
  out      : List Out := []
  deriving DecidableEq, Repr

/-- Cold power-up: every register at its reset value, no supply seen by the Plinth yet (R13, R408; assumption log 8). -/
def State.reset : State := {}

end Sys2Proof.Machine
end

