-- ==== Sys2Proof/Machine/Regs.lean ====
section
/-! DEFINITION. The registers of the PF's BAR0 (R4, R9, R12, R13, R268): the register tables of the spec row by row,
and reading and writing a field. A register is listed in `State.regs` once it has been written since its reset. -/

namespace Sys2Proof.Machine

/-- Access codes (R9). -/
inductive Acc9 where
  | ro | rw | w1c | w1s | rwo | lck
  deriving DecidableEq, Repr

/-- A field: bits [hi:lo], access code, reset value. Bits of no field are reserved and read zero (R7). -/
structure Fld where
  hi  : Nat
  lo  : Nat
  acc : Acc9
  rst : Nat

/-- A row of the register tables: `count` registers from `base`, `stride` apart, of 64 bits or of 32. -/
structure RegRow where
  base   : Nat
  stride : Nat
  count  : Nat
  wide   : Bool
  flds   : List Fld

/-- Block GL (R413): GL_IDENT GL_SERIAL GL_STATUS GL_TIMES. -/
def glRows : List RegRow := [
  ⟨0x000000, 0x8, 1, false, [⟨31, 16, .ro, 0x4d25⟩, ⟨15, 8, .ro, 0xa1⟩]⟩,
  ⟨0x000008, 0x8, 1, true, [⟨63, 0, .ro, 0⟩]⟩,
  ⟨0x000010, 0x8, 1, false, [⟨31, 31, .ro, 0⟩, ⟨30, 30, .ro, 0⟩, ⟨29, 29, .w1c, 0⟩, ⟨15, 15, .ro, 0⟩, ⟨14, 14, .ro, 0⟩, ⟨13, 13, .ro, 0⟩, ⟨12, 12, .ro, 0⟩, ⟨11, 0, .ro, 0⟩]⟩,
  ⟨0x000018, 0x8, 1, true, [⟨63, 32, .ro, 0⟩, ⟨31, 0, .ro, 0⟩]⟩
]

/-- Block QM (R292): QM_RSEL QM_INSTCTL QM_INSTSTAT QM_DIRTYBASE QM_DIRTYCTL QM_MIGADDR QM_AP. -/
def qmRows : List RegRow := [
  ⟨0x100000, 0x8, 1, false, [⟨19, 16, .rw, 0⟩, ⟨13, 0, .rw, 0⟩]⟩,
  ⟨0x101000, 0x40, 16, false, [⟨6, 6, .w1s, 0⟩, ⟨5, 5, .w1s, 0⟩, ⟨4, 4, .w1s, 0⟩, ⟨3, 3, .w1s, 0⟩, ⟨2, 2, .w1s, 0⟩, ⟨1, 1, .w1s, 0⟩, ⟨0, 0, .w1s, 0⟩]⟩,
  ⟨0x101008, 0x40, 16, false, [⟨31, 16, .rw, 0⟩, ⟨6, 6, .w1c, 0⟩, ⟨5, 5, .ro, 0⟩, ⟨4, 4, .ro, 0⟩, ⟨3, 3, .w1c, 0⟩, ⟨2, 2, .w1c, 0⟩, ⟨1, 1, .ro, 0⟩]⟩,
  ⟨0x101010, 0x40, 16, true, [⟨46, 12, .rw, 0⟩]⟩,
  ⟨0x101018, 0x40, 16, true, [⟨63, 16, .rw, 0⟩, ⟨4, 4, .w1c, 0⟩, ⟨3, 3, .w1c, 0⟩, ⟨2, 2, .ro, 0x1⟩, ⟨1, 1, .rw, 0⟩, ⟨0, 0, .rw, 0⟩]⟩,
  ⟨0x101020, 0x40, 16, true, [⟨46, 12, .rw, 0⟩]⟩,
  ⟨0x101028, 0x40, 16, true, [⟨39, 21, .lck, 0⟩]⟩
]

/-- Block SC (R187, R307): SC_CTXBASE SC_CTXSTAT SC_INSTCFG SC_REMAP SC_PCORES0 SC_PCORES1 SC_SHARE SC_PCTL SC_PSTAT SC_ACCTC[0] SC_ACCTC[1] SC_ACCTC[2] SC_ACCTC[3] SC_ACCTB[0] SC_ACCTB[1] SC_ACCTB[2] SC_ACCTB[3] SC_LEDGER_BASE SC_LEDGER_STAT SC_JOURNAL SC_DUPTAB SC_CHUNK. -/
def scRows : List RegRow := [
  ⟨0x200008, 0x8, 1, true, [⟨47, 31, .rwo, 0⟩]⟩,
  ⟨0x200010, 0x8, 1, true, [⟨63, 32, .rw, 0⟩, ⟨7, 0, .ro, 0⟩]⟩,
  ⟨0x200100, 0x8, 16, false, [⟨4, 4, .lck, 0⟩, ⟨3, 0, .lck, 0⟩]⟩,
  ⟨0x200400, 0x4, 128, false, [⟨7, 7, .ro, 0x1⟩, ⟨4, 0, .ro, 0⟩]⟩,
  ⟨0x201000, 0x80, 16, true, [⟨63, 0, .lck, 0⟩]⟩,
  ⟨0x201008, 0x80, 16, true, [⟨63, 0, .lck, 0⟩]⟩,
  ⟨0x201010, 0x80, 16, false, [⟨31, 24, .lck, 0x10⟩, ⟨23, 16, .lck, 0x8⟩, ⟨15, 8, .lck, 0x20⟩, ⟨7, 0, .lck, 0x80⟩]⟩,
  ⟨0x201018, 0x80, 16, false, [⟨27, 24, .lck, 0⟩, ⟨23, 16, .lck, 0x10⟩, ⟨15, 0, .lck, 0⟩]⟩,
  ⟨0x201020, 0x80, 16, false, [⟨31, 31, .ro, 0⟩, ⟨30, 30, .w1c, 0⟩, ⟨7, 0, .ro, 0⟩]⟩,
  ⟨0x201040, 0x80, 16, true, [⟨63, 0, .rw, 0⟩]⟩,
  ⟨0x201048, 0x80, 16, true, [⟨63, 0, .rw, 0⟩]⟩,
  ⟨0x201050, 0x80, 16, true, [⟨63, 0, .rw, 0⟩]⟩,
  ⟨0x201058, 0x80, 16, true, [⟨63, 0, .rw, 0⟩]⟩,
  ⟨0x201060, 0x80, 16, true, [⟨63, 0, .rw, 0⟩]⟩,
  ⟨0x201068, 0x80, 16, true, [⟨63, 0, .rw, 0⟩]⟩,
  ⟨0x201070, 0x80, 16, true, [⟨63, 0, .rw, 0⟩]⟩,
  ⟨0x201078, 0x80, 16, true, [⟨63, 0, .rw, 0⟩]⟩,
  ⟨0x208000, 0x8, 1, true, [⟨47, 23, .rwo, 0⟩]⟩,
  ⟨0x208100, 0x20, 8, false, [⟨31, 16, .rw, 0⟩, ⟨13, 0, .ro, 0⟩]⟩,
  ⟨0x208108, 0x20, 8, false, [⟨22, 16, .ro, 0⟩, ⟨6, 0, .lck, 0x10⟩]⟩,
  ⟨0x208110, 0x20, 8, false, [⟨31, 16, .rw, 0⟩, ⟨14, 0, .ro, 0⟩]⟩,
  ⟨0x208200, 0x8, 16, false, [⟨1, 0, .rw, 0⟩]⟩
]

/-- Block FC (R359): FC_CFG FC_STATUS FC_ACK FC_SDC FC_RETIRE FC_LATCHLO FC_LATCHHI FC_LSTAT FC_LOGLO FC_LOGHI. -/
def fcRows : List RegRow := [
  ⟨0x300000, 0x8, 1, false, [⟨31, 24, .rw, 0x3⟩, ⟨23, 16, .rw, 0x2⟩, ⟨15, 0, .rw, 0x40⟩]⟩,
  ⟨0x300008, 0x8, 1, true, [⟨63, 63, .w1c, 0⟩, ⟨62, 62, .ro, 0⟩, ⟨61, 59, .ro, 0⟩, ⟨47, 32, .ro, 0⟩, ⟨31, 0, .ro, 0⟩]⟩,
  ⟨0x300010, 0x8, 1, false, [⟨31, 31, .w1s, 0⟩, ⟨19, 16, .rw, 0⟩, ⟨15, 0, .rw, 0⟩]⟩,
  ⟨0x300018, 0x8, 1, true, [⟨63, 63, .w1s, 0⟩, ⟨62, 62, .ro, 0⟩, ⟨61, 59, .rw, 0⟩, ⟨58, 56, .ro, 0⟩, ⟨15, 0, .rw, 0⟩]⟩,
  ⟨0x300020, 0x8, 1, false, [⟨9, 0, .ro, 0⟩]⟩,
  ⟨0x300100, 0x20, 16, true, [⟨63, 0, .ro, 0⟩]⟩,
  ⟨0x300108, 0x20, 16, true, [⟨63, 0, .ro, 0⟩]⟩,
  ⟨0x300110, 0x20, 16, false, [⟨31, 31, .w1c, 0⟩, ⟨30, 30, .w1c, 0⟩, ⟨15, 0, .ro, 0⟩]⟩,
  ⟨0x310000, 0x10, 4096, true, [⟨63, 0, .ro, 0⟩]⟩,
  ⟨0x310008, 0x10, 4096, true, [⟨63, 0, .ro, 0⟩]⟩
]

/-- Block KSIS (R332): KS_KTAB_BASE KS_STATUS KS_JGEN IS_SEALCTL IS_EPOCH IS_RULECTL IS_XIDX IS_XVAL IS_VIOL IS_REMOVE KS_IKEY. -/
def ksisRows : List RegRow := [
  ⟨0x400000, 0x8, 1, true, [⟨47, 22, .rwo, 0⟩]⟩,
  ⟨0x400008, 0x8, 1, false, [⟨31, 31, .ro, 0⟩, ⟨30, 30, .ro, 0⟩, ⟨29, 29, .w1c, 0⟩, ⟨23, 16, .ro, 0⟩, ⟨15, 0, .rw, 0⟩]⟩,
  ⟨0x400010, 0x8, 1, false, [⟨31, 0, .ro, 0⟩]⟩,
  ⟨0x400018, 0x8, 1, false, [⟨31, 31, .ro, 0⟩, ⟨30, 30, .w1s, 0⟩, ⟨29, 29, .ro, 0⟩, ⟨15, 0, .ro, 0⟩]⟩,
  ⟨0x401000, 0x40, 16, false, [⟨15, 0, .ro, 0⟩]⟩,
  ⟨0x401008, 0x40, 16, false, [⟨31, 31, .w1s, 0⟩, ⟨30, 30, .ro, 0⟩, ⟨29, 29, .w1c, 0⟩, ⟨6, 0, .ro, 0⟩]⟩,
  ⟨0x401010, 0x40, 16, false, [⟨23, 0, .lck, 0⟩]⟩,
  ⟨0x401018, 0x40, 16, true, [⟨63, 0, .lck, 0⟩]⟩,
  ⟨0x401020, 0x40, 16, true, [⟨63, 63, .w1c, 0⟩, ⟨62, 62, .w1c, 0⟩, ⟨61, 59, .ro, 0⟩, ⟨47, 0, .ro, 0⟩]⟩,
  ⟨0x401028, 0x40, 16, false, [⟨31, 31, .w1s, 0⟩, ⟨29, 28, .ro, 0⟩]⟩,
  ⟨0x401030, 0x40, 16, false, [⟨15, 8, .ro, 0⟩, ⟨1, 0, .ro, 0⟩]⟩
]

/-- Block MT (R210): MT_SPLIT MT_PAGEREC MT_POOLSTAT MT_XFERSTAT MT_PFVIOL MT_QUOTA MT_USED MT_XFERCAP MT_EVENTS MT_PQUOTA MT_SCRATCH. -/
def mtRows : List RegRow := [
  ⟨0x500000, 0x8, 1, false, [⟨6, 0, .rwo, 0⟩]⟩,
  ⟨0x500008, 0x8, 1, true, [⟨47, 23, .rwo, 0⟩]⟩,
  ⟨0x500010, 0x8, 1, true, [⟨63, 63, .w1c, 0⟩, ⟨62, 62, .w1c, 0⟩, ⟨61, 61, .w1c, 0⟩, ⟨56, 38, .ro, 0x60000⟩, ⟨37, 19, .ro, 0⟩, ⟨18, 0, .ro, 0⟩]⟩,
  ⟨0x500018, 0x8, 1, true, [⟨48, 32, .rw, 0⟩, ⟨16, 0, .ro, 0⟩]⟩,
  ⟨0x500020, 0x8, 1, false, [⟨15, 0, .rw, 0⟩]⟩,
  ⟨0x501000, 0x20, 16, false, [⟨18, 0, .lck, 0⟩]⟩,
  ⟨0x501008, 0x20, 16, false, [⟨18, 0, .ro, 0⟩]⟩,
  ⟨0x501010, 0x20, 16, false, [⟨16, 0, .lck, 0x4000⟩]⟩,
  ⟨0x501018, 0x20, 16, false, [⟨31, 16, .rw, 0⟩, ⟨15, 0, .rw, 0⟩]⟩,
  ⟨0x501400, 0x10, 16, false, [⟨18, 0, .lck, 0⟩]⟩,
  ⟨0x501408, 0x10, 16, false, [⟨6, 0, .lck, 0⟩]⟩
]

/-- Block AD (R138): AD_DESC_BASE AD_MODCOUNT AD_HOTCAP AD_BASEFP AD_SWAPSTAT AD_QUOTA AD_COUNT AD_EVENTS. -/
def adRows : List RegRow := [
  ⟨0x600000, 0x8, 1, true, [⟨47, 22, .rwo, 0⟩]⟩,
  ⟨0x600008, 0x8, 1, false, [⟨28, 16, .ro, 0⟩, ⟨10, 0, .ro, 0⟩]⟩,
  ⟨0x600010, 0x8, 1, false, [⟨6, 0, .lck, 0x20⟩]⟩,
  ⟨0x601000, 0x40, 16, true, [⟨63, 0, .ro, 0⟩]⟩,
  ⟨0x601008, 0x40, 16, true, [⟨63, 32, .ro, 0⟩, ⟨31, 31, .ro, 0⟩]⟩,
  ⟨0x601010, 0x40, 16, false, [⟨28, 16, .lck, 0x1000⟩, ⟨10, 0, .lck, 0x400⟩]⟩,
  ⟨0x601018, 0x40, 16, false, [⟨28, 16, .ro, 0⟩, ⟨10, 0, .ro, 0⟩]⟩,
  ⟨0x601020, 0x40, 16, false, [⟨31, 16, .rw, 0⟩, ⟨15, 0, .rw, 0⟩]⟩
]

/-- Block LSTN (R39, R166): TN_NORM_BASE LS_CTL LS_STATE LS_START LS_BLOCK LS_OVFTAB LS_BNORM LS_COUNTS LS_UPDLOG TN_CTL TN_RATIO TN_EMA TN_LAST TN_HOLD TN_NFCOUNT TN_EVENTS TN_WARM LS_OUTCOMES TN_NANSTAT TN_NANREC0 TN_NANREC1 TN_NANREC2 TN_NANREC3. -/
def lstnRows : List RegRow := [
  ⟨0x700000, 0x8, 1, true, [⟨47, 32, .rwo, 0⟩]⟩,
  ⟨0x700400, 0x40, 16, false, [⟨31, 31, .rw, 0⟩, ⟨21, 16, .rw, 0xf⟩, ⟨15, 0, .rw, 0x7d0⟩]⟩,
  ⟨0x700408, 0x40, 16, true, [⟨63, 32, .ro, 0⟩, ⟨31, 26, .ro, 0⟩, ⟨25, 24, .ro, 0⟩, ⟨19, 19, .ro, 0⟩, ⟨18, 18, .w1c, 0⟩, ⟨17, 17, .w1c, 0⟩, ⟨15, 0, .ro, 0⟩]⟩,
  ⟨0x700410, 0x40, 16, false, [⟨31, 0, .rw, 0⟩]⟩,
  ⟨0x700418, 0x40, 16, true, [⟨47, 7, .rw, 0⟩]⟩,
  ⟨0x700420, 0x40, 16, true, [⟨47, 15, .rw, 0⟩]⟩,
  ⟨0x700428, 0x40, 16, true, [⟨47, 16, .rw, 0⟩]⟩,
  ⟨0x700430, 0x40, 16, true, [⟨63, 32, .rw, 0⟩, ⟨31, 0, .rw, 0⟩]⟩,
  ⟨0x700438, 0x40, 16, true, [⟨47, 22, .rw, 0⟩]⟩,
  ⟨0x700800, 0x40, 16, false, [⟨31, 31, .rw, 0⟩, ⟨30, 30, .rw, 0⟩, ⟨29, 29, .rw, 0⟩, ⟨28, 28, .rw, 0⟩, ⟨23, 20, .rw, 0x4⟩, ⟨19, 16, .rw, 0x4⟩, ⟨15, 0, .rw, 0x64⟩]⟩,
  ⟨0x700808, 0x40, 16, true, [⟨63, 32, .rw, 0x41200000⟩, ⟨31, 0, .rw, 0x40000000⟩]⟩,
  ⟨0x700810, 0x40, 16, true, [⟨63, 32, .ro, 0⟩, ⟨31, 0, .ro, 0⟩]⟩,
  ⟨0x700818, 0x40, 16, true, [⟨63, 32, .ro, 0⟩, ⟨31, 0, .ro, 0⟩]⟩,
  ⟨0x700820, 0x40, 16, true, [⟨63, 32, .ro, 0⟩, ⟨31, 31, .ro, 0⟩, ⟨30, 28, .ro, 0⟩, ⟨1, 1, .w1s, 0⟩, ⟨0, 0, .w1s, 0⟩]⟩,
  ⟨0x700828, 0x40, 16, true, [⟨63, 32, .rw, 0⟩, ⟨31, 0, .rw, 0⟩]⟩,
  ⟨0x700830, 0x40, 16, false, [⟨31, 16, .rw, 0⟩, ⟨15, 8, .rw, 0⟩, ⟨7, 0, .rw, 0⟩]⟩,
  ⟨0x700838, 0x40, 16, false, [⟨15, 0, .ro, 0⟩]⟩,
  ⟨0x700C00, 0x8, 16, true, [⟨63, 32, .rw, 0⟩, ⟨31, 0, .rw, 0⟩]⟩,
  ⟨0x701000, 0x40, 16, false, [⟨31, 31, .w1c, 0⟩, ⟨30, 30, .w1c, 0⟩, ⟨15, 0, .ro, 0⟩]⟩,
  ⟨0x701008, 0x40, 16, true, [⟨63, 0, .ro, 0⟩]⟩,
  ⟨0x701010, 0x40, 16, true, [⟨63, 0, .ro, 0⟩]⟩,
  ⟨0x701018, 0x40, 16, true, [⟨63, 0, .ro, 0⟩]⟩,
  ⟨0x701020, 0x40, 16, true, [⟨63, 0, .ro, 0⟩]⟩
]

/-- Block FB (R240): FB_MODID FB_UDP FB_IIDHI FB_PEERBASE FB_STAT FB_RETRY FB_PORTCTL FB_PORTSTAT FB_PORTERR FB_RAILPFX FB_RAILGW FB_GROUP. -/
def fbRows : List RegRow := [
  ⟨0x800000, 0x8, 1, false, [⟨18, 0, .rwo, 0⟩]⟩,
  ⟨0x800008, 0x8, 1, false, [⟨23, 16, .rw, 0⟩, ⟨15, 0, .rw, 0xc7a4⟩]⟩,
  ⟨0x800010, 0x8, 1, true, [⟨63, 19, .rw, 0⟩]⟩,
  ⟨0x800018, 0x8, 1, true, [⟨47, 20, .rwo, 0⟩]⟩,
  ⟨0x800020, 0x8, 1, true, [⟨63, 48, .rw, 0⟩, ⟨47, 32, .rw, 0⟩, ⟨31, 16, .rw, 0⟩, ⟨15, 0, .rw, 0⟩]⟩,
  ⟨0x800028, 0x8, 1, true, [⟨63, 32, .rw, 0⟩, ⟨31, 16, .rw, 0⟩, ⟨15, 0, .rw, 0⟩]⟩,
  ⟨0x801000, 0x20, 18, false, [⟨31, 31, .rw, 0⟩]⟩,
  ⟨0x801008, 0x20, 18, false, [⟨31, 31, .ro, 0⟩, ⟨30, 28, .ro, 0⟩, ⟨27, 24, .ro, 0⟩, ⟨15, 0, .rw, 0⟩]⟩,
  ⟨0x801010, 0x20, 18, true, [⟨63, 32, .rw, 0⟩, ⟨31, 0, .rw, 0⟩]⟩,
  ⟨0x801400, 0x20, 6, true, [⟨63, 0, .rw, 0⟩]⟩,
  ⟨0x801408, 0x20, 6, true, [⟨47, 0, .rw, 0⟩]⟩,
  ⟨0x801800, 0x20, 16, true, [⟨63, 32, .ro, 0⟩, ⟨31, 31, .ro, 0⟩, ⟨30, 30, .w1c, 0⟩, ⟨18, 0, .ro, 0⟩]⟩
]

/-- Block CE (R263): CE_STRBASE CE_GRPCFG CE_SLOTMAP CE_GRPSTAT CE_GRPCOORD CE_STAT CE_LOAD. -/
def ceRows : List RegRow := [
  ⟨0x900000, 0x8, 1, true, [⟨47, 18, .rwo, 0⟩]⟩,
  ⟨0x901000, 0x20, 16, true, [⟨63, 63, .w1s, 0⟩, ⟨62, 62, .w1s, 0⟩, ⟨47, 40, .rw, 0x32⟩, ⟨39, 32, .rw, 0xc8⟩, ⟨20, 0, .rw, 0⟩]⟩,
  ⟨0x901008, 0x20, 16, true, [⟨47, 22, .rw, 0⟩]⟩,
  ⟨0x901010, 0x20, 16, true, [⟨63, 60, .ro, 0⟩, ⟨55, 39, .ro, 0⟩, ⟨31, 16, .rw, 0⟩, ⟨15, 0, .ro, 0⟩]⟩,
  ⟨0x901018, 0x20, 16, false, [⟨18, 0, .ro, 0⟩]⟩,
  ⟨0x902000, 0x20, 4, true, [⟨63, 48, .rw, 0⟩, ⟨47, 32, .rw, 0⟩, ⟨31, 0, .rw, 0⟩]⟩,
  ⟨0x902008, 0x20, 4, false, [⟨10, 0, .ro, 0⟩]⟩
]

/-- Block CKPW (R399): PW_LIMIT PW_IDLE PW_STAT CK_DIE PW_CSTATE. -/
def ckpwRows : List RegRow := [
  ⟨0xA00000, 0x8, 1, true, [⟨63, 48, .rw, 0x79e⟩, ⟨47, 32, .rw, 0x708⟩, ⟨31, 16, .rw, 0x834⟩]⟩,
  ⟨0xA00008, 0x8, 1, false, [⟨31, 16, .rw, 0x64⟩, ⟨15, 0, .rw, 0x400⟩]⟩,
  ⟨0xA00010, 0x8, 1, true, [⟨63, 32, .rw, 0⟩, ⟨31, 31, .ro, 0⟩, ⟨30, 25, .ro, 0x20⟩, ⟨15, 0, .ro, 0⟩]⟩,
  ⟨0xA00100, 0x10, 8, false, [⟨31, 16, .ro, 0x4e2⟩, ⟨15, 0, .rw, 0x4e2⟩]⟩,
  ⟨0xA00200, 0x8, 8, true, [⟨63, 28, .ro, 0⟩, ⟨27, 26, .ro, 0⟩]⟩
]

/-- Block TR (R399): TR_CFG TR_DUMP TR_PTR. -/
def trRows : List RegRow := [
  ⟨0xB00000, 0x8, 1, false, [⟨31, 31, .lck, 0⟩, ⟨30, 30, .lck, 0x1⟩, ⟨29, 29, .lck, 0⟩, ⟨28, 28, .lck, 0x1⟩, ⟨3, 0, .lck, 0x2⟩]⟩,
  ⟨0xB00008, 0x8, 1, true, [⟨63, 12, .rw, 0⟩, ⟨11, 11, .w1s, 0⟩, ⟨10, 10, .ro, 0⟩, ⟨2, 0, .rw, 0⟩]⟩,
  ⟨0xB00100, 0x10, 8, true, [⟨63, 32, .rw, 0⟩, ⟨20, 20, .ro, 0⟩, ⟨19, 0, .ro, 0⟩]⟩
]

/-- Block CO (R81, R106): CO_SEQ_STATUS CO_ARR_STATUS CO_CHK_COUNT CO_KSTEPS CO_XFER_LIMIT CO_XFER_STATUS CO_DUP_COUNT. -/
def coRows : List RegRow := [
  ⟨0xC00000, 0x4000, 144, false, [⟨31, 31, .ro, 0⟩, ⟨30, 28, .ro, 0⟩, ⟨15, 0, .ro, 0⟩]⟩,
  ⟨0xC00008, 0x4000, 144, false, [⟨31, 24, .ro, 0⟩, ⟨23, 16, .ro, 0⟩, ⟨15, 8, .ro, 0⟩, ⟨7, 0, .ro, 0⟩]⟩,
  ⟨0xC00010, 0x4000, 144, false, [⟨15, 0, .rw, 0⟩]⟩,
  ⟨0xC00018, 0x4000, 144, true, [⟨63, 0, .ro, 0⟩]⟩,
  ⟨0xC00020, 0x4000, 144, false, [⟨23, 0, .rw, 0x2710⟩]⟩,
  ⟨0xC00028, 0x4000, 144, false, [⟨23, 16, .ro, 0⟩, ⟨15, 0, .ro, 0⟩]⟩,
  ⟨0xC00030, 0x4000, 144, false, [⟨15, 0, .rw, 0⟩]⟩
]

/-- The rows of the block that holds an offset (R268). -/
def blockRows (off : Nat) : List RegRow :=
  match off / 0x100000 with
  | 0 => glRows | 1 => qmRows | 2 => scRows | 3 => fcRows | 4 => ksisRows | 5 => mtRows | 6 => adRows
  | 7 => lstnRows | 8 => fbRows | 9 => ceRows | 10 => ckpwRows | 11 => trRows
  | n => if 12 ≤ n ∧ off < 0xE40000 then coRows else []

/-- The row that holds a register at exactly this offset, and its index. -/
def regRow (off : Nat) : Option (RegRow × Nat) :=
  ((blockRows off).filter fun r => decide (r.base ≤ off ∧ (off - r.base) % r.stride = 0 ∧ (off - r.base) / r.stride < r.count)).head?.map
    fun r => (r, (off - r.base) / r.stride)

/-- Named offsets. -/
def Reg.glIdent : Nat := 0x000000
def Reg.glSerial : Nat := 0x000008
def Reg.glStatus : Nat := 0x000010
def Reg.glTimes : Nat := 0x000018
def Reg.qmRsel : Nat := 0x100000
def Reg.qmInstctl (i : Nat) : Nat := 0x101000 + 0x40 * i
def Reg.qmInststat (i : Nat) : Nat := 0x101008 + 0x40 * i
def Reg.qmDirtybase (i : Nat) : Nat := 0x101010 + 0x40 * i
def Reg.qmDirtyctl (i : Nat) : Nat := 0x101018 + 0x40 * i
def Reg.qmMigaddr (i : Nat) : Nat := 0x101020 + 0x40 * i
def Reg.qmAp (i : Nat) : Nat := 0x101028 + 0x40 * i
def Reg.scCtxbase : Nat := 0x200008
def Reg.scCtxstat : Nat := 0x200010
def Reg.scInstcfg (i : Nat) : Nat := 0x200100 + 0x8 * i
def Reg.scRemap (i : Nat) : Nat := 0x200400 + 0x4 * i
def Reg.scPcores0 (i : Nat) : Nat := 0x201000 + 0x80 * i
def Reg.scPcores1 (i : Nat) : Nat := 0x201008 + 0x80 * i
def Reg.scShare (i : Nat) : Nat := 0x201010 + 0x80 * i
def Reg.scPctl (i : Nat) : Nat := 0x201018 + 0x80 * i
def Reg.scPstat (i : Nat) : Nat := 0x201020 + 0x80 * i
def Reg.scAcctc (i c : Nat) : Nat := 0x201040 + 0x80 * i + 8 * c
def Reg.scAcctb (i c : Nat) : Nat := 0x201060 + 0x80 * i + 8 * c
def Reg.scLedgerBase : Nat := 0x208000
def Reg.scLedgerStat (i : Nat) : Nat := 0x208100 + 0x20 * i
def Reg.scJournal (i : Nat) : Nat := 0x208108 + 0x20 * i
def Reg.scDuptab (i : Nat) : Nat := 0x208110 + 0x20 * i
def Reg.scChunk (i : Nat) : Nat := 0x208200 + 0x8 * i
def Reg.fcCfg : Nat := 0x300000
def Reg.fcStatus : Nat := 0x300008
def Reg.fcAck : Nat := 0x300010
def Reg.fcSdc : Nat := 0x300018
def Reg.fcRetire : Nat := 0x300020
def Reg.fcLatchlo (i : Nat) : Nat := 0x300100 + 0x20 * i
def Reg.fcLatchhi (i : Nat) : Nat := 0x300108 + 0x20 * i
def Reg.fcLstat (i : Nat) : Nat := 0x300110 + 0x20 * i
def Reg.fcLoglo (i : Nat) : Nat := 0x310000 + 0x10 * i
def Reg.fcLoghi (i : Nat) : Nat := 0x310008 + 0x10 * i
def Reg.ksKtabBase : Nat := 0x400000
def Reg.ksStatus : Nat := 0x400008
def Reg.ksJgen : Nat := 0x400010
def Reg.isSealctl : Nat := 0x400018
def Reg.isEpoch (i : Nat) : Nat := 0x401000 + 0x40 * i
def Reg.isRulectl (i : Nat) : Nat := 0x401008 + 0x40 * i
def Reg.isXidx (i : Nat) : Nat := 0x401010 + 0x40 * i
def Reg.isXval (i : Nat) : Nat := 0x401018 + 0x40 * i
def Reg.isViol (i : Nat) : Nat := 0x401020 + 0x40 * i
def Reg.isRemove (i : Nat) : Nat := 0x401028 + 0x40 * i
def Reg.ksIkey (i : Nat) : Nat := 0x401030 + 0x40 * i
def Reg.mtSplit : Nat := 0x500000
def Reg.mtPagerec : Nat := 0x500008
def Reg.mtPoolstat : Nat := 0x500010
def Reg.mtXferstat : Nat := 0x500018
def Reg.mtPfviol : Nat := 0x500020
def Reg.mtQuota (i : Nat) : Nat := 0x501000 + 0x20 * i
def Reg.mtUsed (i : Nat) : Nat := 0x501008 + 0x20 * i
def Reg.mtXfercap (i : Nat) : Nat := 0x501010 + 0x20 * i
def Reg.mtEvents (i : Nat) : Nat := 0x501018 + 0x20 * i
def Reg.mtPquota (i : Nat) : Nat := 0x501400 + 0x10 * i
def Reg.mtScratch (i : Nat) : Nat := 0x501408 + 0x10 * i
def Reg.adDescBase : Nat := 0x600000
def Reg.adModcount : Nat := 0x600008
def Reg.adHotcap : Nat := 0x600010
def Reg.adBasefp (i : Nat) : Nat := 0x601000 + 0x40 * i
def Reg.adSwapstat (i : Nat) : Nat := 0x601008 + 0x40 * i
def Reg.adQuota (i : Nat) : Nat := 0x601010 + 0x40 * i
def Reg.adCount (i : Nat) : Nat := 0x601018 + 0x40 * i
def Reg.adEvents (i : Nat) : Nat := 0x601020 + 0x40 * i
def Reg.tnNormBase : Nat := 0x700000
def Reg.lsCtl (i : Nat) : Nat := 0x700400 + 0x40 * i
def Reg.lsState (i : Nat) : Nat := 0x700408 + 0x40 * i
def Reg.lsStart (i : Nat) : Nat := 0x700410 + 0x40 * i
def Reg.lsBlock (i : Nat) : Nat := 0x700418 + 0x40 * i
def Reg.lsOvftab (i : Nat) : Nat := 0x700420 + 0x40 * i
def Reg.lsBnorm (i : Nat) : Nat := 0x700428 + 0x40 * i
def Reg.lsCounts (i : Nat) : Nat := 0x700430 + 0x40 * i
def Reg.lsUpdlog (i : Nat) : Nat := 0x700438 + 0x40 * i
def Reg.tnCtl (i : Nat) : Nat := 0x700800 + 0x40 * i
def Reg.tnRatio (i : Nat) : Nat := 0x700808 + 0x40 * i
def Reg.tnEma (i : Nat) : Nat := 0x700810 + 0x40 * i
def Reg.tnLast (i : Nat) : Nat := 0x700818 + 0x40 * i
def Reg.tnHold (i : Nat) : Nat := 0x700820 + 0x40 * i
def Reg.tnNfcount (i : Nat) : Nat := 0x700828 + 0x40 * i
def Reg.tnEvents (i : Nat) : Nat := 0x700830 + 0x40 * i
def Reg.tnWarm (i : Nat) : Nat := 0x700838 + 0x40 * i
def Reg.lsOutcomes (i : Nat) : Nat := 0x700C00 + 0x8 * i
def Reg.tnNanstat (i : Nat) : Nat := 0x701000 + 0x40 * i
def Reg.tnNanrec0 (i : Nat) : Nat := 0x701008 + 0x40 * i
def Reg.tnNanrec1 (i : Nat) : Nat := 0x701010 + 0x40 * i
def Reg.tnNanrec2 (i : Nat) : Nat := 0x701018 + 0x40 * i
def Reg.tnNanrec3 (i : Nat) : Nat := 0x701020 + 0x40 * i
def Reg.fbModid : Nat := 0x800000
def Reg.fbUdp : Nat := 0x800008
def Reg.fbIidhi : Nat := 0x800010
def Reg.fbPeerbase : Nat := 0x800018
def Reg.fbStat : Nat := 0x800020
def Reg.fbRetry : Nat := 0x800028
def Reg.fbPortctl (i : Nat) : Nat := 0x801000 + 0x20 * i
def Reg.fbPortstat (i : Nat) : Nat := 0x801008 + 0x20 * i
def Reg.fbPorterr (i : Nat) : Nat := 0x801010 + 0x20 * i
def Reg.fbRailpfx (i : Nat) : Nat := 0x801400 + 0x20 * i
def Reg.fbRailgw (i : Nat) : Nat := 0x801408 + 0x20 * i
def Reg.fbGroup (i : Nat) : Nat := 0x801800 + 0x20 * i
def Reg.ceStrbase : Nat := 0x900000
def Reg.ceGrpcfg (i : Nat) : Nat := 0x901000 + 0x20 * i
def Reg.ceSlotmap (i : Nat) : Nat := 0x901008 + 0x20 * i
def Reg.ceGrpstat (i : Nat) : Nat := 0x901010 + 0x20 * i
def Reg.ceGrpcoord (i : Nat) : Nat := 0x901018 + 0x20 * i
def Reg.ceStat (i : Nat) : Nat := 0x902000 + 0x20 * i
def Reg.ceLoad (i : Nat) : Nat := 0x902008 + 0x20 * i
def Reg.pwLimit : Nat := 0xA00000
def Reg.pwIdle : Nat := 0xA00008
def Reg.pwStat : Nat := 0xA00010
def Reg.ckDie (i : Nat) : Nat := 0xA00100 + 0x10 * i
def Reg.pwCstate (i : Nat) : Nat := 0xA00200 + 0x8 * i
def Reg.trCfg : Nat := 0xB00000
def Reg.trDump : Nat := 0xB00008
def Reg.trPtr (i : Nat) : Nat := 0xB00100 + 0x10 * i
def Reg.coSeqStatus (i : Nat) : Nat := 0xC00000 + 0x4000 * i
def Reg.coArrStatus (i : Nat) : Nat := 0xC00008 + 0x4000 * i
def Reg.coChkCount (i : Nat) : Nat := 0xC00010 + 0x4000 * i
def Reg.coKsteps (i : Nat) : Nat := 0xC00018 + 0x4000 * i
def Reg.coXferLimit (i : Nat) : Nat := 0xC00020 + 0x4000 * i
def Reg.coXferStatus (i : Nat) : Nat := 0xC00028 + 0x4000 * i
def Reg.coDupCount (i : Nat) : Nat := 0xC00030 + 0x4000 * i

/-- The reset value of a register (R13); SC_REMAP.PHYS is L mod 16 (R307) and GL_SERIAL is fused (R413). -/
def resetWord (off : Nat) : Nat :=
  if off = Reg.glSerial then Config.serial.toNat
  else match regRow off with
    | some (r, i) =>
      r.flds.foldl (fun w f => setBits w f.hi f.lo f.rst) 0 + (if r.base = 0x200400 then i % 16 else 0)
    | none => 0

/-- A register as stored: the value written by the device or software, or its reset value. -/
def rd (s : State) (off : Nat) : Nat :=
  match Tab.find s.regs off with
  | some v => v.toNat
  | none => resetWord off

/-- Store a whole register. -/
def State.setReg (s : State) (off v : Nat) : State :=
  { s with regs := Tab.insert s.regs off (BitVec.ofNat 64 v) }

/-- A field of a register. -/
def fget (s : State) (off hi lo : Nat) : Nat := bits (rd s off) hi lo

/-- A one-bit field. -/
def fbit (s : State) (off b : Nat) : Bool := bit (rd s off) b

/-- Set a field. -/
def fset (s : State) (off hi lo v : Nat) : State := s.setReg off (setBits (rd s off) hi lo v)

/-- Count in a saturating field. -/
def finc (s : State) (off hi lo n : Nat) : State :=
  fset s off hi lo (satAdd (hi + 1 - lo) (fget s off hi lo) n)

/-- Whether a register has been written since its reset (R9 RWO). -/
def written (s : State) (off : Nat) : Bool := (Tab.find s.regs off).isSome

/-- Sealed mode (R327). -/
def sealed (s : State) : Bool := fbit s Reg.isSealctl 31

/-- What a software write leaves in one field (R9, R11): `w` is the stored word, `v` the word written. -/
def fieldWrite (isSealed isWritten : Bool) (w v : Nat) (f : Fld) : Nat :=
  match f.acc with
  | .ro => w
  | .rw => setBits w f.hi f.lo (bits v f.hi f.lo)
  | .w1c => setBits w f.hi f.lo (bits w f.hi f.lo &&& (2 ^ (f.hi + 1 - f.lo) - 1 - bits v f.hi f.lo))
  | .w1s => setBits w f.hi f.lo (bits w f.hi f.lo ||| bits v f.hi f.lo)
  | .rwo => if isWritten then w else setBits w f.hi f.lo (bits v f.hi f.lo)
  | .lck => if isSealed then w else setBits w f.hi f.lo (bits v f.hi f.lo)

/-- A software write of a whole register by its access codes (R9, R11). -/
def regWritePlain (s : State) (off v : Nat) : State :=
  match regRow off with
  | some (r, _) => s.setReg off (r.flds.foldl (fun w f => fieldWrite (sealed s) (written s off) w v f) (rd s off))
  | none => s

end Sys2Proof.Machine
end

