-- ==== Sys2Proof/Machine/Ops.lean ====
section
/-! DEFINITION. The named operations over the state that every command's meaning shares: outputs and free values,
cores, rings and partitions, pages, address translation, access checks, host writes, completions, rule changes,
notices, interrupts and trace. -/

namespace Sys2Proof.Machine

/-- What a command answers. -/
abbrev Res := Host.Outcome State Fault Refusal

/-- Drive something outward (assumption log 7). -/
def State.emit (s : State) (o : Out) : State := { s with out := s.out ++ [o] }

/-- A fresh random key and the state with the draw counted (R308; assumption log 3). -/
def State.drawKey (s : State) : BitVec 256 × State := (Config.random s.draws, { s with draws := s.draws + 1 })

/-- A free word and the state with the draw counted (assumption log 4). -/
def State.drawWord (s : State) : W64 × State := (Config.freeWord s.draws, { s with draws := s.draws + 1 })

/-- A natural number as an index below `n + 1`. -/
def fin (n v : Nat) : Fin (n + 1) := ⟨v % (n + 1), Nat.mod_lt _ (Nat.succ_pos n)⟩

/-! ### Cores, partitions, instances -/

def State.core (s : State) (k : Nat) : Core := Tab.get {} s.cores k
def State.setCore (s : State) (k : Nat) (c : Core) : State := { s with cores := Tab.put {} s.cores k c }
def State.updCore (s : State) (k : Nat) (f : Core → Core) : State := s.setCore k (f (s.core k))

/-- Compute die of a physical core (R4). -/
def dieOf (k : Nat) : Nat := k / 18

/-- Quadrant of a compute die (R2). -/
def quadOfDie (d : Nat) : Nat := d / 2

/-- SC_REMAP of a logical core (R304, R307). -/
def mapped (s : State) (l : Nat) : Bool := fbit s (Reg.scRemap l) 7
def physOf (s : State) (l : Nat) : Nat := 18 * (l / 16) + fget s (Reg.scRemap l) 4 0

/-- The logical core that a physical core carries, when it carries one. -/
def logOf (s : State) (k : Nat) : Option Nat :=
  ((List.range 16).map fun j => 16 * (k / 18) + j).find? fun l => mapped s l && physOf s l == k

/-- The partition of an instance (R293). -/
def partOf (s : State) (i : Nat) : Option Nat :=
  if fbit s (Reg.scInstcfg i) 4 then some (fget s (Reg.scInstcfg i) 3 0) else none

/-- Whether a logical core belongs to a partition (R293). -/
def inPart (s : State) (p l : Nat) : Bool :=
  if l < 64 then bit (rd s (Reg.scPcores0 p)) l else bit (rd s (Reg.scPcores1 p)) (l - 64)

/-- The instances of a partition. -/
def instsOf (s : State) (p : Nat) : List Nat := (List.range 16).filter fun i => partOf s i == some p

def State.inst (s : State) (i : Nat) : InstX := Tab.get {} s.insts i
def State.updInst (s : State) (i : Nat) (f : InstX → InstX) : State := { s with insts := Tab.upd {} s.insts i f }
def State.part (s : State) (p : Nat) : PartX := Tab.get {} s.parts p
def State.updPart (s : State) (p : Nat) (f : PartX → PartX) : State := { s with parts := Tab.upd {} s.parts p f }

/-- The current base fingerprint of a partition (R137, R138 AD_BASEFP): zero while it has no base. -/
def baseFp (s : State) (p : Nat) : W64 := ((s.part p).cur.map (·.fp)).getD 0#64

def State.desc (s : State) (t : Nat) : Desc := Tab.get {} s.descs t
def State.setDesc (s : State) (t : Nat) (d : Desc) : State := { s with descs := Tab.put {} s.descs t d }
def State.updDesc (s : State) (t : Nat) (f : Desc → Desc) : State := s.setDesc t (f (s.desc t))
def State.key (s : State) (t : Nat) : KeyEnt := Tab.get {} s.ktab t
/-- The current generation of an adapter's key may serve new transfers (R320, R337 UNWRAP): it is the one that the descriptor, where the
tag has one, names (R129). -/
def keyUsable (s : State) (t : Nat) : Bool :=
  (s.key t).st == .active && !(s.key t).refused && ((s.desc t).st == .free || (s.key t).keygen == (s.desc t).keygen)
def State.ikey (s : State) (i : Nat) : KeyEnt := Tab.get {} s.ikeys i
def State.ring (s : State) (i r : Nat) : Ring := Tab.get {} s.rings (i * 16384 + r)
def State.updRing (s : State) (i r : Nat) (f : Ring → Ring) : State :=
  { s with rings := Tab.upd {} s.rings (i * 16384 + r) f }
def State.page (s : State) (n : Nat) : Page := Tab.get {} s.pages n
def State.setPage (s : State) (n : Nat) (p : Page) : State := { s with pages := Tab.put {} s.pages n p }
def State.peer (s : State) (c : Nat) : Peer := Tab.get {} s.peers c
def State.setPeer (s : State) (c : Nat) (p : Peer) : State := { s with peers := Tab.put {} s.peers c p }
def State.stream (s : State) (h : Nat) : Stream := Tab.get {} s.streams h
def State.setStream (s : State) (h : Nat) (x : Stream) : State := { s with streams := Tab.put {} s.streams h x }
def State.grp (s : State) (g : Nat) : Grp := Tab.get {} s.grps g
def State.setGrp (s : State) (g : Nat) (x : Grp) : State := { s with grps := Tab.put {} s.grps g x }
def State.lsc (s : State) (p : Nat) : LsCtx := Tab.get {} s.ls p
def State.setLsc (s : State) (p : Nat) (x : LsCtx) : State := { s with ls := Tab.put {} s.ls p x }

/-- FB_MODID (R212). -/
def modId (s : State) : Nat := fget s Reg.fbModid 18 0

/-- Ring fields (R292). -/
def ringEn (r : Ring) : Bool := r.rcfg.getLsbD 31
def ringMgr (r : Ring) : Bool := r.rcfg.getLsbD 30
def sqLog (r : Ring) : Nat := bits r.rcfg.toNat 28 24
def cqLog (r : Ring) : Nat := bits r.rcfg.toNat 23 19
def ringVec (r : Ring) : Nat := bits r.rcfg.toNat 10 0

/-- The quadrant that a rolling image procedure is at: target 2 bridge-die firmware, 3 compute-die microcode (R371, R372). -/
def rolling (s : State) (target : Nat) : Option Nat :=
  (s.plinth.procs.find? fun p => p.kind == 0 && p.res == target && p.st == .running).map (·.step)

/-- The root-die firmware restarts, after its watchdog or in a handover (R346, R373): admission and replays wait. -/
def fwRestarts (s : State) : Bool :=
  (s.esc.any fun k => k.cls == 9 && k.level == 2) || s.plinth.procs.any fun p => p.kind == 0 && p.res == 1 && p.st == .running

/-- The compute rails are off under a running Plinth (R352, R354, R355): no block behind them takes work. -/
def computeOff (s : State) : Bool := s.plinth.up && !s.rails

/-- A core is being replaced (R377). -/
def replacing (s : State) (k : Nat) : Bool := s.plinth.procs.any fun p => p.kind == 3 && p.res == k && p.st == .running

/-! ### Interrupts, notices, trace -/

/-- MSI-X vector of a function (R265): 0 is the PF, i + 1 the VF of instance i. -/
def msix (s : State) (fn : Nat) (vec : Nat) : State := s.emit (.msix (fin 16 fn) vec)

/-- Queue a device notice (R285): a notice of a kind already queued takes its place as the most recent, and the eight
most recent kinds stay. -/
def queueNotice (s : State) (i : Nat) (kind : Nat) (arg : Nat) : State :=
  s.updInst i fun x =>
    let rest := x.notices.filter fun n => n.1 ≠ BitVec.ofNat 8 kind
    let all := rest ++ [(BitVec.ofNat 8 kind, BitVec.ofNat 32 arg)]
    { x with notices := all.drop (all.length - 8) }

/-- Post the next queued notice into down slot 15 when its OWN bit is clear (R285, R284). -/
def postNotice (s : State) (i : Nat) : State :=
  let own := Tab.get 0#16 s.mbDownOwn i
  match (s.inst i).notices with
  | [] => s
  | (k, a) :: rest =>
    if own.getLsbD 15 then s
    else
      let s1 := s.updInst i fun x => { x with notices := rest }
      let base := i * 128 + 120
      let clear := (List.range 8).foldl (fun t w => Tab.put 0#64 t (base + w) 0#64) s1.mbDown
      let s2 := { s1 with
        mbDown := Tab.put 0#64 clear base (BitVec.ofNat 64 (k.toNat + a.toNat * 2 ^ 32))
        mbDownOwn := Tab.put 0#16 s1.mbDownOwn i (own ||| 0x8000#16) }
      msix s2 (i + 1) 0

/-- Queue a notice and post what can be posted. -/
def notify (s : State) (i kind arg : Nat) : State := postNotice (queueNotice s i kind arg) i

/-- Low 32 bits of the timebase (R382). -/
def time32 (s : State) : Nat := s.time.toNat % 2 ^ 32

/-- Trace runs (R393). -/
def traceOn (s : State) : Bool := fbit s Reg.trCfg 31 && !sealed s

/-- Put a packet into a source's FIFO (R393, R395); sources are cores 0 to 143 and, at 144 + d, the PMU of die d. -/
def tracePut (s : State) (src : Nat) (body : Nat) (typ : Nat) : State :=
  if !traceOn s then s
  else
    let d := if src < 144 then src / 18 else src - 144
    let hdr := typ * 2 ^ 124 + d * 2 ^ 119 + (if src < 144 then src % 18 else 19) * 2 ^ 114
    let pk : W128 := BitVec.ofNat 128 (hdr + body)
    let fifo := Tab.get [] s.trFifo src
    let dropped := Tab.get 0 s.trDrop src
    if 32 ≤ fifo.length then
      finc { s with trDrop := Tab.put 0 s.trDrop src (satAdd 32 dropped 1) } (Reg.trPtr d) 63 32 1
    else if dropped = 0 then { s with trFifo := Tab.put [] s.trFifo src (fifo ++ [pk]) }
    else
      let lost : W128 := BitVec.ofNat 128 (6 * 2 ^ 124 + d * 2 ^ 119 + (if src < 144 then src % 18 else 19) * 2 ^ 114 +
        dropped * 2 ^ 80 + time32 s)
      if fifo.length = 31 then
        finc { s with trFifo := Tab.put [] s.trFifo src (fifo ++ [lost]), trDrop := Tab.put 0 s.trDrop src 1 }
          (Reg.trPtr d) 63 32 1
      else { s with trFifo := Tab.put [] s.trFifo src (fifo ++ [lost, pk]), trDrop := Tab.put 0 s.trDrop src 0 }

/-- SYNC (R394, R396). -/
def traceSync (s : State) (src : Nat) : State :=
  let d := if src < 144 then src / 18 else src - 144
  tracePut s src (fget s (Reg.ckDie d) 31 16 * 2 ^ 96 + s.time.toNat) 1

/-- PSTATE (R394, R396). -/
def tracePstate (s : State) (src old new scope : Nat) : State :=
  tracePut s src (old * 2 ^ 108 + new * 2 ^ 104 + scope * 2 ^ 100 + s.time.toNat) 2

/-- Append packets to a die's buffer of `cap` packets (R393, R395): circular with WRAP, else stopping when full. -/
def bufAppend (s : State) (d : Nat) (pks : List W128) : State :=
  let cap := fget s Reg.trCfg 3 0 * 65536
  let buf := Tab.get [] s.trBuf d
  if cap = 0 then finc s (Reg.trPtr d) 63 32 pks.length
  else if fbit s Reg.trCfg 30 then
    let all := buf ++ pks
    let past := decide (cap < all.length) || decide (cap ≤ fget s (Reg.trPtr d) 19 0 + pks.length)
    let s1 := { s with trBuf := Tab.put [] s.trBuf d (all.drop (all.length - cap)) }
    let s2 := fset s1 (Reg.trPtr d) 19 0 ((fget s (Reg.trPtr d) 19 0 + pks.length) % cap)
    if past then fset s2 (Reg.trPtr d) 20 20 1 else s2
  else
    let fit := pks.take (cap - buf.length)
    let s1 := { s with trBuf := Tab.put [] s.trBuf d (buf ++ fit) }
    let s2 := fset s1 (Reg.trPtr d) 19 0 (min (cap - 1) (fget s (Reg.trPtr d) 19 0 + fit.length))
    finc s2 (Reg.trPtr d) 63 32 (pks.length - fit.length)

/-- Drain one source's FIFO into its die's buffer (R387, R393). -/
def drainFifo (s : State) (src : Nat) : State :=
  let d := if src < 144 then src / 18 else src - 144
  match Tab.get [] s.trFifo src with
  | [] => s
  | pks => bufAppend { s with trFifo := Tab.erase s.trFifo src } d pks

/-! ### Pages and windows (R190, R200 to R206) -/

/-- Pages of one local window, and of the global window, in pages (R190). -/
def windowRange (s : State) (w : Nat) : Nat × Nat :=
  let g := min 64 (fget s Reg.mtSplit 6 0)
  let base := 6144 * (64 - g)
  if w = 0 then (0, base) else (base + 1536 * g * (w - 1), base + 1536 * g * w)

/-- A page the pool can hand out: FREE and, but for the request that reserved it, not reserved (R203). -/
def pageFree (s : State) (n : Nat) : Bool :=
  (s.page n).kind == .free && !(s.resv.any fun r => r.page == n)

/-- Start-up zeroing has ended (R204, R409). -/
def memDone (s : State) : Bool := fbit s Reg.glStatus 15

/-- The pages of a range that the records list as not FREE. -/
def busyIn (s : State) (lo hi : Nat) : Nat :=
  (s.pages.filter fun kv => decide (lo ≤ kv.1) && decide (kv.1 < hi) && kv.2.kind != .free).length

/-- FREE pages of a range, with those that a request has reserved left out when `free` asks so. -/
def freeIn (s : State) (lo hi : Nat) (notReserved : Bool) : Nat :=
  if !memDone s then 0
  else (hi - lo) - busyIn s lo hi -
    (if notReserved then (s.resv.filter fun r => decide (lo ≤ r.page) && decide (r.page < hi) && (s.page r.page).kind == .free).length else 0)

/-- MT_POOLSTAT.FREE (R210). -/
def poolFree (s : State) : Nat := freeIn s 0 Config.pages false

/-- Pages of a window free for an allocation (R203 free_pages). -/
def freePages (s : State) (w : Nat) : Nat :=
  let (lo, hi) := windowRange s w
  freeIn s lo hi true

/-- The lowest `n` pages from `cur` below `hi` that `ok` admits, with fuel. -/
def pickUp (ok : Nat → Bool) (hi : Nat) : Nat → Nat → Nat → List Nat
  | 0, _, _ => []
  | fuel + 1, cur, n =>
    if n = 0 ∨ hi ≤ cur then []
    else if ok cur then cur :: pickUp ok hi fuel (cur + 1) (n - 1)
    else pickUp ok hi fuel (cur + 1) n

/-- The highest `n` pages below `cur` that `ok` admits, with fuel. -/
def pickDown (ok : Nat → Bool) : Nat → Nat → Nat → List Nat
  | 0, _, _ => []
  | fuel + 1, cur, n =>
    if n = 0 ∨ cur = 0 then []
    else if ok (cur - 1) then (cur - 1) :: pickDown ok fuel (cur - 1) (n - 1)
    else pickDown ok fuel (cur - 1) n

/-- `n` FREE pages in ascending page number from a window (R203). -/
def takeFree (s : State) (w n : Nat) : List Nat :=
  let (lo, hi) := windowRange s w
  pickUp (pageFree s) hi (n + s.pages.length + s.resv.length) lo n

/-- Write the records of pages taken for an owner; OWNGEN counts the change (R200, R204). -/
def assignPages (s : State) (ns : List Nat) (kind : Kind) (i p : Nat) (tag : Tag) : State :=
  { s with
    pages := ns.foldl (fun t n =>
      let old := Tab.get {} t n
      Tab.put {} t n { kind := kind, inst := fin 15 i, part := fin 15 p, tag := tag, owngen := old.owngen + 1#32 }) s.pages
    resv := s.resv.filter fun r => !(ns.contains r.page) }

/-- Free pages: they pass to ZEROING, and their cached lines go (R204). -/
def zeroingPages (s : State) (ns : List Nat) : State :=
  { s with pages := ns.foldl (fun t n =>
      Tab.put {} t n { kind := .zeroing, owngen := (Tab.get {} t n).owngen }) s.pages }

/-- Pages that an instance is charged for (R202 MT_USED). -/
def usedPages (s : State) (i : Nat) : Nat :=
  (s.pages.filter fun kv => kv.2.inst.val == i &&
    (kv.2.kind == .act || kv.2.kind == .adstate || kv.2.kind == .adgrad || kv.2.kind == .stage)).length

/-- BASE pages of a partition (R202). -/
def basePages (s : State) (p : Nat) : Nat :=
  (s.pages.filter fun kv => kv.2.part.val == p && kv.2.kind == .base).length

def systemPages (s : State) : Nat := (s.pages.filter fun kv => kv.2.kind == .system).length

/-! ### Addresses and access checks (R189, R201, R310, R311) -/

/-- A device-side address (R189). -/
inductive Addr where
  | dev (a : Nat)
  | io (a : Nat)
  | bad
  deriving DecidableEq, Repr

def addrOf (a : Nat) : Addr :=
  if bit a 47 then .io (bits a 46 0)
  else if bits a 46 40 = 0 ∧ bits a 39 0 < Config.devMemEnd then .dev (bits a 39 0)
  else .bad

/-- How an access check ends: it passes, it is an access violation with its cause, or it breaks the fence (R126, R311). -/
inductive Verdict where
  | ok
  | viol (cause addr : Nat)
  | fence (tag : TagRec) (addr : Nat)
  deriving DecidableEq, Repr

/-- The first verdict that is not `ok`. -/
def Verdict.first : List Verdict → Verdict
  | [] => .ok
  | .ok :: vs => Verdict.first vs
  | v :: _ => v

/-- Numbers of the pages of `size` bytes that [a, a + n) touches. -/
def span (size a n : Nat) : List Nat :=
  if n = 0 then [] else (List.range ((a + n - 1) / size - a / size + 1)).map (a / size + ·)

/-- The leaf entry of an I/O page (R310). -/
def leaf (s : State) (i v : Nat) : Nat := (Tab.get 0#64 s.xlat (i * 2 ^ 24 + v)).toNat

/-- Check one I/O address of an instance (R310, R311). An entry whose reserved bits are not zero is a format error (R7), for which
the chapter states no report: DESIGN CHOICE, it maps nothing (assumption log 153). -/
def ioCheckAt (s : State) (i : Nat) (wr : Bool) (v : Nat) : Verdict :=
  if 2 ^ 24 ≤ v then .viol 0 (2 ^ 47 + v * 65536)
  else
    let e := leaf s i v
    if e % 4 = 0 ∨ bits e 15 2 ≠ 0 then .viol 0 (2 ^ 47 + v * 65536)
    else if wr && !bit e 1 then .viol 1 (2 ^ 47 + v * 65536)
    else if !wr && !bit e 0 then .viol 1 (2 ^ 47 + v * 65536)
    else .ok

/-- Check a run of I/O addresses. -/
def ioCheck (s : State) (i : Nat) (wr : Bool) (a n : Nat) : Verdict :=
  Verdict.first ((span 65536 a n).map (ioCheckAt s i wr))

/-- The host address of an I/O address (R310). -/
def hostAddr (s : State) (i a : Nat) : Nat := bits (leaf s i (a / 65536)) 63 16 * 65536 + a % 65536

/-- Pieces of [a, a + n) that lie in one I/O page each: start and length, with fuel. -/
def ioPieces : Nat → Nat → Nat → List (Nat × Nat)
  | 0, _, _ => []
  | fuel + 1, a, n =>
    if n = 0 then []
    else
      let k := min n (65536 - a % 65536)
      (a, k) :: ioPieces fuel (a + k) (n - k)

def pieces (a n : Nat) : List (Nat × Nat) := ioPieces (n / 65536 + 2) a n

/-- The scale blocks of a partition, the one SYSTEM range an item reads (R414, R201). -/
def inScaleBlocks (s : State) (p a n : Nat) : Bool :=
  let b := rd s (Reg.lsBlock p)
  decide (b ≤ a) && decide (a + n ≤ b + 128)

/-- An item's read of one page (R201): the tag record its bytes carry, or what refuses it. The scale blocks are read by a TLD
alone (R414). -/
def itemReadPage (s : State) (tld : Bool) (i p a n pg : Nat) : Except Verdict TagRec :=
  let r := s.page pg
  let at_ := max a (pg * Config.pageBytes)
  if r.freeing then .error (.viol 5 at_)
  else match r.kind with
    | .base => if r.part.val = p then .ok none else .error (.viol 3 at_)
    | .act | .stage => if r.inst.val = i then .ok none else .error (.viol 3 at_)
    | .adstate | .adgrad => if r.inst.val = i then .ok (some r.tag) else .error (.viol 3 at_)
    | .system => if tld && inScaleBlocks s p at_ (min (a + n) ((pg + 1) * Config.pageBytes) - at_) then .ok none else .error (.viol 2 at_)
    | _ => .error (.viol 2 at_)

/-- An item's read of device memory: every page's tag record, or the first refusal (R201). -/
def itemRead (s : State) (tld : Bool) (i p a n : Nat) : Except Verdict (List TagRec) :=
  (span Config.pageBytes a n).mapM (itemReadPage s tld i p a n)

/-- An item's write of one page (R122, R123, R201): `train` says that its latched table was loaded with TRAIN = 1. -/
def itemWritePage (s : State) (i p : Nat) (tag : TagRec) (train : Bool) (a pg : Nat) : Verdict :=
  let r := s.page pg
  let at_ := max a (pg * Config.pageBytes)
  match tag with
  | some t =>
    if r.kind == .adgrad && r.tag == t && train then
      (if r.freeing then .viol 5 at_ else if r.inst.val = i then .ok else .viol 3 at_)
    else .fence (some t) at_
  | none =>
    match r.kind with
    | .adstate | .adgrad => .fence none at_
    | .act | .stage =>
      if r.freeing then .viol 5 at_ else if r.inst.val = i then .ok else .viol 3 at_
    | .base =>
      if r.part.val ≠ p then .viol 3 at_
      else if (s.part p).frozen then .viol 4 at_ else .viol 2 at_
    | _ => .viol 2 at_

def itemWrite (s : State) (i p : Nat) (tag : TagRec) (train : Bool) (a n : Nat) : Verdict :=
  Verdict.first ((span Config.pageBytes a n).map (itemWritePage s i p tag train a))

/-- A free request on a page keeps everything out but what used the page when it came (R206). -/
def Page.barred (r : Page) (u : Option PageUser) : Bool := r.freeing && !(u.any r.users.contains)

/-- A ring operation's untagged access of an instance's own ACT and STAGE pages (R201, R281). -/
def opPage (s : State) (u : Option PageUser) (i a pg : Nat) : Verdict :=
  let r := s.page pg
  let at_ := max a (pg * Config.pageBytes)
  if r.barred u then .viol 5 at_
  else match r.kind with
    | .act | .stage => if r.inst.val = i then .ok else .viol 3 at_
    | _ => .viol 2 at_

/-- A ring operation's access to a device-side range of its instance: host memory by the translation context, or ACT
and STAGE pages (R189, R201, R310). -/
def opAccessBy (s : State) (u : Option PageUser) (i : Nat) (wr : Bool) (a n : Nat) : Verdict :=
  match addrOf a with
  | .bad => .viol 7 a
  | .io x => ioCheck s i wr x n
  | .dev x => if Config.devMemEnd < x + n then .viol 7 a else Verdict.first ((span Config.pageBytes x n).map (opPage s u i x))

/-- The access of an operation that has no transfer under way yet. -/
def opAccess (s : State) (i : Nat) (wr : Bool) (a n : Nat) : Verdict := opAccessBy s none i wr a n

/-- Count a violation and latch the first (R311, R332 IS_VIOL). -/
def countViol (s : State) (i cause addr : Nat) : State :=
  let s1 := finc s (Reg.mtEvents i) 15 0 1
  if fbit s1 (Reg.isViol i) 63 then fset s1 (Reg.isViol i) 62 62 1
  else s1.setReg (Reg.isViol i) (2 ^ 63 + cause % 8 * 2 ^ 59 + addr % 2 ^ 48)

/-! ### Host memory, dirty logging, completions -/

/-- Bytes of host memory through an instance's translation context; the access was checked. -/
def hostRead (s : State) (i a n : Nat) : List Byte :=
  ((pieces a n).map fun (x, k) => Memory.read s.host (hostAddr s i x) k).flatten

/-- Set one bit of the active dirty bitmap (R290): bit b covers I/O page b; OVF at or beyond LIMIT. -/
def dirtyBit (s : State) (i b : Nat) : State :=
  let off := Reg.qmDirtyctl i
  let limit := fget s off 63 16
  if !fbit s off 0 then s
  else if limit ≤ b then fset s off 3 3 1
  else
    let base := rd s (Reg.qmDirtybase i) + (if fbit s off 1 then ceilDiv limit 64 * 8 else 0)
    let a := base + b / 8
    { s with host := Memory.write s.host a [Memory.get s.host a ||| BitVec.ofNat 8 (2 ^ (b % 8))] }

/-- Write host memory of an instance; the access was checked (R208, R290). -/
def hostWrite (s : State) (i a : Nat) (bs : List Byte) : State :=
  let h := (pieces a bs.length).foldl
    (fun m xk => Memory.write m (hostAddr s i xk.1) ((bs.drop (xk.1 - a)).take xk.2)) s.host
  (span 65536 a bs.length).foldl (fun t b => dirtyBit t i b) { s with host := h }

/-- Write device memory, clearing the poison of the 64 B units written whole (R349). -/
def devWrite (s : State) (a : Nat) (bs : List Byte) : State :=
  { s with
    dev := Memory.write s.dev a bs
    poison := s.poison.filter fun u => !(decide (a ≤ u * 64) && decide (u * 64 + 64 ≤ a + bs.length)) }

/-- Whether a range of device memory holds poisoned bytes (R207, R349). -/
def poisoned (s : State) (a n : Nat) : Option Nat :=
  (s.poison.find? fun u => decide (u * 64 < a + n) && decide (a < u * 64 + 64)).map (· * 64)

/-- The 16 B of a completion entry (R283). -/
def complBytes (c : Compl) (phase : Nat) : List Byte :=
  leBytes 16 (packFields [(32, c.subseq.toNat), (8, c.status), (1, phase), (1, b2n c.recd), (2, c.outcome), (4, 0),
    (8, c.typ), (8, 0), (64, c.value)])

/-- An entry completes: it is no longer outstanding, in the ring's present enable or in an earlier one (R275). -/
def Ring.complete (r : Ring) (order : Nat) : Ring :=
  if r.first ≤ order then { r with outst := r.outst - 1 } else { r with older := r.older - 1 }

/-- Write a completion entry (R275, R276): at CQ position c mod 2^CQLOG while the ring is enabled at the bases of the
entry's admission, else it is discarded. A CQ address that the translation refuses takes no byte and counts. -/
def writeCompl (s : State) (c : Compl) : State :=
  let r := s.ring c.inst c.ring
  let s0 := s.updRing c.inst c.ring fun x => x.complete c.order
  if !(ringEn r && r.rsq == c.rsq && r.rcq == c.rcq) then s0
  else
    let n := 2 ^ cqLog r
    let a := bits r.rcq.toNat 46 12 * 4096 + r.written.toNat % n * 16
    let s1 := s0.updRing c.inst c.ring fun x => { x with written := x.written + 1#32 }
    let s2 := match ioCheck s c.inst true a 16 with
      | .ok => hostWrite s1 c.inst a (complBytes c (1 - r.written.toNat / n % 2))
      | .viol k x => countViol s1 c.inst k x
      | .fence _ _ => s1
    if c.intr then msix s2 (if ringMgr r then 0 else c.inst.val + 1) (ringVec r) else s2

/-- A rule change of an instance is under way (R313). -/
def ruleBusy (s : State) (i : Nat) : Bool := fbit s (Reg.isRulectl i) 30

/-- A rule change takes effect (R312): the epoch advances and BUSY sets until it completes. -/
def ruleChange (s : State) (i : Nat) : State :=
  let s1 := fset s (Reg.isEpoch i) 15 0 (fget s (Reg.isEpoch i) 15 0 + 1)
  fset s1 (Reg.isRulectl i) 30 30 1

/-- The completion of an entry that makes a rule change waits for the change to complete (R313). -/
def deferCompl (s : State) (c : Compl) : State :=
  s.updInst c.inst fun x => { x with deferred := x.deferred ++ [c] }

/-- The registers of the functions can be reached (R265, R354, R409): configuration space is ready and the device is not
halted. -/
def reachable (s : State) : Bool := s.barUp && !s.halted

/-- A request over PCIe: where no register can be reached it does nothing. -/
def hostCmd (s : State) (f : State) : Res := .next (if reachable s then f else s)

/-- Key of a function's pending low half or latched high half (R12). -/
def halfKey (fn off : Nat) : Nat := fn * 2 ^ 32 + off

/-- A register of the PF whose fields are all LCK, in sealed mode: a write has no effect at all (R11). -/
def locked (s : State) (fn off : Nat) : Bool :=
  sealed s && fn == 0 && (regRow off).any fun r => r.1.flds.all fun f => f.acc == .lck

/-- A 64-bit write of a register discards the writing function's pending low half (R12). -/
def State.dropLow (s : State) (fn off : Nat) : State :=
  if locked s fn off then s else { s with lowPend := Tab.erase s.lowPend (halfKey fn off) }

/-- A 64-bit write of a register that does more than store. -/
def hostWide (s : State) (fn off : Nat) (f : State → State) : Res := hostCmd s (f (s.dropLow fn off))

/-! ### Ring entries -/

/-- Byte `k` of a 64 B entry, and a little-endian field of `n` bytes from byte `k` (R6). -/
def entByte (e : Entry) (k : Nat) : Nat := bits e.toNat (8 * k + 7) (8 * k)
def entNum (e : Entry) (k n : Nat) : Nat := bits e.toNat (8 * k + 8 * n - 1) (8 * k)

/-- The same admitted entry: SUBSEQ counts from each enable of a ring, the order of admission from reset. -/
def Op.same (x o : Op) : Bool := x.inst == o.inst && x.ring == o.ring && x.subseq == o.subseq && x.order == o.order

/-- The admitted entries SUBSEQ of a ring that have a type and sub-operation: of its present enable and of earlier ones (R275). -/
def opsAt (s : State) (i r : Nat) (q : W32) (typ : Nat) (sub : Option Nat) : List Op :=
  s.ops.filter fun o => o.inst.val == i && o.ring.val == r && o.subseq == q && entByte o.desc 0 == typ &&
    sub.all fun n => entByte o.desc 2 == n

/-- The entry leaves the admitted set. -/
def dropOp (s : State) (o : Op) : State := { s with ops := s.ops.filter fun x => !x.same o }

/-- Replace an admitted entry. -/
def setOp (s : State) (o : Op) : State := { s with ops := s.ops.map fun x => if x.same o then o else x }

/-- The completion of an entry (R283). -/
def complOf (o : Op) (status value : Nat) : Compl :=
  { inst := o.inst, ring := o.ring, subseq := o.subseq, rsq := o.rsq, rcq := o.rcq, typ := entByte o.desc 0,
    status := status, value := value, intr := bit (entByte o.desc 1) 0, order := o.order }

/-- Complete an admitted entry at once. -/
def completeOp (s : State) (o : Op) (status value : Nat) : State :=
  writeCompl (dropOp s o) (complOf o status value)

/-- Complete an admitted entry that made a rule change (R313). -/
def completeOpRule (s : State) (o : Op) (status value : Nat) : State :=
  deferCompl (dropOp s o) (complOf o status value)

/-- REFUSED with a detail (R283). -/
def refuseOp (s : State) (o : Op) (detail : Nat) : State := completeOp s o 8 detail

/-- Count a violation of a ring operation and complete it with ACCESS (R311). -/
def accessOp (s : State) (o : Op) (v : Verdict) : State :=
  let s1 := match v with
    | .viol k a => countViol s o.inst k a
    | _ => s
  completeOp s1 o 7 0

end Sys2Proof.Machine
end

