-- ==== Sys2Proof/Machine/Items.lean ====
section
/-! DEFINITION. The lives of work items: the ledger (R174), how an item is released, replayed, lost or completed
(R37, R77, R177, R181, R348), fencing cores and dies (R304, R341, R343), and instance reset (R287). -/

namespace Sys2Proof.Machine

/-! ### The ledger -/

def State.ledAt (s : State) (key : Nat) : Option Led := Tab.find s.led key

def State.updLed (s : State) (key : Nat) (f : Led → Led) : State :=
  match Tab.find s.led key with
  | some e => { s with led := Tab.insert s.led key (f e) }
  | none => s

/-- The item a core runs: its ledger key and entry. -/
def itemOf (s : State) (k : Nat) : Option (Nat × Led) :=
  match (s.core k).item with
  | some key => (s.ledAt key).map fun e => (key, e)
  | none => none

/-- Where an item that reached END keeps what it had on its core once the core runs another item (R295): beside the physical cores,
by its ledger key. -/
def tailSeat (key : Nat) : Nat := 144 + key

/-- Where what an item has on its core stands: the core itself, or its tail. -/
def seatOf (s : State) (key : Nat) (e : Led) : Option Nat :=
  e.pcore.bind fun k =>
    if (s.core k).item == some key then some k.val
    else if (s.core (tailSeat key)).item == some key then some (tailSeat key) else none

/-- The physical core of an entry, where it has one. -/
def Led.coreNo (e : Led) : Nat := (e.pcore.map (·.val)).getD 0

/-- The tails of a core (R295). -/
def tailsOf (s : State) (k : Nat) : List Nat :=
  (s.led.filter fun kv => (kv.2.pcore.map (·.val)) == some k && (s.core (tailSeat kv.1)).item == some kv.1).map fun kv => tailSeat kv.1

/-- Partition of an entry's instance. -/
def ledPart (s : State) (e : Led) : Nat := (partOf s e.inst).getD 0

/-- Fields of a WORK entry (R279). -/
def workProg (d : Entry) : Nat := entNum d 8 6
def workNcmd (d : Entry) : Nat := entNum d 14 2 + 1
def workFirst (d : Entry) : Nat := entByte d 16 % 128
def workCount (d : Entry) : Nat := entByte d 17 % 128 + 1
def workTokens (d : Entry) : Nat := entNum d 20 4
def workRec (d : Entry) : Nat := entNum d 56 6
def workStepEnd (d : Entry) : Bool := bit (entByte d 1) 1
def workSet (d : Entry) : List Nat := (List.range (workCount d)).map (workFirst d + ·)

/-- ns an item has run (R283, R301). -/
def runNs (s : State) (e : Led) : Nat := e.ran + (if e.pcore.isSome then s.time.toNat - e.start.toNat else 0)

/-- The completion of a work item (R283): VALUE holds the run time in ns, saturating at 40 bits, and REPLAYS. -/
def workCompl (s : State) (e : Led) (status : Nat) (recd : Bool) (outcome : Nat) : Compl :=
  { inst := e.inst, ring := e.ring, subseq := e.subseq, rsq := e.rsq, rcq := e.rcq, typ := 1, status := status,
    value := min (2 ^ 40 - 1) (runNs s e) + e.replays % 256 * 2 ^ 40,
    outcome := outcome, recd := recd, intr := bit (entByte e.desc 1) 0, order := e.order }

/-- What arrays keep when their item leaves: the activity level and its credit fall with the clock (R65). -/
def cooling (arrs : Tab Arr) : Tab Arr :=
  (arrs.map fun a => (a.1, ({ level := a.2.level, credit := a.2.credit } : Arr))).filter fun a => a.2 ≠ {}

/-- A core with nothing on it: its arrays, semaphores, store, posts and sequencer are those of no item (R78, R205). -/
def Core.idle (c : Core) : Core := { power := c.power, arrs := cooling c.arrs }

/-- Cycles of a core's clock in a number of ns (R394, R299). -/
def coreCycles (s : State) (k ns : Nat) : Nat := ns * fget s (Reg.ckDie (dieOf k)) 31 16 / 1000

/-- V of a class, and of a partition, at an engine kind (R298). -/
def vOf (s : State) (eng p c : Nat) : Nat := Tab.get 0 s.vtClass (eng * 64 + p * 4 + c)
def vPart (s : State) (eng p : Nat) : Nat := Tab.get 0 s.vtPart (eng * 16 + p)

/-- Weights of a class and of a partition (R297). -/
def classWeight (s : State) (p c : Nat) : Nat := bits (rd s (Reg.scShare p)) (8 * c + 7) (8 * c)
def partWeight (s : State) (p : Nat) : Nat := fget s (Reg.scPctl p) 23 16

/-- A (partition, class) pair joins the pairs `hs` that wait at an engine (R298): where its class had none waiting, its V is raised to
the lowest V of the partition's classes that wait, and where its partition had none, so is the partition's. Cores are no
shared engine. -/
def raiseV (s : State) (eng p c : Nat) (hs : List (Nat × Nat)) : State :=
  let up := fun (own : Nat) (vs : List Nat) => match vs with
    | [] => own
    | v :: ws => max own (ws.foldl min v)
  let mine := hs.filter fun h => h.1 == p
  let s1 := if mine.any fun h => h.2 == c then s
    else { s with vtClass := Tab.upd 0 s.vtClass (eng * 64 + p * 4 + c) fun x => up x (mine.map fun h => vOf s eng p h.2) }
  if eng = 0 ∨ !mine.isEmpty then s1
  else { s1 with vtPart := Tab.upd 0 s1.vtPart (eng * 16 + p) fun x => up x (hs.map fun h => vPart s eng h.1) }

/-- The choice among the pairs that wait at a shared engine (R297, R298), listed in ascending order: one whose class or partition has
weight 0 only when no other waits; then the partition with the lowest V, and within it the class with the lowest. -/
def pickHolder (s : State) (eng : Nat) (hs : List (Nat × Nat)) : Option (Nat × Nat) :=
  let front := hs.filter fun h => partWeight s h.1 ≠ 0 && classWeight s h.1 h.2 ≠ 0
  let pool := if front.isEmpty then hs else front
  let best := pool.filter fun h => pool.all fun g => decide (vPart s eng h.1 ≤ vPart s eng g.1)
  let ours := best.filter fun h => best.all fun g => decide (h.1 ≤ g.1)
  ours.find? fun h => ours.all fun g => decide (vOf s eng h.1 h.2 ≤ vOf s eng g.1 g.2)

/-- Charge an engine's cycles to a partition's class (R298, R299): engines 0 core, 1 update, 2 collective, 3 copy. The
virtual time is the cycles by 65,536 over the weight; a weight of 0 is background and adds none. -/
def charge (s : State) (eng p cls cycles : Nat) : State :=
  let c := cls % 4
  let w := bits (rd s (Reg.scShare p)) (8 * c + 7) (8 * c)
  let pw := fget s (Reg.scPctl p) 23 16
  let s1 := { s with
    vtClass := Tab.upd 0 s.vtClass (eng * 64 + p * 4 + c) fun v => (v + cycles * 65536 / w) % 2 ^ 64
    vtPart := Tab.upd 0 s.vtPart (eng * 16 + p) fun v => (v + cycles * 65536 / pw) % 2 ^ 64 }
  if eng = 0 then finc s1 (Reg.scAcctc p c) 63 0 cycles else finc s1 (Reg.scAcctb p c) 63 0 cycles

/-- ITEMEND of an item on a core (R394). -/
def traceItemEnd (s : State) (k : Nat) (e : Led) (status : Nat) : State :=
  if fbit s Reg.trCfg 28 then
    tracePut s k (e.lsn % 2 ^ 28 * 2 ^ 84 + status % 256 * 2 ^ 76 + coreCycles s k (runNs s e) % 2 ^ 32 * 2 ^ 32 + time32 s) 4
  else s

/-- An item leaves its core with nothing of it left there. -/
def leaveCore (s : State) (key : Nat) (e : Led) (status : Nat) : State :=
  match seatOf s key e with
  | none => s
  | some k => (traceItemEnd s e.coreNo e status).updCore k Core.idle

/-- Release a ledger entry without replay (R37): its core, its tiles in flight, its updates that have not begun (R131), its
journalled tiles and its context go. An update that an engine runs ends there (assumption log 157). -/
def releaseItem (s : State) (key : Nat) (status : Nat) : State :=
  match s.ledAt key with
  | none => s
  | some e =>
    let s1 := leaveCore s key e status
    { s1 with
      led := Tab.erase s1.led key
      sent := s1.sent.filter fun t => t.led ≠ key
      jobs := s1.jobs.filter fun (j : UpdJob) => !(j.led == key && j.stage == .waiting)
      journal := s1.journal.filter fun t => t.led ≠ key
      elig := s1.elig.filter fun x => x.ledKey ≠ some key
      ctx := s1.ctx.filter fun x => x.2.led ≠ key }

/-- Write a 32 B record at the entry's RECADDR when it names one that the instance may write (R279, R283). -/
def writeRecord (s : State) (e : Led) (rec : BitVec 256) : State × Bool :=
  let a := workRec e.desc
  if a = 0 then (s, false)
  else
    match opAccess s e.inst true a 32 with
    | .ok =>
      match addrOf a with
      | .io x => (hostWrite s e.inst x (leBytes 32 rec.toNat), true)
      | .dev x => (devWrite s x (leBytes 32 rec.toNat), true)
      | .bad => (s, false)
    | .viol k x => (countViol s e.inst k x, false)
    | .fence _ _ => (s, false)

/-- What a trap or format record says of the command (R38, R79). -/
structure RecInfo where
  layer  : Nat := 0
  opcode : Nat := 0
  unit   : Nat := 0
  form   : Nat := 0
  kstep  : Nat := 0
  row    : Nat := 0
  col    : Nat := 0
  nanin  : Bool := false
  reason : Nat := 0
  upde   : Bool := false
  cmd    : Nat := 0
  deriving DecidableEq, Repr, Inhabited

/-- The 32 B record (R38, R79). -/
def recordBits (s : State) (e : Led) (k : Nat) (r : RecInfo) : BitVec 256 :=
  BitVec.ofNat 256 (packFields [(32, e.subseq.toNat), (14, e.ring.val), (2, 0), (4, e.inst.val), (4, 0),
    (7, if r.upde then 0x7F else e.lcore.val), (1, 0), (8, if r.upde then 0xFF else k), (3, r.unit), (1, r.form), (4, 0),
    (16, r.cmd), (8, r.opcode), (8, 0), (8, r.row), (8, 0), (8, r.col), (16, 0), (8, r.reason), (16, r.kstep),
    (1, b2n r.nanin), (15, 0), (12, r.layer), (4, 0), (48, s.time.toNat)])

/-- Latch an instance's first trap record (R39). -/
def latchNan (s : State) (i : Nat) (rec : BitVec 256) : State :=
  let off := Reg.tnNanstat i
  if fbit s off 31 then finc (fset s off 30 30 1) off 15 0 1
  else
    let s1 := fset s off 31 31 1
    let w := rec.toNat
    let s2 := s1.setReg (Reg.tnNanrec0 i) (bits w 63 0)
    let s3 := s2.setReg (Reg.tnNanrec1 i) (bits w 127 64)
    let s4 := s3.setReg (Reg.tnNanrec2 i) (bits w 191 128)
    s4.setReg (Reg.tnNanrec3 i) (bits w 255 192)

/-! ### Steps of a loss-scale context (R139) -/

/-- What the LSU remembers of a step: nothing yet where it keeps no record of it. -/
def LsCtx.stepOf (x : LsCtx) (n : W32) : StepRec := (x.recs.find? fun r => r.step == n).getD { step := n }

def LsCtx.setStep (x : LsCtx) (n : W32) (r : StepRec) : LsCtx :=
  { x with recs := (x.recs.filter fun y => y.step ≠ n) ++ [{ r with step := n }] }

def stepRec (s : State) (p : Nat) (n : W32) : StepRec := (s.lsc p).stepOf n
def updStep (s : State) (p : Nat) (n : W32) (f : StepRec → StepRec) : State :=
  s.setLsc p ((s.lsc p).setStep n (f ((s.lsc p).stepOf n)))

/-- A WORK entry of a step (R279). -/
def ofStep (d : Entry) (n : W32) : Bool := entByte d 0 == 1 && entNum d 4 4 == n.toNat

/-- Entries of a partition's WORK that are not complete: admitted, eligible, or in the ledger. -/
def openWork (s : State) (p : Nat) : List Entry :=
  ((s.ops.filter fun o => partOf s o.inst == some p).map (·.desc)) ++
  ((s.elig.filter fun x => partOf s x.op.inst == some p).map (·.op.desc)) ++
  ((s.led.filter fun kv => partOf s kv.2.inst == some p).map (·.2.desc))

/-! ### Restoring an owner (R131) -/

/-- An adapter's partner context is ACTIVE (R131, R185). -/
def partnerUp (s : State) (t : Tag) : Bool := (s.peer (s.desc t.toNat).peerctx.toNat).st == 1

/-- An owner asks its buddy for its state, while their context is ACTIVE (R131). -/
def askBuddy (s : State) (t : Tag) : State := if partnerUp s t then s.emit (.restoreAsk t) else s

/-- Owners that are being restored ask again over contexts that have become ACTIVE (R131). -/
def askAgain (s : State) (was : Nat → Bool) : State :=
  (s.descs.filter fun kv => kv.2.st == .restoring && kv.2.role == .owner && was kv.2.peerctx.toNat).foldl
    (fun t kv => askBuddy t (BitVec.ofNat 16 kv.1)) s

/-- An update of an owner has written part of its state and then stopped (R131): RESTORING, no mirror of that step, and the
owner asks its buddy. -/
def startRestore (s : State) (p : Part) (n : W32) (t : Tag) : State :=
  askBuddy { s.updDesc t.toNat (fun d => { d with st := .restoring }) with
    stage12 := s.stage12.map fun x => if x.part = p && x.step = n && x.tag = t then { x with done := true } else x } t

/-! ### Replay and loss -/

/-- The update item of a step of an instance, where one is in the ledger (R279 STEPEND). -/
def stepEndKey (s : State) (i : Nat) (step : W32) : Option Nat :=
  (s.led.find? fun kv => kv.2.inst.val == i && kv.2.step == step && workStepEnd kv.2.desc).map (·.1)

/-- The update item of a step that has not been dispatched: eligible, or waiting for its generations (R294). -/
def stepEndOp (s : State) (i : Nat) (step : W32) : Option Op :=
  ((s.elig.filter fun x => x.ledKey.isNone).map (·.op) ++ s.ops).find? fun o =>
    o.inst.val == i && ofStep o.desc step && workStepEnd o.desc

/-- An entry leaves the admitted set and the eligible queues. -/
def forgetOp (s : State) (o : Op) : State :=
  { s with ops := s.ops.filter fun x => !x.same o, elig := s.elig.filter fun x => !x.op.same o }

/-- An item completes REPLAYLOST (R181, R348). -/
def loseItem (s : State) (key : Nat) : State :=
  match s.ledAt key with
  | none => s
  | some e => writeCompl (releaseItem s key 5) (workCompl s e 5 false 0)

/-- An item and its step's update item complete REPLAYLOST, and no update of that step runs on the module until the runtime redoes
it (R181, R348; assumption log 158). -/
def loseItemAndStep (s : State) (key : Nat) : State :=
  match s.ledAt key with
  | none => s
  | some e =>
    let s1 := loseItem s key
    let s2 := match stepEndKey s1 e.inst e.step with
      | some k2 => loseItem s1 k2
      | none => match stepEndOp s1 e.inst e.step with
        | some o => writeCompl (forgetOp s1 o) (complOf o 5 0)
        | none => s1
    let s3 := { s2 with jobs := s2.jobs.filter fun (j : UpdJob) => !(j.inst == e.inst && j.step == e.step && j.stage == .waiting) }
    match partOf s3 e.inst with
    | some p => updStep s3 p e.step fun r => { r with lost := true }
    | none => s3

/-- An entry passes to REPLAY, or is lost once REPLAYS has reached MAXREPLAY (R177, R348). Tiles that left stay with the sender, and
their acknowledgements still arrive (R176, R182). -/
def replayItem (s : State) (key : Nat) : State :=
  match s.ledAt key with
  | none => s
  | some e =>
    if fget s Reg.fcCfg 31 24 ≤ e.replays then loseItemAndStep s key
    else
      let s1 := match seatOf s key e with
        | some k => s.updCore k Core.idle
        | none => s
      let s2 := s1.updLed key fun x => { x with st := .replay, pcore := none }
      { s2 with
        ctx := s2.ctx.filter fun x => x.2.led ≠ key
        sent := s2.sent.filter fun t => !(t.led == key && t.waits) }

/-- Keys of the entries on a core that a fence sends to REPLAY (R177). -/
def keysOnCore (s : State) (k : Nat) : List Nat :=
  (s.led.filter fun kv => (kv.2.pcore.map (·.val)) == some k && (kv.2.st == .running || kv.2.st == .dispatched)).map (·.1)

/-- The lowest-numbered core of a die that is neither fenced nor in the logical map (R304). -/
def spareOf (s : State) (d : Nat) : Option Nat :=
  ((List.range 18).map (18 * d + ·)).find? fun k => !(s.fenced.any fun f => f.val == k) && (logOf s k).isNone

/-- Spare promotion (R304): the spare joins in Nap (R305), or the logical core becomes unmapped. -/
def promoteSpare (s : State) (l : Nat) : State :=
  match spareOf s (l / 16) with
  | some k => (fset s (Reg.scRemap l) 4 0 (k % 18)).updCore k fun c => { c with power := .nap }
  | none => fset s (Reg.scRemap l) 7 7 0

/-- A fenced core keeps nothing but the commands of an item that reached END: their acknowledgements still arrive (R177). -/
def vacate (s : State) (k : Nat) : State :=
  match itemOf s k with
  | some (_, e) => if e.st == .finishing then s else s.updCore k Core.idle
  | none => s.updCore k Core.idle

/-- Fence a core (R343): it leaves the logical map, a spare takes its place, and its entries pass to REPLAY. -/
def fenceCore (s : State) (k : Nat) : State :=
  if s.fenced.any fun f => f.val == k then s
  else
    let keys := keysOnCore s k
    let s1 := { s with fenced := s.fenced ++ [fin 143 k] }
    let s2 := match logOf s k with
      | some l => promoteSpare s1 l
      | none => s1
    let s3 := keys.foldl replayItem s2
    vacate s3 k

/-- Whether an item of a die has accepted tiles that are journalled (R180, R181). -/
def hasJournal (s : State) (key : Nat) : Bool := s.journal.any fun j => j.led == key

/-- Fence a compute die (R341, R350): its logical cores become unmapped, items with journalled tiles are lost with
their steps, the others pass to REPLAY, and the die's tile cache is lost. -/
def fenceDie (s : State) (d : Nat) : State :=
  if s.diesOut.any fun x => x.val == d then s
  else
    let keys := (s.led.filter fun kv => (kv.2.pcore.map fun k => k.val / 18) == some d &&
      (kv.2.st == .running || kv.2.st == .dispatched)).map (·.1)
    let s1 := { s with diesOut := s.diesOut ++ [fin 7 d] }
    let s2 := (List.range 16).foldl (fun t j => fset t (Reg.scRemap (16 * d + j)) 7 7 0) s1
    let kept := (s.journal.filter fun j => j.die == d && !(keys.contains j.led)).map (·.led)
    let s3 := kept.foldl loseItemAndStep
      (keys.foldl (fun t key => if hasJournal s key then loseItemAndStep t key else replayItem t key) s2)
    let s4 := (List.range 18).foldl (fun t c => vacate t (18 * d + c)) s3
    { s4 with
      scratch := s4.scratch.filter fun x => x.1 / 16 ≠ d
      accepted := Tab.erase s4.accepted d
      journal := s4.journal.filter fun j => j.die ≠ d }

/-! ### Instance reset (R287) -/

/-- A tile that an engine sends for a stream of class INSTANCE of an instance (R286, R287). -/
def Sent.engineOf (s : State) (i : Nat) (t : Sent) : Bool :=
  t.dkind == 3 && t.msg.inst.val == i && (s.stream (t.dest % 4096)).cls

/-- Assembly entries of peer contexts are discarded (R239, R254). -/
def dropAsmOf (s : State) (ctx : Nat → Bool) : State := { s with asm := s.asm.filter fun a => !(a.ctx.any ctx) }

/-- Streams of class INSTANCE of an instance abort at this module, and their tiles are discarded (R287, R250). -/
def abortStreamsOf (s : State) (i : Nat) : State :=
  { s with
    sent := s.sent.filter fun t => !t.engineOf s i
    streams := s.streams.map fun kv =>
      (kv.1, if kv.2.inst.val == i && kv.2.cls && kv.2.st != .free then { kv.2 with st := .aborted, opener := none } else kv.2) }

/-- A SWAP of an instance awaits its boundary (R136, R137). -/
def swapsOf (s : State) (i : Nat) : Bool := s.parts.any fun kv => kv.2.swaps.any fun x => x.2.inst.val == i

/-- SWAPs of an instance that await their boundary end without a completion, and the pages of their copies pass to ZEROING (R287). -/
def dropSwapsOf (s : State) (i : Nat) : State :=
  let mine := fun (x : TagRec × Op) => x.2.inst.val == i
  let tags := ((s.parts.map fun kv => (kv.2.swaps.filter mine).map (·.1)).flatten).filterMap fun t => t.map (·.toNat)
  let s1 := tags.foldl (fun t g => (zeroingPages t (t.desc g).newPages).updDesc g fun d =>
    { d with newPages := [], newDir := 0, newGrad := 0, newLen := 0 }) s
  let s2 := { s1 with parts := s1.parts.map fun kv => (kv.1, { kv.2 with swaps := kv.2.swaps.filter fun x => !mine x }) }
  (List.range 16).foldl (fun t p => fset t (Reg.adSwapstat p) 31 31 (b2n (!(t.part p).swaps.isEmpty))) s2

/-- Running updates of an instance stop with their log bits clear; an owner whose state was partly written is restored
from its buddy (R287, R131, R161). -/
def stopUpdates (s : State) (keep : UpdJob → Bool) : State :=
  let gone := s.jobs.filter fun j => !keep j
  let s1 := gone.foldl (fun t j =>
    if j.stage != .waiting && !j.base then startRestore t j.part j.step j.tag else t) s
  { s1 with jobs := s1.jobs.filter keep }

/-- Everything of an instance that an instance reset stops or clears (R287). -/
def clearInstance (s : State) (i : Nat) : State :=
  let keys := (s.led.filter fun kv => kv.2.inst.val == i).map (·.1)
  let s1 := { s with
    ops := s.ops.filter fun o => o.inst.val ≠ i
    elig := s.elig.filter fun x => x.op.inst.val ≠ i
    resv := s.resv.filter fun r => r.inst.val ≠ i }
  let s2 := keys.foldl (fun t key => releaseItem t key 0) s1
  let s3 := stopUpdates s2 fun j => j.inst.val ≠ i
  let s4 := dropSwapsOf (abortStreamsOf s3 i) i
  let closed := fun (c : Nat) => (s4.peer c).inst.val == i && (s4.peer c).cls
  { dropAsmOf s4 closed with
    peers := s4.peers.map fun kv => (kv.1, if kv.2.inst.val == i && kv.2.cls && kv.2.st ≠ 0 then { kv.2 with st := 3 } else kv.2)
    accepted := s4.accepted.map fun kv => (kv.1, kv.2.filter fun a => a.inst.val ≠ i)
    rings := s4.rings.filter fun kv => kv.1 / 16384 ≠ i
    gens := s4.gens.filter fun kv => kv.1 / 65536 ≠ i
    lowPend := s4.lowPend.filter fun kv => !(kv.1 / 2 ^ 32 == i + 1 && decide (kv.1 % 2 ^ 32 < 0x80000))
    hiLatch := s4.hiLatch.filter fun kv => !(kv.1 / 2 ^ 32 == i + 1 && decide (kv.1 % 2 ^ 32 < 0x80000)) }

/-- Instance reset (R287, R289): RESETDONE sets and is posted with its cause; a freeze or a save is abandoned. -/
def instanceReset (s : State) (i cause : Nat) : State :=
  let s1 := clearInstance s i
  let s2 := s1.updInst i fun x => { x with freezing := false, behind := none, saving := false, deferred := [] }
  let s3 := fset (fset s2 (Reg.qmInststat i) 4 4 0) (Reg.qmInststat i) 5 5 0
  let s4 := fset s3 (Reg.qmInststat i) 2 2 1
  notify s4 i 0xF0 cause

end Sys2Proof.Machine
end

