-- ==== Sys2Proof/Machine/Packets.lean ====
section
/-! DEFINITION. Packets of the Fjouno Link Protocol (R212 to R222, R227 to R229): header and trailer, routes, ports and rails,
REPORT and REQ records, membership packets. -/

namespace Sys2Proof.Machine

def grpEpoch (s : State) (g : Nat) : Nat := fget s (Reg.fbGroup g) 63 32

/-- The FLP header (R218). -/
structure FHdr where
  typ    : Nat := 1
  tagv   : Bool := false
  sealB  : Bool := false
  resent : Bool := false
  epoch  : Nat := 0
  srcMod : Nat := 0
  home   : Nat := 0
  engine : Bool := false
  dstMod : Nat := 0
  dstCtx : Nat := 0
  srcCtx : Nat := 0
  seq    : Nat := 0
  shard  : Nat := 0
  nshard : Nat := 0
  tfmt   : Nat := 0
  inst   : Nat := 0
  hops   : Nat := 0
  rtag   : Nat := 0
  ord    : Nat := 0
  tag    : Nat := 0
  keygen : Nat := 0
  route  : Nat := 0
  era    : Nat := 0
  deriving DecidableEq, Repr, Inhabited

/-- The fields of the header in order, each with its width (R218). -/
def FHdr.fields (h : FHdr) (len : Nat) : List (Nat × Nat) :=
  [(4, h.typ), (4, 1), (1, b2n h.tagv), (1, b2n h.sealB), (1, b2n h.resent), (5, 0), (14, len), (2, 0), (32, h.epoch),
   (19, h.srcMod), (3, h.home), (1, b2n h.engine), (9, 0), (19, h.dstMod), (13, 0), (16, h.dstCtx), (16, h.srcCtx),
   (48, h.seq), (2, h.shard), (2, h.nshard), (3, h.tfmt), (1, 0), (4, h.inst), (4, h.hops), (12, h.rtag), (4, 0),
   (16, h.ord), (16, h.tag), (8, h.keygen), (2, h.route), (6, 0), (25, h.era), (7, 0)]

def FHdr.bytes (h : FHdr) (len : Nat) : List Byte := leBytes 40 (packFields (h.fields len))

/-- Split a word into fields of the given widths, from bit 0 upwards. -/
def unpack : List Nat → Nat → List Nat
  | [], _ => []
  | w :: ws, v => v % 2 ^ w :: unpack ws (v / 2 ^ w)

/-- The additional authenticated data (R224): bytes 8-34 and 36-39 with SHARD and HOPS zero. -/
def FHdr.aad (h : FHdr) : List Byte :=
  let b := { h with shard := 0, hops := 0 }.bytes 0
  (b.take 35).drop 8 ++ b.drop 36

/-- The nonce (R224). -/
def FHdr.nonce (h : FHdr) : BitVec 96 :=
  BitVec.ofNat 96 (packFields [(48, h.seq), (25, h.era), (1, b2n h.engine), (3, h.home), (19, h.srcMod)])

/-- A packet: header, payload, seal and CRC (R220, R221). -/
def packetOf (h : FHdr) (payload sl : List Byte) : List Byte :=
  let body := h.bytes payload.length ++ payload ++ sl
  body ++ leBytes 8 (crc64 body).toNat

/-- Whether a packet's CRC holds (R221). -/
def crcOk (pkt : List Byte) : Bool :=
  let n := pkt.length - 8
  decide (48 ≤ pkt.length) && (leBytes 8 (crc64 (pkt.take n)).toNat == pkt.drop n)

/-- A header's fields, its LEN, and whether its version or a reserved field is wrong (R218). -/
def readHdr (w : Nat) : Option (FHdr × Nat × Bool) :=
  match unpack ((({} : FHdr).fields 0).map (·.1)) w with
  | ty :: ver :: tv :: sld :: rsd :: r0 :: len :: r1 :: epoch :: src :: home :: eng :: r2 :: dst :: r3 :: dctx :: sctx ::
      seq :: sh :: nsh :: tfmt :: r4 :: inst :: hops :: rtag :: r5 :: ord :: tag :: kg :: route :: r6 :: era :: r7 :: [] =>
    some ({
      typ := ty, tagv := tv = 1, sealB := sld = 1, resent := rsd = 1, epoch := epoch, srcMod := src, home := home,
      engine := eng = 1, dstMod := dst, dstCtx := dctx, srcCtx := sctx, seq := seq, shard := sh, nshard := nsh,
      tfmt := tfmt, inst := inst, hops := hops, rtag := rtag, ord := ord, tag := tag, keygen := kg, route := route, era := era },
      len, decide (ver ≠ 1 ∨ r0 ≠ 0 ∨ r1 ≠ 0 ∨ r2 ≠ 0 ∨ r3 ≠ 0 ∨ r4 ≠ 0 ∨ r5 ≠ 0 ∨ r6 ≠ 0 ∨ r7 ≠ 0))
  | _ => none

/-- The header and the payload with its seal, when the reserved fields and the length agree (R218, R219): those of the header, of an
engine's RTAG (R246) and of the seal (R221). -/
def parsePacket (pkt : List Byte) : Option (FHdr × List Byte × List Byte) :=
  match readHdr (ofLe (pkt.take 40)) with
  | some (h, len, bad) =>
    let body := (pkt.drop 40).take (pkt.length - 48)
    let sl := if h.sealB ∧ h.shard = h.nshard ∧ h.typ = 1 then 32 else 0
    let ctl := h.typ = 2 ∨ h.typ = 3
    let engBad := h.typ = 1 ∧ h.engine ∧ 192 ≤ h.rtag
    if engBad ∨ ofLe (body.drop (len + 28)) ≠ 0 ∨ bad ∨ h.typ = 0 ∨ 4 < h.typ ∨ 8192 < len ∨
        len + sl ≠ body.length ∨ (!h.tagv ∧ h.tag ≠ 0) ∨ (!h.sealB ∧ h.keygen ≠ 0) ∨
        (ctl ∧ (h.tagv ∨ h.sealB ∨ ofLe ((pkt.take 40).drop 20) ≠ 0)) then none
    else some (h, body.take len, body.drop len)
  | none => none

/-! ### Routes (R212, R213, R227 to R229) -/

def coordX (m dim : Nat) : Nat := m % 64 / 4 ^ dim % 4

/-- Same hall and rack. -/
def sameRack (a b : Nat) : Bool := a / 64 == b / 64

/-- Order of the dimensions, tie direction (true for +) and set (true for B) of a route (R227). -/
def routeOf (i : Nat) : List Nat × Bool × Bool :=
  match i with
  | 0 => ([0, 1, 2], true, false)
  | 1 => ([2, 1, 0], false, true)
  | 2 => ([1, 2, 0], true, true)
  | _ => ([0, 2, 1], false, false)

/-- The port of the next hop toward a module of the rack (R213, R227). -/
def torusPort (here dst route : Nat) : Option Nat :=
  let (order, tie, setB) := routeOf route
  match order.find? fun d => coordX here d ≠ coordX dst d with
  | none => none
  | some d =>
    let diff := (coordX dst d + 4 - coordX here d) % 4
    let plus := diff = 1 || (diff = 2 && tie)
    some (d + (if plus then 0 else 3) + (if setB then 6 else 0))

/-- Hops of a route (R227). -/
def hopCount (here dst : Nat) : Nat :=
  (List.range 3).foldl (fun n d => let x := (coordX dst d + 4 - coordX here d) % 4; n + min x (4 - x)) 0

def portUp (s : State) (p : Nat) : Bool := fbit s (Reg.fbPortstat p) 31

/-- The port that a packet takes at this module, when one is up (R228, R229). -/
def portFor (s : State) (src dst route : Nat) : Option Nat :=
  if sameRack (modId s) dst then
    match torusPort (modId s) dst route with
    | none => none
    | some p => if portUp s p then some p else
        let q := if p < 6 then p + 6 else p - 6
        if portUp s q then some q else none
  else
    let b := (src + dst) % 6
    ((List.range 6).map fun k => 12 + (b + route + k) % 6).find? (portUp s)

/-- Bytes of a port's history that stay: the most recent 256 KiB (R235). -/
def trimHistory : List (List Byte) → Nat → List (List Byte)
  | [], _ => []
  | p :: ps, room => if p.length ≤ room then p :: trimHistory ps (room - p.length) else []

/-- The transmit association of a rail: its AN with its SCI, packet number and key (R226, R379). Key: rail * 8 + direction * 4 + AN. -/
def txSa (s : State) (r : Nat) : Option (Nat × W64 × W64 × BitVec 256) :=
  ((List.range 4).find? fun a => match Tab.find s.plinth.macsec (r * 8 + a) with
    | some (_, _, _, act) => act
    | none => false).bind fun a => (Tab.find s.plinth.macsec (r * 8 + a)).map fun x => (a, x.1, x.2.1, x.2.2.1)

/-- A module's address on a rail (R217). -/
def railAddr (s : State) (r m : Nat) : BitVec 128 :=
  BitVec.ofNat 128 (rd s (Reg.fbRailpfx r) * 2 ^ 64 + fget s Reg.fbIidhi 63 19 * 2 ^ 19 + m)

/-- What MACsec protects of a frame beside the packet number: the IPv6 and UDP fields and the packet (R217, R226). -/
def railBytes (f : RailFrame) : List Byte :=
  leBytes 1 f.tclass.toNat ++ leBytes 3 f.flow.toNat ++ leBytes 16 f.src.toNat ++ leBytes 16 f.dst.toNat ++ leBytes 2 f.udpSrc.toNat ++
    leBytes 2 f.udpDst.toNat ++ leBytes 2 f.udpSum.toNat ++ f.payload

/-- The 16-bit words of a run of bytes in network order, an odd last byte padded with zero. -/
def netWords : List Byte → List Nat
  | [] => []
  | [a] => [a.toNat * 256]
  | a :: b :: bs => (a.toNat * 256 + b.toNat) :: netWords bs

/-- The UDP checksum as IPv6 requires (R217): the ones' complement of the ones' complement sum over the pseudo-header, the UDP header
and the packet; zero is sent as all ones. -/
def udpSum (f : RailFrame) : W16 :=
  let n := 8 + f.payload.length
  let addr := fun (a : BitVec 128) => ((List.range 8).map fun k => bits a.toNat (16 * k + 15) (16 * k)).sum
  let sum := addr f.src + addr f.dst + n + n + 17 + f.udpSrc.toNat + f.udpDst.toNat + (netWords f.payload).sum
  let fold := fun (v : Nat) => v % 65536 + v / 65536
  let c := 65535 - fold (fold (fold sum)) % 65536
  BitVec.ofNat 16 (if c = 0 then 65535 else c)

/-- The frame of a packet on a rail (R217, R226). -/
def frameOf (s : State) (r dst route : Nat) (sci : W64) (an : Nat) (pn : W64) (sak : BitVec 256) (pkt : List Byte) : RailFrame :=
  let f : RailFrame := {
    tclass := BitVec.ofNat 8 (fget s Reg.fbUdp 23 16), flow := BitVec.ofNat 20 (modId s), src := railAddr s r (modId s), dst := railAddr s r dst,
    udpSrc := BitVec.ofNat 16 (0xC000 + 4 * (dst % 4096) + route), udpDst := BitVec.ofNat 16 (fget s Reg.fbUdp 15 0),
    sci := sci, an := BitVec.ofNat 2 an, pn := pn, icv := 0#128, payload := pkt }
  let g := { f with udpSum := udpSum f }
  { g with icv := Config.macsecIcv sak sci pn (railBytes g) }

/-- Put a packet on a port and into its history, newest first (R216, R217, R235). A rail with no transmit association
carries nothing (R379). -/
def sendOn (s : State) (p dst route : Nat) (pkt : List Byte) : State :=
  let s1 := { s with history := Tab.put [] s.history p (trimHistory (pkt :: Tab.get [] s.history p) 262144) }
  if p < 12 then s1.emit (.packet p pkt)
  else
    let r := p - 12
    match txSa s r with
    | none => s1
    | some (an, sci, pn, sak) =>
      let s2 := s1.emit (.frame r (BitVec.ofNat 64 (rd s (Reg.fbRailgw r))) (frameOf s r dst route sci an pn sak pkt))
      let bump := fun (x : W64 × W64 × BitVec 256 × Bool) => (x.1, x.2.1 + 1#64, x.2.2)
      let sas := match Tab.find s2.plinth.macsec (r * 8 + an) with
        | some x => Tab.insert s2.plinth.macsec (r * 8 + an) (bump x)
        | none => s2.plinth.macsec
      { s2 with plinth := { s2.plinth with macsec := sas } }

/-- Send a packet of this module, HOPS set for its route; with no port up it is not transmitted. In a REPORT and a REQ the bytes of HOPS
and ROUTE are reserved (R219; assumption log 170). -/
def sendPkt (s : State) (h : FHdr) (payload sl : List Byte) : State :=
  let hops := if (h.typ = 1 ∨ h.typ = 4) ∧ sameRack (modId s) h.dstMod then hopCount (modId s) h.dstMod else 0
  match portFor s (modId s) h.dstMod h.route with
  | some p => sendOn s p h.dstMod h.route (packetOf { h with hops := hops } payload sl)
  | none => s

/-! ### REPORT and REQ (R222) -/

/-- A record (R222). -/
def recordOf (seq home : Nat) (engine : Bool) (shard : Nat) (all : Bool) (code : Nat) : Nat :=
  packFields [(48, seq), (3, home), (1, b2n engine), (2, shard), (1, b2n all), (3, code), (6, 0)]

/-- Send a REPORT (type 2) or a REQ (type 3) of one record about a packet with header `h` to the module it came from. -/
def answer (s : State) (typ : Nat) (h : FHdr) (epoch : Nat) (shard : Nat) (all : Bool) (code : Nat) : State :=
  sendPkt s { typ := typ, epoch := epoch, srcMod := modId s, dstMod := h.srcMod, dstCtx := h.srcCtx, srcCtx := h.dstCtx }
    (leBytes 8 (recordOf h.seq h.home h.engine shard all code)) []

/-! ### Membership packets (R219, R257) -/

/-- A MEMB payload (R257): records of 4 B after a 24 B head. -/
def membBytes (typ g epoch sender coord : Nat) (recs : List Nat) : List Byte :=
  leBytes 24 (packFields [(4, typ), (4, g), (24, 0), (32, epoch), (19, sender), (13, 0), (19, coord), (13, 0),
    (16, recs.length), (48, 0)]) ++ (recs.map (leBytes 4)).flatten

/-- Send a membership message of a type to a module (R219, R257). -/
def sendMemb (s : State) (g dst typ coord : Nat) (recs : List Nat) : State :=
  sendPkt s { typ := 4, epoch := grpEpoch s g, srcMod := modId s, dstMod := dst } (membBytes typ g (grpEpoch s g) (modId s) coord recs) []

end Sys2Proof.Machine
end

