-- ==== Sys2Proof/Machine/FaultOps.lean ====
section
/-! DEFINITION. The fault collector (R333 to R341), the actions of its levels (R337, R343, R353, R354), and groups'
slot maps and notices (R241, R257). -/

namespace Sys2Proof.Machine

/-! ### Groups -/

/-- Logical slots of a group (R263 CE_GRPCFG.Q). -/
def slotsOf (s : State) (g : Nat) : Nat := fget s (Reg.ceGrpcfg g) 20 0

/-- Entry q of a group's slot map (R241): the module, when LIVE. -/
def slotEntry (s : State) (g q : Nat) : Nat := Memory.num s.dev (rd s (Reg.ceSlotmap g) + 4 * q) 4

/-- The module that holds a slot, when the entry is LIVE. -/
def slotMod (s : State) (g q : Nat) : Option Nat :=
  let e := slotEntry s g q
  if bit e 31 then some (bits e 18 0) else none

/-- Insert into an ascending list without repeats. -/
def insertAsc (x : Nat) : List Nat → List Nat
  | [] => [x]
  | y :: ys => if x < y then x :: y :: ys else if x = y then y :: ys else y :: insertAsc x ys

/-- The members of a group, ascending. -/
def members (s : State) (g : Nat) : List Nat :=
  ((List.range (slotsOf s g)).filterMap (slotMod s g)).foldr insertAsc []

/-- The coordinator: the live member with the lowest module ID that this module does not suspect (R258). -/
def coordOf (s : State) (g : Nat) (suspects : List Nat) : Nat :=
  ((members s g).find? fun m => !(suspects.contains m)).getD (modId s)

/-- A group's state as CE_GRPSTAT encodes it (R263). -/
def GState.code : GState → Nat
  | .unformed => 0 | .stable => 1 | .changing => 2 | .resetting => 3 | .formfail => 4 | .noquorum => 5

/-- A group is formed once an epoch is installed (R236). -/
def formed (s : State) (g : Nat) : Bool := grpEpoch s g ≠ 0

/-- Suspects that this module has named in a group. -/
def mySuspects (s : State) (g : Nat) : List Nat :=
  ((s.grp g).suspects.filter fun x => x.1 == modId s).flatMap (·.2)

/-- Send NOTICE to the coordinator (R258). -/
def sendNotice (s : State) (g : Nat) (suspects : List Nat) : State :=
  let c := coordOf s g suspects
  sendMemb s g c 1 c suspects

/-- The module names itself to every formed group (R352, R353). -/
def noticeSelf (s : State) : State :=
  (List.range 16).foldl (fun t g => if formed s g then sendNotice t g [modId s] else t) s

/-! ### Messages -/

/-- Fields of a message (R334). -/
def mDie (m : Nat) : Nat := bits m 127 123
def mUnit (m : Nat) : Nat := bits m 122 112
def mKind (m : Nat) : Nat := bits m 111 104
def mLevel (m : Nat) : Nat := bits m 103 101
def mInst (m : Nat) : Nat := bits m 100 97
def mTag (m : Nat) : Nat := bits m 96 81
def mAddr (m : Nat) : Nat := bits m 79 32

/-- Level of a kind (R336); none for a reserved kind. -/
def kindLevel (k : Nat) : Option Nat :=
  match k with
  | 0x01 | 0x02 | 0x12 | 0x32 => some 1
  | 0x11 | 0x33 | 0x41 | 0x42 | 0x43 | 0x62 | 0x71 | 0x91 => some 2
  | 0x13 | 0x34 => some 3
  | 0x61 => some 4
  | 0x35 | 0x92 => some 5
  | 0x63 | 0x82 | 0x83 | 0x93 => some 6
  | 0x21 | 0x22 | 0x23 | 0x31 | 0x51 | 0x52 | 0x53 | 0x64 | 0x81 => some 0
  | _ => none

/-- A message as its source sends it (R334): INST and TAG only for the kinds that carry them. -/
def mkMsg (s : State) (die unit kind inst tag addr : Nat) : Nat :=
  let hasInst := kind == 0x01 || kind == 0x02 || kind == 0x12 || kind == 0x32 || kind == 0x61 || kind == 0x62 || kind == 0x71
  let hasTag := kind == 0x61 || kind == 0x62 || kind == 0x71
  packFields [(32, time32 s), (48, addr), (1, 0), (16, if hasTag then tag else 0), (4, if hasInst then inst else 0),
    (3, (kindLevel kind).getD 0), (8, kind), (11, unit), (5, die)]

/-- Scope value of a message's escalation key (R336, R339): core, die, stack, port, instance, tag or device. -/
def scopeOf (m : Nat) : Nat :=
  match mKind m with
  | 0x01 | 0x02 => 18 * mDie m + mUnit m
  | 0x11 | 0x12 => mDie m
  | 0x32 | 0x33 => if 0x10 ≤ mDie m then mDie m else 0x10 + 3 * (mDie m - 8) + (mUnit m - 0x100)
  | 0x41 | 0x42 => mAddr m % 256
  | 0x61 => mInst m
  | 0x71 => mTag m
  | _ => 0xFFFF

/-- Stack and pseudo-channel of a device memory address (R190, R335): each pseudo-channel is 1 GiB of its stack. -/
def pcOf (s : State) (a : Nat) : Nat × Nat :=
  let g := min 64 (fget s Reg.mtSplit 6 0)
  let top := 12 * (64 - g) * 2 ^ 30
  if a < top then
    let u := a / 4096
    (u % 12, u / 12 / 262144)
  else
    let w := (a - top) / (3 * g * 2 ^ 30)
    let v := (a - top) % (3 * g * 2 ^ 30) / 4096
    (3 * w + v % 3, (16777216 - g * 262144 + v / 3) / 262144)

/-- Whether a device address lies in a page of an instance bound in sealed mode (R328). -/
def hideAddr (s : State) (m : Nat) : Bool :=
  let k := mKind m
  let devAddr := k == 0x22 || k == 0x23 || k == 0x31 || k == 0x32 || k == 0x33 || (k == 0x61 && !bit (mAddr m) 46)
  let r := s.page (mAddr m % 2 ^ 40 / Config.pageBytes)
  sealed s && devAddr && (r.kind == .act || r.kind == .stage || r.kind == .adstate || r.kind == .adgrad) &&
    bit (fget s Reg.isSealctl 15 0) r.inst.val

/-- An event to one session, which counts its events (R362). -/
def sessEvent (s : State) (k : Nat) (x : Session) (cmd : Nat) (payload : List Byte) : State :=
  { (s.emit (.ecEvent k cmd x.evSeq payload)) with
    plinth := { s.plinth with sessions := Tab.insert s.plinth.sessions k { x with evSeq := x.evSeq + 1 } } }

/-- The Plinth's ring of the last 16,384 messages takes more (R338). -/
def plinthLog (p : Plinth) (ms : List W128) : Plinth :=
  let log := p.log ++ ms
  let drop := log.length - 16384
  { p with log := log.drop drop, logBase := p.logBase + drop }

/-- Latch, log and report a message (R338, R363): the collector's registers, the Plinth's ring, and the sessions that
subscribed at or below its level. -/
def logMsg (s : State) (m0 : Nat) : State :=
  let m := if hideAddr s m0 then setBits m0 79 32 0 else m0
  let c := mKind m / 16
  let off := Reg.fcLstat c
  let s1 :=
    if fbit s off 31 then finc (fset s off 30 30 1) off 15 0 1
    else ((fset s off 31 31 1).setReg (Reg.fcLatchlo c) (bits m 63 0)).setReg (Reg.fcLatchhi c) (bits m 127 64)
  let n := fget s1 Reg.fcStatus 31 0
  let s2 := (s1.setReg (Reg.fcLoglo (n % 4096)) (bits m 63 0)).setReg (Reg.fcLoghi (n % 4096)) (bits m 127 64)
  let s3 := fset s2 Reg.fcStatus 31 0 (n + 1)
  let s4 := if s3.plinth.away.isSome then s3 else { s3 with plinth := plinthLog s3.plinth [BitVec.ofNat 128 m] }
  s4.plinth.sessions.foldl (fun t x => if x.2.level ≤ mLevel m then sessEvent t x.1 x.2 0x10 (leBytes 16 m) else t) s4

/-! ### Procedures (R363 PROCSTAT, R378) -/

def ProcState.code : ProcState → Nat
  | .queued => 0 | .running => 1 | .done => 2 | .abandoned => 3

/-- The payload of PROCSTAT (R363). -/
def procPayload (s : State) (p : Proc) : List Byte :=
  leBytes 6 (packFields [(8, p.st.code), (8, p.step), (32, (s.time.toNat - p.start.toNat) / 1000)])

/-- A procedure changes; every session is told of a change of state. -/
def setProc (s : State) (p : Proc) : State :=
  let s1 := { s with plinth := { s.plinth with procs := s.plinth.procs.map fun x => if x.num = p.num then p else x } }
  if s.plinth.procs.any fun x => x.num == p.num && x.st != p.st then
    s1.plinth.sessions.foldl (fun t x => sessEvent t x.1 x.2 0x63 (procPayload s1 p)) s1
  else s1

/-- Running procedures that `hit` names are ABANDONED (R378). -/
def abandonProcs (s : State) (hit : Proc → Bool) : State :=
  (s.plinth.procs.filter fun p => (p.st == .running || p.st == .queued) && hit p).foldl
    (fun t p => setProc t { p with st := .abandoned, finish := none }) s

/-- A fault lies in the resource of a procedure (R378). -/
def procHit (s : State) (m : Nat) (p : Proc) : Bool :=
  match mKind m / 16 with
  | 0 | 1 => decide (2 ≤ mLevel m) && ((p.kind == 3 && (decide (p.res = 18 * mDie m + mUnit m) || (decide (3 ≤ mLevel m) && p.res / 18 == mDie m))) ||
      (p.kind == 0 && p.res == 3 && decide (3 ≤ mLevel m) && p.step == mDie m / 2))
  | 3 => p.kind == 1 && decide (2 ≤ mLevel m) && (let x := pcOf s (mAddr m)
      if mKind m = 0x33 ∧ 0x10 ≤ mDie m then p.res == (mDie m - 0x10) * 64 + mUnit m % 64 else p.res == x.1 * 64 + x.2)
  | 4 => p.kind == 2 && (mKind m == 0x41 || mKind m == 0x42) && p.res == mAddr m % 256
  | 9 => p.kind == 0 && p.res == 1
  | _ => false

/-! ### Levels 5 and 6 -/

/-- Stop every item and update of the device uncommitted, with no completion (R353). -/
def stopAll (s : State) : State :=
  let keys := s.led.map (·.1)
  let s1 := keys.foldl (fun t key => releaseItem t key 0) s
  { s1 with jobs := [] }

/-- Level 5, device quiesce (R353, R366). -/
def quiesceDevice (s : State) : State :=
  if fbit s Reg.fcStatus 62 then s
  else
    let s1 := noticeSelf (stopAll (fset s Reg.fcStatus 62 62 1))
    abandonProcs { s1 with plinth := { s1.plinth with svc := .recovery } } fun _ => true

/-- The compute rails are cut (R355): what the compute dies hold is lost. -/
def cutCompute (s : State) : State :=
  { s with rails := false, modPwrgd := false, cores := [], scratch := [], journal := [], accepted := [], trBuf := [], trFifo := [] }

/-- The compute, bridge and memory rails are cut (R352, R354): their contents are lost; the root die stays. -/
def cutRails (s : State) : State := { cutCompute s with dev := [] }

/-- Level 6, device halt (R354, R366): level 5, every fabric port disabled, rails cut. -/
def haltDevice (s : State) : State :=
  let s1 := quiesceDevice s
  let s2 := (List.range 18).foldl (fun t p => fset (fset t (Reg.fbPortctl p) 31 31 0) (Reg.fbPortstat p) 31 24 0) s1
  { cutRails s2 with halted := true }

/-! ### Escalation keys -/

def keyEq (c sc : Nat) (k : EscKey) : Bool := k.cls == c && k.scope == sc

/-- Make a key pending, at its new level when it already is (R339, R340). -/
def setKey (s : State) (m lvl : Nat) (waits : List Nat) : State :=
  let k : EscKey := {
    cls := mKind m / 16, scope := scopeOf m, level := lvl,
    unit := if mKind m = 0x41 then mAddr m else if mKind m = 0x32 then (pcOf s (mAddr m)).2 else mUnit m,
    die := mDie m, since := s.time, waits := waits }
  { s with esc := s.esc.filter (fun x => !keyEq k.cls k.scope x) ++ [k] }

/-- Lane of a pending or new LANE message's ADDR: bits [9:8]. -/
def laneOf (a : Nat) : Nat := bits a 9 8

/-- The new fault's unit lies within the resource that the pending action takes out of service (R340 rule 1, R345,
R350): the fenced core or die, the failed pair of a port or the lost port, the retiring pseudo-channel. -/
def within (s : State) (k : EscKey) (m : Nat) : Bool :=
  match mKind m with
  | 0x01 | 0x02 => decide (2 ≤ k.level)
  | 0x11 | 0x12 =>
    if 3 ≤ k.level then decide (mDie m = k.die)
    else if k.level = 2 then decide (mDie m = k.die ∧ mUnit m = k.unit) else false
  | 0x32 => decide (2 ≤ k.level) && decide ((pcOf s (mAddr m)).2 = k.unit)
  | 0x33 => decide (2 ≤ k.level) && decide (mUnit m = k.unit)
  | 0x41 => decide (3 ≤ k.level) || fget s (Reg.fbPortstat (mAddr m % 256)) 31 31 == 0 ||
      decide (laneOf (mAddr m) / 2 = laneOf k.unit / 2)
  | 0x42 => fget s (Reg.fbPortstat (mAddr m % 256)) 31 31 == 0
  | _ => false

/-- A checksum or feeder fault of a core that a pending core fault has fenced, or whose die it has, merges into that fault (R350). -/
def onFenced (s : State) (m : Nat) : Bool :=
  (mKind m == 0x01 || mKind m == 0x02) && s.esc.any fun k =>
    k.cls == 1 && k.scope == mDie m && (decide (3 ≤ k.level) || (k.level == 2 && k.unit == mUnit m))

/-! ### Actions (R337, R341) -/

/-- A port leaves service (R235 port loss): marked down, its history moved to the other route. -/
def portDown (s : State) (p : Nat) : State :=
  if fbit s (Reg.fbPortstat p) 31 then finc (fset s (Reg.fbPortstat p) 31 28 0) (Reg.fbPortstat p) 15 0 1
  else s

/-- A lane fails (R215, R235): a torus port goes on with its intact pair; without one, or on a rail, it is lost. -/
def laneDown (s : State) (p l : Nat) : State :=
  let s1 := fset s (Reg.fbPortstat p) 27 24 (fget s (Reg.fbPortstat p) 27 24 &&& (15 - 2 ^ l))
  let ok := fget s1 (Reg.fbPortstat p) 27 24
  if p < 12 ∧ (ok % 4 = 3 ∨ ok / 4 = 3) then
    (if fbit s1 (Reg.fbPortstat p) 31 then finc (fset s1 (Reg.fbPortstat p) 30 28 2) (Reg.fbPortstat p) 15 0 1 else s1)
  else portDown s1 p

/-- Fence a port at level 3 (R341): it is disabled and down. -/
def fencePort (s : State) (p : Nat) : State := fset (portDown s p) (Reg.fbPortctl p) 31 31 0

/-- Firmware retires a pseudo-channel (R344): the 512 lowest-numbered FREE pages leave the pool and back it. With
fewer, it stays in service and NOSPARE is sent (`none`). -/
def retirePc (s : State) (stack pc : Nat) : Option State :=
  let id := stack * 64 + pc
  if s.retired.any fun r => r.pc == id then some s
  else
    let ns := pickUp (pageFree s) Config.pages (512 + s.pages.length + s.resv.length) 0 512
    if poolFree s < 512 ∨ ns.length < 512 then none
    else
      let s1 := { s with
        pages := ns.foldl (fun t n => Tab.put {} t n { kind := .retired, owngen := (Tab.get {} t n).owngen }) s.pages
        retired := s.retired ++ [{ pc := id, pages := ns }] }
      some (fset s1 Reg.mtPoolstat 56 38 (fget s1 Reg.mtPoolstat 56 38 - 512))

/-- Whether the ledger names a core of a die (R341). -/
def runsOnDie (s : State) (d i : Nat) : Bool :=
  s.led.any fun kv => kv.2.inst.val == i && (kv.2.pcore.map fun k => k.val / 18) == some d

/-- The item that a level-1 message of a compute die concerns (R207, R337): the one on the core it names, or for a word of the scratch
window or of the receive journal the one on the die that its LSN names (R336). -/
def faultItem (s : State) (m : Nat) : Option Nat :=
  if 1 < mKind m / 16 ∨ 8 ≤ mDie m then none
  else if mUnit m < 18 then (s.core (18 * mDie m + mUnit m)).item
  else if mKind m = 0x12 then
    (s.led.find? fun kv => kv.2.lsn == mAddr m / 2 ^ 20 && (kv.2.pcore.map fun k => k.val / 18) == some (mDie m)).map (·.1)
  else none

/-- The action of a level for a message (R337, R341); `item` is the ledger key of the item that a level-1 message
concerns, where the detecting command knows it. -/
def act (s : State) (m lvl : Nat) (item : Option Nat) : State :=
  let kind := mKind m
  let c := kind / 16
  let core := 18 * mDie m + mUnit m
  match lvl with
  | 1 =>
    match item with
    | some key => replayItem (setKey s m 1 [key]) key
    | none => match faultItem s m with
      | some key => replayItem (setKey s m 1 [key]) key
      | none => setKey s m 1 []
  | 2 =>
    match c with
    | 0 | 1 =>
      let t := setKey s m 2 (keysOnCore s core)
      if mDie m < 8 ∧ mUnit m < 18 then fenceCore t core else t
    | 3 =>
      let (st, pc) := if kind = 0x33 ∧ 0x10 ≤ mDie m then (mDie m - 0x10, mUnit m % 64) else pcOf s (mAddr m)
      match retirePc (setKey s m 2 []) st pc with
      | some t => t
      | none => setKey s m 2 [2 ^ 32 + st * 64 + pc]
    | 4 =>
      let t := setKey s m 2 []
      if kind = 0x41 then laneDown t (mAddr m % 256) (laneOf (mAddr m))
      else if kind = 0x42 then portDown t (mAddr m % 256) else t
    | 6 => { setKey s m 2 [] with ktab := Tab.upd {} s.ktab (mTag m) fun k => { k with refused := true } }
    | 7 => setKey s m 2 []
    | _ => setKey s m 2 []
  | 3 =>
    match c with
    | 1 => fenceDie (setKey s m 3 []) (mDie m % 8)
    | 3 => if kind = 0x34 then setKey s m 3 [] else quiesceDevice (setKey s m 5 [])
    | 4 => if kind = 0x43 then quiesceDevice (setKey s m 5 []) else fencePort (setKey s m 3 []) (mAddr m % 256)
    | 7 =>
      let n := mDie m - 8
      { setKey s m 3 [] with ueMap := Tab.put 0 s.ueMap n 1 }
    | _ => quiesceDevice (setKey s m 5 [])
  | 4 =>
    if kind = 0x61 then instanceReset (setKey s m 4 []) (mInst m) 2
    else
      ((List.range 16).filter fun i => runsOnDie s (mDie m) i).foldl (fun t i => instanceReset t i 2) (setKey s m 4 [])
  | 5 => quiesceDevice (setKey s m 5 [])
  | 6 => haltDevice (setKey s m 6 [])
  | _ => s

/-- Zeroise every key of the key store, the key caches and the transport slots (R330, R355). -/
def zeroiseKeys (s : State) : State :=
  let wipe := fun (kv : Nat × KeyEnt) => (kv.1, { kv.2 with
    key := 0#256
    st := if kv.2.st == .absent then .absent else .retired
    lastret := if kv.2.st == .active || kv.2.st == .retiring then kv.2.keygen else kv.2.lastret })
  let s1 := { s with
    ktab := s.ktab.map wipe
    ikeys := s.ikeys.map wipe
    migKey := (wipe (0, s.migKey)).2
    kcache := []
    parts := s.parts.map fun kv => (kv.1, { kv.2 with key := none })
    linkKeys := []
    sysKey := 0#256
    tableKey := 0#256 }
  fset s1 Reg.ksStatus 29 29 1

/-- ALERT_N (R406): low while a fault of level 3 or above is pending or a THERMWARN is active. -/
def pinAlert (s : State) : State :=
  let high := s.esc.all (fun k => decide (k.level < 3)) && s.clkHot.isEmpty
  if s.alertN = high then s else { s with alertN := high }.emit (.alert (!high))

/-- A message reaches the collector (R338 to R341). -/
def collectOne (s : State) (m : Nat) (item : Option Nat) : State :=
  let lvl := mLevel m
  let s0 := if mKind m = 0x63 then zeroiseKeys s else s
  if lvl = 0 then logMsg s0 m
  else
    match s0.esc.find? (keyEq (mKind m / 16) (scopeOf m)) with
    | none => if onFenced s0 m then logMsg s0 m else act (logMsg s0 m) m lvl item
    | some k =>
      if within s0 k m then
        -- a merged level-1 fault still leaves its item to the pending action
        logMsg s0 m
      else
        let up := if mKind m = 0x61 then 4 else if mKind m / 16 = 4 ∧ mKind m = 0x42 then lvl else min 6 (lvl + 1)
        let m' := if up = lvl then m else setBits (setBits m 103 101 up) 80 80 1
        act (logMsg s0 m') m' up item

/-- A retirement found fewer than 512 FREE pages and waits for them (R344). -/
def wantsPages (k : EscKey) : Bool := k.waits.any fun w => decide (2 ^ 32 ≤ w)

/-- A message reaches the collector; a retirement that must wait sends NOSPARE (R344). -/
def collect (s : State) (m : Nat) (item : Option Nat) : State :=
  let u := collectOne s m item
  let t := if mLevel m = 0 then u else abandonProcs u (procHit s m)
  match t.esc.find? fun k => wantsPages k && !(s.esc.any fun x => wantsPages x && keyEq k.cls k.scope x) with
  | some k =>
    let st := (k.waits.headD 0 - 2 ^ 32) / 64
    pinAlert (collectOne t (mkMsg t (8 + st / 3) (0x100 + st % 3) 0x34 0 0 0) none)
  | none => pinAlert t

/-- Retirements that wait go on once 512 pages are FREE (R344). -/
def retryRetire (s : State) : State :=
  s.esc.foldl (fun t k =>
    if wantsPages k then
      let id := k.waits.headD 0 - 2 ^ 32
      match retirePc t (id / 64) (id % 64) with
      | some u => { u with esc := u.esc.map fun x => if keyEq k.cls k.scope x then { x with waits := [], since := u.time } else x }
      | none => t
    else t) s

/-- Report a fault that this device's own blocks detect. -/
def report (s : State) (die unit kind inst tag addr : Nat) (item : Option Nat) : State :=
  collect s (mkMsg s die unit kind inst tag addr) item

/-- Firmware acknowledges level 1 when the replay starts and level 2 when the action completes (R337): a key of such
a level leaves once no entry it waits for is left in REPLAY and the bound of R342 has passed (assumption log 10). -/
def ackBound (k : EscKey) : Nat :=
  if k.cls ≤ 1 then 10000 else if k.cls = 4 then 30000 else 40000

def firmwareAcks (s : State) : State :=
  { s with esc := s.esc.filter fun k =>
      !(decide (k.level ≤ 2) && decide (k.since.toNat + ackBound k ≤ s.time.toNat) &&
        k.waits.all fun key => key < 2 ^ 32 && (s.ledAt key).all fun e => e.st != .replay) }

end Sys2Proof.Machine
end

