-- ==== Sys2Proof/Machine/Flags.lean ====
section
/-! DEFINITION. The block has no processor's flags. What its arithmetic reports is here: whether a NaN was produced and
whether one of its operands was a NaN (R36, R38), how many roundings overflowed (R40), and the order of the first NaN
within a command (R38). -/

namespace Sys2Proof.Machine

/-- An FP32 value under way with the overflows its operations counted and the first NaN they produced: NANIN. -/
structure Rv where
  v   : W32
  o   : Nat := 0
  nan : Option Bool := none
  deriving DecidableEq, Repr, Inhabited

/-- A constant or an operand. -/
def rv (x : W32) : Rv := { v := x }

/-- A value used a second time: its overflows are counted once. -/
def Rv.again (x : Rv) : Rv := { x with o := 0 }

/-- One operation on one value (R36, R40). -/
def Rv.op1 (f : W32 → R32v) (a : Rv) : Rv :=
  match a.nan with
  | some _ => a
  | none =>
    let (v, o) := f a.v
    { v := v, o := a.o + b2n o, nan := if isNan32 v then some (isNan32 a.v) else none }

/-- One operation on two values. -/
def Rv.op2 (f : W32 → W32 → R32v) (a b : Rv) : Rv :=
  match a.nan, b.nan with
  | some n, _ => { a with o := a.o + b.o, nan := some n }
  | none, some n => { b with o := a.o + b.o, nan := some n }
  | none, none =>
    let (v, o) := f a.v b.v
    { v := v, o := a.o + b.o + b2n o, nan := if isNan32 v then some (isNan32 a.v || isNan32 b.v) else none }

/-- One fused multiply-add. -/
def Rv.fma (a b c : Rv) : Rv :=
  match a.nan, b.nan, c.nan with
  | some _, _, _ => { a with o := a.o + b.o + c.o }
  | none, some _, _ => { b with o := a.o + b.o + c.o }
  | none, none, some _ => { c with o := a.o + b.o + c.o }
  | none, none, none =>
    let (v, o) := fFma a.v b.v c.v
    { v := v, o := a.o + b.o + c.o + b2n o,
      nan := if isNan32 v then some (isNan32 a.v || isNan32 b.v || isNan32 c.v) else none }

def Rv.add (a b : Rv) : Rv := Rv.op2 fAdd a b
def Rv.sub (a b : Rv) : Rv := Rv.op2 fSub a b
def Rv.mul (a b : Rv) : Rv := Rv.op2 fMul a b
def Rv.max (a b : Rv) : Rv := Rv.op2 (fun x y => (fMax x y, false)) a b
def Rv.min (a b : Rv) : Rv := Rv.op2 (fun x y => (fMin x y, false)) a b
def Rv.neg (a : Rv) : Rv := Rv.op1 (fun x => (fNeg x, false)) a
def Rv.exp (a : Rv) : Rv := Rv.op1 fExp a
def Rv.log (a : Rv) : Rv := Rv.op1 fLog a
def Rv.rcp (a : Rv) : Rv := Rv.op1 fRcp a
def Rv.rsqrt (a : Rv) : Rv := Rv.op1 fRsqrt a

/-- A compare `x > 0` that picks one of two values; a NaN operand of the compare is a produced NaN (R33). -/
def Rv.pick (x : Rv) (a b : Rv) : Rv :=
  match x.nan with
  | some _ => x
  | none => if isNan32 x.v then { v := nan32, o := x.o, nan := some true }
    else let r := if fGt x.v 0#32 then a else b
      { r with o := x.o + r.o }

/-- Position of a NaN within a command (R38): K step, pass, row, column; a feeder's ranks before the array's. -/
def posKey (k pass row col : Nat) (feed : Bool) : Nat :=
  (((k * 4 + pass) * 64 + row) * 256 + col) * 2 + (if feed then 0 else 1)

/-- The fields of a position. -/
def posK (key : Nat) : Nat := key / 2 / 256 / 64 / 4
def posRow (key : Nat) : Nat := key / 2 / 256 % 64
def posCol (key : Nat) : Nat := key / 2 % 256
def posFeed (key : Nat) : Bool := key % 2 == 0

/-- What a run of operations reported: overflows by position, and the first NaN. -/
structure Rep where
  ovf : List Nat := []
  nan : Option (Nat × Bool) := none
  deriving DecidableEq, Repr, Inhabited

/-- The earlier of two NaNs. -/
def firstNan : Option (Nat × Bool) → Option (Nat × Bool) → Option (Nat × Bool)
  | none, b => b
  | a, none => a
  | some a, some b => if b.1 < a.1 then some b else some a

def Rep.join (a b : Rep) : Rep := { ovf := a.ovf ++ b.ovf, nan := firstNan a.nan b.nan }

/-- Overflows that count: those before the first NaN in the order of R38. Where R40 counts all overflows of one cycle, those of the
NaN's own cycle that follow it in that order are not counted (assumption log 152). -/
def Rep.count (r : Rep) : Nat :=
  match r.nan with
  | none => r.ovf.length
  | some (k, _) => (r.ovf.filter fun x => decide (x < k)).length

/-- The report of an element's operations at a position. -/
def Rv.rep (x : Rv) (key : Nat) : Rep :=
  { ovf := List.replicate x.o key, nan := x.nan.map fun n => (key, n) }

end Sys2Proof.Machine
end

