-- ==== Sys2Proof/Machine/Tiles.lean ====
section
/-! DEFINITION. What every tile command shares (R67 to R80): the tile store and its tag records, how an item stops,
overflow counting, interlocks, issue and completion. -/

namespace Sys2Proof.Machine

/-! ### The tile store (R109, R110, R205) -/

/-- Granules that [a, a + n) touches. -/
def granules (a n : Nat) : List Nat := span Config.granule a n

/-- The tag record of a granule: untagged while unwritten (R205). -/
def TileStore.tag (t : TileStore) (g : Nat) : TagRec := Tab.get none t.gran g

def TileStore.read (t : TileStore) (a n : Nat) : List Byte := Memory.read t.mem a n

/-- A granule before a write of a part of it: the rest goes when its record is another (R110). -/
def TileStore.prep (t : TileStore) (tag : TagRec) (g : Nat) : TileStore :=
  let mem := match Tab.find t.gran g with
    | some old => if old = tag then t.mem else Memory.zero t.mem (g * Config.granule) Config.granule
    | none => t.mem
  { mem := mem, gran := Tab.insert t.gran g tag }

/-- Write bytes of one tag record (R109, R110). -/
def TileStore.write (t : TileStore) (a : Nat) (bs : List Byte) (tag : TagRec) : TileStore :=
  let t1 := (granules a bs.length).foldl (fun x g => x.prep tag g) t
  { t1 with mem := Memory.write t1.mem a bs }

/-- A feeder's latch after a write to [a, a + n) (R47). -/
def latchAfter (a n : Nat) (l : Option Latch) : Option Latch :=
  match l with
  | some x => if x.addr < a + n ∧ a < x.addr + 2 * x.entries.length then none else some x
  | none => none

def Core.arr (c : Core) (i : Nat) : Arr := Tab.get {} c.arrs i
def Core.setArr (c : Core) (i : Nat) (a : Arr) : Core := { c with arrs := Tab.put {} c.arrs i a }
def Core.updArr (c : Core) (i : Nat) (f : Arr → Arr) : Core := c.setArr i (f (c.arr i))

/-- The byte ranges that a write of one tag record changes: its own, and the whole of each granule that it re-tags, whose other
bytes go to zero (R110). -/
def TileStore.changed (t : TileStore) (a n : Nat) (tag : TagRec) : List (Nat × Nat) :=
  (a, n) :: ((granules a n).filter fun g => match Tab.find t.gran g with
    | some old => old ≠ tag
    | none => false).map fun g => (g * Config.granule, Config.granule)

/-- Write a core's tile store; feeders' latches over the bytes that change clear (R47). The zeroing of a re-tagged granule's
rest counts as a write of those bytes: else a command could use a codebook that is no longer there (assumption log 148). -/
def Core.write (c : Core) (a : Nat) (bs : List Byte) (tag : TagRec) : Core :=
  let clear := fun (l : Option Latch) => (c.store.changed a bs.length tag).foldl (fun x r => latchAfter r.1 r.2 x) l
  { c with
    store := c.store.write a bs tag
    arrs := c.arrs.map fun x => (x.1, { x.2 with latchC := clear x.2.latchC, latchR := clear x.2.latchR }) }

/-- The tags of the tagged granules that [a, a + n) touches, with the address of each within the range. -/
def TileStore.tags (t : TileStore) (a n : Nat) : List (Tag × Nat) :=
  (granules a n).filterMap fun g => (t.tag g).map fun x => (x, max a (g * Config.granule))

/-- Slot sizes of R72 and R99 by TFMT: 0 FP16, 1 FP32, 2 CFP32, 3 CODE8, 4 CODE4, 5 VEC. -/
def fp16Line (bs : List Byte) : List W16 :=
  (List.range (bs.length / 2)).map fun j => BitVec.ofNat 16 (ofLe ((bs.drop (2 * j)).take 2))

def fp32s (bs : List Byte) : List W32 :=
  (List.range (bs.length / 4)).map fun j => BitVec.ofNat 32 (ofLe ((bs.drop (4 * j)).take 4))

/-- One FP16 and one FP32 value of the tile store. -/
def TileStore.h (t : TileStore) (a : Nat) : W16 := BitVec.ofNat 16 (Memory.num t.mem a 2)
def TileStore.w (t : TileStore) (a : Nat) : W32 := BitVec.ofNat 32 (Memory.num t.mem a 4)

/-! ### Loss-scale bookkeeping that items reach (R139, R140, R151) -/

/-- Add to a partition's overflow count table (R151): bits [31:0] train, [63:32] every other class, saturating. -/
def ovfTable (s : State) (p layer n : Nat) (train : Bool) : State :=
  if !written s (Reg.lsOvftab p) then s
  else
    let a := rd s (Reg.lsOvftab p) + 8 * layer + (if train then 0 else 4)
    { s with dev := Memory.write s.dev a (leBytes 4 (satAdd 32 (Memory.num s.dev a 4) n)) }

/-- An overflow of a step reaches the LSU (R140): the flag of its parity, or LATE once the closing header of the step
has sampled the flag. -/
def flagOverflow (s : State) (p : Nat) (n : W32) : State :=
  if (stepRec s p n).sampled then fset s (Reg.lsState p) 19 19 1
  else
    let b := 24 + n.toNat % 2
    fset s (Reg.lsState p) b b 1

/-- Overflows of an item's command (R40, R140, R164). -/
def countOvf (s : State) (e : Led) (layer n : Nat) : State :=
  if n = 0 then s
  else
    let p := ledPart s e
    let s1 := ovfTable s p layer n (e.cls == 0)
    if e.cls = 0 then flagOverflow s1 p e.step else s1

/-- A numeric trap of an item is counted by Teasel (R37, R143, R164). -/
def countTrap (s : State) (e : Led) : State :=
  let p := ledPart s e
  if e.cls = 0 then
    updStep (finc s (Reg.tnNfcount p) 31 0 1) p e.step fun r => { r with nf := r.nf + 1 }
  else if e.cls = 1 then finc s (Reg.tnNfcount p) 63 32 1
  else s

/-! ### Norm entries (R147, R148) -/

/-- Key of a norm entry: tag * 4096 + layer, or partition * 4096 + layer in the base tables. -/
def normGet (s : State) (base : Bool) (who layer : Nat) : Norm :=
  Tab.get {} (if base then s.bnorms else s.norms) (who * 4096 + layer)

def normSet (s : State) (base : Bool) (who layer : Nat) (x : Norm) : State :=
  if base then { s with bnorms := Tab.put {} s.bnorms (who * 4096 + layer) x }
  else { s with norms := Tab.put {} s.norms (who * 4096 + layer) x }

/-- The entry as a contribution of step n finds it. -/
def normFor (x : Norm) (n : W32) : Norm :=
  if x.step = n.truncate 30 then x else { step := n.truncate 30 }

/-- Add a GSQ contribution; the Nat counts overflows. -/
def addGsq (s : State) (base : Bool) (who layer : Nat) (n : W32) (v : W32) : State × Nat :=
  let x := normFor (normGet s base who layer) n
  let (g, o) := fAdd x.gsq v
  (normSet s base who layer { x with gsq := g }, b2n o)

/-- Add a GSQ contribution of a slot's base shard to what that slot contributes to the verdict exchange (R143, R167). -/
def addSlotGsq (s : State) (p q layer : Nat) (n : W32) (v : W32) : State :=
  let key := (p * 2 ^ 20 + q) * 4096 + layer
  let x := normFor (Tab.get {} s.slotGsq key) n
  { s with slotGsq := Tab.put {} s.slotGsq key { x with gsq := (fAdd x.gsq v).1 } }

/-! ### Stopping an item -/

/-- Why an item stops (R37, R77, R79, R105, R126, R311, R320, R254, R256). -/
inductive Stop where
  | numeric (r : RecInfo)
  | trap (code : Nat)
  | format (reason : Nat)
  | timeout
  | fence (tag : TagRec) (store : Bool) (addr : Nat)
  | access (cause addr : Nat)
  | aborted
  | grpReset
  | keyRetired
  | fault (kind addr : Nat)
  deriving DecidableEq, Repr

/-- Completion status of a stop (R283). -/
def Stop.status : Stop → Nat
  | .numeric _ => 1 | .trap _ => 2 | .format _ => 3 | .timeout => 4 | .fence _ _ _ => 6 | .access _ _ => 7
  | .aborted => 9 | .grpReset => 10 | .keyRetired => 11 | .fault _ _ => 0

/-- The item of a ledger entry stops for a reason other than a fault: its record where it has one, its counts, its
release without replay and its completion (R37, R77). -/
def stopEntry (s : State) (key : Nat) (e : Led) (k cmd opcode layer : Nat) (st : Stop) : State :=
  let base : RecInfo := { layer := layer, opcode := opcode, cmd := cmd }
  let rec? : Option RecInfo := match st with
    | .numeric r => some { r with layer := layer, opcode := opcode, cmd := cmd }
    | .trap code => some { base with reason := 0xFF, kstep := code }
    | .format r => some { base with reason := r }
    | .fence t _ _ => some { base with kstep := (t.getD 0#16).toNat }
    | .access _ _ => some base
    | _ => none
  let (s1, recd) := match rec? with
    | some r => writeRecord s e (recordBits s e k r)
    | none => (s, false)
  let s2 := match st with
    | .numeric _ => countTrap (latchNan s1 e.inst (recordBits s e k (rec?.getD {}))) e
    | .access c a => countViol s1 e.inst c a
    | _ => s1
  let s3 := writeCompl (releaseItem s2 key st.status) (workCompl s e st.status recd 0)
  match st with
  | .fence t store a =>
    report s3 (dieOf k) (k % 18) 0x61 e.inst (t.getD 0#16).toNat
      ((if t.isSome then 2 ^ 47 else 0) + (if store then 2 ^ 46 + a % 2 ^ 24 else a % 2 ^ 40)) none
  | _ => s3

/-- The item of a core stops. A level-1 fault reports and leaves the item to its replay (R337). -/
def stopItem (s : State) (k opcode layer : Nat) (st : Stop) : State :=
  match itemOf s k with
  | none => s
  | some (key, e) =>
    match st with
    | .fault kind addr =>
      report s (if kind = 0x32 then 8 + (pcOf s addr).1 / 3 else dieOf e.coreNo)
        (if kind = 0x32 then 0x100 + (pcOf s addr).1 % 3 else e.coreNo % 18) kind e.inst 0 addr (some key)
    | _ => stopEntry s key e e.coreNo (s.core k).cmdIdx opcode layer st

/-! ### Issue (R68, R69, R79, R81) -/

/-- How a tile command ends: done with the state and, when it stays incomplete, its flight; held; or the item stops. -/
inductive TileRes where
  | done (s : State) (flight : List Flight)
  | hold (wait : Nat)
  | stop (s : State) (st : Stop)

/-- Two ranges share a 2 KiB granule (R69). -/
def clash (a n b m : Nat) : Bool :=
  decide (0 < n) && decide (0 < m) && decide (a / 2048 ≤ (b + m - 1) / 2048) && decide (b / 2048 ≤ (a + n - 1) / 2048)

/-- What a command uses: the tile-store ranges it reads and writes, the accumulator sets by array and set (R68), and
transfer-table entries (R199). -/
structure Use where
  rd   : List (Nat × Nat) := []
  wr   : List (Nat × Nat) := []
  sets : List (Nat × Nat) := []
  xfer : Nat := 0
  deriving DecidableEq, Repr

/-- Ranges of two lists that share a granule. -/
def clashes (xs ys : List (Nat × Nat)) : Bool := xs.any fun x => ys.any fun y => clash x.1 x.2 y.1 y.2

/-- Tile n of an item is acknowledged already (R178). -/
def acked (e : Led) (n : Nat) : Bool :=
  decide (n < e.ackPfx) || (decide (n < e.ackPfx + 64) && e.ackWin.getLsbD (n - e.ackPfx))

/-- The ranges an incomplete command still reads: of a send, those of the tiles that no acknowledgement has come for (R101). -/
def Flight.reads (e : Led) (f : Flight) : List (Nat × Nat) :=
  match f.kind with
  | .send n0 ts | .epiSend n0 ts => (ts.zipIdx.filter fun x => !acked e (n0 + x.2)).map (·.1)
  | _ => f.rd

/-- The accumulator sets an incomplete command holds. -/
def Flight.sets (f : Flight) : List (Nat × Nat) :=
  match f.kind with
  | .acc arr set _ _ _ => [(arr, set)]
  | _ => []

/-- The interlock of R68 against the incomplete commands. -/
def interlock (e : Led) (c : Core) (u : Use) : Bool :=
  c.flight.any fun f =>
    clashes u.rd f.wr || clashes u.wr f.wr || clashes u.wr (f.reads e) || u.sets.any fun x => f.sets.contains x

/-! ### The transfer table (R199; assumption log 114) -/

/-- Entries that the commands in flight on a core, or of a tail, hold: one a SEND or RCV, one a tile of an EPI that no
acknowledgement has come for. -/
def coreEntries (s : State) (n : Nat) : Nat :=
  match itemOf s n with
  | none => 0
  | some (_, e) => ((s.core n).flight.map fun f => match f.kind with
    | .send _ _ | .rcv _ => 1
    | .epiSend n0 ts => ((List.range ts.length).filter fun i => !acked e (n0 + i)).length
    | _ => 0).sum

/-- Entries that a physical core's requests hold. -/
def heldBy (s : State) (k : Nat) : Nat := ((k :: tailsOf s k).map (coreEntries s)).sum

/-- Entries of a bridge die's table that its 36 physical cores do not reserve, and what a core's reserve is. -/
def Config.coreReserve : Nat := 32
def Config.sharedEntries : Nat := 16384 - 36 * Config.coreReserve

/-- The physical cores whose requests hold entries. -/
def requesters (s : State) : List Nat :=
  (s.cores.map fun kv => if kv.1 < 144 then kv.1 else ((itemOf s kv.1).map fun x => x.2.coreNo).getD 0).foldr insertAsc []

/-- Entries that a bridge die's engines hold for the instances `ok`: the shards of its collective engine, the stream traffic of
its update engine, and on BD0 the loads in progress. -/
def engineEntries (s : State) (q : Nat) (ok : Inst → Bool) : Nat :=
  ((s.sent.filter fun x => x.dkind == 3 && !x.waits && x.msg.home.toNat == q && ok x.msg.inst).map fun x =>
    ceilDiv x.msg.data.length 8192).sum +
  (s.jobs.filter fun j => j.stage == .ran && j.eng == q && ok j.inst).length +
  (if q = 0 then (s.descs.filter fun kv => kv.2.st == .loading && ok kv.2.inst).length else 0)

/-- Shared entries in use on a bridge die, and those that an instance holds on any. -/
def sharedUsed (s : State) (q : Nat) : Nat :=
  (((requesters s).filter fun k => k / 36 == q).map fun k => heldBy s k - Config.coreReserve).sum + engineEntries s q fun _ => true
def sharedHeld (s : State) (i : Inst) : Nat :=
  (((requesters s).filter fun k => (itemOf s k).any fun x => x.2.inst == i).map fun k => heldBy s k - Config.coreReserve).sum +
    ((List.range 4).map fun q => engineEntries s q (· == i)).sum

/-- Shared entries that an instance may still take on a bridge die. -/
def xferFree (s : State) (q : Nat) (i : Inst) : Nat :=
  min (Config.sharedEntries - sharedUsed s q) (fget s (Reg.mtXfercap i) 16 0 - sharedHeld s i)

/-- A core's request for `n` entries finds them: its own reserve first, then shared ones. -/
def xferFits (s : State) (k : Nat) (i : Inst) (n : Nat) : Bool :=
  decide (heldBy s k + n ≤ Config.coreReserve) || decide (heldBy s k + n ≤ max (heldBy s k) Config.coreReserve + xferFree s (k / 36) i)

/-- Entries in use on the module. -/
def xferInUse (s : State) : Nat :=
  (s.cores.map fun kv => coreEntries s kv.1).sum + ((List.range 4).map fun q => engineEntries s q fun _ => true).sum

/-- PEAK follows INUSE (R210). -/
def notePeak (s : State) : State := fset s Reg.mtXferstat 48 32 (max (fget s Reg.mtXferstat 48 32) (xferInUse s))

/-- Issued commands of a core that are incomplete (R69): an EPI is complete although the tiles it sent are not acknowledged
(R101, R107). -/
def incomplete (c : Core) : Nat :=
  (c.flight.filter fun f => match f.kind with
    | .epiSend _ _ => false
    | _ => true).length

/-- The lowest of several reasons (R80). -/
def lowest : List Nat → Option Nat
  | [] => none
  | r :: rs => match lowest rs with
    | some x => some (min r x)
    | none => some r

/-- A check that fails gives its reason. -/
def chk (bad : Bool) (reason : Nat) : List Nat := if bad then [reason] else []

/-- Bits [hi:lo] of a tile command. -/
def f120 (b : BitVec 120) (hi lo : Nat) : Nat := bits b.toNat hi lo

/-- The common header's reserved bits, and ARR and LAYER where the opcode does not use them (R70). -/
def hdrBad (b : BitVec 120) (arr layer : Bool) : Bool :=
  f120 b 117 116 ≠ 0 || (!arr && f120 b 119 118 ≠ 0) || (!layer && f120 b 115 104 ≠ 0)

def cmdArr (b : BitVec 120) : Nat := f120 b 119 118
def cmdLayer (b : BitVec 120) : Nat := f120 b 115 104

/-- The end of the tile store (R72). -/
def beyond (a n : Nat) : Bool := decide (Config.tileStoreBytes < a + n)

/-- A CMD packet of a completed command (R394); the cycles it took are timing, a free value. -/
def traceCmd (s : State) (k opcode idx arr : Nat) : State :=
  if fbit s Reg.trCfg 29 then
    let (w, s1) := s.drawWord
    tracePut s1 k (opcode * 2 ^ 104 + idx * 2 ^ 88 + arr * 2 ^ 86 + w.toNat % 2 ^ 32 * 2 ^ 32 + time32 s) 5
  else s

/-- What refuses the fetch of the core's next command from the program (R67): the page check of an item's read (R201; a page of
an adapter is read by TLD alone), or poisoned bytes (R349). -/
def fetchStop (s : State) (e : Led) (c : Core) : Option Stop :=
  let a := workProg e.desc + 16 * c.cmdIdx
  match itemRead s false e.inst (ledPart s e) a 16 with
  | .error (.viol k x) => some (.access k x)
  | .error _ => some (.access 2 a)
  | .ok tags => if tags.any Option.isSome then some (.access 2 a) else (poisoned s a 16).map fun u => .fault 0x32 u

/-- Issue the next command of the core's item (R67 to R69, R79): the program's extent and the fetch, the count of incomplete
commands, the command's format checks, the interlock and the transfer table's entries (R199), and then its effect. Without an item,
after its END, or while a context switch is in progress (R301), nothing issues. -/
def tileCmd (s : State) (k opcode : Nat) (b : BitVec 120) (fmt : Led → Core → List Nat)
    (use : Led → Core → Use) (run : Nat → Led → Core → TileRes) : State :=
  match itemOf s k with
  | none => s
  | some (key, e) =>
    let c := s.core k
    if e.st == .finishing || c.switching then s
    else if workNcmd e.desc ≤ c.cmdIdx then stopItem s k 0 0 (.format 0x0A)
    else match fetchStop s e c with
    | some st => stopItem s k 0 0 st
    | none =>
      if Config.maxInFlight ≤ incomplete c then s.updCore k fun x => { x with wait := 1 }
      else match lowest (fmt e c) with
        | some r => stopItem s k opcode (cmdLayer b) (.format r)
        | none =>
          if interlock e c (use e c) || !xferFits s k e.inst (use e c).xfer then s.updCore k fun x => { x with wait := 2 }
          else match run key e c with
            | .hold w => s.updCore k fun x => { x with wait := w }
            | .stop t st => stopItem t k opcode (cmdLayer b) st
            | .done t fl =>
              traceCmd (t.updCore k fun x => { x with cmdIdx := c.cmdIdx + 1, wait := 0, flight := x.flight ++ fl })
                k opcode c.cmdIdx (cmdArr b)

/-- A command of the core that stays incomplete, with the unit it is addressed to (R107). -/
def mkFlight (c : Core) (unit : Nat) (kind : FlightKind) (rd wr : List (Nat × Nat)) : Flight :=
  { idx := c.cmdIdx, unit := unit, kind := kind, rd := rd, wr := wr }

/-! ### Array activity (R65, R81) -/

/-- An accumulating command of an array in flight. -/
def Flight.accOf (arr : Nat) (f : Flight) : Bool :=
  match f.kind with
  | .acc n _ _ _ _ => n == arr
  | _ => false

/-- An array is demanded (R65): the first of its accumulating commands in flight has passed its fill latency. -/
def demanded (c : Core) (arr : Nat) : Bool :=
  match c.flight.find? (Flight.accOf arr) with
  | some f => (match f.kind with
    | .acc _ _ fill _ _ => fill == 0
    | _ => false)
  | none => false

/-- K steps that an array has still to perform for the commands issued to it. -/
def ksLeft (c : Core) (arr : Nat) : Nat :=
  (c.flight.map fun f => match f.kind with
    | .acc n _ _ passes per => if n = arr then ceilDiv passes per else 0
    | _ => 0).sum

/-- Count K steps of a core (R81): not in sealed mode. -/
def countKsteps (s : State) (k n : Nat) : State := if sealed s || n == 0 then s else finc s (Reg.coKsteps k) 63 0 n

end Sys2Proof.Machine
end

