-- ==== Sys2Proof/Machine/Flp.lean ====
section
/-! DEFINITION. Tiles over the Fjouno Link Protocol and the on-die network (R99, R101, R128, R220 to R225): keys, seals, headers
and transmission. -/

namespace Sys2Proof.Machine

/-! ### Keys that seal tiles (R223, R309, R321) -/

/-- KG of a 256-bit key (R309). -/
def keyG (k : BitVec 256) : BitVec 256 := Config.hmacSha256 k (ascii "T25-GCM-LINK" ++ [1#8])

/-- A run of bytes combined with the key stream. -/
def gcmXor (k : BitVec 256) (n : BitVec 96) (bs : List Byte) : List Byte := bs.zipIdx.map fun b => b.1 ^^^ Config.gcmStream k n b.2

/-- AES-256-GCM (R224): key, nonce, additional data, plaintext; the ciphertext and the 16 B tag. -/
def gcmSeal (k : BitVec 256) (n : BitVec 96) (aad pt : List Byte) : List Byte × BitVec 128 :=
  (gcmXor k n pt, Config.gcmTag k n aad (gcmXor k n pt))

/-- Its opening: the plaintext where the tag verifies. -/
def gcmOpen (k : BitVec 256) (n : BitVec 96) (aad ct : List Byte) (tag : BitVec 128) : Option (List Byte) :=
  if tag = Config.gcmTag k n aad ct then some (gcmXor k n ct) else none

/-- The key of a tile in FLP: the adapter's, the instance's, or none for a clear one (R223). -/
def tileKey (s : State) (tag : TagRec) (i : Nat) (instClass : Bool) : Option KeyEnt :=
  match tag with
  | some t => some (s.key t.toNat)
  | none => if instClass then some (s.ikey i) else none

/-! ### A tile sent by a core over FLP (R218, R220, R223, R224) -/

/-- Bytes of a tile as sent (R99). -/
def sentBytes (tfmt : Nat) : Nat :=
  match tfmt with
  | 0 => 8192 | 1 => 16384 | 2 => 24576 | 3 => 4162 | 4 => 2114 | _ => 512

/-- Slot size by TFMT (R99). -/
def tfmtSlot (tfmt : Nat) : Nat :=
  match tfmt with
  | 0 => 8192 | 1 => 16384 | 2 => 24576 | 3 => 4224 | 4 => 2176 | _ => 512

/-- The header of a tile through a peer context, or of a collective engine's (DKIND 3: the handle and 4,096 times the
destination module; R246). -/
def tileHdr (s : State) (x : Sent) : FHdr :=
  let p := s.peer x.dest
  let h : FHdr := {
    typ := 1, tagv := x.msg.tag.isSome, sealB := x.keygen ≠ 0#8, epoch := grpEpoch s p.group, srcMod := x.msg.srcMod.toNat,
    home := x.msg.home.toNat, engine := x.msg.engine, dstMod := p.remmod.toNat, dstCtx := p.remctx.toNat, srcCtx := x.dest,
    seq := x.msg.seq.toNat, nshard := ceilDiv x.msg.data.length 8192 - 1, tfmt := x.msg.tfmt.toNat, inst := x.msg.inst.val,
    rtag := x.msg.rtag.toNat, ord := x.msg.ord.toNat, tag := (x.msg.tag.getD 0#16).toNat, keygen := x.keygen.toNat, era := x.era }
  if x.dkind = 3 then
    let n := x.dest % 4096
    { h with epoch := grpEpoch s (s.stream n).group, dstMod := x.dest / 4096, dstCtx := n, srcCtx := n }
  else h

/-- The group of a retained tile is changing: it is held untransmitted (R237). -/
def heldTile (s : State) (x : Sent) : Bool :=
  if x.dkind = 3 then fbit s (Reg.fbGroup (s.stream (x.dest % 4096)).group) 31 else (s.peer x.dest).st == 2

/-- The bytes that cross and the seal (R221, R224). -/
def sealTile (s : State) (h : FHdr) (x : Sent) : List Byte × List Byte :=
  if x.keygen = 0#8 then (x.msg.data, [])
  else
    let key := ((tileKey s x.msg.tag x.msg.inst true).map (·.key)).getD 0#256
    let (ct, tag) := gcmSeal (keyG key) h.nonce h.aad x.msg.data
    (ct, leBytes 16 tag.toNat ++ leBytes 12 h.nonce.toNat ++ leBytes 4 0)

/-- Transmit one shard of a retained tile. -/
def sendShard (s : State) (x : Sent) (sh route : Nat) (resent : Bool) : State :=
  let h := { tileHdr s x with shard := sh, route := route, resent := resent }
  let (bs, sl) := sealTile s h x
  sendPkt s h ((bs.drop (8192 * sh)).take 8192) (if sh = h.nshard then sl else [])

/-- Replace a retained tile. -/
def setSent (s : State) (x : Sent) : State :=
  { s with sent := s.sent.map fun y => if y.led == x.led && y.n == x.n then x else y }

/-- Frames of 1 KiB under a die-to-die link's transport key (R128, R308): ciphertext and tag. The spec gives no nonce, a free value. -/
def linkFrames (key : BitVec 256) (nonce : W64) (bs : List Byte) : List Byte :=
  (chunks 1024 bs.length bs).zipIdx.flatMap fun f =>
    let (ct, tag) := gcmSeal key (BitVec.ofNat 96 (nonce.toNat * 4096 + f.2)) [] f.1
    ct ++ leBytes 16 tag.toNat

/-- A tile leaves its die for another core of the module or for an engine, under the key of the die's link to its bridge die; to a core of
its own die it goes in clear (R128; assumption log 173). -/
def netTile (s : State) (x : Sent) : State :=
  if x.dkind = 0 ∧ x.dest / 16 = dieOf x.core then s.emit (.tile x.dkind x.dest x.msg)
  else
    let (w, s1) := s.drawWord
    s1.emit (.tile x.dkind x.dest { x.msg with data := linkFrames (Tab.get 0#256 s.linkKeys (dieOf x.core)) w x.msg.data })

/-- Transmit every shard of a tile on route 0, or put it on the on-die network (R99, R229). -/
def transmit (s : State) (x : Sent) : State :=
  if x.dkind = 1 ∨ x.dkind = 3 then
    let n := ceilDiv x.msg.data.length 8192
    let y := { x with shards := List.replicate n { last := s.time }, time := s.time, waits := false, refused := none }
    if heldTile s x then setSent s { y with shards := List.replicate n { last := s.time, started := false } }
    else (List.range n).foldl (fun t sh => sendShard t y sh 0 false) (setSent s y)
  else
    let y := { x with time := s.time, waits := false, refused := none }
    netTile (setSent s y) y

end Sys2Proof.Machine
end

