-- ==== Sys2Proof/Machine/Sender.lean ====
section
/-! DEFINITION. The tile sender (R99 to R103, R175 to R178): destinations, numbering, suppression, retention. -/

namespace Sys2Proof.Machine

/-- What a send names. -/
structure SendTo where
  dkind : Nat
  dest  : Nat
  rtag  : Nat
  tfmt  : Nat
  deriving DecidableEq, Repr

/-- Whether the destination is valid for an item's instance (R99). A context that its group's change holds is no
inactive one: its tiles are held untransmitted (R237). -/
def destOk (s : State) (e : Led) (d : SendTo) : Bool :=
  match d.dkind with
  | 0 => decide (d.dest < 128) && inPart s (ledPart s e) d.dest
  | 1 => let p := s.peer d.dest
    (p.st == 1 || p.st == 2) && p.inst == e.inst
  | _ => let x := s.stream d.dest
    decide (d.dest < 4096) && (x.st == .open_ || x.st == .active) && x.group.val == ledPart s e && (!x.cls || x.inst == e.inst)

/-- Slots that this module holds in a group, ascending (R241). -/
def mySlots (s : State) (g : Nat) : List Nat :=
  (List.range (slotsOf s g)).filter fun q => slotMod s g q == some (modId s)

/-- STRMODE (R244): format, position and tile index of the tiles ord to ord + n - 1 that a stream takes. -/
def strBad (s : State) (d : SendTo) (ord n : Nat) : Bool :=
  if d.dkind ≠ 2 then false
  else
    let x := s.stream d.dest
    let per := if d.tfmt = 5 then 128 else 4096
    (x.op ≠ 2 && x.op ≠ 4) || decide (d.tfmt ≠ (if x.e ≤ 128 then 5 else 1)) ||
      decide ((mySlots s x.group).length * x.nlocal ≤ d.rtag) || decide (ceilDiv x.e per < ord + n)

/-- Format faults of a send of `n` tiles from number `n0` and ordinal `ord` (R80, R99, R100, R175, R244). -/
def sendFaults (s : State) (e : Led) (d : SendTo) (n0 ord n : Nat) : List Nat :=
  chk (2 ^ 20 < n0 + n || 65536 < ord + n) 0x06 ++ chk (!destOk s e d) 0x23 ++ chk (destOk s e d && strBad s d ord n) 0x40

/-- The one tag record of a range, or the first granule that carries another (R99). -/
def oneTag (t : TileStore) (a n : Nat) : Except (TagRec × Nat) TagRec :=
  match granules a n with
  | [] => .ok none
  | g :: gs =>
    match gs.find? fun x => t.tag x ≠ t.tag g with
    | some x => if (t.tag x).isSome then .error (t.tag x, x * Config.granule) else .error (t.tag g, a)
    | none => .ok (t.tag g)

/-- The tag record that a stream's contributions carry (R243, R244). -/
def Stream.tagRec (x : Stream) : TagRec := if x.tagv then some x.tag else none

/-- The first of several tiles that may not be sent: of mixed tags (R99), or of another tag than its stream's (R244). -/
def sendFence (s : State) (t : TileStore) (d : SendTo) (addrs : List Nat) : Option (TagRec × Nat) :=
  addrs.findSome? fun a => match oneTag t a (sentBytes d.tfmt) with
    | .ok g => if d.dkind = 2 ∧ g ≠ (s.stream d.dest).tagRec then some (g, a) else none
    | .error x => some x

/-- The key generation a tile is sealed under: none where it crosses clear, an error where no generation is ACTIVE
(R223, R320). -/
def sealGen (s : State) (e : Led) (d : SendTo) (tag : TagRec) : Option Byte :=
  if d.dkind ≠ 1 then some 0#8
  else match tileKey s tag e.inst (s.peer d.dest).cls with
    | none => some 0#8
    | some k => if k.st == .active && !k.refused then some k.keygen else none

/-- A send is squashed when a tile needs a key generation that is not ACTIVE (R320). -/
def sendRetired (s : State) (e : Led) (t : TileStore) (d : SendTo) (addrs : List Nat) : Bool :=
  addrs.any fun a => match oneTag t a (sentBytes d.tfmt) with
    | .ok tag => (sealGen s e d tag).isNone
    | .error _ => false

/-- Send one tile (R100, R101, R175 to R178). -/
def sendTile (s : State) (key k : Nat) (d : SendTo) (ord n a : Nat) : State :=
  match s.ledAt key with
  | none => s
  | some e =>
    let s1 := s.updLed key fun x => { x with sent := max x.sent (n + 1) }
    if acked e n then s1
    else
      let st := (s.core k).store
      let tag := match oneTag st a (sentBytes d.tfmt) with
        | .ok t => t
        | .error _ => none
      let m : TileMsg := {
        srcMod := BitVec.ofNat 19 (modId s), home := BitVec.ofNat 3 e.home.val, seq := BitVec.ofNat 48 (e.lsn * 2 ^ 20 + n),
        inst := e.inst, rtag := BitVec.ofNat 12 d.rtag, tfmt := BitVec.ofNat 3 d.tfmt, ord := BitVec.ofNat 16 ord,
        tag := tag, data := st.read a (sentBytes d.tfmt) }
      let x : Sent := {
        led := key, core := fin 143 k, n := n, era := e.era, dkind := d.dkind, dest := d.dest, msg := m, shards := [],
        time := s.time, keygen := (sealGen s e d tag).getD 0#8, waits := decide (e.ackPfx + 64 ≤ n) }
      let s2 := { s1 with sent := s1.sent.filter (fun y => !(y.led == key && y.n == n)) ++ [x] }
      if x.waits then s2 else transmit s2 x

/-- Send tiles in order: the i-th carries number n0 + i and ordinal ord + i. -/
def sendTiles (s : State) (key k : Nat) (d : SendTo) (ord n0 : Nat) (addrs : List Nat) : State :=
  let s1 := s.updCore k fun c => { c with sendN := c.sendN + addrs.length }
  addrs.zipIdx.foldl (fun t x => sendTile t key k d (ord + x.2) (n0 + x.2) x.1) s1

/-- The acknowledgement prefix and window after tile `n` (R176): the prefix moves past the ones at its head, with fuel. -/
def ackSlide : Nat → Nat → W64 → Nat × W64
  | 0, p, w => (p, w)
  | fuel + 1, p, w => if w.getLsbD 0 then ackSlide fuel (p + 1) (w >>> 1) else (p, w)

def ackTile (e : Led) (n : Nat) : Led :=
  if acked e n ∨ e.ackPfx + 64 ≤ n then e
  else
    let (p, w) := ackSlide 65 e.ackPfx (e.ackWin ||| BitVec.ofNat 64 (2 ^ (n - e.ackPfx)))
    { e with ackPfx := p, ackWin := w }

/-- Semaphore adds of SIGNALs whose unit has nothing earlier incomplete (R76), with fuel: each removes its flight. -/
def Core.settle (unitBusy : Core → Flight → Bool) : Nat → Core → Core
  | 0, c => c
  | fuel + 1, c =>
    match c.flight.find? fun f => (match f.kind with
        | .signal _ _ => !unitBusy c f
        | _ => false) with
    | some f =>
      match f.kind with
      | .signal sem n =>
        Core.settle unitBusy fuel { c with
          sems := Tab.upd 0 c.sems sem (· + n)
          flight := c.flight.filter fun g => g ≠ f }
      | _ => c
    | none => c

/-- An earlier command addressed to a SIGNAL's unit is incomplete (R76, R107). -/
def unitBusy (c : Core) (f : Flight) : Bool :=
  c.flight.any fun g => decide (g.idx < f.idx) && (match g.kind with
    | .signal _ _ => false
    | _ => f.unit == 7 || g.unit == f.unit)

def settleCore (s : State) (k : Nat) : State := s.updCore k fun c => c.settle unitBusy 33

/-- A send's tiles are all acknowledged. -/
def sendDone (e : Led) (n0 cnt : Nat) : Bool := (List.range cnt).all fun i => acked e (n0 + i)

/-- The commands of a core that sent tiles complete once all of theirs are acknowledged (R101). -/
def finishSends (s : State) (k : Nat) (e : Led) : State :=
  settleCore (s.updCore k fun c => { c with flight := c.flight.filter fun f => match f.kind with
    | .send n0 ts | .epiSend n0 ts => !sendDone e n0 ts.length
    | _ => true }) k

/-! ### Commit and completion (R18, R21, R78, R277, R283) -/

/-- Stage 12 of a step has finished here, or the step runs none (R19, R21). -/
def stage12Done (s : State) (p : Nat) (n : W32) : Bool :=
  match (stepRec s p n).outcome with
  | .suppressed | .discarded => true
  | .applied =>
    (s.stage12.all fun x => !(x.part.val == p && x.step == n) || x.done) &&
    (s.jobs.all fun j => !(j.part.val == p && j.step == n))
  | _ => false

/-- OUTCOME of a step's update item (R283). -/
def stepOutcome (s : State) (p : Nat) (n : W32) : Nat :=
  match (stepRec s p n).outcome with
  | .suppressed => 1
  | .discarded | .held => 2
  | _ => if s.stage12.any fun x => x.part.val == p && x.step == n && x.mismatch then 3 else 0

/-- Write the completion of a committed item: at once, or for the step's update item after stage 12; its entry goes. -/
def completeItem (s : State) (key : Nat) : State :=
  match s.ledAt key with
  | none => s
  | some e =>
    let p := ledPart s e
    if e.st != .finishing || e.pcore.isSome then s
    else if workStepEnd e.desc then
      if stage12Done s p e.step then
        let s1 := writeCompl { s with led := Tab.erase s.led key } (workCompl s e 0 false (stepOutcome s p e.step))
        if stepOutcome s p e.step = 3 then finc s1 (Reg.lsOutcomes p) 63 32 1 else s1
      else s
    else writeCompl { s with led := Tab.erase s.led key } (workCompl s e 0 false 0)

/-- A GSQ contribution of an NRM reaches its entry (R148, R150). One to a base table belongs to the lowest slot held here
(assumption log 67). -/
def commitGsq (e : Led) (s : State) (x : GsqPart) : State :=
  let (s1, o) := addGsq s x.base x.who x.layer x.step x.v
  let s2 := if x.base then addSlotGsq s1 x.who ((mySlots s x.who).headD 0) x.layer x.step x.v else s1
  countOvf s2 e x.layer o

/-- Commit an item that reached END once every command of it has completed (R78): its output generation is published, the
contributions of its NRMs reach their entries (assumption log 156), its journalled tiles go, and the core is free. -/
def commitItem (s : State) (k : Nat) : State :=
  match itemOf s k with
  | none => s
  | some (key, e) =>
    if e.st != .finishing || !(s.core k).flight.isEmpty then s
    else
      let h := entNum e.desc 48 4
      let s0 := (s.core k).gsq.foldl (commitGsq e) s
      let s1 := if h = 0 then s0 else
        { s0 with gens := Tab.put 0#32 s0.gens (e.inst * 65536 + h % 65536) (BitVec.ofNat 32 (entNum e.desc 52 4)) }
      let s2 := leaveCore s1 key e 0
      let s3 := { (s2.updLed key fun x => { x with pcore := none, ran := runNs s2 e }) with
        journal := s2.journal.filter fun t => t.led ≠ key, sent := s2.sent.filter fun t => t.led ≠ key }
      completeItem s3 key

/-- An acknowledgement of tile n of an entry (R101, R176): the ledger, tiles that waited for ACKPFX, and the core. -/
def acknowledge (s : State) (key n : Nat) : State :=
  match s.ledAt key with
  | none => s
  | some e =>
    let e1 := ackTile e n
    let s1 := { (s.updLed key fun _ => e1) with sent := s.sent.filter fun x => !(x.led == key && x.n == n) }
    let ready := s1.sent.filter fun x => x.led == key && x.waits && decide (x.n < e1.ackPfx + 64)
    let s2 := ready.foldl transmit s1
    match seatOf s2 key e1 with
    | some k => commitItem (finishSends s2 k e1) k
    | none => s2

/-- The item of a ledger key on its core or in its context image: change its core state, and settle its SIGNALs. -/
def updItemCore (s : State) (key : Nat) (f : Core → Core) : State :=
  match s.ledAt key with
  | none => s
  | some e => match seatOf s key e with
    | some k => commitItem (s.updCore k fun c => (f c).settle unitBusy 33) k
    | none => { s with ctx := s.ctx.map fun x => if x.2.led = key then (x.1, { x.2 with core := (f x.2.core).settle unitBusy 33 }) else x }

/-- A UPD completes at every command that waits for it (R155, R156). -/
def finishJob (s : State) (j : UpdJob) : State :=
  updItemCore { s with jobs := s.jobs.filter fun (x : UpdJob) => x.id ≠ j.id } j.led fun c =>
    { c with flight := c.flight.filter fun f => f.kind ≠ .upd j.id }

end Sys2Proof.Machine
end

