-- ==== Sys2Proof/Machine/Activity.lean ====
section
/-! DEFINITION. Array activity (R62, R65, R66, R390, R391): levels, credit, start grants, and the passes of the accumulating
commands in flight. -/

namespace Sys2Proof.Machine

/-- The ceiling of the activity level: 32, or the limiter's activity cap (R65, R390). -/
def levelCap (s : State) : Nat := if s.pw.c16 then 16 else if s.pw.c24 then 24 else 32

/-- One cycle of an array, and whether it performs a pass (R65). A level above a new cap falls to it at once. -/
def Arr.cycle (cap : Nat) (dem : Bool) (a : Arr) : Arr × Bool :=
  if !dem then
    let l := a.level - 1
    ({ a with level := l, credit := if l = 0 then 0 else min 31 (a.credit + l), turn := none }, false)
  else if a.level = 0 then
    match a.turn with
    | some (n + 1) => if n = 0 then ({ a with level := 1, credit := 1, turn := none }, false) else ({ a with turn := some n }, false)
    | _ => ({ a with turn := none }, false)
  else
    let l := min cap (a.level + 1)
    let c := a.credit + l
    if 32 ≤ c then ({ a with level := l, credit := c - 32 }, true) else ({ a with level := l, credit := c }, false)

/-- The head command of an array performs one pass: the rest of the flight, and the K steps that ended (R61). -/
def passOf (arr : Nat) : List Flight → List Flight × Nat
  | [] => ([], 0)
  | f :: fs =>
    match f.kind with
    | .acc n set fill passes per =>
      if n = arr then
        (if passes ≤ 1 then fs else { f with kind := .acc n set fill (passes - 1) per } :: fs, if (passes - 1) % per = 0 then 1 else 0)
      else let (r, d) := passOf arr fs; (f :: r, d)
    | _ => let (r, d) := passOf arr fs; (f :: r, d)

/-- Commands in flight fill for one cycle (R62): the feeders fill for the next command while the current one runs. -/
def fillOne (f : Flight) : Flight :=
  match f.kind with
  | .acc n set fill passes per => { f with kind := .acc n set (fill - 1) passes per }
  | _ => f

/-- One cycle of an array of a core: the core, and the K steps that ended. -/
def Core.cycleArr (cap : Nat) (x : Core × Nat) (n : Nat) : Core × Nat :=
  let (a, ran) := (x.1.arr n).cycle cap (demanded x.1 n)
  let c := x.1.setArr n a
  if ran then
    let (fl, d) := passOf n c.flight
    ({ c with flight := fl }, x.2 + d)
  else (c, x.2)

/-- One cycle of a core's arrays. -/
def Core.cycle (cap : Nat) (x : Core × Nat) : Core × Nat :=
  let (c, d) := (List.range 4).foldl (Core.cycleArr cap) x
  ({ c with flight := c.flight.map fillOne }, d)

/-- Several cycles. -/
def Core.cycles (cap : Nat) : Nat → Core × Nat → Core × Nat
  | 0, x => x
  | n + 1, x => Core.cycles cap n (Core.cycle cap x)

/-- The arrays of a core have something to do. -/
def arrsBusy (c : Core) : Bool :=
  (c.flight.any fun f => (List.range 4).any fun n => f.accOf n) || c.arrs.any fun a => a.2.level ≠ 0 || a.2.credit ≠ 0

/-- Edges of a core's clock in the nanosecond that ends now (R380, R381): none while the clock is gated (R386). -/
def clockEdges (s : State) (k : Nat) : Nat :=
  let f := fget s (Reg.ckDie (dieOf k)) 31 16
  let t := s.time.toNat
  match (s.core k).power with
  | .doze | .nap => 0
  | _ => t * f / 1000 - (t - 1) * f / 1000

/-- A core's arrays after a nanosecond: passes are performed, K steps counted (R81), commands whose passes are all performed are
complete (R76, R78). -/
def tickCore (s : State) (k : Nat) : State :=
  let c := s.core k
  if !arrsBusy c then s
  else
    let (c1, d) := Core.cycles (levelCap s) (clockEdges s k) (c, 0)
    let s1 := countKsteps (s.setCore k c1) k d
    if c1.flight.length < c.flight.length then commitItem (settleCore s1 k) k else s1

/-- The arrays of every core after a nanosecond (R65). -/
def tickArrays (s : State) : State := ((s.cores.map (·.1)).filter (· < 144)).foldl tickCore s

/-! ### Start grants (R66, R391) -/

/-- An array requests a start: demanded, at L = 0, and not admitted yet. -/
def asksStart (c : Core) (n : Nat) : Bool := demanded c n && (c.arr n).level == 0 && (c.arr n).turn.isNone

/-- A core has a pending request. -/
def coreAsks (c : Core) : Bool := (List.range 4).any (asksStart c)

/-- The lowest logical core of a die with a pending request (R66). -/
def startCore (s : State) (d : Nat) : Option Nat :=
  ((List.range 16).map (16 * d + ·)).find? fun l => mapped s l && coreAsks (s.core (physOf s l))

/-- Every array of a die stands at L = 0: the PMU holds its first start grant (R391). -/
def dieStill (s : State) (d : Nat) : Bool :=
  (List.range 18).all fun c => (s.core (18 * d + c)).arrs.all fun a => a.2.level == 0 && a.2.turn.isNone

/-- The PMU releases a still die's first grant: 12.8 ns after the previous such release on any die, and after every lower die that
contends (R391). -/
def releases (s : State) (d : Nat) : Bool :=
  (match s.released with
    | some t => decide (10 * t.toNat + 128 ≤ 10 * s.time.toNat)
    | none => true) &&
  (List.range d).all fun x => !(dieStill s x && (startCore s x).isSome)

/-- A grant to another core follows the last by at least 4 cycles of the die's clock (R66). -/
def grantDue (s : State) (d k : Nat) : Bool :=
  match Tab.find s.grants d with
  | some (last, t) => last == k || decide (4000 ≤ (s.time.toNat - t.toNat) * fget s (Reg.ckDie d) 31 16)
  | none => true

/-- The arrays of a granted core that request a start are admitted in ascending number, one a cycle from the grant's cycle on. -/
def Core.grant (c : Core) : Core :=
  ((List.range 4).filter (asksStart c)).zipIdx.foldl (fun x y => x.updArr y.1 fun a =>
    if y.2 = 0 then { a with level := 1, credit := 1 } else { a with turn := some y.2 }) c

/-- START_GRANT (R65, R66, R391): one decision of a die's arbiter, for its lowest logical core with a pending request. -/
def execStartGrant (d : Die) (s : State) : Res :=
  match startCore s d with
  | none => .next s
  | some l =>
    let k := physOf s l
    if !grantDue s d k || (dieStill s d && !releases s d) then .next s
    else
      let s1 := { s with
        grants := Tab.insert s.grants d (k, s.time)
        released := if dieStill s d then some s.time else s.released }
      .next (s1.updCore k Core.grant)

end Sys2Proof.Machine
end

