-- ==== Sys2Proof/Machine/Segs.lean ====
section
/-! DEFINITION. SEG (R115 to R119, R136, R320). -/

namespace Sys2Proof.Machine

/-- Entries of a segment table: tag, first row, row count (R115). -/
def segEntries (st : TileStore) (a n : Nat) : List (Tag × Nat × Nat) :=
  (List.range n).map fun i =>
    let v := Memory.num st.mem (a + 8 * i) 8
    (BitVec.ofNat 16 (bits v 15 0), bits v 39 16, bits v 63 40)

/-- The layout rules of R115 from the end of the previous segment and the tags before. -/
def segLayoutOk : Nat → List Tag → List (Tag × Nat × Nat) → Bool
  | _, _, [] => true
  | lo, seen, (t, f, c) :: rest =>
    decide (1 ≤ c) && decide (f + c ≤ 2 ^ 24) && decide (lo ≤ f) && !seen.contains t && segLayoutOk (f + c) (t :: seen) rest

/-- What a failed LOAD reports (R117). -/
inductive SegFail where
  | reason (r : Nat)
  | fence (t : Tag) (addr : Nat)
  | retired
  deriving DecidableEq, Repr

/-- The state check of one entry (R117, R320). -/
def segState (d : Desc) : Option SegFail :=
  match d.st with
  | .resident | .trainable => none
  | .refused => some (.reason 0x29)
  | .retiring => some .retired
  | _ => some (.reason 0x2A)

/-- The checks of R117 in the order of its table. -/
def segChecks (s : State) (e : Led) (st : TileStore) (train : Bool) (a n : Nat) : Option SegFail :=
  let layout := chk (beyond a (8 * n)) 0x03 ++ chk (n = 0 || 64 < n || !segLayoutOk 0 [] (segEntries st a n)) 0x28
  match lowest layout with
  | some r => some (.reason r)
  | none =>
    let es := segEntries st a n
    let ds := es.map fun x => s.desc x.1.toNat
    let owner := es.zipIdx.find? fun x => (s.desc x.1.1.toNat).st != .free && (s.desc x.1.1.toNat).inst != e.inst
    match owner with
    | some x => some (.fence x.1.1 (a + 8 * x.2))
    | none => match ds.findSome? segState with
      | some f => some f
      | none =>
        if ds.any fun d => d.basefp != e.basefp then some (.reason 0x29)
        else if train && (e.cls ≠ 0 || ds.any fun d => d.st != .trainable || d.role == .serve) then some (.reason 0x2B)
        else none

/-- The latched form of an entry: α, KEYGEN, rank and the directory that the item's swap sequence selects (R117, R136). -/
def segLatch (s : State) (e : Led) (x : Tag × Nat × Nat) : SegEnt :=
  let d := s.desc x.1.toNat
  { tag := x.1, first := x.2.1, count := x.2.2, alpha := d.alpha, keygen := d.keygen, rankq := d.rankq,
    dir := if sdiff32 e.swapSeq d.swapSeq < 0 then d.prevDir else d.dir }

/-- SEG LOAD (R117). -/
def runSegLoad (s : State) (key k : Nat) (b : BitVec 120) (e : Led) (c : Core) : TileRes :=
  let train := f120 b 101 101 = 1
  let n := f120 b 100 94
  let a := 64 * f120 b 93 76
  let fail := fun (st : Stop) => TileRes.stop (finc s (Reg.adEvents (ledPart s e)) 31 16 1) st
  match segChecks s e c.store train a n with
  | some (.reason r) => fail (.format r)
  | some (.fence t x) => fail (.fence (some t) true x)
  | some .retired => fail .keyRetired
  | none =>
    let es := segEntries c.store a n
    let s1 := es.foldl (fun t x => t.updDesc x.1.toNat fun d => { d with lastStep := e.step }) s
    let s2 := s1.updLed key fun l => { l with latched := l.latched ++ (es.map (·.1)).filter fun t => !l.latched.contains t }
    .done (s2.updCore k fun c => { c with seg := some { train := train, ents := es.map (segLatch s e) }, sel := none }) []

/-- Segments of the latched table. -/
def segCount (c : Core) : Nat := (c.seg.map fun t => t.ents.length).getD 0

/-- Format faults that SEG shows at issue (R80, R116, R118). -/
def segFaults (b : BitVec 120) (c : Core) : List Nat :=
  match f120 b 103 102 with
  | 0 => chk (hdrBad b false false || f120 b 75 0 ≠ 0) 0x02
  | 1 => chk (hdrBad b false false || f120 b 67 0 ≠ 0) 0x02 ++ chk (segCount c ≤ f120 b 101 96) 0x2C
  | 2 => chk (hdrBad b false false || f120 b 101 0 ≠ 0) 0x02
  | _ => chk (hdrBad b false false) 0x02 ++ [0x05]

/-- SEG (R116 to R118). -/
def segCmd (k : PCore) (b : BitVec 120) (s : State) : State :=
  tileCmd s k 0x23 b (fun _ c => segFaults b c)
    (fun _ _ => if f120 b 103 102 = 0 then { rd := [(64 * f120 b 93 76, 8 * f120 b 100 94)] } else {})
    (fun key e c => match f120 b 103 102 with
      | 0 => runSegLoad s key k b e c
      | 1 => .done (s.updCore k fun c => { c with
          sel := some { sidx := f120 b 101 96, tax := f120 b 95 94, rax := f120 b 93 92, rowbase := f120 b 91 68 } }) []
      | _ => .done (s.updCore k fun c => { c with sel := none }) [])

/-- SEG, OP 0. -/
def execSegLoad (k : PCore) (b : BitVec 120) (s : State) : Res := .next (segCmd k b s)
/-- SEG, OP 1. -/
def execSegSelect (k : PCore) (b : BitVec 120) (s : State) : Res := .next (segCmd k b s)
/-- SEG, OP 2. -/
def execSegClear (k : PCore) (b : BitVec 120) (s : State) : Res := .next (segCmd k b s)

end Sys2Proof.Machine
end

