-- ==== Sys2Proof/Machine/Operands.lean ====
section
/-! DEFINITION. Operand forms: uncoded and coded tiles (R43 to R53, R72), selections (R118), prologues (R84 to R88), and
the parts of an operand element (R24). -/

namespace Sys2Proof.Machine

/-- An operand run of an accumulating command: code form (R43), FP32 format, address and codebook address in bytes. -/
structure Opnd where
  code : Nat
  fp32 : Bool
  addr : Nat
  book : Nat
  deriving DecidableEq, Repr

/-- Image and slot sizes (R72). R72 gives a reserved code form (5 to 7) none; its operands take the C8 sizes in the range check, so
that a run beyond the store reports RANGE before ENCODING (assumption log 146). -/
def imageSize (code : Nat) (fp32 : Bool) : Nat :=
  if code = 0 then (if fp32 then 16384 else 8192) else if code = 2 then 2114 else 4162
def slotSize (code : Nat) (fp32 : Bool) : Nat :=
  if code = 0 then (if fp32 then 16384 else 8192) else if code = 2 then 2176 else 4224

/-- Bytes of a codebook (R45); zero for a form without one. -/
def bookBytes (code : Nat) : Nat := if code = 1 then 512 else if code = 2 then 32 else 0

/-- An element as it enters the multiplier: its parts in pass order (R24), its finite value, and what its expansion or
prologue reported: overflows and NANIN. -/
structure Elem where
  parts : List (Option Fv)
  val   : Fv
  o     : Nat := 0
  nan   : Option Bool := none
  deriving DecidableEq, Repr, Inhabited

/-- An FP16 element: one part. -/
def elem16 (x : W16) : Elem := { parts := [some (dec16 x)], val := dec16 x }

/-- An FP32 element: lo, then hi (R24). -/
def elem32 (x : W32) : Elem := { parts := [loPart x, some (hiPart x)], val := dec32 x }

/-- A masked element: +0 (R118). -/
def elemZero (fp32 : Bool) : Elem := if fp32 then elem32 0#32 else elem16 0#16

/-- The expansion of a code (R50, R51): RNE16 of the exact triple product. -/
def expand (b blk grp : Fv) : Elem :=
  let x := (b.mul blk).mul grp
  let (h, o) := rne16 x
  { parts := [some (dec16 h)], val := dec16 h, o := b2n o,
    nan := if x.isNan then some (b.isNan || blk.isNan || grp.isNan) else none }

/-- The code at (k, j) of a coded tile image at `a` (R53). -/
def codeAt (t : TileStore) (code a k j : Nat) : Nat :=
  if code = 2 then
    let w := (Memory.get t.mem (a + 32 * k + j / 2)).toNat
    if j % 2 = 0 then w % 16 else w / 16
  else (Memory.get t.mem (a + 64 * k + j)).toNat

/-- The base value of a code (R43). -/
def baseValue (code : Nat) (book : List W16) (c : Nat) : Fv :=
  if code = 3 then decI8 (BitVec.ofNat 8 c)
  else if code = 4 then decF8 (BitVec.ofNat 8 c)
  else dec16 (book.getD c 0#16)

/-- A coded element (R50). -/
def codedElem (t : TileStore) (code a k j : Nat) (book : List W16) : Elem :=
  let plane := if code = 2 then 2048 else 4096
  expand (baseValue code book (codeAt t code a k j)) (decBlockScale (Memory.get t.mem (a + plane + j)))
    (decGroupScale (t.h (a + plane + 64)))

/-! ### Prologues (R86, R87) -/

def f32One : W32 := 0x3F800000#32
def f32Two : W32 := 0x40000000#32
def f32Three : W32 := 0x40400000#32
def f32Half : W32 := 0x3F000000#32
/-- C1 = RNE32(√(2/π)) and C2 = RNE32(0.044715) (R86). -/
def geluC1 : W32 := 0x3F4C422A#32
def geluC2 : W32 := 0x3D372713#32

def proClamp (u : Rv) (lo hi : W32) : Rv := Rv.min (Rv.max u (rv lo)) (rv hi)
/-- sig of R86; -80.0 is 0xC2A00000. -/
def proSig (x : Rv) : Rv := Rv.rcp (Rv.add (rv f32One) (Rv.exp (Rv.neg (Rv.max x (rv 0xC2A00000#32)))))
/-- th of R86; ±16.0 are 0xC1800000 and 0x41800000. -/
def proTh (u : Rv) : Rv :=
  Rv.sub (rv f32One) (Rv.mul (rv f32Two) (Rv.rcp (Rv.add (Rv.exp (Rv.mul (rv f32Two)
    (proClamp u 0xC1800000#32 0x41800000#32))) (rv f32One))))
def proRelu (x : Rv) : Rv := Rv.pick x x.again (rv 0#32)
def proSilu (x : Rv) : Rv := Rv.mul x (proSig x.again)
def proGelu (x : Rv) : Rv :=
  let x' := x.again
  let u := Rv.mul (rv geluC1) (Rv.fma (rv geluC2) (Rv.mul (Rv.mul x x') x') x')
  Rv.mul (Rv.mul (rv f32Half) x') (Rv.add (rv f32One) (proTh u))
def proDrelu (g z : Rv) : Rv := Rv.pick z g (rv 0#32)
def proDsilu (g z : Rv) : Rv :=
  let s := proSig z
  Rv.mul g (Rv.mul s (Rv.fma z.again (Rv.sub (rv f32One) s.again) (rv f32One)))
def proDgelu (g z : Rv) : Rv :=
  let z' := z.again
  let z2 := Rv.mul z z'
  let t := proTh (Rv.mul (rv geluC1) (Rv.fma (rv geluC2) (Rv.mul z2 z') z'))
  let du := Rv.mul (rv geluC1) (Rv.fma (Rv.mul (rv f32Three) (rv geluC2)) z2.again (rv f32One))
  let b := Rv.mul (Rv.mul (Rv.mul (rv f32Half) z') (Rv.fma (Rv.neg t) t.again (rv f32One))) du
  Rv.mul g (Rv.add (Rv.mul (rv f32Half) (Rv.add (rv f32One) t.again)) b)

/-- The bytes a stream slot holds: Z for a derivative, γ and β or γ for a norm (R87; a Z slot is an FP16 tile,
assumption log 11). -/
def streamSlot (p : Prologue) (nrm : Nat) : Nat :=
  if 8 ≤ p.fn then 8192 else if nrm = 2 then 256 else if nrm = 1 then 128 else 0

/-- The norm of a prologue: 0 none, 1 RMS, 2 layer. -/
def Prologue.kind (p : Prologue) : Nat := p.norm

/-- y of R86 and R87 for the element x at lane `j` of K step `k` of K tile `t`. -/
def proValue (st : TileStore) (p : Prologue) (t k j : Nat) (x : W32) : Rv :=
  let slot := p.paddr + t * streamSlot p p.norm
  let g := rv (widen (st.h (slot + 2 * k)))
  let be := rv (widen (st.h (slot + 128 + 2 * k)))
  let mu := rv (p.mu.getD j 0#32)
  let rs := rv (p.rstd.getD j 0#32)
  let x := rv x
  let y := if p.norm = 2 then Rv.fma (Rv.mul (Rv.sub x mu) rs) g be
    else if p.norm = 1 then Rv.mul (Rv.mul x rs) g else x
  let z := rv (widen (st.h (slot + 128 * k + 2 * j)))
  match p.fn with
  | 1 => proRelu y
  | 2 => proSilu y
  | 3 => proGelu y
  | 8 => proDrelu y z
  | 9 => proDsilu y z
  | 10 => proDgelu y z
  | _ => y

/-- The prologue's result in the operand's format (R86). -/
def proElem (fp32 : Bool) (y : Rv) : Elem :=
  if fp32 then
    let bad := match y.nan with
      | some n => some n
      | none => if isNan32 y.v then some true else none
    { elem32 y.v with o := y.o, nan := bad }
  else
    let (h, o) := rne16 (dec32 y.v)
    let bad := match y.nan with
      | some n => some n
      | none => if isNan32 y.v then some true else none
    { elem16 h with o := y.o + b2n o, nan := bad }

/-! ### Elements under a selection (R118) -/

/-- A selection with its segment's bounds and rank. -/
structure SelInfo where
  tax     : Nat
  rax     : Nat
  rowbase : Nat
  first   : Nat
  count   : Nat
  rank    : Nat
  tag     : Tag
  deriving DecidableEq, Repr

/-- The selection of a core with its segment. -/
def selInfo (c : Core) : Option SelInfo :=
  match c.sel, c.seg with
  | some x, some t => (t.ents[x.sidx]?).map fun e =>
      { tax := x.tax, rax := x.rax, rowbase := x.rowbase, first := e.first, count := e.count, rank := 4 * e.rankq, tag := e.tag }
  | _, _ => none

/-- Whether token index `t` lies outside the segment, and rank index `r` beyond the rank. -/
def tokOut (x : SelInfo) (t : Nat) : Bool :=
  decide (x.rowbase + t < x.first) || decide (x.first + x.count ≤ x.rowbase + t)

/-- Whether an element is masked: `ki` its index along K, `oi` its index along its own axis, `axis` 2 for the column
operand and 3 for the row operand. -/
def masked (sel : Option SelInfo) (ki oi axis : Nat) : Bool :=
  match sel with
  | none => false
  | some x =>
    (x.tax == 1 && tokOut x ki) || (x.tax == axis && tokOut x oi) ||
    (x.rax == 1 && decide (x.rank ≤ ki)) || (x.rax == axis && decide (x.rank ≤ oi))

/-- The element at lane `j`, line `k` of K tile `t` of an operand, whose tile lies at `a`: masked, expanded, through the
prologue, or as it stands. A masked element of an uncoded operand enters as +0 and does not pass the prologue either (assumption
log 149). -/
def elemAt (st : TileStore) (o : Opnd) (book : List W16) (pro : Option Prologue) (mask : Bool) (a t k j : Nat) : Elem :=
  if mask then elemZero (o.code = 0 && o.fp32)
  else if o.code ≠ 0 then codedElem st o.code a k j book
  else
    match pro with
    | none => if o.fp32 then elem32 (st.w (a + 256 * k + 4 * j)) else elem16 (st.h (a + 128 * k + 2 * j))
    | some p =>
      let x := if o.fp32 then st.w (a + 256 * k + 4 * j) else widen (st.h (a + 128 * k + 2 * j))
      proElem o.fp32 (proValue st p t k j x)

end Sys2Proof.Machine
end

