-- ==== Sys2Proof/Machine/Arrays.lean ====
section
/-! DEFINITION. The MAC arrays' commands (R57 to R62, R73 to R75) and the prologue (R84 to R88). -/

namespace Sys2Proof.Machine

/-- A set of an array. -/
def Arr.set (a : Arr) (i : Nat) : AccSet := if i = 0 then a.set0 else a.set1
def Arr.setSet (a : Arr) (i : Nat) (x : AccSet) : Arr := if i = 0 then { a with set0 := x } else { a with set1 := x }

/-! ### MMZ -/

/-- MMZ (R73). -/
def execMmz (k : PCore) (b : BitVec 120) (s : State) : Res :=
  .next (tileCmd s k 0x10 b
    (fun _ _ => chk (hdrBad b true false || f120 b 102 0 ≠ 0) 0x02)
    (fun _ _ => { sets := [(cmdArr b, f120 b 103 103)] })
    (fun _ _ _ => .done (s.updCore k fun c => c.updArr (cmdArr b) fun a => a.setSet (f120 b 103 103) { st := .zeroed }) []))

/-! ### Accumulating commands -/

/-- An accumulating command's fields (R74, R75). -/
structure AccCmd where
  acc  : Nat
  wide : Bool
  qsel : Nat
  kt   : Nat
  col  : Opnd
  row  : Opnd
  deriving DecidableEq, Repr

/-- Tiles of a row operand: four per K tile in wide form (R74). -/
def rowTiles (a : AccCmd) : Nat := if a.wide then 4 * a.kt else a.kt

/-- Format faults of an accumulating command beyond its own fields (R60, R72, R80, R88). -/
def accFaults (a : AccCmd) (arr : Arr) (resvBad encBad : Bool) : List Nat :=
  let set := arr.set a.acc
  let cs := slotSize a.col.code a.col.fp32
  let rs := slotSize a.row.code a.row.fp32
  let strm := match arr.pro with
    | some p => p.paddr + a.kt * streamSlot p p.norm
    | none => 0
  chk resvBad 0x02 ++
  chk (beyond a.col.addr (a.kt * cs) || beyond a.row.addr (rowTiles a * rs) || beyond a.col.book (bookBytes a.col.code) ||
    beyond a.row.book (bookBytes a.row.code) || beyond strm 0) 0x03 ++
  chk ((a.col.code = 1 && a.col.book % 512 ≠ 0) || (a.row.code = 1 && a.row.book % 512 ≠ 0)) 0x04 ++
  chk encBad 0x05 ++
  chk (a.kt = 0) 0x06 ++
  chk (set.st == .undefined || (set.st == .live && set.wide != a.wide)) 0x07 ++
  chk (match arr.pro with
    | some p => if p.row then a.row.code ≠ 0 else a.col.code ≠ 0
    | none => false) 0x20

/-- Byte ranges an accumulating command reads (R68). -/
def accReads (a : AccCmd) (arr : Arr) : List (Nat × Nat) :=
  [(a.col.addr, a.kt * slotSize a.col.code a.col.fp32), (a.row.addr, rowTiles a * slotSize a.row.code a.row.fp32),
   (a.col.book, bookBytes a.col.code), (a.row.book, bookBytes a.row.code)] ++
  match arr.pro with
  | some p => [(p.paddr, a.kt * streamSlot p p.norm)]
  | none => []

/-- What an accumulating command uses (R68). -/
def accUse (b : BitVec 120) (a : AccCmd) (c : Core) : Use :=
  { rd := accReads a (c.arr (cmdArr b)), sets := [(cmdArr b, a.acc)] }

/-- The tags of the granules that an operand's images touch. -/
def opndTags (st : TileStore) (o : Opnd) (tiles : Nat) : List (Tag × Nat) :=
  (List.range tiles).flatMap fun t => st.tags (o.addr + t * slotSize o.code o.fp32) (imageSize o.code o.fp32)

/-- Sepal at the feeders (R55, R125): the first granule that fails, with its tag. -/
def feederFence (st : TileStore) (sel : Option SelInfo) (a : AccCmd) (arr : Arr) : Option (Tag × Nat) :=
  let okTag := fun (x : Tag × Nat) => match sel with
    | some s => s.tag == x.1
    | none => false
  let one := fun (o : Opnd) (n : Nat) =>
    (opndTags st o n).find? (fun x => o.code ≠ 0 || !okTag x) |>.or ((st.tags o.book (bookBytes o.code)).find? fun x => !okTag x)
  (one a.col a.kt).or ((one a.row (rowTiles a)).or
    (match arr.pro with
      | some p => (st.tags p.paddr (a.kt * streamSlot p p.norm)).find? fun x => !okTag x
      | none => none))

/-- The codebook a feeder uses (R46, R419): its latch on a match, else the entries read from the tile store. -/
def bookFor (st : TileStore) (o : Opnd) (latch : Option Latch) : List W16 × Option Latch :=
  if o.code ≠ 1 ∧ o.code ≠ 2 then ([], latch)
  else
    let fill := ({ addr := o.book, c8 := o.code == 1, entries := fp16Line (st.read o.book (bookBytes o.code)) } : Latch)
    match latch with
    | some l => if l.addr = o.book ∧ l.c8 = (o.code == 1) then (l.entries, latch) else (fill.entries, some fill)
    | none => (fill.entries, some fill)

/-- The column elements of K step (t, k): 64 lanes in deep form, 16 from quarter QSEL in wide form (R58, R59). -/
def colLine (st : TileStore) (sel : Option SelInfo) (pro : Option Prologue) (a : AccCmd) (book : List W16) (t k : Nat) : List Elem :=
  let base := a.col.addr + t * slotSize a.col.code a.col.fp32
  let lanes := if a.wide then (List.range 16).map (16 * a.qsel + ·) else List.range 64
  lanes.map fun j => elemAt st a.col book pro (masked sel (64 * t + k) j 2) base t k j

/-- The row elements of K step (t, k): 64, or 256 from four tiles (R58, R59). -/
def rowLine (st : TileStore) (sel : Option SelInfo) (pro : Option Prologue) (a : AccCmd) (book : List W16) (t k : Nat) : List Elem :=
  let sz := slotSize a.row.code a.row.fp32
  if a.wide then
    (List.range 256).map fun j =>
      elemAt st a.row book pro (masked sel (64 * t + k) j 3) (a.row.addr + (4 * t + j / 64) * sz) t k (j % 64)
  else
    (List.range 64).map fun j => elemAt st a.row book pro (masked sel (64 * t + k) j 3) (a.row.addr + t * sz) t k j

/-- What a feeder reports of one element at a position. -/
def Elem.rep (e : Elem) (key : Nat) : Rep :=
  { ovf := List.replicate e.o key, nan := e.nan.map fun n => (key, n) }

/-- What the column feeder reports of a K step: an element at (its row, column 0). Column element 0 and row element 0 stand at one
position; the column feeder's report is taken first (assumption log 152). -/
def colRep (k : Nat) (col : List Elem) : Rep :=
  (col.zipIdx.map fun x => x.1.rep (posKey k 0 x.2 0 true)).foldl Rep.join {}

/-- What the row feeder reports of a K step: an element at (row 0, its column). -/
def rowRep (k : Nat) (row : List Elem) : Rep :=
  (row.zipIdx.map fun x => x.1.rep (posKey k 0 0 x.2 true)).foldl Rep.join {}

/-- One cell's additions of one K step (R24, R28): the passes in order; a pass over a part that an element does not have
changes nothing. -/
def cellStep (k i j : Nat) (x : Pair × Rep) (c r : Elem) : Pair × Rep :=
  let passes := c.parts.flatMap fun p => r.parts.map fun q => (p, q)
  passes.zipIdx.foldl (fun acc pq =>
    match acc.2.nan, pq.1 with
    | none, (some p, some q) =>
      match accAdd acc.1 (p.mul q) with
      | .ok v o => (v, if o then { acc.2 with ovf := posKey k pq.2 i j false :: acc.2.ovf } else acc.2)
      | .nan n => (acc.1, { acc.2 with nan := some (posKey k pq.2 i j false, n || p.isNan || q.isNan) })
    | _, _ => acc) x

/-- A cell's fold over a command's K steps (R29). -/
def cellFold (i j : Nat) (p : Pair) (lines : List (List Elem × List Elem)) : Pair × Rep :=
  lines.zipIdx.foldl (fun acc l => cellStep l.2 i j acc (l.1.1.getD i (elemZero false)) (l.1.2.getD j (elemZero false)))
    (p, {})

/-- A checksum cell with a zero in one form only. -/
def chkNorm (x : Option Dy) : Option Dy := x.map fun d => if d.m = 0 then {} else d

/-- The sum of a line's values, none where one is not finite (R64). -/
def lineSum (l : List Elem) : Option Dy :=
  l.foldl (fun acc e => match acc with
    | some d => if e.val.isFinite then some (d.add e.val.dy) else none
    | none => none) (some {})

/-- A checksum cell after the command's K steps: `mine` the line's own element, `other` the sum of the other line. -/
def chkFold (d : Option Dy) (xs : List (Elem × Option Dy)) : Option Dy :=
  chkNorm (xs.foldl (fun acc x => match acc, x.2 with
    | some v, some o => if x.1.val.isFinite then some (v.add (x.1.val.dy.mul o)) else none
    | _, _ => none) d)

/-- The result of an accumulation over a set, and what the cells, the column feeder and the row feeder reported. -/
def accumulate (set : AccSet) (a : AccCmd) (lines : List (List Elem × List Elem)) : AccSet × Rep × Rep × Rep :=
  let nr := if a.wide then 16 else 64
  let nc := if a.wide then 256 else 64
  let cells := (List.range (nr * nc)).map fun x => (x, cellFold (x / nc) (x % nc) (Tab.get {} set.cells x) lines)
  let rep := (cells.map fun x => x.2.2).foldl Rep.join {}
  let repC := (lines.zipIdx.map fun l => colRep l.2 l.1.1).foldl Rep.join {}
  let repR := (lines.zipIdx.map fun l => rowRep l.2 l.1.2).foldl Rep.join {}
  let sums := lines.map fun l => (l, lineSum l.1, lineSum l.2)
  let row := (List.range nr).map fun i =>
    (i, chkFold (Tab.get (some {}) set.chkRow i) (sums.map fun x => (x.1.1.getD i (elemZero false), x.2.2)))
  let col := (List.range nc).map fun j =>
    (j, chkFold (Tab.get (some {}) set.chkCol j) (sums.map fun x => (x.1.2.getD j (elemZero false), x.2.1)))
  ({ set with
    st := .live
    wide := a.wide
    qsel := if set.st == .live then set.qsel else a.qsel
    cells := (cells.map fun x => (x.1, x.2.1)).filter fun x => x.2 ≠ {}
    chkRow := row.filter fun x => x.2 ≠ some {}
    chkCol := col.filter fun x => x.2 ≠ some {} }, rep, repC, repR)

/-- Parts of an operand's elements (R24). -/
def Opnd.parts (o : Opnd) : Nat := if o.fp32 then 2 else 1

/-- Passes of one K step (R23). -/
def AccCmd.passes (a : AccCmd) : Nat := a.col.parts * a.row.parts

/-- Cycles of a feeder's codebook read (R46): none where the form has no codebook or the latch holds it. -/
def bookFill (o : Opnd) (latch : Option Latch) : Nat :=
  if o.code ≠ 1 ∧ o.code ≠ 2 then 0
  else
    let read := if o.code = 1 then 16 else 1
    match latch with
    | some l => if l.addr = o.book ∧ l.c8 = (o.code == 1) then 0 else read
    | none => read

/-- Cycles from a command's fill start to its first K step (R52, R62, R88). -/
def fillCycles (a : AccCmd) (arr : Arr) : Nat :=
  8 + (if a.col.code ≠ 0 ∨ a.row.code ≠ 0 then 3 else 0) + max (bookFill a.col arr.latchC) (bookFill a.row arr.latchR) +
    (if arr.pro.isSome then 12 else 0)

/-- What an accumulating command keeps in use until its passes are performed: its tiles and its stream, and not its codebooks,
which the latches hold (R69). -/
def accHolds (a : AccCmd) (arr : Arr) : List (Nat × Nat) :=
  [(a.col.addr, a.kt * slotSize a.col.code a.col.fp32), (a.row.addr, rowTiles a * slotSize a.row.code a.row.fp32)] ++
  match arr.pro with
  | some p => [(p.paddr, a.kt * streamSlot p p.norm)]
  | none => []

/-- The trap information of a NaN at a position (R38). -/
def nanInfo (key : Nat) (nanin : Bool) (arr : Nat) (wide : Bool) : RecInfo :=
  { unit := if posFeed key then 5 else arr, form := if posFeed key then 0 else b2n wide, kstep := posK key,
    row := posRow key, col := posCol key, nanin := nanin }

/-- The prologue of an array where it acts on the column operand, and where it acts on the row operand (R84). -/
def colPro (arr : Arr) : Option Prologue := arr.pro.filter fun p => !p.row
def rowPro (arr : Arr) : Option Prologue := arr.pro.filter fun p => p.row

/-- The column and row elements of every K step of a command, in K order (R29, R58, R59). -/
def accLines (c : Core) (arr : Arr) (a : AccCmd) : List (List Elem × List Elem) :=
  let cb := (bookFor c.store a.col arr.latchC).1
  let rb := (bookFor c.store a.row arr.latchR).1
  (List.range (64 * a.kt)).map fun n =>
    (colLine c.store (selInfo c) (colPro arr) a cb (n / 64) (n % 64), rowLine c.store (selInfo c) (rowPro arr) a rb (n / 64) (n % 64))

/-- The effect of an accumulating command once it may start (R58 to R62, R118, R125). The values are those of its whole fold at
once, which nothing can observe sooner (R68); its passes are then performed as the array's activity allows (R65; assumption log
155). A NaN counts the K steps up to its own. -/
def runAcc (s : State) (k arrNo : Nat) (a : AccCmd) (layer : Nat) (e : Led) (c : Core) : TileRes :=
  let arr := c.arr arrNo
  let set := arr.set a.acc
  let sel := selInfo c
  match feederFence c.store sel a arr with
  | some (t, x) => .stop s (.fence (some t) true x)
  | none =>
    if set.tag.isSome && (sel.map (·.tag)) != set.tag then .stop s (.fence set.tag true a.col.addr)
    else
      let (set', rep, repC, repR) := accumulate set a (accLines c arr a)
      let nan := firstNan rep.nan (firstNan repC.nan repR.nan)
      let count := fun (r : Rep) => Rep.count { r with nan := nan }
      -- a prologue's overflows count against the PRO's layer (R85)
      let s0 := countOvf s e layer (count rep)
      let s0c := countOvf s0 e (((colPro arr).map (·.layer)).getD layer) (count repC)
      let s1 := countOvf s0c e (((rowPro arr).map (·.layer)).getD layer) (count repR)
      match nan with
      | some (key, n) => .stop (countKsteps s1 k (ksLeft c arrNo + posK key + 1)) (.numeric (nanInfo key n arrNo a.wide))
      | none =>
        let tag := match accReads a arr |>.flatMap (fun r => c.store.tags r.1 r.2) with
          | x :: _ => some x.1
          | [] => set.tag
        .done (s1.updCore k fun c => c.setArr arrNo
          { (arr.setSet a.acc { set' with tag := tag }) with
            latchC := (bookFor c.store a.col arr.latchC).2, latchR := (bookFor c.store a.row arr.latchR).2 })
          [mkFlight c arrNo (.acc arrNo a.acc (fillCycles a arr) (64 * a.kt * a.passes) a.passes) (accHolds a arr) []]

/-- An accumulating command (R74, R75): overflows before a NaN count too (R38, R40). -/
def accCmd (s : State) (k opcode : Nat) (b : BitVec 120) (a : AccCmd) (resvBad encBad : Bool) : State :=
  tileCmd s k opcode b
    (fun _ c => accFaults a (c.arr (cmdArr b)) resvBad encBad)
    (fun _ c => accUse b a c)
    (fun _ e c => runAcc s k (cmdArr b) a (cmdLayer b) e c)

/-- The fields of MMA and MMW (R74). -/
def uncodedCmd (b : BitVec 120) (wide : Bool) : AccCmd :=
  { acc := f120 b 103 103, wide := wide, qsel := f120 b 98 97, kt := f120 b 95 88,
    col := { code := 0, fp32 := f120 b 102 101 = 1, addr := 64 * f120 b 87 70, book := 0 },
    row := { code := 0, fp32 := f120 b 100 99 = 1, addr := 64 * f120 b 69 52, book := 0 } }

/-- MMA (R74). -/
def execMma (k : PCore) (b : BitVec 120) (s : State) : Res :=
  .next (accCmd s k 0x11 b (uncodedCmd b false)
    (hdrBad b true true || f120 b 98 96 ≠ 0 || f120 b 51 0 ≠ 0) (f120 b 102 102 = 1 || f120 b 100 100 = 1))

/-- MMW (R74). -/
def execMmw (k : PCore) (b : BitVec 120) (s : State) : Res :=
  .next (accCmd s k 0x12 b (uncodedCmd b true)
    (hdrBad b true true || f120 b 96 96 ≠ 0 || f120 b 51 0 ≠ 0) (f120 b 102 102 = 1 || f120 b 100 100 = 1))

/-- The fields of MMQ (R75). -/
def codedCmd (b : BitVec 120) : AccCmd :=
  { acc := f120 b 103 103, wide := f120 b 102 102 = 1, qsel := f120 b 101 100, kt := f120 b 87 80,
    col := { code := f120 b 98 96, fp32 := f120 b 98 96 = 0 && f120 b 92 92 = 1, addr := 64 * f120 b 79 62, book := 32 * f120 b 43 25 },
    row := { code := f120 b 95 93, fp32 := f120 b 95 93 = 0 && f120 b 91 91 = 1, addr := 64 * f120 b 61 44, book := 32 * f120 b 24 6 } }

/-- Reserved fields of MMQ (R75): formats of a coded operand, QSEL in deep form, codebooks of a form without one. -/
def codedResv (b : BitVec 120) : Bool :=
  let cc := f120 b 98 96
  let rc := f120 b 95 93
  hdrBad b true true || f120 b 99 99 ≠ 0 || f120 b 90 88 ≠ 0 || f120 b 5 0 ≠ 0 ||
  (f120 b 102 102 = 0 && f120 b 101 100 ≠ 0) || (cc ≠ 0 && f120 b 92 92 ≠ 0) || (rc ≠ 0 && f120 b 91 91 ≠ 0) ||
  (cc ≠ 1 && cc ≠ 2 && f120 b 43 25 ≠ 0) || (rc ≠ 1 && rc ≠ 2 && f120 b 24 6 ≠ 0)

/-- MMQ (R75). -/
def execMmq (k : PCore) (b : BitVec 120) (s : State) : Res :=
  .next (accCmd s k 0x13 b (codedCmd b) (codedResv b) (4 < f120 b 98 96 || 4 < f120 b 95 93))

/-! ### PRO -/

/-- Whether an FN of PRO is reserved, and whether it is a derivative (R85). -/
def fnResv (fn : Nat) : Bool := (4 ≤ fn && fn ≤ 7) || 11 ≤ fn
def fnDeriv (fn : Nat) : Bool := 8 ≤ fn

/-- Format faults of PRO (R85, R87, R88). -/
def proFaults (b : BitVec 120) : List Nat :=
  let fn := f120 b 102 99
  let norm := f120 b 98 97
  let eps := dec16 (BitVec.ofNat 16 (f120 b 45 30))
  let strm := norm ≠ 0 || fnDeriv fn
  chk (hdrBad b true true || f120 b 29 0 ≠ 0 || (norm = 0 && (f120 b 95 78 ≠ 0 || f120 b 45 30 ≠ 0)) ||
    (!strm && f120 b 77 60 ≠ 0) || (f120 b 96 96 = 0 && f120 b 59 46 ≠ 0)) 0x02 ++
  chk ((norm ≠ 0 && beyond (64 * f120 b 95 78) 512) || (strm && beyond (64 * f120 b 77 60) 0)) 0x03 ++
  chk (fnResv fn || norm = 3 || (norm ≠ 0 && f120 b 103 103 = 1) || (norm ≠ 0 && fnDeriv fn) ||
    (fnDeriv fn && f120 b 103 103 = 1) || (norm ≠ 0 && !(eps.isFinite && eps.pos)) ||
    (f120 b 96 96 = 1 && f120 b 59 46 = 0)) 0x20

/-- Finalise one row's sums (R87 SMODE 1): the mean of the first sum, which both norms form, then μ and rstd. -/
def finalise (layer : Bool) (nk : Nat) (eps : W16) (s1 s2 : W32) : Rv × Rv × Rv :=
  let inv := Rv.rcp (rv (rne32 (Fv.ofNat nk)).1)
  let m1 := Rv.mul (rv s1) inv
  let m2 := Rv.mul (rv s2) inv.again
  let var := if layer then Rv.max (Rv.fma (Rv.neg m1.again) m1.again m2) (rv 0#32) else m2
  (m1, if layer then m1.again else rv 0#32, Rv.rsqrt (Rv.add var (rv (widen eps))))

/-- Statistics of the 64 rows from a block at `a`, and what finalising them reported (R87; the row unit's order is by
element step, then lane: row i is lane i of step 0, assumption log 12). -/
def proStats (st : TileStore) (a : Nat) (smode layer : Bool) (nk : Nat) (eps : W16) : List W32 × List W32 × Rep :=
  let rows := (List.range 64).map fun i =>
    let x := st.w (a + 4 * i)
    let y := st.w (a + 256 + 4 * i)
    if smode then finalise layer nk eps x y else (rv x, rv x, rv y)
  let rep := (rows.zipIdx.map fun r =>
    (r.1.1.rep (posKey 0 0 r.2 0 false)).join (r.1.2.2.rep (posKey 0 0 r.2 0 false))).foldl Rep.join {}
  (rows.map fun r => r.2.1.v, rows.map fun r => r.2.2.v, rep)

/-- PRO (R84 to R88). A NaN that finalising the sums makes is the row unit's, whose time R88 charges; R88's FEED is for what the
attached prologue makes in the feeder (assumption log 151). -/
def execPro (k : PCore) (b : BitVec 120) (s : State) : Res :=
  let fn := f120 b 102 99
  let norm := f120 b 98 97
  let sa := 64 * f120 b 95 78
  .next (tileCmd s k 0x20 b (fun _ _ => proFaults b)
    (fun _ _ => if norm = 0 then {} else { rd := [(sa, 512)] })
    (fun _ e c =>
      if fn = 0 ∧ norm = 0 then .done (s.updCore k fun c => c.updArr (cmdArr b) fun a => { a with pro := none }) []
      else
        let smode := f120 b 96 96 = 1
        let (mu, rs, rep) := if norm = 0 then ([], [], {}) else
          proStats c.store sa smode (norm = 2) (f120 b 59 46) (BitVec.ofNat 16 (f120 b 45 30))
        let s1 := countOvf s e (cmdLayer b) rep.count
        match rep.nan with
        | some (key, n) => .stop s1 (.numeric { unit := 4, kstep := posK key, row := posRow key, nanin := n })
        | none =>
          .done (s1.updCore k fun c => c.updArr (cmdArr b) fun a => { a with
            pro := some { row := f120 b 103 103 = 1, fn := fn, norm := norm, mu := mu, rstd := rs, paddr := 64 * f120 b 77 60, layer := cmdLayer b } }) []))

end Sys2Proof.Machine
end

