-- ==== Sys2Proof/Machine/Fused.lean ====
section
/-! DEFINITION. The drain commands: EPI (R89 to R94, R120, R121, R124, R125) and CHN (R95 to R98). -/

namespace Sys2Proof.Machine

/-! ### EPI -/

/-- The fields of EPI (R89). -/
structure EpiCmd where
  acc   : Nat
  ofmt  : Nat
  scl   : Bool
  vop   : Nat
  e0en  : Bool
  e0f32 : Bool
  e1en  : Bool
  e1f32 : Bool
  e1k   : Bool
  stats : Bool
  send  : Bool
  oaddr : Nat
  e0    : Nat
  e1    : Nat
  pblk  : Nat

def epiCmd (b : BitVec 120) : EpiCmd :=
  { acc := f120 b 103 103, ofmt := f120 b 102 101, scl := f120 b 100 100 = 1, vop := f120 b 99 98, e0en := f120 b 97 97 = 1,
    e0f32 := f120 b 96 96 = 1, e1en := f120 b 95 95 = 1, e1f32 := f120 b 94 94 = 1, e1k := f120 b 93 93 = 1,
    stats := f120 b 92 92 = 1, send := f120 b 91 91 = 1, oaddr := 64 * f120 b 89 72, e0 := 64 * f120 b 71 54,
    e1 := 64 * f120 b 53 36, pblk := 64 * f120 b 35 18 }

/-- Whether the parameter block is used (R89). -/
def EpiCmd.usesBlk (a : EpiCmd) : Bool := a.scl || a.vop ≠ 0 || a.e1k || a.stats

/-- Operand tile size of a format flag. -/
def fmtSize (f32 : Bool) : Nat := if f32 then 16384 else 8192

/-- Output tile size and number of images (R120). -/
def EpiCmd.slot (a : EpiCmd) : Nat := if a.ofmt = 2 then 24576 else fmtSize (a.ofmt = 1)
def EpiCmd.images (a : EpiCmd) (wide : Bool) : Nat := if wide && a.ofmt ≠ 2 then 4 else 1

/-- The parameter block (R90). -/
structure PBlk where
  scale : W32
  vaddr : Nat
  saddr : Nat
  first : Nat
  stf   : Bool
  resv  : Bool

def pblkOf (st : TileStore) (a : EpiCmd) : PBlk :=
  let v := Memory.num st.mem (a.pblk + 4) 4
  let sa := Memory.num st.mem (a.pblk + 8) 4
  let fr := Memory.num st.mem (a.pblk + 12) 4
  let fl := Memory.num st.mem (a.pblk + 16) 1
  let sc := st.w a.pblk
  { scale := sc, vaddr := 64 * bits v 17 0, saddr := 64 * bits sa 17 0, first := fr, stf := bit fl 0,
    resv := (!a.scl && sc ≠ 0#32) || (if a.vop = 0 then v ≠ 0 else bits v 31 18 ≠ 0) ||
      (if a.stats then bits sa 31 18 ≠ 0 || bits fl 7 1 ≠ 0 else sa ≠ 0 || fl ≠ 0) || (!a.e1k && fr ≠ 0) ||
      Memory.num st.mem (a.pblk + 17) 47 ≠ 0 }

/-- Rows and columns of a set. -/
def AccSet.rows (x : AccSet) : Nat := if x.wide then 16 else 64
def AccSet.cols (x : AccSet) : Nat := if x.wide then 256 else 64

/-- Whether a prologue counts as a stream (R82). -/
def proStream (a : Arr) : Nat :=
  match a.pro with
  | some p => if p.norm ≠ 0 ∨ 8 ≤ p.fn then 1 else 0
  | none => 0

/-- Format faults that an EPI shows at issue (R80, R83, R89, R93, R94, R100). -/
def epiFaults (s : State) (b : BitVec 120) (c : Core) : List Nat :=
  let a := epiCmd b
  let arr := c.arr (cmdArr b)
  let set := arr.set a.acc
  let n := a.images set.wide
  let ep := b2n a.e0en + b2n a.e1en
  chk (hdrBad b true true || f120 b 90 90 ≠ 0 || f120 b 17 0 ≠ 0 || (!a.e0en && a.e0 ≠ 0) || (!a.e1en && a.e1 ≠ 0) ||
    (!a.usesBlk && a.pblk ≠ 0)) 0x02 ++
  chk (beyond a.oaddr (n * a.slot) || (a.e0en && beyond a.e0 (n * fmtSize a.e0f32)) ||
    (a.e1en && !a.e1k && beyond a.e1 (n * fmtSize a.e1f32)) || (a.usesBlk && beyond a.pblk 64)) 0x03 ++
  chk (a.ofmt = 3) 0x05 ++
  chk (set.st == .undefined) 0x07 ++
  chk (2 < ep + proStream arr) 0x08 ++
  chk ((a.ofmt = 2 && (a.scl || a.vop ≠ 0 || a.e0en || a.e1en || a.stats || a.e1k)) || (a.e1k && !a.e1en) ||
    (a.e1k && c.seg.isNone)) 0x21 ++
  (if !a.send then [] else
    match arr.att with
    | none => [0x22]
    | some t => chk (65536 < t.ord + t.count + n || 2 ^ 20 < c.sendN + n) 0x06 ++
        chk (strBad s { dkind := t.dkind, dest := t.dest, rtag := t.rtag, tfmt := a.ofmt } (t.ord + t.count) n) 0x40)

/-- The latched segment of a micro-batch row, with its index (R115, R121). -/
def segOf (c : Core) (row : Nat) : Option (SegEnt × Nat) :=
  match c.seg with
  | some t => t.ents.zipIdx.find? fun x => decide (x.1.first ≤ row) && decide (row < x.1.first + x.1.count)
  | none => none

/-- The lowest segment that contains a row of the tile (R121). -/
def firstSeg (c : Core) (first rows : Nat) : Nat :=
  match c.seg with
  | some t => match t.ents.zipIdx.find? fun x => decide (x.1.first < first + rows) && decide (first < x.1.first + x.1.count) with
    | some x => x.2
    | none => 0
  | none => 0

/-- Address of element (i, j) of a set in tiles at `a` (R120, R191): `sz` the slot, `el` the element's bytes. -/
def elAddr (set : AccSet) (a sz el i j : Nat) : Nat :=
  if set.wide then a + j / 64 * sz + (16 * set.qsel + i) * 64 * el + j % 64 * el else a + (64 * i + j) * el

/-- Byte runs of row `i` of a set in tiles at `a` (R120). -/
def rowRuns (set : AccSet) (a sz el i : Nat) : List (Nat × Nat) :=
  if set.wide then (List.range 4).map fun g => (a + g * sz + (16 * set.qsel + i) * 64 * el, 64 * el)
  else [(a + 64 * i * el, 64 * el)]

/-- Byte runs of the whole set's tiles. -/
def tileRuns (set : AccSet) (a sz el : Nat) : List (Nat × Nat) :=
  if set.wide then (List.range 4).map fun g => (a + g * sz + 16 * set.qsel * 64 * el, 1024 * el) else [(a, 4096 * el)]

/-- Where the E1 tile of a row lies (R121). -/
def e1Base (a : EpiCmd) (c : Core) (set : AccSet) (p : PBlk) (i : Nat) : Option (SegEnt × Nat) :=
  if a.e1k then
    (segOf c (p.first + i)).map fun x => (x.1, a.e1 + 4 * (x.2 - firstSeg c p.first set.rows) * fmtSize a.e1f32)
  else none

/-- Sepal's checks of an EPI (R121, R125): the tag and address that fail. -/
def epiFence (a : EpiCmd) (c : Core) (set : AccSet) (p : PBlk) : Option (TagRec × Nat) :=
  let tagsOf := fun (rs : List (Nat × Nat)) => rs.flatMap fun r => c.store.tags r.1 r.2
  let t0 := if a.e0en then tagsOf (tileRuns set a.e0 (fmtSize a.e0f32) (if a.e0f32 then 4 else 2)) else []
  if a.e1k then
    if set.tag.isSome then some (set.tag, a.oaddr)
    else match t0 with
      | x :: _ => some (some x.1, x.2)
      | [] => (List.range set.rows).findSome? fun i =>
          match e1Base a c set p i with
          | none => none
          | some (e, base) =>
            (rowRuns set base (fmtSize a.e1f32) (if a.e1f32 then 4 else 2) i).findSome? fun r =>
              ((granules r.1 r.2).find? fun g => c.store.tag g ≠ some e.tag).map fun g => (c.store.tag g, max r.1 (g * Config.granule))
  else
    let t1 := if a.e1en then tagsOf (tileRuns set a.e1 (fmtSize a.e1f32) (if a.e1f32 then 4 else 2)) else []
    let want := match set.tag with
      | some t => some t
      | none => (t0 ++ t1).head?.map (·.1)
    ((t0 ++ t1).find? fun x => some x.1 ≠ want).map fun x => (some x.1, x.2)

/-- The output's tag (R124). -/
def epiTag (a : EpiCmd) (c : Core) (set : AccSet) : TagRec :=
  if a.e1k then none
  else match set.tag with
    | some t => some t
    | none =>
      let runs := (if a.e0en then tileRuns set a.e0 (fmtSize a.e0f32) (if a.e0f32 then 4 else 2) else []) ++
        (if a.e1en then tileRuns set a.e1 (fmtSize a.e1f32) (if a.e1f32 then 4 else 2) else [])
      (runs.flatMap fun r => c.store.tags r.1 r.2).head?.map (·.1)

/-- A value in the drain path: its exact form after the last r40, and the first NaN: operation index and NANIN (R91). -/
structure Dv where
  v   : Fv
  nan : Option (Nat × Bool) := none
  deriving Inhabited

/-- One operation of the drain path (R91). -/
def Dv.op (d : Dv) (idx : Nat) (nanin : Bool) (r : Fv) : Dv :=
  match d.nan with
  | some _ => d
  | none => { v := r40 r, nan := if r.isNan then some (idx, d.v.isNan || nanin) else none }

/-- An element of an E0 or E1 tile. -/
def elVal (st : TileStore) (f32 : Bool) (a : Nat) : Fv := if f32 then dec32 (st.w a) else dec16 (st.h a)

/-- The reciprocals of a row vector (R91, VOP 3), one per row. -/
def rowRcp (st : TileStore) (p : PBlk) (rows : Nat) : List R32v :=
  (List.range rows).map fun i => fRcp (st.w (p.vaddr + 4 * i))

/-- epilogue(d, i, j) of R91 before the final cast. -/
def epiValue (st : TileStore) (a : EpiCmd) (c : Core) (set : AccSet) (p : PBlk) (rcps : List R32v) (i j : Nat) : Dv :=
  let d0 : Dv := { v := (Tab.get {} set.cells (set.cols * i + j)).drain }
  let d1 := if a.scl then d0.op 0 (isNan32 p.scale) (d0.v.mul (dec32 p.scale)) else d0
  let d2 :=
    if a.vop = 2 then let x := dec32 (st.w (p.vaddr + 4 * i)); d1.op 1 x.isNan (d1.v.mul x)
    else if a.vop = 3 then let x := dec32 (rcps.getD i (0#32, false)).1; d1.op 1 x.isNan (d1.v.mul x)
    else if a.vop = 1 then let x := dec32 (st.w (p.vaddr + 4 * j)); d1.op 1 x.isNan (d1.v.add x)
    else d1
  let sz := fmtSize a.e1f32
  let el := if a.e1f32 then 4 else 2
  let d3 :=
    if !a.e1en then d2
    else if a.e1k then
      match e1Base a c set p i with
      | some (e, base) =>
        let x := elVal st a.e1f32 (elAddr set base sz el i j)
        d2.op 2 (x.isNan || isNan32 e.alpha) (d2.v.add ((dec32 e.alpha).mul x))
      | none => d2
    else let x := elVal st a.e1f32 (elAddr set a.e1 sz el i j); d2.op 2 x.isNan (d2.v.add x)
  let d4 := if a.e0en then
      let x := elVal st a.e0f32 (elAddr set a.e0 (fmtSize a.e0f32) (if a.e0f32 then 4 else 2) i j)
      d3.op 3 x.isNan (d3.v.add x)
    else d3
  match d4.nan with
  | some _ => d4
  | none => if d4.v.isNan then { d4 with nan := some (0, true) } else d4

/-- An output element: its bits by OFMT and its report at (operation, row, column); the cast ranks after operation 3. A
cFP32 image stores the pair unrounded (R31). -/
def epiOut (a : EpiCmd) (d : Dv) (i j : Nat) : Nat × Rep :=
  match d.nan with
  | some (op, n) => (0, { nan := some (posKey op 0 i j false, n) })
  | none =>
    if a.ofmt = 2 then (0, {}) else
    let (w, o) := if a.ofmt = 0 then let (h, o) := rne16 d.v; (h.toNat, o) else let (x, o) := rne32 d.v; (x.toNat, o)
    (w, { ovf := if o then [posKey 4 0 i j false] else [] })

/-- The bytes an EPI writes: address and bytes of each image (R31, R120, R191). A cFP32 image takes the pair as it is stored: t
too where s is infinite in a reloaded image, which R31 has treated as t = 0 (assumption log 154). -/
def epiBytes (a : EpiCmd) (set : AccSet) (vals : List (List Nat)) : List (Nat × List Byte) :=
  if a.ofmt = 2 then
    let n := 4096
    let cell := fun x => (Tab.get {} set.cells x : Pair)
    [(a.oaddr, ((List.range n).flatMap fun x => leBytes 4 (cell x).s.toNat) ++
      ((List.range n).flatMap fun x => leBytes 2 (cell x).t.toNat))]
  else
    let el := if a.ofmt = 1 then 4 else 2
    if set.wide then
      (List.range 4).map fun g => (a.oaddr + g * a.slot + 16 * set.qsel * 64 * el,
        vals.flatMap fun row => ((row.drop (64 * g)).take 64).flatMap (leBytes el))
    else [(a.oaddr, vals.flatMap fun row => row.flatMap (leBytes el))]

/-- One row's STATS update (R92): the two new entries, and what it reported. -/
def statsRow (st : TileStore) (p : PBlk) (xs : List W32) (i : Nat) : W32 × W32 × Rep :=
  let (a, oa) := tree xs
  let sq := xs.map fun x => fMul x x
  let (b, ob) := tree (sq.map (·.1))
  let (s1, o1) := if p.stf then (a, false) else fAdd (st.w (p.saddr + 4 * i)) a
  let (s2, o2) := if p.stf then (b, false) else fAdd (st.w (p.saddr + 256 + 4 * i)) b
  let o := oa + ob + ovfs (sq.map (·.2)) + b2n o1 + b2n o2
  let bad := isNan32 s1 || isNan32 s2
  let nanin := (!p.stf && (isNan32 (st.w (p.saddr + 4 * i)) || isNan32 (st.w (p.saddr + 256 + 4 * i))))
  (s1, s2, { ovf := List.replicate o (posKey 5 0 i 0 false), nan := if bad then some (posKey 5 0 i 0 false, nanin) else none })

/-- Every value of a line of a set is finite, and so is its checksum cell: the comparison takes the line in (R64). -/
def AccSet.rowCompared (x : AccSet) (i : Nat) : Bool :=
  (Tab.get (some {}) x.chkRow i).isSome && (List.range x.cols).all fun j => (Tab.get {} x.cells (x.cols * i + j)).drain.isFinite
def AccSet.colCompared (x : AccSet) (j : Nat) : Bool :=
  (Tab.get (some {}) x.chkCol j).isSome && (List.range x.rows).all fun i => (Tab.get {} x.cells (x.cols * i + j)).drain.isFinite

/-- A drain's comparison can report an error of a set: some row or column is not excluded (R64). -/
def AccSet.compared (x : AccSet) : Bool := (List.range x.rows).any x.rowCompared || (List.range x.cols).any x.colCompared

/-- Count a checksum mismatch of a core and stop its item with the level-1 fault of its array (R64, R336). -/
def chkMismatch (s : State) (k : Nat) (e : Led) (c : Core) (arr : Nat) : TileRes :=
  .stop (finc s (Reg.coChkCount k) 15 0 1) (.fault 0x01 (e.lsn % 2 ^ 28 * 2 ^ 20 + arr * 2 ^ 16 + c.cmdIdx))

/-- Tile ranges an EPI reads and writes (R68). -/
def epiReads (b : BitVec 120) (c : Core) : List (Nat × Nat) :=
  let a := epiCmd b
  let set := (c.arr (cmdArr b)).set a.acc
  let p := pblkOf c.store a
  (if a.usesBlk then [(a.pblk, 64)] else []) ++
  (if a.vop = 1 then [(p.vaddr, 4 * set.cols)] else if a.vop ≠ 0 then [(p.vaddr, 4 * set.rows)] else []) ++
  (if a.e0en then tileRuns set a.e0 (fmtSize a.e0f32) (if a.e0f32 then 4 else 2) else []) ++
  (if a.e1en && !a.e1k then tileRuns set a.e1 (fmtSize a.e1f32) (if a.e1f32 then 4 else 2) else []) ++
  (if a.e1k then (List.range set.rows).flatMap fun i => match e1Base a c set p i with
    | some (_, base) => rowRuns set base (fmtSize a.e1f32) (if a.e1f32 then 4 else 2) i
    | none => [] else [])

def epiWrites (b : BitVec 120) (c : Core) : List (Nat × Nat) :=
  let a := epiCmd b
  let set := (c.arr (cmdArr b)).set a.acc
  (if a.ofmt = 2 then [(a.oaddr, 24576)] else tileRuns set a.oaddr a.slot (if a.ofmt = 1 then 4 else 2)) ++
  (if a.stats then [((pblkOf c.store a).saddr, 512)] else [])

/-- What an EPI uses (R68). -/
def epiUse (b : BitVec 120) (c : Core) : Use :=
  let a := epiCmd b
  let arr := c.arr (cmdArr b)
  { rd := epiReads b c, wr := epiWrites b c, sets := [(cmdArr b, a.acc)],
    xfer := if a.send && arr.att.isSome then a.images (arr.set a.acc).wide else 0 }

/-- Checks on the parameter block once it may be read (R79, R80, R90, R121). -/
def pblkFaults (a : EpiCmd) (c : Core) (set : AccSet) (p : PBlk) : List Nat :=
  if !a.usesBlk then []
  else
    chk p.resv 0x02 ++
    chk ((a.vop = 1 && beyond p.vaddr (4 * set.cols)) || ((a.vop = 2 || a.vop = 3) && beyond p.vaddr (4 * set.rows)) ||
      (a.stats && beyond p.saddr 512) ||
      (a.e1k && (List.range set.rows).any fun i => match e1Base a c set p i with
        | some (_, base) => beyond base (if set.wide then 4 * fmtSize a.e1f32 else fmtSize a.e1f32)
        | none => false)) 0x03

/-- Push an EPI's tiles through its array's attachment (R94, R100, R101, R125, R320). -/
def epiSend (s : State) (key k arrNo : Nat) (a : EpiCmd) (e : Led) (c : Core) (n : Nat) : TileRes :=
  match (c.arr arrNo).att with
  | none => .done s []
  | some t =>
    let d : SendTo := { dkind := t.dkind, dest := t.dest, rtag := t.rtag, tfmt := a.ofmt }
    let addrs := (List.range n).map fun g => a.oaddr + g * a.slot
    let st := (s.core k).store
    match sendFence s st d addrs with
    | some (tag, x) => .stop s (.fence tag true x)
    | none =>
      if sendRetired s e st d addrs then .stop s .keyRetired
      else
        let s1 := sendTiles s key k d (t.ord + t.count) c.sendN addrs
        let s2 := s1.updCore k fun c => c.updArr arrNo fun x => { x with att := some { t with count := t.count + n } }
        .done s2 [mkFlight c 5 (.epiSend c.sendN (addrs.map fun x => (x, a.slot))) [] []]

/-- The output elements of an EPI by row and column with their reports (R91). -/
def epiOuts (a : EpiCmd) (c : Core) (set : AccSet) : List (List (Nat × Rep)) :=
  let p := pblkOf c.store a
  let rcps := if a.vop = 3 then rowRcp c.store p set.rows else []
  (List.range set.rows).map fun i => (List.range set.cols).map fun j => epiOut a (epiValue c.store a c set p rcps i j) i j

/-- The STATS entries of an EPI by row (R92). -/
def epiStats (a : EpiCmd) (c : Core) (set : AccSet) : List (W32 × W32 × Rep) :=
  if a.stats then (List.range set.rows).map fun i =>
    statsRow c.store (pblkOf c.store a) ((((epiOuts a c set).map fun r => r.map (·.1)).getD i []).map fun v =>
      if a.ofmt = 0 then widen (BitVec.ofNat 16 v) else BitVec.ofNat 32 v) i
  else []

/-- What an EPI reports (R38, R40). -/
def epiRep (a : EpiCmd) (c : Core) (set : AccSet) : Rep :=
  let rcps := if a.vop = 3 then rowRcp c.store (pblkOf c.store a) set.rows else []
  let rRcp : Rep := (rcps.zipIdx.map fun x => ({
    ovf := if x.1.2 then [posKey 1 0 x.2 0 false] else [],
    nan := if isNan32 x.1.1 then some (posKey 1 0 x.2 0 false, true) else none } : Rep)).foldl Rep.join {}
  (((epiOuts a c set).flatMap fun r => r.map (·.2)).foldl Rep.join rRcp).join (((epiStats a c set).map (·.2.2)).foldl Rep.join {})

/-- The core after an EPI's writes: the output images and STATS entries in the tile store, the set undefined (R31, R60, R92). -/
def epiDrained (a : EpiCmd) (c : Core) (arrNo : Nat) (set : AccSet) (c0 : Core) : Core :=
  let tag := epiTag a c set
  let saddr := (pblkOf c.store a).saddr
  let c1 := (epiBytes a set ((epiOuts a c set).map fun r => r.map (·.1))).foldl (fun x w => x.write w.1 w.2 tag) c0
  let c2 := if a.stats then
      (c1.write saddr ((epiStats a c set).flatMap fun x => leBytes 4 x.1.toNat) tag).write (saddr + 256)
        ((epiStats a c set).flatMap fun x => leBytes 4 x.2.1.toNat) tag
    else c1
  c2.updArr arrNo fun x => x.setSet a.acc {}

/-- The effect of an EPI once it may start. -/
def runEpi (s : State) (key k : Nat) (b : BitVec 120) (bad : Bool) (e : Led) (c : Core) : TileRes :=
  let a := epiCmd b
  let arrNo := cmdArr b
  let arr := c.arr arrNo
  let set := arr.set a.acc
  let p := pblkOf c.store a
  match lowest (pblkFaults a c set p) with
  | some r => .stop s (.format r)
  | none =>
    match epiFence a c set p with
    | some (t, x) => .stop s (.fence t true x)
    | none =>
      if bad && set.compared then chkMismatch s k e c arrNo
      else
        let rep := epiRep a c set
        let s1 := countOvf s e (cmdLayer b) rep.count
        match rep.nan with
        | some (pos, n) =>
          if posK pos = 5 then .stop s1 (.numeric { unit := 4, row := posRow pos, nanin := n })
          else .stop s1 (.numeric { unit := 6, kstep := posK pos, row := posRow pos, col := posCol pos, nanin := n })
        | none =>
          let s2 := s1.updCore k (epiDrained a c arrNo set)
          if a.send then epiSend s2 key k arrNo a e c (a.images set.wide) else .done s2 []

/-- The commands of the core that wait for nothing any more complete (R76, R101). -/
def afterIssue (s : State) (k : Nat) : State :=
  match itemOf s k with
  | some (_, e) => notePeak (finishSends s k e)
  | none => s

/-- EPI (R89 to R94). -/
def execEpi (k : PCore) (b : BitVec 120) (bad : Bool) (s : State) : Res :=
  .next (afterIssue (tileCmd s k 0x21 b (fun _ c => epiFaults s b c) (fun _ c => epiUse b c)
    (fun key e c => runEpi s key k b bad e c)) k)

/-! ### CHN -/

/-- The fields of CHN (R95). -/
structure ChnCmd where
  acc   : Nat
  first : Bool
  omask : Nat
  oacc  : Nat
  mask  : Nat
  paddr : Nat
  st    : Nat
  scale : W16
  diag  : Int

def chnCmd (b : BitVec 120) : ChnCmd :=
  { acc := f120 b 103 103, first := f120 b 102 102 = 1, omask := f120 b 101 98, oacc := f120 b 97 97, mask := f120 b 96 95,
    paddr := 64 * f120 b 94 77, st := 64 * f120 b 76 59, scale := BitVec.ofNat 16 (f120 b 58 43),
    diag := (BitVec.ofNat 16 (f120 b 42 27)).toInt }

/-- Arrays in OMASK. -/
def ChnCmd.outs (a : ChnCmd) : List Nat := (List.range 4).filter fun n => bit a.omask n

/-- Deep-form live or zeroed (R97). -/
def deepReady (x : AccSet) : Bool := x.st != .undefined && !(x.st == .live && x.wide)

/-- Format faults of CHN (R97). -/
def chnFaults (b : BitVec 120) (c : Core) : List Nat :=
  let a := chnCmd b
  chk (hdrBad b true true || f120 b 26 0 ≠ 0 || (a.mask = 0 && a.diag ≠ 0)) 0x02 ++
  chk (beyond a.paddr 8192 || beyond a.st 512) 0x03 ++
  chk (!deepReady ((c.arr (cmdArr b)).set a.acc) ||
    (!a.first && a.outs.any fun n => !deepReady ((c.arr n).set a.oacc))) 0x07 ++
  chk ((bit a.omask (cmdArr b) && a.oacc = a.acc) || 2 ≤ a.mask || !(dec16 a.scale).isFinite) 0x25

/-- One row of CHN (R96): m, l, c, p, and what its operations reported. -/
structure ChnRow where
  m   : W32
  l   : W32
  c   : W32
  p   : List W16
  rep : Rep

/-- One score: a single rounding from the drain value. -/
def chnScore (d : Fv) (scale : W16) : Rv :=
  let x := d.mul (dec16 scale)
  let (v, o) := rne32 x
  { v := v, o := b2n o, nan := if x.isNan then some d.isNan else none }

/-- Minus infinity. -/
def f32NegInf : W32 := 0xFF800000#32

/-- The row function of CHN (R96). Element j of row i stands at element step j in lane i; the operations on the row's own values
follow its last element, at step 64 (assumption log 12). -/
def chnRow (a : ChnCmd) (st : TileStore) (set : AccSet) (i : Nat) : ChnRow :=
  let at_ := fun (j : Nat) => posKey j 0 i 0 false
  let xs := (List.range 64).map fun (j : Nat) =>
    let x := chnScore (Tab.get {} set.cells (64 * i + j)).drain a.scale
    if a.mask = 1 ∧ (i : Int) < a.diag + (j : Int) then { x with v := f32NegInf } else x
  let repX := (xs.zipIdx.map fun x => x.1.rep (at_ x.2)).foldl Rep.join {}
  let mold := if a.first then f32NegInf else st.w (a.st + 4 * i)
  let lold := if a.first then 0#32 else st.w (a.st + 256 + 4 * i)
  let m := (xs.map Rv.again).foldl Rv.max (rv mold)
  if repX.nan.isSome ∨ m.nan.isSome then
    { m := m.v, l := lold, c := f32One, p := List.replicate 64 0#16, rep := repX.join (m.rep (at_ 64)) }
  else if m.v = f32NegInf then
    let l := Rv.add (Rv.mul (rv lold) (rv f32One)) (rv 0#32)
    { m := m.v, l := l.v, c := f32One, p := List.replicate 64 0#16, rep := repX.join (l.rep (at_ 64)) }
  else
    let c := Rv.exp (Rv.sub (rv mold) m)
    let ps := xs.map fun x =>
      let e := Rv.exp (Rv.sub x.again m)
      let (h, o) := rne16 (dec32 e.v)
      (h, { e with o := e.o + b2n o })
    let repP := (ps.zipIdx.map fun x => x.1.2.rep (at_ x.2)).foldl Rep.join {}
    let (t, o) := tree (ps.map fun x => widen x.1)
    let l := Rv.add (Rv.mul (rv lold) c.again) { rv t with o := o }
    { m := m.v, l := l.v, c := c.v, p := ps.map (·.1), rep := ((repX.join repP).join (c.rep (at_ 64))).join (l.rep (at_ 64)) }

/-- Sum of a column of pairs as a reloaded checksum cell (R97). -/
def reload (ps : List Pair) : Option Dy :=
  chkNorm (ps.foldl (fun acc p => match acc with
    | some d => if p.drain.isFinite then some (d.add p.drain.dy) else none
    | none => none) (some {}))

/-- Rescale one output set by the rows' corrections (R97): the set, and what it reported. -/
def rescale (set : AccSet) (cs : List W32) : AccSet × Rep :=
  let cells := (List.range 4096).map fun x =>
    let p : Pair := Tab.get {} set.cells x
    match p.scale (cs.getD (x / 64) f32One) with
    | .ok v o => (x, v, ({ ovf := if o then [posKey 65 0 (x / 64) (x % 64) false] else [] } : Rep))
    | .nan n => (x, p, { nan := some (posKey 65 0 (x / 64) (x % 64) false, n) })
  let row := (List.range 64).map fun i =>
    (i, chkNorm ((Tab.get (some {}) set.chkRow i).bind fun d =>
      let c := dec32 (cs.getD i f32One)
      if c.isFinite then some (d.mul c.dy) else none))
  let col := (List.range 64).map fun j => (j, reload ((List.range 64).map fun i => ((cells.getD (64 * i + j) (0, {}, {})).2.1)))
  ({ set with
    cells := (cells.map fun x => (x.1, x.2.1)).filter fun x => x.2 ≠ {}
    chkRow := row.filter fun x => x.2 ≠ some {}
    chkCol := col.filter fun x => x.2 ≠ some {} }, (cells.map fun x => x.2.2).foldl Rep.join {})

/-- The 64 rows of a CHN (R96), what they reported, and the output sets it rescales with what each reported (R97). -/
def chnRows (a : ChnCmd) (c : Core) (arrNo : Nat) : List ChnRow :=
  (List.range 64).map fun i => chnRow a c.store ((c.arr arrNo).set a.acc) i

def chnRep (a : ChnCmd) (c : Core) (arrNo : Nat) : Rep := ((chnRows a c arrNo).map (·.rep)).foldl Rep.join {}

def chnScaled (a : ChnCmd) (c : Core) (arrNo : Nat) : List (Nat × AccSet × Rep) :=
  (if a.first then [] else a.outs).map fun n => (n, rescale ((c.arr n).set a.oacc) ((chnRows a c arrNo).map (·.c)))

/-- The core after a CHN's writes: P transposed as FP16, the m and l entries, the rescaled sets, the score set undefined
(R96 to R98). -/
def chnDone (a : ChnCmd) (c : Core) (arrNo : Nat) (c0 : Core) : Core :=
  let tag := ((c.arr arrNo).set a.acc).tag
  let rows := chnRows a c arrNo
  let c1 := c0.write a.paddr ((List.range 64).flatMap fun j => rows.flatMap fun r => leBytes 2 (r.p.getD j 0#16).toNat) tag
  let c2 := c1.write a.st ((rows.flatMap fun r => leBytes 4 r.m.toNat) ++ rows.flatMap fun r => leBytes 4 r.l.toNat) tag
  let c3 := (chnScaled a c arrNo).foldl (fun x y => x.updArr y.1 fun z => z.setSet a.oacc y.2.1) c2
  c3.updArr arrNo fun x => x.setSet a.acc {}

/-- Whether the comparison of an array reports the error it has (R64, R97): of the score set at its drain, or of an output set
that the rescale takes. -/
def chnReports (a : ChnCmd) (c : Core) (arrNo n : Nat) : Bool :=
  (n == arrNo && ((c.arr arrNo).set a.acc).compared) || (!a.first && a.outs.contains n && ((c.arr n).set a.oacc).compared)

/-- The effect of a CHN once it may start (R96 to R98, R124, R125). -/
def runChn (s : State) (k : Nat) (b : BitVec 120) (bad : Option (Fin 4)) (e : Led) (c : Core) : TileRes :=
  let a := chnCmd b
  let arrNo := cmdArr b
  let set := (c.arr arrNo).set a.acc
  let outs := if a.first then [] else a.outs
  match outs.find? fun n => let t := ((c.arr n).set a.oacc).tag; t.isSome && t != set.tag with
  | some n => .stop s (.fence ((c.arr n).set a.oacc).tag true a.paddr)
  | none =>
    match bad.filter fun n => chnReports a c arrNo n with
    | some n => chkMismatch s k e c n
    | none =>
      let rep := chnRep a c arrNo
      let scaled := chnScaled a c arrNo
      let repO := (scaled.map fun x => x.2.2).foldl Rep.join {}
      let s1 := countOvf s e (cmdLayer b) (Rep.count (rep.join repO))
      match rep.nan, scaled.find? fun x => x.2.2.nan.isSome with
      | some (pos, n), _ => .stop s1 (.numeric { unit := 4, kstep := posK pos, row := posRow pos, nanin := n })
      | none, some (arr, _, r) =>
        let (pos, n) := r.nan.getD (0, false)
        .stop s1 (.numeric { unit := arr, row := posRow pos, col := posCol pos, nanin := n })
      | none, none =>
        .done (s1.updCore k (chnDone a c arrNo)) []

/-- What a CHN uses (R68, R98): the whole command waits where only its rescale would (assumption log 14). -/
def chnUse (b : BitVec 120) : Use :=
  let a := chnCmd b
  { rd := if a.first then [] else [(a.st, 512)], wr := [(a.paddr, 8192), (a.st, 512)]
    sets := (cmdArr b, a.acc) :: if a.first then [] else a.outs.map fun n => (n, a.oacc) }

/-- CHN (R95 to R98). -/
def execChn (k : PCore) (b : BitVec 120) (bad : Option (Fin 4)) (s : State) : Res :=
  .next (tileCmd s k 0x22 b (fun _ c => chnFaults b c) (fun _ _ => chnUse b)
    (fun _ e c => runChn s k b bad e c))

end Sys2Proof.Machine
end

