-- ==== Sys2Proof/Machine/Sends.lean ====
section
/-! DEFINITION. Sends and receives (R99 to R105, R176 to R180). -/

namespace Sys2Proof.Machine

/-! ### SND -/

def sndTo (b : BitVec 120) : SendTo :=
  { dkind := f120 b 101 100, dest := f120 b 99 84, rtag := f120 b 83 72, tfmt := f120 b 63 61 }

/-- Format faults of SND (R80, R83, R99, R244): an ATTACH to a stream answers for its RTAG and its first ordinal. -/
def sndFaults (s : State) (b : BitVec 120) (e : Led) (c : Core) : List Nat :=
  let d := sndTo b
  let nt := f120 b 71 64
  let addr := 64 * f120 b 60 43
  match f120 b 103 102 with
  | 0 =>
    chk (hdrBad b false false || f120 b 26 0 ≠ 0) 0x02 ++ chk (beyond addr (nt * tfmtSlot d.tfmt)) 0x03 ++
    chk (d.dkind = 3 || 5 < d.tfmt) 0x05 ++ chk (nt = 0) 0x06 ++
    (if d.dkind = 3 then [] else sendFaults s e d c.sendN (f120 b 42 27) nt)
  | 1 =>
    chk (hdrBad b true false || f120 b 26 0 ≠ 0 || f120 b 71 43 ≠ 0) 0x02 ++ chk (d.dkind = 3) 0x05 ++
    chk (c.arr (cmdArr b)).att.isSome 0x08 ++ chk (d.dkind ≠ 3 && !destOk s e d) 0x23 ++
    chk (d.dkind ≠ 3 && destOk s e d &&
      strBad s { d with tfmt := if (s.stream d.dest).e ≤ 128 then 5 else 1 } (f120 b 42 27) 1) 0x40
  | 2 => chk (hdrBad b true false || f120 b 101 0 ≠ 0) 0x02
  | _ => chk (hdrBad b true false || f120 b 26 0 ≠ 0) 0x02 ++ [0x05]

/-- The effect of SND by its MODE (R99 to R101, R178). -/
def runSnd (s : State) (key k : Nat) (b : BitVec 120) (e : Led) (c : Core) : TileRes :=
  let d := sndTo b
  let nt := f120 b 71 64
  let addr := 64 * f120 b 60 43
  match f120 b 103 102 with
  | 0 =>
    let addrs := (List.range nt).map fun t => addr + t * tfmtSlot d.tfmt
    match sendFence s c.store d addrs with
    | some (t, x) => .stop s (.fence t true x)
    | none =>
      if sendRetired s e c.store d addrs then .stop s .keyRetired
      else .done (sendTiles s key k d (f120 b 42 27) c.sendN addrs)
        [mkFlight c 5 (.send c.sendN (addrs.map fun a => (a, tfmtSlot d.tfmt))) [] []]
  | 1 => .done (s.updCore k fun c => c.updArr (cmdArr b) fun a =>
      { a with att := some { dkind := d.dkind, dest := d.dest, rtag := d.rtag, ord := f120 b 42 27 } }) []
  | _ => .done (s.updCore k fun c => c.updArr (cmdArr b) fun a => { a with att := none }) []

/-- What SND uses (R68): a SEND reads its tiles. -/
def sndUse (b : BitVec 120) : Use :=
  if f120 b 103 102 = 0 then { rd := [(64 * f120 b 60 43, f120 b 71 64 * tfmtSlot (f120 b 63 61))], xfer := 1 } else {}

/-- SND (R99). -/
def sndCmd (k : PCore) (b : BitVec 120) (s : State) : State :=
  afterIssue (tileCmd s k 0x30 b (fun e c => sndFaults s b e c) (fun _ _ => sndUse b)
    (fun key e c => runSnd s key k b e c)) k

/-- SND, MODE 0. -/
def execSndSend (k : PCore) (b : BitVec 120) (s : State) : Res := .next (sndCmd k b s)
/-- SND, MODE 1. -/
def execSndAttach (k : PCore) (b : BitVec 120) (s : State) : Res := .next (sndCmd k b s)
/-- SND, MODE 2. -/
def execSndDetach (k : PCore) (b : BitVec 120) (s : State) : Res := .next (sndCmd k b s)

/-! ### RCV -/

/-- Words of a contribution (R102: FP32 or VEC). -/
def rcvWords (r : Rcv) : Nat := tfmtSlot r.tfmt / 4

/-- One addition of a COMBINE (R104): contribution t joins the result at `addr`. Positions are t * 4096 + element. -/
def combineOne (c : Core) (r : Rcv) : Core × Rcv × Rep :=
  let t := r.done
  let src := r.baddr + t * tfmtSlot r.tfmt
  let xs := (List.range (rcvWords r)).map fun i => c.store.w (src + 4 * i)
  let res := xs.zipIdx.map fun x =>
    if t = 0 then (x.1, ({ nan := if isNan32 x.1 then some (x.2, true) else none } : Rep))
    else
      let old := c.store.w (r.addr + 4 * x.2)
      let (v, o) := fAdd old x.1
      (v, { ovf := if o then [t * 4096 + x.2] else [],
            nan := if isNan32 v then some (t * 4096 + x.2, isNan32 old || isNan32 x.1) else none })
  let tag := (Tab.get none r.got t : TagRec)
  (c.write r.addr (res.flatMap fun x => leBytes 4 x.1.toNat) tag, { r with done := t + 1 },
    (res.map (·.2)).foldl Rep.join {})

/-- Additions that are ready (R104), with fuel; they end at a NaN. -/
def combineReady : Nat → Core → Rcv → Rep → Core × Rcv × Rep
  | 0, c, r, p => (c, r, p)
  | fuel + 1, c, r, p =>
    if p.nan.isSome || r.nt ≤ r.done || (Tab.find r.got r.done).isNone then (c, r, p)
    else
      let (c1, r1, q) := combineOne c r
      combineReady fuel c1 r1 (p.join q)

/-- Replace a posted receive. -/
def Core.setRcv (c : Core) (r : Rcv) : Core := { c with rcvs := c.rcvs.map fun x => if x.id = r.id then r else x }

/-- A posted receive completes once every tile is placed or combined (R102, R104, R107). -/
def finishRcv (s : State) (k : Nat) (r : Rcv) : State :=
  if (if r.combine then decide (r.nt ≤ r.done) else decide (r.nt ≤ r.got.length)) then
    settleCore (s.updCore k fun c => { c with
      rcvs := c.rcvs.filter fun x => x.id ≠ r.id
      flight := c.flight.filter fun f => f.kind ≠ .rcv r.id }) k
  else s

/-- Write an accepted tile (R103, R104): placed at its slot, or staged and combined as far as its ordinals are present. -/
def fillRcv (s : State) (key k : Nat) (e : Led) (r : Rcv) (m : TileMsg) : State :=
  let t := m.ord.toNat - r.ord
  let sz := tfmtSlot r.tfmt
  if !r.combine then
    let r1 := { r with got := Tab.insert r.got t m.tag }
    finishRcv (s.updCore k fun c => (c.write (r.addr + t * sz) m.data m.tag).setRcv r1) k r1
  else if r.got.any fun x => x.2 ≠ m.tag then
    stopEntry s key e e.coreNo r.idx 0x31 r.layer (.fence (if m.tag.isSome then m.tag else (r.got.head?.map (·.2)).getD none) true
      (r.baddr + t * sz))
  else
    let c0 := (s.core k).write (r.baddr + t * sz) m.data m.tag
    let (c1, r1, rep) := combineReady (r.nt + 1) c0 { r with got := Tab.insert r.got t m.tag } {}
    let s1 := countOvf (s.setCore k (c1.setRcv r1)) e r.layer rep.count
    match rep.nan with
    | some (pos, n) =>
      stopEntry s1 key e e.coreNo r.idx 0x31 r.layer
        (.numeric { unit := 4, kstep := pos / 4096, row := pos % 4096 % 256, col := pos % 4096 / 256, nanin := n })
    | none => finishRcv s1 k r1

/-- Whether a posted receive of an item covers a tile (R103). -/
def Rcv.covers (r : Rcv) (e : Led) (m : TileMsg) : Bool :=
  m.inst == e.inst && r.rtag == m.rtag.toNat && r.tfmt == m.tfmt.toNat && decide (r.ord ≤ m.ord.toNat) &&
    decide (m.ord.toNat < r.ord + r.nt)

/-- Format faults of RCV (R80, R102). -/
def rcvFaults (b : BitVec 120) (c : Core) : List Nat :=
  let mode := f120 b 103 102
  let tfmt := f120 b 101 99
  let rtag := f120 b 98 87
  let ord := f120 b 86 71
  let nt := f120 b 70 63
  let addr := 64 * f120 b 62 45
  let baddr := 64 * f120 b 44 27
  chk (hdrBad b false true || f120 b 26 0 ≠ 0 || (mode = 0 && baddr ≠ 0)) 0x02 ++
  chk (if mode = 1 then beyond addr (tfmtSlot tfmt) || beyond baddr (nt * tfmtSlot tfmt) else beyond addr (nt * tfmtSlot tfmt)) 0x03 ++
  chk (1 < mode || 5 < tfmt) 0x05 ++ chk (nt = 0) 0x06 ++
  chk ((mode = 1 && tfmt ≠ 1 && tfmt ≠ 5) ||
    c.rcvs.any fun r => r.rtag == rtag && decide (r.ord < ord + nt) && decide (ord < r.ord + r.nt)) 0x24

/-- Journalled tiles that a posted receive of an item took in an earlier run of the program, or while the item was switched out,
in ascending ordinal (R180): the receive keeps its number, so a later one of the same RTAG and ordinals takes none of them. -/
def journalled (s : State) (key : Nat) (e : Led) (r : Rcv) : List TileMsg :=
  (List.range r.nt).filterMap fun t =>
    ((s.journal.find? fun (j : JTile) => j.led == key && j.post == r.id && r.covers e j.msg && j.msg.ord.toNat == r.ord + t).map (·.msg))

/-- Feed tiles to a posted receive while the item and the receive stand. -/
def feedRcv (key k id : Nat) : State → List TileMsg → State
  | s, [] => s
  | s, m :: ms =>
    match itemOf s k, (s.core k).rcvs.find? fun (r : Rcv) => r.id == id with
    | some (key', e), some r =>
      if key' = key ∧ r.covers e m ∧ (Tab.find r.got (m.ord.toNat - r.ord)).isNone then feedRcv key k id (fillRcv s key k e r m) ms else feedRcv key k id s ms
    | _, _ => s

/-- What RCV uses (R68, R102): the tiles it writes and the staging slots of a COMBINE. -/
def rcvUse (b : BitVec 120) : Use :=
  let slot := tfmtSlot (f120 b 101 99)
  if f120 b 103 102 = 1 then { wr := [(64 * f120 b 62 45, slot), (64 * f120 b 44 27, f120 b 70 63 * slot)], xfer := 1 }
  else { wr := [(64 * f120 b 62 45, f120 b 70 63 * slot)], xfer := 1 }

/-- RCV (R102): the receive is posted, and first takes the journalled tiles of its ordinals (R180). -/
def rcvCmd (k : PCore) (b : BitVec 120) (s : State) : State :=
  let mode := f120 b 103 102
  let tfmt := f120 b 101 99
  let id := (s.core k).posts
  let posted := tileCmd s k 0x31 b (fun _ c => rcvFaults b c) (fun _ _ => rcvUse b)
    (fun _ _ c =>
      if Config.maxRcv ≤ c.rcvs.length then .hold 2
      else
        let nt := f120 b 70 63
        let r : Rcv := { id := id, idx := c.cmdIdx, combine := mode = 1, tfmt := tfmt, rtag := f120 b 98 87, ord := f120 b 86 71,
                         nt := nt, addr := 64 * f120 b 62 45, baddr := 64 * f120 b 44 27, layer := cmdLayer b, time := s.time }
        .done (s.updCore k fun c => { c with rcvs := c.rcvs ++ [r], posts := id + 1 })
          [mkFlight c 6 (.rcv id) [] (rcvUse b).wr])
  match itemOf posted k, (posted.core k).rcvs.find? fun (r : Rcv) => r.id == id with
  | some (key, e), some r => if (posted.core k).posts = id + 1 then feedRcv key k id posted (journalled posted key e r) else posted
  | _, _ => posted

/-- RCV, MODE 0. -/
def execRcvPlace (k : PCore) (b : BitVec 120) (s : State) : Res := .next (rcvCmd k b s)
/-- RCV, MODE 1. -/
def execRcvCombine (k : PCore) (b : BitVec 120) (s : State) : Res := .next (rcvCmd k b s)

/-! ### Arrival and acknowledgement -/

/-- The source of a tile (R175). -/
def tileSource (m : TileMsg) : BitVec 19 × BitVec 3 × Bool × BitVec 48 := (m.srcMod, m.home, m.engine, m.seq)

def Acc.source (a : Acc) : BitVec 19 × BitVec 3 × Bool × BitVec 48 := (a.srcMod, a.home, a.engine, a.seq)

/-- Bytes journalled on a die (R180). -/
def journalUsed (s : State) (d : Nat) : Nat :=
  (s.journal.filter fun j => j.die == d).foldl (fun n j => n + j.msg.data.length) 0

/-- An item switched out on a die with a posted receive that covers a tile (R301): its ledger key and the receive. -/
def switchedRcv (s : State) (d : Nat) (m : TileMsg) : Option (Nat × Rcv) :=
  s.ctx.findSome? fun x =>
    if x.1 / 16 = d then
      (s.ledAt x.2.led).bind fun e => (x.2.core.rcvs.find? fun (r : Rcv) => r.covers e m).map fun r => (x.2.led, r)
    else none

/-- A tile that a posted receive takes enters the accepted-send table and the journal, unless the journal is full or the
table holds only young entries (R179, R180). -/
def acceptTile (s : State) (k key post : Nat) (m : TileMsg) : Option State :=
  let d := dieOf k
  let table := Tab.get [] s.accepted d
  if fget s (Reg.scJournal d) 6 0 * 1048576 < journalUsed s d + m.data.length then none
  else
    let kept := if Config.acceptedEntries ≤ table.length then table.drop 1 else table
    let a : Acc := { srcMod := m.srcMod, home := m.home, engine := m.engine, seq := m.seq, inst := m.inst, time := s.time }
    some { s with
      accepted := Tab.put [] s.accepted d (kept ++ [a])
      journal := s.journal ++ [{ led := key, die := d, post := post, msg := m }] }

/-- The accepted-send table holds only entries younger than the duplicate window (R179). -/
def tableYoung (s : State) (d : Nat) : Bool :=
  match Tab.get [] s.accepted d with
  | a :: t => decide (Config.acceptedEntries ≤ t.length + 1) && decide (s.time.toNat < a.time.toNat + Config.dupWindow)
  | [] => false

/-- Handle a tile at a core (R103, R179, R180, R301): the state and the code of the answer (0 accepted, 1 duplicate, 2 not
posted, R222). -/
def receive (s : State) (k : Nat) (m : TileMsg) : State × Nat :=
  let d := dieOf k
  let table := Tab.get [] s.accepted d
  let dup := finc s (Reg.coDupCount k) 15 0 1
  let known := table.any fun a => a.source == tileSource m
  let young := finc s (Reg.scDuptab d) 31 16 1
  let onCore := (k :: tailsOf s k).findSome? fun n =>
    (itemOf s n).bind fun x => ((s.core n).rcvs.find? fun (r : Rcv) => r.covers x.2 m).map fun r => (n, x, r)
  match onCore, switchedRcv s d m with
  | some (n, (key, e), r), _ =>
    if (Tab.find r.got (m.ord.toNat - r.ord)).isSome then (dup, 1)
    else if tableYoung s d then (young, 2)
    else match acceptTile s k key r.id m with
      | some t => (commitItem (fillRcv t key n e r m) n, 0)
      | none => (s, 2)
  | none, some (key, r) =>
    if (Tab.find r.got (m.ord.toNat - r.ord)).isSome ||
        s.journal.any (fun j => j.led == key && j.post == r.id && j.msg.ord == m.ord) then (dup, 1)
    else if tableYoung s d then (young, 2)
    else match acceptTile s k key r.id m with
      | some t => (t, 0)
      | none => (s, 2)
  | none, none => if known then (dup, 1) else (s, 2)

/-- A tile of this module has been refused on the module: it is sent again 2 µs later (R103, R232). -/
def noteRefusal (s : State) (t : TileMsg) : State :=
  { s with sent := s.sent.map fun x =>
      if t.srcMod.toNat = modId s ∧ x.dkind ≠ 1 ∧ x.dkind ≠ 3 ∧ tileSource x.msg = tileSource t then { x with refused := some s.time } else x }

/-- TILE_ARRIVAL (R103): a tile at a core, and the answer to its sender. -/
def execTileArrival (k : PCore) (t : TileMsg) (s : State) : Res :=
  let (s1, code) := receive s k t
  .next ((if code = 2 then noteRefusal s1 t else s1).emit (.tileAck (tileSource t) code))

/-- The ledger entry of a tile's sender: HOME and the LSN in its sequence number (R175). -/
def senderKey (s : State) (home seq : Nat) : Option Nat :=
  (s.led.find? fun kv => kv.2.home.val == home && kv.2.lsn == seq / 2 ^ 20).map (·.1)

/-- TILE_ACK (R101, R176). -/
def execTileAck (home : Die) (seq : BitVec 48) (s : State) : Res :=
  match senderKey s home seq.toNat with
  | some key => .next (acknowledge s key (seq.toNat % 2 ^ 20))
  | none => .next s

/-- A tile was refused 2 µs ago or earlier, and has not been sent again since (R232). -/
def Sent.retries (s : State) (x : Sent) : Bool := !x.waits && x.refused.any fun t => decide (t.toNat + 2000 ≤ s.time.toNat)

/-- Resend every shard of a retained tile on the next route (R229, R232), or offer it to the on-die network again. -/
def resendTile (s : State) (x : Sent) : State :=
  if !x.retries s then s
  else if x.dkind = 1 ∨ x.dkind = 3 then
    if heldTile s x then s
    else
      let y := { x with refused := none, shards := x.shards.map fun h => { h with route := (h.route + 1) % 4, last := s.time } }
      let s1 := finc (setSent s y) Reg.fbRetry 63 32 y.shards.length
      y.shards.zipIdx.foldl (fun t h => sendShard t y h.2 h.1.route true) s1
  else netTile (setSent s { x with refused := none }) x

/-- TILE_RESEND_RETRY (R103, R232): a tile that was refused is sent again, every 2 µs and not counted as an attempt. HOME and SEQ may name
a core's tile and an engine's; both are. -/
def execTileResendRetry (home : Die) (seq : BitVec 48) (s : State) : Res :=
  .next ((s.sent.filter fun (x : Sent) => x.msg.home.toNat == home.val && x.msg.seq == seq).foldl resendTile s)

/-- A tile that an item sent, or a posted receive that it has on a core or a tail, has waited for CO_XFER_LIMIT.LIMIT µs (R105). The
timers pause while the group is changing: that of a tile's context, and for a receive, which names no peer, that of the item's
partition (R230, R237; assumption log 165). -/
def overdue (s : State) (k key : Nat) : Bool :=
  match s.ledAt key with
  | none => false
  | some e =>
    let lim := fget s (Reg.coXferLimit e.coreNo) 23 0 * 1000
    lim ≠ 0 &&
      ((s.sent.any fun x => x.led == key && !x.waits && !(x.dkind == 1 && (s.peer x.dest).st == 2) &&
          decide (x.time.toNat + lim ≤ s.time.toNat)) ||
       (!fbit s (Reg.fbGroup (ledPart s e)) 31 && (s.core k).rcvs.any fun r => decide (r.time.toNat + lim ≤ s.time.toNat)))

/-- TRANSFER_TIMEOUT (R105): the item stops as for TRP. -/
def execTransferTimeout (k : PCore) (s : State) : Res :=
  let late := (k.val :: tailsOf s k).find? fun n => (itemOf s n).any fun x => overdue s n x.1
  match late with
  | none => .next s
  | some n => .next (stopItem s n 0 0 .timeout)

end Sys2Proof.Machine
end

