-- ==== Sys2Proof/Machine/LoadStore.lean ====
section
/-! DEFINITION. TLD, TST and TCP (R189, R192 to R198, R201, R207, R208). -/

namespace Sys2Proof.Machine

/-- A verdict that refuses, as the item's stop (R201, R311). -/
def Verdict.stop : Verdict → Option Stop
  | .ok => none
  | .viol c a => some (.access c a)
  | .fence t a => some (.fence t false a)

/-! ### Memory as items reach it -/

/-- A unit of device memory holds a working-copy tile of a pinned adapter: items read it in the hot set of their die, never in
device memory (R134). -/
def inHotSet (s : State) (a : Nat) : Bool :=
  let pg := a / Config.pageBytes
  let d := s.desc (s.page pg).tag.toNat
  (s.page pg).kind == .adstate && d.pin && (match d.pages.findIdx? (· == pg) with
    | some k => decide (16 * d.nproj ≤ k * Config.pageBytes + a % Config.pageBytes) && decide (k * Config.pageBytes + a % Config.pageBytes < d.len)
    | none => false)

/-- Poisoned bytes that an item's read finds (R207, R134). -/
def itemPoison (s : State) (a n : Nat) : Option Nat := poisoned { s with poison := s.poison.filter fun u => !inHotSet s (u * 64) } a n

/-- Bytes that an item reads, page by page, with the tag record each piece takes; or why it stops (R201, R207, R208). -/
def memReadBy (tld : Bool) (s : State) (e : Led) (a n : Nat) : Except Stop (List (List Byte × TagRec)) :=
  match addrOf a with
  | .bad => .error (.format 0x39)
  | .io x =>
    match (ioCheck s e.inst false x n).stop with
    | some st => .error st
    | none => .ok [(hostRead s e.inst x n, none)]
  | .dev x =>
    match itemRead s tld e.inst (ledPart s e) x n with
    | .error v => .error ((v.stop).getD (.format 0x39))
    | .ok tags =>
      if tags.any fun t => match t with
        | some g => !keyUsable s g.toNat
        | none => false
      then .error .keyRetired
      else match itemPoison s x n with
      | some u => .error (.fault 0x32 u)
      | none =>
        .ok ((span Config.pageBytes x n).zip tags |>.map fun pt =>
          let lo := max x (pt.1 * Config.pageBytes)
          let hi := min (x + n) ((pt.1 + 1) * Config.pageBytes)
          (Memory.read s.dev lo (hi - lo), pt.2))

/-- What a TLD reads. -/
def memRead (s : State) (e : Led) (a n : Nat) : Except Stop (List (List Byte × TagRec)) := memReadBy true s e a n

/-- A range of a tile store cut at granules: offset in the range, bytes, tag record (R109). -/
def TileStore.cut (t : TileStore) (a n : Nat) : List (Nat × List Byte × TagRec) :=
  (granules a n).map fun g =>
    let lo := max a (g * Config.granule)
    let hi := min (a + n) ((g + 1) * Config.granule)
    (lo - a, t.read lo (hi - lo), t.tag g)

/-- Data key and tweak key of a key (R309). -/
def keyX1 (k : BitVec 256) : BitVec 256 := Config.hmacSha256 k (ascii "T25-XTS-DATA" ++ [1#8])
def keyX2 (k : BitVec 256) : BitVec 256 := Config.hmacSha256 k (ascii "T25-XTS-TWEAK" ++ [1#8])

/-- AES-256-XTS of one data unit, or of a shorter rest, at a tweak (R309). -/
def xtsEnc (k : BitVec 256) (n : Nat) (u : List Byte) : List Byte :=
  if u.length = 64 then leBytes 64 (Config.xtsUnit (keyX1 k) (keyX2 k) n (BitVec.ofNat 512 (ofLe u))).toNat
  else Config.xtsPart true (keyX1 k) (keyX2 k) n u

/-- Its inverse. -/
def xtsDec (k : BitVec 256) (n : Nat) (u : List Byte) : List Byte :=
  if u.length = 64 then leBytes 64 ((Config.xtsUnit (keyX1 k) (keyX2 k) n).symm (BitVec.ofNat 512 (ofLe u))).toNat
  else Config.xtsPart false (keyX1 k) (keyX2 k) n u

/-- AES-256-XTS of a run of 64 B units at an address (R309). -/
def xtsRun (k : BitVec 256) (a : Nat) (bs : List Byte) : List Byte :=
  ((chunks 64 bs.length bs).zipIdx.map fun u => xtsEnc k (a / 64 + u.2) u.1).flatten

/-- Write pieces to memory: checked whole first, then written; tagged bytes leave for the host as ciphertext under the
adapter key (R122, R128, R208). -/
def memWrite (s : State) (e : Led) (train : Bool) (a : Nat) (ps : List (Nat × List Byte × TagRec)) : Except Stop State :=
  match addrOf a with
  | .bad => .error (.format 0x39)
  | .io x =>
    let n := (ps.map fun p => p.2.1.length).sum
    match (ioCheck s e.inst true x n).stop with
    | some st => .error st
    | none =>
      if ps.any fun p => match p.2.2 with
        | some t => !keyUsable s t.toNat
        | none => false
      then .error .keyRetired
      else .ok (ps.foldl (fun t p => hostWrite t e.inst (x + p.1) (match p.2.2 with
        | some g => xtsRun (t.key g.toNat).key (x + p.1) p.2.1
        | none => p.2.1)) s)
  | .dev x =>
    match (Verdict.first (ps.map fun p => itemWrite s e.inst (ledPart s e) p.2.2 train (x + p.1) p.2.1.length)).stop with
    | some st => .error st
    | none =>
      if ps.any fun p => match p.2.2 with
        | some t => !keyUsable s t.toNat
        | none => false
      then .error .keyRetired
      else .ok (ps.foldl (fun t p =>
        let u := devWrite t (x + p.1) p.2.1
        match p.2.2 with
        | some g => u.updDesc g.toNat fun d => { d with gradDirty := true }
        | none => u) s)

/-! ### TLD and TST -/

/-- The fields of TLD and TST (R193). -/
structure XferCmd where
  tfmt   : Nat
  nt     : Nat
  taddr  : Nat
  maddr  : Nat
  stride : Nat
  saddr  : Nat
  accld  : Bool

def XferCmd.coded (x : XferCmd) : Bool := x.tfmt = 3 || x.tfmt = 4

def xferCmd (b : BitVec 120) : XferCmd :=
  let tfmt := f120 b 103 101
  let coded := tfmt = 3 ∨ tfmt = 4
  { tfmt := tfmt, nt := f120 b 100 93, taddr := 64 * f120 b 92 75,
    maddr := if coded then 64 * f120 b 73 40 else 64 * f120 b 73 32,
    stride := if coded then (if tfmt = 3 then 4096 else 2048) else
      if f120 b 31 8 = 0 then tfmtSlot tfmt else 64 * f120 b 31 8,
    saddr := if coded then 2 * f120 b 39 1 else 0, accld := !coded && f120 b 7 7 = 1 }

/-- Memory runs of tile `t`: address and bytes, in image order (R192, R193). -/
def XferCmd.runs (x : XferCmd) (t : Nat) : List (Nat × Nat) :=
  if x.coded then [(x.maddr + t * x.stride, x.stride), (x.saddr + 66 * t, 66)]
  else [(x.maddr + t * x.stride, tfmtSlot x.tfmt)]

/-- A run that names no memory (R189). -/
def badRun (r : Nat × Nat) : Bool :=
  decide (2 ^ 48 < r.1 + r.2) || (match addrOf r.1 with
    | .bad => true
    | .io x => decide (2 ^ 47 < x + r.2)
    | .dev x => decide (Config.devMemEnd < x + r.2))

/-- Format faults of TLD and TST (R79, R80, R189, R193, R194). -/
def xferFaults (b : BitVec 120) (load : Bool) (c : Core) : List Nat :=
  let x := xferCmd b
  let set := (c.arr (cmdArr b)).set (f120 b 6 6)
  let tail := if x.coded then f120 b 0 0 ≠ 0
    else if load && x.accld then f120 b 2 0 ≠ 0 || (f120 b 5 5 = 0 && f120 b 4 3 ≠ 0) || x.taddr ≠ 0
    else f120 b 7 0 ≠ 0
  chk (hdrBad b (load && x.accld) false || tail) 0x02 ++
  chk (!(load && x.accld) && beyond x.taddr (x.nt * tfmtSlot x.tfmt)) 0x03 ++
  chk (5 < x.tfmt) 0x05 ++ chk (x.nt = 0) 0x06 ++
  chk (load && x.accld && (x.tfmt ≠ 2 || x.nt ≠ 1 || set.st == .live)) 0x38 ++
  chk ((List.range x.nt).any fun t => (x.runs t).any badRun) 0x39

/-- Read every tile of a TLD: pieces with their offset in the tile store (R193). -/
def loadTiles (s : State) (e : Led) (x : XferCmd) : Except Stop (List (Nat × List Byte × TagRec)) :=
  ((List.range x.nt).mapM fun t => ((x.runs t).mapM fun r => memRead s e r.1 r.2).map fun ps =>
    (ps.flatten.foldl (fun (acc : List (Nat × List Byte × TagRec) × Nat) p =>
      (acc.1 ++ [(acc.2, p.1, p.2)], acc.2 + p.1.length)) ([], x.taddr + t * tfmtSlot x.tfmt)).1).map List.flatten

/-- A set loaded from a cFP32 image (R191, R194). -/
def setOfImage (img : List Byte) (wide : Bool) (qsel : Nat) (tag : TagRec) : AccSet :=
  let ps := ((fp32s (img.take 16384)).zip (fp16Line (img.drop 16384))).map fun x => ({ s := x.1, t := x.2 } : Pair)
  let nc := if wide then 256 else 64
  let rows := chunks nc ps.length ps
  let row := rows.zipIdx.map fun r => (r.2, reload r.1)
  let col := (List.range nc).map fun j => (j, reload (rows.map fun r => r.getD j {}))
  { st := .live, wide := wide, qsel := qsel, tag := tag
    cells := (ps.zipIdx.map fun x => (x.2, x.1)).filter fun x => x.2 ≠ {}
    chkRow := row.filter fun x => x.2 ≠ some {}
    chkCol := col.filter fun x => x.2 ≠ some {} }

/-- The effect of a TLD (R193, R194). -/
def runTld (s : State) (k : Nat) (b : BitVec 120) (e : Led) : TileRes :=
  let x := xferCmd b
  if x.accld then
    match memRead s e x.maddr 24576 with
    | .error st => .stop s st
    | .ok ps =>
      let tag := (ps.head?.map (·.2)).getD none
      match ps.find? fun p => p.2 ≠ tag with
      | some p => .stop s (.fence (if p.2.isSome then p.2 else tag) false (x.maddr / Config.pageBytes * Config.pageBytes + Config.pageBytes))
      | none =>
        .done (s.updCore k fun c => c.updArr (cmdArr b) fun a => a.setSet (f120 b 6 6)
          (setOfImage (ps.flatMap (·.1)) (f120 b 5 5 = 1) (f120 b 4 3) tag)) []
  else
    match loadTiles s e x with
    | .error st => .stop s st
    | .ok ps => .done (s.updCore k fun c => ps.foldl (fun c p => c.write p.1 p.2.1 p.2.2) c) []

/-- What TLD uses (R68): the tiles it writes, or the set it loads. -/
def tldUse (b : BitVec 120) : Use :=
  let x := xferCmd b
  if x.accld then { sets := [(cmdArr b, f120 b 6 6)], xfer := 1 } else { wr := [(x.taddr, x.nt * tfmtSlot x.tfmt)], xfer := 1 }

/-- TLD (R193, R194). -/
def tldCmd (k : PCore) (b : BitVec 120) (s : State) : State :=
  tileCmd s k 0x01 b (fun _ c => xferFaults b true c) (fun _ _ => tldUse b) (fun _ e _ => runTld s k b e)

/-- TLD to the tile store. -/
def execTld (k : PCore) (b : BitVec 120) (s : State) : Res := .next (tldCmd k b s)
/-- TLD with ACCLD = 1. -/
def execTldAccld (k : PCore) (b : BitVec 120) (s : State) : Res := .next (tldCmd k b s)

/-- Every piece a TST writes: memory address of the run, and the run's pieces (R192, R193). -/
def storeRuns (st : TileStore) (x : XferCmd) : List (Nat × List (Nat × List Byte × TagRec)) :=
  (List.range x.nt).flatMap fun t =>
    let base := x.taddr + t * tfmtSlot x.tfmt
    ((x.runs t).foldl (fun (acc : List (Nat × List (Nat × List Byte × TagRec)) × Nat) r =>
      (acc.1 ++ [(r.1, st.cut acc.2 r.2)], acc.2 + r.2)) ([], base)).1

/-- The effect of a TST: every run is checked before any byte moves. -/
def runTst (s : State) (b : BitVec 120) (e : Led) (c : Core) : TileRes :=
  let x := xferCmd b
  let train := (c.seg.map (·.train)).getD false
  let runs := storeRuns c.store x
  match runs.findSome? fun r => match memWrite s e train r.1 r.2 with
    | .error st => some st
    | .ok _ => none with
  | some st => .stop s st
  | none => .done (runs.foldl (fun t r => match memWrite t e train r.1 r.2 with
      | .ok u => u
      | .error _ => t) s) []

/-- TST (R193). -/
def execTst (k : PCore) (b : BitVec 120) (s : State) : Res :=
  let x := xferCmd b
  .next (tileCmd s k 0x02 b (fun _ c => xferFaults b false c) (fun _ _ => { rd := [(x.taddr, x.nt * tfmtSlot x.tfmt)], xfer := 1 })
    (fun _ e c => runTst s b e c))

/-! ### TCP and the tile cache's sections (R196, R197) -/

/-- Whether a partition has a core on a die. -/
def onDie (s : State) (p d : Nat) : Bool := (List.range 16).any fun j => inPart s p (16 * d + j)

/-- MiB that a die's sections take beside scratch (R196): hot set, journal, trace buffer. -/
def fixedSections (s : State) (d : Nat) : Nat := fget s Reg.adHotcap 6 0 + fget s (Reg.scJournal d) 6 0 + fget s Reg.trCfg 3 0

/-- Scratch windows of a die's partitions in MiB, reduced in ascending partition order until 8 MiB remain (R196): the list
of (partition, MiB) from an excess. -/
def clipScratch : Nat → List (Nat × Nat) → List (Nat × Nat)
  | _, [] => []
  | ex, (p, m) :: rest => (p, m - ex) :: clipScratch (ex - m) rest

def scratchWindows (s : State) (d : Nat) : List (Nat × Nat) :=
  let want := ((List.range 16).filter fun p => onDie s p d).map fun p => (p, fget s (Reg.mtScratch p) 6 0)
  clipScratch ((want.map (·.2)).sum + fixedSections s d - 88) want

/-- The scratch window of a partition on a die in bytes (R197). -/
def scratchSize (s : State) (d p : Nat) : Nat :=
  (((scratchWindows s d).find? fun x => x.1 == p).map fun x => x.2 * 1048576).getD 0

/-- Scratch windows as the configuration leaves them: what no longer lies in a partition's window of a die is gone, so that a window
is zero when it passes to another partition (R205; assumption log 162). -/
def trimScratch (s : State) : State :=
  let cut := fun (kv : Nat × TileStore) =>
    let n := scratchSize s (kv.1 / 16) (kv.1 % 16)
    (kv.1, ({ mem := kv.2.mem.filter fun c => decide (c.1 < n)
              gran := kv.2.gran.filter fun g => decide (g.1 * Config.granule < n) } : TileStore))
  { s with scratch := (s.scratch.map cut).filter fun kv => kv.2 ≠ {} }

/-- Write cut pieces at an address. -/
def TileStore.paste (t : TileStore) (a : Nat) (ps : List (Nat × List Byte × TagRec)) : TileStore :=
  ps.foldl (fun t p => t.write (a + p.1) p.2.1 p.2.2) t

/-- Format faults of TCP (R80, R197). -/
def tcpFaults (s : State) (k : Nat) (b : BitVec 120) (e : Led) : List Nat :=
  let tfmt := f120 b 102 100
  let n := f120 b 99 92 * tfmtSlot tfmt
  chk (hdrBad b false false || f120 b 52 0 ≠ 0) 0x02 ++
  chk (beyond (64 * f120 b 91 74) n || scratchSize s (dieOf k) (ledPart s e) < 64 * f120 b 73 53 + n ||
    scratchSize s (dieOf k) (ledPart s e) = 0) 0x03 ++
  chk (5 < tfmt) 0x05 ++ chk (f120 b 99 92 = 0) 0x06

/-- TCP (R197). -/
def execTcp (k : PCore) (b : BitVec 120) (s : State) : Res :=
  let tfmt := f120 b 102 100
  let nt := f120 b 99 92
  let ta := 64 * f120 b 91 74
  let ca := 64 * f120 b 73 53
  let range := (ta, nt * tfmtSlot tfmt)
  .next (tileCmd s k 0x03 b (fun e _ => tcpFaults s k b e)
    (fun _ _ => if f120 b 103 103 = 1 then { rd := [range], xfer := 1 } else { wr := [range], xfer := 1 })
    (fun _ e c =>
      let cell := dieOf k * 16 + ledPart s e
      let scr : TileStore := Tab.get {} s.scratch cell
      let offs := (List.range nt).map fun t => t * tfmtSlot tfmt
      if f120 b 103 103 = 1 then
        let scr' := offs.foldl (fun x o => x.paste (ca + o) (c.store.cut (ta + o) (sentBytes tfmt))) scr
        .done { s with scratch := Tab.put {} s.scratch cell scr' } []
      else
        .done (s.updCore k fun c => offs.foldl (fun c o =>
          (scr.cut (ca + o) (sentBytes tfmt)).foldl (fun c p => c.write (ta + o + p.1) p.2.1 p.2.2) c) c) []))

end Sys2Proof.Machine
end

