-- ==== Sys2Proof/Machine/Update.lean ====
section
/-! DEFINITION. Update programs (R152 to R161): the update block, the program's rules, running one, and norm entries
(R147, R148). -/

namespace Sys2Proof.Machine

/-! ### Loss-scale context fields (R139, R166) -/

def ctxStep (s : State) (p : Nat) : W32 := BitVec.ofNat 32 (fget s (Reg.lsState p) 63 32)
/-- EXP, two's complement. -/
def ctxExp (s : State) (p : Nat) : Int := (BitVec.ofNat 6 (fget s (Reg.lsState p) 31 26)).toInt

/-- EXP of step n: the current one until n is decided, then the one recorded. -/
def expOf (s : State) (p : Nat) (n : W32) : Int :=
  if sdiff32 n (ctxStep s p) ≤ 0 then (stepRec s p n).exp else ctxExp s p

/-! ### Norms (R148) -/

/-- Add a UPD's norms; the Nat counts overflows. -/
def addUpdNorms (s : State) (base : Bool) (who layer : Nat) (n : W32) (w u : W32) : State × Nat :=
  let x := normFor (normGet s base who layer) n
  let (wsq, o1) := fAdd x.wsq w
  let (usq, o2) := fAdd x.usq u
  (normSet s base who layer { x with wsq := wsq, usq := usq, upd := true }, b2n o1 + b2n o2)

/-- A total scaled by 2^(-2 EXP) with one rounding (R148). -/
def scaleGsq (s : State) (p : Nat) (n : W32) (v : W32) : W32 × Bool :=
  rne32 ((dec32 v).mul (.fin false 1 (-2 * expOf s p n)))

/-- Squares of a run of values in tiles of 4,096: each tile by the tree, the sums folded (R150, R171). -/
def sumSquares (xs : List W32) : W32 × Nat :=
  let tiles : List (W32 × Nat) := (chunks 4096 xs.length xs).map fun t =>
    let sq := t.map fun x => fMul x x
    let (v, o) := tree (sq.map (·.1))
    (v, o + ovfs (sq.map (·.2)))
  let (v, o) := foldSum (tiles.map (·.1))
  (v, o + (tiles.map (·.2)).sum)

/-! ### The update block (R153) -/

/-- Bits of the block as a number; `blk` is little-endian. -/
def blkNum (b : BitVec 512) (k n : Nat) : Nat := bits b.toNat (8 * k + 8 * n - 1) (8 * k)
def blkProg (b : BitVec 512) : Nat := blkNum b 0 6
/-- Stream address: 0 G, 1 M, 2 S1, 3 S2, 4 W. -/
def blkStream (b : BitVec 512) (i : Nat) : Nat := blkNum b (6 + 6 * i) 6
def blkNelem (b : BitVec 512) : Nat := blkNum b 36 5
def blkTid (b : BitVec 512) : Nat := blkNum b 41 3
def blkNinst (b : BitVec 512) : Nat := blkNum b 44 1
def blkPsplit (b : BitVec 512) : Nat := blkNum b 45 1
def blkMask (b : BitVec 512) : Nat := blkNum b 46 1

/-- Bytes of an element of a stream. -/
def streamEl (i : Nat) : Nat := if i = 4 then 2 else 4

/-- Non-zero reserved fields of the block. -/
def blkResv (b : BitVec 512) : Bool :=
  bits (blkMask b) 7 5 ≠ 0 || blkNum b 47 17 ≠ 0 ||
    (List.range 5).any fun i => !bit (blkMask b) i && blkStream b i ≠ 0

/-! ### Programs (R158) -/

def insOp (w : Nat) : Nat := bits w 31 26
def insD (w : Nat) : Nat := bits w 25 22
def insA (w : Nat) : Nat := bits w 21 18
def insB (w : Nat) : Nat := bits w 17 14
def insC (w : Nat) : Nat := bits w 13 10
def insAux (w : Nat) : Nat := bits w 9 0

/-- Which of D, A, B, C an opcode uses, and the highest AUX value it takes; none for a reserved one. -/
def insUses (op : Nat) : Option (Bool × Bool × Bool × Bool × Nat) :=
  match op with
  | 0x00 => some (false, false, false, false, 0)
  | 0x01 => some (true, false, false, false, 4)
  | 0x02 => some (false, true, false, false, 12)
  | 0x03 => some (true, false, false, false, 17)
  | 0x04 | 0x0B | 0x0C | 0x0D | 0x0E | 0x0F | 0x11 => some (true, true, false, false, 0)
  | 0x05 | 0x06 | 0x07 | 0x09 | 0x0A => some (true, true, true, false, 0)
  | 0x08 | 0x10 => some (true, true, true, true, 0)
  | 0x12 => some (false, true, false, false, 7)
  | 0x13 => some (true, false, false, false, 3)
  | _ => none

/-- Instruction `j` keeps the rules of R158. `pass2` says that it lies in pass 2, `block` that the mode is block mode. -/
def insOk (mask psplit j w : Nat) : Bool :=
  let block := psplit ≠ 0
  let pass1 := block && decide (j < psplit)
  let pass2 := block && !pass1
  match insUses (insOp w) with
  | none => false
  | some (d, a, b, c, aux) =>
    (d || insD w = 0) && (a || insA w = 0) && (b || insB w = 0) && (c || insC w = 0) && decide (insAux w ≤ aux) &&
    (match insOp w with
      | 0x01 => bit mask (insAux w)
      | 0x02 =>
        let st := insAux w % 8
        !pass1 && 1 ≤ st && st ≤ 4 && bit mask st && (st = 4 || insAux w < 8)
      | 0x12 => pass1
      | 0x13 => pass2
      | _ => true)

/-- The program's rules over the whole block (R153, R158). -/
def progOk (b : BitVec 512) (prog : List W32) : Bool :=
  let n := blkNinst b
  1 ≤ n && n ≤ 64 && blkPsplit b < n && blkProg b % 256 = 0 &&
    (prog.zipIdx.all fun x => insOk (blkMask b) (blkPsplit b) x.2 x.1.toNat)

/-! ### Streams -/

/-- A stream's range. -/
def streamRange (b : BitVec 512) (i : Nat) : Nat × Nat := (blkStream b i, streamEl i * blkNelem b)

/-- The page check of an update engine's stream (R122, R154, R201): none where every page admits it. -/
def streamPage (s : State) (j : UpdJob) (i : Nat) (pg : Nat) : Option Stop :=
  let r := s.page pg
  let a := pg * Config.pageBytes
  if !j.base then
    let ok := r.tag == j.tag && r.inst == j.inst && (if i = 0 then r.kind == .adgrad else r.kind == .adstate)
    if ok then (if r.barred (some (.job j.id)) then some (.access 5 a) else none) else some (.fence (some j.tag) false a)
  else if r.barred (some (.job j.id)) then some (.access 5 a)
  else match r.kind with
    | .base =>
      if r.part ≠ j.part then some (.access 3 a)
      else if i = 0 then none
      else if i = 4 then (if (s.part j.part).frozen then some (.access 4 a) else none)
      else some (.access 2 a)
    | .act | .stage => if r.inst = j.inst then none else some (.access 3 a)
    | _ => some (.access 2 a)

/-- The check of a whole stream. -/
def streamCheck (s : State) (j : UpdJob) (i : Nat) : Option Stop :=
  let (a, n) := streamRange j.block i
  match addrOf a with
  | .bad => some (.access 7 a)
  | .io x =>
    if !j.base then some (.fence (some j.tag) false a)
    else (ioCheck s j.inst false x n).stop.or (if i = 0 then none else (ioCheck s j.inst true x n).stop)
  | .dev x =>
    if Config.devMemEnd < x + n then some (.access 7 a)
    else (span Config.pageBytes x n).findSome? (streamPage s j i)

/-- The first stream of SMASK that fails. -/
def streamsCheck (s : State) (j : UpdJob) : Option Stop :=
  ((List.range 5).filter fun i => bit (blkMask j.block) i).findSome? (streamCheck s j)

/-- Poisoned bytes in a stream. -/
def streamsPoison (s : State) (b : BitVec 512) : Option Nat :=
  ((List.range 5).filter fun i => bit (blkMask b) i).findSome? fun i =>
    let (a, n) := streamRange b i
    match addrOf a with
    | .dev x => poisoned s x n
    | _ => none

def streamRead (s : State) (j : UpdJob) (i e : Nat) : W32 :=
  let a := blkStream j.block i + streamEl i * e
  let v := match addrOf a with
    | .io x => ofLe (hostRead s j.inst x (streamEl i))
    | _ => Memory.num s.dev a (streamEl i)
  if i = 4 then widen (BitVec.ofNat 16 v) else BitVec.ofNat 32 v

def streamWrite (s : State) (j : UpdJob) (i e v : Nat) : State :=
  let a := blkStream j.block i + streamEl i * e
  match addrOf a with
  | .io x => hostWrite s j.inst x (leBytes (streamEl i) v)
  | _ => devWrite s a (leBytes (streamEl i) v)

/-! ### Running a program (R157 to R161) -/

/-- The engine while it runs: registers, the four block accumulators by lane, finalised values, the WSQ and USQ lanes,
the last LD of M of each element, overflows, and the trap (instruction, NANIN). -/
structure Eng where
  s    : State
  r    : List W32
  acc  : List (List W32)
  fin_ : List W32
  wsq  : List W32
  usq  : List W32
  ldM  : Tab W32
  o    : Nat
  trap : Option (Nat × Bool)

def lanes0 : List W32 := List.replicate 64 0#32

def Eng.init (s : State) : Eng :=
  { s := s, r := List.replicate 16 0#32, acc := List.replicate 4 lanes0, fin_ := List.replicate 4 0#32, wsq := lanes0, usq := lanes0,
    ldM := [], o := 0, trap := none }

/-- A result goes to D, or traps when it is NaN. -/
def Eng.put (x : Eng) (j d : Nat) (nanin : Bool) (v : R32v) : Eng :=
  if isNan32 v.1 then { x with trap := some (j, nanin) }
  else { x with r := x.r.set d v.1, o := x.o + b2n v.2 }

/-- Add into a lane; a NaN there is what it is for the engine's own sums. -/
def laneAdd (l : List W32) (i : Nat) (v : W32) : List W32 × W32 × Bool :=
  let (n, o) := fAdd (l.getD (i % 64) 0#32) v
  (l.set (i % 64) n, n, o)

/-- The sums of a store to M (R159). -/
def Eng.norms (x : Eng) (i : Nat) (v : W32) : Eng :=
  let (sq, o1) := fMul v v
  let (w, _, o2) := laneAdd x.wsq i sq
  let (d, o3) := fSub v (Tab.get 0#32 x.ldM i)
  let (dd, o4) := fMul d d
  let (u, _, o5) := laneAdd x.usq i dd
  { x with wsq := w, usq := u, o := x.o + ovfs [o1, o2, o3, o4, o5] }

/-- One instruction at element `i` (R158). A NaN that an LDA reads from the finalised block accumulators is reported with NANIN
0 (assumption log 150). -/
def Eng.ins (job : UpdJob) (s0 : State) (i j w : Nat) (x : Eng) : Eng :=
  let a := x.r.getD (insA w) 0#32
  let b := x.r.getD (insB w) 0#32
  let c := x.r.getD (insC w) 0#32
  let d := insD w
  let aux := insAux w
  let put := x.put j d false
  match insOp w with
  | 0x01 =>
    let v := streamRead x.s job aux i
    let y := x.put j d true (v, false)
    if aux = 1 then { y with ldM := Tab.insert x.ldM i v } else y
  | 0x02 =>
    let st := aux % 8
    if st = 4 then
      let (h, o) := if aux < 8 then rne16 (dec32 a) else stochastic16 a (srBits job.step (BitVec.ofNat 24 (blkTid job.block)) i)
      { x with s := streamWrite x.s job 4 i h.toNat, o := x.o + b2n o }
    else
      let y := { x with s := streamWrite x.s job st i a.toNat }
      if st = 1 then y.norms i a else y
  | 0x03 =>
    let v : W32 := if aux < 16 then job.consts.getD aux 0#32
      else if aux = 16 then pow2F (-(expOf s0 job.part job.step)) else (rne32 (Fv.ofNat job.step.toNat)).1
    x.put j d true (v, false)
  | 0x04 => put (a, false)
  | 0x05 => put (fAdd a b)
  | 0x06 => put (fSub a b)
  | 0x07 => put (fMul a b)
  | 0x08 => put (fFma a b c)
  | 0x09 => put (fMax a b, false)
  | 0x0A => put (fMin a b, false)
  | 0x0B => put (fRcp a)
  | 0x0C => put (fRsqrt a)
  | 0x0D => put (fSqrt a)
  | 0x0E => put (fNeg a, false)
  | 0x0F => put (fAbs a, false)
  | 0x10 => put (if fGt a 0#32 then b else c, false)
  | 0x11 => put (if fGt a 0#32 then f32One else if fGt 0#32 a then 0xBF800000#32 else 0#32, false)
  | 0x12 =>
    let k := aux % 4
    let (v, o1) := if aux < 4 then (a, false) else fMul a a
    let (l, n, o2) := laneAdd (x.acc.getD k lanes0) i v
    if isNan32 n || isNan32 v then { x with trap := some (j, false) }
    else { x with acc := x.acc.set k l, o := x.o + b2n o1 + b2n o2 }
  | 0x13 => put (x.fin_.getD (aux % 4) 0#32, false)
  | _ => x

/-- Instructions [lo, hi) at element `i`. An element that traps has nothing written (R161). -/
def Eng.element (job : UpdJob) (s0 : State) (lo hi i : Nat) (x : Eng) : Eng :=
  if x.trap.isSome then x
  else
    let y := (job.prog.zipIdx.filter fun p => decide (lo ≤ p.2) && decide (p.2 < hi)).foldl
      (fun y p => if y.trap.isSome then y else y.ins job s0 i p.2 p.1.toNat)
      { x with r := List.replicate 16 0#32 }
    if y.trap.isSome then { y with s := x.s } else y

/-- One pass over every element. -/
def Eng.pass (job : UpdJob) (s0 : State) (lo hi : Nat) (x : Eng) : Eng :=
  (List.range (blkNelem job.block)).foldl (fun y i => y.element job s0 lo hi i) x

/-- Finalise the block accumulators (R159). -/
def Eng.finalise (x : Eng) : Eng :=
  let fs := x.acc.map tree
  { x with fin_ := fs.map (·.1), o := x.o + (fs.map (·.2)).sum }

/-- Run a UPD's program (R157). -/
def runProgram (s : State) (job : UpdJob) : Eng :=
  let n := blkNinst job.block
  let k := blkPsplit job.block
  if k = 0 then Eng.pass job s 0 n (Eng.init s)
  else Eng.pass job s k n (Eng.finalise (Eng.pass job s 0 k (Eng.init s)))

end Sys2Proof.Machine
end

