-- ==== Sys2Proof/Machine/Seq.lean ====
section
/-! DEFINITION. The sequencer's own commands (R66, R71, R76 to R79), NRM (R149, R150) and the acceptance of UPD (R152 to
R156). -/

namespace Sys2Proof.Machine

/-! ### SYN -/

/-- A SIGNAL to a semaphore is in flight (R76). -/
def signalling (c : Core) (sem : Nat) : Nat :=
  (c.flight.map fun f => match f.kind with
    | .signal x n => if x = sem then n else 0
    | _ => 0).sum

/-- Format faults of SYN (R76). Whether a SIGNAL would carry its semaphore above 65,535 is judged at its issue, with every SIGNAL
in flight counted and no later WAIT (assumption log 147). -/
def synFaults (b : BitVec 120) (c : Core) : List Nat :=
  let sem := f120 b 102 99
  let n := f120 b 95 80
  let have_ := Tab.get 0 c.sems sem
  chk (hdrBad b false false || f120 b 79 0 ≠ 0 || (f120 b 103 103 = 0 && f120 b 98 96 ≠ 0)) 0x02 ++ chk (n = 0) 0x06 ++
  (if f120 b 103 103 = 1 then chk (65535 < have_ + signalling c sem + n) 0x06
    else chk (have_ < n && signalling c sem = 0) 0x09)

/-- SYN (R76). -/
def synCmd (k : PCore) (b : BitVec 120) (s : State) : State :=
  let sem := f120 b 102 99
  let n := f120 b 95 80
  afterIssue (tileCmd s k 0x40 b (fun _ c => synFaults b c) (fun _ _ => {}) (fun _ _ c =>
    if f120 b 103 103 = 1 then .done s [mkFlight c (f120 b 98 96) (.signal sem n) [] []]
    else if Tab.get 0 c.sems sem < n then .hold 3
    else .done (s.updCore k fun c => { c with sems := Tab.upd 0 c.sems sem (· - n) }) [])) k

/-- SYN, OP 0. -/
def execSynWait (k : PCore) (b : BitVec 120) (s : State) : Res := .next (synCmd k b s)
/-- SYN, OP 1. -/
def execSynSignal (k : PCore) (b : BitVec 120) (s : State) : Res := .next (synCmd k b s)

/-! ### NRM -/

/-- STEP lies one or two after the context's (R150, R154). -/
def stepAhead (s : State) (p : Nat) (n : W32) : Bool := n == ctxStep s p + 1#32 || n == ctxStep s p + 2#32

/-- Format faults of NRM (R149, R150). -/
def nrmFaults (s : State) (b : BitVec 120) (e : Led) : List Nat :=
  let nt := f120 b 101 94
  chk (hdrBad b false true || f120 b 27 0 ≠ 0 || (f120 b 103 103 = 1 && f120 b 75 60 ≠ 0)) 0x02 ++
  chk (beyond (64 * f120 b 93 76) (nt * fmtSize (f120 b 102 102 = 1))) 0x03 ++ chk (nt = 0) 0x06 ++
  chk (!stepAhead s (ledPart s e) (BitVec.ofNat 32 (f120 b 59 28))) 0x33

/-- The effect of NRM (R148, R150): its contribution goes with the item until the item commits (R177; assumption log 156). The row
unit takes element i at lane i mod 64 of element step i / 64. -/
def runNrm (s : State) (k : Nat) (b : BitVec 120) (e : Led) (c : Core) : TileRes :=
  let base := f120 b 103 103 = 1
  let f32 := f120 b 102 102 = 1
  let n := f120 b 101 94
  let a := 64 * f120 b 93 76
  let tag := BitVec.ofNat 16 (f120 b 75 60)
  let step := BitVec.ofNat 32 (f120 b 59 28)
  let p := ledPart s e
  let want : TagRec := if base then none else some tag
  match (granules a (n * fmtSize f32)).find? fun g => c.store.tag g ≠ want with
  | some g => .stop s (.fence (c.store.tag g) true (max a (g * Config.granule)))
  | none =>
    let xs := if f32 then fp32s (c.store.read a (n * 16384)) else (fp16Line (c.store.read a (n * 8192))).map widen
    match xs.zipIdx.find? fun x => isNan32 x.1 with
    | some (_, i) => .stop s (.numeric { unit := 4, kstep := i / 64, row := i % 64, nanin := true })
    | none =>
      let (v, o1) := sumSquares xs
      let (g, o2) := scaleGsq s p step v
      let x : GsqPart := { base := base, who := if base then p else tag.toNat, layer := cmdLayer b, step := step, v := g }
      .done (countOvf (s.updCore k fun c => { c with gsq := c.gsq ++ [x] }) e (cmdLayer b) (o1 + b2n o2)) []

/-- NRM (R149, R150). -/
def execNrm (k : PCore) (b : BitVec 120) (s : State) : Res :=
  .next (tileCmd s k 0x41 b (fun e _ => nrmFaults s b e)
    (fun _ _ => { rd := [(64 * f120 b 93 76, f120 b 101 94 * fmtSize (f120 b 102 102 = 1))] })
    (fun _ e c => runNrm s k b e c))

/-! ### UPD -/

/-- What acceptance decides (R154, R155). -/
inductive Accept where
  | stop (st : Stop)
  | hold
  | atOnce
  | join (id : Nat)
  | queue (j : UpdJob)

/-- The update log's bit of a tensor (R156). -/
def logged (s : State) (p : Nat) (n : W32) (tid : Nat) : Bool := s.updLog.contains (p, n.toNat % 2, tid)

/-- Engine of a core (R152). -/
def engineOf (k : Nat) : Nat := quadOfDie (dieOf k)

/-- The engine that a core's UPDs run on: its quadrant's, or the next one where that is fenced or restarts (R341, R372). -/
def engineFor (s : State) (k : Nat) : Nat :=
  let q := engineOf k
  if Tab.get 0 s.ueMap q ≠ 0 ∨ rolling s 2 = some q then (q + 1) % 4 else q

/-- Accepted UPDs that wait in an engine's queue (R160). -/
def queuedOn (s : State) (q : Nat) : Nat :=
  (s.jobs.filter fun (x : UpdJob) => x.stage == .waiting && engineFor s x.core == q).length

/-- Acceptance of a UPD by its engine (R154 to R156, R160). A replayed item's UPD waits for the one that its first run left with an
engine. Of a step that a base swap refused (R137), or whose update was lost (R181), none runs: it completes at once. -/
def acceptUpd (s : State) (key k : Nat) (b : BitVec 120) (e : Led) (c : Core) : Accept :=
  let base := f120 b 103 103 = 1
  let tag : Tag := BitVec.ofNat 16 (f120 b 102 87)
  let ua := 64 * f120 b 86 69
  let ka := 64 * f120 b 68 51
  let step : W32 := BitVec.ofNat 32 (f120 b 50 19)
  let p := ledPart s e
  let block : BitVec 512 := BitVec.ofNat 512 (Memory.num c.store.mem ua 64)
  let desc := s.desc tag.toNat
  let tid := blkTid block
  match lowest (chk (blkResv block) 0x02 ++ chk (e.cls ≠ 0 || blkNelem block = 0) 0x32) with
  | some r => .stop (.format r)
  | none =>
    if blkNinst block = 0 || 64 < blkNinst block then .stop (.format 0x30)
    else match memReadBy false s e (blkProg block) (4 * blkNinst block) with
      | .error st => .stop st
      | .ok ps =>
        let prog := fp32s (ps.flatMap (·.1))
        let known := stepAhead s p step || (step == ctxStep s p && (stepRec s p step).outcome != .pending)
        let j : UpdJob := {
          id := s.jobNum, led := key, core := fin 143 k, idx := c.cmdIdx, base := base, tag := tag, inst := e.inst,
          part := fin 15 p, layer := cmdLayer b, step := step, block := block,
          consts := fp32s (c.store.read ka 64), prog := prog }
        if !progOk block prog then .stop (.format 0x30)
        else if !known then .stop (.format 0x31)
        else if base && (s.part p).frozen then .stop (.format 0x32)
        else if !base && desc.inst == e.inst && desc.st == .restoring && desc.role == .owner then .hold
        else if !base && !(desc.inst == e.inst && desc.st == .trainable && desc.role == .owner) then
          .stop (.fence (some tag) false (rd s Reg.adDescBase + 64 * tag.toNat))
        else match streamsCheck s j with
          | some st => .stop st
          | none =>
            let r := stepRec s p step
            if r.refused || r.lost then .atOnce
            else if step == ctxStep s p && (logged s p step tid || r.outcome == .suppressed || r.outcome == .discarded) then .atOnce
            else match s.jobs.find? fun (x : UpdJob) => x.led == key && x.part.val == p && x.step == step && blkTid x.block == tid with
              | some x => .join x.id
              | none => if 64 ≤ queuedOn s (engineFor s k) then .hold else .queue j

/-- An accepted UPD joins its engine's queue; update engines serve the train class (R297, R298). -/
def queueUpd (s : State) (j : UpdJob) : State :=
  let hs := (s.jobs.filter fun (x : UpdJob) => x.stage == .waiting).map fun x => (x.part.val, 0)
  let s1 := raiseV s 1 j.part 0 hs
  { s1 with jobs := s1.jobs ++ [j], jobNum := s1.jobNum + 1 }

/-- UPD (R152 to R156). -/
def execUpd (k : PCore) (b : BitVec 120) (s : State) : Res :=
  let ua := 64 * f120 b 86 69
  let ka := 64 * f120 b 68 51
  .next (tileCmd s k 0x50 b
    (fun _ _ => chk (hdrBad b false true || f120 b 18 0 ≠ 0 || (f120 b 103 103 = 1 && f120 b 102 87 ≠ 0)) 0x02 ++
      chk (beyond ua 64 || beyond ka 64) 0x03)
    (fun _ _ => { rd := [(ua, 64), (ka, 64)] })
    (fun key e c => match acceptUpd s key k b e c with
      | .stop st => .stop s st
      | .hold => .hold 2
      | .atOnce => .done s []
      | .join id => .done s [mkFlight c 6 (.upd id) [] []]
      | .queue j => .done (queueUpd s j) [mkFlight c 6 (.upd j.id) [] []]))

/-! ### TRP, END, unknown opcodes -/

/-- TRP (R77). -/
def execTrp (k : PCore) (b : BitVec 120) (s : State) : Res :=
  .next (tileCmd s k 0xF0 b (fun _ _ => chk (hdrBad b false false || f120 b 87 0 ≠ 0) 0x02) (fun _ _ => {})
    (fun _ _ _ => .stop s (.trap (f120 b 103 88))))

/-- END (R78): issue stops; the item commits once its commands are complete. -/
def execEndItem (k : PCore) (b : BitVec 120) (s : State) : Res :=
  .next (commitItem (tileCmd s k 0xFF b (fun _ _ => chk (b ≠ 0#120) 0x02) (fun _ _ => {})
    (fun key _ _ => .done (s.updLed key fun e => { e with st := .finishing }) [])) k)

/-- The opcodes of R71. -/
def opcodes : List Nat :=
  [0x01, 0x02, 0x03, 0x10, 0x11, 0x12, 0x13, 0x20, 0x21, 0x22, 0x23, 0x30, 0x31, 0x40, 0x41, 0x50, 0xF0, 0xFF]

/-- A word whose opcode is not in the table (R71, R79). -/
def execOpcodeNotInTable (k : PCore) (w : W128) (s : State) : Res :=
  let op := bits w.toNat 127 120
  if opcodes.contains op then .next s
  else .next (tileCmd s k op (w.truncate 120) (fun _ _ => [0x01]) (fun _ _ => {}) (fun _ _ _ => .done s []))

end Sys2Proof.Machine
end

