-- ==== Sys2Proof/Machine/Rings.lean ====
section
/-! DEFINITION. The queue manager: doorbells and admission (R272 to R276), and what the admitted entries of every type
do (R277 to R282) but for streams. An entry that must wait stays admitted; its command given again, or an idle step,
lets it try again. -/

namespace Sys2Proof.Machine

/-! ### Doorbells and admission -/

/-- A doorbell (R275) is invalid: TAIL runs more than the SQ ahead of the old TAIL, or HEAD moves backwards or past
the completions written. -/
def badDoorbell (r : Ring) (tail head : W32) : Bool :=
  decide (2 ^ sqLog r < (tail - r.tail).toNat) || decide (sdiff32 head r.head < 0) || decide (sdiff32 r.written head < 0)

/-- A doorbell at a ring's slot by the PF (`mgr`) or the instance's VF. -/
def ringBell (s : State) (mgr : Bool) (i r : Nat) (v : W64) : State :=
  let x := s.ring i r
  if ringMgr x ≠ mgr then finc s (Reg.qmInststat i) 31 16 1
  else if !ringEn x || x.err then s
  else
    let tail : W32 := v.truncate 32
    let head : W32 := (v >>> 32).truncate 32
    if badDoorbell x tail head then s.updRing i r fun y => { y with err := true }
    else s.updRing i r fun y => { y with tail := tail, head := head }

/-- A write of BAR2: one of another size than 8 bytes, or beside a slot, is discarded (R273). -/
def bar2Write (s : State) (fn : Fn) (off size : Nat) (val : W64) : State :=
  if size ≠ 8 ∨ off % 8 ≠ 0 ∨ !s.pwrWarnN then s
  else if fn.val = 0 then
    if off < 0x200000 then ringBell s true (off / 0x20000) (off % 0x20000 / 8) val else s
  else if off < 0x20000 then ringBell s false (fn.val - 1) (off / 8) val
  else s

/-- DOORBELL (R272, R273): an access to BAR2, a write of a value or a read, which returns zero. -/
def execDoorbell (fn : Fn) (off size : Nat) (val : Option W64) (s : State) : Res :=
  hostCmd s (match val with
    | some v => bar2Write s fn off size v
    | none => s.emit (.readData fn (List.replicate size 0#8)))

/-- Device-quiesced (R353). -/
def devQuiesced (s : State) : Bool := fbit s Reg.fcStatus 62

/-- An instance is neither freezing nor frozen (R291): it admits entries, and its items may start. -/
def mayRun (s : State) (i : Nat) : Bool := !(s.inst i).freezing && !fbit s (Reg.qmInststat i) 4

/-- The queue manager admits entries of a ring (R274, R286, R291, R327, R346, R352, R353). -/
def mayAdmit (s : State) (i r : Nat) : Bool :=
  let x := s.ring i r
  ringEn x && !x.err && !(s.inst i).stopped && mayRun s i && !devQuiesced s && !fwRestarts s && s.pwrWarnN && (!sealed s || fbit s Reg.isSealctl 29) && decide (0 < sdiff32 x.tail x.next) &&
    decide ((x.written - x.head).toNat + x.outst + x.older < 2 ^ cqLog x) &&
    !(s.ops.any fun o => o.inst.val == i && o.ring.val == r && entByte o.desc 0 == 2)

/-- TYPE and SUBOP are ones of R278 and R280. -/
def knownType (e : Entry) : Bool :=
  match entByte e 0, entByte e 2 with
  | 0x01, _ => true
  | 0x10, n => decide (n < 6)
  | 0x11, n => decide (n < 4)
  | 0x20, n | 0x30, n | 0x31, n => decide (n < 2)
  | 0x02, _ | 0x21, _ | 0x22, _ | 0x3F, _ => true
  | _, _ => false

/-- In sealed mode a manager-owned ring carries BASE, OPERATOR-class PEER and STREAM, and NOP only (R328). -/
def sealRefused (s : State) (o : Op) : Bool :=
  let op := fun (cls : Bool) (open_ : Bool) => if entByte o.desc 2 = 0 then open_ else cls
  sealed s && o.mgr && (match entByte o.desc 0 with
    | 0x11 | 0x3F => false
    | 0x30 => op (s.peer (entNum o.desc 4 2)).cls (bit (entByte o.desc 12) 4)
    | 0x31 => op (s.stream (entNum o.desc 4 2)).cls (bit (entByte o.desc 26) 4)
    | _ => true)

/-- The pairs that wait for the copy path (R297, R298): the partitions with an admitted COPY, in class copy; ascending. -/
def copyHolders (s : State) : List (Nat × Nat) :=
  (((s.ops.filter fun o => entByte o.desc 0 == 0x21).map fun o => (partOf s o.inst).getD 0).foldr insertAsc []).map fun p => (p, 3)

/-- ADMIT (R274): an entry of a reserved type or sub-operation completes MALFORMED. An SQ address that the
translation refuses is a violation, and nothing is admitted. -/
def execAdmitEntry (i : Inst) (r : RingId) (s : State) : Res :=
  if !mayAdmit s i r then .next s
  else
    let x := s.ring i r
    let a := bits x.rsq.toNat 46 12 * 4096 + x.next.toNat % 2 ^ sqLog x * 64
    match ioCheck s i false a 64 with
    | .viol c y => .next (countViol s i c y)
    | .fence _ _ => .next s
    | .ok =>
      let e : Entry := BitVec.ofNat 512 (ofLe (hostRead s i a 64))
      let o : Op := { inst := i, ring := r, subseq := x.next, desc := e, rsq := x.rsq, rcq := x.rcq, mgr := ringMgr x,
                      order := s.orders }
      let s1 := s.updRing i r fun y => { y with next := y.next + 1#32, outst := y.outst + 1 }
      let s2 := { (if entByte e 0 = 0x21 then raiseV s1 3 ((partOf s i).getD 0) 3 (copyHolders s1) else s1) with
        ops := s1.ops ++ [o], orders := s1.orders + 1 }
      .next (if !knownType e then completeOp s2 o 0x0C 0 else if sealRefused s o then refuseOp s2 o 7 else s2)

/-! ### Entries -/

/-- The named byte ranges (byte, length) of an entry are zero (R7, R278). -/
def zeroAt (e : Entry) (l : List (Nat × Nat)) : Bool := l.all fun x => entNum e x.1 x.2 == 0

/-- The header's reserved fields are zero (R278). -/
def headOk (e : Entry) : Bool :=
  entByte e 3 == 0 && entByte e 1 / 4 == 0 && (entByte e 0 == 1 || !bit (entByte e 1) 1)

/-- Run an entry of a type and sub-operation; any other state of affairs leaves the state as it is. Where entries of several enables of
the ring bear the SUBSEQ, the first of them that goes on does. -/
def withOp (s : State) (i : Inst) (r : RingId) (q : W32) (typ : Nat) (sub : Option Nat) (f : Op → State) : Res :=
  match opsAt s i r q typ sub with
  | [] => .next s
  | [o] => .next (f o)
  | os => .next (((os.map f).find? (· ≠ s)).getD s)

/-- MALFORMED (R278). -/
def malformedOp (s : State) (o : Op) : State := completeOp s o 0x0C 0

/-- The partition of the ring's instance. -/
def opPart (s : State) (o : Op) : Nat := (partOf s o.inst).getD 0

/-- Bytes of a range that a ring operation may read or has been allowed to. -/
def opRead (s : State) (i a n : Nat) : List Byte :=
  match addrOf a with
  | .io x => hostRead s i x n
  | .dev x => Memory.read s.dev x n
  | .bad => []

/-- Write a range that a ring operation may write. -/
def opWrite (s : State) (i a : Nat) (bs : List Byte) : State :=
  match addrOf a with
  | .io x => hostWrite s i x bs
  | .dev x => devWrite s x bs
  | .bad => s

/-! ### WORK, ORDER, NOP -/

/-- Input pairs of a WORK entry (R279). -/
def workIngen (e : Entry) : List (W32 × W32) :=
  (List.range 3).map fun k => (BitVec.ofNat 32 (entNum e (24 + 8 * k) 4), BitVec.ofNat 32 (entNum e (28 + 8 * k) 4))

/-- The handle of an input pair is one of R277; handle 0 goes with generation 0. -/
def pairOk (p : W32 × W32) : Bool :=
  let h := p.1.toNat
  (h == 0 && p.2 == 0#32) || (decide (0 < h) && decide (h < 0x10000)) || h == 0x80000000 ||
    (decide (0x80010000 ≤ h) && decide (h < 0x80020000))

/-- The form of a WORK entry (R278, R279). -/
def workOk (e : Entry) : Bool :=
  headOk e && decide (entByte e 2 < 4) && decide (workProg e % 16 = 0) && !bit (workProg e) 47 &&
    !bit (entByte e 16) 7 && !bit (entByte e 17) 7 && decide (entByte e 16 + entByte e 17 ≤ 127) &&
    zeroAt e [(18, 2), (62, 2)] && (workIngen e).all pairOk && decide (entNum e 48 4 < 0x10000) &&
    !(workStepEnd e && entByte e 2 == 1)

/-- The published generation of a handle for an instance (R277). -/
def published (s : State) (i : Nat) (h : W32) : W32 :=
  let n := h.toNat
  if n = 0x80000000 then (s.lsc ((partOf s i).getD 0)).gen
  else if 0x80010000 ≤ n then Tab.get 0#32 s.wcGen (n - 0x80010000)
  else Tab.get 0#32 s.gens (i * 65536 + n)

/-- A pair is satisfied (R277). -/
def satisfied (s : State) (i : Nat) (p : W32 × W32) : Bool :=
  p.1 == 0#32 || decide (0 ≤ sdiff32 (published s i p.1) p.2)

/-- WORK (R279): an entry in order waits for its generations (R294). A step that a base swap cut has no further items (R137); the
runtime redoes a step whose update was lost by submitting its update item again (R181; assumption log 158). -/
def execWork (i : Inst) (r : RingId) (q : W32) (s : State) : Res :=
  withOp s i r q 1 none fun o =>
    if o.waiting then s
    else if !workOk o.desc then malformedOp s o
    else if (workSet o.desc).any fun l => !((partOf s i).any fun p => inPart s p l) then refuseOp s o 7
    else
      let p := opPart s o
      let n : W32 := BitVec.ofNat 32 (entNum o.desc 4 4)
      if entByte o.desc 2 % 4 = 0 && (stepRec s p n).refused then refuseOp s o 3
      else
        let s1 := if workStepEnd o.desc && (stepRec s p n).lost then updStep s p n fun r => { r with lost := false } else s
        setOp s1 { o with waiting := true }

/-- An item joins its eligible queue (R294, R298). -/
def joinQueue (s : State) (x : Elig) : State :=
  let s1 := raiseV s 0 x.part x.cls ((s.elig.filter fun y => y.part == x.part).map fun y => (y.part.val, y.cls))
  { s1 with elig := s1.elig ++ [x] }

/-- GENERATION_SATISFIED (R294): the item joins the eligible queue of its partition and class. -/
def execGenerationSatisfied (i : Inst) (r : RingId) (q : W32) (s : State) : Res :=
  withOp s i r q 1 none fun o =>
    if !o.waiting || !((workIngen o.desc).all (satisfied s i)) then s
    else
      let x : Elig := { op := { o with waiting := false }, part := fin 15 (opPart s o), cls := entByte o.desc 2 % 4 }
      joinQueue (dropOp s o) x

/-- ORDER (R278): completes once nothing earlier of its ring is left, of this enable or of an earlier one. -/
def execOrder (i : Inst) (r : RingId) (q : W32) (s : State) : Res :=
  withOp s i r q 2 none fun o =>
    if !headOk o.desc || !zeroAt o.desc [(2, 1), (4, 60)] then malformedOp s o
    else if (s.ring i r).outst + (s.ring i r).older ≤ 1 then completeOp s o 0 0
    else s

/-- NOP (R278). -/
def execNop (i : Inst) (r : RingId) (q : W32) (s : State) : Res :=
  withOp s i r q 0x3F none fun o =>
    if !headOk o.desc || !zeroAt o.desc [(2, 1), (4, 60)] then malformedOp s o else completeOp s o 0 0

/-! ### Rule changes of a ring operation (R312, R313) -/

/-- A rule change of every instance of a partition (R312). -/
def ruleChangePart (s : State) (p : Nat) : State := (instsOf s p).foldl ruleChange s

/-- Some instance of a partition has a rule change under way (R313). -/
def ruleBusyPart (s : State) (p : Nat) : Bool := (instsOf s p).any fun i => ruleBusy s i

/-- Complete a base operation once the rule change it made has completed: on the ring's own instance where that is of
the partition, else at the partition's first instance, else at once. -/
def completeBaseOp (s : State) (o : Op) (p value : Nat) : State :=
  let c := complOf o 0 value
  let s1 := dropOp s o
  match (instsOf s p).find? (· == o.inst.val) <|> (instsOf s p).head? with
  | some i => s1.updInst i fun x => { x with deferred := x.deferred ++ [c] }
  | none => writeCompl s1 c

/-! ### Allocation (R133, R203, R206) -/

/-- An item of the partition whose ledger entry is not FREE has latched the tag (R133). -/
def tagLatched (s : State) (t : Nat) : Bool := s.led.any fun kv => kv.2.latched.any fun g => g.toNat == t

/-- An adapter may be evicted (R133). -/
def evictable (s : State) (t : Nat) : Bool :=
  let d := s.desc t
  (d.st == .resident || d.st == .trainable) && (d.role == .serve || d.role == .nonowner) && !d.pin &&
    !tagLatched s t && !d.gradDirty

/-- All the pages an adapter holds. -/
def Desc.allPages (d : Desc) : List Nat := d.pages ++ d.stPages ++ d.prevPages ++ d.newPages

/-- Insert by (LASTSTEP, tag) (R133). -/
def insertAge (x : Nat × Nat) : List (Nat × Nat) → List (Nat × Nat)
  | [] => [x]
  | y :: ys => if x.1 < y.1 ∨ (x.1 = y.1 ∧ x.2 < y.2) then x :: y :: ys else y :: insertAge x ys

/-- Tags of an instance's evictable adapters, the one with the lowest LASTSTEP first (R133). -/
def evictOrder (s : State) (i : Nat) : List Nat :=
  (((s.descs.filter fun kv => kv.2.inst.val == i && evictable s kv.1).map
    fun kv => (kv.2.lastStep.toNat, kv.1)).foldr insertAge []).map (·.2)

/-- A page lies in a window (R190). -/
def inWindow (s : State) (w n : Nat) : Bool :=
  let (lo, hi) := windowRange s w
  decide (lo ≤ n) && decide (n < hi)

/-- The plan of R203: tags in eviction order until the pages suffice; none when they do not. -/
def evictPlan (s : State) (w more short : Nat) : List Nat → Nat → Nat → List Nat → Option (List Nat)
  | [], have_, haveW, plan => if more ≤ have_ ∧ short ≤ haveW then some plan else none
  | t :: ts, have_, haveW, plan =>
    if more ≤ have_ ∧ short ≤ haveW then some plan
    else
      let ps := (s.desc t).allPages
      evictPlan s w more short ts (have_ + ps.length) (haveW + (ps.filter (inWindow s w)).length) (plan ++ [t])

/-- SWAP_PENDING of a partition (R138). -/
def markSwaps (s : State) (p : Nat) : State :=
  fset s (Reg.adSwapstat p) 31 31 (b2n (!(s.part p).swaps.isEmpty))

/-- An adapter operation is refused; LOADs and SWAPs count it (R138). -/
def refuseAd (s : State) (o : Op) (detail : Nat) : State :=
  refuseOp (finc s (Reg.adEvents (opPart s o)) 31 16 1) o detail

/-- SWAP entries of a tag that await the boundary end: REFUSED where the adapter is no longer there, KEYRETIRED where its key
retires (R331). -/
def endSwaps (s : State) (p t : Nat) (f : State → Op → State) : State :=
  let tag : TagRec := some (BitVec.ofNat 16 t)
  let gone := (s.part p).swaps.filter fun (x : TagRec × Op) => x.1 == tag
  let s1 := s.updPart p fun x => { x with swaps := x.swaps.filter fun (y : TagRec × Op) => y.1 ≠ tag }
  markSwaps (gone.foldl (fun u x => f u x.2) s1) p

def dropSwaps (s : State) (p t : Nat) : State := endSwaps s p t fun u o => refuseAd u o 4

/-- Evict one adapter (R133): EVICTING, its pages pass to ZEROING. -/
def evictOne (s : State) (t : Nat) : State :=
  let d := s.desc t
  let p := (partOf s d.inst).getD 0
  let s1 := dropSwaps (zeroingPages s d.allPages) p t
  finc (s1.updDesc t fun x => { x with st := .evicting }) (Reg.adEvents p) 15 0 1

/-- How an allocation goes on (R203). -/
inductive Alloc where
  | refused
  | waits (s : State)
  | pages (s : State) (ns : List Nat)

/-- The allocation of `n` pages in window `w` for an entry (R203). One that evicts reserves the evicted pages in the
window and waits for them, where it has any there. -/
def allocate (s : State) (o : Op) (n w : Nat) : Alloc :=
  let i := o.inst.val
  let more := usedPages s i + n - fget s (Reg.mtQuota i) 18 0
  let fr := freePages s w
  let short := n - fr
  if more = 0 ∧ short = 0 then .pages s (takeFree s w n)
  else
    match evictPlan s w more short (evictOrder s i) 0 0 [] with
    | none => .refused
    | some plan =>
      let gone := ((plan.map fun t => (s.desc t).allPages).flatten).filter (inWindow s w)
      let s1 := plan.foldl evictOne s
      if gone.isEmpty then .pages s1 (takeFree s1 w n)
      else .waits { s1 with resv := s1.resv ++ (gone.foldr insertAsc []).map fun g =>
        { page := g, inst := o.inst, ring := o.ring, order := o.order } }

/-- The pages an entry has reserved. -/
def reservedOf (s : State) (o : Op) : List Nat :=
  (s.resv.filter fun (r : Resv) => r.inst == o.inst && r.ring == o.ring && r.order == o.order).map (·.page)

/-- The `n` pages of an allocation once all that it reserved are FREE: these first, then the lowest FREE pages of its window, each in
ascending number (R203). While others have taken what it lacks, it waits on (assumption log 164). -/
def reservedReady (s : State) (o : Op) (n w : Nat) : Option (List Nat) :=
  let own := reservedOf s o
  let ns := (own.foldr insertAsc []).take n
  let all := ns ++ takeFree s w (n - ns.length)
  if (own.all fun m => (s.page m).kind == .free) && all.length == n then some all else none

/-- Drop an entry's reservations. -/
def dropResv (s : State) (o : Op) : State :=
  { s with resv := s.resv.filter fun (r : Resv) => !(r.inst == o.inst && r.ring == o.ring && r.order == o.order) }

/-- An allocation refused counts (R203). -/
def countRefusedAlloc (s : State) (i : Nat) : State := finc s (Reg.mtEvents i) 31 16 1

/-- Pages of a byte count. -/
def pagesFor (n : Nat) : Nat := ceilDiv n Config.pageBytes

/-- Device address of byte `k` of a run laid over pages in order. -/
def inRun (ns : List Nat) (k : Nat) : Nat := ns.getD (k / Config.pageBytes) 0 * Config.pageBytes + k % Config.pageBytes

/-- Write bytes over pages in order. -/
def writeRun (s : State) (ns : List Nat) (bs : List Byte) : State :=
  (ns.zip (chunks Config.pageBytes bs.length bs)).foldl (fun t x => devWrite t (x.1 * Config.pageBytes) x.2) s

/-- A device-side range touches a page. -/
def touches (n a len : Nat) : Bool :=
  match addrOf a with
  | .dev x => decide (a ≠ 0) && decide (0 < len) && decide (x / Config.pageBytes ≤ n) && decide (n * Config.pageBytes < x + len)
  | _ => false

/-- What still uses a page (R206): active streams, accepted UPDs, and LOADs and SWAPs that have not read their source to its end. -/
def pageUsers (s : State) (n : Nat) : List PageUser :=
  ((s.streams.filter fun kv => kv.2.st == .active &&
    [kv.2.src, kv.2.result].any fun a => touches n a ((if kv.2.op = 5 then 4096 else 4) * kv.2.e)).map fun kv => .stream kv.1) ++
  ((s.jobs.filter fun j => (List.range 5).any fun i => bit (blkMask j.block) i &&
    touches n (streamRange j.block i).1 (streamRange j.block i).2).map fun j => .job j.id) ++
  ((s.ops.filter fun o => entByte o.desc 0 == 0x10 && decide (entByte o.desc 2 < 2) && o.parked &&
    (touches n (entNum o.desc 24 6) (entNum o.desc 32 5) ||
      (entByte o.desc 2 == 0 && touches n (entNum o.desc 48 6) (entNum o.desc 56 5)))).map fun o => .op o.order)

/-! ### MEM (R417) -/

/-- Give MEM ALLOC its pages and write LIST (R417). -/
def memTake (s : State) (o : Op) (ns : List Nat) : State :=
  let e := o.desc
  let list := entNum e 16 6
  let kind := if entByte e 4 = 3 then Kind.act else Kind.stage
  let s1 := ruleChange (assignPages (dropResv s o) ns kind o.inst (opPart s o) 0#16) o.inst
  match opAccess s1 o.inst true list (4 * ns.length) with
  | .ok => completeOpRule (opWrite s1 o.inst list (((ns.foldr insertAsc []).map (leBytes 4)).flatten)) o 0 ns.length
  | v =>
    let s2 := match v with
      | .viol c a => countViol s1 o.inst c a
      | _ => s1
    completeOpRule (zeroingPages s2 ns) o 7 0

/-- MEM_ALLOC (R417, R203). -/
def execMemAlloc (i : Inst) (r : RingId) (q : W32) (s : State) : Res :=
  withOp s i r q 0x20 (some 0) fun o =>
    let e := o.desc
    let n := entNum e 8 4
    if o.parked then
      match reservedReady s o n (entByte e 5) with
      | some ns => if ruleBusy s i then s else memTake s { o with parked := false } ns
      | none => s
    else if !headOk e || !(entByte e 4 == 3 || entByte e 4 == 6) || decide (4 < entByte e 5) || n = 0 || decide (65536 < n) ||
        !zeroAt e [(6, 2), (12, 4), (22, 42)] then malformedOp s o
    else match opAccess s i true (entNum e 16 6) (4 * n) with
    | .ok =>
      if ruleBusy s i then s
      else match allocate s o n (entByte e 5) with
      | .refused => refuseOp (countRefusedAlloc s i) o 1
      | .waits t => setOp (ruleChange t i) { o with parked := true }
      | .pages t ns => memTake t o ns
    | v => accessOp s o v

/-- MEM_FREE (R417, R206). -/
def execMemFree (i : Inst) (r : RingId) (q : W32) (s : State) : Res :=
  withOp s i r q 0x20 (some 1) fun o =>
    let e := o.desc
    let n := entNum e 8 4
    if !headOk e || n = 0 || decide (65536 < n) || !zeroAt e [(4, 4), (12, 4), (22, 42)] then malformedOp s o
    else match opAccess s i false (entNum e 16 6) (4 * n) with
    | .ok =>
      let bs := opRead s i (entNum e 16 6) (4 * n)
      let ns := (chunks 4 bs.length bs).map ofLe
      let mine := fun p => ((s.page p).kind == .act || (s.page p).kind == .stage) && (s.page p).inst == i
      if !((ns.zip (ns.drop 1)).all fun x => decide (x.1 < x.2)) then malformedOp s o
      else if !(ns.all mine) then completeOp s o 7 0
      else if ruleBusy s i then s
      else if ns.any fun p => !(pageUsers s p).isEmpty then
        if o.parked then s
        else setOp { s with pages := ns.foldl (fun t p => Tab.upd {} t p fun x => { x with freeing := true, users := pageUsers s p }) s.pages }
          { o with parked := true }
      else completeOpRule (ruleChange (zeroingPages s ns) i) o 0 0
    | v => accessOp s o v

/-! ### COPY and NORMREAD -/

/-- Publish a user handle's generation (R277). -/
def publish (s : State) (i h : Nat) (g : Nat) : State :=
  if h = 0 then s else { s with gens := Tab.put 0#32 s.gens (i * 65536 + h % 65536) (BitVec.ofNat 32 g) }

/-- A COPY's partition is the one that the copy path serves next (R297, R298). -/
def copyTurn (s : State) (o : Op) : Bool := pickHolder s 3 (copyHolders s) == some ((partOf s o.inst).getD 0, 3)

/-- COPY (R280, R281): it waits for its partition's turn on the copy path; source and destination are of the instance's own untagged memory. Poisoned source bytes are
reported and not copied. The cycles charged to the copy path are a free value (R296). -/
def execCopy (i : Inst) (r : RingId) (q : W32) (s : State) : Res :=
  withOp s i r q 0x21 none fun o =>
    let e := o.desc
    let n := entNum e 4 4
    let src := entNum e 8 6
    let dst := entNum e 16 6
    if !headOk e || n % 64 ≠ 0 || decide (0x10000 ≤ entNum e 48 4) || !zeroAt e [(2, 1), (14, 2), (22, 26), (56, 8)] then
      malformedOp s o
    else if !copyTurn s o then s
    else match Verdict.first [opAccess s i false src n, opAccess s i true dst n] with
    | .ok =>
      let bad := match addrOf src with
        | .dev x => poisoned s x n
        | _ => none
      match bad with
      | some u => completeOp (report s (8 + (pcOf s u).1 / 3) (0x100 + (pcOf s u).1 % 3) 0x32 i 0 u none) o 7 0
      | none =>
        let (c, s1) := s.drawWord
        let s2 := charge (opWrite s1 i dst (opRead s1 i src n)) 3 (opPart s o) 3 c.toNat
        completeOp (publish s2 i (entNum e 48 4) (entNum e 52 4)) o 0 n
    | v => accessOp s o v

/-- The 16 B of a norm entry (R147). -/
def normBytes (x : Norm) : List Byte :=
  leBytes 16 (packFields [(32, x.gsq.toNat), (32, x.wsq.toNat), (32, x.usq.toNat), (30, x.step.toNat), (1, 0), (1, b2n x.upd)])

/-- NORMREAD (R281, R282). -/
def execNormread (i : Inst) (r : RingId) (q : W32) (s : State) : Res :=
  withOp s i r q 0x22 none fun o =>
    let e := o.desc
    let base := bit (entByte e 6) 0
    let t := entNum e 4 2
    let fl := entNum e 8 2
    let n := entNum e 10 2
    let dst := entNum e 16 6
    if !headOk e || decide (1 < entByte e 6) || (base && t ≠ 0) || n = 0 || decide (4096 < n) || decide (4096 < fl + n) ||
        dst % 16 ≠ 0 || !bit dst 47 || !zeroAt e [(2, 1), (7, 1), (12, 4), (22, 42)] then malformedOp s o
    else if base && !o.mgr then refuseOp s o 7
    else if !base && (s.desc t).st != .free && (s.desc t).inst ≠ i then refuseOp s o 7
    else if !base && ((s.desc t).st == .free || !keyUsable s t) then refuseOp s o 4
    else match opAccess s i true dst (16 * n) with
    | .ok =>
      let who := if base then opPart s o else t
      let bs := ((List.range n).map fun k => normBytes (normGet s base who (fl + k))).flatten
      let out := if base then bs else xtsRun (s.key t).key (dst % 2 ^ 47) bs
      completeOp (opWrite s i dst out) o 0 (16 * n)
    | v => accessOp s o v

/-! ### Adapters -/

/-- Plaintext of an image (R128, R309): the source's XTS ciphertext under the adapter key, its I/O or device address
as tweak. -/
def unxts (k : BitVec 256) (a : Nat) (bs : List Byte) : List Byte :=
  ((chunks 64 bs.length bs).zipIdx.map fun u => xtsDec k (a % 2 ^ 47 / 64 + u.2) u.1).flatten

def opTag (o : Op) : Nat := entNum o.desc 4 2
def roleOf (n : Nat) : ARole := match n % 4 with | 0 => .serve | 1 => .nonowner | 2 => .owner | _ => .buddy

/-- The owner or the buddy holds master and moments (R113). -/
def ARole.stateful (r : ARole) : Bool := r == .owner || r == .buddy

/-- R415 row 1 for LOAD. -/
def loadOk (e : Entry) : Bool :=
  let role := roleOf (entByte e 6)
  let ss := decide (entNum e 48 6 ≠ 0)
  let sl := decide (entNum e 56 5 ≠ 0)
  headOk e && decide (entByte e 6 < 8) && zeroAt e [(30, 2), (37, 3), (42, 6), (54, 2), (61, 3)] &&
    decide (1 ≤ entByte e 8) && decide (entByte e 8 ≤ 32) && decide (entNum e 12 4 / 2 ^ 23 % 256 ≠ 255) &&
    decide (1 ≤ entNum e 10 2) && decide (entNum e 10 2 ≤ 4096) && !(role == .serve && bit (entByte e 6) 2) &&
    ss == role.stateful && sl == role.stateful && decide (entByte e 9 ≤ 4)

/-- R415 row 1 for SWAP, whose other fields are reserved. -/
def swapOk (e : Entry) : Bool :=
  headOk e && decide (entByte e 9 ≤ 4) && zeroAt e [(6, 3), (10, 14), (30, 2), (37, 27)]

/-- R415 row 1 for the sub-operations that name a tag alone. -/
def tagOnlyOk (e : Entry) : Bool := headOk e && zeroAt e [(6, 58)]

/-- R415 row 2. -/
def tagPriv (s : State) (o : Op) : Bool :=
  let d := s.desc (opTag o)
  let k := s.key (opTag o)
  (d.st == .free || d.inst == o.inst) && (k.st == .absent || k.inst == o.inst)

/-- Adapters RESIDENT or TRAINABLE, or being loaded, that `ok` admits; trainable ones only when `train`. -/
def countAdapters (s : State) (train : Bool) (ok : Desc → Bool) : Nat :=
  (s.descs.filter fun kv => ok kv.2 && (kv.2.st == .trainable || (kv.2.st == .loading && kv.2.target == .trainable) ||
    (!train && (kv.2.st == .resident || kv.2.st == .loading)))).length

/-- R415 row 6 (R132). -/
def loadLimit (s : State) (p : Nat) (train : Bool) : Bool :=
  let inP := fun (d : Desc) => partOf s d.inst == some p
  decide (4096 ≤ countAdapters s false fun _ => true) ||
    decide (fget s (Reg.adQuota p) 28 16 ≤ countAdapters s false inP) ||
    (train && (decide (1024 ≤ countAdapters s true fun _ => true) ||
      decide (fget s (Reg.adQuota p) 10 0 ≤ countAdapters s true inP)))

/-- A directory of `n` entries (R114): layer, A and B of each. -/
def dirOf (bs : List Byte) (n : Nat) : List (Nat × Nat × Nat × Nat) :=
  (List.range n).map fun k =>
    let f := fun (o l : Nat) => ofLe ((bs.drop (16 * k + o)).take l)
    (f 0 2, f 2 6, f 8 6, f 14 2)

/-- R415 row 8: the form of an image of `len` bytes. -/
def imageOk (bs : List Byte) (n len : Nat) : Bool :=
  let d := dirOf bs n
  decide (16 * n ≤ len) && d.all (fun x => decide (x.1 < 4096) && x.2.2.2 == 0 && decide (x.2.1 + 8192 ≤ len) &&
    decide (x.2.2.1 + 8192 ≤ len)) && (d.zip (d.drop 1)).all fun x => decide (x.1.1 < x.2.1)

/-- Bytes of the gradient buffer (R280). -/
def gradBytes (role : ARole) (len n : Nat) : Nat := if role == .serve then 0 else 2 * (len - 16 * n)

/-- The image with its directory's offsets turned into device addresses of the run that holds it (R114, R280). -/
def placeImage (bs : List Byte) (n : Nat) (ns : List Nat) : List Byte :=
  ((dirOf bs n).map fun x => leBytes 2 x.1 ++ leBytes 6 (inRun ns x.2.1) ++ leBytes 6 (inRun ns x.2.2.1) ++ leBytes 2 0).flatten ++
    bs.drop (16 * n)

/-- The tag's descriptor is in transit: the entry waits (R416). -/
def inTransit (d : Desc) : Bool := d.st == .loading || d.st == .evicting

/-- R137: once no older base remains in use, a descriptor built against another base is REFUSED at its next LOAD or SWAP. -/
def markRefused (s : State) (o : Op) : State :=
  let t := opTag o
  let d := s.desc t
  let p := opPart s o
  if (d.st == .resident || d.st == .trainable) && d.inst == o.inst && d.basefp ≠ baseFp s p && (s.part p).prev.isNone then
    s.updDesc t fun x => { x with st := .refused }
  else s

/-- The image's source bytes, decrypted (R280). -/
def imageOf (s : State) (o : Op) : List Byte :=
  let e := o.desc
  unxts (s.key (opTag o)).key (entNum e 24 6) (opRead s o.inst (entNum e 24 6) (entNum e 32 5))

/-- Source accesses of a LOAD or SWAP (R415 row 7). -/
def loadAccess (s : State) (o : Op) : Verdict :=
  let e := o.desc
  let u := some (PageUser.op o.order)
  Verdict.first [opAccessBy s u o.inst false (entNum e 24 6) (entNum e 32 5),
    if entNum e 56 5 = 0 then .ok else opAccessBy s u o.inst false (entNum e 48 6) (entNum e 56 5)]

/-- Pages of a LOAD: image, gradient buffer, state. -/
def loadPages (e : Entry) : Nat × Nat × Nat :=
  (pagesFor (entNum e 32 5), pagesFor (gradBytes (roleOf (entByte e 6)) (entNum e 32 5) (entNum e 10 2)), pagesFor (entNum e 56 5))

/-- Give a LOAD its pages, in the order image, gradient buffer, state (R280, R415 row 9). -/
def loadTake (s : State) (o : Op) (ns : List Nat) : State :=
  let e := o.desc
  let t := opTag o
  let (ni, ng, nst) := loadPages e
  let im := ns.take ni
  let gr := (ns.drop ni).take ng
  let st := (ns.drop (ni + ng)).take nst
  let tag := BitVec.ofNat 16 t
  let s1 := assignPages (dropResv s o) (im ++ st) .adstate o.inst (opPart s o) tag
  let s2 := assignPages s1 gr .adgrad o.inst (opPart s o) tag
  (ruleChange s2 o.inst).updDesc t fun d => { d with
    pages := im ++ gr, stPages := st, dir := inRun im 0, grad := if gr.isEmpty then 0 else inRun gr 0,
    state := if st.isEmpty then 0 else inRun st 0 }

/-- The descriptor a LOAD creates, in LOADING (R112, R113, R281). -/
def loadDesc (s : State) (o : Op) : Desc :=
  let e := o.desc
  { st := .loading, inst := o.inst, role := roleOf (entByte e 6), keygen := BitVec.ofNat 8 (entByte e 7), rankq := entByte e 8,
    nproj := entNum e 10 2, alpha := BitVec.ofNat 32 (entNum e 12 4), basefp := BitVec.ofNat 64 (entNum e 16 8),
    peerctx := BitVec.ofNat 16 (entNum e 40 2), len := entNum e 32 5,
    swapSeq := BitVec.ofNat 32 (fget s (Reg.adSwapstat (opPart s o)) 63 32),
    target := if bit (entByte e 6) 2 then .trainable else .resident }

/-- ADAPTER_LOAD (R415): the checks in order, then LOADING, with a transfer-table entry (R199); LOADING_DONE ends it. -/
def execAdapterLoad (i : Inst) (r : RingId) (q : W32) (s : State) : Res :=
  withOp s i r q 0x10 (some 0) fun o =>
    let e := o.desc
    let t := opTag o
    if o.parked then s
    else if inTransit (s.desc t) then s
    else if !loadOk e then malformedOp s o
    else if !tagPriv s o then refuseAd s o 7
    else if (s.desc t).st != .free then refuseAd (markRefused s o) o 4
    else if !keyUsable s t || (s.key t).keygen.toNat ≠ entByte e 7 then refuseAd s o 4
    else if (partOf s i).isNone || entNum e 16 8 ≠ (baseFp s (opPart s o)).toNat then refuseAd s o 3
    else if loadLimit s (opPart s o) (bit (entByte e 6) 2) then refuseAd s o 2
    else match loadAccess s o with
    | .ok =>
      if !imageOk (imageOf s o) (entNum e 10 2) (entNum e 32 5) then refuseAd s o 8
      else if ruleBusy s i || xferFree s 0 i = 0 then s
      else
        let (ni, ng, nst) := loadPages e
        match allocate s o (ni + ng + nst) (entByte e 9) with
        | .refused => refuseAd (countRefusedAlloc s i) o 1
        | .waits u => setOp ((ruleChange u i).setDesc t (loadDesc s o)) { o with parked := true }
        | .pages u ns => setOp (loadTake (u.setDesc t (loadDesc s o)) o ns) { o with parked := true }
    | v => accessOp s o v

/-- The LOAD that a tag in LOADING awaits. -/
def loadOpOf (s : State) (t : Nat) : Option Op :=
  s.ops.find? fun o => entByte o.desc 0 == 0x10 && entByte o.desc 2 == 0 && opTag o == t && o.parked

/-- A LOAD that fails in LOADING leaves no adapter. -/
def undoLoad (s : State) (o : Op) : State :=
  let t := opTag o
  (dropResv (zeroingPages s (s.desc t).allPages) o).setDesc t {}

/-- LOADING_DONE (R113, R416): the image and the state stand in their pages, and the adapter is usable. A source that is
refused meanwhile, or whose form has changed, ends the LOAD with nothing left of it; a key that retired meanwhile
squashes it (R320). -/
def execLoadingDone (tag : Tag) (s : State) : Res :=
  let t := tag.toNat
  match loadOpOf s t with
  | none => .next s
  | some o =>
    let e := o.desc
    let d := s.desc t
    if d.st != .loading then .next (completeOp (dropResv s o) o 0x0B 0)
    else if !(reservedOf s o).isEmpty then
      let (ni, ng, nst) := loadPages e
      match reservedReady s o (ni + ng + nst) (entByte e 9) with
      | some ns => if ruleBusy s o.inst then .next s else .next (loadTake s o ns)
      | none => .next s
    else match loadAccess s o with
    | .ok =>
      let img := imageOf s o
      if !imageOk img (entNum e 10 2) (entNum e 32 5) then .next (refuseAd (undoLoad s o) o 8)
      else
        let im := d.pages.take (pagesFor d.len)
        let s1 := writeRun s im (placeImage img d.nproj im)
        let s2 := if d.stPages.isEmpty then s1 else
          writeRun s1 d.stPages (unxts (s.key t).key (entNum e 48 6) (opRead s o.inst (entNum e 48 6) (entNum e 56 5)))
        let g := ctxStep s (opPart s o) + 1#32
        let s2 := { s2 with wcGen := if sdiff32 g (Tab.get 0#32 s2.wcGen t) ≤ 0 then s2.wcGen else Tab.put 0#32 s2.wcGen t g }
        let s3 := s2.updDesc t fun x => { x with st := x.target }
        .next (if ruleBusy s3 o.inst then completeOpRule s3 o 0 0 else completeOp s3 o 0 0)
    | v => .next (accessOp (undoLoad s o) o v)

/-- Build the second copy of a SWAP in its pages: image and gradient buffer (R136, R280). -/
def swapTake (s : State) (o : Op) (ns : List Nat) : State :=
  let e := o.desc
  let t := opTag o
  let d := s.desc t
  let p := opPart s o
  let ni := pagesFor (entNum e 32 5)
  let im := ns.take ni
  let gr := ns.drop ni
  let s1 := assignPages (dropResv s o) im .adstate o.inst p (BitVec.ofNat 16 t)
  let s2 := ruleChange (assignPages s1 gr .adgrad o.inst p (BitVec.ofNat 16 t)) o.inst
  let s3 := writeRun s2 im (placeImage (imageOf s o) d.nproj im)
  let s4 := s3.updDesc t fun x => { x with
    newDir := inRun im 0, newGrad := if gr.isEmpty then 0 else inRun gr 0, newPages := ns, newLen := entNum e 32 5 }
  let s5 := s4.updPart p fun x => { x with swaps := x.swaps ++ [(some (BitVec.ofNat 16 t), o)] }
  markSwaps (dropOp s5 o) p

/-- Pages of a SWAP's copy: image and gradient buffer. -/
def swapPages (e : Entry) (d : Desc) : Nat := pagesFor (entNum e 32 5) + pagesFor (gradBytes d.role (entNum e 32 5) d.nproj)

/-- Another SWAP of the tag waits for the pages of its copy (R136). -/
def swapParked (s : State) (o : Op) : Bool :=
  s.ops.any fun x => x.parked && x.order ≠ o.order && entByte x.desc 0 == 0x10 && entByte x.desc 2 == 1 && opTag x == opTag o

/-- ADAPTER_SWAP (R136, R415): the copy is built, and switched to at the next micro-batch boundary. -/
def execAdapterSwap (i : Inst) (r : RingId) (q : W32) (s : State) : Res :=
  withOp s i r q 0x10 (some 1) fun o =>
    let e := o.desc
    let t := opTag o
    let d := s.desc t
    if o.parked then
      match reservedReady s o (swapPages e d) (entByte e 9) with
      | some ns =>
        if ruleBusy s i then s
        else if !(d.st == .resident || d.st == .trainable) then refuseAd (dropResv s o) o 4
        else swapTake s { o with parked := false } ns
      | none => s
    else if inTransit d then s
    else if !swapOk e then malformedOp s o
    else if !tagPriv s o then refuseAd s o 7
    else if !(d.st == .resident || d.st == .trainable) then refuseAd s o 4
    else if !keyUsable s t || (s.key t).keygen ≠ d.keygen then refuseAd s o 4
    else if d.basefp ≠ baseFp s (opPart s o) then refuseAd (markRefused s o) o 3
    else match loadAccess s o with
    | .ok =>
      if !imageOk (imageOf s o) d.nproj (entNum e 32 5) then refuseAd s o 8
      else if d.prevDir ≠ 0 || d.newDir ≠ 0 || swapParked s o || ruleBusy s i then s
      else
        match allocate s o (swapPages e d) (entByte e 9) with
        | .refused => refuseAd (countRefusedAlloc s i) o 1
        | .waits u => setOp (ruleChange u i) { o with parked := true }
        | .pages u ns => swapTake u o ns
    | v => accessOp s o v

/-- Dies that hold a core of a partition (R134). -/
def partDies (s : State) (p : Nat) : List Nat :=
  (List.range 8).filter fun d => (List.range 16).any fun j => inPart s p (16 * d + j)

/-- Bytes of an adapter's working-copy tiles (R114, R134). -/
def hotBytes (d : Desc) : Nat := d.len - 16 * d.nproj

/-- Hot-set bytes that pins take on a die (R134). -/
def hotUsed (s : State) (die : Nat) : Nat :=
  ((s.descs.filter fun kv => kv.2.pin && ((partOf s kv.2.inst).any fun p => (partDies s p).contains die)).map
    fun kv => hotBytes kv.2).sum

/-- A usable adapter passes rows 2 and 3 of R415; else how its entry ends, or none while it waits (R416). -/
def tagChecks (s : State) (o : Op) (usable : Bool) (f : State) : State :=
  let d := s.desc (opTag o)
  if inTransit d then setOp s { o with parked := true }
  else if !tagOnlyOk o.desc then malformedOp s o
  else if !tagPriv s o then refuseOp s o 7
  else if usable && !(d.st == .resident || d.st == .trainable) then refuseOp s o 4
  else f

/-- ADAPTER_PIN (R134). -/
def execAdapterPin (i : Inst) (r : RingId) (q : W32) (s : State) : Res :=
  withOp s i r q 0x10 (some 2) fun o =>
    let t := opTag o
    let d := s.desc t
    let cap := fget s Reg.adHotcap 6 0 * 1048576
    tagChecks s o true (
      if !d.pin && (partDies s (opPart s o)).any fun die => decide (cap < hotUsed s die + hotBytes d) then refuseOp s o 5
      else completeOp (s.updDesc t fun x => { x with pin := true }) o 0 0)

/-- ADAPTER_UNPIN (R134). -/
def execAdapterUnpin (i : Inst) (r : RingId) (q : W32) (s : State) : Res :=
  withOp s i r q 0x10 (some 3) fun o =>
    tagChecks s o true (completeOp (s.updDesc (opTag o) fun x => { x with pin := false }) o 0 0)

/-- ADAPTER_EVICT (R133, R283). -/
def execAdapterEvict (i : Inst) (r : RingId) (q : W32) (s : State) : Res :=
  withOp s i r q 0x10 (some 4) fun o =>
    tagChecks s o true (
      if !evictable s (opTag o) then refuseOp s o 4
      else if ruleBusy s i then s
      else completeOpRule (ruleChange (evictOne s (opTag o)) i) o 0 0)

/-! ### Retirement of a key generation (R320) -/

/-- A retained tile sealed under an adapter's or an instance's key. -/
def sealedUnder (s : State) (id : KeyId) (x : Sent) : Bool :=
  decide (x.keygen ≠ 0#8) && (match id, x.msg.tag with
    | .adapter t, some g => t == g
    | .instance_ i, none => (x.dkind == 3 || (x.dkind == 1 && (s.peer x.dest).cls)) && x.msg.inst == i
    | _, _ => false)

/-- An assembly entry whose shards are sealed under the key: its tag or instance and generation. -/
def asmUnder (id : KeyId) (k : KeyEnt) (h : FHdr) : Bool :=
  decide (h.keygen = k.keygen.toNat) && (match id with
    | .adapter t => h.tagv && decide (h.tag = t.toNat)
    | .instance_ i => !h.tagv && h.sealB && decide (h.inst = i.val)
    | .migration => false)

/-- Write the entry of a key. -/
def setKeyEnt (s : State) (id : KeyId) (f : KeyEnt → KeyEnt) : State :=
  match id with
  | .adapter t => { s with ktab := Tab.upd {} s.ktab t.toNat f }
  | .instance_ i => { s with ikeys := Tab.upd {} s.ikeys i.val f }
  | .migration => { s with migKey := f s.migKey }

def keyEnt (s : State) (id : KeyId) : KeyEnt :=
  match id with
  | .adapter t => s.key t.toNat
  | .instance_ i => s.ikey i
  | .migration => s.migKey

/-- The item of a ledger entry stops for a reason that no command of it names. -/
def stopKey (s : State) (key : Nat) (st : Stop) : State :=
  match s.ledAt key with
  | some e => stopEntry s key e ((e.pcore.map (·.val)).getD 0) 0 0 0 st
  | none => s

/-- Ledger keys without repeats. -/
def dedup (l : List Nat) : List Nat := l.foldr insertAsc []

/-- An update of the tag that has not taken its key yet (R320 step 2). -/
def jobUnder (id : KeyId) (j : UpdJob) : Bool :=
  match id with
  | .adapter t => !j.base && j.tag == t && j.stage == .waiting
  | _ => false

/-- An ACTIVE generation passes to RETIRING (R320 steps 1 to 4). -/
def beginRetire (s : State) (id : KeyId) : State :=
  let k := keyEnt s id
  if k.st != .active then s
  else
    let s1 := setKeyEnt s id fun x => { x with st := .retiring }
    let s2 := match id with
      | .adapter t => { (if (s1.desc t.toNat).st == AState.free then s1 else s1.updDesc t.toNat fun d => { d with st := .retiring }) with
          kcache := s1.kcache.filter fun x => x.1 % 65536 ≠ t.toNat }
      | _ => s1
    let items := dedup ((s.sent.filter (sealedUnder s id)).map (·.led) ++ (s.jobs.filter (jobUnder id)).map (·.led))
    let s3 := { s2 with
      jobs := s2.jobs.filter fun j => !jobUnder id j
      sent := s2.sent.filter fun x => !(x.dkind == 3 && sealedUnder s id x)
      asm := s2.asm.filter fun a => match readHdr a.hdr with
        | some (h, _, _) => !asmUnder id k h
        | none => true }
    let s4 := match id with
      | .adapter t => endSwaps s3 ((partOf s3 (s3.desc t.toNat).inst).getD 0) t.toNat fun u o => completeOp u o 0x0B 0
      | _ => s3
    items.foldl (fun t key => stopKey t key .keyRetired) s4

/-- The pages of an adapter pass to ZEROING and its descriptor to FREE (R416). -/
def releaseAdapter (s : State) (t : Nat) : State :=
  let d := s.desc t
  let s1 := { s with held := s.held.filter fun x => x.1.toNat ≠ t }
  (dropSwaps (zeroingPages s1 d.allPages) ((partOf s d.inst).getD 0) t).setDesc t {}

/-- ADAPTER_FREE (R206, R320, R416). -/
def execAdapterFree (i : Inst) (r : RingId) (q : W32) (s : State) : Res :=
  withOp s i r q 0x10 (some 5) fun o =>
    let t := opTag o
    let d := s.desc t
    let k := s.key t
    tagChecks s o false (
      if d.st == .free then (if o.parked then completeOp s o 0 0 else refuseOp s o 4)
      else if k.st == .active && k.keygen == d.keygen then
        setOp (beginRetire s (.adapter (BitVec.ofNat 16 t))) { o with parked := true }
      else if k.st == .retiring && k.keygen == d.keygen then setOp s { o with parked := true }
      else if ruleBusy s i then s
      else completeOpRule (ruleChange (releaseAdapter s t) i) o 0 0)

/-! ### BASE (R123, R137, R418) -/

def basePart (o : Op) : Nat := entByte o.desc 4 % 16

/-- The form of the BASE operations but LOAD, which name PART alone. -/
def basePartOk (e : Entry) : Bool := headOk e && decide (entByte e 4 < 16) && zeroAt e [(5, 59)]

/-- The form of BASE LOAD (R280). -/
def baseLoadOk (e : Entry) : Bool :=
  let st := entNum e 6 2
  headOk e && decide (entByte e 4 < 16) && decide (entByte e 5 ≤ 4) && (st == 0 || st / 4096 == 8) &&
    (st == 0 || entNum e 16 6 == 0) && zeroAt e [(22, 2), (29, 35)]

/-- A copy is complete: current at once in a partition without a base, else it awaits BASE SWAP (R280). -/
def baseArrives (s : State) (p : Nat) (c : BaseCopy) : State :=
  if (s.part p).cur.isNone then
    (s.updPart p fun x => { x with cur := some c, coming := none }).setReg (Reg.adBasefp p) c.fp.toNat
  else s.updPart p fun x => { x with built := some c, coming := none }

/-- The partition's key is drawn at its first BASE LOAD (R308). -/
def partKey (s : State) (p : Nat) : State :=
  if (s.part p).key.isSome then s
  else
    let (k, s1) := s.drawKey
    s1.updPart p fun x => { x with key := some k }

/-- Bytes that a BROADCAST delivered (R248). -/
def streamBytes (x : Stream) (len : Nat) : List Byte :=
  ((List.range (ceilDiv len 4)).flatMap fun k => leBytes 4 (Tab.get 0#32 x.vals k).toNat).take len

/-- BASE_LOAD (R280, R281, R418). -/
def execBaseLoad (i : Inst) (r : RingId) (q : W32) (s : State) : Res :=
  withOp s i r q 0x11 (some 0) fun o =>
    let e := o.desc
    let p := basePart o
    let st := entNum e 6 2
    let len := entNum e 24 5
    let n := pagesFor len
    let x := s.stream (st % 4096)
    if o.parked then
      match (s.part p).coming with
      | none => s
      | some c =>
        if ruleBusyPart s p then s
        else if x.st == .done then
          completeBaseOp (baseArrives (writeRun s c.pages (streamBytes x len)) p c) o p 0
        else if x.st == .aborted || x.st == .free then
          completeOp (ruleChangePart (zeroingPages (s.updPart p fun y => { y with coming := none }) c.pages) p) o 9 0
        else s
    else if !baseLoadOk e then malformedOp s o
    else if !o.mgr then refuseOp s o 7
    else if (s.part p).built.isSome || (s.part p).coming.isSome then refuseOp s o 6
    else if st ≠ 0 && !(x.op == 1 && !x.cls && x.group.val == p && (x.st == .open_ || x.st == .active || x.st == .done)) then refuseOp s o 4
    else match if st = 0 then opAccess s i false (entNum e 16 6) len else .ok with
    | .ok =>
      if ruleBusyPart s p then s
      else if fget s (Reg.mtPquota p) 18 0 < basePages s p + n ∨ freePages s (entByte e 5) < n then refuseOp s o 1
      else
        let ns := takeFree s (entByte e 5) n
        let s1 := ruleChangePart (partKey (assignPages s ns .base 0 p 0#16) p) p
        let c : BaseCopy := { fp := BitVec.ofNat 64 (entNum e 8 8), pages := ns, len := len }
        if st = 0 then completeBaseOp (baseArrives (writeRun s1 ns (opRead s1 i (entNum e 16 6) len)) p c) o p 0
        else setOp (s1.updPart p fun y => { y with coming := some c }) { o with parked := true }
    | v => accessOp s o v

/-- BASE_SWAP (R136, R137): the switch waits for the micro-batch boundary; while the previous copy is kept it waits. -/
def execBaseSwap (i : Inst) (r : RingId) (q : W32) (s : State) : Res :=
  withOp s i r q 0x11 (some 1) fun o =>
    let p := basePart o
    if !basePartOk o.desc then malformedOp s o
    else if !o.mgr then refuseOp s o 7
    else if (s.part p).built.isNone || ((s.part p).swaps.any fun (x : TagRec × Op) => x.1.isNone) then refuseOp s o 4
    else if (s.part p).prev.isSome then s
    else markSwaps (dropOp (s.updPart p fun x => { x with swaps := x.swaps ++ [(none, o)] }) o) p

/-- FREEZE and UNFREEZE (R123). -/
def setFrozen (s : State) (o : Op) (b : Bool) : State :=
  if !basePartOk o.desc then malformedOp s o
  else if !o.mgr then refuseOp s o 7
  else completeOp (s.updPart (basePart o) fun x => { x with frozen := b }) o 0 0

/-- BASE_FREEZE (R123). -/
def execBaseFreeze (i : Inst) (r : RingId) (q : W32) (s : State) : Res :=
  withOp s i r q 0x11 (some 2) fun o => setFrozen s o true

/-- BASE_UNFREEZE (R123). -/
def execBaseUnfreeze (i : Inst) (r : RingId) (q : W32) (s : State) : Res :=
  withOp s i r q 0x11 (some 3) fun o => setFrozen s o false

/-! ### PEER (R230, R280, R283) -/

/-- A tile of a context is unacknowledged. -/
def ctxUnacked (s : State) (c : Nat) : Bool := s.sent.any fun x => x.dkind == 1 && x.dest == c

/-- PEER_OPEN (R230, R280, R281): a FREE context, or one of the instance that is CLOSED with nothing unacknowledged
(R131), becomes ACTIVE, or HELD while its group changes (R237). -/
def execPeerOpen (i : Inst) (r : RingId) (q : W32) (s : State) : Res :=
  withOp s i r q 0x30 (some 0) fun o =>
    let e := o.desc
    let c := entNum e 4 2
    let p := s.peer c
    let cls := bit (entByte e 12) 4
    let g := entByte e 12 % 16
    if !headOk e || decide (2 ^ 19 ≤ entNum e 8 4) || decide (32 ≤ entByte e 12) || !zeroAt e [(13, 51)] then malformedOp s o
    else if !cls && !o.mgr then refuseOp s o 7
    else if !(p.st == 0 || (p.st == 3 && p.inst == i && !ctxUnacked s c)) then refuseOp s o 4
    else completeOp (askAgain (s.setPeer c {
      remmod := BitVec.ofNat 19 (entNum e 8 4), st := if fbit s (Reg.fbGroup g) 31 then 2 else 1, inst := i,
      group := fin 15 g, cls := cls, remctx := BitVec.ofNat 16 (entNum e 6 2), epoch := BitVec.ofNat 32 (grpEpoch s g) }) (· == c)) o 0 0

/-- PEER_CLOSE (R239, R281, R283): CLOSED, its assembly entries discarded, and FREE once no tile of the context is unacknowledged. -/
def execPeerClose (i : Inst) (r : RingId) (q : W32) (s : State) : Res :=
  withOp s i r q 0x30 (some 1) fun o =>
    let c := entNum o.desc 4 2
    let p := s.peer c
    if !headOk o.desc || !zeroAt o.desc [(6, 58)] then malformedOp s o
    else if p.st = 0 then refuseOp s o 4
    else if p.inst ≠ i || (!p.cls && !o.mgr) then refuseOp s o 7
    else if ctxUnacked s c then setOp ((dropAsmOf s (· == c)).setPeer c { p with st := 3 }) { o with parked := true }
    else completeOp ((dropAsmOf s (· == c)).setPeer c {}) o 0 0

end Sys2Proof.Machine
end

