-- ==== Sys2Proof/Machine/Sched.lean ====
section
/-! DEFINITION. The dispatchers (R18, R174, R177, R293 to R306): choosing and placing items, replay, preemption and the
context switch; micro-batch boundaries (R136, R137). -/

namespace Sys2Proof.Machine

/-! ### Choosing (R295, R297, R298) -/

/-- share_pick on a core (R297, R298): a background class only when no other waits; the lowest V, then the lowest class. -/
def sharePick (s : State) (p : Nat) (cs : List Nat) : Option Nat :=
  let front := cs.filter fun c => classWeight s p c ≠ 0
  let pool := if front.isEmpty then cs else front
  pool.find? fun c => pool.all fun d => decide (vOf s 0 p c ≤ vOf s 0 p d)

/-- Insert by admission order. -/
def insertOrder (x : Elig) : List Elig → List Elig
  | [] => [x]
  | y :: ys => if x.op.order < y.op.order then x :: y :: ys else y :: insertOrder x ys

/-- The eligible queue of a partition and class, in admission order (R294, R295). -/
def queueOf (s : State) (p c : Nat) : List Elig :=
  (s.elig.filter fun x => x.part.val == p && x.cls == c).foldr insertOrder []

/-- The window of a queue at a core (R295). -/
def windowAt (s : State) (p c l : Nat) : List Elig :=
  ((queueOf s p c).filter fun x => (workSet x.op.desc).contains l).take 256

/-- Same entry. -/
def Elig.same (x y : Elig) : Bool := x.op.same y.op

/-- The pick of R295 within a window. -/
def pickOf (items : List Elig) : Option Elig :=
  match items.find? fun x => decide (255 ≤ x.passed) with
  | some x => some x
  | none =>
    let rank := fun (x : Elig) => ceilDiv (workTokens x.op.desc) 64
    items.find? fun x => items.all fun y => decide (rank y ≤ rank x)

/-- An item reads an adapter whose new buddy is not built yet (R259): it waits at dispatch. -/
def rebuilds (s : State) (x : Elig) : Bool :=
  (workIngen x.op.desc).any fun g => s.stage12.any fun (y : Stage12) => y.rebuild && !y.done && g.1.toNat == 0x80010000 + y.tag.toNat

/-- An eval item reads a working copy whose refresh waits (R164): it waits for it, unless it was only switched out. -/
def awaitsRefresh (s : State) (x : Elig) : Bool :=
  x.cls == 1 && x.slot.isNone && (workIngen x.op.desc).any fun g => s.refreshes.any fun y => g.1.toNat == 0x80010000 + y.1

/-- An item may start or resume. -/
def mayStart (s : State) (x : Elig) : Bool := mayRun s x.op.inst && !rebuilds s x && !awaitsRefresh s x

/-- The item of a core has reached END: the core is free for another (R295). -/
def ended (s : State) (k : Nat) : Bool :=
  match (s.core k).item with
  | none => true
  | some key => (s.ledAt key).any fun e => e.st == .finishing

/-- A logical core is free (R294); no item is dispatched to a core that a procedure takes out or whose rail is cut (R355, R371, R377). -/
def coreFree (s : State) (l : Nat) : Bool :=
  mapped s l && !computeOff s && rolling s 3 != some (l / 32) && !replacing s (physOf s l) && ended s (physOf s l) && !(s.core (physOf s l)).switching &&
    !(s.led.any fun kv => kv.2.st == .running && (kv.2.pcore.map (·.val)) == some (physOf s l))

/-- The lowest free core of a core set (R295). -/
def lowestFree (s : State) (e : Entry) : Option Nat := (workSet e).find? (coreFree s)

/-! ### Placing (R18, R174, R175, R305, R394) -/

/-- The lowest unused slot of a die's ledger (R174). -/
def freeEntry (s : State) (d : Nat) : Option Nat :=
  ((List.range Config.ledgerEntries).map (d * 8192 + ·)).find? fun k => (Tab.find s.led k).isNone

/-- A core wakes (R305, R386, R396): SYNC before any other packet. -/
def wakeCore (s : State) (k : Nat) : State :=
  match (s.core k).power with
  | .doze | .nap => traceSync (s.updCore k fun c => { c with power := .active }) k
  | _ => s

/-- A die leaves Nap (R388). -/
def wakeDie (s : State) (d : Nat) : State :=
  if s.dieNap.any fun x => x.val == d then
    tracePstate { s with dieNap := s.dieNap.filter fun x => x.val ≠ d } (144 + d) 3 0 1
  else s

/-- ITEMSTART (R394). -/
def traceItemStart (s : State) (k : Nat) (e : Led) : State :=
  if fbit s Reg.trCfg 28 then
    tracePut s k (e.lsn % 2 ^ 28 * 2 ^ 84 + e.home.val * 2 ^ 81 + e.inst.val * 2 ^ 77 + e.lcore.val * 2 ^ 64 + e.subseq.toNat * 2 ^ 32 + time32 s) 3
  else s

/-- A core's state on a physical core whose arrays stand at some activity already: level and credit belong to the array (R65). -/
def Core.warm (old c : Core) : Core :=
  (List.range 4).foldl (fun x n => x.updArr n fun a => { a with level := (old.arr n).level, credit := (old.arr n).credit }) c

/-- An accumulating command that an item which ended left on its arrays runs on there, ahead of the next item's commands and as none of
them (assumption log 163): it is earlier than none of theirs, and addressed to no unit of theirs. -/
def leftOver (f : Flight) : Option Flight :=
  match f.kind with
  | .acc _ _ _ _ _ => some { f with idx := 65536, unit := 8 }
  | _ => none

/-- The item on a core that ended keeps what it still waits for (R295). -/
def displace (s : State) (k : Nat) : State :=
  match (s.core k).item with
  | some key => s.setCore (tailSeat key) { s.core k with arrs := [], power := .active, switching := false }
  | none => s

/-- Put a core's state on a physical core for an entry, which is RUNNING from now (R18, R301). -/
def startOn (s : State) (key l : Nat) (c0 : Core) : State :=
  let k := physOf s l
  let c := { c0 with flight := (s.core k).flight.filterMap leftOver ++ c0.flight }
  let s1 := wakeCore (wakeDie (displace s k) (dieOf k)) k
  let s2 := s1.updLed key fun e => { e with st := .running, pcore := some (fin 143 k), lcore := fin 127 l, start := s.time }
  let s3 := s2.setCore k { Core.warm (s1.core k) c with item := some key, power := (s1.core k).power, switching := false }
  match s3.ledAt key with
  | some e => traceItemStart s3 k e
  | none => s3

/-- Allocate an LSN on a die with the ERA it belongs to; the counter wraps at 2^28 and advances the ERA (R175, R224). -/
def takeLsn (s : State) (d : Nat) : Nat × Nat × State :=
  let n := Tab.get 0 s.lsn d
  let era := Tab.get 0 s.plinth.era d
  let s1 := { s with lsn := Tab.put 0 s.lsn d ((n + 1) % 2 ^ 28) }
  (n, era, if n + 1 = 2 ^ 28 then { s1 with plinth := { s1.plinth with era := Tab.put 0 s1.plinth.era d ((era + 1) % 2 ^ 25) } } else s1)

/-- The ledger entry of an item dispatched to a die (R18, R136, R174). -/
def newLed (s : State) (x : Elig) (d lsn era : Nat) (l : Nat) : Led :=
  let p := x.part.val
  { desc := x.op.desc, lsn := lsn, st := .dispatched, home := fin 7 d, inst := x.op.inst, cls := x.cls,
    swapSeq := BitVec.ofNat 32 (fget s (Reg.adSwapstat p) 63 32), step := BitVec.ofNat 32 (entNum x.op.desc 4 4),
    ingen := workIngen x.op.desc, pcore := none, lcore := fin 127 l, ring := x.op.ring, subseq := x.op.subseq,
    rsq := x.op.rsq, rcq := x.op.rcq, mgr := x.op.mgr, order := x.op.order, passed := x.passed, era := era,
    basefp := baseFp s p }

/-- Restore a saved context onto a logical core (R301): posted receives first take their journalled tiles. -/
def restoreCtx (s : State) (slot l : Nat) : State :=
  match Tab.find s.ctx slot with
  | none => s
  | some x =>
    match s.ledAt x.led with
    | none => s
    | some e =>
      let k := physOf s l
      let waited := (s.elig.find? fun y => y.ledKey == some x.led).map (·.passed)
      let s1 := ({ s with ctx := Tab.erase s.ctx slot, elig := s.elig.filter fun y => y.ledKey ≠ some x.led }).updLed x.led
        fun y => { y with passed := waited.getD y.passed }
      let s2 := startOn s1 x.led l x.core
      let s3 := x.core.rcvs.foldl (fun t (r : Rcv) => feedRcv x.led k r.id t (journalled t x.led e r)) s2
      commitItem s3 k

/-- Place a chosen item at a logical core: restored when it was switched out, else recorded and started (R18, R295). A
die with no unused entry dispatches nothing. -/
def placeItem (s : State) (x : Elig) (l : Nat) : State :=
  match x.slot with
  | some slot => restoreCtx s slot l
  | none =>
    let d := l / 16
    match freeEntry s d with
    | none => s
    | some key =>
      let (lsn, era, s1) := takeLsn s d
      let e := newLed s x d lsn era l
      let s2 := if x.cls = 0 then updStep s1 x.part e.step fun r => { r with begun := true } else s1
      startOn { s2 with
        led := Tab.insert s2.led key e
        elig := s2.elig.filter fun y => !(y.same x) } key l {}

/-- Count PASSED of the earlier items of a window that a later pick goes ahead of (R295). -/
def passOver (s : State) (items : List Elig) (pick : Elig) : State :=
  { s with elig := s.elig.map fun y =>
      if decide (y.op.order < pick.op.order) && items.any y.same then { y with passed := y.passed + 1 } else y }

/-- An entry in REPLAY that a core may take (R177, R304): the one whose logical core it is, else the oldest whose set
holds it; none while the firmware restarts (R346). -/
def replayFor (s : State) (l : Nat) : Option (Nat × Led) :=
  let ok := fun (kv : Nat × Led) => kv.2.st == .replay && !fwRestarts s && mayRun s kv.2.inst && (partOf s kv.2.inst).any fun p => inPart s p l
  match s.led.find? fun kv => ok kv && kv.2.lcore.val == l with
  | some x => some x
  | none =>
    let c := s.led.filter fun kv => ok kv && (workSet kv.2.desc).contains l && !(coreFree s kv.2.lcore)
    c.find? fun x => c.all fun y => decide (x.2.order ≤ y.2.order)

/-- Re-dispatch an entry in REPLAY (R177): REPLAYS counts, the program runs from command 0 with its recorded inputs. -/
def redispatch (s : State) (key l : Nat) : State :=
  let s1 := s.updLed key fun e => { e with replays := min 255 (e.replays + 1), ran := 0 }
  startOn (finc s1 (Reg.scLedgerStat (l / 16)) 31 16 1) key l {}

/-- The items of a partition's class that may start on a core (R295). -/
def startable (s : State) (p l c : Nat) : List Elig := (windowAt s p c l).filter fun x => mayStart s x

/-- A core has something to take. -/
def hasChoice (s : State) (p l : Nat) : Bool := (replayFor s l).isSome || (List.range 4).any fun c => !(startable s p l c).isEmpty

/-- A lower free core of the partition chooses first (R295). -/
def chosenFirst (s : State) (p l : Nat) : Bool := (List.range l).any fun m => inPart s p m && coreFree s m && hasChoice s p m

/-- DISPATCH (R177, R295): one choice for a free core; the cores of a partition choose in ascending order. -/
def execDispatch (l : LCore) (s : State) : Res :=
  if devQuiesced s || !coreFree s l then .next s
  else match (List.range 16).find? fun p => inPart s p l with
  | none => .next s
  | some p =>
    if chosenFirst s p l then .next s
    else match replayFor s l with
    | some (key, e) =>
      .next (redispatch s key (if e.lcore.val = l.val then l.val else (lowestFree s e.desc).getD l.val))
    | none =>
      let win := startable s p l
      match sharePick s p ((List.range 4).filter fun c => !(win c).isEmpty) with
      | none => .next s
      | some c =>
        match pickOf (win c) with
        | none => .next s
        | some x =>
          let t := (lowestFree s x.op.desc).getD l.val
          if x.slot.isNone && (freeEntry s (t / 16)).isNone then .next s
          else .next (placeItem (passOver s (win c) x) x t)

/-- LEDGER_RELEASE (R18): a finishing entry whose outputs are committed and whose sends are acknowledged. -/
def execLedgerRelease (d : Die) (slot : Fin 8192) (s : State) : Res :=
  let key := d.val * 8192 + slot.val
  match s.ledAt key with
  | some e => .next (match e.pcore, seatOf s key e with
    | none, _ => completeItem s key
    | _, some k => commitItem s k
    | _, none => s)
  | none => .next s

/-! ### Preemption and the context switch (R300 to R303) -/

/-- The lowest free context slot of a die (R303). -/
def freeSlot (s : State) (d : Nat) : Option Nat :=
  ((List.range 16).map (16 * d + ·)).find? fun n => (Tab.find s.ctx n).isNone

/-- A RUNNING item on a core that its slice and class let be preempted (R300); none of an instance that freezes, whose items switch out
for that (R306). -/
def preemptable (s : State) (p k : Nat) : Option Led :=
  match itemOf s k with
  | none => none
  | some (_, e) =>
    let slice := fget s (Reg.scPctl p) 15 0
    if e.st == .running && !(s.core k).switching && !(s.inst e.inst).freezing && slice ≠ 0 && bit (fget s (Reg.scPctl p) 27 24) e.cls &&
        decide (slice * 1000 < s.time.toNat - e.start.toNat) && (freeSlot s (dieOf k)).isSome then some e else none

/-- An eligible item preempts the item of a core: another class with a lower V, its set holds the core, none of its set
is free, and the core's item has run longest of those it could take (R300). -/
def preempts (s : State) (p l : Nat) (x : Elig) : Bool :=
  match preemptable s p (physOf s l) with
  | none => false
  | some e =>
    !x.claim && x.part.val == p && mayStart s x && x.cls ≠ e.cls && decide (vOf s 0 p x.cls < vOf s 0 p e.cls) &&
      (workSet x.op.desc).contains l && !((workSet x.op.desc).any (coreFree s)) &&
      (workSet x.op.desc).all fun m => !mapped s m || (match preemptable s p (physOf s m) with
        | some f => f.cls == x.cls || decide (e.start.toNat ≤ f.start.toNat)
        | none => true)

/-- PREEMPT (R300): the item of a core is chosen for switch-out, for the oldest waiting item that preempts it. -/
def execPreempt (l : LCore) (s : State) : Res :=
  match (List.range 16).find? fun p => inPart s p l with
  | none => .next s
  | some p =>
    if !mapped s l then .next s
    else match ((s.elig.filter (preempts s p l)).foldr insertOrder []).head? with
    | none => .next s
    | some x =>
      let s1 := { s with elig := s.elig.map fun (y : Elig) => if y.same x then { y with claim := true } else y }
      .next (s1.updCore (physOf s l) fun c => { c with switching := true })

/-- A command of an item still runs on its arrays or sends tiles (R301 steps 2 and 3). -/
def draining (c : Core) : Bool := c.flight.any fun f => match f.kind with
  | .send _ _ | .epiSend _ _ | .acc _ _ _ _ _ => true
  | _ => false

/-- A context image (R301): codebook latches and activity are not saved. -/
def imageCore (c : Core) : Core :=
  { c with
    item := none, wait := 0, switching := false
    arrs := c.arrs.map fun a => (a.1, { a.2 with latchC := none, latchR := none, level := 0, credit := 0, turn := none }) }

/-- Some INSTANCE-class stream of an instance is ACTIVE (R291). -/
def openInst (s : State) (i : Nat) : Bool := s.streams.any fun kv => kv.2.inst.val == i && kv.2.cls && kv.2.st == .active

/-- SWITCH_OUT (R291, R301, R371, R377): of a core chosen by PREEMPT, whose instance freezes, or that a procedure takes out. Issue has stopped; once every tile
sent is acknowledged, the image is saved and the entry returns to DISPATCHED and to its queue. -/
def execSwitchOut (k : PCore) (s : State) : Res :=
  match itemOf s k with
  | none => .next s
  | some (key, e) =>
    let c := s.core k
    let out := c.switching || ((s.inst e.inst).freezing && !openInst s e.inst) || rolling s 3 == some (k.val / 36) || replacing s k
    if e.st != .running || !out then .next s
    else if draining c || s.sent.any (fun x => x.led == key) then .next (s.updCore k fun c => { c with switching := true })
    else match freeSlot s (dieOf k) with
    | none => .next s
    | some slot =>
      let p := ledPart s e
      let s2 := (s.updLed key fun x => { x with st := .dispatched, pcore := none, ran := runNs s e }).updCore k Core.idle
      let s3 := finc { s2 with ctx := Tab.insert s2.ctx slot { core := imageCore c, led := key, lsn := e.lsn, home := e.home } }
        Reg.scCtxstat 63 32 1
      let x : Elig := {
        op := { inst := e.inst, ring := e.ring, subseq := e.subseq, desc := e.desc, rsq := e.rsq, rcq := e.rcq, mgr := e.mgr, order := e.order }
        part := fin 15 p, cls := e.cls, passed := e.passed, slot := some slot, ledKey := some key }
      .next (joinQueue s3 x)

/-- CONTEXT_RESTORE (R301): a saved image onto a free core of the item's core set. -/
def execContextRestore (slot : Fin 128) (k : PCore) (s : State) : Res :=
  match Tab.find s.ctx slot.val, logOf s k with
  | some x, some l =>
    match s.ledAt x.led with
    | some e =>
      if coreFree s l && (workSet e.desc).contains l && mayRun s e.inst then .next (restoreCtx s slot.val l) else .next s
    | none => .next s
  | _, _ => .next s

/-! ### Micro-batch boundaries (R136, R137) -/

/-- Complete a swap that switched (R283), after the rule change that built its copy. -/
def completeSwap (s : State) (o : Op) (seq : Nat) : State :=
  if ruleBusy s o.inst then deferCompl s (complOf o 0 seq) else writeCompl s (complOf o 0 seq)

/-- One adapter switches to its new copy (R136); one that is no longer usable keeps nothing of it. -/
def applySwap (seq : W32) (s : State) (t : Nat) (o : Op) : State :=
  let d := s.desc t
  if d.newDir ≠ 0 ∧ (d.st == .resident ∨ d.st == .trainable) then
    completeSwap (s.updDesc t fun x => { x with
      prevDir := d.dir, prevPages := d.pages, dir := d.newDir, pages := d.newPages, grad := d.newGrad, len := d.newLen,
      swapSeq := seq, newDir := 0, newGrad := 0, newPages := [], newLen := 0, gradDirty := false }) o seq.toNat
  else refuseAd ((zeroingPages s d.newPages).updDesc t fun x => { x with newDir := 0, newGrad := 0, newPages := [], newLen := 0 }) o 4

/-- A step is cut by a base swap (R137): its train items that remain are refused, now and when they are admitted later, and its update
does not run; accepted UPDs of it that wait complete. -/
def refuseStep (s : State) (p : Nat) (n : W32) : State :=
  let isIt := fun (o : Op) => entByte o.desc 0 == 1 && entByte o.desc 2 % 4 == 0 && entNum o.desc 4 4 == n.toNat && partOf s o.inst == some p
  let ops := s.ops.filter isIt
  let els := s.elig.filter fun x => x.ledKey.isNone && isIt x.op
  let s1 := { s with
    ops := s.ops.filter fun o => !isIt o
    elig := s.elig.filter fun x => !(x.ledKey.isNone && isIt x.op) }
  let s2 := (ops ++ els.map (·.op)).foldl (fun t o => writeCompl t (complOf o 8 3)) (updStep s1 p n fun r => { r with refused := true })
  (s2.jobs.filter fun (j : UpdJob) => j.part.val == p && j.step == n && j.stage == .waiting).foldl finishJob s2

/-- The steps of a partition that have begun and are neither applied nor passed over: a base swap now applies within them (R137). -/
def openSteps (s : State) (p : Nat) : List W32 :=
  ((s.lsc p).recs.filter fun r => r.begun && (r.outcome == .pending || r.outcome == .held)).map (·.step)

/-- A base copy becomes current (R137). -/
def applyBase (seq : W32) (s : State) (p : Nat) (o : Op) : State :=
  match (s.part p).built with
  | none => writeCompl s (complOf o 8 4)
  | some c =>
    let trains := s.descs.any fun kv => kv.2.st == .trainable && partOf s kv.2.inst == some p
    let s1 := if trains then (openSteps s p).foldl (fun t n => refuseStep t p n) s else s
    let s2 := s1.updPart p fun x => { x with prev := x.cur, cur := some c, built := none, curSeq := seq }
    let s3 := s2.setReg (Reg.adBasefp p) c.fp.toNat
    if ruleBusyPart s3 p then completeBaseOp s3 o p seq.toNat else writeCompl s3 (complOf o 0 seq.toNat)

/-- MICROBATCH_BOUNDARY (R136): pending swaps apply and the swap sequence increments. -/
def execMicrobatchBoundary (p : Part) (s : State) : Res :=
  let sw := (s.part p).swaps
  if sw.isEmpty then .next s
  else
    let seq : W32 := BitVec.ofNat 32 (fget s (Reg.adSwapstat p) 63 32 + 1)
    let s1 := fset (s.updPart p fun x => { x with swaps := [] }) (Reg.adSwapstat p) 63 32 seq.toNat
    let s2 := sw.foldl (fun t (x : TagRec × Op) => match x.1 with
      | some g => applySwap seq t g.toNat x.2
      | none => applyBase seq t p x.2) s1
    .next (markSwaps s2 p)

/-- A ledger entry of a partition holds a swap sequence older than `seq` (R136). -/
def heldBefore (s : State) (p : Nat) (seq : W32) : Bool :=
  s.led.any fun kv => partOf s kv.2.inst == some p && decide (sdiff32 kv.2.swapSeq seq < 0)

/-- PREVDIR_RELEASE (R136, R137): an old copy that no ledger entry uses is zeroed. -/
def execPrevdirRelease (p : Part) (tag : TagRec) (s : State) : Res :=
  match tag with
  | some t =>
    let d := s.desc t.toNat
    if d.prevDir = 0 || partOf s d.inst ≠ some p.val || heldBefore s p d.swapSeq || ruleBusy s d.inst then .next s
    else .next (ruleChange ((zeroingPages s d.prevPages).updDesc t.toNat fun x => { x with prevDir := 0, prevPages := [] }) d.inst)
  | none =>
    match (s.part p).prev with
    | none => .next s
    | some c =>
      if heldBefore s p (s.part p).curSeq || ruleBusyPart s p then .next s
      else .next (ruleChangePart ((zeroingPages s c.pages).updPart p fun x => { x with prev := none }) p)

end Sys2Proof.Machine
end

