-- ==== Sys2Proof/Machine/Train.lean ====
section
/-! DEFINITION. The loss-scale unit (R139 to R142), Teasel (R143 to R146), the update engines' runs (R155 to R161), and
stages 12 and 13: mirror, digest, restore and refresh (R131, R164, R184, R185). -/

namespace Sys2Proof.Machine

/-! ### Context and scale block -/

/-- Write EXP (R166). -/
def setExp (s : State) (p : Nat) (x : Int) : State := fset s (Reg.lsState p) 31 26 (BitVec.ofInt 6 x).toNat

/-- Publish the scale block of step n, and the generation of its handle (R142, R277). Without a base written the block
has no place in memory. -/
def publishScale (s : State) (p : Nat) (n : W32) (v : W32) : State :=
  let s1 := s.setLsc p { s.lsc p with gen := n }
  if !written s1 (Reg.lsBlock p) then s1
  else { s1 with dev := Memory.write s1.dev (fget s1 (Reg.lsBlock p) 47 7 * 128 + 64 * (n.toNat % 2)) (leBytes 64 v.toNat) }

/-- The LSU is enabled (R141). -/
def lsOn (s : State) (p : Nat) : Bool := fbit s (Reg.lsCtl p) 31

/-- INITEXP clamped to ±24 (R166). -/
def initExp (s : State) (p : Nat) : Int := max (-24) (min 24 (BitVec.ofNat 6 (fget s (Reg.lsCtl p) 21 16)).toInt)

/-- Steps ahead of STEP are undecided, whatever an earlier run of the context decided of their numbers (R141). -/
def forgetSteps (s : State) (p : Nat) : State :=
  s.setLsc p { s.lsc p with recs := (s.lsc p).recs.filter fun r =>
    r.outcome == .pending || decide (sdiff32 r.step (ctxStep s p) ≤ 0) }

/-- A write of LS_CTL (R141): EN from 0 to 1 starts the context at FIRST; while EN is 0, EXP and CLEAN are 0. -/
def writeLsCtl (s : State) (p : Nat) (v : Nat) : State :=
  let was := lsOn s p
  let s1 := regWritePlain s (Reg.lsCtl p) v
  if lsOn s1 p && !was then
    let first : W32 := BitVec.ofNat 32 (fget s1 (Reg.lsStart p) 31 0)
    let s2 := fset (setExp s1 p (initExp s1 p)) (Reg.lsState p) 15 0 0
    let s3 := fset s2 (Reg.lsState p) 63 32 (first - 1#32).toNat
    publishScale (forgetSteps (s3.setReg (Reg.tnWarm p) 0) p) p first (pow2F (initExp s1 p))
  else if lsOn s1 p then s1
  else fset (setExp s1 p 0) (Reg.lsState p) 15 0 0

/-- LS_ENABLE (R141): a write of LS_CTL. -/
def execLsEnable (p : Part) (v : W32) (s : State) : Res := hostCmd s (writeLsCtl s p v.toNat)

/-- OVERFLOW_NOTIFY (R140, R151). -/
def execOverflowNotify (p : Part) (n : W32) (layer : BitVec 12) (train : Bool) (s : State) : Res :=
  let s1 := ovfTable s p layer.toNat 1 train
  .next (if train then flagOverflow s1 p n else s1)

/-! ### Completing updates and items of a step -/

/-- The step's finished update items complete once stage 12 has ended (R21). -/
def completeStep (s : State) (p : Nat) (n : W32) : State :=
  ((s.led.filter fun kv => kv.2.st == .finishing && kv.2.pcore.isNone && workStepEnd kv.2.desc && kv.2.step == n &&
    partOf s kv.2.inst == some p).map (·.1)).foldl completeItem s

/-- Publish a working copy's generation, never backwards (R277). -/
def publishCopy (s : State) (t : Nat) (g : W32) : State :=
  if sdiff32 g (Tab.get 0#32 s.wcGen t) ≤ 0 then s else { s with wcGen := Tab.put 0#32 s.wcGen t g }

/-- Tags of a partition's adapters that `ok` admits. -/
def tagsOf (s : State) (p : Nat) (ok : Desc → Bool) : List Nat :=
  (s.descs.filter fun kv => kv.2.st != .free && partOf s kv.2.inst == some p && ok kv.2).map (·.1)

/-- A step that changed no trained state (R19). -/
def Outcome3.skipped (o : Outcome3) : Bool := o == .suppressed || o == .discarded

/-- A working copy that holds the result of one step holds that of the next ones too, as far as these changed nothing (R20): with
fuel. -/
def passSkipped : Nat → State → Nat → Nat → State
  | 0, s, _, _ => s
  | fuel + 1, s, p, t =>
    let g := Tab.get 0#32 s.wcGen t
    if (stepRec s p g).outcome.skipped then passSkipped fuel (publishCopy s t (g + 1#32)) p t else s

/-- Publish what a copy holds now (R20, R277). -/
def advanceCopy (s : State) (t : Nat) (g : W32) : State :=
  let p := (partOf s (s.desc t).inst).getD 0
  passSkipped (s.lsc p).recs.length (publishCopy s t g) p t

/-- A running eval item has recorded a generation of the copy that is not newer than n (R164). -/
def evalReads (s : State) (t : Nat) (n : W32) : Bool :=
  s.led.any fun kv => kv.2.cls == 1 && kv.2.ingen.any fun x =>
    x.1.toNat == 0x80010000 + t && decide (sdiff32 x.2 n ≤ 0)

/-- Write bytes from an offset of a run of pages. -/
def writeRunAt (s : State) (ns : List Nat) (off : Nat) (bs : List Byte) : State :=
  (span Config.pageBytes off bs.length).foldl (fun t k =>
    let lo := max off (k * Config.pageBytes)
    let hi := min (off + bs.length) ((k + 1) * Config.pageBytes)
    devWrite t (inRun ns lo) ((bs.drop (lo - off)).take (hi - lo))) s

/-- A refresh that waits takes effect once no running eval item has recorded the older generation (R164). -/
def settleRefresh (s : State) (t : Nat) : State :=
  match Tab.find s.refreshes t with
  | none => s
  | some (n, w) =>
    if evalReads s t n then s
    else
      let d := s.desc t
      let s1 := { s with refreshes := Tab.erase s.refreshes t }
      let s2 := match w with
        | some bs => writeRunAt s1 d.pages (16 * d.nproj) (bs.take (d.len - 16 * d.nproj))
        | none => s1
      advanceCopy s2 t (n + 1#32)

/-- The copy of a step is there, changed or not (R20, R164): it takes effect at once, or waits for eval items. -/
def refreshCopy (s : State) (t : Nat) (n : W32) (w : Option (List Byte)) : State :=
  let old := (Tab.find s.refreshes t).bind (·.2)
  settleRefresh { s with refreshes := Tab.insert s.refreshes t (n, w.or old) } t

/-- Every refresh that waits takes effect if it can. -/
def settleRefreshes (s : State) : State := (s.refreshes.map (·.1)).foldl settleRefresh s

/-- A step is suppressed or discarded (R19, R20, R155, R163): its updates complete with status SKIPPED, and a working copy that
holds the step before holds it too. -/
def skipStep (s : State) (p : Nat) (n : W32) : State :=
  let s1 := (s.jobs.filter fun (j : UpdJob) => j.part.val == p && j.step == n && j.stage == .waiting).foldl finishJob s
  let s2 := (tagsOf s1 p fun _ => true).foldl (fun t g =>
    if (t.desc g).role == .serve then publishCopy t g (n + 1#32) else passSkipped (t.lsc p).recs.length t p g) s1
  completeStep s2 p n

/-- Average of Teasel: ema + 2^-shift * (x - ema), a shift of 0 as 1 (R146). -/
def emaStep (shift : Nat) (x ema : W32) : W32 := (fFma (pow2F (-(max 1 shift : Nat))) (fSub x ema).1 ema).1

/-- A step is APPLIED (R146, R19 to R21): averages, counts, the stage 12 of every adapter owned or mirrored here (a buddy
mirrors by its role, in TRAINABLE and in RESIDENT); a SERVE copy, and that of an owner that does not train, is unchanged at once.
The averages take TN_CTL as the decision read it (R162). -/
def applyStep (s : State) (p : Nat) (n : W32) : State :=
  let r := stepRec s p n
  let warm := fget s (Reg.tnWarm p) 15 0
  let lema : W32 := BitVec.ofNat 32 (fget s (Reg.tnEma p) 31 0)
  let gema : W32 := BitVec.ofNat 32 (fget s (Reg.tnEma p) 63 32)
  let newL := match r.loss with
    | some l => if warm = 0 then l else emaStep (bits r.ctl 23 20) l lema
    | none => lema
  let newG := match r.gsum with
    | some q => let g := (fSqrt q).1; if warm = 0 then g else emaStep (bits r.ctl 19 16) g gema
    | none => gema
  let s1 := s.setReg (Reg.tnEma p) (newG.toNat * 2 ^ 32 + newL.toNat)
  let s2 := finc (fset s1 (Reg.tnWarm p) 15 0 (min 0xFFFF (warm + 1))) (Reg.lsCounts p) 31 0 1
  let s3 := updStep s2 p n fun x => { x with outcome := .applied }
  let mine := tagsOf s3 p fun d => (d.st == .trainable && d.role.stateful) || (d.st == .resident && d.role == .buddy)
  let s4 := { s3 with stage12 := s3.stage12 ++ mine.map fun t => { part := fin 15 p, step := n, tag := BitVec.ofNat 16 t } }
  (tagsOf s4 p fun d => d.role == .serve || (d.role == .owner && d.st == .resident)).foldl (fun t g => publishCopy t g (n + 1#32)) s4

/-! ### Teasel and the decision -/

/-- A value exceeds a ratio of an average: not finite, or above ratio * average while that is positive (R144). -/
def exceeds (x ratio ema : W32) : Bool := !isFin32 x || (fGt ema 0#32 && fGt x (fMul ratio ema).1)

/-- The cause of a step (R144): bit 0 loss, bit 1 norm, bit 2 non-finite. -/
def teaselCause (s : State) (p : Nat) (n : W32) : Nat :=
  let r := stepRec s p n
  let ctl := Reg.tnCtl p
  let ratio := fun (hi lo : Nat) => BitVec.ofNat 32 (fget s (Reg.tnRatio p) hi lo)
  let ema := fun (hi lo : Nat) => BitVec.ofNat 32 (fget s (Reg.tnEma p) hi lo)
  let checks := decide (max (fget s ctl 15 0) 1 ≤ fget s (Reg.tnWarm p) 15 0)
  (if fbit s ctl 29 && decide (0 < r.nf) then 4 else 0) +
  (if checks && fbit s ctl 31 && (r.loss.any fun l => exceeds l (ratio 31 0) (ema 31 0)) then 1 else 0) +
  (if checks && fbit s ctl 30 && (r.gsum.any fun q => exceeds (fSqrt q).1 (ratio 63 32) (ema 63 32)) then 2 else 0)

/-- The loss scale's transition at a decision (R141). -/
def scaleStep (s : State) (p : Nat) (ovf : Bool) : State :=
  let x := ctxExp s p
  let clean := fget s (Reg.lsState p) 15 0
  if !lsOn s p then s
  else if ovf then
    let s1 := if x = -24 then fset s (Reg.lsState p) 17 17 1 else s
    fset (setExp s1 p (max (x - 1) (-24))) (Reg.lsState p) 15 0 0
  else if max 1 (fget s (Reg.lsCtl p) 15 0) ≤ clean + 1 then
    let s1 := if x = 24 then fset s (Reg.lsState p) 18 18 1 else s
    fset (setExp s1 p (min (x + 1) 24)) (Reg.lsState p) 15 0 0
  else fset s (Reg.lsState p) 15 0 (clean + 1)

/-- TN_LAST takes the inputs that a decision had (R166). -/
def recordLast (s : State) (p : Nat) (r : StepRec) : State :=
  let s1 := match r.loss with
    | some l => fset s (Reg.tnLast p) 31 0 l.toNat
    | none => s
  match r.gsum with
  | some q => fset s1 (Reg.tnLast p) 63 32 (fSqrt q).1.toNat
  | none => s1

/-- TN_HOLD shows a held step (R145). -/
def showHold (s : State) (p : Nat) (n : W32) : State :=
  s.setReg (Reg.tnHold p) (n.toNat * 2 ^ 32 + 2 ^ 31 + (stepRec s p n).cause % 8 * 2 ^ 28)

/-- A step is held (R145). One that comes while another is held waits for its turn in TN_HOLD (assumption log 159). -/
def holdStep (s : State) (p : Nat) (n : W32) (c : Nat) : State :=
  let s1 := updStep (finc s (Reg.tnEvents p) 15 8 1) p n fun r => { r with outcome := .held, cause := c }
  if fbit s (Reg.tnHold p) 31 then s1 else showHold s1 p n

/-- A release frees TN_HOLD for the next step that is held: the earliest decided. -/
def nextHold (s : State) (p : Nat) : State :=
  match (s.lsc p).recs.filter fun r => r.outcome == .held with
  | [] => s
  | r :: rs => showHold s p (rs.foldl (fun a b => if sdiff32 b.step a.step < 0 then b else a) r).step

/-- Teasel gives a clean step its outcome (R143 to R145). -/
def teasel (s : State) (p : Nat) (n : W32) : State :=
  let c := teaselCause s p n
  let s1 := if (stepRec s p n).loss.isNone then finc s (Reg.tnEvents p) 7 0 1 else s
  let s2 := if c % 4 ≠ 0 then finc s1 (Reg.tnEvents p) 31 16 1 else s1
  if 4 ≤ c ∨ (c % 4 ≠ 0 ∧ fbit s (Reg.tnCtl p) 28) then holdStep s2 p n c else applyStep s2 p n

/-- The step would be held (R144). -/
def wouldHold (s : State) (p : Nat) (n : W32) : Bool :=
  let c := teaselCause s p n
  decide (4 ≤ c) || (decide (c % 4 ≠ 0) && fbit s (Reg.tnCtl p) 28)

/-- Something here still asks what became of a step: an update, an item, a working copy behind it, or the release of its hold. -/
def stepInUse (s : State) (p : Nat) (r : StepRec) : Bool :=
  r.outcome == .held || (s.jobs.any fun j => j.part.val == p && j.step == r.step) || ((openWork s p).any fun d => ofStep d r.step) ||
    (tagsOf s p fun d => d.role != .serve).any fun t => decide (sdiff32 (Tab.get 0#32 s.wcGen t) r.step ≤ 0)

/-- What a decision leaves of earlier steps: the step before, and what something still asks for. -/
def dropOldSteps (s : State) (p : Nat) (n : W32) : State :=
  { s.setLsc p { s.lsc p with recs := (s.lsc p).recs.filter fun r => decide (-1 ≤ sdiff32 r.step n) || stepInUse s p r } with
    stage12 := s.stage12.filter fun x => !(x.part.val == p && x.done && x.step ≠ n && !((openWork s p).any fun d => ofStep d x.step && workStepEnd d)) }

/-- Decision n (R141): what it records and publishes, and the outcome. A step that a base swap refused has no update (R137;
assumption log 160). -/
def decideStep (s : State) (p : Nat) (n : W32) (ovf : Bool) : State :=
  let x := ctxExp s p
  let s1 := updStep (recordLast s p (stepRec s p n)) p n fun r =>
    { r with reduced := ovf, exp := x, sampled := true, ctl := rd s (Reg.tnCtl p) }
  let s2 := fset (scaleStep s1 p ovf) (Reg.lsState p) 63 32 n.toNat
  let s3 := fset s2 (Reg.lsState p) (24 + n.toNat % 2) (24 + n.toNat % 2) 0
  let s4 := publishScale s3 p (n + 1#32) (if lsOn s3 p then pow2F (ctxExp s3 p) else f32One)
  let s5 := dropOldSteps { s4 with updLog := s4.updLog.filter fun l => !(l.1 == p && l.2.1 == (n.toNat + 1) % 2) } p n
  if ovf then
    skipStep (updStep (finc s5 (Reg.lsCounts p) 63 32 1) p n fun r => { r with outcome := .suppressed }) p n
  else if (stepRec s5 p n).refused then skipStep (updStep s5 p n fun r => { r with outcome := .discarded }) p n
  else teasel s5 p n

/-- DECIDE (R141): on the closing reduction that completed first. One of another step than STEP + 1 counts as MISSING; with GEN
set the decision waits for the verdict exchange (R143). -/
def execLsDecide (p : Part) (s : State) : Res :=
  match (s.lsc p).closed with
  | [] => .next s
  | (n, ovf) :: rest =>
    let s1 := s.setLsc p { s.lsc p with closed := rest }
    if n ≠ ctxStep s p + 1#32 then .next (finc s1 (Reg.tnEvents p) 7 0 1)
    else if fbit s (Reg.tnCtl p) 30 && (stepRec s p n).gsum.isNone then .next s
    else .next (decideStep s1 p n ovf)

/-- The slot that an adapter this module owns belongs to (R167; assumption log 67). -/
def slotOfTag (s : State) (p t : Nat) : Nat :=
  let mine := mySlots s p
  mine.getD (Config.adapterSlot t % mine.length) 0

/-- GSQ sums of a slot held here for step n: the adapters owned, in ascending (tag, layer), then its base shard (R143, R167). -/
def slotSum (s : State) (p q : Nat) (n : W32) : W32 :=
  let mine := s.norms.filter fun kv =>
    (s.desc (kv.1 / 4096)).role == .owner && (s.desc (kv.1 / 4096)).st != .free &&
      partOf s (s.desc (kv.1 / 4096)).inst == some p && kv.2.step == n.truncate 30 && slotOfTag s p (kv.1 / 4096) == q
  let base := s.slotGsq.filter fun kv => kv.1 / 4096 == p * 2 ^ 20 + q && kv.2.step == n.truncate 30
  (foldSum (mine.map (·.2.gsq) ++ base.map (·.2.gsq))).1

/-- What this module contributes to the verdict exchange: a value for each slot it holds (R143, R167). -/
def ownGsq (s : State) (p : Nat) (n : W32) : List (Nat × W32) := (mySlots s p).map fun q => (q, slotSum s p q n)

/-- The closing reduction of step STEP + 1 has completed, and its verdict exchange has not (R143). -/
def verdictDue (s : State) (p : Nat) : Bool :=
  let n := ctxStep s p + 1#32
  fbit s (Reg.tnCtl p) 30 && (s.lsc p).closed.any (fun x => x.1 == n) && (stepRec s p n).gsum.isNone

/-- VERDICT_EXCHANGE (R143): the values of this module's slots go out; all slots' values combine in the canonical order. -/
def execVerdictExchange (p : Part) (others : List (Nat × W32)) (s : State) : Res :=
  if !verdictDue s p then .next s
  else
    let n := ctxStep s p + 1#32
    let mine := ownGsq s p n
    let vals := (List.range (slotsOf s p)).map fun q =>
      match (mine ++ others).find? fun x => x.1 == q with
      | some x => x.2
      | none => 0#32
    let s1 := updStep s p n fun r => { r with gsum := some (canonicalSlots vals) }
    .next (s1.emit (.verdict p n mine))

/-- A write of TN_HOLD (R145): DISCARD before APPLY; ignored while HELD is 0. -/
def writeHold (s : State) (p : Nat) (v : Nat) : State :=
  if !fbit s (Reg.tnHold p) 31 then s
  else
    let n : W32 := BitVec.ofNat 32 (fget s (Reg.tnHold p) 63 32)
    let s1 := fset s (Reg.tnHold p) 31 31 0
    if bit v 1 then
      nextHold (skipStep (updStep (finc s1 (Reg.lsOutcomes p) 31 0 1) p n fun r => { r with outcome := .discarded }) p n) p
    else if bit v 0 then
      -- a step that a base swap cut has no update to apply (R137; assumption log 160)
      if (stepRec s p n).refused then nextHold (skipStep (updStep s1 p n fun r => { r with outcome := .discarded }) p n) p
      else nextHold (applyStep s1 p n) p
    else s

/-- TN_HOLD_APPLY (R145). -/
def execTnHoldApply (p : Part) (v : W64) (s : State) : Res := hostWide s 0 (Reg.tnHold p) fun t => writeHold t p v.toNat
/-- TN_HOLD_DISCARD (R145). -/
def execTnHoldDiscard (p : Part) (v : W64) (s : State) : Res := hostWide s 0 (Reg.tnHold p) fun t => writeHold t p v.toNat

/-! ### Update engines (R155 to R161, R296, R297) -/

/-- A CAST of a step before `n` has not completed its export in a partition (R252). -/
def castHolds (s : State) (p : Nat) (n : W32) : Bool :=
  s.streams.any fun kv => kv.2.op == 5 && (kv.2.st == .open_ || kv.2.st == .active) && kv.2.group.val == p && decide (sdiff32 kv.2.step n < 0)

/-- Another UPD of the same tensor and step runs (R156). -/
def sameRuns (s : State) (j : UpdJob) : Bool :=
  s.jobs.any fun x => x.stage == .ran && x.part == j.part && x.step == j.step && blkTid x.block == blkTid j.block

/-- An accepted UPD may run now (R131, R155, R156, R252). -/
def jobReady (s : State) (n : Nat) (j : UpdJob) : Bool :=
  j.stage == .waiting && engineFor s j.core == n && (stepRec s j.part j.step).outcome == .applied &&
    !(!j.base && (s.desc j.tag.toNat).st == .restoring) && !castHolds s j.part j.step && !sameRuns s j

/-- A UPD's item stops (R161, R311). -/
def stopJob (s : State) (j : UpdJob) (st : Stop) : State :=
  let s1 := { s with jobs := s.jobs.filter fun (x : UpdJob) => x.id ≠ j.id }
  match s1.ledAt j.led with
  | some e => stopEntry s1 j.led e j.core j.idx 0x50 j.layer st
  | none => s1

/-- Overflows of an update: late, and counted (R140, R151, R161). -/
def lateOvf (s : State) (j : UpdJob) (n : Nat) : State :=
  if n = 0 then s else flagOverflow (ovfTable s j.part j.layer n true) j.part j.step

/-- Run an accepted UPD of an APPLIED step (R157 to R161); one whose TID the log of its step holds completes as DONE and
writes nothing (R155, R156). The record of a NaN has ROW and COL 0 (R38; assumption log 150). -/
def runJob (s : State) (n : Nat) (j : UpdJob) : State :=
  if logged s j.part j.step (blkTid j.block) then completeStep (finishJob s j) j.part j.step
  else match streamsCheck s j with
  | some st => stopJob s j st
  | none => match streamsPoison s j.block with
    | some u => report { s with jobs := s.jobs.filter fun (x : UpdJob) => x.id ≠ j.id } (8 + (pcOf s u).1 / 3) (0x100 + (pcOf s u).1 % 3) 0x32 j.inst 0 u (some j.led)
    | none =>
      let x := runProgram s j
      let cycles := 3200 + ceilDiv (blkNelem j.block * blkNinst j.block) 64
      let (wsq, o1) := tree x.wsq
      let (usq, o2) := tree x.usq
      let s1 := charge (lateOvf x.s j (x.o + o1 + o2)) 1 j.part 0 cycles
      match x.trap with
      | some (ins, nanin) =>
        let s2 := if j.base then s1 else startRestore s1 j.part j.step j.tag
        stopJob s2 j (.numeric { unit := 7, kstep := ins, nanin := nanin, upde := true })
      | none =>
        { s1 with jobs := s1.jobs.map fun (y : UpdJob) => if y.id = j.id then { y with stage := .ran, wsq := wsq, usq := usq, eng := n } else y }

/-- UPD_RUN (R155, R160): engine n takes its next accepted UPD whose step is decided; it runs one at a time, with an entry of the
transfer table (R199). -/
def execUpdRun (n : Quad) (s : State) : Res :=
  if s.jobs.any fun j => j.eng == n.val && j.stage == .ran then .next s
  else
    let ready := s.jobs.filter (jobReady s n)
    match pickHolder s 1 ((dedup (ready.map fun j => j.part.val)).map fun p => (p, 0)) with
    | none => .next s
    | some (p, _) => match ready.find? fun (j : UpdJob) => j.part.val == p with
      | some j => .next (if xferFree s n j.inst = 0 then s else notePeak (runJob s n j))
      | none => .next s

/-- Remember a UPD that ran, and the adapter's latest earlier step (R131, R184). -/
def rememberRan (s : State) (j : UpdJob) : State :=
  let mine := fun (r : RanUpd) => r.base == j.base && (if j.base then r.part == j.part else r.tag == j.tag)
  let prev := ((s.ran.filter fun (r : RanUpd) => mine r && r.step ≠ j.step).getLast?).map (·.step)
  { s with ran := (s.ran.filter fun (r : RanUpd) => !mine r || r.step == j.step || some r.step == prev) ++
      [{ base := j.base, part := j.part, tag := j.tag, step := j.step, tid := blkTid j.block, layer := j.layer, block := j.block }] }

/-- UPD_COMPLETE (R148, R155, R156): the norm contribution and the log bit. -/
def execUpdComplete (n : Quad) (s : State) : Res :=
  match s.jobs.find? fun (j : UpdJob) => j.eng == n.val && j.stage == .ran with
  | none => .next s
  | some j =>
    let (s0, o) := addUpdNorms s j.base (if j.base then j.part.val else j.tag.toNat) j.layer j.step j.wsq j.usq
    let s1 := lateOvf s0 j o
    let s2 := rememberRan { s1 with updLog := s1.updLog ++ [(j.part.val, j.step.toNat % 2, blkTid j.block)] } j
    .next (completeStep (finishJob s2 j) j.part j.step)

/-! ### Stage 12: mirror and digest (R184, R185) -/

/-- Insert by TID. -/
def insertTid (x : RanUpd) : List RanUpd → List RanUpd
  | [] => [x]
  | y :: ys => if x.tid < y.tid then x :: y :: ys else y :: insertTid x ys

/-- The UPDs of a tag that ran in a step, in ascending TID (R184). -/
def ranOf (s : State) (t : Tag) (n : W32) : List RanUpd :=
  (s.ran.filter fun (r : RanUpd) => !r.base && r.tag == t && r.step == n).foldr insertTid []

/-- Bytes of a stream of an update block; none for a stream outside SMASK. -/
def streamBytesOf (s : State) (inst : Inst) (b : BitVec 512) (i : Nat) : List Byte :=
  if !bit (blkMask b) i then []
  else
    let (a, n) := streamRange b i
    match addrOf a with
    | .io x => hostRead s inst x n
    | .dev x => Memory.read s.dev x n
    | .bad => []

/-- The mirror of an adapter's step (R185). -/
def mirrorOf (s : State) (t : Tag) (n : W32) : Mirror :=
  let i := (s.desc t.toNat).inst
  { step := n, upds := (ranOf s t n).map fun r => {
      tid := BitVec.ofNat 24 r.tid, block := r.block, m := streamBytesOf s i r.block 1, s1 := streamBytesOf s i r.block 2,
      s2 := streamBytesOf s i r.block 3, w := streamBytesOf s i r.block 4,
      norms := [(BitVec.ofNat 12 r.layer, BitVec.ofNat 128 (ofLe (normBytes (normGet s false t.toNat r.layer))))] } }

/-- A norm entry from its 16 B (R147). -/
def normOf (w : W128) : Norm :=
  { gsq := BitVec.ofNat 32 w.toNat, wsq := BitVec.ofNat 32 (bits w.toNat 63 32), usq := BitVec.ofNat 32 (bits w.toNat 95 64),
    step := BitVec.ofNat 30 (bits w.toNat 125 96), upd := bit w.toNat 127 }

/-- Bytes as 64-bit words, the last padded with zeros (R184). -/
def words64 (bs : List Byte) : List Nat := (chunks 8 bs.length bs).map ofLe

/-- Norm entries of a mirror by layer, ascending, each once (R184). -/
def mirrorNorms (m : Mirror) : List (Nat × Nat) :=
  let all := m.upds.flatMap fun u => u.norms.map fun x => (x.1.toNat, x.2.toNat)
  (dedup (all.map (·.1))).filterMap fun l => all.find? fun x => x.1 == l

/-- The words of a step digest (R184). -/
def digestWords (d : Desc) (t : Tag) (m : Mirror) : List Nat :=
  [m.step.toNat + t.toNat * 2 ^ 32 + d.keygen.toNat * 2 ^ 48 + d.rankq * 2 ^ 56] ++
  (m.upds.flatMap fun u => (u.tid.toNat + blkNelem u.block * 2 ^ 24) :: (words64 u.m ++ words64 u.s1 ++ words64 u.s2 ++ words64 u.w)) ++
  ((mirrorNorms m).flatMap fun x => [x.2 % 2 ^ 64, x.2 / 2 ^ 64])

/-- The step digest (R184). -/
def stepDigest (s : State) (t : Tag) (m : Mirror) : W64 := digest (digestWords (s.desc t.toNat) t m)

/-- What a mirror carries (R185): for each update its block, the streams it names and the norm entries. -/
def mirrorBytes (m : Mirror) : List Byte :=
  m.upds.flatMap fun u => leBytes 64 u.block.toNat ++ u.m ++ u.s1 ++ u.s2 ++ u.w ++ u.norms.flatMap fun x => leBytes 16 x.2.toNat

/-- A mirror leaves sealed under the adapter key (R128, R185); the spec fixes neither the nonce of its tiles nor the order of its
bytes (assumption log 161). -/
def sendMirror (s : State) (t : Tag) (m : Mirror) : State :=
  let (w, s1) := s.drawWord
  let k := s.key t.toNat
  let (ct, tag) := gcmSeal (keyG k.key) (BitVec.ofNat 96 w.toNat) (leBytes 2 t.toNat) (mirrorBytes m)
  s1.emit (.mirror t k.keygen (ct ++ leBytes 16 tag.toNat))

/-- The stage 12 of an adapter that has no own digest yet. -/
def openStage (s : State) (t : Tag) : Option Stage12 := s.stage12.find? fun (x : Stage12) => x.tag == t && !x.done && x.own.isNone

def setStage (s : State) (x : Stage12) : State :=
  { s with stage12 := s.stage12.map fun (y : Stage12) => if y.part == x.part && y.step == x.step && y.tag == x.tag then x else y }

/-- A buddy takes a mirror of step n, with its norm entries, and forms its digest. -/
def takeMirror (s : State) (tag : Tag) (m : Mirror) : W64 × State :=
  let h := stepDigest s tag m
  let s1 := m.upds.foldl (fun t u => u.norms.foldl (fun v z => normSet v false tag.toNat z.1.toNat (normOf z.2)) t) s
  (h, { s1 with mirrors := Tab.insert s1.mirrors tag.toNat (m, h) })

/-- The buddy of an adapter whose digests differed takes the state that its owner keeps (R356 KEEPOWNER) and answers its digest. -/
def takeKept (s : State) (tag : Tag) (m : Mirror) : State :=
  if (s.desc tag.toNat).role == .buddy && s.held.any fun x => x.1 == tag && x.2.1 == m.step then
    let (h, s1) := takeMirror s tag m
    s1.emit (.digest tag h)
  else s

/-- MIRROR_SEND (R184, R185): the owner sends the mirror of a step whose updates have completed; the buddy keeps the one
that arrives. Each forms its digest and sends it. While the generation of the adapter key is not ACTIVE no mirror crosses (R320,
R321). -/
def execMirrorSend (tag : Tag) (arrives : Option Mirror) (s : State) : Res :=
  let d := s.desc tag.toNat
  if !keyUsable s tag.toNat then .next s
  else match openStage s tag with
  | none => .next (match arrives with
    | some m => takeKept s tag m
    | none => s)
  | some x =>
    if !partnerUp s tag then .next s
    else match d.role, arrives with
    | .owner, none =>
      if s.jobs.any fun j => !j.base && j.tag == tag && j.step == x.step then .next s
      else
        let m := match (ranOf s tag x.step).isEmpty, Tab.find s.mirrors tag.toNat with
          | true, some k => if k.1.step = x.step then k.1 else mirrorOf s tag x.step
          | _, _ => mirrorOf s tag x.step
        let h := stepDigest s tag m
        .next ((sendMirror (setStage s { x with own := some h }) tag m).emit (.digest tag h))
    | .buddy, some m =>
      -- a new buddy is built from the step that its owner names (R259)
      if m.step ≠ x.step ∧ !x.rebuild then .next s
      else
        let (h, s1) := takeMirror s tag m
        .next ({ s1 with stage12 := s1.stage12.map fun y => if y = x then { x with step := m.step, own := some h } else y }.emit (.digest tag h))
    | _, _ => .next s

/-- The silent-corruption event of an adapter (R185, R336, R356): its working copy stays held. -/
def digestEvent (s : State) (tag : Tag) (n : W32) (own peer : W64) (engine : Nat) : State :=
  let s1 := { s with held := s.held.filter (fun x => x.1 ≠ tag) ++ [(tag, n, own, peer)] }
  report s1 (8 + engine) 0x201 0x71 (s.desc tag.toNat).inst tag.toNat n.toNat none

/-- Engine that serves a tag's digests: the lowest quadrant (its choice affects the report's DIE alone). -/
def digestEngine : Nat := 0

/-- DIGEST_EXCHANGE (R21, R185): equal digests end stage 12 and publish the copy; others are a silent-corruption event. -/
def execDigestExchange (tag : Tag) (peer : W64) (s : State) : Res :=
  match s.stage12.find? fun (x : Stage12) => x.tag == tag && !x.done && x.own.isSome with
  | none => .next s
  | some x =>
    let own := x.own.getD 0#64
    if own = peer then
      let s1 := refreshCopy (setStage s { x with done := true }) tag.toNat x.step none
      let s2 := if (s.desc tag.toNat).role == .owner then s1.emit (.refresh tag (x.step + 1#32)) else s1
      .next (completeStep s2 x.part x.step)
    else
      .next (completeStep (digestEvent (setStage s { x with done := true, mismatch := true }) tag x.step own peer digestEngine) x.part x.step)

/-! ### Restore and refresh (R131, R164) -/

/-- The pages of a restored stream hold the adapter's own state, and none waits to be freed (R201, R206). -/
def restorePage (s : State) (tag : Tag) (pg : Nat) : Bool :=
  (s.page pg).kind == .adstate && (s.page pg).tag == tag && !(s.page pg).freeing

/-- Write a mirror's streams at the addresses that the owner's own blocks of that step name, where the page check lets it (R201), and
its norm entries. -/
def writeMirror (s : State) (tag : Tag) (m : Mirror) : State :=
  m.upds.foldl (fun t u =>
    let b := ((ranOf s tag m.step).find? fun (r : RanUpd) => r.tid == u.tid.toNat).map (·.block) |>.getD u.block
    let t1 := [(1, u.m), (2, u.s1), (3, u.s2), (4, u.w)].foldl (fun v (x : Nat × List Byte) =>
      if bit (blkMask b) x.1 then (match addrOf (blkStream b x.1) with
        | .io y => hostWrite v (s.desc tag.toNat).inst y x.2
        | .dev y => if (span Config.pageBytes y x.2.length).all (restorePage v tag) then devWrite v y x.2 else v
        | .bad => v) else v) t
    u.norms.foldl (fun v z => normSet v false tag.toNat z.1.toNat (normOf z.2)) t1) s

/-- The owner takes the buddy's mirror (R131): it writes the streams, forms the digest as it writes, and where the two digests agree
the adapter is TRAINABLE again, with the stopped step's working copy unchanged. -/
def takeRestore (s : State) (tag : Tag) (mir : Mirror) (peer : W64) : State :=
  let s1 := writeMirror s tag mir
  let h := stepDigest s1 tag mir
  let s2 := s1.emit (.digest tag h)
  if h = peer then
    let n := mir.step + 1#32
    (refreshCopy (s2.updDesc tag.toNat fun x => { x with st := .trainable }) tag.toNat n none).emit (.unchanged tag (n + 1#32))
  else digestEvent s2 tag mir.step h peer digestEngine

/-- The buddy is asked (R131): no mirror of the step that stopped comes, and it sends the mirror it received last. -/
def answerRestore (s : State) (tag : Tag) : State :=
  match Tab.find s.mirrors tag.toNat with
  | none => s
  | some (m, _) =>
    sendMirror { s with stage12 := s.stage12.map fun x =>
      if x.tag = tag && x.step = m.step + 1#32 then { x with done := true } else x } tag m

/-- The owner's digest at the buddy (R131): the one it formed of that mirror agrees, or both report the event. -/
def compareRestore (s : State) (tag : Tag) (own : W64) : State :=
  match Tab.find s.mirrors tag.toNat with
  | none => s
  | some (m, h) =>
    let s1 := s.emit (.digest tag h)
    if own = h then refreshCopy s1 tag.toNat (m.step + 1#32) none else digestEvent s1 tag m.step h own digestEngine

/-- ADAPTER_RESTORE (R131): of an owner in RESTORING, or at its buddy, while the partner context is ACTIVE. -/
def execAdapterRestore (tag : Tag) (ev : RestoreEv) (s : State) : Res :=
  let d := s.desc tag.toNat
  if !partnerUp s tag || !keyUsable s tag.toNat then .next s
  else match ev with
  | .take mir peer => .next (if d.st == .restoring && d.role == .owner then takeRestore s tag mir peer else s)
  | .asked => .next (if d.role == .buddy then answerRestore s tag else s)
  | .compare own => .next (if d.role == .buddy then compareRestore s tag own else s)

/-- A refresh of step n may come (R19, R20): the step is APPLIED here, the copy does not hold it yet, and an unchanged one holds the
step before. -/
def refreshDue (s : State) (t : Nat) (n : W32) (w : Option (List Byte)) : Bool :=
  let g := Tab.get 0#32 s.wcGen t
  ((partOf s (s.desc t).inst).any fun p => (stepRec s p n).outcome == .applied) && decide (sdiff32 g n ≤ 0) &&
    (w.isSome || decide (0 ≤ sdiff32 g n))

/-- WORKING_COPY_REFRESH (R20, R164, R277): a non-owner takes the owner's copy of step n, or keeps its own where it is
unchanged, and publishes the generation; while running eval items read the older one, the refresh waits. -/
def execWorkingCopyRefresh (tag : Tag) (n : W32) (w : Option (List Byte)) (s : State) : Res :=
  let d := s.desc tag.toNat
  if d.role != .nonowner || !(d.st == .resident || d.st == .trainable) || !keyUsable s tag.toNat || !refreshDue s tag.toNat n w then .next s
  else .next (refreshCopy s tag.toNat n w)

end Sys2Proof.Machine
end

