-- ==== Sys2Proof/Machine/Coll.lean ====
section
/-! DEFINITION. The collective engines (R241 to R256): streams, the tree's exchange, Cast, forming and resetting a group. -/

namespace Sys2Proof.Machine

/-! ### Geometry (R209, R242, R248) -/

/-- First element that slot q owns. -/
def ownLo (q e n : Nat) : Nat := q * e / n

/-- The slot that owns an element. -/
def ownerOf (el e n : Nat) : Nat := ((el + 1) * n + e - 1) / e - 1

/-- The last slot that node (l, j) covers. -/
def nodeLast (l j n : Nat) : Nat := min (8 ^ l * (j + 1)) n - 1

/-- The former of node (l, j) for an element. -/
def former (l j el e n : Nat) : Nat := min (8 ^ l * j + ownerOf el e n % 8 ^ l) (nodeLast l j n)

/-- Who sends child i's data of node (l, j) to slot q. -/
def senderOf (l j i q n : Nat) : Nat := min (8 ^ (l - 1) * (8 * j + i) + q % 8 ^ (l - 1)) (nodeLast (l - 1) (8 * j + i) n)

/-- Children of node (l, j). -/
def childrenOf (l j n : Nat) : List Nat := (List.range 8).filter fun i => decide (8 ^ (l - 1) * (8 * j + i) < n)

/-- The slot that holds node (L - d, j)'s part of a BROADCAST's scatter: the gather's paths reversed (R248). -/
def scatHead (n root lv : Nat) : Nat → Nat → Nat
  | 0, _ => root
  | d + 1, j =>
    let l := lv - d
    let p := scatHead n root lv d (j / 8)
    if p / 8 ^ (l - 1) = j then p else senderOf l (j / 8) (j % 8) p n

/-- Elements that the slots of node (l, j) own. -/
def nodeEls (l j e n : Nat) : List Nat :=
  let lo := ownLo (8 ^ l * j) e n
  (List.range (ownLo (nodeLast l j n + 1) e n - lo)).map (lo + ·)

/-- REDUCESCATTER and ALLREDUCE. -/
def Stream.reduces (x : Stream) : Bool := x.op == 2 || x.op == 4
/-- BARRIER, and the barrier of a CAST: headers only. -/
def Stream.barrier (x : Stream) : Bool := x.op == 0 || x.op == 5
/-- The small path (R249). -/
def Stream.small (x : Stream) : Bool := x.barrier || (x.reduces && decide (x.e ≤ 128))
/-- The operation has a gather phase (R247, R248). -/
def Stream.gathers (x : Stream) : Bool := !x.small && (x.op == 4 || x.op == 3 || x.op == 1)
def Stream.els (x : Stream) : Nat := if x.barrier then 0 else x.e

/-- What one slot passes another at one level and phase (R245 to R249). -/
structure Xfer where
  phase : Nat
  lvl   : Nat
  src   : Nat
  dst   : Nat
  child : Nat
  els   : List Nat
  deriving DecidableEq, Repr

/-- Everything slot p passes at level l + 1 of a stream over n slots. -/
def Stream.outAt (x : Stream) (n lv p l : Nat) : List Xfer :=
  let c := p / 8 ^ l
  let j := c / 8
  let peers := ((List.range (nodeLast (l + 1) j n + 1)).drop (8 ^ (l + 1) * j)).filter fun q =>
    q / 8 ^ l != c && senderOf (l + 1) j (c % 8) q n == p
  let mine := (List.range x.els).filter fun e => former l c e x.e n == p
  if x.small then peers.map fun q => ⟨0, l + 1, p, q, c % 8, List.range x.els⟩
  else
    (if x.reduces then
      ((dedup (mine.map fun e => former (l + 1) j e x.e n)).filter (· ≠ p)).map fun d =>
        ⟨0, l + 1, p, d, c % 8, mine.filter fun e => former (l + 1) j e x.e n == d⟩
    else []) ++
    (if x.op = 1 ∧ scatHead n x.root lv (lv - (l + 1)) j = p then
      ((childrenOf (l + 1) j n).filter fun i => decide (8 * j + i ≠ c)).map fun i =>
        ⟨0, l + 1, p, senderOf (l + 1) j i p n, c % 8, nodeEls l (8 * j + i) x.e n⟩
    else []) ++
    (if x.gathers then peers.map fun q => ⟨1, l + 1, p, q, c % 8, nodeEls l c x.e n⟩ else [])

/-- Everything slot p passes. -/
def Stream.outOf (x : Stream) (n p : Nat) : List Xfer :=
  ((List.range (log8 n)).flatMap (x.outAt n (log8 n) p)).filter fun f => x.barrier || !f.els.isEmpty

/-- Transfers that leave the module, and those that come to it. -/
def Stream.outgoing (x : Stream) (n : Nat) (mine : List Nat) : List Xfer :=
  (mine.flatMap (x.outOf n)).filter fun f => !(mine.contains f.dst)
def Stream.incoming (x : Stream) (n : Nat) (mine : List Nat) : List Xfer :=
  (((List.range n).filter fun q => !(mine.contains q)).flatMap (x.outOf n)).filter fun f => mine.contains f.dst

/-! ### Nodes (R169, R244, R245, R249) -/

def Stream.node (x : Stream) (l j e : Nat) : Option W32 := (x.nodes.find? fun k => k.1 == (l, j, e)).map (·.2)
def Stream.kid (x : Stream) (l j i e : Nat) : Option W32 := (x.kids.find? fun k => k.1 == (l, j, i, e)).map (·.2)

/-- The value of child i of node (l, j): formed here, or arrived after its sender's header. -/
def Stream.child (x : Stream) (n : Nat) (mine : List Nat) (l j i e : Nat) : Option W32 :=
  match x.node (l - 1) (8 * j + i) e with
  | some v => some v
  | none =>
    let heard := if x.small then mine.any fun q => q / 8 ^ l == j && x.heard.contains (l, senderOf l j i q n, q)
      else x.heard.contains (l, former (l - 1) (8 * j + i) e x.e n, former l j e x.e n)
    if heard then x.kid l j i e else none

/-- Elements of a contribution tile (R244). -/
def Stream.per (x : Stream) : Nat := if x.e ≤ 128 then 128 else 4096

/-- Form node (0, q) of the elements of tile t, when every contribution of the slot is present (R244); `r` is the slot's
rank. The Nat counts overflows. -/
def Stream.formSlot (x : Stream) (r q t : Nat) : Stream × Nat :=
  let keys := (List.range x.nlocal).map fun o => (r * x.nlocal + o) * 65536 + t
  if (x.node 0 q (t * x.per)).isSome || keys.any fun k => (Tab.find x.contrib k).isNone then (x, 0)
  else
    let tiles := keys.map fun k => (Tab.get ([] : List W32) x.contrib k)
    (List.range (min x.per (x.e - t * x.per))).foldl (fun y i =>
      let (v, o) := if x.nlocal = 0 then (0#32, 0) else foldSum (tiles.map fun w => w.getD i 0#32)
      ({ y.1 with nodes := y.1.nodes ++ [((0, q, t * x.per + i), v)] }, y.2 + o)) (x, 0)

/-- Form node (l, j) for an element, when its children are there; on the small path every slot of it here forms it. -/
def Stream.formNode (x : Stream) (n : Nat) (mine : List Nat) (l j e : Nat) : Stream × Nat :=
  if (x.node l j e).isSome then (x, 0)
  else
    match (childrenOf l j n).mapM fun i => x.child n mine l j i e with
    | none => (x, 0)
    | some vs =>
      let (v, o) := foldSum vs
      ({ x with nodes := x.nodes ++ [((l, j, e), v)] },
        o * (if x.small then (mine.filter fun q => q / 8 ^ l == j).length else 1))

/-- Form every node that can be formed, level by level, and take the root's values. -/
def Stream.form (x : Stream) (n : Nat) (mine : List Nat) : Stream × Nat :=
  if !x.reduces then (x, 0)
  else
    let slots := mine.zipIdx.flatMap fun q => (List.range (ceilDiv x.e x.per)).map fun t => (q.2, q.1, t)
    let y0 := slots.foldl (fun (y : Stream × Nat) k => let z := y.1.formSlot k.1 k.2.1 k.2.2; (z.1, y.2 + z.2)) (x, 0)
    let y1 := (List.range (log8 n)).foldl (fun (y : Stream × Nat) l0 =>
      let l := l0 + 1
      let js := dedup (mine.map fun q => q / 8 ^ l)
      (js.flatMap fun j => (List.range x.e).map fun e => (j, e)).foldl (fun (z : Stream × Nat) k =>
        if x.small || mine.contains (former l k.1 k.2 x.e n) then
          let w := z.1.formNode n mine l k.1 k.2; (w.1, z.2 + w.2)
        else z) y) y0
    let root := (y1.1.nodes.filter fun k => k.1.1 == log8 n && k.1.2.1 == 0).map fun k => (k.1.2.2, k.2)
    ({ y1.1 with vals := root.foldl (fun t k => Tab.insert t k.1 k.2) y1.1.vals }, y1.2)

/-! ### Sending (R246, R247, R251) -/

/-- Slots of a stream's group, and those this module holds. -/
def Stream.slots (s : State) (x : Stream) : Nat × List Nat := (slotsOf s x.group, mySlots s x.group)

/-- The value a transfer carries for an element. -/
def Stream.carried (x : Stream) (f : Xfer) (e : Nat) : Option W32 :=
  if f.phase = 0 ∧ x.reduces then x.node (f.lvl - 1) (f.src / 8 ^ (f.lvl - 1)) e else Tab.find x.vals e

/-- Slot p has formed its node of a level on the small path (R249): its own, from every contribution; another from its own child and, of
every other child, from a slot here that has formed it or by the header, and the values, that this slot has taken. -/
def Stream.reached (x : Stream) (n : Nat) (mine : List Nat) : Nat → Nat → Bool
  | 0, p => x.barrier || (List.range x.e).all fun e => (x.node 0 p e).isSome
  | l + 1, p =>
    let j := p / 8 ^ (l + 1)
    (childrenOf (l + 1) j n).all fun i =>
      if 8 * j + i = p / 8 ^ l then x.reached n mine l p
      else
        let q := senderOf (l + 1) j i p n
        if mine.contains q then x.reached n mine l q
        else x.heard.contains (l + 1, q, p) && (x.barrier || x.took.contains ((0, l + 1, q, p), 0))

/-- Other members whose arrival at a barrier the headers taken tell of (R255): those that hold a slot of a sender's node. -/
def arrivals (s : State) (g : Nat) (heard : List (Nat × Nat × Nat)) : Nat :=
  let n := slotsOf s g
  let covered := fun q => heard.any fun k => q / 8 ^ (k.1 - 1) == k.2.1 / 8 ^ (k.1 - 1)
  (dedup (((List.range n).filter covered).filterMap (slotMod s g))).filter (· ≠ modId s) |>.length

/-- CE_GRPSTAT.ARRIVED follows a barrier (R255, R263). -/
def noteArrivals (s : State) (g : Nat) (heard : List (Nat × Nat × Nat)) : State :=
  fset s (Reg.ceGrpstat g) 55 39 (min (2 ^ 17 - 1) (arrivals s g heard))

/-- Sample the flag that this module's headers of a stream carry (R140, R251). -/
def sampleFlag (s : State) (h : Nat) : State :=
  let x := s.stream h
  if x.headerOut then s
  else
    let p := x.group.val
    let b := 24 + x.step.toNat % 2
    let late := x.close && fbit s (Reg.lsState p) 19
    if 0 ≤ sdiff32 (ctxStep s p) x.step then
      s.setStream h { x with headerOut := true, ovf := x.ovf || (stepRec s p x.step).reduced }
    else
      let s1 := s.setStream h { x with headerOut := true, ovf := x.ovf || fbit s (Reg.lsState p) b || late }
      if x.close then updStep (fset s1 (Reg.lsState p) 19 19 0) p x.step fun r => { r with sampled := true } else s1

/-- The next SEQ and ERA of an engine (R224). -/
def drawSeq (s : State) (n : Nat) : Nat × State :=
  let v := Tab.get 0 s.plinth.engSeq n
  (v, { s with plinth := { s.plinth with engSeq := Tab.put 0 s.plinth.engSeq n (v + 1) } })

/-- A stream's tiles cross sealed (R223, R246). -/
def Stream.seals (x : Stream) : Bool := x.tagv || x.cls

/-- The generation that the stream's tiles are sealed under is ACTIVE (R320). -/
def streamKeyOk (s : State) (x : Stream) : Bool :=
  match tileKey s x.tagRec x.inst x.cls with
  | none => true
  | some k => k.st == .active && !k.refused && k.keygen == x.keygen

/-- The pairs that wait for the collective engines: the partitions with a tile that found no transfer-table entry, in class train
(R297, R298; assumption log 166); ascending. -/
def engineHolders (s : State) : List (Nat × Nat) :=
  (dedup ((s.sent.filter fun (x : Sent) => x.dkind == 3 && x.waits).map fun x => (s.stream (x.dest % 4096)).group.val)).map fun p => (p, 0)

/-- An engine's tile finds an entry for each of its shards (R199). -/
def engineFits (s : State) (x : Sent) : Bool := decide (ceilDiv x.msg.data.length 8192 ≤ xferFree s x.msg.home.toNat x.msg.inst)

/-- Transmit an engine's tile, and charge the engine's cycles, which are timing: a free value (R296, R298). -/
def engineSend (s : State) (x : Sent) : State :=
  let (c, s1) := s.drawWord
  transmit (charge s1 2 (s.stream (x.dest % 4096)).group 0 c.toNat) x

/-- Tiles of collective engines that wait for transfer-table entries leave as these come free: those of the partition whose turn it is,
in order. -/
def tickEngines (s : State) : State :=
  match pickHolder s 2 (engineHolders s) with
  | none => s
  | some (p, _) => match s.sent.find? fun (x : Sent) => x.dkind == 3 && x.waits && (s.stream (x.dest % 4096)).group.val == p with
    | some x => if engineFits s x then notePeak (engineSend s x) else s
    | none => s

/-- Send one engine tile to a module (R246); without an entry of the transfer table it waits (R199). -/
def sendEngine (s : State) (h dst rtag tfmt ord : Nat) (data : List Byte) : State :=
  let x := s.stream h
  let n := h / 1024
  let (v, s1) := drawSeq s n
  let m : TileMsg := {
    srcMod := BitVec.ofNat 19 (modId s), home := BitVec.ofNat 3 n, engine := true, seq := BitVec.ofNat 48 v, inst := x.inst,
    rtag := BitVec.ofNat 12 rtag, tfmt := BitVec.ofNat 3 tfmt, ord := BitVec.ofNat 16 ord, tag := x.tagRec, data := data }
  let y : Sent := {
    led := 65536 + n, core := 0, n := v % 2 ^ 48, era := v / 2 ^ 48 % 2 ^ 25, dkind := 3, dest := h + 4096 * dst, msg := m,
    shards := [], time := s.time, keygen := if x.seals then x.keygen else 0#8 }
  if (engineHolders s).isEmpty && engineFits s1 y then engineSend { s1 with sent := s1.sent ++ [y] } y
  else
    let s2 := raiseV s1 2 x.group 0 (engineHolders s)
    { s2 with sent := s2.sent ++ [{ y with waits := true }] }

/-- Bytes of a header tile (R247). -/
def headerBytes (m : HeaderMsg) : List Byte :=
  leBytes 512 (packFields [(32, m.step.toNat), (1, b2n m.ovf), (1, b2n m.close), (1, b2n m.loss), (1, b2n m.form), (4, 0),
    (8, m.op.toNat), (16, 0), (32, m.first.toNat), (32, m.last.toNat), (64, m.digest.toNat)])

/-- RTAG of an engine tile (R246). -/
def engineRtag (child lvl phase : Nat) : Nat := child % 8 + (lvl - 1) % 8 * 8 + phase % 4 * 64

/-- The header of a transfer (R247); `digest` is the map's in the barrier of a formation (R241). -/
def Stream.header (s : State) (x : Stream) (op : Nat) (digest : Option W64) (f : Xfer) : HeaderMsg :=
  let c := f.src / 8 ^ (f.lvl - 1)
  { lvl := f.lvl, child := f.child, src := f.src, dst := f.dst, step := x.step, ovf := x.ovf, close := x.close, loss := x.loss,
    form := digest.isSome, op := BitVec.ofNat 8 op, first := BitVec.ofNat 32 (8 ^ (f.lvl - 1) * c),
    last := BitVec.ofNat 32 (nodeLast (f.lvl - 1) c (slotsOf s x.group)), digest := digest.getD 0#64 }

/-- Send the header of a transfer. -/
def sendHeader (s : State) (h : Nat) (f : Xfer) : State :=
  let s1 := sampleFlag s h
  let x := s1.stream h
  let m := x.header s x.op none f
  let s2 := s1.setStream h { x with sentTo := x.sentTo ++ [((f.phase, f.lvl, f.src, f.dst), 0)] }
  sendEngine s2 h ((slotMod s x.group f.dst).getD 0) (engineRtag f.child f.lvl 2) 5 0 (headerBytes m)

/-- A tile or header of a transfer has been sent. -/
def Stream.wasSent (x : Stream) (f : Xfer) (t : Nat) : Bool := x.sentTo.contains ((f.phase, f.lvl, f.src, f.dst), t)

/-- Send tile t of a transfer, the header before the first. -/
def sendPart (s : State) (h : Nat) (f : Xfer) (t : Nat) (vs : List W32) : State :=
  let s1 := if (s.stream h).wasSent f 0 then s else sendHeader s h f
  let x := s1.stream h
  let s2 := s1.setStream h { x with sentTo := x.sentTo ++ [((f.phase, f.lvl, f.src, f.dst), t + 1)] }
  let bs := vs.flatMap fun v => leBytes 4 v.toNat
  sendEngine s2 h ((slotMod s x.group f.dst).getD 0) (engineRtag f.child f.lvl f.phase) 1 t (bs ++ List.replicate (16384 - bs.length) 0#8)

/-- No earlier transfer under the same RTAG to the same module (R246) has tile t still to send: the tiles of a module that
holds several slots leave in the order of the transfers. -/
def turnOf (s : State) (x : Stream) (out : List Xfer) (f : Xfer) (t : Nat) : Bool :=
  (out.takeWhile fun g => decide (g ≠ f)).all fun g =>
    !(g.phase == f.phase && g.lvl == f.lvl && g.child == f.child &&
      slotMod s x.group g.dst == slotMod s x.group f.dst && decide (4096 * t < g.els.length)) || x.wasSent g (t + 1)

/-- Send what a transfer can send by now. -/
def sendXfer (s : State) (h : Nat) (n : Nat) (mine : List Nat) (out : List Xfer) (f : Xfer) : State :=
  let x := s.stream h
  if x.small && !x.reached n mine (f.lvl - 1) f.src then s
  else if x.barrier then if x.wasSent f 0 then s else sendHeader s h f
  else
    notePeak <| (chunks 4096 f.els.length f.els).zipIdx.foldl (fun t es =>
      if (t.stream h).wasSent f (es.2 + 1) || !turnOf t (t.stream h) out f es.2 then t
      else match es.1.mapM ((t.stream h).carried f) with
        | some vs => sendPart t h f es.2 vs
        | none => t) s

/-- Tiles of items that a stream will not acknowledge: the items stop (R238, R254, R262). -/
def stopSenders (s : State) (h : Nat) (st : Stop) : State :=
  (dedup ((s.sent.filter fun (x : Sent) => x.dkind == 2 && x.dest == h).map (·.led))).foldl (fun t k => stopKey t k st) s

/-- A stream aborts (R247, R254, R256): ABORTED, its partial results discarded, its operation completed. The tiles that
its engine has sent stay with the FLP (R175). -/
def endStream (s : State) (h status : Nat) (st : Stop) : State :=
  let x := s.stream h
  if !(x.st == .open_ || x.st == .active) then s
  else
    let s1 := finc (s.setStream h { x with
      st := .aborted, opener := none, contrib := [], kids := [], nodes := [], vals := [], heard := [], sentTo := [], came := [], took := [] })
      (Reg.ceStat (h / 1024)) 47 32 1
    let s2 := stopSenders s1 h st
    match x.opener with
    | some o => completeOp s2 o status x.epoch.toNat
    | none => s2

/-- A stream aborts and the tiles that its engine has sent are dropped (R254, R256, R287, R320). -/
def abortStream (s : State) (h status : Nat) (st : Stop) : State :=
  if !((s.stream h).st == .open_ || (s.stream h).st == .active) then s
  else endStream { s with sent := s.sent.filter fun y => !(y.dkind == 3 && y.dest % 4096 == h) } h status st

/-- Overflows of the engine's additions (R40, R140). -/
def engineOvf (s : State) (x : Stream) (n : Nat) : State :=
  if n = 0 then s else flagOverflow (ovfTable s x.group x.layer n true) x.group x.step

/-- Form and send what a stream can (R244, R245, R248, R249). Under a key generation that is no longer ACTIVE it sends nothing
more, and aborts (R320). -/
def advance (s : State) (h : Nat) : State :=
  let x := s.stream h
  if x.st != .active then s
  else
    let (n, mine) := x.slots s
    let (y, o) := x.form n mine
    let s1 := engineOvf (s.setStream h y) x o
    let out := y.outgoing n mine
    if y.seals && !out.isEmpty && !streamKeyOk s x then abortStream s1 h 0x0B .keyRetired
    else out.foldl (fun t f => sendXfer t h n mine out f) s1

/-! ### Arrivals -/

/-- The configuration-mismatch message of an engine (R241, R247, R336). -/
def cfgMismatch (s : State) (h g : Nat) : State := report s (8 + h / 1024) 0x200 0x53 0 0 (h % 65536 + g * 65536) none

/-- A stream whose header does not agree aborts here (R247). -/
def mismatch (s : State) (h : Nat) : State :=
  cfgMismatch (finc (endStream s h 9 .aborted) (Reg.ceStat (h / 1024)) 63 48 1) h (s.stream h).group

/-- A header (R247): another OP or STEP aborts the stream here. -/
def takeHeader (s : State) (h : Nat) (m : HeaderMsg) : State :=
  let x := s.stream h
  if x.st != .active then s
  else if m.op.toNat ≠ x.op ∨ m.step ≠ x.step then mismatch s h
  else
    let y := { x with ovf := x.ovf || m.ovf, heard := x.heard ++ [(m.lvl, m.src, m.dst)] }
    let s1 := s.setStream h y
    advance (if x.barrier then noteArrivals s1 x.group y.heard else s1) h

/-- HEADER_TILE (R247). -/
def execHeaderTile (h : Handle) (m : HeaderMsg) (s : State) : Res := .next (takeHeader s h m)

/-- The transfer that a shard belongs to, when the stream's exchange has it. -/
def Stream.xferOf (x : Stream) (n : Nat) (m : ShardMsg) : Option Xfer :=
  (x.outOf n m.src).find? fun f => f.phase == m.phase.toNat && f.lvl == m.lvl && f.dst == m.dst && f.child == m.child

/-- A shard's elements take their place (R245, R248). -/
def takeShard (s : State) (h : Nat) (m : ShardMsg) : State :=
  let x := s.stream h
  let (n, mine) := x.slots s
  if x.st != .active || !mine.contains m.dst || mine.contains m.src then s
  else match x.xferOf n m with
    | none => s
    | some f =>
      let es := ((f.els.drop (4096 * m.ord)).take 4096).zip m.words
      let j := f.dst / 8 ^ f.lvl
      let y : Stream := if f.phase = 0 ∧ x.reduces then
          { x with kids := x.kids ++ ((es.filter fun k => (x.kid f.lvl j f.child k.1).isNone).map fun k => ((f.lvl, j, f.child, k.1), k.2)) }
        else { x with vals := es.foldl (fun t k => Tab.insert t k.1 k.2) x.vals }
      advance (s.setStream h { y with took := y.took ++ [((f.phase, f.lvl, f.src, f.dst), m.ord)] }) h

/-- ENGINE_SHARD_ARRIVAL (R245, R248). -/
def execEngineShardArrival (h : Handle) (m : ShardMsg) (s : State) : Res := .next (takeShard s h m)

/-- Words of a contribution tile. -/
def tileWords (bs : List Byte) : List W32 := (chunks 4 bs.length bs).map fun b => BitVec.ofNat 32 (ofLe b)

/-- A contribution at the engine (R244), and the answer to its sender: accepted, taken already, or not posted yet. One for a
stream that is ABORTED is dropped (R262). -/
def takeContribution (s : State) (h : Nat) (m : TileMsg) : State × Option Nat :=
  let x := s.stream h
  let (_, mine) := x.slots s
  let key := m.rtag.toNat * 65536 + m.ord.toNat
  if x.st == .aborted then (s, none)
  else if x.st == .done then (s, some 1)
  else if x.st != .active then (s, some 2)
  else if !x.reduces || m.tag ≠ x.tagRec || decide (mine.length * x.nlocal ≤ m.rtag.toNat) ||
      decide (m.tfmt.toNat ≠ if x.e ≤ 128 then 5 else 1) || decide (ceilDiv x.e x.per ≤ m.ord.toNat) then (s, none)
  else if (Tab.find x.contrib key).isSome then (s, some 1)
  else (advance (s.setStream h { x with contrib := Tab.insert x.contrib key (tileWords m.data) }) h, some 0)

/-- CONTRIBUTION_ARRIVAL (R244): acknowledged at the sender's ledger as on the module (R101). -/
def execContributionArrival (h : Handle) (t : TileMsg) (s : State) : Res :=
  match takeContribution s h t with
  | (s1, none) => .next s1
  | (s1, some code) => .next ((if code = 2 then noteRefusal s1 t else s1).emit (.tileAck (t.srcMod, t.home, t.engine, t.seq) code))

/-! ### Opening and closing (R243, R244, R280, R281) -/

/-- Bytes 0 to 39 of the stream entry in a STREAM OPEN. -/
def entOf (e : Entry) (k n : Nat) : Nat := entNum e (24 + k) n

/-- The stream an entry describes. -/
def streamOf (s : State) (o : Op) : Stream :=
  let e := o.desc
  let g := entOf e 1 1 / 16
  { st := .open_, op := entOf e 1 1 % 16, group := fin 15 g, inst := fin 15 (entOf e 2 1 % 16), cls := bit (entOf e 2 1) 4,
    tagv := bit (entOf e 2 1) 5, close := bit (entOf e 2 1) 6, loss := bit (entOf e 2 1) 7, keygen := BitVec.ofNat 8 (entOf e 3 1),
    tag := BitVec.ofNat 16 (entOf e 4 2), layer := entOf e 6 2 % 4096, norm := bit (entOf e 6 2) 15,
    step := BitVec.ofNat 32 (entOf e 8 4), e := entOf e 12 4, nlocal := entOf e 16 2 % 4096, root := entOf e 20 4,
    src := entOf e 24 8, result := entOf e 32 8, epoch := BitVec.ofNat 32 (grpEpoch s g), opener := some o }

/-- The entry's reserved fields and ranges (R243). -/
def streamEntOk (s : State) (e : Entry) : Bool :=
  let op := entOf e 1 1 % 16
  entOf e 0 1 == 0 && bits (entOf e 6 2) 14 12 == 0 && (op == 0 || decide (1 ≤ entOf e 12 4)) && decide (entOf e 12 4 ≤ 2 ^ 28) &&
    decide (entOf e 16 2 < 4096) && entOf e 18 2 == 0 && (op == 1 || entOf e 20 4 == 0) && decide (entOf e 20 4 < 2 ^ 20) &&
    (op != 1 || decide (entOf e 20 4 < slotsOf s (entOf e 1 1 / 16))) && (op == 1 || op == 3 || entOf e 24 8 == 0) &&
    (bit (entOf e 2 1) 5 || entOf e 4 2 == 0)

/-- Whether an engine may read or write one page for a stream (R201): pages of its instance, of its tag, or for class
OPERATOR the group's BASE pages, written only while the partition is not frozen. -/
def streamPageOk (s : State) (h : Nat) (x : Stream) (i : Nat) (wr : Bool) (a pg : Nat) : Verdict :=
  let r := s.page pg
  let at_ := max a (pg * Config.pageBytes)
  if r.barred (some (.stream h)) then .viol 5 at_
  else match r.kind with
    | .base =>
      if x.cls then .viol 2 at_ else if r.part ≠ x.group then .viol 3 at_
      else if wr && (s.part x.group).frozen then .viol 4 at_ else .ok
    | .act | .stage => if x.tagv then .viol 2 at_ else if r.inst.val = i then .ok else .viol 3 at_
    | .adgrad => if x.tagv && r.tag == x.tag then (if r.inst.val = i then .ok else .viol 3 at_) else .viol 2 at_
    | _ => .viol 2 at_

/-- The instance in whose name an engine reaches memory for a stream: its own, or that of the ring that opened it. -/
def Stream.actor (x : Stream) : Nat := if x.cls then x.inst.val else (x.opener.map fun o => o.inst.val).getD x.inst.val

/-- An engine's access to a device-side range for a stream. -/
def streamAccess (s : State) (h : Nat) (x : Stream) (wr : Bool) (a n : Nat) : Verdict :=
  match addrOf a with
  | .bad => .viol 7 a
  | .io y => ioCheck s x.actor wr y n
  | .dev y => if Config.devMemEnd < y + n then .viol 7 a
    else Verdict.first ((span Config.pageBytes y n).map (streamPageOk s h x x.actor wr y))

/-- Elements that a module's slots own, slot by slot (R250). -/
def ownedEls (mine : List Nat) (e n : Nat) : List Nat := mine.flatMap fun q => nodeEls 0 q e n

/-- The elements whose values SRC gives: all of them at the root of a BROADCAST, the owned ones of an ALLGATHER. -/
def Stream.srcEls (x : Stream) (n : Nat) (mine : List Nat) : List Nat :=
  if x.op = 1 then (if mine.contains x.root then List.range x.e else [])
  else if x.op = 3 then ownedEls mine x.e n else []

/-- The bytes at SRC: tagged data stands in host memory as ciphertext (R128, R208). -/
def srcBytes (s : State) (x : Stream) (n : Nat) : List Byte :=
  match addrOf x.src, x.tagv with
  | .io y, true => unxts (s.key x.tag.toNat).key y (opRead s x.actor x.src n)
  | _, _ => opRead s x.actor x.src n

/-- A stream becomes ACTIVE at an epoch (R243): it takes what SRC holds, and starts. -/
def activate (s : State) (h : Nat) : State :=
  let x := s.stream h
  let (n, mine) := x.slots s
  let es := x.srcEls n mine
  let vals := (es.zip (tileWords (srcBytes s x (4 * es.length)))).foldl (fun t k => Tab.insert t k.1 k.2) x.vals
  let s := if x.barrier then noteArrivals s x.group [] else s
  advance (s.setStream h { x with st := .active, epoch := BitVec.ofNat 32 (grpEpoch s x.group), vals := vals }) h

/-- STREAM_OPEN (R243, R244, R280, R281, R283): it completes when the stream is DONE or ABORTED. A CAST waits for its
step (R252), any stream for its group to be STABLE, and an open for the roll of its engine's quadrant (R372). -/
def execStreamOpen (i : Inst) (r : RingId) (q : W32) (s : State) : Res :=
  withOp s i r q 0x31 (some 0) fun o =>
    let e := o.desc
    let h := entNum e 4 2
    let x := streamOf s o
    let (n, mine) := x.slots s
    if o.parked || rolling s 2 == some (h / 1024) then s
    else if !headOk e || decide (4096 ≤ h) || !zeroAt e [(6, 18)] || !streamEntOk s e then malformedOp s o
    else if 5 < x.op then refuseOp s o 4
    else if (!x.cls && !o.mgr) || (x.cls && (x.inst ≠ i || partOf s i != some x.group.val)) then refuseOp s o 7
    else if (s.stream h).st != .free || !formed s x.group || decide (4096 < mine.length * x.nlocal) then refuseOp s o 4
    else match streamAccess s h x false x.src (4 * (x.srcEls n mine).length) with
      | .ok =>
        let s1 := (setOp s { o with parked := true }).setStream h x
        (if (s.grp x.group).st == .stable && x.op ≠ 5 then activate s1 h else s1)
      | v => accessOp s o v

/-- STREAM_CLOSE (R280, R281): a DONE or ABORTED stream becomes FREE. -/
def execStreamClose (i : Inst) (r : RingId) (q : W32) (s : State) : Res :=
  withOp s i r q 0x31 (some 1) fun o =>
    let h := entNum o.desc 4 2
    let x := s.stream h
    if !headOk o.desc || decide (4096 ≤ h) || !zeroAt o.desc [(6, 58)] then malformedOp s o
    else if x.st != .free && ((!x.cls && !o.mgr) || (x.cls && x.inst ≠ i)) then refuseOp s o 7
    else if !(x.st == .done || x.st == .aborted) then refuseOp s o 4
    else completeOp (s.setStream h {}) o 0 0

/-! ### Cast (R252, R253) -/

/-- Pad bytes with zeros to a multiple of 64. -/
def pad64 (bs : List Byte) : List Byte := bs ++ List.replicate ((64 - bs.length % 64) % 64) 0#8

/-- A Cast record and its data (R253); `at_` is where it is written. Tagged data leaves as ciphertext under its address. -/
def castRecord (s : State) (x : Stream) (at_ kind stream slot : Nat) (tag : TagRec) (tid first count : Nat) (data : List Byte) : List Byte :=
  let d := pad64 data
  let bs := match tag with
    | some t => xtsRun (s.key t.toNat).key (at_ % 2 ^ 47 + 64) d
    | none => d
  let outcome := match (stepRec s x.group x.step).outcome with
    | .suppressed => 1
    | .discarded => 2
    | _ => 0
  leBytes 64 (packFields [(8, kind), (8, stream), (8, match tag with | some t => (s.key t.toNat).keygen.toNat | none => 0),
    (8, if kind = 0 then outcome else 0), (32, x.step.toNat), (32, slot), (32, slotsOf s x.group), (16, (tag.getD 0#16).toNat), (16, 0),
    (32, tid), (64, first), (64, count), (64, (baseFp s x.group).toNat), (64, (digest (words64 bs)).toNat), (32, x.epoch.toNat), (32, 0)]) ++ bs

/-- The CONTROL record's data (R253). -/
def controlData (s : State) (p : Nat) : List Byte :=
  leBytes 64 (packFields [(8, fget s (Reg.lsState p) 31 26 + (if 32 ≤ fget s (Reg.lsState p) 31 26 then 192 else 0)), (8, 0),
    (16, fget s (Reg.lsState p) 15 0), (32, fget s (Reg.lsState p) 63 32), (32, fget s (Reg.tnEma p) 31 0),
    (32, fget s (Reg.tnEma p) 63 32), (16, fget s (Reg.tnWarm p) 15 0)])

/-- Insert an update by the address of its gradient: the shards of one tensor ascend with their slots (R209). -/
def insertShard (x : RanUpd) : List RanUpd → List RanUpd
  | [] => [x]
  | y :: ys => if blkStream x.block 0 < blkStream y.block 0 then x :: y :: ys else y :: insertShard x ys

/-- A record of an export: what castRecord writes (R252, R253). -/
structure CastRec where
  kind   : Nat
  strm   : Nat := 0
  slot   : Nat
  tag    : TagRec := none
  tid    : Nat := 0
  first  : Nat := 0
  count  : Nat := 0
  data   : List Byte := []

/-- The streams M, S1, S2 and W of an adapter's last applied step: of the updates that ran here, or at an owner promoted since (R259) of
the mirror that it took. -/
def castAdapter (s : State) (slot t : Nat) : List CastRec :=
  let tag : Tag := BitVec.ofNat 16 t
  let ran := ((s.ran.filter fun (r : RanUpd) => !r.base && r.tag == tag).getLast?).map (·.step)
  let mk := fun (tid i count : Nat) (data : List Byte) =>
    ({ kind := 1, strm := i, slot := slot, tag := some tag, tid := tid, count := count, data := data } : CastRec)
  let own := fun (n : W32) => (ranOf s tag n).flatMap fun r => ((List.range 5).drop 1).filterMap fun i =>
    if bit (blkMask r.block) i then some (mk r.tid i (blkNelem r.block) (streamBytesOf s (s.desc t).inst r.block i)) else none
  let took := fun (m : Mirror) => m.upds.flatMap fun u => [(1, u.m), (2, u.s1), (3, u.s2), (4, u.w)].filterMap fun (i, bs) =>
    if bit (blkMask u.block) i then some (mk u.tid.toNat i (blkNelem u.block) bs) else none
  match Tab.find s.mirrors t, ran with
  | some (m, _), some n => if 0 < sdiff32 m.step n then took m else own n
  | some (m, _), none => took m
  | none, some n => own n
  | none, none => []

/-- The records of an export in order (R252). FIRST of a base shard is where its slot's elements begin in the tensor (R209). -/
def castPlan (s : State) (x : Stream) : List CastRec :=
  let (n, mine) := x.slots s
  let p := x.group.val
  let ad := (tagsOf s p fun d => d.role == .owner).flatMap (castAdapter s (mine.headD 0))
  let base := s.ran.filter fun (r : RanUpd) => r.base && r.part == x.group
  let lastB := base.getLast?.map (·.step)
  let shards := (base.filter fun (r : RanUpd) => some r.step == lastB).foldr insertShard []
  let slotOf := fun (r : RanUpd) =>
    let same := shards.filter fun (y : RanUpd) => y.tid == r.tid
    mine.getD ((same.findIdx? fun y => y == r).getD 0) (mine.headD 0)
  mine.flatMap (fun q => ({ kind := 0, slot := q, data := controlData s p } : CastRec) :: (if q = mine.headD 0 then ad else []) ++
    (shards.filter fun r => slotOf r == q).flatMap fun r => [1, 2, 3].filterMap fun i =>
      if bit (blkMask r.block) i then
        some { kind := 2, strm := i, slot := q, tid := r.tid, first := ownLo q (Config.tensorElems p r.tid) n, count := blkNelem r.block,
               data := streamBytesOf s (fin 15 x.actor) r.block i }
      else none) ++ [{ kind := 3, slot := mine.headD 0 }]

/-- The export's bytes, record by record (R252, R253). -/
def castExport (s : State) (x : Stream) : List Byte :=
  (castPlan s x).foldl (fun bs r =>
    bs ++ castRecord s x (x.result + bs.length) r.kind r.strm r.slot r.tag r.tid r.first r.count r.data) []

/-- CAST (R252): an OPEN Cast begins once its step is decided and stage 12 has finished. -/
def execCast (h : Handle) (s : State) : Res :=
  let x := s.stream h
  if x.op = 5 ∧ x.st = .open_ ∧ (s.grp x.group).st = .stable ∧ stage12Done s x.group x.step = true then .next (activate s h)
  else .next s

/-! ### Completion (R248, R250) -/

/-- Everything has arrived, and everything has left and been acknowledged. -/
def streamReady (s : State) (h : Nat) : Bool :=
  let x := s.stream h
  let (n, mine) := x.slots s
  let ins := x.incoming n mine
  let heard := ins.all fun f => decide ((ins.filter fun g => g.lvl == f.lvl && g.src == f.src && g.dst == f.dst).length ≤
    (x.heard.filter fun k => k == (f.lvl, f.src, f.dst)).length)
  let need := if x.op = 2 then ownedEls mine x.e n else if x.barrier then [] else List.range x.e
  let sent := (x.outgoing n mine).all fun f =>
    x.wasSent f 0 && (List.range (ceilDiv f.els.length 4096)).all fun t => x.wasSent f (t + 1)
  heard && need.all (fun e => (Tab.find x.vals e).isSome) && sent &&
    !(s.sent.any fun y => y.dkind == 3 && y.dest % 4096 == h)

/-- The result's bytes: all E elements, or the owned ranges of the slots here (R250). -/
def streamResult (s : State) (x : Stream) : List W32 :=
  let (n, mine) := x.slots s
  if x.barrier then []
  else (if x.op = 2 then ownedEls mine x.e n else List.range x.e).map fun e => Tab.get 0#32 x.vals e

/-- Write a result: tagged data leaves for the host as ciphertext (R128). -/
def writeResult (s : State) (x : Stream) (bs : List Byte) : State :=
  match addrOf x.result, x.tagv && !x.barrier with
  | .io y, true => hostWrite s x.actor y (xtsRun (s.key x.tag.toNat).key y (pad64 bs))
  | .io y, false => hostWrite s x.actor y bs
  | .dev y, _ => devWrite s y bs
  | .bad, _ => s

/-- GSQ of a completed reduction (R148, R171, R248): of the whole result at TAG's owner (R250), of each
slot's own slice when TAGV = 0 (R167). -/
def streamNorm (s : State) (x : Stream) : State :=
  let (n, mine) := x.slots s
  let p := x.group.val
  let add := fun (s : State) (base : Bool) (who : Nat) (vs : List W32) =>
    let (q, o1) := sumSquares vs
    let (v, o2) := scaleGsq s p x.step q
    let (s1, o3) := addGsq s base who x.layer x.step v
    (engineOvf s1 x (o1 + b2n o2 + o3), v)
  let addBase := fun (s : State) (q : Nat) (vs : List W32) =>
    let (s1, v) := add s true p vs
    addSlotGsq s1 p q x.layer x.step v
  if !x.norm || x.barrier then s
  else if x.tagv then
    if (s.desc x.tag.toNat).role == .owner && (s.desc x.tag.toNat).st != .free then
      (add s false x.tag.toNat ((if x.op = 2 then ownedEls mine x.e n else List.range x.e).map fun e => Tab.get 0#32 x.vals e)).1
    else s
  else mine.foldl (fun t q => addBase t q ((nodeEls 0 q x.e n).map fun e => Tab.get 0#32 x.vals e)) s

/-- The step loss of a reduction marked LOSS (R143, R162): recorded while the closing reduction of its step has not completed. -/
def streamLoss (s : State) (x : Stream) : State :=
  if x.loss && !x.barrier && decide (sdiff32 (ctxStep s x.group) x.step < 0) && !((s.lsc x.group).closed.any fun c => c.1 == x.step) then
    updStep s x.group x.step fun r => { r with loss := some (Tab.get 0#32 x.vals 0) }
  else s

/-- A closing reduction that completed delivers its OR to the LSU (R140, R141, R251). -/
def streamClose (s : State) (x : Stream) : State :=
  if x.close then s.setLsc x.group { s.lsc x.group with closed := (s.lsc x.group).closed ++ [(x.step, x.ovf)] } else s

/-- A completed reduction of a tag leaves no unreduced contribution in its gradient buffer (R133). -/
def streamClean (s : State) (x : Stream) : State :=
  if x.tagv && x.reduces then s.updDesc x.tag.toNat fun d => { d with gradDirty := false } else s

/-- The stream is DONE (R250). -/
def finishStream (s : State) (h : Nat) (bs : List Byte) : State :=
  let s0 := if (s.stream h).close then sampleFlag s h else s
  let x := s0.stream h
  let s1 := streamClose (streamClean (streamLoss (streamNorm (writeResult s0 x bs) x) x) x) x
  let keep := if x.op = 1 then x.vals else []
  let s2 := finc (s1.setStream h { x with
    st := .done, opener := none, contrib := [], kids := [], nodes := [], heard := [], sentTo := [], vals := keep })
    (Reg.ceStat (h / 1024)) 31 0 1
  match x.opener with
  | some o => completeOp s2 o 0 x.epoch.toNat
  | none => s2

/-- STREAM_DONE (R250, R252): with everything in place the result is written at RESULT. A RESULT that the access check refuses
aborts the stream, and an export beyond its capacity aborts the Cast. -/
def execStreamDone (h : Handle) (s : State) : Res :=
  let x := s.stream h
  if x.st != .active || !streamReady s h then .next s
  else
    let bs := if x.op = 5 then castExport s x else (streamResult s x).flatMap fun v => leBytes 4 v.toNat
    if x.op = 5 ∧ 4096 * x.e < bs.length then .next (abortStream s h 9 .aborted)
    else match if bs.isEmpty then .ok else streamAccess s h x true x.result bs.length with
      | .ok => .next (finishStream s h bs)
      | .viol k a => .next (abortStream (countViol s x.actor k a) h 7 .aborted)
      | .fence _ _ => .next (abortStream s h 7 .aborted)

/-! ### Groups (R236 to R241, R254) -/

/-- A group's state, as CE_GRPSTAT and FB_GROUP show it (R237, R240, R263). -/
def setGState (s : State) (g : Nat) (x : GState) : State :=
  let s1 := fset (s.setGrp g { s.grp g with st := x }) (Reg.ceGrpstat g) 63 60 x.code
  fset s1 (Reg.fbGroup g) 31 31 (b2n (x == .changing || x == .noquorum || x == .resetting))

/-- The entries of a group's slot map. -/
def mapEntries (s : State) (g : Nat) : List Nat := (List.range (slotsOf s g)).map (slotEntry s g)

/-- The digest of a group's slot map (R183, R241). -/
def mapDigest (s : State) (g : Nat) : W64 := digest (mapEntries s g)

/-- The map can be formed on: 1 to 2^20 slots, all LIVE with reserved bits zero, this module among them. -/
def mapOk (s : State) (g : Nat) : Bool :=
  let q := slotsOf s g
  1 ≤ q && decide (q ≤ 2 ^ 20) && written s (Reg.ceSlotmap g) &&
    (mapEntries s g).all (fun e => bit e 31 && bits e 30 19 == 0) && !(mySlots s g).isEmpty

/-- A write of CE_GRPCFG's fields; FORM and RESET are requests and read zero. -/
def writeGrpcfg (s : State) (g v : Nat) : State :=
  fset (regWritePlain s (Reg.ceGrpcfg g) v) (Reg.ceGrpcfg g) 63 62 0

/-- Contexts of a group pass between two states. -/
def moveContexts (s : State) (g frm nxt : Nat) : State :=
  { s with peers := s.peers.map fun kv => (kv.1, if kv.2.group.val = g ∧ kv.2.st = frm then { kv.2 with st := nxt } else kv.2) }

/-- The start of a timer that stood still since a change began (R105, R237). -/
def resumed (s : State) (began t : W64) : W64 := BitVec.ofNat 64 (t.toNat + (s.time.toNat - max began.toNat t.toNat))

/-- The posted receives of a partition's items count no time during its group's change (R105, R237; assumption log 165). -/
def resumeRcvs (s : State) (g : Nat) (began : W64) : State :=
  let mine := fun (key : Option Nat) => key.any fun k => (s.ledAt k).any fun e => ledPart s e == g
  let shift := fun (c : Core) => { c with rcvs := c.rcvs.map fun (r : Rcv) => { r with time := resumed s began r.time } }
  { s with
    cores := s.cores.map fun kv => (kv.1, if mine kv.2.item then shift kv.2 else kv.2)
    ctx := s.ctx.map fun kv => (kv.1, if mine (some kv.2.led) then { kv.2 with core := shift kv.2.core } else kv.2) }

/-- Re-stamp a retained tile and send it at once (R238): a shard that left before takes its next route (R229), which counts
as no attempt; one that the change has held since it was ready leaves for the first time, on route 0. The tile's timer goes on
from where the change, which began at `began`, stopped it (R105, R237). -/
def restamp (began : W64) (s : State) (x : Sent) : State :=
  if x.waits then s
  else
    let since := resumed s began x.time
    let y := { x with time := since, shards := x.shards.map fun (h : Shard) =>
      { h with route := if h.started then (h.route + 1) % 4 else 0, last := s.time, started := true } }
    let again := (x.shards.filter (·.started)).length
    (x.shards.zip y.shards).zipIdx.foldl (fun t (h : (Shard × Shard) × Nat) => sendShard t y h.2 h.1.2.route h.1.1.started)
      (finc (setSent s y) Reg.fbRetry 63 32 again)

/-- A newer epoch than the group's is signalled to the collective engine (R237). -/
def noteAhead (s : State) (g e : Nat) : State := s.setGrp g { s.grp g with ahead := BitVec.ofNat 32 e }

/-- The epoch after E (R236). -/
def nextEpoch (e : Nat) : Nat := if e + 1 < 2 ^ 32 then e + 1 else 1

/-- Handles of a group's streams that are neither FREE nor ended. -/
def groupStreams (s : State) (g : Nat) : List Nat :=
  (s.streams.filter fun kv => kv.2.group.val == g && (kv.2.st == .open_ || kv.2.st == .active)).map (·.1)

/-- Install an epoch (R236, R238, R256): streams that are not DONE abort, contexts of members become ACTIVE at it, those of modules that
left CLOSED, their items stopped and their assembly entries discarded, and what is unacknowledged is resent. Of the suspects, members that
this module named stay so (R262). -/
def installEpoch (s0 : State) (g e : Nat) (st : Stop) : State :=
  let s := (groupStreams s0 g).foldl (fun t h => abortStream t h 9 .aborted) s0
  let ms := members s g
  let mine := fun (kv : Nat × Peer) => kv.2.group.val == g && (kv.2.st == 1 || kv.2.st == 2)
  let stay := fun (kv : Nat × Peer) => ms.contains kv.2.remmod.toNat
  let gone := (s.peers.filter fun kv => mine kv && !stay kv).map (·.1)
  let live := (s.peers.filter fun kv => mine kv && stay kv).map (·.1)
  let items := dedup ((s.sent.filter fun (x : Sent) => x.dkind == 1 && gone.contains x.dest).map (·.led))
  let s1 := fset (setGState s g .stable) (Reg.fbGroup g) 63 32 e
  let s2 := { s1 with peers := s1.peers.map fun kv => (kv.1,
    if mine kv then (if stay kv then { kv.2 with st := 1, epoch := BitVec.ofNat 32 e } else { kv.2 with st := 3 }) else kv.2) }
  let s3 := items.foldl (fun t k => stopKey t k st) s2
  let began := (s.grp g).start
  let mine := mySuspects s g |>.filter ms.contains
  let s4 := (dropAsmOf (resumeRcvs s3 g began) gone.contains).setGrp g { s3.grp g with
    voted := [], suspects := if mine.isEmpty then [] else [(modId s, mine)], resetReq := false, bar := {}, ahead := 0#32 }
  (s4.sent.filter fun (x : Sent) => x.dkind == 1 && live.contains x.dest).foldl (restamp began) s4

/-- Assembly entries of a group's contexts and streams are discarded (R254). -/
def dropAsm (s : State) (g : Nat) : State :=
  { s with asm := s.asm.filter fun a => match readHdr a.hdr with
      | some (h, _, _) => if h.engine then (s.stream (h.dstCtx % 4096)).group.val ≠ g else (s.peer h.dstCtx).group.val ≠ g
      | none => true }

/-! ### Barriers under no handle: formation and reset (R241, R254; assumption log 169) -/

/-- Send what headers of the barrier can leave by now: OP, and in a formation the map's digest. -/
def barSend (s : State) (g op : Nat) (digest : Option W64) : State :=
  let (n, mine) := (s.grp g).bar.slots s
  ((s.grp g).bar.outgoing n mine).foldl (fun t f =>
    let x := (t.grp g).bar
    if x.wasSent f 0 || !x.reached n mine (f.lvl - 1) f.src then t
    else
      let u := t.setGrp g { t.grp g with bar := { x with sentTo := x.sentTo ++ [((f.phase, f.lvl, f.src, f.dst), 0)] } }
      u.emit (.header g ((slotMod s g f.dst).getD 0) (headerBytes (x.header s op digest f)))) s

/-- A barrier starts: nothing has arrived. -/
def barStart (s : State) (g op : Nat) (digest : Option W64) : State :=
  barSend (noteArrivals (s.setGrp g { s.grp g with bar := { op := 0, group := fin 15 g, st := .active } }) g []) g op digest

/-- Headers arrive, and others may leave. -/
def barTake (s : State) (g op : Nat) (digest : Option W64) (ms : List HeaderMsg) : State :=
  ms.foldl (fun t m =>
    let x := (t.grp g).bar
    let y := { x with heard := x.heard ++ [(m.lvl, m.src, m.dst)] }
    barSend (noteArrivals (t.setGrp g { t.grp g with bar := y }) g y.heard) g op digest) s

/-- Every header that comes to this module's slots has been taken. -/
def barDone (s : State) (g : Nat) : Bool :=
  let x := (s.grp g).bar
  let (n, mine) := x.slots s
  x.st == .active && (x.incoming n mine).all fun f => x.heard.contains (f.lvl, f.src, f.dst)

/-- A group reset starts here and spreads (R254). -/
def startReset (s : State) (g : Nat) : State :=
  let s1 := moveContexts (setGState s g .resetting) g 1 2
  barStart (s1.setGrp g { s1.grp g with start := s.time }) g 6 none

/-- A group has formed (R236, R241): epoch 1 installs. A reset requested while it had no quorum starts now (R254). -/
def formGroup (s : State) (g : Nat) : State :=
  let reset := (s.grp g).resetReq
  let s1 := installEpoch s g 1 .aborted
  if reset then startReset s1 g else s1

/-- GROUP_FORM (R241): the barrier with every member's map digest; FORMFAIL where one differs. A group that is formed
and has its quorum stays as it is. -/
def execGroupForm (g : Part) (v : W64) (heard : List HeaderMsg) (s : State) : Res :=
  hostWide s 0 (Reg.ceGrpcfg g) fun s0 =>
    let s1 := writeGrpcfg s0 g v.toNat
    let st := (s.grp g).st
    if !bit v.toNat 63 || !(st == .unformed || st == .formfail || st == .noquorum) then s1
    else
      let d := mapDigest s1 g
      if !mapOk s1 g || heard.any fun m => !m.form || m.digest ≠ d then
        cfgMismatch (setGState (barStart s1 g 0 (some d)) g .formfail) 0 g
      else
        let s2 := barTake (barStart s1 g 0 (some d)) g 0 (some d) heard
        if barDone s2 g then formGroup s2 g else s2

/-- A write of CE_GRPCFG with RESET (R254, R262): one requested while the group is CHANGING, or has no quorum (R258), waits for the
install. -/
def requestReset (s : State) (g v : Nat) : State :=
  let s1 := writeGrpcfg s g v
  match bit v 62, (s.grp g).st with
  | true, .stable => startReset s1 g
  | true, .changing | true, .noquorum => s1.setGrp g { s1.grp g with resetReq := true }
  | _, _ => s1

/-- GROUP_RESET (R254). -/
def execGroupReset (g : Part) (v : W64) (s : State) : Res := hostWide s 0 (Reg.ceGrpcfg g) fun t => requestReset t g v.toNat

/-- A reset's effect once its barrier is complete (R254). -/
def applyReset (s : State) (g : Part) : State :=
  let s1 := (groupStreams s g).foldl (fun t h => abortStream t h 0x0A .grpReset) s
  let items := dedup ((s1.sent.filter fun (x : Sent) => x.dkind == 1 && (s1.peer x.dest).group.val == g.val).map (·.led))
  let s2 := items.foldl (fun t k => stopKey t k .grpReset) s1
  installEpoch (dropAsm s2 g) g (nextEpoch (grpEpoch s2 g)) .grpReset

/-- GROUP_RESET_APPLY (R254): headers with OP 6 arrive, and a member that has not asked for the reset joins it; once the barrier is
complete, streams abort, items that hold tiles in the group's contexts stop, epoch E + 1 installs. -/
def execGroupResetApply (g : Part) (heard : List HeaderMsg) (s : State) : Res :=
  let ms := heard.filter fun m => m.op = 6#8
  let s1 := if (s.grp g).st == .stable && !ms.isEmpty then startReset s g else s
  if (s1.grp g).st != .resetting then .next s
  else
    let s2 := barTake s1 g 6 none ms
    .next (if barDone s2 g then applyReset s2 g else s2)

end Sys2Proof.Machine
end

