-- ==== Sys2Proof/Machine/Memb.lean ====
section
/-! DEFINITION. The membership protocol (R236 to R238, R256 to R259, R262): suspects, the change's messages, the coordinator's
decision, and what a COMMIT installs. -/

namespace Sys2Proof.Machine

/-! ### Suspects and the new map (R258) -/

/-- Everyone suspected in a group. -/
def suspected (s : State) (g : Nat) : List Nat := dedup ((s.grp g).suspects.flatMap (·.2))

/-- Add suspects that a module named. -/
def addSuspects (s : State) (g a : Nat) (bs : List Nat) : State :=
  let x := s.grp g
  let old := ((x.suspects.find? fun k => k.1 == a).map (·.2)).getD []
  s.setGrp g { x with suspects := x.suspects.filter (fun k => k.1 ≠ a) ++ [(a, dedup (old ++ bs))] }

/-- The module of every slot. -/
def slotMods (s : State) (g : Nat) : List Nat := (mapEntries s g).map fun e => bits e 18 0

/-- The module that holds the next higher slot, cyclically, whose module is not removed (R258 step 5). -/
def heirOf (ms : List Nat) (out : List Nat) (q : Nat) : Nat :=
  ((ms.drop (q + 1) ++ ms.take q).find? fun m => !(out.contains m)).getD (ms.getD q 0)

/-- The map with the slots of `out` reassigned. -/
def newMods (s : State) (g : Nat) (out : List Nat) : List Nat :=
  let ms := slotMods s g
  ms.zipIdx.map fun x => if out.contains x.1 then heirOf ms out x.2 else x.1

/-- Write the new map (R258 step 4). -/
def writeMap (s : State) (g : Nat) (out : List Nat) : State :=
  let ms := newMods s g out
  { s with dev := Memory.write s.dev (rd s (Reg.ceSlotmap g)) (ms.flatMap fun m => leBytes 4 (m + 2 ^ 31)) }

/-- The removed set, or none without a quorum (R258 step 3). -/
def removedSet (ms voters : List Nat) (by_ : List (Nat × List Nat)) : Option (List Nat) :=
  let sus := by_.flatMap (·.2)
  let out0 := ms.filter fun m => !(voters.contains m) && !(sus.contains m)
  let out := (dedup (by_.map (·.1))).foldl (fun o a =>
    if o.contains a then o else (((by_.find? fun k => k.1 == a).map (·.2)).getD []).foldr insertAsc o) out0
  if ms.length - out.length ≤ ms.length / 2 ∨ 2042 < out.length then none else some out

/-! ### Messages along the broadcast paths (R248, R258) -/

/-- Modules to which this one passes a message that slot `root`'s module sends over a map: the scatter's children. -/
def forwardTo (me : Nat) (ms : List Nat) (root : Nat) : List Nat :=
  let n := ms.length
  let lv := log8 n
  let mine := (List.range n).filter fun q => ms.getD q 0 == me
  (dedup (mine.flatMap fun p => (List.range lv).flatMap fun l =>
    let c := p / 8 ^ l
    let j := c / 8
    if scatHead n root lv (lv - (l + 1)) j = p then
      ((childrenOf (l + 1) j n).filter fun i => decide (8 * j + i ≠ c)).map fun i => ms.getD (senderOf (l + 1) j i p n) 0
    else [])).filter (· ≠ me)

/-- The lowest slot of a module. -/
def lowSlot (ms : List Nat) (m : Nat) : Nat := (ms.findIdx? (· == m)).getD 0

/-- Whom this module sends a coordinator's message over a map: the paths start at the coordinator's lowest slot. One that the map leaves
without a slot hands its message to the module of slot 0, where the paths then start (assumption log 174). -/
def castTo (me coord : Nat) (ms : List Nat) : List Nat :=
  if me = coord ∧ !ms.contains me then (ms.take 1) else forwardTo me ms (lowSlot ms coord)

/-- Send a message of a type along the paths of a map, from its coordinator's slot. -/
def castMemb (s : State) (g typ coord : Nat) (out recs : List Nat) : State :=
  (castTo (modId s) coord (newMods s g out)).foldl (fun t d => sendMemb t g d typ coord recs) s

/-! ### The change at a member and at the coordinator -/

/-- Enter CHANGING (R237): contexts HELD, timers paused. -/
def enterChanging (s : State) (g : Nat) : State :=
  if (s.grp g).st == .changing || (s.grp g).st == .noquorum then s
  else
    let s1 := moveContexts (setGState s g .changing) g 1 2
    s1.setGrp g { s1.grp g with start := s.time, since := s.time, voted := [], resetReq := (s.grp g).st == .resetting }

/-- Who coordinates the group's change (R263 CE_GRPCOORD). -/
def setCoord (s : State) (g c : Nat) : State :=
  fset (s.setGrp g { s.grp g with coord := c, since := s.time }) (Reg.ceGrpcoord g) 18 0 c

/-- The partner context of an adapter toward a module: the lowest ACTIVE one of its instance and group. -/
def contextTo (s : State) (g : Nat) (i : Inst) (m : Nat) : Option Nat :=
  (s.peers.find? fun kv => kv.2.st == 1 && kv.2.inst == i && kv.2.group.val == g && kv.2.remmod.toNat == m).map (·.1)

/-- Point an adapter at its new partner, where a context toward it is open. -/
def setPartner (s : State) (g t m : Nat) : State :=
  match contextTo s g (s.desc t).inst m with
  | some c => s.updDesc t fun d => { d with peerctx := BitVec.ofNat 16 c }
  | none => s

/-- The stage 12 by which a new buddy is built for a step (R259). -/
def rebuildStage (s : State) (g : Part) (t : Nat) (n : W32) : State :=
  { s with stage12 := s.stage12.filter (fun x => !(x.tag.toNat == t && !x.done)) ++
      [{ part := g, step := n, tag := BitVec.ofNat 16 t, rebuild := true }] }

/-- The buddy of an owner that was being restored is lost (R131): the adapter stays RESTORING, and a DIGEST fault is reported. -/
def restoreLost (s : State) (t : Nat) (n : W32) : State :=
  report s 8 0x201 0x71 (s.desc t).inst t (n + 1#32).toNat none

/-- The last step whose update an adapter holds here: that of the updates that ran, or at a promoted owner of the mirror it took; before
any, that of the context. -/
def lastStep (s : State) (g : Part) (t : Nat) (promoted : Bool) : W32 :=
  let ran := ((s.ran.filter fun (r : RanUpd) => !r.base && r.tag.toNat == t).getLast?).map (·.step)
  let took := (Tab.find s.mirrors t).map fun m => m.1.step
  (if promoted then took.or ran else ran).getD (ctxStep s g)

/-- A promoted owner has in its update log what the mirror that it took last holds (R259). -/
def logMirror (s : State) (g : Part) (t : Nat) : State :=
  match Tab.find s.mirrors t with
  | some (m, _) => { s with updLog := s.updLog ++ m.upds.map fun u => (g.val, m.step.toNat % 2, u.tid.toNat) }
  | none => s

/-- An owner builds its new buddy from its last applied step (R259); one that was being restored has lost its state (R131). -/
def rebuildOwner (s : State) (g : Part) (t : Nat) (promoted : Bool) : State :=
  let n := lastStep s g t promoted
  if promoted then rebuildStage (logMirror s g t) g t n
  else if (s.desc t).st == .restoring then restoreLost s t n
  else rebuildStage s g t n

/-- The owner and the buddy of an adapter, as a module's engine knows them: itself by ROLE, its partner by PEERCTX, and at a non-owner the
buddy, which no state of the spec names there: a free value (assumption log 175). -/
def rolesOf (s : State) (g t : Nat) : Nat × Nat :=
  let d := s.desc t
  let peer := (s.peer d.peerctx.toNat).remmod.toNat
  match d.role with
  | .owner => (modId s, peer)
  | .buddy => (peer, modId s)
  | _ => (peer, Config.buddyModule t (grpEpoch s g))

/-- Rewrite one adapter's descriptor (R130, R259). An owner that was removed gives its role to the buddy; a vacant role of buddy goes to
the module that received the removed module's lowest slot, or where that is the owner to the next one in slot order. `ms` is the old map,
`ns` the new one, `out` the removed modules. An adapter that lost both keeps what it has. -/
def rewriteRole (s : State) (g : Part) (ms ns out : List Nat) (t : Nat) : State :=
  let d := s.desc t
  let me := modId s
  let (owner, buddy) := rolesOf s g t
  let lostOwner := out.contains owner
  if d.role == .serve || lostOwner == out.contains buddy then s
  else
    let holder := if lostOwner then buddy else owner
    let q := lowSlot ms (if lostOwner then owner else buddy)
    let heir := ((ns.drop q ++ ns.take q).find? (· ≠ holder)).getD holder
    if me = holder then
      rebuildOwner (setPartner (s.updDesc t fun y => { y with role := .owner }) g t heir) g t lostOwner
    else
      let s1 := setPartner s g t holder
      if me = heir then rebuildStage (s1.updDesc t fun y => { y with role := .buddy }) g t (ctxStep s g) else s1

/-- Rewrite the descriptors of a group's adapters (R259). -/
def rewriteRoles (s : State) (g : Part) (ms ns out : List Nat) : State :=
  (tagsOf s g fun _ => true).foldl (fun u tag => rewriteRole u g ms ns out tag) s

/-- The module itself was removed (R258): the group's contexts close, and the collector hears of it. -/
def leaveGroup (s : State) (g : Part) : State :=
  let items := dedup ((s.sent.filter fun (x : Sent) => x.dkind == 1 && (s.peer x.dest).group == g).map (·.led))
  let s1 := { s with peers := s.peers.map fun kv => (kv.1, if kv.2.group = g ∧ kv.2.st ≠ 0 then { kv.2 with st := 3 } else kv.2) }
  let s2 := dropAsm (items.foldl (fun t k => stopKey t k .aborted) s1) g
  let s3 := (groupStreams s2 g).foldl (fun t h => abortStream t h 9 .aborted) s2
  report (setGState s3 g .unformed) 8 0x200 0x52 0 0 g.val none

/-- COMMIT's effect at a member (R238, R256, R258, R259). -/
def applyCommit (s : State) (g : Part) (coord : Nat) (out : List Nat) : State :=
  let ms := slotMods s g
  let ns := newMods s g out
  let began := (s.grp g).start
  let reset := (s.grp g).resetReq
  let s1 := setCoord (writeMap s g out) g coord
  if out.contains (modId s) then leaveGroup s1 g
  else
    let held := fun (c : Nat) => (s.peer c).st == 2 && (s.peer c).group == g
    let s3 := installEpoch s1 g (nextEpoch (grpEpoch s1 g)) .aborted
    let ms_ := min 0xFFFF ((s.time.toNat - began.toNat) / 1000000)
    let s4 := askAgain (rewriteRoles (fset (finc s3 (Reg.ceGrpstat g) 31 16 1) (Reg.ceGrpstat g) 15 0 ms_) g ms ns out) held
    if reset then startReset s4 g else s4

/-- The coordinator decides (R258 step 3): COMMIT, or no quorum. -/
def decideChange (s : State) (g : Part) : State :=
  let x := s.grp g
  match removedSet (members s g) x.voted x.suspects with
  | none => setGState s g .noquorum
  | some out => applyCommit (castMemb s g 4 (modId s) out out) g (modId s) out

/-- Decide once every member not under suspicion has voted (R258 step 3). -/
def decideIfAll (s : State) (g : Part) : State :=
  let x := s.grp g
  if x.st == .changing && x.coord == modId s &&
      (members s g).all (fun m => x.voted.contains m || (suspected s g).contains m) then decideChange s g
  else s

/-- This module coordinates a change: CHANGE goes out (R258 step 2). -/
def coordinate (s : State) (g : Part) : State :=
  let s1 := setCoord (enterChanging s g) g (modId s)
  let s2 := s1.setGrp g { s1.grp g with voted := [modId s] }
  decideIfAll (castMemb s2 g 2 (modId s) (suspected s2 g) (suspected s2 g)) g

/-- This module has suspects (R258 step 1): CHANGING, and its NOTICE to the coordinator, where it is not that itself. -/
def openChange (s : State) (g : Part) : State :=
  let s1 := enterChanging s g
  let c := coordOf s1 g (mySuspects s1 g)
  if c = modId s then coordinate s1 g else sendNotice (setCoord s1 g c) g (mySuspects s1 g)

/-- Send this module's VOTE to the coordinator (R258 step 2, R262). -/
def sendVote (s : State) (g : Part) (c : Nat) : State := sendMemb s g c 3 c (mySuspects s g)

/-- Declare a module suspect in a group (R233, R258 step 1, R262): at most once per epoch. -/
def declare (s : State) (g : Part) (m : Nat) : State :=
  if !formed s g || (mySuspects s g).contains m then s
  else
    let s1 := fset (fset s (Reg.fbGroup g) 30 30 1) (Reg.fbGroup g) 18 0 m
    let s2 := report (finc s1 Reg.fbRetry 31 16 1) 8 0x200 0x51 0 0 (g.val * 2 ^ 20 + m) none
    let s3 := addSuspects s2 g (modId s) [m]
    if (s.grp g).st == .changing || (s.grp g).st == .noquorum then
      let c := (s.grp g).coord
      if c = modId s then decideIfAll s3 g else sendVote s3 g c
    else openChange s3 g

/-! ### Messages that arrive -/

/-- A MEMB payload (R257): type, group, epoch, sender, coordinator and records. -/
structure Memb where
  typ    : Nat
  grp    : Part
  epoch  : Nat
  sender : Nat
  coord  : Nat
  recs   : List Nat
  deriving DecidableEq, Repr

/-- Read a payload; none where its length or a reserved field is wrong. -/
def readMemb (pl : List Byte) : Option Memb :=
  let w := ofLe (pl.take 24)
  let n := bits w 143 128
  let recs := ((chunks 4 pl.length (pl.drop 24)).map ofLe)
  if pl.length ≠ 24 + 4 * n ∨ 2042 < n ∨ bits w 31 8 ≠ 0 ∨ bits w 95 83 ≠ 0 ∨ bits w 127 115 ≠ 0 ∨ bits w 191 144 ≠ 0 ∨
      recs.any (fun r => decide (2 ^ 19 ≤ r)) then none
  else some { typ := bits w 3 0, grp := fin 15 (bits w 7 4), epoch := bits w 63 32, sender := bits w 82 64, coord := bits w 114 96, recs := recs }

/-- A suspect named after the COMMIT of its epoch was sent starts a further change (R262): what a member that has not installed the new
epoch yet says of members. -/
def lateSuspects (s : State) (m : Memb) : State :=
  let ms := members s m.grp
  let sus := m.recs.filter ms.contains
  if (m.typ = 1 ∨ m.typ = 3) ∧ ms.contains m.sender ∧ !sus.isEmpty ∧ (s.grp m.grp).st = .stable then
    coordinate (addSuspects s m.grp m.sender sus) m.grp
  else s

/-- A message of a type for a formed group (R236, R237, R257): `f` acts on one of the group's epoch. A newer epoch is noted; an older one
can still name suspects (assumption log 176). -/
def withMemb (typ : Nat) (pl : List Byte) (s : State) (f : Memb → State) : State :=
  match readMemb pl with
  | some m =>
    let d := sdiff32 (BitVec.ofNat 32 m.epoch) (BitVec.ofNat 32 (grpEpoch s m.grp))
    if m.typ ≠ typ ∨ formed s m.grp = false then s
    else if d = 0 then f m
    else if 0 < d then noteAhead s m.grp m.epoch
    else lateSuspects s m
  | none => s

/-- NOTICE (R258 steps 1 and 2): the coordinator takes the suspects and starts the change, or adds them to the one in progress. -/
def takeNotice (pl : List Byte) (s : State) : State :=
  withMemb 1 pl s fun m =>
    let s1 := addSuspects s m.grp m.sender m.recs
    match (s.grp m.grp).st with
    | .changing => if (s.grp m.grp).coord = modId s then decideIfAll s1 m.grp else coordinate s1 m.grp
    | .noquorum => s1
    | _ => coordinate s1 m.grp

/-- CHANGE (R258 step 2): CHANGING, the message passed on, and the VOTE. -/
def takeChange (pl : List Byte) (s : State) : State :=
  withMemb 2 pl s fun m =>
    sendVote (castMemb (setCoord (enterChanging s m.grp) m.grp m.coord) m.grp 2 m.coord m.recs m.recs) m.grp m.coord

/-- VOTE (R258 step 3): recorded at the coordinator. -/
def takeVote (pl : List Byte) (s : State) : State :=
  withMemb 3 pl s fun m =>
    if (s.grp m.grp).st != .changing || (s.grp m.grp).coord ≠ modId s then s
    else
      let s1 := addSuspects s m.grp m.sender m.recs
      decideIfAll (s1.setGrp m.grp { s1.grp m.grp with voted := insertAsc m.sender (s1.grp m.grp).voted }) m.grp

/-- VOTE_WINDOW_EXPIRY (R258 step 3): VOTEWIN ms after the CHANGE the coordinator decides with the votes it holds. -/
def execVoteWindowExpiry (g : Part) (s : State) : Res :=
  let x := s.grp g
  if x.st == .changing && x.coord == modId s && decide (x.since.toNat + fget s (Reg.ceGrpcfg g) 47 40 * 1000000 ≤ s.time.toNat)
  then .next (decideChange s g) else .next s

/-- COMMIT (R238, R258 steps 4 and 5): passed on along the new map's paths, then installed. A member that this module has named since and
that stays starts a further change at the new epoch (R262). -/
def takeCommit (pl : List Byte) (s : State) : State :=
  withMemb 4 pl s fun m =>
    let s1 := applyCommit (castMemb s m.grp 4 m.coord m.recs m.recs) m.grp m.coord m.recs
    if (s1.grp m.grp).st = .stable ∧ mySuspects s1 m.grp ≠ [] then openChange s1 m.grp else s1

/-- TAKEOVER (R258): the sender coordinates from now on; its change restarts with a CHANGE. -/
def takeTakeover (pl : List Byte) (s : State) : State :=
  withMemb 5 pl s fun m =>
    let s1 := addSuspects (enterChanging s m.grp) m.grp m.sender m.recs
    castMemb (setCoord (s1.setGrp m.grp { s1.grp m.grp with voted := [] }) m.grp m.sender) m.grp 5 m.sender m.recs m.recs

/-- TAKEOVER_TIMEOUT (R258): no CHANGE or COMMIT within TAKEOVER ms makes the coordinator a suspect; the lowest of the rest
sends TAKEOVER and coordinates. -/
def execTakeoverTimeout (g : Part) (s : State) : Res :=
  let x := s.grp g
  if x.st != .changing || x.coord == modId s ||
      decide (s.time.toNat < x.since.toNat + fget s (Reg.ceGrpcfg g) 39 32 * 1000000) then .next s
  else
    let s1 := addSuspects s g (modId s) [x.coord]
    let c := coordOf s1 g (mySuspects s1 g)
    if c = modId s then .next (coordinate (castMemb (setCoord s1 g c) g 5 c (mySuspects s1 g) (mySuspects s1 g)) g)
    else .next (setCoord s1 g c)

end Sys2Proof.Machine
end

