-- ==== Sys2Proof/Machine/Fabric.lean ====
section
/-! DEFINITION. FLP at a module (R217 to R239): packets that arrive, assembly, reports, resends, forwarding, rails, and the
loss of lanes and ports. -/

namespace Sys2Proof.Machine

/-- The quadrant whose bridge die holds a port (R2). -/
def portQuad (p : Nat) : Nat := if p < 12 then p / 3 else if p < 16 then (p - 12) / 2 else p - 14

/-! ### Retained tiles: resends and suspects (R232, R233) -/

/-- The retained tile that a record names. -/
def findSent (s : State) (home : Nat) (engine : Bool) (seq : Nat) : Option Sent :=
  s.sent.find? fun (x : Sent) => (x.dkind == 1 || x.dkind == 3) && x.msg.home.toNat == home && x.msg.engine == engine && x.msg.seq.toNat == seq

/-- The group and the module a retained tile goes to. -/
def sentGroup (s : State) (x : Sent) : Part := if x.dkind = 3 then (s.stream (x.dest % 4096)).group else (s.peer x.dest).group
def sentMod (s : State) (x : Sent) : Nat := if x.dkind = 3 then x.dest / 4096 else (s.peer x.dest).remmod.toNat

/-- Resend a shard at once on the next route, as an attempt; after the third the destination is suspect. -/
def attemptShard (s : State) (x : Sent) (i : Nat) : State :=
  match x.shards[i]? with
  | none => s
  | some h =>
    if heldTile s x then s
    else if 3 ≤ h.attempts then declare s (sentGroup s x) (sentMod s x)
    else
      let h1 : Shard := { attempts := h.attempts + 1, route := (h.route + 1) % 4, last := s.time }
      let y := { x with shards := x.shards.set i h1 }
      sendShard (finc (setSent s y) Reg.fbRetry 63 32 1) y i h1.route true

/-- Resend the shards of a tile by number, as attempts. -/
def attemptShards (s : State) (x : Sent) (is : List Nat) : State :=
  is.foldl (fun t i => match t.sent.find? fun (y : Sent) => y.led == x.led && y.n == x.n with
    | some y => attemptShard t y i
    | none => t) s

/-- A tile was refused (R232): its timers start again, and it is resent after 2 µs. -/
def refuseSent (s : State) (x : Sent) : State :=
  setSent s { x with refused := some s.time, shards := x.shards.map fun (h : Shard) => { h with last := s.time } }

/-- Retention of a tile ends: it is acknowledged (R101, R222, R250). -/
def endRetention (s : State) (x : Sent) : State :=
  if x.dkind = 3 then { s with sent := s.sent.filter fun y => !(y.led == x.led && y.n == x.n) } else acknowledge s x.led x.n

/-- Fields of a record (R222): SEQ, HOME, ENGINE, SHARD, ALLSH, CODE. -/
def recFields (r : Nat) : Nat × Nat × Bool × Nat × Bool × Nat :=
  (bits r 47 0, bits r 50 48, bit r 51, bits r 53 52, bit r 54, bits r 57 55)

/-- A REPORT's record (R222, R232). -/
def reportRecord (s : State) (r : Nat) : State :=
  let (seq, home, engine, shard, all, code) := recFields r
  match findSent s home engine seq with
  | none => s
  | some x =>
    match code with
    | 0 | 1 | 5 => endRetention s x
    | 6 | 7 => attemptShards s x (if all then List.range x.shards.length else [shard])
    | _ => refuseSent s x

/-- A REQ's record (R232): the missing shards are resent; a record whose shard has had its attempts is left to the timer. -/
def reqRecord (s : State) (r : Nat) : State :=
  let (seq, home, engine, shard, all, _) := recFields r
  match findSent s home engine seq with
  | none => s
  | some x =>
    let is := (if all then List.range x.shards.length else [shard]).filter fun i => match x.shards[i]? with
      | some h => decide (h.attempts < 3)
      | none => false
    attemptShards s x is

/-- The records of a payload: 1 to 128 of 8 B with reserved bits zero. -/
def records (pl : List Byte) : Option (List Nat) :=
  let rs := (chunks 8 pl.length pl).map ofLe
  if pl.length % 8 ≠ 0 ∨ rs.isEmpty ∨ 128 < rs.length ∨ rs.any (fun r => decide (2 ^ 58 ≤ r)) then none else some rs

/-! ### Arrival (R231, R237, R321) -/

/-- The group of a header's destination. -/
def hdrGroup (s : State) (h : FHdr) : Part := if h.engine then (s.stream (h.dstCtx % 4096)).group else (s.peer h.dstCtx).group

/-- The epoch check (R237): only a STABLE group at the same epoch takes DATA. -/
def epochOk (s : State) (h : FHdr) : Bool :=
  let g := hdrGroup s h
  (s.grp g).st == .stable && h.epoch == grpEpoch s g

/-- The context check (R231, R246), with R223's protection. -/
def ctxOk (s : State) (h : FHdr) : Bool :=
  if h.engine then
    let x := s.stream h.dstCtx
    decide (h.dstCtx < 4096) && (x.st == .active || x.st == .done) && h.srcCtx == h.dstCtx && (members s x.group).contains h.srcMod &&
      h.inst == x.inst.val && h.tagv == x.tagv && h.tag == (x.tagRec.getD 0#16).toNat && h.sealB == x.seals
  else
    let p := s.peer h.dstCtx
    p.st == 1 && p.remmod.toNat == h.srcMod && p.remctx.toNat == h.srcCtx && p.inst.val == h.inst && h.sealB == (h.tagv || p.cls)

/-- The key that seals a header's tile. -/
def hdrKey (s : State) (h : FHdr) : KeyEnt :=
  (tileKey s (if h.tagv then some (BitVec.ofNat 16 h.tag) else none) (fin 15 h.inst) true).getD {}

/-- A packet of an epoch newer than its group's is signalled to the collective engine (R237). -/
def signalAhead (s : State) (h : FHdr) : State :=
  let g := hdrGroup s h
  if 0 < sdiff32 (BitVec.ofNat 32 h.epoch) (BitVec.ofNat 32 (grpEpoch s g)) then noteAhead s g h.epoch else s

/-- What the key store says of a sealed tile's generation (R321): the code of a refusal, if any. -/
def genCheck (s : State) (h : FHdr) : Option Nat :=
  if !h.sealB then none
  else
    let k := hdrKey s h
    let g : Byte := BitVec.ofNat 8 h.keygen
    if k.st == .active && k.keygen == g then (if k.refused then some 2 else none)
    else if k.st != .absent && (decide (sdiff8 g k.keygen < 0) || g == k.keygen) then some 5
    else if k.lastret ≠ 0#8 ∧ sdiff8 g k.lastret ≤ 0 then some 5
    else some 2

/-- Count a refusal (R240 FB_STAT). -/
def countRefusal (s : State) (code : Nat) : State :=
  match code with
  | 3 => finc s Reg.fbStat 47 32 1
  | 4 => finc s Reg.fbStat 63 48 1
  | 5 => finc s Reg.fbStat 31 16 1
  | _ => s

/-- Answer a DATA packet with one record. -/
def answerData (s : State) (h : FHdr) (shard : Nat) (all : Bool) (code : Nat) : State :=
  answer (countRefusal s code) 2 h (grpEpoch s (hdrGroup s h)) shard all code

/-- The logical cores that may take a tile of an instance, ascending (R103). -/
def coresFor (s : State) (i : Inst) : List Nat :=
  match partOf s i with
  | some p => ((List.range 128).filter fun l => inPart s p l && mapped s l).map (physOf s)
  | none => []

/-- The first core that takes or drops a tile answers for it (R103); else it is not posted. -/
def offerTile (m : TileMsg) : List Nat → State → State × Nat
  | [], s => (s, 2)
  | k :: ks, s =>
    let (s1, code) := receive s k m
    if code = 2 then let (s2, c2) := offerTile m ks s; (s2, c2) else (s1, code)

/-- The slots an engine tile goes between (R246): the first pair, source slot then destination slot ascending, whose
transfer the stream has and which has not come. -/
def slotPairs (s : State) (x : Stream) (src : Nat) : List (Nat × Nat) :=
  let (n, mine) := x.slots s
  ((List.range n).filter fun q => slotMod s x.group q == some src).flatMap fun a => mine.map fun b => (a, b)

/-- Note an engine tile that a stream takes, and for a header its level and slots. -/
def noteCame (s : State) (h : Nat) (m : TileMsg) (p : Option (Nat × Nat × Nat)) : State :=
  let x := s.stream h
  s.setStream h { x with came := x.came ++ [((m.srcMod.toNat, m.home.toNat, m.seq.toNat), p)] }

/-- The header that its sender's engine sent just before a tile. -/
def headerBefore (x : Stream) (m : TileMsg) : Option (Nat × Nat × Nat) :=
  match x.came.find? fun k => k.1 == (m.srcMod.toNat, m.home.toNat, m.seq.toNat - 1) with
  | some k => if m.seq = 0#48 then none else k.2
  | none => none

/-- An engine's tile (R246, R247): a header, or a shard. The RTAG does not name the slots: a header says which node its
sender speaks for; the tile that follows a header in SEQ belongs to it; any other goes to the first slots, in the order
of the transfers, whose tile of that number is missing. -/
def takeEngine (s : State) (h : Nat) (m : TileMsg) : State :=
  let x := s.stream h
  let (n, _) := x.slots s
  let rtag := m.rtag.toNat
  let child := rtag % 8
  let lvl := rtag / 8 % 8 + 1
  let phase := rtag / 64 % 4
  let w := ofLe m.data
  let pairs := slotPairs s x m.srcMod.toNat
  if phase = 2 then
    let fits := fun (ab : Nat × Nat) => decide (8 ^ (lvl - 1) * (ab.1 / 8 ^ (lvl - 1)) = bits w 95 64) &&
      (x.outOf n ab.1).any fun f => f.lvl == lvl && f.dst == ab.2 && f.child == child
    let fresh := pairs.filter fun ab => fits ab && !x.heard.contains (lvl, ab.1, ab.2)
    let mk := fun (ab : Nat × Nat) => ({
        lvl := lvl, child := child, src := ab.1, dst := ab.2, step := BitVec.ofNat 32 w, ovf := bit w 32, close := bit w 33,
        loss := bit w 34, form := bit w 35, op := BitVec.ofNat 8 (bits w 47 40), first := BitVec.ofNat 32 (bits w 95 64),
        last := BitVec.ofNat 32 (bits w 127 96), digest := BitVec.ofNat 64 (bits w 191 128) } : HeaderMsg)
    let hdr := mk (0, 0)
    match fresh ++ pairs.filter fits with
    | [] => if x.st == .active && (hdr.op.toNat ≠ x.op || hdr.step ≠ x.step) then mismatch s h else s
    | ab :: _ => takeHeader (noteCame s h m (some (lvl, ab.1, ab.2))) h (mk ab)
  else
    let mk := fun (ab : Nat × Nat) => ({ phase := BitVec.ofNat 2 phase, lvl := lvl, child := child, src := ab.1, dst := ab.2,
                                         ord := m.ord.toNat, words := tileWords m.data } : ShardMsg)
    let fits := fun (ab : Nat × Nat) => (x.xferOf n (mk ab)).any fun f => decide (4096 * m.ord.toNat < f.els.length)
    let free := fun (ab : Nat × Nat) => fits ab && !x.took.contains ((phase, lvl, ab.1, ab.2), m.ord.toNat)
    let own := pairs.filter fun ab => headerBefore x m == some (lvl, ab.1, ab.2) && free ab
    match own ++ pairs.filter free with
    | [] => s
    | ab :: _ => takeShard (noteCame s h m none) h (mk ab)

/-- A whole tile that passed every check goes to its engine or to a core; the code of the answer. -/
def deliverTile (s : State) (h : FHdr) (data : List Byte) : State × Nat :=
  let m : TileMsg := {
    srcMod := BitVec.ofNat 19 h.srcMod, home := BitVec.ofNat 3 h.home, engine := h.engine, seq := BitVec.ofNat 48 h.seq,
    inst := fin 15 h.inst, rtag := BitVec.ofNat 12 h.rtag, tfmt := BitVec.ofNat 3 h.tfmt, ord := BitVec.ofNat 16 h.ord,
    tag := if h.tagv then some (BitVec.ofNat 16 h.tag) else none, data := data }
  if h.engine then
    if (s.stream h.dstCtx).st == .done || (s.stream h.dstCtx).came.any fun k => k.1 == (h.srcMod, h.home, h.seq) then (s, 1)
    else (takeEngine s h.dstCtx m, 0)
  else offerTile m (coresFor s m.inst) s

/-- Every shard of a tile is present (R225, R321): the generation, then the GCM tag, then delivery. -/
def completeTile (s : State) (h : FHdr) (data sl : List Byte) : State :=
  match genCheck s h with
  | some code => answerData s h 0 true code
  | none =>
    -- the seal's nonce is the one of R224 (assumption log 171)
    let nonceOk := ofLe ((sl.drop 16).take 12) = h.nonce.toNat
    let plain := if !h.sealB then some data
      else if nonceOk then gcmOpen (keyG (hdrKey s h).key) h.nonce h.aad data (BitVec.ofNat 128 (ofLe (sl.take 16))) else none
    match plain with
    | none => answerData (finc s Reg.fbStat 15 0 1) h 0 true 6
    | some bs =>
      let (s1, code) := deliverTile s h bs
      answerData s1 h 0 true code

/-- The assembly entry of a header's tile. -/
def Asm.isFor (a : Asm) (h : FHdr) : Bool :=
  match readHdr a.hdr with
  | some (g, _, _) => g.srcMod == h.srcMod && g.home == h.home && g.engine == h.engine && g.seq == h.seq
  | none => false

/-- What every shard of a tile repeats (R220): bytes 8 to 34 and 36 to 39 but for SHARD and HOPS. -/
def FHdr.same (a b : FHdr) : Bool := a.aad == b.aad

/-- A shard that passed the checks joins its tile in the bridge die's assembly buffer (R232, R239). -/
def assemble (s : State) (quad : Nat) (h : FHdr) (pl sl : List Byte) : State :=
  if h.nshard < h.shard then finc s Reg.fbStat 47 32 1
  else
    let old := s.asm.find? fun a => a.isFor h
    match old with
    | none =>
      if h.nshard = 0 then completeTile s h pl sl
      else if 256 ≤ (s.asm.filter fun a => a.quad.val == quad).length then answerData s h 0 true 2
      else
        let a : Asm := {
          quad := fin 3 quad, hdr := ofLe (h.bytes pl.length), got := [(h.shard, pl)], sealB := sl, first := s.time,
          ctx := (if h.engine then none else some h.dstCtx) }
        { s with asm := s.asm ++ [a] }
    | some a =>
      match readHdr a.hdr with
      | none => s
      | some (g, _, _) =>
        if !g.same h then finc s Reg.fbStat 47 32 1
        else
          let b := { a with got := Tab.insert a.got h.shard pl, sealB := if h.shard = h.nshard then sl else a.sealB }
          if b.got.length ≤ h.nshard then { s with asm := s.asm.map fun x => if x.isFor h then b else x }
          else completeTile { s with asm := s.asm.filter fun x => !x.isFor h } h (b.got.flatMap (·.2)) b.sealB

/-- A DATA packet for this module. -/
def dataIn (s : State) (quad : Nat) (h : FHdr) (pl sl : List Byte) : State :=
  if !h.engine && (s.peer h.dstCtx).st == 0 then answerData s h h.shard false 3
  else if !epochOk s h then answerData (signalAhead s h) h h.shard false 4
  else if !ctxOk s h then answerData s h h.shard false 3
  else assemble s quad h pl sl

/-- The MTYPE of a membership payload (R257). -/
def membType (pl : List Byte) : Nat := bits (ofLe (pl.take 1)) 3 0

/-- A MEMB packet for this module (R237, R257): one with a reserved field or type is discarded and counted (R218). -/
def membIn (s : State) (pl : List Byte) : State :=
  if (readMemb pl).isNone then finc s Reg.fbStat 47 32 1
  else match membType pl with
  | 1 => takeNotice pl s
  | 2 => takeChange pl s
  | 3 => takeVote pl s
  | 4 => takeCommit pl s
  | 5 => takeTakeover pl s
  | _ => finc s Reg.fbStat 47 32 1

/-- An FLP packet that came to this module over a port (R218 to R222): the CRC, the header, and its type. -/
def packetIn (s : State) (p : Nat) (pkt : List Byte) : State :=
  if !portUp s p then s
  else if !crcOk pkt then
    let s1 := finc s (Reg.fbPorterr p) 31 0 1
    match readHdr (ofLe (pkt.take 40)) with
    | some (h, _, bad) => if !bad && h.typ == 1 && h.dstMod == modId s then answerData s1 h h.shard false 6 else s1
    | none => s1
  else match parsePacket pkt with
    | none => finc s Reg.fbStat 47 32 1
    | some (h, pl, sl) =>
      if h.dstMod ≠ modId s then s
      else match h.typ with
        | 1 => dataIn s (portQuad p) h pl sl
        | 2 => match records pl with
          | some rs => rs.foldl reportRecord s
          | none => finc s Reg.fbStat 47 32 1
        | 3 => match records pl with
          | some rs => if rs.any fun r => bits r 57 55 ≠ 0 then finc s Reg.fbStat 47 32 1 else rs.foldl reqRecord s
          | none => finc s Reg.fbStat 47 32 1
        | _ => membIn s pl

/-- The type of a packet's header (R219). -/
def pktType (pkt : List Byte) : Nat := ofLe (pkt.take 1) % 16

/-- A packet of a type at a torus port: a rail carries its packets in frames (R217, R226). -/
def torusIn (typ : Nat) (p : Port) (pkt : List Byte) (s : State) : State :=
  if p.val < 12 ∧ pktType pkt = typ then packetIn s p pkt else s

/-- DATA_SHARD (R231). -/
def execDataShard (p : Port) (pkt : List Byte) (s : State) : Res := .next (torusIn 1 p pkt s)
/-- REPORT (R222). -/
def execReport (p : Port) (pkt : List Byte) (s : State) : Res := .next (torusIn 2 p pkt s)
/-- REQ (R232). -/
def execReq (p : Port) (pkt : List Byte) (s : State) : Res := .next (torusIn 3 p pkt s)

/-- A membership message of a type (R219, R257). -/
def membCmd (mt : Nat) (p : Port) (pkt : List Byte) (s : State) : State :=
  if membType (pkt.drop 40) = mt then torusIn 4 p pkt s else s

/-- NOTICE (R258 step 1). -/
def execNotice (p : Port) (pkt : List Byte) (s : State) : Res := .next (membCmd 1 p pkt s)
/-- CHANGE (R258 step 2). -/
def execChange (p : Port) (pkt : List Byte) (s : State) : Res := .next (membCmd 2 p pkt s)
/-- VOTE (R258 step 3). -/
def execVote (p : Port) (pkt : List Byte) (s : State) : Res := .next (membCmd 3 p pkt s)
/-- COMMIT (R258 step 4). -/
def execCommit (p : Port) (pkt : List Byte) (s : State) : Res := .next (membCmd 4 p pkt s)
/-- TAKEOVER (R258). -/
def execTakeover (p : Port) (pkt : List Byte) (s : State) : Res := .next (membCmd 5 p pkt s)

/-! ### Timers (R232, R233) -/

/-- SHARD_RESEND_TIMEOUT (R232, R233): no REPORT for 200 µs. -/
def execShardResendTimeout (home : BitVec 3) (engine : Bool) (seq : BitVec 48) (shard : BitVec 2) (s : State) : Res :=
  match findSent s home.toNat engine seq.toNat with
  | none => .next s
  | some x => match x.shards[shard.toNat]? with
    | none => .next s
    | some h => .next (if h.last.toNat + 200000 ≤ s.time.toNat then attemptShard s x shard.toNat else s)

/-- Send a REQ for the missing shards of a tile (R222, R232). -/
def sendReq (s : State) (h : FHdr) (missing : List Nat) : State :=
  let recs := missing.flatMap fun i => leBytes 8 (recordOf h.seq h.home h.engine i false 0)
  sendPkt s { typ := 3, epoch := grpEpoch s (hdrGroup s h), srcMod := modId s, dstMod := h.srcMod, dstCtx := h.srcCtx, srcCtx := h.dstCtx } recs []

/-- REQ_TIMEOUT (R232, R233): 200 µs after the tile's first shard, then every 200 µs, three at most; then the source is suspect. -/
def execReqTimeout (srcMod : BitVec 19) (home : BitVec 3) (engine : Bool) (seq : BitVec 48) (s : State) : Res :=
  let key : FHdr := { srcMod := srcMod.toNat, home := home.toNat, engine := engine, seq := seq.toNat }
  match s.asm.find? fun a => a.isFor key with
  | none => .next s
  | some a => match readHdr a.hdr with
    | none => .next s
    | some (h, _, _) =>
      if s.time.toNat < a.first.toNat + 200000 * (a.reqs + 1) ∨ fbit s (Reg.fbGroup (hdrGroup s h)) 31 = true then .next s
      else if 3 ≤ a.reqs then .next (declare s (hdrGroup s h) h.srcMod)
      else
        let missing := (List.range (h.nshard + 1)).filter fun i => (Tab.find a.got i).isNone
        let s1 := { s with asm := s.asm.map fun x => if x.isFor key then { a with reqs := a.reqs + 1 } else x }
        .next (sendReq (finc s1 Reg.fbRetry 15 0 1) h missing)

/-! ### Forwarding and rails (R217, R226 to R228) -/

/-- A packet with its body changed, its CRC still as right or wrong as it was. -/
def patchPkt (pkt body : List Byte) : List Byte :=
  let n := pkt.length - 8
  body ++ leBytes 8 ((ofLe (pkt.drop n)) ^^^ (crc64 (pkt.take n)).toNat ^^^ (crc64 body).toNat)

/-- A packet whose byte `k` is changed. -/
def patchByte (pkt : List Byte) (k : Nat) (f : Byte → Byte) : List Byte :=
  let body := pkt.take (pkt.length - 8)
  patchPkt pkt (body.set k (f (body.getD k 0#8)))

/-- A packet whose CRC field is inverted (R221). -/
def invertCrc (pkt : List Byte) : List Byte :=
  let n := pkt.length - 8
  pkt.take n ++ (pkt.drop n).map (~~~ ·)

/-- A packet carries a hop count (R218): in a REPORT and a REQ its byte is reserved (R219; assumption log 170). -/
def FHdr.counts (h : FHdr) : Bool := h.typ == 1 || h.typ == 4

/-- PACKET_FORWARD (R221, R227, R228): a torus packet for another module of the rack goes on, HOPS one less; HOPS 0 is
discarded; without a port NOROUTE goes back for a DATA shard. -/
def execPacketForward (p : Port) (pkt : List Byte) (fecBad : Bool) (s : State) : Res :=
  let s0 := if fecBad then finc s (Reg.fbPorterr p) 63 32 1 else s
  match readHdr (ofLe (pkt.take 40)) with
  | none => .next s0
  | some (h, _, _) =>
    if pkt.length < 48 ∨ 12 ≤ p.val ∨ portUp s p = false ∨ h.dstMod = modId s ∨ !sameRack (modId s) h.dstMod ∨ (h.counts ∧ h.hops = 0) then .next s0
    else
      let moved := if h.counts then patchByte pkt 27 fun b => b - 16#8 else pkt
      let out := if fecBad then invertCrc moved else moved
      match portFor s (modId s) h.dstMod h.route with
      | some q => .next (sendOn s0 q h.dstMod h.route out)
      | none => .next (if h.typ = 1 then answer s0 2 h h.epoch h.shard false 7 else s0)

/-- Key of an association: a receive one has its own channel identifier (R226, R379). -/
def saKey (r : Nat) (rx : Bool) (an : Nat) (sci : W64) : Nat := r * 8 + (if rx then 4 + an + 64 * (1 + sci.toNat) else an)

/-- MACsec on a frame (R226): an installed association of its channel, a packet number not below the replay window of 2^20,
and the integrity check. Within the window a number may come twice (assumption log 172). -/
def macsecIn (s : State) (r : Nat) (f : RailFrame) : Option State :=
  let key := saKey r true f.an.toNat f.sci
  match Tab.find s.plinth.macsec key with
  | none => none
  | some (_, pn, sak, _) =>
    let next := max pn.toNat (Tab.get 0 s.pnSeen key)
    if f.pn.toNat + 2 ^ 20 < next ∨ f.icv ≠ Config.macsecIcv sak f.sci f.pn (railBytes f) then none
    else some { s with pnSeen := Tab.put 0 s.pnSeen key (max (Tab.get 0 s.pnSeen key) (f.pn.toNat + 1)) }

/-- RAIL_FRAME (R217, R226): MACsec first, then address and UDP port, then the FLP packet. -/
def execRailFrame (r : Rail) (f : RailFrame) (s : State) : Res :=
  let p := 12 + r.val
  if !portUp s p then .next s
  else match macsecIn s r f with
    | none => .next (finc s (Reg.fbPorterr p) 31 0 1)
    | some s1 =>
      if f.dst ≠ railAddr s r (modId s) ∨ f.udpDst.toNat ≠ fget s Reg.fbUdp 15 0 then .next s1
      else .next (packetIn s1 p f.payload)

/-! ### Lanes and ports (R235, R345) -/

/-- A packet resent from a history: RESENT set. -/
def resentPkt (pkt : List Byte) : List Byte := patchByte pkt 1 (· ||| 4#8)

/-- The port that takes over from a lost one: the other set's of the direction, or the next rail that is up (R235). -/
def nextPort (s : State) (p : Nat) : Option Nat :=
  if p < 12 then (let q := if p < 6 then p + 6 else p - 6; if portUp s q then some q else none)
  else ((List.range 5).map fun k => 12 + (p - 12 + k + 1) % 6).find? (portUp s)

/-- Resend a port's history, oldest first, on a port. -/
def resendHistory (s : State) (pkts : List (List Byte)) (q : Nat) : State :=
  pkts.reverse.foldl (fun t pkt => match readHdr (ofLe (pkt.take 40)) with
    | some (h, _, _) => sendOn t q h.dstMod h.route (resentPkt pkt)
    | none => t) s

/-- What follows a lane or port loss: the history goes out again on the port, or where the port is lost, elsewhere. -/
def afterLoss (s : State) (p : Nat) (pkts : List (List Byte)) : State :=
  if portUp s p then resendHistory s pkts p
  else match nextPort s p with
    | some q => resendHistory { s with history := Tab.erase s.history p } pkts q
    | none => s

/-- LANE (R235, R345). -/
def execLane (p : Port) (l : Fin 4) (s : State) : Res :=
  if !portUp s p || !bit (fget s (Reg.fbPortstat p) 27 24) l then .next s
  else
    let pkts := Tab.get [] s.history p
    let s1 := report s (8 + portQuad p) (0x40 + 4 * p.val + l.val) 0x41 0 0 (p.val + 256 * l.val) none
    let s2 := fset s1 (Reg.fbPortstat p) 27 24 (fget s1 (Reg.fbPortstat p) 27 24 &&& (15 - 2 ^ l.val))
    .next (afterLoss s2 p pkts)

/-- PORT (R235, R345). -/
def execPortLoss (p : Port) (s : State) : Res :=
  if !portUp s p then .next s
  else
    let pkts := Tab.get [] s.history p
    let s1 := report s (8 + portQuad p) p.val 0x42 0 0 p.val none
    .next (afterLoss (portDown s1 p) p pkts)

end Sys2Proof.Machine
end

