-- ==== Sys2Proof/Machine/Iso.lean ====
section
/-! DEFINITION. Isolation and keys (R308 to R332): rule changes, translation staging, page zeroing, key commands and sessions,
key fetches, tenant removal and sealed mode. -/

namespace Sys2Proof.Machine

/-! ### Translation staging and rule changes (R312 to R314) -/

/-- Apply every staged pair as one rule change (R314). -/
def applyStaged (s : State) (i : Nat) : State :=
  let ps := (s.inst i).staged
  let s1 := { s with xlat := ps.foldl (fun t (k : Nat × W64) => Tab.put 0#64 t (i * 2 ^ 24 + k.1) k.2) s.xlat }
  ruleChange (fset (s1.updInst i fun x => { x with staged := [], commitQ := false }) (Reg.isRulectl i) 6 0 0) i

/-- A write of IS_XVAL (R314): a pair is staged at IS_XIDX, which counts on; a 65th sets OVF. Locked in sealed mode (R328). -/
def writeXval (s : State) (i : Nat) (v : W64) : State :=
  let n := (s.inst i).staged.length
  if sealed s then s
  else if 64 ≤ n then fset s (Reg.isRulectl i) 29 29 1
  else
    let idx := fget s (Reg.isXidx i) 23 0
    let s1 := s.updInst i fun x => { x with staged := x.staged ++ [(idx, v)] }
    fset (fset s1 (Reg.isRulectl i) 6 0 (n + 1)) (Reg.isXidx i) 23 0 (idx + 1)

/-- XVAL_STAGE (R314). -/
def execXvalStage (i : Inst) (v : W64) (s : State) : Res := hostWide s 0 (Reg.isXval i) fun t => writeXval t i v

/-- A write of IS_RULECTL (R314, R331): COMMIT at once, or when BUSY clears; ignored in sealed mode (R328). -/
def writeRulectl (s : State) (i v : Nat) : State :=
  let s1 := if bit v 29 then fset s (Reg.isRulectl i) 29 29 0 else s
  if !bit v 31 || sealed s then s1
  else if ruleBusy s i then s1.updInst i fun x => { x with commitQ := true }
  else applyStaged s1 i

/-- RULECTL_COMMIT (R314). -/
def execRulectlCommit (i : Inst) (v : W32) (s : State) : Res := hostCmd s (writeRulectl s i v.toNat)

/-- RULE_CHANGE_COMPLETE (R313): BUSY clears, the completions that waited are written, and a COMMIT that waited applies. -/
def execRuleChangeComplete (i : Inst) (s : State) : Res :=
  if !ruleBusy s i then .next s
  else
    let cs := (s.inst i).deferred
    let s1 := fset (s.updInst i fun x => { x with deferred := [] }) (Reg.isRulectl i) 30 30 0
    let s2 := cs.foldl writeCompl s1
    .next (if (s2.inst i).commitQ then applyStaged s2 i else s2)

/-- IS_VIOL_REARM (R311). -/
def execIsViolRearm (i : Inst) (v : W64) (s : State) : Res := hostWide s 0 (Reg.isViol i) fun t => regWritePlain t (Reg.isViol i) v.toNat

/-! ### Tenant removal (R322) -/

/-- Adapter tags whose key names an instance and is in a state. -/
def keysOf (s : State) (i : Nat) (st : KState) : List Nat :=
  (s.ktab.filter fun kv => kv.2.inst.val == i && kv.2.st == st).map (·.1)

/-- Sealed mode ends once REMOVED has been posted for every bound instance (R329), and with it the IDE streams, which there are in
sealed mode only (R265). -/
def endSeal (s : State) : State :=
  let mask := fget s Reg.isSealctl 15 0
  if s.unsealing && (List.range 16).all fun i => !bit mask i || fget s (Reg.isRemove i) 29 28 == 3 then
    { (fset (fset (fset s Reg.isSealctl 31 31 0) Reg.isSealctl 29 29 0) Reg.isSealctl 15 0 0) with
      unsealing := false, sealCert := 0#384, ideKeys := [] }
  else s

/-- Pages of kinds ACT, STAGE, ADSTATE and ADGRAD of an instance. -/
def tenantPages (s : State) (i : Nat) : List Nat :=
  (s.pages.filter fun kv => kv.2.inst.val == i &&
    (kv.2.kind == .act || kv.2.kind == .stage || kv.2.kind == .adstate || kv.2.kind == .adgrad)).map (·.1)

/-- Removal passes from draining to zeroing once every key of the instance is zeroised, and ends once its pages are zero. -/
def removalStep (s : State) (i : Nat) : State :=
  let ph := fget s (Reg.isRemove i) 29 28
  let s1 :=
    if ph = 1 ∧ (keysOf s i .retiring).isEmpty ∧ (s.ikey i).st ≠ .retiring then
      let ns := tenantPages s i
      let mine := fun (t : Nat) => (s.desc t).inst.val == i && (s.desc t).st != .free
      let u := fset (zeroingPages s ns) (Reg.isRemove i) 29 28 2
      let w := { u with
        norms := u.norms.filter fun kv => !mine (kv.1 / 4096)
        descs := u.descs.filter fun kv => kv.2.inst.val ≠ i
        ran := u.ran.filter fun r => r.base || (s.desc r.tag.toNat).inst.val ≠ i
        mirrors := u.mirrors.filter fun kv => !mine kv.1
        held := u.held.filter fun x => !mine x.1.toNat
        mbUp := u.mbUp.filter fun kv => kv.1 / 128 ≠ i
        mbDown := u.mbDown.filter fun kv => kv.1 / 128 ≠ i
        mbUpOwn := Tab.erase u.mbUpOwn i
        mbDownOwn := Tab.erase u.mbDownOwn i
        mbUpDrop := Tab.erase u.mbUpDrop i
        mbDownDrop := Tab.erase u.mbDownDrop i
        gens := u.gens.filter fun kv => kv.1 / 65536 ≠ i }
      w.updInst i fun x => { x with removing := ns }
    else s
  if fget s1 (Reg.isRemove i) 29 28 = 2 ∧ (s1.inst i).removing.all (fun n => (s1.page n).kind != .zeroing) = true then
    endSeal (notify (fset (s1.updInst i fun x => { x with removing := [] }) (Reg.isRemove i) 29 28 3) i 0xF3 0)
  else s1

/-- A removal of the instance is under way. -/
def inRemoval (s : State) (i : Nat) : Bool := fget s (Reg.isRemove i) 29 28 == 1 || fget s (Reg.isRemove i) 29 28 == 2

/-- Removal starts (R322): the instance reset, and the retirement of its keys. A removal under way is merged. -/
def startRemoval (s : State) (i : Inst) : State :=
  if inRemoval s i then s
  else
    let s1 := beginRetire (fset (instanceReset s i 0) (Reg.isRemove i) 29 28 1) (.instance_ i)
    (keysOf s1 i .active).foldl (fun t g => beginRetire t (.adapter (BitVec.ofNat 16 g))) s1

/-- Removal starts and goes as far as it can. -/
def beginRemoval (s : State) (i : Inst) : State := if inRemoval s i then s else removalStep (startRemoval s i) i

/-- TENANT_REMOVAL (R322): IS_REMOVE.START. -/
def execTenantRemoval (i : Inst) (v : W32) (s : State) : Res :=
  hostCmd s (if bit v.toNat 31 then beginRemoval s i else s)

/-! ### Pages (R204) -/

/-- An adapter that is being evicted leaves nothing once its pages have been zeroed (R113, R133). -/
def endEvictions (s : State) : State :=
  { s with descs := s.descs.filter fun kv => !(kv.2.st == .evicting && kv.2.allPages.all fun n => (s.page n).kind != .zeroing) }

/-- PAGE_ZEROED (R204): the page reads zero and is FREE. -/
def execPageZeroed (n : Fin 393216) (s : State) : Res :=
  let p := s.page n
  if p.kind != .zeroing then .next s
  else
    let s1 := s.setPage n { p with kind := .free, freeing := false }
    let s2 := { s1 with
      dev := Memory.zero s1.dev (n * Config.pageBytes) Config.pageBytes
      poison := s1.poison.filter fun u => u * 64 / Config.pageBytes ≠ n }
    .next ((List.range 16).foldl removalStep (endEvictions s2))

/-! ### Keys (R129, R316 to R320) -/

/-- KEY_FETCH (R129, R318, R320): a bridge die's cache takes the key, or the unwrap fails. A fetch of a generation that is
not ACTIVE is discarded. -/
def execKeyFetch (n : Quad) (tag : Tag) (ok : Bool) (s : State) : Res :=
  let k := s.key tag.toNat
  if k.st != .active then .next s
  else if ok then
    let mine := s.kcache.filter fun kv => kv.1 / 65536 == n.val
    let room := if 4096 ≤ mine.length then Tab.erase s.kcache ((mine.head?.map (·.1)).getD 0) else s.kcache
    .next { s with kcache := Tab.insert room (n.val * 65536 + tag.toNat) k.keygen }
  else .next (report (finc s Reg.ksStatus 15 0 1) 12 0x003 0x62 k.inst tag.toNat tag.toNat none)

/-- RETIRE_FINISH (R320 step 5): every die and port has acknowledged; the generation is zeroised in every copy. -/
def execRetireFinish (k : KeyId) (s : State) : Res :=
  let e := keyEnt s k
  let busy := match k with
    | .adapter t => s.jobs.any fun j => !j.base && j.tag == t
    | _ => false
  if e.st != .retiring || busy then .next s
  else
    let s1 := setKeyEnt s k fun x => { x with st := .retired, lastret := x.keygen, rettime := s.time, key := 0#256, refused := false }
    let s2 := match k with
      | .adapter t =>
        let d := s1.desc t.toNat
        (zeroingPages s1 (d.prevPages ++ d.newPages)).setDesc t.toNat
          (if d.st == .free then d else { d with prevPages := [], prevDir := 0, newPages := [], newDir := 0, newGrad := 0, newLen := 0 })
      | _ => s1
    .next ((List.range 16).foldl removalStep s2)

/-- A secured session is established (R315, R316). -/
def sessionCert (s : State) (fn : Nat) (sess : Fin 2) : Option (BitVec 384) := Tab.find s.spdm (fn * 2 + sess.val)

def KState.code : KState → Nat
  | .absent => 0 | .active => 1 | .retiring => 2 | .retired => 3

/-- The key a command names (R316 KIND); none for an unknown kind or a TAG that is not zero where it is reserved. -/
def keyOf (fn : Fn) (m : KeyMsg) : Option KeyId :=
  match m.kind.toNat with
  | 0 => some (.adapter m.tag)
  | 1 => if m.tag = 0#16 then some (.instance_ (fin 15 (fn.val - 1))) else none
  | 2 => if m.tag = 0#16 then some .migration else none
  | _ => none

/-- A session's function may act on a key (R317). -/
def mayAct (s : State) (fn : Fn) (k : KeyId) : Bool :=
  match k with
  | .migration => fn.val == 0
  | .instance_ _ => fn.val != 0
  | .adapter t => fn.val != 0 && ((s.key t.toNat).st == .absent || (s.key t.toNat).inst.val + 1 == fn.val)

/-- The response of a key command (R316). -/
def keyAnswer (s : State) (fn : Fn) (cmd status : Nat) (k : Option KeyId) : State :=
  let e := match k with
    | some id => keyEnt s id
    | none => {}
  s.emit (.spdm fn (leBytes 8 (packFields [(8, cmd), (8, status), (8, e.keygen.toNat), (8, e.st.code)])))

/-- Checks that every command on a key makes first (R316, R317). -/
def withKey (s : State) (fn : Fn) (cmd : Nat) (m : KeyMsg) (resv : Bool) (f : KeyId → State) : Res :=
  if (sessionCert s fn m.sess).isNone then .next s
  else if resv || m.rsvd ≠ 0#24 then .next (keyAnswer s fn cmd 5 none)
  else match keyOf fn m with
    | none => .next (keyAnswer s fn cmd 5 none)
    | some k => .next (if mayAct s fn k then f k else keyAnswer s fn cmd 1 (some k))

/-- SETKEY (R316 to R319). -/
def execSetkey (fn : Fn) (m : KeyMsg) (s : State) : Res :=
  withKey s fn 1 m false fun k =>
    let e := keyEnt s k
    let newer := m.keygen ≠ 0#8 ∧ (e.lastret = 0#8 ∨ 0 < sdiff8 m.keygen e.lastret)
    if e.st == .retiring then keyAnswer s fn 1 4 (some k)
    else if e.st == .active ∨ !newer then keyAnswer s fn 1 2 (some k)
    else if e.st == .retired && decide (s.time.toNat < e.rettime.toNat + Config.quarantine) then keyAnswer s fn 1 3 (some k)
    else
      let s1 := setKeyEnt s k fun x => { x with
        keygen := m.keygen, st := .active, inst := fin 15 (fn.val - 1), key := m.key, refused := false }
      keyAnswer s1 fn 1 0 (some k)

/-- RETIRE (R316, R320, R322, R331). -/
def execRetire (fn : Fn) (m : KeyMsg) (s : State) : Res :=
  withKey s fn 2 m (m.key ≠ 0#256) fun k =>
    let e := keyEnt s k
    if e.keygen ≠ m.keygen ∨ !(e.st == .active || e.st == .retiring) then keyAnswer s fn 2 2 (some k)
    else if e.st == .retiring then keyAnswer s fn 2 0 (some k)
    else
      let s1 := match k with
        | .instance_ i => beginRetire (beginRemoval s i) k
        | _ => beginRetire s k
      keyAnswer s1 fn 2 0 (some k)

/-- QUERY (R316). -/
def execQuery (fn : Fn) (m : KeyMsg) (s : State) : Res :=
  withKey s fn 3 m (m.keygen ≠ 0#8 || m.key ≠ 0#256) fun k => keyAnswer s fn 3 0 (some k)

/-! ### Sealed mode (R327, R329) -/

/-- An instance is named in a mask and holds a session of a tenant. -/
def boundTo (s : State) (mask : Nat) (cert : BitVec 384) (i : Nat) : Bool :=
  bit mask i && (sessionCert s (i + 1) 0 == some cert || sessionCert s (i + 1) 1 == some cert)

/-- The conditions of R327. -/
def sealOk (s : State) (mask : Nat) (cert : BitVec 384) : Bool :=
  fbit s Reg.isSealctl 30 && fbit s Reg.ksStatus 31 && ((List.range 16).all fun i => fbit s (Reg.qmInststat i) 1) &&
    !(s.streams.any fun kv => kv.2.cls && (kv.2.st == .open_ || kv.2.st == .active)) &&
    ((List.range 16).all fun i => !fbit s (Reg.scInstcfg i) 4 || boundTo s mask cert i)

/-- Trace memory and debug state are zeroed (R327). -/
def clearTrace (s : State) : State :=
  let s1 := fset { s with trFifo := [], trDrop := [], trBuf := [], trCopy := [] } Reg.trDump 11 10 0
  (List.range 8).foldl (fun t d => fset t (Reg.trPtr d) 63 0 0) s1

/-- A tenant removal runs (R322). -/
def removing (s : State) : Bool := (List.range 16).any (inRemoval s)

/-- SEAL (R316, R327, R331): of a tenant's session; NOTARMED where a condition fails, ARM cleared where a removal runs. -/
def execSeal (fn : Fn) (m : KeyMsg) (s : State) : Res :=
  match sessionCert s fn m.sess with
  | none => .next s
  | some cert =>
    if m.kind ≠ 0#8 ∨ m.keygen ≠ 0#8 ∨ m.rsvd ≠ 0#24 ∨ m.key ≠ 0#256 then .next (keyAnswer s fn 0x10 5 none)
    else if fn.val = 0 then .next (keyAnswer s fn 0x10 1 none)
    else if removing s then .next (keyAnswer (fset s Reg.isSealctl 30 30 0) fn 0x10 6 none)
    else if sealed s || !sealOk s m.tag.toNat cert then .next (keyAnswer s fn 0x10 6 none)
    else
      let s1 := fset (fset (fset (clearTrace s) Reg.isSealctl 30 30 0) Reg.isSealctl 31 31 1) Reg.isSealctl 15 0 m.tag.toNat
      .next (keyAnswer { s1 with sealCert := cert } fn 0x10 0 none)

/-- Sealed mode begins to end (R329): every bound instance's removal starts before any of them ends. -/
def beginUnseal (s : State) : State :=
  let bound := (List.range 16).filter fun i => bit (fget s Reg.isSealctl 15 0) i
  endSeal (bound.foldl removalStep { (bound.foldl (fun t i => startRemoval t (fin 15 i)) s) with unsealing := true })

/-- UNSEAL (R316, R329): of the sealing tenant. -/
def execUnseal (fn : Fn) (m : KeyMsg) (s : State) : Res :=
  match sessionCert s fn m.sess with
  | none => .next s
  | some cert =>
    if m.kind ≠ 0#8 ∨ m.tag ≠ 0#16 ∨ m.keygen ≠ 0#8 ∨ m.rsvd ≠ 0#24 ∨ m.key ≠ 0#256 then .next (keyAnswer s fn 0x11 5 none)
    else if fn.val = 0 ∨ !sealed s ∨ cert ≠ s.sealCert then .next (keyAnswer s fn 0x11 1 none)
    else .next (keyAnswer (beginUnseal s) fn 0x11 0 none)

/-- SEAL_ARM (R327): the PF's write of IS_SEALCTL. -/
def execSealArm (v : W32) (s : State) : Res := hostCmd s (regWritePlain s Reg.isSealctl v.toNat)

/-- IDE_KM (R265, R308, R327), over SPDM on the PF: a function's IDE stream is keyed, and with the PF's IDEUP sets. -/
def execIdeKm (fn : Fn) (key : BitVec 256) (s : State) : Res :=
  let s1 := { s with ideKeys := Tab.insert s.ideKeys fn.val key }
  .next (if fn.val = 0 then fset s1 Reg.isSealctl 29 29 1 else s1)

/-! ### The SPDM responder (R315, R325) -/

/-- Registers whose fields are LCK (R9), for measurement 5. -/
def lckWords (s : State) : List Byte :=
  let inst := (List.range 16).flatMap fun i => [Reg.qmAp i, Reg.scInstcfg i, Reg.scPcores0 i, Reg.scPcores1 i, Reg.scShare i,
    Reg.scPctl i, Reg.isXidx i, Reg.mtQuota i, Reg.mtXfercap i, Reg.mtPquota i, Reg.mtScratch i, Reg.adQuota i]
  let dies := (List.range 8).map Reg.scJournal
  (inst ++ dies ++ [Reg.adHotcap, Reg.trCfg]).flatMap fun off => leBytes 8 (rd s off)

/-- A measurement block (R315). -/
def measurement (s : State) (index : Nat) : Option (List Byte) :=
  if 1 ≤ index ∧ index ≤ 4 then some (Config.measure index)
  else if index = 5 then
    some (leBytes 1 (b2n (sealed s)) ++ leBytes 4 (rd s Reg.ksJgen) ++ leBytes 48 (Config.sha384 (lckWords s)).toNat)
  else none

/-- An SPDM answer: its code, then what it carries. -/
def spdmAnswer (s : State) (fn : Fn) (code : Nat) (bs : List Byte) : State := s.emit (.spdm fn (BitVec.ofNat 8 code :: bs))

/-- An SPDM error. -/
def spdmError (s : State) (fn : Fn) : State := spdmAnswer s fn 0x7F []

/-- SPDM_REQUEST (R315, R316): versions before 1.3 are refused; without identity certificates and measurements are (R325); at most two
sessions of a function at once; a CMD that R316 does not name is malformed, and one that it names has a command of its own. -/
def execSpdmRequest (fn : Fn) (q : SpdmReq) (s : State) : Res :=
  let jok := fbit s Reg.ksStatus 31
  .next <| match q with
    | .getVersion ver => if ver.toNat < 0x0103 then spdmError s fn else spdmAnswer s fn 0x04 (leBytes 2 0x0103)
    | .getCertificate => if jok then spdmAnswer s fn 0x02 (Config.measure 0) else spdmError s fn
    | .challenge nonce => if jok then spdmAnswer s fn 0x03 (Config.sign Config.identityKey (leBytes 32 nonce.toNat)) else spdmError s fn
    | .getMeasurements index => match measurement s index.toNat with
      | some bs => if jok then spdmAnswer s fn 0x60 (bs ++ Config.sign Config.identityKey bs) else spdmError s fn
      | none => spdmError s fn
    | .keyExchange cert =>
      match [0, 1].find? fun k => (Tab.find s.spdm (fn.val * 2 + k)).isNone with
      | some k => if jok then spdmAnswer { s with spdm := Tab.insert s.spdm (fn.val * 2 + k) cert } fn 0x64 [BitVec.ofNat 8 k] else spdmError s fn
      | none => spdmError s fn
    | .vendor sess cmd =>
      if (sessionCert s fn sess).isNone || [0x01, 0x02, 0x03, 0x10, 0x11].contains cmd.toNat then s else keyAnswer s fn cmd.toNat 5 none
    | .endSession sess => match Tab.find s.spdm (fn.val * 2 + sess.val) with
      | some _ => spdmAnswer { s with spdm := Tab.erase s.spdm (fn.val * 2 + sess.val) } fn 0x6C []
      | none => spdmError s fn

end Sys2Proof.Machine
end

