-- ==== Sys2Proof/Machine/InstCtl.lean ====
section
/-! DEFINITION. Control of an instance: reset, quiesce, freeze, save and restore (R266, R286 to R291), the ring registers
(R275, R292) and dirty logging (R290). -/

namespace Sys2Proof.Machine

/-! ### Quiesce (R286) -/

/-- Nothing of an instance is admitted, running, in the ledger or in the transfer table (R286). -/
def nothingOf (s : State) (i : Nat) : Bool :=
  !(s.ops.any fun o => o.inst.val == i) && !(s.elig.any fun x => x.op.inst.val == i) &&
    !(s.led.any fun kv => kv.2.inst.val == i) && !(s.jobs.any fun j => j.inst.val == i) && (s.inst i).deferred.isEmpty &&
    !swapsOf s i && !(s.sent.any fun t => t.engineOf s i || (Tab.find s.led t.led).any fun e => e.inst.val == i)

/-- INSTANCE_QUIESCED (R286). -/
def execInstanceQuiesced (i : Inst) (s : State) : Res :=
  .next (if (s.inst i).quiescing && nothingOf s i then
    fset (s.updInst i fun x => { x with quiescing := false }) (Reg.qmInststat i) 1 1 1 else s)

/-! ### Freeze and thaw (R291) -/

/-- The peer contexts of an instance pass from one state to another where `ok` holds of their group. -/
def instContexts (s : State) (i frm nxt : Nat) (ok : Nat → Bool) : State :=
  { s with peers := s.peers.map fun kv =>
      (kv.1, if kv.2.inst.val = i ∧ kv.2.cls ∧ kv.2.st = frm ∧ ok kv.2.group then { kv.2 with st := nxt } else kv.2) }

/-- A freeze ends once no INSTANCE-class stream is ACTIVE, every running item has been switched out (R291) and a compute-die roll has left
the quadrant that it was at (R378; assumption log 179). -/
def tryFreeze (s : State) (i : Nat) : State :=
  if !(s.inst i).freezing || openInst s i || ((s.inst i).behind.isSome && rolling s 3 == (s.inst i).behind) ||
      s.led.any (fun kv => kv.2.inst.val == i && (kv.2.st == .running || kv.2.st == .finishing)) then s
  else
    let s1 := instContexts (s.updInst i fun x => { x with freezing := false, behind := none }) i 1 2 fun _ => true
    notify (fset s1 (Reg.qmInststat i) 4 4 1) i 0xF1 0

/-- FREEZE: an instance that is already freezing or frozen stays so. -/
def beginFreeze (s : State) (i : Nat) : State :=
  if !mayRun s i then s else tryFreeze (s.updInst i fun x => { x with freezing := true, behind := rolling s 3 }) i

/-- THAW: admission and dispatch go on, and contexts of groups that do not change are ACTIVE again. -/
def thaw (s : State) (i : Nat) : State :=
  if !fbit s (Reg.qmInststat i) 4 then s
  else
    let s1 := fset (fset s (Reg.qmInststat i) 4 4 0) (Reg.qmInststat i) 5 5 0
    let s2 := s1.updInst i fun x => { x with saving := false }
    notify (instContexts s2 i 2 1 fun g => (s.grp g).st == .stable) i 0xF2 0

/-! ### Images (R291) -/

def Kind.code : Kind → Nat
  | .free => 0 | .zeroing => 1 | .base => 2 | .act => 3 | .adstate => 4 | .adgrad => 5 | .stage => 6 | .system => 7 | .retired => 8

def AState.code : AState → Nat
  | .free => 0 | .loading => 1 | .resident => 2 | .trainable => 3 | .refused => 4 | .evicting => 5 | .retiring => 6 | .restoring => 7

def ARole.code : ARole → Nat
  | .serve => 0 | .nonowner => 1 | .owner => 2 | .buddy => 3

/-- The 16 B of a page record (R200). -/
def pageRec (p : Page) : List Byte :=
  leBytes 16 (packFields [(8, p.kind.code), (4, p.inst.val), (4, p.part.val), (16, p.tag.toNat), (32, p.owngen.toNat), (64, 0)])

/-- The 64 B of an adapter descriptor (R112). -/
def descRec (t : Nat) (d : Desc) : List Byte :=
  leBytes 64 (packFields [(16, t), (8, d.st.code), (4, d.inst.val), (2, d.role.code), (2, b2n d.pin), (8, d.keygen.toNat),
    (8, d.rankq), (16, d.nproj), (32, d.alpha.toNat), (32, d.lastStep.toNat), (64, d.basefp.toNat), (64, d.dir), (64, d.grad),
    (64, d.state), (16, d.peerctx.toNat), (16, 0), (32, d.swapSeq.toNat), (64, d.prevDir)])

/-- The 32 B of a ring's registers (R292). -/
def ringRec (r : Ring) : List Byte :=
  leBytes 32 (packFields [(64, r.rsq.toNat), (64, r.rcfg.toNat), (64, r.rcq.toNat), (16, min 65535 r.outst), (15, 0),
    (1, b2n r.err), (32, r.tail.toNat)])

/-- A ledger state as R174 numbers it. -/
def LState.code : LState → Nat
  | .free => 0 | .dispatched => 1 | .running => 2 | .finishing => 3 | .replay => 4

/-- The 128 B of a ledger entry (R174). -/
def ledRec (e : Led) : List Byte :=
  leBytes 64 e.desc.toNat ++ leBytes 64 (packFields ([(28, e.lsn), (4, 0), (3, e.st.code), (5, 0), (3, e.home.val), (5, 0),
    (8, min 255 e.replays), (4, e.inst.val), (2, e.cls), (2, 0), (32, e.swapSeq.toNat), (32, e.step.toNat)] ++
    ((e.ingen ++ List.replicate 3 (0#32, 0#32)).take 3).flatMap (fun p => [(32, p.1.toNat), (32, p.2.toNat)]) ++
    [(8, (e.pcore.map (·.val)).getD 0xFF), (7, e.lcore.val), (1, 0), (16, 0), (20, e.sent), (12, 0), (20, e.ackPfx), (12, 0), (32, 0),
    (64, e.ackWin.toNat)]))

/-- The device address of entry `key` of the ledgers (R174); an unused one is zero. -/
def ledAddr (s : State) (key : Nat) : Nat := rd s Reg.scLedgerBase + key / 8192 * 0x100000 + key % 8192 * 128
def ledBytes (s : State) (key : Nat) : List Byte :=
  match s.ledAt key with
  | some e => ledRec e
  | none => List.replicate 128 0#8

/-- Pages an instance owns. -/
def instPages (s : State) (i : Nat) : Tab Page :=
  s.pages.filter fun kv => kv.2.inst.val == i &&
    (kv.2.kind == .act || kv.2.kind == .stage || kv.2.kind == .adstate || kv.2.kind == .adgrad)

/-- The key that a page's contents are stored under (R308): the adapter's or the instance's. -/
def pageKey (s : State) (i : Nat) (p : Page) : BitVec 256 :=
  if p.kind == .adstate || p.kind == .adgrad then (s.key p.tag.toNat).key else (s.ikey i).key

/-- Free bytes: `n` of them from draw counter `d` (assumption log 4). -/
def freeBytes (d n : Nat) : List Byte := (List.range n).map fun k => Config.freeByte (d * 65536 + k)

/-- The image of an instance, its sections in the table's order before the seal (R291): the spec states no layout of the
header or of a context image, whose bytes are free values. -/
def migImage (s : State) (i : Nat) : Image × List Byte :=
  let ps := instPages s i
  let leds := s.led.filter fun kv => kv.2.inst.val == i
  let ctxs := (s.ctx.map (·.2)).filter fun x => leds.any fun kv => kv.1 == x.led
  let rings := (s.rings.filter fun kv => kv.1 / 16384 == i).map fun kv => (kv.1 % 16384, kv.2)
  let gens := (s.gens.filter fun kv => kv.1 / 65536 == i).map fun kv => (kv.1 % 65536, kv.2)
  let descs := s.descs.filter fun kv => kv.2.inst.val == i
  let body := freeBytes s.draws 64 ++ (List.range 16384).flatMap (fun r => ringRec (Tab.get {} rings r)) ++
    (List.range 65536).flatMap (fun g => leBytes 4 (Tab.get 0#32 gens g).toNat) ++
    leds.flatMap (fun kv => ledRec kv.2) ++ freeBytes (s.draws + 1) (13107200 * ctxs.length) ++ ps.flatMap (fun kv => pageRec kv.2) ++
    ps.flatMap (fun kv => xtsRun (pageKey s i kv.2) (kv.1 * Config.pageBytes) (Memory.read s.dev (kv.1 * Config.pageBytes) Config.pageBytes)) ++
    descs.flatMap (fun kv => descRec kv.1 kv.2)
  let p := (partOf s i).getD 0
  ({ len := body.length, orders := s.orders, cores0 := rd s (Reg.scPcores0 p), cores1 := rd s (Reg.scPcores1 p), fp := baseFp s p,
     rings := rings, gens := gens, ops := s.ops.filter fun o => o.inst.val == i, elig := s.elig.filter fun x => x.op.inst.val == i,
     leds := leds, ctxs := ctxs, pages := ps,
     data := s.dev.filter fun c => ps.any fun kv => kv.1 == c.1 / Config.pageBytes, descs := descs }, body)

/-- The 32 B seal of an image (R291, R309): a 12 B nonce, the GCM tag over the sections under KG, and 4 B of zero. -/
def imageSeal (key : BitVec 256) (nonce : Nat) (body : List Byte) : List Byte :=
  leBytes 12 nonce ++ leBytes 16 (gcmSeal (keyG key) (BitVec.ofNat 96 nonce) body []).2.toNat ++ leBytes 4 0

/-- The migration key is usable. -/
def migReady (s : State) : Bool := s.migKey.st == .active

/-- SAVE: of a frozen instance, with a migration key. -/
def beginSave (s : State) (i : Nat) : State :=
  if !fbit s (Reg.qmInststat i) 4 || !migReady s then fset s (Reg.qmInststat i) 6 6 1
  else fset (s.updInst i fun x => { x with saving := true }) (Reg.qmInststat i) 5 5 0

/-- SAVED (R291): the image is complete. -/
def execSaved (i : Inst) (s : State) : Res :=
  if !(s.inst i).saving then .next s
  else if !migReady s then .next (fset (s.updInst i fun x => { x with saving := false }) (Reg.qmInststat i) 6 6 1)
  else
    let a := rd s (Reg.qmMigaddr i)
    let (im, body) := migImage s i
    let nonce := (Config.freeWord (s.draws + 2)).toNat
    let s1 := { s with
      host := Memory.write s.host a (body ++ imageSeal s.migKey.key nonce body)
      images := Tab.insert s.images a im, draws := s.draws + 3 }
    .next (fset (s1.updInst i fun x => { x with saving := false }) (Reg.qmInststat i) 5 5 1)

/-- The image at an address, whichever module saved it: the one whose seal verifies there under the migration key (assumption log 97). -/
def imageAt (s : State) (a : Nat) : Option Image :=
  (s.images.map (·.2)).find? fun im =>
    migReady s && Memory.read s.host (a + im.len) 32 ==
      imageSeal s.migKey.key (Memory.num s.host (a + im.len) 12) (Memory.read s.host a im.len)

/-- The instance has the keys of an image (R331): its own, where it has ACT or STAGE pages, and every adapter's. -/
def imageKeys (s : State) (i : Nat) (im : Image) : Bool :=
  (im.pages.all fun kv => if kv.2.kind == .adstate || kv.2.kind == .adgrad then
    (s.key kv.2.tag.toNat).st == .active && (s.key kv.2.tag.toNat).inst.val == i else (s.ikey i).st == .active) &&
  im.descs.all fun kv => (s.key kv.1).st == .active && (s.key kv.1).inst.val == i

/-- The instance has the image's shape and can hold it: the same cores and base, and its pages and tags unused or its own. -/
def imageFits (s : State) (i : Nat) (im : Image) : Bool :=
  match partOf s i with
  | none => false
  | some p =>
    rd s (Reg.scPcores0 p) == im.cores0 && rd s (Reg.scPcores1 p) == im.cores1 && baseFp s p == im.fp &&
      (im.pages.all fun kv => pageFree s kv.1 || (instPages s i).any fun x => x.1 == kv.1) &&
      im.descs.all fun kv => (s.desc kv.1).st == .free || (s.desc kv.1).inst.val == i

/-- Place one restored entry, its order after those of this device: at the lowest unused entry of its home die, and its context at the lowest free slot. -/
def placeRestored (i p base : Nat) (im : Image) (s : State) (kv : Nat × Led) : Option State :=
  let e := { kv.2 with inst := fin 15 i, order := base + kv.2.order }
  match freeEntry s e.home with
  | none => none
  | some key =>
    let s1 := { s with led := Tab.insert s.led key e }
    match im.ctxs.find? fun x => x.led == kv.1 with
    | none => some s1
    | some x =>
      match freeSlot s1 (kv.2.lcore.val / 16) with
      | none => none
      | some slot =>
        let y := (im.elig.find? fun z => z.ledKey == some kv.1).map fun z =>
          { z with op := { z.op with inst := fin 15 i, order := base + z.op.order }, part := fin 15 p, slot := some slot, ledKey := some key }
        some { s1 with ctx := Tab.insert s1.ctx slot { x with led := key }, elig := s1.elig ++ y.toList }

/-- Restore an image into an instance. -/
def restoreImage (s : State) (i : Nat) (im : Image) : Option State :=
  let p := (partOf s i).getD 0
  let own := fun (o : Op) => { o with inst := fin 15 i, order := s.orders + o.order }
  let s1 := { s with
    orders := s.orders + im.orders
    rings := im.rings.foldl (fun t kv => Tab.put {} t (i * 16384 + kv.1) { kv.2 with first := s.orders + kv.2.first }) (s.rings.filter fun kv => kv.1 / 16384 ≠ i)
    gens := im.gens.foldl (fun t kv => Tab.put 0#32 t (i * 65536 + kv.1) kv.2) (s.gens.filter fun kv => kv.1 / 65536 ≠ i)
    ops := s.ops ++ im.ops.map own
    elig := s.elig ++ (im.elig.filter fun x => x.ledKey.isNone).map fun x => { x with op := own x.op, part := fin 15 p }
    pages := im.pages.foldl (fun t kv => Tab.put {} t kv.1
      { kv.2 with inst := fin 15 i, part := fin 15 p, owngen := (Tab.get {} t kv.1).owngen + 1#32 }) s.pages
    dev := im.data.foldl (fun m c => Memory.write m c.1 [c.2])
      (im.pages.foldl (fun m kv => Memory.zero m (kv.1 * Config.pageBytes) Config.pageBytes) s.dev)
    descs := im.descs.foldl (fun t kv => Tab.put {} t kv.1 { kv.2 with inst := fin 15 i }) s.descs }
  im.leds.foldl (fun t kv => t.bind fun u => placeRestored i p s.orders im u kv) (some s1)

/-- RESTORE (R291, R331): an instance of the image's shape, with its keys and without admitted work; it is frozen until THAW. A mismatch sets ERR and
restores nothing. -/
def doRestore (s : State) (i : Nat) : State :=
  let err := fset s (Reg.qmInststat i) 6 6 1
  match imageAt s (rd s (Reg.qmMigaddr i)) with
  | none => err
  | some im =>
    if !imageFits s i im || !imageKeys s i im || !nothingOf s i then err
    else match restoreImage s i im with
    | some t => fset (ruleChange t i) (Reg.qmInststat i) 4 4 1
    | none => err

/-! ### QM_INSTCTL -/

/-- A RESET write (R287, R288). -/
def resetWrite (s : State) (i : Nat) : State :=
  if s.plinth.svc != .normal && !fbit s (Reg.qmInststat i) 1 then fset s (Reg.qmInststat i) 3 3 1 else instanceReset s i 0

/-- QUIESCE: admission stops. -/
def quiesceInst (s : State) (i : Nat) : State :=
  s.updInst i fun x => { x with stopped := true, quiescing := !fbit s (Reg.qmInststat i) 1 }

/-- RESUME: admission goes on. -/
def resumeInst (s : State) (i : Nat) : State :=
  fset (s.updInst i fun x => { x with stopped := false, quiescing := false }) (Reg.qmInststat i) 1 1 0

/-- A write of QM_INSTCTL (R292): every bit written 1 acts, in the order RESET, QUIESCE, RESUME, FREEZE, SAVE, RESTORE, THAW. -/
def writeInstctl (s : State) (i v : Nat) : State :=
  let on := fun (b : Nat) (f : State → Nat → State) (t : State) => if bit v b then f t i else t
  on 6 thaw (on 5 doRestore (on 4 beginSave (on 3 beginFreeze (on 2 resumeInst (on 1 quiesceInst (on 0 resetWrite s))))))

/-- A write of QM_INSTCTL that sets the bit a command names. -/
def instctl (b : Nat) (i : Inst) (v : W32) (s : State) : Res :=
  hostCmd s (if bit v.toNat b then writeInstctl s i v.toNat else s)

/-- INSTCTL_RESET (R287, R288). -/
def execInstctlReset (i : Inst) (v : W32) (s : State) : Res := instctl 0 i v s
/-- INSTCTL_QUIESCE (R286). -/
def execInstctlQuiesce (i : Inst) (v : W32) (s : State) : Res := instctl 1 i v s
/-- INSTCTL_RESUME (R286). -/
def execInstctlResume (i : Inst) (v : W32) (s : State) : Res := instctl 2 i v s
/-- INSTCTL_FREEZE (R291). -/
def execInstctlFreeze (i : Inst) (v : W32) (s : State) : Res := instctl 3 i v s
/-- INSTCTL_SAVE (R291). -/
def execInstctlSave (i : Inst) (v : W32) (s : State) : Res := instctl 4 i v s
/-- INSTCTL_RESTORE (R291). -/
def execInstctlRestore (i : Inst) (v : W32) (s : State) : Res := instctl 5 i v s
/-- INSTCTL_THAW (R291). -/
def execInstctlThaw (i : Inst) (v : W32) (s : State) : Res := instctl 6 i v s
/-- FLR_VF (R266, R288): an instance reset with cause 1. -/
def execFlrVf (i : Inst) (s : State) : Res := .next (instanceReset s i 1)

/-! ### Ring registers (R272, R275, R292) -/

/-- Fields of QM_RCFG that a window may write: MGR from the PF's only. -/
def rcfgWrite (old v : Nat) (mgr : Bool) : Nat :=
  let w := setBits (setBits (setBits (setBits old 31 31 (bits v 31 31)) 28 24 (bits v 28 24)) 23 19 (bits v 23 19)) 10 0 (bits v 10 0)
  if mgr then setBits w 30 30 (bits v 30 30) else w

/-- A write of QM_RCFG: EN from 0 to 1 zeroes TAIL, HEAD and the counts. Entries still outstanding run on (R275). -/
def writeRcfg (s : State) (mgr : Bool) (i r v : Nat) : State :=
  let x := s.ring i r
  if !mgr && ringMgr x then s
  else
    let y := { x with rcfg := BitVec.ofNat 32 (rcfgWrite x.rcfg.toNat v mgr) }
    s.updRing i r fun _ =>
      if !ringEn x && ringEn y then { y with
        tail := 0#32, head := 0#32, err := false, written := 0#32, next := 0#32, outst := 0, first := s.orders, older := y.older + y.outst }
      else y

/-- A write of a base register of a ring. -/
def writeRbase (s : State) (mgr : Bool) (i r : Nat) (cq : Bool) (v : Nat) : State :=
  let x := s.ring i r
  let a : W64 := BitVec.ofNat 64 (bits v 46 12 * 4096)
  if !mgr && ringMgr x then s
  else s.updRing i r fun x => if cq then { x with rcq := a } else { x with rsq := a }

/-- RING_ENABLE (R275, R292): QM_RCFG written through the PF's window, or by the instance's VF. -/
def execRingEnable (fn : Fn) (i : Inst) (r : RingId) (v : W32) (s : State) : Res :=
  hostCmd s (if fn.val = 0 then writeRcfg s true i r v.toNat
    else if fn.val = i.val + 1 then writeRcfg s false i r v.toNat else s)

/-! ### Dirty logging (R290) -/

/-- A write of QM_DIRTYCTL: EN is refused above 16 slots of the partition's group; a write of SEL switches the bitmap. -/
def writeDirtyctl (s : State) (i v : Nat) : State :=
  let off := Reg.qmDirtyctl i
  let big := match partOf s i with
    | some p => decide (16 < slotsOf s p)
    | none => false
  let turned := bits v 1 1 ≠ fget s off 1 1
  let s1 := regWritePlain s off v
  let s2 := if turned then fset s1 off 2 2 0 else s1
  if bit v 0 && big then fset (fset s2 off 0 0 (fget s off 0 0)) off 4 4 1 else s2

/-- DIRTY_ENABLE (R290). -/
def execDirtyEnable (i : Inst) (v : W64) (s : State) : Res := hostWide s 0 (Reg.qmDirtyctl i) fun t => writeDirtyctl t i v.toNat

/-- DIRTY_SELECT (R290). -/
def execDirtySelect (i : Inst) (v : W64) (s : State) : Res := hostWide s 0 (Reg.qmDirtyctl i) fun t => writeDirtyctl t i v.toNat

/-- FLIPPED (R290): host writes of this model are issued whole, so none to the previous bitmap is outstanding. -/
def execFlipped (i : Inst) (s : State) : Res := .next (fset s (Reg.qmDirtyctl i) 2 2 1)

end Sys2Proof.Machine
end

