-- ==== Sys2Proof/Machine/Views.lean ====
section
/-! DEFINITION. What a register reads as (R9, R12): the stored word, with the fields that show other state computed from it. -/

namespace Sys2Proof.Machine

/-- Number of a table's entries that `p` admits. -/
def countTab {α : Type} (t : Tab α) (p : Nat → α → Bool) : Nat := (t.filter fun kv => p kv.1 kv.2).length

/-- An eligible item of a partition has a core set without a mapped core (R305, R307). -/
def noCore (s : State) (p : Nat) : Bool := s.elig.any fun x => x.part.val == p && !((workSet x.op.desc).any (mapped s))

/-- Mapped logical cores of a partition (R307). -/
def liveCores (s : State) (p : Nat) : Nat := ((List.range 128).filter fun l => inPart s p l && mapped s l).length

/-- Descriptors in the two usable states, of the module or of one partition (R138): RESIDENT and TRAINABLE, and TRAINABLE. -/
def modCount (s : State) (mine : Desc → Bool) : Nat :=
  let r := countTab s.descs fun _ d => mine d && (d.st == .resident || d.st == .trainable)
  let t := countTab s.descs fun _ d => mine d && d.st == .trainable
  r * 2 ^ 16 + t

/-- Activity byte of an array (R81): demanded, and the level. -/
def arrByte (c : Core) (n : Nat) : Nat := b2n (demanded c n) * 128 + (c.arr n).level % 64

/-- PState as R386 numbers it. -/
def pstateCode : PState → Nat
  | .active => 0 | .reduced => 1 | .doze => 2 | .nap => 3

/-- A die's clock has been lowered (R386 Reduced). -/
def reduced (s : State) (d : Nat) : Bool := decide (fget s (Reg.ckDie d) 31 16 < min 1250 (fget s (Reg.ckDie d) 15 0))

/-- The state of a core as PW_CSTATE shows it. -/
def coreState (s : State) (k : Nat) : Nat :=
  let p := pstateCode (s.core k).power
  if p = 0 ∧ reduced s (dieOf k) then 1 else p

/-- A die's state. -/
def dieState (s : State) (d : Nat) : Nat :=
  if s.dieNap.any fun x => x.val == d then 3 else if reduced s d then 1 else 0

/-- Fields of block SC and CO that show cores and ledgers. -/
def readCores (s : State) (off w : Nat) : Nat :=
  if off = Reg.scCtxstat then setBits w 7 0 s.ctx.length
  else if 0x201000 ≤ off ∧ off < 0x201800 ∧ (off - 0x201000) % 0x80 = 0x20 then
    setBits (setBits w 31 31 (b2n (noCore s ((off - 0x201000) / 0x80)))) 7 0 (liveCores s ((off - 0x201000) / 0x80))
  else if 0x208100 ≤ off ∧ off < 0x208200 then
    let d := (off - 0x208100) / 0x20
    match (off - 0x208100) % 0x20 with
    | 0x00 => setBits w 13 0 (countTab s.led fun k _ => k / 8192 == d)
    | 0x08 => setBits w 22 16 (ceilDiv ((s.journal.filter fun j => j.die == d).map fun j => j.msg.data.length).sum 1048576)
    | 0x10 => setBits w 14 0 (Tab.get [] s.accepted d).length
    | _ => w
  else if 0xC00000 ≤ off then
    let k := (off - 0xC00000) / 0x4000
    let c := s.core k
    match (off - 0xC00000) % 0x4000 with
    | 0x00 => b2n c.item.isSome * 2 ^ 31 + c.wait % 8 * 2 ^ 28 + c.cmdIdx % 65536
    | 0x08 => packFields ((List.range 4).map fun a => (8, arrByte c a))
    | 0x18 => if sealed s then 0 else w
    | 0x28 => min 255 c.rcvs.length * 2 ^ 16 + min 65535 (s.sent.filter fun x => x.dkind ≠ 3 && !x.waits && x.core.val == k).length
    | _ => w
  else w

/-- A pseudo-channel's pages are lent to its retraining (R375): it is not retired. -/
def lent (s : State) (r : Retired) : Bool :=
  s.plinth.procs.any fun p => p.kind == 1 && p.arg == 1 && p.res == r.pc && p.st == .running

/-- What a PF register reads as. -/
def readReg (s : State) (off : Nat) : Nat :=
  let w := rd s off
  match off / 0x100000 with
  | 2 => readCores s off w
  | 3 =>
    if off = Reg.fcStatus then
      setBits (setBits w 61 59 ((s.esc.map (·.level)).foldl max 0)) 47 32 (min 65535 s.esc.length)
    else if off = Reg.fcRetire then (s.retired.filter fun r => !lent s r).length
    else w
  | 4 =>
    if off = Reg.ksStatus then setBits w 23 16 s.migKey.keygen.toNat
    else if 0x401000 ≤ off ∧ off < 0x401400 then
      let i := (off - 0x401000) / 0x40
      match (off - 0x401000) % 0x40 with
      | 0x08 => setBits w 31 31 (b2n (s.inst i).commitQ)
      | 0x18 => leaf s i (fget s (Reg.isXidx i) 23 0)
      | 0x30 => (s.ikey i).keygen.toNat * 256 + (s.ikey i).st.code
      | _ => w
    else w
  | 5 =>
    if off = Reg.mtPoolstat then
      setBits (setBits w 37 19 (countTab s.pages fun _ p => p.kind == .zeroing)) 18 0 (poolFree s)
    else if off = Reg.mtXferstat then setBits w 16 0 (xferInUse s)
    else if 0x501000 ≤ off ∧ off < 0x501200 ∧ (off - 0x501000) % 0x20 = 8 then usedPages s ((off - 0x501000) / 0x20)
    else w
  | 6 =>
    if off = Reg.adModcount then modCount s fun _ => true
    else if 0x601000 ≤ off ∧ off < 0x601400 ∧ (off - 0x601000) % 0x40 = 0x18 then
      modCount s fun d => partOf s d.inst == some ((off - 0x601000) / 0x40)
    else w
  | 9 =>
    if 0x902000 ≤ off ∧ off < 0x902080 ∧ (off - 0x902000) % 0x20 = 8 then
      countTab s.streams fun h x => h / 1024 == (off - 0x902000) / 0x20 && x.st != .free
    else w
  | 10 =>
    if 0xA00200 ≤ off ∧ off < 0xA00240 then
      let d := (off - 0xA00200) / 8
      packFields ([(26, 0), (2, dieState s d)] ++ (List.range 18).map fun c => (2, coreState s (18 * d + c)))
    else w
  | 11 => if off = Reg.trCfg && sealed s then setBits w 31 31 0 else w
  | n => if 12 ≤ n then readCores s off w else w

end Sys2Proof.Machine
end

