-- ==== Sys2Proof/Machine/RegCmds.lean ====
section
/-! DEFINITION. Register access (R12) and the registers whose write does more than store: latches, acknowledgement,
configuration of partitions and quotas, table bases, ports, trace dump, mailbox (R39, R202, R271, R284, R293, R312, R338, R339,
R356, R397, R410, R414). -/

namespace Sys2Proof.Machine

/-! ### Latches (R39, R270, R338) -/

/-- A write of a latch's status: VALID clears VALID, OVF and COUNT; OVF clears itself. -/
def rearm (s : State) (off v : Nat) : State :=
  if bit v 31 then fset (fset s off 31 30 0) off 15 0 0
  else if bit v 30 then fset s off 30 30 0 else s

/-- TN_NANSTAT_REARM (R39). -/
def execTnNanstatRearm (i : Inst) (v : W32) (s : State) : Res := hostCmd s (rearm s (Reg.tnNanstat i) v.toNat)
/-- MR_NANSTAT_REARM (R270): the same latch through the VF's mirror. -/
def execMrNanstatRearm (i : Inst) (v : W32) (s : State) : Res := hostCmd s (rearm s (Reg.tnNanstat i) v.toNat)
/-- FC_LSTAT_REARM (R338). -/
def execFcLstatRearm (c : Fin 16) (v : W32) (s : State) : Res := hostCmd s (rearm s (Reg.fcLstat c) v.toNat)

/-! ### Acknowledgement (R339) -/

/-- The host acknowledges a key pending at level 3 or above: it leaves; any other sets ACKERR. -/
def ackKey (s : State) (c sc : Nat) : State × Bool :=
  match s.esc.find? (keyEq c sc) with
  | some k => if 3 ≤ k.level then (pinAlert { s with esc := s.esc.filter fun x => !keyEq c sc x }, true) else (s, false)
  | none => (s, false)

/-- A write of FC_ACK. -/
def writeAck (s : State) (v : Nat) : State :=
  let s1 := fset (fset s Reg.fcAck 19 16 (bits v 19 16)) Reg.fcAck 15 0 (bits v 15 0)
  if !bit v 31 then s1
  else
    let (s2, ok) := ackKey s1 (bits v 19 16) (bits v 15 0)
    if ok then s2 else fset s2 Reg.fcStatus 63 63 1

/-- FC_ACK (R339). -/
def execFcAck (v : W32) (s : State) : Res := hostCmd s (writeAck s v.toNat)

/-! ### Digest mismatch (R356) -/

/-- The fields of FC_SDC that a write stores; GO acts. -/
def writeSdc (s : State) (v : Nat) : State :=
  fset (fset s Reg.fcSdc 61 59 (bits v 61 59)) Reg.fcSdc 15 0 (bits v 15 0)

def sdcResult (s : State) (r : Nat) : State := fset s Reg.fcSdc 58 56 r

/-- The hold of an adapter ends with equal digests: its working copy of the step is published. One that was being restored is
TRAINABLE, and the step that stopped leaves it unchanged (R131). -/
def releaseHold (s : State) (tag : Tag) (n : W32) : State :=
  let s1 := { s with held := s.held.filter fun x => x.1 ≠ tag }
  if (s.desc tag.toNat).st == .restoring then
    let s2 := refreshCopy (s1.updDesc tag.toNat fun d => { d with st := .trainable }) tag.toNat (n + 1#32) none
    sdcResult (s2.emit (.unchanged tag (n + 2#32))) 1
  else sdcResult ((refreshCopy s1 tag.toNat n none).emit (.refresh tag (n + 1#32))) 1

/-- An action of FC_SDC on the event of the tag written, at its owner; elsewhere REFUSED. -/
def sdcCmd (s : State) (v action : Nat) (f : State → Tag → W32 → W64 → W64 → State) : Res :=
  let tag : Tag := BitVec.ofNat 16 (bits v 15 0)
  let s1 := writeSdc (s.dropLow 0 Reg.fcSdc) v
  hostCmd s (
    if !bit v 63 || bits v 61 59 ≠ action then s1
    else match s1.held.find? fun x => x.1 == tag with
      | some (_, n, own, peer) => if (s.desc tag.toNat).role == .owner then f s1 tag n own peer else sdcResult s1 5
      | none => sdcResult s1 5)

/-- The digest of an adapter's state as stored now. -/
def reread (s : State) (tag : Tag) (n : W32) : W64 := stepDigest s tag (mirrorOf s tag n)

/-- REVERIFY (R356): both re-read; `buddyReread` is what the buddy finds. -/
def execReverify (v buddyReread : W64) (s : State) : Res :=
  sdcCmd s v.toNat 1 fun t tag n own peer =>
    let mine := reread t tag n
    if mine = buddyReread then releaseHold t tag n
    else sdcResult t (if mine ≠ own then 2 else if buddyReread ≠ peer then 3 else 4)

/-- KEEPOWNER (R356): the owner's state goes to the buddy, which answers its digest. -/
def execKeepowner (v buddyDigest : W64) (s : State) : Res :=
  sdcCmd s v.toNat 2 fun t tag n _ _ =>
    let t1 := sendMirror t tag (mirrorOf t tag n)
    if reread t tag n = buddyDigest then releaseHold t1 tag n else sdcResult t1 3

/-- KEEPBUDDY (R356): the buddy's state replaces the owner's. -/
def execKeepbuddy (v : W64) (mir : Mirror) (buddyDigest : W64) (s : State) : Res :=
  sdcCmd s v.toNat 3 fun t tag n _ _ =>
    let t1 := writeMirror t tag mir
    if stepDigest t1 tag mir = buddyDigest then releaseHold t1 tag n else sdcResult t1 2

/-! ### Aperture, partitions, quotas (R202, R271, R293, R312) -/

/-- A write of QM_AP (R271, R312): a change is a rule change. -/
def writeAp (s : State) (i v : Nat) : State :=
  let s1 := regWritePlain s (Reg.qmAp i) v
  if rd s1 (Reg.qmAp i) = rd s (Reg.qmAp i) then s1 else ruleChange s1 i

/-- QM_AP_WRITE (R312). -/
def execQmApWrite (i : Inst) (v : W64) (s : State) : Res := hostWide s 0 (Reg.qmAp i) fun t => writeAp t i v.toNat

/-- What the partitions of a die ask for as scratch, in MiB, and what its fixed sections take (R196). -/
def sections (s : State) (d : Nat) : List Nat × Nat :=
  ((List.range 16).map fun p => if onDie s p d then fget s (Reg.mtScratch p) 6 0 else 0, fixedSections s d)

/-- A die's sections exceed 88 MiB (R196). -/
def clipped (s : State) (d : Nat) : Bool := decide (88 < (sections s d).1.sum + (sections s d).2)

/-- A write that took `s` to `t`: where it changed a die's sections, scratch windows follow, and TCCLIP sets if they are reduced
(R196, R205). -/
def noteClip (s t : State) : State :=
  let ds := (List.range 8).filter fun d => sections t d ≠ sections s d
  if ds.isEmpty then t
  else
    let u := trimScratch t
    if ds.any (clipped u) then fset u Reg.mtPoolstat 62 62 1 else u

/-- A partition has an admitted entry of one of its instances that has not completed (R293). -/
def partBusy (s : State) (p : Nat) : Bool :=
  let mine := fun (i : Inst) => partOf s i == some p
  (s.ops.any fun o => mine o.inst) || (s.parts.any fun kv => kv.2.swaps.any fun x => mine x.2.inst) || (s.elig.any fun x => mine x.op.inst) || (s.led.any fun kv => mine kv.2.inst) ||
    (List.range 16).any fun i => mine (fin 15 i) && !(s.inst i).deferred.isEmpty

def cfgErr (s : State) (p : Nat) : State := fset s (Reg.scPstat p) 30 30 1

/-- Highest-numbered FREE pages of the global window for an instance's tables (R414): 64 of its translation context and one of
its generation table. -/
def instTables (s : State) : List Nat :=
  pickDown (pageFree s) (65 + s.pages.length + s.resv.length) (windowRange s 0).2 65

/-- Pages become SYSTEM (R200, R414). -/
def claimPages (s : State) (ns : List Nat) : State :=
  { s with pages := ns.foldl (fun t n =>
      let old := Tab.get {} t n
      if old.kind == .system then t else Tab.put {} t n { kind := .system, owngen := old.owngen + 1#32 }) s.pages }

/-- Pages of a claim that ends pass through ZEROING, but for those that another claim touches. -/
def releaseClaim (s : State) (old : List Nat) : State :=
  zeroingPages s (old.filter fun n => !(s.claims.any fun c => c.2.contains n))

/-- A write of SC_INSTCFG (R293, R414). -/
def writeInstcfg (s : State) (i v : Nat) : State :=
  let off := Reg.scInstcfg i
  let was := partOf s i
  let p := bits v 3 0
  let on := bit v 4
  let set := fun (t : State) => fset (fset t off 3 0 p) off 4 4 (b2n on)
  if sealed s then s
  else if (was.any (partBusy s)) || partBusy s p then
    ((was.toList ++ [p]).filter (partBusy s)).foldl cfgErr s
  else if on && was.isNone then
    let ns := if memDone s then instTables s else []
    if ns.length < 65 then cfgErr s p
    else
      let s1 := claimPages s ns
      set { s1 with claims := Tab.insert s1.claims (2 ^ 32 + i) ns }
  else if !on && was.isSome then
    let s1 := { s with
      claims := Tab.erase s.claims (2 ^ 32 + i)
      xlat := s.xlat.filter fun kv => kv.1 / 2 ^ 24 ≠ i
      gens := s.gens.filter fun kv => kv.1 / 65536 ≠ i }
    set (releaseClaim s1 (Tab.get [] s.claims (2 ^ 32 + i)))
  else set s

/-- INSTCFG_WRITE (R293). -/
def execInstcfgWrite (i : Inst) (v : W32) (s : State) : Res := hostCmd s (writeInstcfg s i v.toNat)

/-- A write of SC_PCORES0 or SC_PCORES1 (R293): no core of another partition, and no admitted entry. -/
def writePcores (s : State) (p half v : Nat) : State :=
  let off := fun (q : Nat) => if half = 0 then Reg.scPcores0 q else Reg.scPcores1 q
  let taken := (List.range 16).any fun q => q ≠ p && (rd s (off q) &&& v) ≠ 0
  if sealed s then s
  else if taken || partBusy s p then cfgErr s p
  else noteClip s (s.setReg (off p) v)

/-- PCORES_WRITE (R293). -/
def execPcoresWrite (p : Part) (half : Fin 2) (v : W64) (s : State) : Res := 
  hostWide s 0 (if half.val = 0 then Reg.scPcores0 p else Reg.scPcores1 p) fun t => writePcores t p half v.toNat

/-- The sum of all quotas (R202). -/
def quotaSum (s : State) : Nat :=
  ((List.range 16).map fun i => fget s (Reg.mtQuota i) 18 0 + fget s (Reg.mtPquota i) 18 0).sum

/-- The offset is MT_QUOTA of an instance or MT_PQUOTA of a partition. -/
def isQuota (off : Nat) : Bool := (List.range 16).any fun i => off == Reg.mtQuota i || off == Reg.mtPquota i

/-- A write of a quota (R202): one that would raise the sum above TOTAL is ignored and sets QERR. -/
def writeQuota (s : State) (off v : Nat) : State :=
  let s1 := regWritePlain s off v
  if quotaSum s < quotaSum s1 ∧ fget s Reg.mtPoolstat 56 38 < quotaSum s1 + systemPages s1 then fset s Reg.mtPoolstat 63 63 1 else s1

/-- QUOTA_WRITE (R202). -/
def execQuotaWrite (off : Nat) (v : W32) (s : State) : Res := hostCmd s (if isQuota off then writeQuota s off v.toNat else s)

/-! ### Table bases (R414) -/

/-- The extent of the table that a base register places. -/
def tableExtent (off : Nat) : Option Nat :=
  if off = Reg.mtPagerec then some 0x600000
  else if off = Reg.adDescBase ∨ off = Reg.ksKtabBase then some 0x400000
  else if off = Reg.scLedgerBase then some 0x800000
  else if off = Reg.scCtxbase then some 0x64000000
  else if off = Reg.tnNormBase then some 0x100000000
  else if off = Reg.fbPeerbase then some 0x100000
  else if off = Reg.ceStrbase then some 0x40000
  else if 0x700400 ≤ off ∧ off < 0x700800 then
    match (off - 0x700400) % 0x40 with
    | 0x18 => some 128
    | 0x20 => some 0x8000
    | 0x28 => some 0x10000
    | 0x38 => some 0x400000
    | _ => none
  else none

/-- Tables of a partition that the model keeps beside the bytes start empty at a new base. -/
def clearTable (s : State) (off : Nat) : State :=
  let p := (off - 0x700400) / 0x40
  if 0x700400 ≤ off ∧ off < 0x700800 ∧ (off - 0x700400) % 0x40 = 0x28 then { s with bnorms := s.bnorms.filter fun kv => kv.1 / 4096 ≠ p }
  else if 0x700400 ≤ off ∧ off < 0x700800 ∧ (off - 0x700400) % 0x40 = 0x38 then { s with updLog := s.updLog.filter fun x => x.1 ≠ p }
  else s

/-- Claim the pages of a table and then write its base; one that touches a page neither FREE nor SYSTEM is ignored. -/
def claimTable (s : State) (off v ext : Nat) : State :=
  let t := regWritePlain s off v
  let a := rd t off
  let ns := span Config.pageBytes a ext
  if Config.devMemEnd < a + ext || ns.any (fun n => !(pageFree s n || (s.page n).kind == .system)) then fset s Reg.mtPoolstat 61 61 1
  else
    let old := Tab.get [] s.claims off
    let s1 := claimPages { t with claims := Tab.insert t.claims off ns } ns
    let s2 := if a = rd s off then s1 else clearTable s1 off
    releaseClaim s2 (old.filter fun n => !(ns.contains n))

/-- Fields of the register at an offset are writable once (R9). -/
def isRwo (off : Nat) : Bool := (regRow off).any fun r => r.1.flds.any fun f => f.acc == .rwo

/-- A write of a table base: before MEMDONE it is held. -/
def writeBase (s : State) (off v ext : Nat) : State :=
  if isRwo off && (written s off || (Tab.find s.heldBase off).isSome) then s
  else if !memDone s then { s with heldBase := Tab.insert s.heldBase off (BitVec.ofNat 64 v) }
  else claimTable s off v ext

/-- TABLE_BASE_WRITE (R414). -/
def execTableBaseWrite (off : Nat) (v : W64) (s : State) : Res :=
  match tableExtent off with
  | some ext => hostWide s 0 off fun t => writeBase t off v.toNat ext
  | none => .next s

/-! ### Ports (R410) -/

/-- PORTDONE sets once no port is waited for, with memory done. -/
def portsDone (s : State) : State :=
  if memDone s && s.portWait.isEmpty then fset s Reg.glStatus 12 12 1 else s

/-- A write of FB_PORTCTL. -/
def writePortctl (s : State) (p : Port) (v : Nat) : State :=
  if bit v 31 then
    if !written s Reg.fbModid then fset s Reg.glStatus 29 29 1
    else
      let s1 := fset s (Reg.fbPortctl p) 31 31 1
      if memDone s || fbit s (Reg.fbPortctl p) 31 then s1 else { s1 with portWait := s1.portWait ++ [p] }
  else
    portsDone { fset (fset s (Reg.fbPortctl p) 31 31 0) (Reg.fbPortstat p) 31 28 0 with portWait := s.portWait.filter (· ≠ p) }

/-- PORT_ENABLE (R410). -/
def execPortEnable (p : Port) (v : W32) (s : State) : Res := hostCmd s (writePortctl s p v.toNat)

/-- PORT_TRAINING (R410): the port is up on four lanes, or stays down; either ends READY's wait for it. -/
def execPortTraining (p : Port) (up : Bool) (s : State) : Res :=
  if !fbit s (Reg.fbPortctl p) 31 then .next s
  else
    let s1 := if up then fset (fset (fset s (Reg.fbPortstat p) 31 31 1) (Reg.fbPortstat p) 30 28 4) (Reg.fbPortstat p) 27 24 15 else s
    .next (portsDone { s1 with portWait := s1.portWait.filter (· ≠ p) })

/-! ### Trace dump (R397) -/

/-- A copy that GO asks for starts unless one is in progress: it takes the packets of the die as they stand, and GO clears. The trace
unit is disabled in sealed mode (R328). -/
def startDump (s : State) : State :=
  if sealed s then fset s Reg.trDump 11 11 0
  else if !fbit s Reg.trDump 11 || fbit s Reg.trDump 10 then s
  else
    { fset (fset s Reg.trDump 11 11 0) Reg.trDump 10 10 1 with
      trCopy := Tab.get [] s.trBuf (fget s Reg.trDump 2 0), trTo := fget s Reg.trDump 63 12 * 4096 }

/-- A write of TR_DUMP (R9, R397). GO written during a copy stays set, and its copy follows (R10; assumption log 167). -/
def writeDump (s : State) (v : Nat) : State := startDump (regWritePlain s Reg.trDump v)

/-- TR_DUMP (R397). -/
def execTrDump (v : W64) (s : State) : Res := hostWide s 0 Reg.trDump fun t => writeDump t v.toNat

/-- TR_DUMP_DONE (R397): the packets are in host memory, oldest first. -/
def execTrDumpDone (s : State) : Res :=
  .next (if fbit s Reg.trDump 10 then
    startDump (fset { s with
      host := Memory.write s.host s.trTo (s.trCopy.flatMap fun p => leBytes 16 p.toNat)
      trCopy := [] } Reg.trDump 10 10 0)
  else s)

/-! ### Mailbox (R284, R285) -/

/-- A write of a mailbox word: discarded and counted while the slot is full; the manager does not write slot 15. -/
def writeWord (s : State) (tenant : Bool) (i slot w : Nat) (v : W64) : State :=
  let key := i * 128 + slot * 8 + w
  if tenant then
    if (Tab.get 0#16 s.mbUpOwn i).getLsbD slot then { s with mbUpDrop := Tab.upd 0 s.mbUpDrop i fun n => satAdd 16 n 1 }
    else { s with mbUp := Tab.put 0#64 s.mbUp key v }
  else if slot = 15 then s
  else if (Tab.get 0#16 s.mbDownOwn i).getLsbD slot then { s with mbDownDrop := Tab.upd 0 s.mbDownDrop i fun n => satAdd 16 n 1 }
  else { s with mbDown := Tab.put 0#64 s.mbDown key v }

/-- OWN bits set: vector 0 of the receiving function where one was clear. -/
def mbPublish (s : State) (tenant : Bool) (i : Nat) (mask : W16) : State :=
  let own := if tenant then Tab.get 0#16 s.mbUpOwn i else Tab.get 0#16 s.mbDownOwn i
  let new := own ||| mask
  if new = own then s
  else if tenant then msix { s with mbUpOwn := Tab.put 0#16 s.mbUpOwn i new } 0 0
  else msix { s with mbDownOwn := Tab.put 0#16 s.mbDownOwn i new } (i + 1) 0

/-- OWN bits cleared by the receiver: vector 0 of the sending function where one was set; a notice may follow in slot 15. -/
def mbRelease (s : State) (tenant : Bool) (i : Nat) (mask : W16) : State :=
  let own := if tenant then Tab.get 0#16 s.mbDownOwn i else Tab.get 0#16 s.mbUpOwn i
  let new := own &&& ~~~mask
  if new = own then s
  else if tenant then postNotice (msix { s with mbDownOwn := Tab.put 0#16 s.mbDownOwn i new } 0 0) i
  else msix { s with mbUpOwn := Tab.put 0#16 s.mbUpOwn i new } (i + 1) 0

/-- MAILBOX_WORD_WRITE (R284). -/
def execMailboxWordWrite (tenant : Bool) (i : Inst) (slot : Fin 16) (w : Fin 8) (v : W64) (s : State) : Res :=
  let fn := if tenant then i.val + 1 else 0
  let off := if tenant then 0x81000 + 0x40 * slot.val + 8 * w.val else 0x108000 + 0x1000 * i.val + 0x400 + 0x40 * slot.val + 8 * w.val
  hostWide s fn off fun t => writeWord t tenant i slot w v
/-- MAILBOX_PUBLISH (R284). -/
def execMailboxPublish (tenant : Bool) (i : Inst) (mask : W16) (s : State) : Res := hostCmd s (mbPublish s tenant i mask)
/-- MAILBOX_RELEASE (R284). -/
def execMailboxRelease (tenant : Bool) (i : Inst) (mask : W16) (s : State) : Res := hostCmd s (mbRelease s tenant i mask)
/-- DEVICE_NOTICE (R285): the next queued notice, once slot 15 is clear. -/
def execDeviceNotice (i : Inst) (s : State) : Res := .next (postNotice s i)

/-! ### BAR4 (R271) -/

/-- A range of the overflow count tables (R151, R414). -/
def inOvfTables (s : State) (a n : Nat) : Bool :=
  (List.range 16).any fun p => written s (Reg.lsOvftab p) && decide (rd s (Reg.lsOvftab p) ≤ a) && decide (a + n ≤ rd s (Reg.lsOvftab p) + 0x8000)

/-- Size of a function's BAR4 (R267): 1 to 64 GiB, set outside this block. -/
def bar4Size (s : State) (fn : Fn) : Nat := 2 ^ Tab.get 36 s.bar4Log fn.val

/-- BAR4 permits an access to one page. -/
def bar4Page (s : State) (fn : Fn) (wr : Bool) (a n pg : Nat) : Bool :=
  let r := s.page pg
  if r.freeing then false
  else match r.kind with
    | .act | .stage => fn.val == 0 || r.inst.val + 1 == fn.val
    | .base => fn.val == 0 && !(wr && (s.part r.part).frozen)
    | .system => fn.val == 0 && inOvfTables s a n
    | _ => false

/-- BAR4_ACCESS (R271): a refused read returns all ones and a refused write is discarded; each is counted. -/
def execBar4Access (fn : Fn) (off n : Nat) (wr : Option (List Byte)) (s : State) : Res :=
  -- beyond the aperture's size no request reaches the function (R267)
  let len := match wr with
    | some bs => bs.length
    | none => n
  let a := if fn.val = 0 then off else rd s (Reg.qmAp (fn.val - 1)) + off
  let ok := decide (a + len ≤ Config.devMemEnd) && (span Config.pageBytes a len).all (bar4Page s fn wr.isSome a len)
  hostCmd s (
    if sealed s || decide (bar4Size s fn < off + len) then s
    else if ok then
      match wr with
      | some bs => devWrite s a bs
      | none => s.emit (.readData fn (Memory.read s.dev a n))
    else
      let s1 := if fn.val = 0 then finc s Reg.mtPfviol 15 0 1 else countViol s (fn.val - 1) 6 a
      match wr with
      | some _ => s1
      | none => s1.emit (.readData fn (List.replicate n 0xFF#8)))

/-! ### Register writes (R12) -/

/-- PW_LIMIT (R389, R399): a limit is never raised above its reset value. -/
def writeLimit (s : State) (v : Nat) : State :=
  s.setReg Reg.pwLimit (min (bits v 63 48) 0x79E * 2 ^ 48 + min (bits v 47 32) 0x708 * 2 ^ 32 + min (bits v 31 16) 0x834 * 2 ^ 16)

/-- CK_DIE (R399): MAX from 600 to 1,400 MHz, rounded down to 25 MHz. -/
def writeClk (s : State) (off v : Nat) : State := fset s off 15 0 (max 600 (min 1400 (bits v 15 0)) / 25 * 25)

/-- Which register of the instance block, by its first register and stride. -/
def idxOf (base stride n off : Nat) : Option Nat :=
  if base ≤ off ∧ (off - base) % stride = 0 ∧ (off - base) / stride < n then some ((off - base) / stride) else none

/-- The manager's mailbox registers of instance `i` (R284). -/
def writeMbox (s : State) (i o v : Nat) : State :=
  if o < 0x400 then s
  else if o < 0x800 then writeWord s false i ((o - 0x400) / 0x40) (o % 0x40 / 8) (BitVec.ofNat 64 v)
  else if o = 0x800 then mbRelease (mbPublish s false i (BitVec.ofNat 16 (bits v 31 16))) false i (BitVec.ofNat 16 (bits v 15 0))
  else if o = 0x808 then { s with mbDownDrop := Tab.put 0 s.mbDownDrop i (bits v 15 0) }
  else s

/-- Block QM, as the PF writes it. -/
def writeQm (s : State) (off v : Nat) : State :=
  let ri := fget s Reg.qmRsel 19 16
  let rr := fget s Reg.qmRsel 13 0
  if 0x108000 ≤ off ∧ off < 0x118000 then writeMbox s ((off - 0x108000) / 0x1000) ((off - 0x108000) % 0x1000) v
  else if off = 0x100020 then writeRbase s true ri rr false v
  else if off = 0x100028 then writeRcfg s true ri rr v
  else if off = 0x100030 then writeRbase s true ri rr true v
  else match idxOf 0x101000 0x40 16 off, idxOf 0x101018 0x40 16 off, idxOf 0x101028 0x40 16 off with
    | some i, _, _ => writeInstctl s i v
    | _, some i, _ => writeDirtyctl s i v
    | _, _, some i => writeAp s i v
    | _, _, _ => regWritePlain s off v

/-- Block SC. -/
def writeSc (s : State) (off v : Nat) : State :=
  match idxOf 0x200100 8 16 off, idxOf 0x201000 0x80 16 off, idxOf 0x201008 0x80 16 off with
  | some i, _, _ => writeInstcfg s i v
  | _, some p, _ => writePcores s p 0 v
  | _, _, some p => writePcores s p 1 v
  | _, _, _ => noteClip s (regWritePlain s off v)

/-- Block KS and IS. -/
def writeKsis (s : State) (off v : Nat) : State :=
  match idxOf 0x401008 0x40 16 off, idxOf 0x401018 0x40 16 off, idxOf 0x401028 0x40 16 off with
  | some i, _, _ => writeRulectl s i v
  | _, some i, _ => writeXval s i (BitVec.ofNat 64 v)
  | _, _, some i => if bit v 31 then beginRemoval s (fin 15 i) else s
  | _, _, _ => regWritePlain s off v

/-- Block LS and TN. -/
def writeLstn (s : State) (off v : Nat) : State :=
  match idxOf 0x700400 0x40 16 off, idxOf 0x700820 0x40 16 off, idxOf 0x701000 0x40 16 off with
  | some p, _, _ => writeLsCtl s p v
  | _, some p, _ => writeHold s p v
  | _, _, some _ => rearm s off v
  | _, _, _ => regWritePlain s off v

/-- A whole write of a PF register. What needs an answer from outside acts through its own command: FC_SDC's GO and
CE_GRPCFG's FORM store their fields here. -/
def pfWrite (s : State) (off v : Nat) : State :=
  match tableExtent off with
  | some ext => writeBase s off v ext
  | none =>
    match off / 0x100000 with
    | 1 => writeQm s off v
    | 2 => writeSc s off v
    | 3 =>
      if off = Reg.fcAck then writeAck s v
      else if off = Reg.fcSdc then writeSdc s v
      else if (idxOf 0x300110 0x20 16 off).isSome then rearm s off v
      else regWritePlain s off v
    | 4 => writeKsis s off v
    | 5 => if isQuota off then writeQuota s off v else noteClip s (regWritePlain s off v)
    | 6 => noteClip s (regWritePlain s off v)
    | 7 => writeLstn s off v
    | 8 => match idxOf 0x801000 0x20 18 off with
      | some p => writePortctl s (fin 17 p) v
      | none => regWritePlain s off v
    | 9 => match idxOf 0x901000 0x20 16 off with
      | some g => requestReset s g v
      | none => regWritePlain s off v
    | 10 =>
      if off = Reg.pwLimit then writeLimit s v
      else if (idxOf 0xA00100 0x10 8 off).isSome then writeClk s off v
      else regWritePlain s off v
    | 11 => if off = Reg.trDump then writeDump s v else noteClip s (regWritePlain s off v)
    | _ => regWritePlain s off v

/-- A whole write of a register in an instance's VF window (R269, R270). -/
def vfWrite (s : State) (i off v : Nat) : State :=
  if off < 0x80000 then
    let r := off / 0x20
    match off % 0x20 with
    | 0x00 => writeRbase s false i r false v
    | 0x08 => writeRcfg s false i r v
    | 0x10 => writeRbase s false i r true v
    | _ => s
  else if off = 0x80128 then rearm s (Reg.tnNanstat i) v
  else if 0x81000 ≤ off ∧ off < 0x81400 then writeWord s true i ((off - 0x81000) / 0x40) (off % 0x40 / 8) (BitVec.ofNat 64 v)
  else if off = 0x81800 then mbRelease (mbPublish s true i (BitVec.ofNat 16 (bits v 15 0))) true i (BitVec.ofNat 16 (bits v 31 16))
  else if off = 0x81808 then { s with mbUpDrop := Tab.put 0 s.mbUpDrop i (bits v 15 0) }
  else s

/-- Width of the PF register at an offset: true for 64 bits; none where none begins there. -/
def pfWidth (off : Nat) : Option Bool :=
  if off = 0x100020 ∨ off = 0x100030 ∨ off = 0x100038 then some true
  else if off = 0x100028 then some false
  else if 0x108000 ≤ off ∧ off < 0x118000 then
    let o := (off - 0x108000) % 0x1000
    if o < 0x800 ∧ o % 8 = 0 then some true else if o = 0x800 ∨ o = 0x808 then some false else none
  else (regRow off).map fun r => r.1.wide

/-- Width of the VF register at an offset. -/
def vfWidth (off : Nat) : Option Bool :=
  if off < 0x80000 then
    match off % 0x20 with
    | 0x00 | 0x10 | 0x18 => some true
    | 0x08 => some false
    | _ => none
  else if off = 0x80008 ∨ off = 0x80128 ∨ off = 0x81800 ∨ off = 0x81808 then some false
  else if (0x80100 ≤ off ∧ off < 0x80128 ∨ 0x80130 ≤ off ∧ off < 0x80150 ∨ 0x81000 ≤ off ∧ off < 0x81800) ∧ off % 8 = 0 then some true
  else none

def regWidth (fn : Fn) (off : Nat) : Option Bool := if fn.val = 0 then pfWidth off else vfWidth off

/-- A register write by a function. -/
def writeWhole (s : State) (fn : Fn) (off v : Nat) : State := if fn.val = 0 then pfWrite s off v else vfWrite s (fn.val - 1) off v

/-- Words of the registers a ring shows (R292). -/
def ringWord (s : State) (i r k : Nat) : Nat :=
  let x := s.ring i r
  match k with
  | 0 => x.rsq.toNat
  | 1 => x.rcfg.toNat
  | 2 => x.rcq.toNat
  | _ => x.tail.toNat * 2 ^ 32 + b2n x.err * 2 ^ 31 + min 65535 x.outst

/-- Mailbox registers from word `o` of the up slots on (R284). -/
def mboxWord (s : State) (i o : Nat) : Nat :=
  if o < 0x400 then (Tab.get 0#64 s.mbUp (i * 128 + o / 8)).toNat
  else if o < 0x800 then (Tab.get 0#64 s.mbDown (i * 128 + (o - 0x400) / 8)).toNat
  else (Tab.get 0#16 s.mbDownOwn i).toNat * 2 ^ 16 + (Tab.get 0#16 s.mbUpOwn i).toNat

/-- What a PF register reads as, ring window and mailbox with it. -/
def pfRead (s : State) (off : Nat) : Nat :=
  if 0x100020 ≤ off ∧ off < 0x100040 then ringWord s (fget s Reg.qmRsel 19 16) (fget s Reg.qmRsel 13 0) ((off - 0x100020) / 8)
  else if 0x108000 ≤ off ∧ off < 0x118000 then
    let i := (off - 0x108000) / 0x1000
    let o := (off - 0x108000) % 0x1000
    if o = 0x808 then Tab.get 0 s.mbDownDrop i else mboxWord s i o
  else readReg s off

/-- What a VF register reads as (R269, R270). -/
def vfRead (s : State) (i off : Nat) : Nat :=
  let p := (partOf s i).getD 0
  if off < 0x80000 then ringWord s i (off / 0x20) (off % 0x20 / 8)
  else if off = 0x80008 then readReg s (Reg.qmInststat i)
  else if 0x81000 ≤ off ∧ off < 0x81808 then mboxWord s i (off - 0x81000)
  else match off with
    | 0x80100 => readReg s (Reg.lsState p)
    | 0x80108 => readReg s (Reg.lsCounts p)
    | 0x80110 => readReg s (Reg.lsOutcomes p)
    | 0x80118 => setBits (readReg s (Reg.tnHold p)) 1 0 0
    | 0x80120 => readReg s (Reg.tnLast p)
    | 0x80128 => readReg s (Reg.tnNanstat i)
    | 0x80130 => readReg s (Reg.tnNanrec0 i)
    | 0x80138 => readReg s (Reg.tnNanrec1 i)
    | 0x80140 => readReg s (Reg.tnNanrec2 i)
    | 0x80148 => readReg s (Reg.tnNanrec3 i)
    | 0x81808 => Tab.get 0 s.mbUpDrop i
    | _ => 0

def readWhole (s : State) (fn : Fn) (off : Nat) : Nat := if fn.val = 0 then pfRead s off else vfRead s (fn.val - 1) off

/-- The low half that a high-half write keeps: its fields that act on a 1 get none. -/
def keepLow (s : State) (fn : Fn) (off : Nat) : Nat :=
  let w := readWhole s fn off % 2 ^ 32
  if fn.val ≠ 0 then w
  else match regRow off with
    | some (r, _) => r.flds.foldl (fun x f => if (f.acc == .w1c || f.acc == .w1s) && decide (f.hi < 32) then setBits x f.hi f.lo 0 else x) w
    | none => w

/-- A BAR0 write by its width and alignment (R12). -/
def bar0Write (s : State) (fn : Fn) (off size : Nat) (v : W64) : State :=
  if size = 8 ∧ off % 8 = 0 then
    match regWidth fn off with
    | some true => writeWhole (s.dropLow fn off) fn off v.toNat
    | _ => s
  else if size = 4 ∧ off % 4 = 0 then
    match regWidth fn off with
    | some false => writeWhole s fn off (v.toNat % 2 ^ 32)
    | some true => if locked s fn off then s else { s with lowPend := Tab.insert s.lowPend (halfKey fn off) (v.truncate 32) }
    | none =>
      if off % 8 = 4 ∧ regWidth fn (off - 4) = some true ∧ !locked s fn (off - 4) then
        let low := match Tab.find s.lowPend (halfKey fn (off - 4)) with
          | some x => x.toNat
          | none => keepLow s fn (off - 4)
        writeWhole (s.dropLow fn (off - 4)) fn (off - 4) (v.toNat % 2 ^ 32 * 2 ^ 32 + low)
      else s
  else s

/-- REGISTER_WRITE (R12). -/
def execRegisterWrite (fn : Fn) (off size : Nat) (v : W64) (s : State) : Res := hostCmd s (bar0Write s fn off size v)

/-- A read is answered (R354): while halted only of the GL_ and FC_ blocks. -/
def readable (s : State) (fn : Fn) (off : Nat) : Bool :=
  s.barUp && (!s.halted || (fn.val == 0 && (off / 0x100000 == 0 || off / 0x100000 == 3)))

/-- A 32-bit read of BAR0 (R12): the low half of a 64-bit register latches its high half for the next high-half read by the same
function; a high-half read takes the latch, or the current high half; a 32-bit register reads whole; bytes that hold no
register read zero. -/
def readHalf (s : State) (fn : Fn) (off : Nat) : State :=
  let say := fun (t : State) (w : Nat) => t.emit (.readData fn (leBytes 4 w))
  match regWidth fn off with
  | some true =>
    let w := readWhole s fn off
    say { s with hiLatch := Tab.insert s.hiLatch (halfKey fn off) (BitVec.ofNat 32 (w / 2 ^ 32)) } (w % 2 ^ 32)
  | some false => say s (readWhole s fn off)
  | none =>
    if off % 8 = 4 ∧ regWidth fn (off - 4) = some true then
      match Tab.find s.hiLatch (halfKey fn (off - 4)) with
      | some x => say { s with hiLatch := Tab.erase s.hiLatch (halfKey fn (off - 4)) } x.toNat
      | none => say s (readWhole s fn (off - 4) / 2 ^ 32)
    else say s 0

/-- A 64-bit read of BAR0 (R12): a 64-bit register whole, zero where no register stands, all ones where a 32-bit one does. -/
def readWide (s : State) (fn : Fn) (off : Nat) : State :=
  s.emit (.readData fn (match regWidth fn off, regWidth fn (off + 4) with
    | some true, _ => leBytes 8 (readWhole s fn off)
    | none, none => List.replicate 8 0#8
    | _, _ => List.replicate 8 0xFF#8))

/-- A read of BAR0 by its width and alignment (R12): all ones where they fit no register. -/
def bar0Read (s : State) (fn : Fn) (off size : Nat) : State :=
  if size = 4 ∧ off % 4 = 0 then readHalf s fn off
  else if size = 8 ∧ off % 8 = 0 then readWide s fn off
  else s.emit (.readData fn (List.replicate size 0xFF#8))

/-- LOW_HALF_READ (R12, R354): a read of BAR0, of the low half of a 64-bit register and of whatever else stands at the offset. -/
def execLowHalfRead (fn : Fn) (off size : Nat) (s : State) : Res := .next (if readable s fn off then bar0Read s fn off size else s)

end Sys2Proof.Machine
end

