-- ==== Sys2Proof/Machine/Faults.lean ====
section
/-! DEFINITION. Fault events (R330, R336, R341 to R347) and the power management unit: limiter, clocks, power states, trace drops
(R380 to R396). -/

namespace Sys2Proof.Machine

/-! ### Messages and fences -/

/-- An error of memory at an address, as its pseudo-channel records it (R344): FC_CFG.UETHR uncorrectable errors since start-up, or
FC_CFG.CETHR corrected ones within a second, reach the threshold. -/
def PcErr.record (s : State) (uncorrected : Bool) (x : PcErr) : PcErr :=
  let ue := x.ue + b2n uncorrected
  let ce := (x.ce.filter fun t => decide (s.time.toNat < t.toNat + 1000000000)) ++ (if uncorrected then [] else [s.time])
  { ue := ue, ce := ce, spent := x.spent || decide (fget s Reg.fcCfg 23 16 ≤ ue) || decide (fget s Reg.fcCfg 15 0 ≤ ce.length) }

/-- The pseudo-channel whose error a MEMUE or MEMCE reports. -/
def errPc (s : State) (m : Nat) : Option Nat :=
  if mKind m = 0x31 ∨ mKind m = 0x22 then some ((pcOf s (mAddr m)).1 * 64 + (pcOf s (mAddr m)).2) else none

/-- A message brings its pseudo-channel to the threshold (R344). -/
def tripsPc (s : State) (m : Nat) : Bool :=
  match errPc s m with
  | some c => !(Tab.get {} s.pcErrs c).spent && (PcErr.record s (mKind m == 0x31) (Tab.get {} s.pcErrs c)).spent
  | none => false

/-- A memory error is recorded; at the threshold the controller sends PCRETIRE (R344). -/
def recordErr (s : State) (m : Nat) : State :=
  match errPc s m with
  | some c =>
    let s1 := { s with pcErrs := Tab.upd {} s.pcErrs c (PcErr.record s (mKind m == 0x31)) }
    if tripsPc s m then report s1 (0x10 + c / 64) (c % 64) 0x33 0 0 (mAddr m) none else s1
  | none => s

/-- FAULT_MESSAGE (R334, R340): a message as a source sends it, with the level of its kind and ESC clear; a MEMUE has poisoned the
64 B it names (R207). -/
def execFaultMessage (m : W128) (s : State) : Res :=
  let n := m.toNat
  .next (if kindLevel (mKind n) = some (mLevel n) ∧ !bit n 80 then
    let s1 := if mKind n = 0x31 ∧ !(s.poison.contains (mAddr n / 64)) then { s with poison := s.poison ++ [mAddr n / 64] } else s
    recordErr (collect s1 n none) n
  else s)

/-- LOGIC (R343): a sequencer, row unit or tile sender of a core fails. A core in Nap is woken first (R398). -/
def execLogic (k : PCore) (s : State) : Res :=
  let s1 := wakeCore (wakeDie s (dieOf k)) k
  let addr := match itemOf s k with
    | some (_, e) => e.lsn % 2 ^ 28 * 2 ^ 20 + (s.core k).cmdIdx % 65536
    | none => 0
  .next (report s1 (dieOf k) (k.val % 18) 0x11 0 0 addr none)

/-- DIE_FENCE (R336, R341): a die link, network or dispatcher fails. -/
def execDieFence (d : Die) (s : State) : Res := .next (report s d 0x7FF 0x13 0 0 0 none)

/-- The lowest device address that a pseudo-channel holds (R190). -/
def pcBase (s : State) (m pc : Nat) : Nat :=
  let g := min 64 (fget s Reg.mtSplit 6 0)
  if pc < 64 - g then (12 * 262144 * pc + m) * 4096
  else 12 * (64 - g) * 2 ^ 30 + m / 3 * (3 * g * 2 ^ 30) + (3 * 262144 * (pc - (64 - g)) + m % 3) * 4096

/-- PCRETIRE (R344): a pseudo-channel at its threshold; the address of its last error where the model holds one. -/
def execPcretire (m : Fin 12) (pc : Fin 64) (s : State) : Res :=
  let last := (s.poison.filter fun u => pcOf s (u * 64) == (m.val, pc.val)).getLast?
  let s1 := { s with pcErrs := Tab.upd {} s.pcErrs (m.val * 64 + pc.val) fun x => { x with spent := true } }
  .next (report s1 (0x10 + m) pc 0x33 0 0 ((last.map (· * 64)).getD (pcBase s m pc)) none)

/-- PC_COPY_DONE (R344): the units are copied and the pseudo-channel is powered down. -/
def execPcCopyDone (m : Fin 12) (pc : Fin 64) (s : State) : Res :=
  .next { s with retired := s.retired.map fun r => if r.pc = m.val * 64 + pc.val then { r with done := true } else r }

/-- STACKFAIL (R336). -/
def execStackfail (m : Fin 12) (s : State) : Res := .next (report s (0x10 + m) 0x7FF 0x35 0 0 0 none)

/-- RING (R336): traffic takes the other direction. -/
def execRing (l : Fin 4) (s : State) : Res := .next (report s (8 + l) 0x203 0x43 0 0 l none)

/-- FW_WATCHDOG (R346): while its key is pending the firmware restarts. -/
def execFwWatchdog (s : State) : Res := .next (report s 12 0x010 0x91 0 0 0 none)

/-- HEARTBEAT_MISS (R347): the root die is lost; the Plinth logs ROOTLOST and halts the module, and no register answers. -/
def execHeartbeatMiss (s : State) : Res :=
  .next (if s.plinth.up && s.plinth.away.isNone then { report s 12 0x030 0x93 0 0 0 none with barUp := false } else s)

/-- GLITCH (R330): every key is zeroised, then the device halts. -/
def execGlitch (detector : BitVec 48) (s : State) : Res := .next (report s 12 0x020 0x63 0 0 detector.toNat none)

/-- Compute dies whose clock a sensor's warning steps down (R392): its own, or all of the quadrant. -/
def hotDies (die : Nat) : List Nat :=
  if die < 8 then [die]
  else if die < 12 then [2 * (die - 8), 2 * (die - 8) + 1]
  else if 16 ≤ die ∧ die < 28 then [2 * ((die - 16) / 3), 2 * ((die - 16) / 3) + 1]
  else List.range 8

/-- The unit that reports a die's temperature (R335). -/
def thermUnit (die : Nat) : Nat := if die = 12 then 0x020 else 0x7FF

/-- THERMWARN (R392): the clocks start to step down. -/
def execThermwarn (die : BitVec 5) (sensor : BitVec 48) (s : State) : Res :=
  let s1 := report s die.toNat (thermUnit die.toNat) 0x81 0 0 sensor.toNat none
  .next (pinAlert { s1 with clkHot := (hotDies die.toNat).foldl (fun l d => if l.contains d then l else l ++ [d]) s1.clkHot })

/-- THERMTRIP (R392). -/
def execThermtrip (die : BitVec 5) (sensor : BitVec 48) (s : State) : Res :=
  .next (report s die.toNat (thermUnit die.toNat) 0x82 0 0 sensor.toNat none)

/-- RAIL (R336). -/
def execRail (r : BitVec 48) (s : State) : Res := .next (report s 12 0x030 0x83 0 0 r.toNat none)

/-- ROOTBLOCK (R336). -/
def execRootblock (unit : BitVec 11) (s : State) : Res := .next (report s 12 unit.toNat 0x92 0 0 unit.toNat none)

/-! ### The limiter (R389, R390) -/

/-- The limiter after a sample. -/
def limit (s : State) (input avg : Nat) : Limiter :=
  let top := fget s Reg.pwLimit 63 48
  let tdp := fget s Reg.pwLimit 47 32
  let peak := fget s Reg.pwLimit 31 16
  let p := s.pw
  let above := decide (top < input)
  let below := decide (input < top)
  let since := if above then some (p.since.getD s.time) else none
  let soon := match p.last with
    | some t => decide (s.time.toNat < t.toNat + 45000000)
    | none => false
  let long := match since with
    | some t => decide (t.toNat + 4000000 ≤ s.time.toNat)
    | none => false
  { since := since
    last := if !above && p.since.isSome then some s.time else p.last
    c16 := decide (peak < input) || (p.c16 && !below)
    c24 := (above && (long || soon)) || (p.c24 && !below)
    tdp := decide (tdp < avg) || (p.tdp && !decide (avg * 100 < tdp * 98)) }

/-- POWER_SAMPLE (R389, R390): an excursion counts when it starts; the lower cap applies (R398). PWR_WARN_N overrides. -/
def execPowerSample (input avg : W16) (s : State) : Res :=
  if !s.pwrWarnN then .next s
  else
    let q := limit s input.toNat avg.toNat
    let s1 := if q.since.isSome && s.pw.since.isNone then finc s Reg.pwStat 63 32 1 else s
    let s2 := fset (fset (fset s1 Reg.pwStat 15 0 avg.toNat) Reg.pwStat 31 31 (b2n (q.c16 || q.c24))) Reg.pwStat 30 25
      (if q.c16 then 16 else if q.c24 then 24 else 32)
    .next { s2 with pw := q }

/-! ### Clocks (R380, R381, R392, R396) -/

/-- SYNC of every core of a die whose clock runs. -/
def syncDie (s : State) (d : Nat) : State :=
  ((List.range 18).filter fun c => (s.core (18 * d + c)).power == .active).foldl (fun t c => traceSync t (18 * d + c)) s

/-- CLOCK_STEP (R381): down while the limiter or a warning asks for it or the clock is above MAX; up to MAX once the limiter has
released, which for a die that was hot says that its reading has fallen. -/
def execClockStep (d : Die) (up : Bool) (s : State) : Res :=
  let cur := fget s (Reg.ckDie d) 31 16
  let top := min 1400 (fget s (Reg.ckDie d) 15 0)
  let held := s.pw.tdp || s.pw.c24
  if up then
    if held || top < cur + 25 then .next s
    else .next (pinAlert (syncDie { fset s (Reg.ckDie d) 31 16 (cur + 25) with clkHot := s.clkHot.filter (· ≠ d.val) } d))
  else if (held || s.clkHot.contains d.val || decide (top < cur)) && decide (625 ≤ cur) then
    .next (syncDie (fset s (Reg.ckDie d) 31 16 (cur - 25)) d)
  else .next s

/-! ### Power states (R385 to R388) -/

/-- DOZE_ENTRY (R386): no item for DOZECY cycles. -/
def execDozeEntry (k : PCore) (idle : Nat) (s : State) : Res :=
  let c := s.core k
  if c.power == .active && c.item.isNone && decide (fget s Reg.pwIdle 15 0 ≤ idle) then
    .next (tracePstate (s.updCore k fun x => { x with power := .doze }) k (if reduced s (dieOf k) then 1 else 0) 2 0)
  else .next s

/-- A core has a posted RCV or an unacknowledged send (R387). -/
def expecting (s : State) (k : Nat) : Bool := !(s.core k).rcvs.isEmpty || s.sent.any fun x => x.dkind ≠ 3 && x.core.val == k

/-- NAP_ENTRY (R387, R396): the trace FIFO is flushed first; a wake request aborts the entry. -/
def execNapEntry (k : PCore) (us : Nat) (wake : Bool) (s : State) : Res :=
  if (s.core k).power == .doze && decide (fget s Reg.pwIdle 31 16 ≤ us) && !expecting s k && !wake then
    .next ((drainFifo (tracePstate s k 2 3 0) k).updCore k fun x => { x with power := .nap })
  else .next s

/-- DIE_NAP (R388): all 18 cores nap, the fenced ones aside, and nothing came for NAPUS. -/
def execDieNap (d : Die) (us : Nat) (s : State) : Res :=
  let asleep := (List.range 18).all fun c => (s.core (18 * d.val + c)).power == .nap || s.fenced.any fun f => f.val == 18 * d.val + c
  if asleep && decide (fget s Reg.pwIdle 31 16 ≤ us) && !(s.dieNap.contains d) && !(s.diesOut.contains d) then
    .next (tracePstate { s with dieNap := s.dieNap ++ [d] } (144 + d) (dieState s d) 3 1)
  else .next s

/-- WAKE (R385, R388): a transfer toward a die, and toward a core of it. With the rails off nothing wakes. -/
def execWake (d : Die) (c : Option (Fin 18)) (s : State) : Res :=
  if !s.rails then .next s
  else
    let s1 := wakeDie s d
    .next (match c with
      | some x => wakeCore s1 (18 * d.val + x.val)
      | none => s1)

/-- TRACE_DROP (R395): a packet found the FIFO full. -/
def execTraceDrop (k : PCore) (s : State) : Res :=
  if traceOn s && decide (32 ≤ (Tab.get [] s.trFifo k).length) then
    .next (finc { s with trDrop := Tab.upd 0 s.trDrop k fun n => satAdd 32 n 1 } (Reg.trPtr (dieOf k)) 63 32 1)
  else .next s

end Sys2Proof.Machine
end

