-- ==== Sys2Proof/Machine/Startup.lean ====
section
/-! DEFINITION. Device reset, power, images and start-up (R13, R266, R324, R325, R352, R369, R403 to R412). -/

namespace Sys2Proof.Machine

/-! ### The key journal (R324, R325) -/

/-- A slot is valid. -/
def JSlot.valid (j : JSlot) : Bool := j.bodyOk && j.commitOk && j.cgen == j.gen

/-- The slot that a Plinth start selects: true for slot 1. -/
def selectSlot (p : Plinth) : Option Bool :=
  match p.jslot0.valid, p.jslot1.valid with
  | true, true => some (decide (p.jslot0.gen.toNat < p.jslot1.gen.toNat))
  | true, false => some false
  | false, true => some true
  | false, false => none

def Plinth.slot (p : Plinth) (one : Bool) : JSlot := if one then p.jslot1 else p.jslot0

/-- KS_STATUS and KS_JGEN show the selected slot (R332). -/
def showJournal (s : State) : State :=
  match s.plinth.jsel with
  | some b => (fset (fset s Reg.ksStatus 31 31 1) Reg.ksStatus 30 30 (b2n b)).setReg Reg.ksJgen (s.plinth.slot b).gen.toNat
  | none => s

/-! ### Images (R369) -/

/-- The active slot of a target (R369). -/
def activeSlot (s : State) (t : Nat) : Nat := Tab.get 0 s.plinth.active t

def imgAt (s : State) (t slot : Nat) : Img := Tab.get {} s.plinth.img (t * 2 + slot)

/-- Bytes of an image slot of a target. -/
def slotBytes (t : Nat) : Nat := if t = 0 then 0x400000 else if t = 3 then 0x2000000 else 0x1000000

/-- COMPAT of the running image: a free value for one that was there at manufacture (assumption log 4). -/
def runningCompat (s : State) (t : Nat) : Nat :=
  let x := imgAt s t (activeSlot s t)
  if x.erased then (Config.freeWord (2 ^ 64 + t)).toNat % 2 ^ 32 else Memory.num x.bytes 20 4

/-- The fused minimum SVN of a target. -/
def minSvn (s : State) (t : Nat) : Nat := max (Config.fusedSvn t).toNat (Tab.get 0 s.plinth.svnMin t)

/-- A signature over bytes 0-71 of an image's header verifies under the Meridun firmware key (R369). -/
def signedOk (head : List Byte) (sig : BitVec 768) : Bool := sig == Config.imageSignature head || Config.imageSignatureOk head sig

/-- An image slot of a target passes the checks of R369. -/
def slotOk (s : State) (t slot : Nat) : Bool :=
  let m := (imgAt s t slot).bytes
  let len := Memory.num m 16 4
  Memory.num m 0 4 == 0x474D4946 && (Memory.get m 4).toNat == t && decide (512 + len ≤ slotBytes t) &&
    signedOk (Memory.read m 0 72) (BitVec.ofNat 768 (ofLe (Memory.read m 72 96))) && Memory.num m 24 48 == (Config.sha384 (Memory.read m 512 len)).toNat &&
    decide (minSvn s t ≤ Memory.num m 12 4) && (decide (t < 2) || Memory.num m 20 4 == runningCompat s t)

/-- A staged image passes the checks of R369. -/
def stagedOk (s : State) (t : Nat) : Bool := slotOk s t (1 - activeSlot s t)

/-- The slot that the Plinth's boot code runs (R369; assumption log 178): the newest that passes the checks, otherwise the other. The
running slot of manufacture, whose bytes the model does not hold, passes. -/
def bootSlot (s : State) : Nat :=
  let a := activeSlot s 0
  let passes := (imgAt s 0 a).erased || slotOk s 0 a
  if slotOk s 0 (1 - a) && (!passes || decide ((imgAt s 0 a).version.toNat < (imgAt s 0 (1 - a)).version.toNat)) then 1 - a else a

/-! ### Device reset (R13) -/

/-- Keys of a device reset (R308): the system memory key from the sealing key and a fresh nonce, the table key, and the
transport keys of the links of compute dies 0 to 7 and of the root die's links, 8 to 11, to bridge dies. Without a journal slot there is no sealing key. -/
def drawKeys (s : State) : State :=
  let (n, s1) := s.drawKey
  let (t, s2) := s1.drawKey
  let sys := match s2.plinth.jsel with
    | some b => Config.hmacSha256 (s2.plinth.slot b).sealKey (leBytes 32 n.toNat)
    | none => n
  (List.range 12).foldl (fun (u : State) q =>
    let (k, v) := u.drawKey
    { v with linkKeys := Tab.insert v.linkKeys q k }) { s2 with sysKey := sys, tableKey := t }

/-- The Plinth at a device reset: its domain stays (R13), each ERA counts (R224), associations go (R379), procedures end. -/
def plinthOverReset (p : Plinth) : Plinth :=
  { p with
    svc := .startup
    era := (List.range 8).foldl (fun t d => Tab.upd 0 t d fun e => (e + 1) % 2 ^ 25) p.era
    engSeq := (List.range 4).foldl (fun t n => Tab.upd 0 t n fun v => (v / 2 ^ 48 + 1) * 2 ^ 48) p.engSeq
    macsec := []
    procs := p.procs.map fun x => if x.st == .running || x.st == .queued then { x with st := .abandoned, finish := none } else x }

/-- Device reset (R13): everything of the device and instance domains takes its reset value. What is outside the device, and
the Plinth's domain, stays; the Plinth brings the rails up again where the input is there. -/
def deviceReset (s : State) : State :=
  let up := s.plinth.up && s.inputIn
  let t : State := {
    pending := s.pending, time := s.time, draws := s.draws, host := s.host, images := s.images, out := s.out
    perstN := s.perstN, pwrWarnN := s.pwrWarnN, inputIn := s.inputIn, rails := up, modPwrgd := up, plinth := plinthOverReset s.plinth }
  let r := pinAlert { t with alertN := s.alertN }
  showJournal (if s.plinth.up then drawKeys r else r)

/-- FLR_PF (R266): a device reset; start-up runs again. -/
def execFlrPf (s : State) : Res := .next (deviceReset s)

/-- PERST_ASSERT (R406). -/
def execPerstAssert (s : State) : Res := .next (deviceReset { s with perstN := false })

/-! ### Start-up (R408 to R411) -/

/-- A defect found at start-up is logged (R411). -/
def logDefect (s : State) (die unit kind : Nat) : State := logMsg s (mkMsg s die unit kind 0 0 0)

/-- A core fails its self-test. -/
def badCore (s : State) (k : PCore) : State := fenceCore (logDefect s (dieOf k) (k.val % 18) 0x11) k

/-- A compute die fails to load, or its link is down. -/
def badDie (s : State) (d : Die) : State := fenceDie (logDefect s d 0x7FF 0x13) d

/-- Unused spares are in Nap (R305, R386). -/
def napSpares (s : State) : State :=
  (List.range 144).foldl (fun t k => if (logOf t k).isNone then t.updCore k fun c => { c with power := .nap } else t) s

/-- PERST_RELEASE (R409, R411, R412): configuration space is ready; bridge firmware runs and the compute dies are loaded and
tested. Before MOD_PWRGD the device holds itself in reset. -/
def execPerstRelease (cfgMs : W32) (badCores : List PCore) (badDies : List Die) (s : State) : Res :=
  let s0 := { s with perstN := true }
  if !s.modPwrgd || s.barUp || s.halted then .next s0
  else
    let s1 := fset { s0 with barUp := true } Reg.glTimes 31 0 cfgMs.toNat
    let s2 := badDies.foldl badDie (badCores.foldl badCore s1)
    .next (napSpares (fset s2 Reg.glStatus 14 13 3))

/-- A pseudo-channel fails training (R411). -/
def badPc (s : State) (x : Fin 12 × Fin 64) : State :=
  let s1 := logDefect s (0x10 + x.1) x.2 0x33
  (retirePc s1 x.1 x.2).getD s1

/-- Claims of table bases that were held (R414). -/
def claimHeld (s : State) : State :=
  s.heldBase.foldl (fun t kv => match tableExtent kv.1 with
    | some ext => claimTable t kv.1 kv.2.toNat ext
    | none => t) { s with heldBase := [] }

/-- MEMDONE (R204, R409, R411, R414): memory is trained and zeroed; a failing stack ends start-up. -/
def execMemdone (badPcs : List (Fin 12 × Fin 64)) (badStacks : List (Fin 12)) (s : State) : Res :=
  if !s.barUp || s.halted || memDone s then .next s
  else
    let upMask := ((List.range 12).filter fun m => !(badStacks.any fun b => b.val == m)).foldl (fun w m => w + 2 ^ m) 0
    let s1 := fset { s with dev := [], poison := [] } Reg.glStatus 11 0 upMask
    if !badStacks.isEmpty then
      .next (fset (badStacks.foldl (fun t (m : Fin 12) => report t (0x10 + m.val) 0x7FF 0x35 0 0 0 none) s1) Reg.glStatus 30 30 1)
    else .next (portsDone (claimHeld (badPcs.foldl badPc (fset s1 Reg.glStatus 15 15 1))))

/-- READY (R409, R410): every step of start-up is done. -/
def execReady (ms : W32) (s : State) : Res :=
  if fget s Reg.glStatus 15 12 ≠ 15 ∨ fbit s Reg.glStatus 30 ∨ s.plinth.svc ≠ .startup ∨ devQuiesced s then .next s
  else
    let s1 := fset (fset s Reg.glStatus 31 31 1) Reg.glTimes 63 32 ms.toNat
    .next { s1 with plinth := { s1.plinth with svc := .normal } }

/-- PLINTH_BOOT (R325, R369, R403, R408, R412): on a supply the Plinth starts and selects its image and its journal slot; with the main
input in range and a cool inlet it brings the rails up and MOD_PWRGD rises. A device that is Off stays so until PERST_N. -/
def execPlinthBoot (stby v54 inletOk : Bool) (s : State) : Res :=
  if !(stby || v54) then .next s
  else
    let s1 :=
      if s.plinth.up then s
      else
        let t := { s with plinth := { s.plinth with
          up := true, jsel := selectSlot s.plinth, active := Tab.put 0 s.plinth.active 0 (bootSlot s) } }
        let u := showJournal (drawKeys t)
        if u.plinth.jsel.isNone then report u 12 0x003 0x64 0 0 0 none else u
    let s2 := if v54 then { s1 with pwrWarnN := true, inputIn := s1.inputIn || inletOk } else s1
    .next (if v54 && inletOk && !s2.halted then { s2 with rails := true, modPwrgd := true } else s2)

/-! ### Loss of the input (R352, R406) -/

/-- The hold-up timeline (R352): work stops uncommitted, the groups are told, the log's tail is kept, the rails are cut. The device is
Off then until its input is back and PERST_N has been asserted and released (R412). -/
def powerDown (s : State) : State :=
  let s1 := noticeSelf (stopAll { s with pwrWarnN := false, inputIn := false })
  cutRails { s1 with barUp := false, halted := true, plinth := { s1.plinth with logTail := s1.plinth.log.drop (s1.plinth.log.length - 4096) } }

/-- PWR_WARN (R352). -/
def execPwrWarn (s : State) : Res := .next (if s.pwrWarnN then powerDown s else s)

/-- UNDERVOLTAGE (R406): as PWR_WARN_N asserted. -/
def execUndervoltage (s : State) : Res := .next (if s.pwrWarnN then powerDown s else s)

/-- What the Plinth's SPI NOR keeps without power (R324, R361, R369). -/
def norOnly (p : Plinth) : Plinth :=
  { anchors := p.anchors, logTail := p.logTail, img := p.img, active := p.active, svnMin := p.svnMin, jslot0 := p.jslot0, jslot1 := p.jslot1 }

/-- PLINTH_RAIL_LOSS (R403): beyond 2 ms without a supply everything but the SPI NOR is lost, the timebase and ERA with it. -/
def execPlinthRailLoss (us : Nat) (s : State) : Res :=
  .next (if us ≤ 2000 then s else
    { pending := s.pending, draws := s.draws, host := s.host, images := s.images, out := s.out, perstN := s.perstN,
      plinth := norOnly s.plinth })

end Sys2Proof.Machine
end

