-- ==== Sys2Proof/Machine/Armature.lean ====
section
/-! DEFINITION. The Plinth's services: Armature sessions, Ecneuz commands, live procedures, I3C and the Armature port (R355, R360
to R379, R326, R347, R369). -/

namespace Sys2Proof.Machine

/-! ### Sessions (R360, R361) -/

/-- The Plinth runs and is not rebooting. -/
def plinthOn (s : State) : Bool := s.plinth.up && s.plinth.away.isNone

/-- A client is accepted: TLS 1.3 with the one suite and no PSK, a chain to an installed anchor, with slot 0 installed and a
journal slot selected. -/
def clientOk (s : State) (t : TlsHello) : Bool :=
  plinthOn s && s.plinth.jsel.isSome && t.port == 7734 && t.tls13 && t.suiteOk && !t.psk && (Tab.find s.plinth.anchors 0).isSome &&
    (match t.anchor with
     | some a => decide (a < 2) && (Tab.find s.plinth.anchors a).isSome
     | none => false)

/-- ARMATURE_CONNECT (R360, R361): at most four sessions; the anchor gives the role. -/
def execArmatureConnect (t : TlsHello) (s : State) : Res :=
  match clientOk s t, [0, 1, 2, 3].find? fun k => (Tab.find s.plinth.sessions k).isNone with
  | true, some k =>
    let role := if t.anchor = some 0 then Role.control else Role.observe
    .next { s with plinth := { s.plinth with sessions := Tab.insert s.plinth.sessions k { role := role } } }
  | _, _ => .next (s.emit (.ecClose 4))

/-! ### Requests (R362 to R365) -/

/-- Response (R362, R364). -/
def respond (s : State) (h : EcHdr) (cmd status : Nat) (payload : List Byte) : State := s.emit (.ec h.sess cmd h.id status payload)

/-- Which commands a state permits beside the guaranteed ones (R366). -/
def permitted (s : State) (cmd : Nat) (g : Bool) (toRecovery : Bool) : Bool :=
  s.plinth.svc != .startup || g || cmd == 0x12 || cmd == 0x26 || cmd == 0x51 || cmd == 0x50 || (cmd == 0x30 && toRecovery)

/-- A command of a session: form (R362), role (R363), state (R365, R366), then what it does: status, payload and state. -/
def ecCmd (s : State) (h : EcHdr) (cmd : Nat) (control g : Bool) (len : Nat) (formOk : Bool) (f : State → State × Nat × List Byte) : Res :=
  match plinthOn s, Tab.find s.plinth.sessions h.sess with
  | true, some x =>
    if h.ver ≠ 1#8 ∨ h.mtype ≠ 0#8 ∨ h.rsvd ≠ 0#24 ∨ 65536 < h.len.toNat ∨ h.len.toNat ≠ len ∨ !formOk then .next (respond s h cmd 2 [])
    else if control && x.role != .control then .next (respond s h cmd 1 [])
    else if !permitted s cmd g (cmd == 0x30) || (sealed s && (cmd == 0x41 || cmd == 0x42)) then .next (respond s h cmd 3 [])
    else
      let (t, status, bs) := f s
      .next (respond t h cmd status bs)
  | _, _ => .next s

/-- A command that answers OK with nothing. -/
def ok (t : State) : State × Nat × List Byte := (t, 0, [])

/-- Service states as R366 numbers them. -/
def Svc.code : Svc → Nat
  | .startup => 0 | .normal => 1 | .test => 2 | .recovery => 3

/-- IDENT (R363). -/
def execIdent (h : EcHdr) (s : State) : Res :=
  ecCmd s h 0x01 false true 0 true fun t =>
    let vers := (List.range 4).flatMap fun g =>
      leBytes 4 (imgAt t g (activeSlot t g)).version.toNat ++ leBytes 4 (imgAt t g (1 - activeSlot t g)).version.toNat
    (t, 0, ascii "MDN-T25" ++ leBytes 1 0xA1 ++ leBytes 8 Config.serial.toNat ++ leBytes 6 Config.armatureMac.toNat ++ leBytes 4 (modId t) ++
      leBytes 1 (Svc.code t.plinth.svc) ++ vers)

/-- ATTEST (R315, R355, R363): measurement blocks 1 to 5 and a signature over the nonce and the blocks. -/
def execAttest (h : EcHdr) (nonce : BitVec 256) (s : State) : Res :=
  ecCmd s h 0x02 false true 32 true fun t =>
    let blocks := (List.range 5).flatMap fun k => (measurement t (k + 1)).getD []
    (t, 0, blocks ++ Config.sign Config.identityKey (leBytes 32 nonce.toNat ++ blocks))

/-- CERTS (R361, R363). -/
def execCerts (h : EcHdr) (s : State) : Res := ecCmd s h 0x03 false true 0 true fun t => (t, 0, Config.measure 0 ++ Config.measure 6)

/-- LOGREAD (R338, R363, R365): messages of the Plinth's ring from a sequence number, with the address rule of R328. -/
def execLogread (h : EcHdr) (first : W32) (count : W16) (s : State) : Res :=
  ecCmd s h 0x10 false true 6 (decide (count.toNat ≤ 4096)) fun t =>
    let ms := (t.plinth.log.drop (first.toNat - t.plinth.logBase)).take (if first.toNat < t.plinth.logBase then 0 else count.toNat)
    (t, 0, ms.flatMap fun m => leBytes 16 (if hideAddr t m.toNat then setBits m.toNat 79 32 0 else m.toNat))

/-- A telemetry record (R368). -/
def sensorRec (x : Sensor) : List Byte :=
  leBytes 8 (packFields [(32, x.value.toNat), (8, x.flags.toNat), (8, x.group.toNat), (16, x.id.toNat)])

/-- TELEM (R368): the records of the last samples in the groups asked for. -/
def execTelem (h : EcHdr) (mask : W32) (s : State) : Res :=
  ecCmd s h 0x11 false true 4 true fun t =>
    (t, 0, (t.plinth.sensors.filter fun x => bit mask.toNat x.group.toNat).flatMap sensorRec)

/-- SUBSCRIBE (R363). -/
def execSubscribe (h : EcHdr) (level : Byte) (interval : W16) (s : State) : Res :=
  ecCmd s h 0x12 false false 3 true fun t =>
    match Tab.find t.plinth.sessions h.sess with
    | some x =>
      let all := Tab.insert t.plinth.sessions h.sess { x with level := level.toNat, interval := interval.toNat }
      ok { t with plinth := { t.plinth with sessions := all } }
    | none => ok t

/-- TELEMETRY_EVENT (R363, R368): the sensors sampled; a session with an interval is sent them. -/
def execTelemetryEvent (sess : Fin 4) (samples : List Sensor) (s : State) : Res :=
  if !plinthOn s then .next s
  else
    let s1 := { s with plinth := { s.plinth with sensors := samples } }
    .next (match Tab.find s1.plinth.sessions sess with
      | some x => if x.interval = 0 then s1 else sessEvent s1 sess x 0x11 (samples.flatMap sensorRec)
      | none => s1)

/-! ### Guaranteed operations and states (R353 to R355, R366) -/

/-- INSTRESET (R288, R355): in every state; when it is late the cores are reset and the rest discarded, which ends the same. -/
def execInstreset (h : EcHdr) (inst : Byte) (late : Bool) (s : State) : Res :=
  ecCmd s h 0x20 true true 1 (decide (inst.toNat < 16)) fun t =>
    let i := inst.toNat
    let cores := (List.range 144).filter fun k => late && (itemOf t k).any fun x => x.2.inst.val == i
    ok (cores.foldl (fun u k => u.updCore k Core.idle) (instanceReset t i 0))

/-- QUIESCE (R353). -/
def execQuiesce (h : EcHdr) (s : State) : Res := ecCmd s h 0x21 true true 0 true fun t => ok (quiesceDevice t)

/-- HALT (R354). -/
def execHalt (h : EcHdr) (s : State) : Res := ecCmd s h 0x22 true true 0 true fun t => ok (haltDevice t)

/-- The service state becomes RECOVERY and procedures end (R378). -/
def toRecovery (s : State) : State := abandonProcs { s with plinth := { s.plinth with svc := .recovery } } fun _ => true

/-- RAILCUT (R355): the compute rails are cut; nothing runs on their cores. -/
def execRailcut (h : EcHdr) (s : State) : Res :=
  ecCmd s h 0x23 true true 0 true fun t => ok (toRecovery (cutCompute (stopAll t)))

/-- ZEROISE (R329, R355): every key; sealed mode begins to end. -/
def execZeroise (h : EcHdr) (s : State) : Res :=
  ecCmd s h 0x24 true true 0 true fun t =>
    let u := zeroiseKeys t
    ok (toRecovery (if sealed u then beginUnseal u else u))

/-- DEVRESET (R13, R363). -/
def execDevreset (h : EcHdr) (s : State) : Res := ecCmd s h 0x25 true false 0 true fun t => ok (deviceReset t)

/-- FAULTACK (R339, R363): as FC_ACK. -/
def execFaultack (h : EcHdr) (cls : Byte) (scope : W16) (s : State) : Res :=
  ecCmd s h 0x26 true false 3 (decide (cls.toNat < 16)) fun t =>
    let (u, done) := ackKey t cls.toNat scope.toNat
    ok (if done then u else fset u Reg.fcStatus 63 63 1)

/-- Level 5 or 6 is pending (R366). -/
def deepPending (s : State) : Bool := devQuiesced s || s.esc.any fun k => decide (5 ≤ k.level)

/-- SVCSTATE (R366): the transitions of the table. -/
def execSvcstate (h : EcHdr) (new : Byte) (s : State) : Res :=
  ecCmd s h 0x30 true false 1 (decide (new.toNat < 4)) fun t =>
    let go := fun (x : Svc) => ok { t with plinth := { t.plinth with svc := x } }
    match new.toNat, t.plinth.svc with
    | 3, _ => go .recovery
    | 2, .normal => go .test
    | 1, .test => go .normal
    | 1, .recovery => if deepPending t then (t, 3, []) else go .normal
    | _, _ => (t, 3, [])

/-! ### Images (R369) -/

def setImg (s : State) (t slot : Nat) (x : Img) : State := { s with plinth := { s.plinth with img := Tab.insert s.plinth.img (t * 2 + slot) x } }

/-- An image procedure runs (R378). -/
def imageBusy (s : State) : Bool := s.plinth.procs.any fun p => p.kind == 0 && (p.st == .running || p.st == .queued)

/-- IMGWRITE (R369): into the standby slot, erased by a write at offset 0. -/
def execImgwrite (h : EcHdr) (target : Byte) (off : W32) (data : List Byte) (s : State) : Res :=
  let t := target.toNat
  ecCmd s h 0x40 true false (5 + data.length)
      (decide (t < 4) && decide (data.length ≤ 65528) && decide (off.toNat + data.length ≤ slotBytes t)) fun u =>
    if imageBusy u then (u, 4, [])
    else
      let slot := 1 - activeSlot u t
      let old : Img := if off = 0#32 then {} else imgAt u t slot
      let bytes := Memory.write old.bytes off.toNat data
      ok (setImg u t slot { bytes := bytes, erased := false, version := BitVec.ofNat 32 (Memory.num bytes 8 4), valid := false })

/-! ### Procedures (R370 to R378) -/

/-- Start a procedure: the next number, with its event. -/
def startProc (s : State) (kind res arg : Nat) (finish : Option W64) : State × Nat × List Byte :=
  let n := s.plinth.procNum + 1
  let p : Proc := { num := n, kind := kind, res := res, st := .queued, start := s.time, finish := finish, arg := arg }
  let s1 := { s with plinth := { s.plinth with procs := s.plinth.procs ++ [p], procNum := n } }
  (setProc s1 { p with st := .running }, 0, leBytes 2 n)

/-- A time from now, in ns. -/
def after (s : State) (ns : Nat) : Option W64 := some (BitVec.ofNat 64 (s.time.toNat + ns))

/-- IMGACT (R365, R369, R371 to R374, R378): the staged image is verified and its procedure starts. -/
def execImgact (h : EcHdr) (target flags : Byte) (s : State) : Res :=
  let t := target.toNat
  ecCmd s h 0x41 true false 2 (decide (t < 4) && decide (flags.toNat < 2)) fun u =>
    if imageBusy u then (u, 4, [])
    else if !stagedOk u t then (u, 5, [])
    else
      let slot := 1 - activeSlot u t
      let v := setImg u t slot { imgAt u t slot with valid := true }
      startProc v 0 t flags.toNat (if t = 1 then after v 40000 else none)

/-- An image procedure is done: the staged slot is the active one; FUSESVN raises the minimum. -/
def imageDone (s : State) (p : Proc) : State :=
  let slot := 1 - activeSlot s p.res
  let svn := Memory.num (imgAt s p.res slot).bytes 12 4
  let s1 := { s with plinth := { s.plinth with
    active := Tab.put 0 s.plinth.active p.res slot
    svnMin := if p.arg = 1 then Tab.upd 0 s.plinth.svnMin p.res (max svn) else s.plinth.svnMin } }
  setProc s1 { p with st := .done, finish := none }

/-- HANDOVER_TIMEOUT (R373): the previous image goes on and the procedure ends ABANDONED. -/
def execHandoverTimeout (s : State) : Res := .next (abandonProcs s fun p => p.kind == 0 && p.res == 1)

/-- Sessions close (R374). -/
def closeSessions (s : State) : State :=
  let s1 := s.plinth.sessions.foldl (fun (t : State) x => t.emit (.ecClose x.1)) s
  { s1 with plinth := { s1.plinth with sessions := [] } }

/-- Messages that FC_LOG holds from number `n` on (R374). -/
def logSince (s : State) (n : Nat) : List W128 :=
  let now := fget s Reg.fcStatus 31 0
  let first := max n (now - 4096)
  (List.range (now - first)).map fun k =>
    BitVec.ofNat 128 (rd s (Reg.fcLoglo ((first + k) % 4096)) + rd s (Reg.fcLoghi ((first + k) % 4096)) * 2 ^ 64)

/-- PLINTH_REBOOT (R325, R369, R374): given while a Plinth image procedure runs it leaves; given again it returns on the new image,
selects its journal slot and copies what was logged meanwhile. -/
def execPlinthReboot (s : State) : Res :=
  match s.plinth.away, s.plinth.procs.find? fun p => p.kind == 0 && p.res == 0 && p.st == .running with
  | none, some _ =>
    let s1 := closeSessions s
    .next { s1 with plinth := { s1.plinth with away := some (fget s1 Reg.fcStatus 31 0) } }
  | some n, some p =>
    let ms := logSince s n
    let gap := decide (4096 < fget s Reg.fcStatus 31 0 - n)
    let q := plinthLog s.plinth ms
    .next (imageDone { s with plinth := { q with away := none, gap := q.gap || gap, jsel := selectSlot q } } p)
  | some _, none => .next { s with plinth := { s.plinth with away := none } }
  | none, none => .next s

/-- JRNLUPD (R326): the unselected slot is rewritten one generation on, and selected when it reads back. -/
def execJrnlupd (h : EcHdr) (mode : Byte) (readback : Bool) (s : State) : Res :=
  ecCmd s h 0x42 true false 1 (decide (mode.toNat < 2)) fun t =>
    match t.plinth.jsel with
    | none => (t, 3, [])
    | some b =>
      let old := t.plinth.slot b
      let put := fun (u : State) (j : JSlot) =>
        let pl := if b then { u.plinth with jslot0 := j } else { u.plinth with jslot1 := j }
        { u with plinth := pl }
      if !readback then (put t {}, 6, [])
      else
        let (k, u) := t.drawKey
        let g := old.gen + 1#32
        let j : JSlot := { bodyOk := true, gen := g, commitOk := true, cgen := g, sealKey := if mode = 1#8 then k else old.sealKey }
        let v := put u j
        ok (showJournal { v with plinth := { v.plinth with jsel := some (!b) } })

/-- MACSEC (R226, R379): an association is installed; an active transmit one becomes the rail's. -/
def execMacsec (h : EcHdr) (a : MacsecSa) (s : State) : Res :=
  let r := a.rail.toNat
  let rx := a.dir == 1#8
  ecCmd s h 0x50 true false 68 (decide (r < 6) && decide (a.dir.toNat < 2) && decide (a.an.toNat < 4) && decide (a.active.toNat < 2)) fun t =>
    let key := saKey r rx a.an.toNat a.sci
    let others := t.plinth.macsec.map fun kv =>
      (kv.1, if !rx && a.active == 1#8 && decide (kv.1 / 4 = r * 2) then (kv.2.1, kv.2.2.1, kv.2.2.2.1, false) else kv.2)
    ok { t with
      plinth := { t.plinth with macsec := Tab.insert others key (a.sci, a.pn, a.sak, a.active == 1#8) }
      pnSeen := Tab.erase t.pnSeen key }

/-- ANCHOR (R361, R363). -/
def execAnchor (h : EcHdr) (slot : Byte) (cert : List Byte) (s : State) : Res :=
  ecCmd s h 0x51 true false (1 + cert.length) (decide (slot.toNat < 2) && !cert.isEmpty) fun t =>
    ok { t with plinth := { t.plinth with anchors := Tab.insert t.plinth.anchors slot.toNat cert } }

/-- A procedure of a kind runs on one of the resources that `same` names (R378). -/
def procBusy (s : State) (kind : Nat) (same : Nat → Bool) : Bool :=
  s.plinth.procs.any fun p => p.kind == kind && same p.res && (p.st == .running || p.st == .queued)

/-- PCTRAIN (R375): recalibration holds the channel 20 µs; retraining lends 512 pages for two copies and a training. -/
def execPctrain (h : EcHdr) (stack pc mode : Byte) (s : State) : Res :=
  let m := stack.toNat
  let c := pc.toNat
  let id := m * 64 + c
  ecCmd s h 0x60 true false 3 (decide (m < 12) && decide (c < 64) && decide (mode.toNat < 2)) fun t =>
    if procBusy t 1 fun r => r / 64 == m then (t, 4, [])
    else if t.retired.any fun r => r.pc == id then (t, 6, [])
    else if mode = 0#8 then startProc t 1 id 0 (after t 20000)
    else match retirePc t m c with
      | some u => startProc u 1 id 1 (after u 134080000)
      | none => (t, 6, [])

/-- LANEEQ (R376): a torus port goes on with the intact pair; a rail goes down. -/
def execLaneeq (h : EcHdr) (port lane : Byte) (s : State) : Res :=
  let p := port.toNat
  let l := lane.toNat
  ecCmd s h 0x61 true false 2 (decide (p < 18) && decide (l < 4)) fun t =>
    let off := Reg.fbPortstat p
    if procBusy t 2 (· == p) then (t, 4, [])
    else if !portUp t p then (t, 6, [])
    else
      let pkts := Tab.get [] t.history p
      let u :=
        if p < 12 then fset (fset t off 30 28 2) off 27 24 (fget t off 27 24 &&& (if l < 2 then 12 else 3))
        else fset t off 31 28 0
      startProc (afterLoss u p pkts) 2 p (if p < 12 ∧ fget t off 27 24 = 15 then 1 else 0) (after u 5000000)

/-- An unused spare of a core's die other than the core itself (R377). -/
def spareLeft (s : State) (k : Nat) : Bool :=
  (List.range 18).any fun c => 18 * (k / 18) + c ≠ k && !(s.fenced.any fun f => f.val == 18 * (k / 18) + c) && (logOf s (18 * (k / 18) + c)).isNone

/-- COREREPL (R377): dispatch to the core stops and its item is switched out; then the core is fenced. -/
def execCorerepl (h : EcHdr) (core flags : Byte) (s : State) : Res :=
  let k := core.toNat
  ecCmd s h 0x62 true false 2 (decide (k < 144) && decide (flags.toNat < 2)) fun t =>
    if procBusy t 3 fun r => r / 18 == k / 18 then (t, 4, [])
    else if (t.fenced.any fun f => f.val == k) || (flags = 0#8 && !spareLeft t k) then (t, 6, [])
    else startProc t 3 k flags.toNat none

/-- PROCSTAT (R363). -/
def execProcstat (h : EcHdr) (num : W16) (s : State) : Res :=
  ecCmd s h 0x63 false true 2 (s.plinth.procs.any fun p => p.num == num.toNat) fun t =>
    (t, 0, ((t.plinth.procs.find? fun p => p.num == num.toNat).map (procPayload t)).getD [])

/-! ### Procedures in time (R371 to R377) -/

/-- A step's time has come. -/
def due (s : State) (p : Proc) : Bool := p.finish.any fun t => decide (t.toNat ≤ s.time.toNat)

/-- The dies of a quadrant run no item (R371). -/
def drained (s : State) (q : Nat) : Bool :=
  !(s.led.any fun kv => (kv.2.st == .running || kv.2.st == .finishing) && (kv.2.pcore.map fun k => k.val / 36) == some q)

/-- An engine's quadrant is drained: no UPD has run uncompleted on UEn and no stream of CEn is ACTIVE (R372). -/
def enginesIdle (s : State) (n : Nat) : Bool :=
  !(s.jobs.any fun j => j.stage == .ran && j.eng == n) && !(s.streams.any fun kv => kv.1 / 1024 == n && kv.2.st == .active)

/-- A rolling procedure (R371, R372): a quadrant loads once it is drained, and the next follows. -/
def rollStep (s : State) (p : Proc) (ready : Bool) (ns : Nat) : State :=
  if p.finish.isNone then (if ready then setProc s { p with finish := after s ns } else s)
  else if !due s p then s
  else if p.step = 3 then imageDone s p
  else setProc s { p with step := p.step + 1, finish := none }

/-- A retraining ends: the pages return zeroed and TOTAL rises (R375). -/
def endRetrain (s : State) (p : Proc) : State :=
  match s.retired.find? fun r => r.pc == p.res with
  | some r =>
    let s1 := zeroingPages { s with retired := s.retired.filter fun x => x.pc ≠ p.res } r.pages
    fset s1 Reg.mtPoolstat 56 38 (fget s1 Reg.mtPoolstat 56 38 + 512)
  | none => s

/-- A lane's pair is re-equalised, or a rail is back (R376). -/
def endLaneeq (s : State) (p : Proc) : State :=
  let off := Reg.fbPortstat p.res
  if p.res < 12 then (if p.arg = 1 then fset (fset s off 27 24 15) off 30 28 4 else s)
  else fset (fset s off 31 31 1) off 30 28 4

/-- One procedure as time passes. -/
def procStep (s : State) (p : Proc) : State :=
  if p.st != .running then s
  else match p.kind with
    | 0 =>
      match p.res with
      | 1 => if due s p then imageDone s p else s
      | 2 => rollStep s p (enginesIdle s p.step) 40000
      | 3 => rollStep s p (drained s p.step) 4000000
      | _ => s
    | 1 => if due s p then setProc (if p.arg = 1 then endRetrain s p else s) { p with st := .done, finish := none } else s
    | 2 => if due s p then setProc (endLaneeq s p) { p with st := .done, finish := none } else s
    | _ =>
      if (s.core p.res).item.isNone then setProc (fenceCore s p.res) { p with st := .done, finish := none } else s

/-- Procedures go on. -/
def procTick (s : State) : State := s.plinth.procs.foldl procStep s

/-! ### I3C (R367) -/

/-- MCTP_REQUEST (R315, R325, R367): what the Plinth answers; anything else is refused with PLDM's or SPDM's error. -/
def execMctpRequest (q : MctpReq) (s : State) : Res :=
  let say := fun (bs : List Byte) => Host.Outcome.next (s.emit (.mctp bs))
  if !plinthOn s then .next s
  else match q with
    | .mctpControl cmd => say [0#8, cmd, 0#8]
    | .pldmBase cmd => say [1#8, cmd, 0#8]
    | .pldmSensor id => match s.plinth.sensors.find? fun x => x.id == id with
      | some x => say ([1#8, 0x11#8, 0#8] ++ sensorRec x)
      | none => say [1#8, 0x11#8, 0x80#8]
    | .pldmServiceState => say [1#8, 0x21#8, 0#8, BitVec.ofNat 8 (Svc.code s.plinth.svc)]
    | .pldmEffecter _ => say [1#8, 0x31#8, 5#8]
    | .pldmFru => say ([1#8, 0x02#8, 0#8] ++ ascii "MDN-T25" ++ leBytes 1 0xA1 ++ leBytes 8 Config.serial.toNat ++ leBytes 6 Config.armatureMac.toNat)
    | .pldmFirmwareUpdate => say [1#8, 0x01#8, 5#8]
    | .spdmCertificate => if s.plinth.jsel.isSome then say (0x02#8 :: Config.measure 0) else say [0x7F#8]
    | .spdmChallenge nonce =>
      if s.plinth.jsel.isSome then say (0x03#8 :: Config.sign Config.identityKey (leBytes 32 nonce.toNat)) else say [0x7F#8]
    | .spdmMeasurements index => match measurement s index.toNat with
      | some bs => if s.plinth.jsel.isSome then say (0x60#8 :: (bs ++ Config.sign Config.identityKey bs)) else say [0x7F#8]
      | none => say [0x7F#8]
    | .spdmKeyExchange => say [0x7F#8]

/-- PLDM_ANCHOR_INSTALL (R361, R367): into an empty slot only. -/
def execPldmAnchorInstall (slot : Byte) (cert : List Byte) (s : State) : Res :=
  if !plinthOn s then .next s
  else if slot.toNat < 2 ∧ (Tab.find s.plinth.anchors slot.toNat).isNone ∧ cert ≠ [] then
    .next (State.emit { s with plinth := { s.plinth with anchors := Tab.insert s.plinth.anchors slot.toNat cert } } (.mctp [0x3F#8, 0#8]))
  else .next (s.emit (.mctp [0x3F#8, 2#8]))

/-! ### The Armature port (R360) -/

/-- The EUI-64 interface identifier of the port's MAC address. -/
def portIid : Nat :=
  let m := Config.armatureMac.toNat
  let hi := m / 2 ^ 24
  (if bit hi 17 then hi - 2 ^ 17 else hi + 2 ^ 17) * 2 ^ 40 + 0xFFFE * 2 ^ 24 + m % 2 ^ 24

/-- The port's addresses: link-local, and the global one once a prefix is known. -/
def portAddrs (s : State) : List Nat :=
  (0xFE80 * 2 ^ 112 + portIid) :: (match s.plinth.ipGlobal with
    | some p => [p.toNat * 2 ^ 64 + portIid]
    | none => [])

/-- NEIGHBOUR_DISCOVERY (R360): neighbour discovery and ICMPv6 echo are answered; an advertisement gives the global address. -/
def execNeighbourDiscovery (q : NdReq) (s : State) : Res :=
  if !plinthOn s then .next s
  else match q with
    | .neighbourSolicitation target =>
      .next (if (portAddrs s).contains target.toNat then s.emit (.net (136#8 :: leBytes 16 target.toNat ++ leBytes 6 Config.armatureMac.toNat)) else s)
    | .echoRequest data => .next (s.emit (.net (129#8 :: data)))
    | .routerAdvertisement pfx => .next { s with plinth := { s.plinth with ipGlobal := some pfx } }

end Sys2Proof.Machine
end

