-- ==== Sys2Proof/Machine/Dispatch.lean ====
section
/-! DEFINITION. The block's commands and their effect on everything but the queue (spec/opcode_table.json). -/

namespace Sys2Proof.Machine

def exec (i : Instr) (s : State) : Host.Outcome State Fault Refusal :=
  match i with
  | .tld k b => Sys2Proof.Machine.execTld k b s
  | .tldAccld k b => Sys2Proof.Machine.execTldAccld k b s
  | .tst k b => Sys2Proof.Machine.execTst k b s
  | .tcp k b => Sys2Proof.Machine.execTcp k b s
  | .mmz k b => Sys2Proof.Machine.execMmz k b s
  | .mma k b => Sys2Proof.Machine.execMma k b s
  | .mmw k b => Sys2Proof.Machine.execMmw k b s
  | .mmq k b => Sys2Proof.Machine.execMmq k b s
  | .pro k b => Sys2Proof.Machine.execPro k b s
  | .epi k b bad => Sys2Proof.Machine.execEpi k b bad s
  | .chn k b bad => Sys2Proof.Machine.execChn k b bad s
  | .segLoad k b => Sys2Proof.Machine.execSegLoad k b s
  | .segSelect k b => Sys2Proof.Machine.execSegSelect k b s
  | .segClear k b => Sys2Proof.Machine.execSegClear k b s
  | .sndSend k b => Sys2Proof.Machine.execSndSend k b s
  | .sndAttach k b => Sys2Proof.Machine.execSndAttach k b s
  | .sndDetach k b => Sys2Proof.Machine.execSndDetach k b s
  | .rcvPlace k b => Sys2Proof.Machine.execRcvPlace k b s
  | .rcvCombine k b => Sys2Proof.Machine.execRcvCombine k b s
  | .synWait k b => Sys2Proof.Machine.execSynWait k b s
  | .synSignal k b => Sys2Proof.Machine.execSynSignal k b s
  | .nrm k b => Sys2Proof.Machine.execNrm k b s
  | .upd k b => Sys2Proof.Machine.execUpd k b s
  | .trp k b => Sys2Proof.Machine.execTrp k b s
  | .endItem k b => Sys2Proof.Machine.execEndItem k b s
  | .startGrant d => Sys2Proof.Machine.execStartGrant d s
  | .transferTimeout k => Sys2Proof.Machine.execTransferTimeout k s
  | .tileArrival k t => Sys2Proof.Machine.execTileArrival k t s
  | .tileAck home seq => Sys2Proof.Machine.execTileAck home seq s
  | .tileResendRetry home seq => Sys2Proof.Machine.execTileResendRetry home seq s
  | .doorbell fn off size val => Sys2Proof.Machine.execDoorbell fn off size val s
  | .admitEntry n0 r => Sys2Proof.Machine.execAdmitEntry n0 r s
  | .work n0 r q => Sys2Proof.Machine.execWork n0 r q s
  | .order n0 r q => Sys2Proof.Machine.execOrder n0 r q s
  | .adapterLoad n0 r q => Sys2Proof.Machine.execAdapterLoad n0 r q s
  | .adapterSwap n0 r q => Sys2Proof.Machine.execAdapterSwap n0 r q s
  | .adapterPin n0 r q => Sys2Proof.Machine.execAdapterPin n0 r q s
  | .adapterUnpin n0 r q => Sys2Proof.Machine.execAdapterUnpin n0 r q s
  | .adapterEvict n0 r q => Sys2Proof.Machine.execAdapterEvict n0 r q s
  | .adapterFree n0 r q => Sys2Proof.Machine.execAdapterFree n0 r q s
  | .baseLoad n0 r q => Sys2Proof.Machine.execBaseLoad n0 r q s
  | .baseSwap n0 r q => Sys2Proof.Machine.execBaseSwap n0 r q s
  | .baseFreeze n0 r q => Sys2Proof.Machine.execBaseFreeze n0 r q s
  | .baseUnfreeze n0 r q => Sys2Proof.Machine.execBaseUnfreeze n0 r q s
  | .memAlloc n0 r q => Sys2Proof.Machine.execMemAlloc n0 r q s
  | .memFree n0 r q => Sys2Proof.Machine.execMemFree n0 r q s
  | .copy n0 r q => Sys2Proof.Machine.execCopy n0 r q s
  | .normread n0 r q => Sys2Proof.Machine.execNormread n0 r q s
  | .peerOpen n0 r q => Sys2Proof.Machine.execPeerOpen n0 r q s
  | .peerClose n0 r q => Sys2Proof.Machine.execPeerClose n0 r q s
  | .streamOpen n0 r q => Sys2Proof.Machine.execStreamOpen n0 r q s
  | .streamClose n0 r q => Sys2Proof.Machine.execStreamClose n0 r q s
  | .nop n0 r q => Sys2Proof.Machine.execNop n0 r q s
  | .generationSatisfied n0 r q => Sys2Proof.Machine.execGenerationSatisfied n0 r q s
  | .dispatch l => Sys2Proof.Machine.execDispatch l s
  | .ledgerRelease d slot => Sys2Proof.Machine.execLedgerRelease d slot s
  | .preempt l => Sys2Proof.Machine.execPreempt l s
  | .switchOut k => Sys2Proof.Machine.execSwitchOut k s
  | .contextRestore slot k => Sys2Proof.Machine.execContextRestore slot k s
  | .microbatchBoundary p => Sys2Proof.Machine.execMicrobatchBoundary p s
  | .prevdirRelease p tag => Sys2Proof.Machine.execPrevdirRelease p tag s
  | .overflowNotify p n layer train => Sys2Proof.Machine.execOverflowNotify p n layer train s
  | .verdictExchange p others => Sys2Proof.Machine.execVerdictExchange p others s
  | .lsDecide p => Sys2Proof.Machine.execLsDecide p s
  | .tnHoldApply p v => Sys2Proof.Machine.execTnHoldApply p v s
  | .tnHoldDiscard p v => Sys2Proof.Machine.execTnHoldDiscard p v s
  | .lsEnable p v => Sys2Proof.Machine.execLsEnable p v s
  | .updRun n => Sys2Proof.Machine.execUpdRun n s
  | .updComplete n => Sys2Proof.Machine.execUpdComplete n s
  | .mirrorSend tag arrives => Sys2Proof.Machine.execMirrorSend tag arrives s
  | .digestExchange tag peer => Sys2Proof.Machine.execDigestExchange tag peer s
  | .adapterRestore tag ev => Sys2Proof.Machine.execAdapterRestore tag ev s
  | .workingCopyRefresh tag n w => Sys2Proof.Machine.execWorkingCopyRefresh tag n w s
  | .cast h => Sys2Proof.Machine.execCast h s
  | .contributionArrival h t => Sys2Proof.Machine.execContributionArrival h t s
  | .engineShardArrival h m => Sys2Proof.Machine.execEngineShardArrival h m s
  | .headerTile h m => Sys2Proof.Machine.execHeaderTile h m s
  | .streamDone h => Sys2Proof.Machine.execStreamDone h s
  | .groupForm g v heard => Sys2Proof.Machine.execGroupForm g v heard s
  | .groupReset g v => Sys2Proof.Machine.execGroupReset g v s
  | .groupResetApply g heard => Sys2Proof.Machine.execGroupResetApply g heard s
  | .dataShard p pkt => Sys2Proof.Machine.execDataShard p pkt s
  | .report p pkt => Sys2Proof.Machine.execReport p pkt s
  | .req p pkt => Sys2Proof.Machine.execReq p pkt s
  | .packetForward p pkt fecBad => Sys2Proof.Machine.execPacketForward p pkt fecBad s
  | .railFrame r f => Sys2Proof.Machine.execRailFrame r f s
  | .shardResendTimeout home engine seq shard => Sys2Proof.Machine.execShardResendTimeout home engine seq shard s
  | .reqTimeout srcMod home engine seq => Sys2Proof.Machine.execReqTimeout srcMod home engine seq s
  | .lane p l => Sys2Proof.Machine.execLane p l s
  | .portLoss p => Sys2Proof.Machine.execPortLoss p s
  | .notice p pkt => Sys2Proof.Machine.execNotice p pkt s
  | .change p pkt => Sys2Proof.Machine.execChange p pkt s
  | .vote p pkt => Sys2Proof.Machine.execVote p pkt s
  | .voteWindowExpiry g => Sys2Proof.Machine.execVoteWindowExpiry g s
  | .commit p pkt => Sys2Proof.Machine.execCommit p pkt s
  | .takeover p pkt => Sys2Proof.Machine.execTakeover p pkt s
  | .takeoverTimeout g => Sys2Proof.Machine.execTakeoverTimeout g s
  | .keyFetch n tag ok => Sys2Proof.Machine.execKeyFetch n tag ok s
  | .retireFinish k => Sys2Proof.Machine.execRetireFinish k s
  | .ruleChangeComplete n0 => Sys2Proof.Machine.execRuleChangeComplete n0 s
  | .pageZeroed n => Sys2Proof.Machine.execPageZeroed n s
  | .setkey fn m => Sys2Proof.Machine.execSetkey fn m s
  | .retire fn m => Sys2Proof.Machine.execRetire fn m s
  | .query fn m => Sys2Proof.Machine.execQuery fn m s
  | .seal fn m => Sys2Proof.Machine.execSeal fn m s
  | .unseal fn m => Sys2Proof.Machine.execUnseal fn m s
  | .spdmRequest fn q => Sys2Proof.Machine.execSpdmRequest fn q s
  | .ideKm fn key => Sys2Proof.Machine.execIdeKm fn key s
  | .tenantRemoval n0 v => Sys2Proof.Machine.execTenantRemoval n0 v s
  | .instctlReset n0 v => Sys2Proof.Machine.execInstctlReset n0 v s
  | .instctlQuiesce n0 v => Sys2Proof.Machine.execInstctlQuiesce n0 v s
  | .instanceQuiesced n0 => Sys2Proof.Machine.execInstanceQuiesced n0 s
  | .instctlResume n0 v => Sys2Proof.Machine.execInstctlResume n0 v s
  | .instctlFreeze n0 v => Sys2Proof.Machine.execInstctlFreeze n0 v s
  | .instctlSave n0 v => Sys2Proof.Machine.execInstctlSave n0 v s
  | .instctlRestore n0 v => Sys2Proof.Machine.execInstctlRestore n0 v s
  | .instctlThaw n0 v => Sys2Proof.Machine.execInstctlThaw n0 v s
  | .flrVf n0 => Sys2Proof.Machine.execFlrVf n0 s
  | .flrPf => Sys2Proof.Machine.execFlrPf s
  | .ringEnable fn n0 r v => Sys2Proof.Machine.execRingEnable fn n0 r v s
  | .dirtyEnable n0 v => Sys2Proof.Machine.execDirtyEnable n0 v s
  | .dirtySelect n0 v => Sys2Proof.Machine.execDirtySelect n0 v s
  | .flipped n0 => Sys2Proof.Machine.execFlipped n0 s
  | .tnNanstatRearm n0 v => Sys2Proof.Machine.execTnNanstatRearm n0 v s
  | .mrNanstatRearm n0 v => Sys2Proof.Machine.execMrNanstatRearm n0 v s
  | .fcLstatRearm c v => Sys2Proof.Machine.execFcLstatRearm c v s
  | .isViolRearm n0 v => Sys2Proof.Machine.execIsViolRearm n0 v s
  | .fcAck v => Sys2Proof.Machine.execFcAck v s
  | .reverify v buddyReread => Sys2Proof.Machine.execReverify v buddyReread s
  | .keepowner v buddyDigest => Sys2Proof.Machine.execKeepowner v buddyDigest s
  | .keepbuddy v mir buddyDigest => Sys2Proof.Machine.execKeepbuddy v mir buddyDigest s
  | .xvalStage n0 v => Sys2Proof.Machine.execXvalStage n0 v s
  | .rulectlCommit n0 v => Sys2Proof.Machine.execRulectlCommit n0 v s
  | .sealArm v => Sys2Proof.Machine.execSealArm v s
  | .qmApWrite n0 v => Sys2Proof.Machine.execQmApWrite n0 v s
  | .tableBaseWrite off v => Sys2Proof.Machine.execTableBaseWrite off v s
  | .instcfgWrite n0 v => Sys2Proof.Machine.execInstcfgWrite n0 v s
  | .pcoresWrite p half v => Sys2Proof.Machine.execPcoresWrite p half v s
  | .quotaWrite off v => Sys2Proof.Machine.execQuotaWrite off v s
  | .portEnable p v => Sys2Proof.Machine.execPortEnable p v s
  | .portTraining p up => Sys2Proof.Machine.execPortTraining p up s
  | .trDump v => Sys2Proof.Machine.execTrDump v s
  | .mailboxWordWrite tenant n0 slot w v => Sys2Proof.Machine.execMailboxWordWrite tenant n0 slot w v s
  | .mailboxPublish tenant n0 mask => Sys2Proof.Machine.execMailboxPublish tenant n0 mask s
  | .mailboxRelease tenant n0 mask => Sys2Proof.Machine.execMailboxRelease tenant n0 mask s
  | .deviceNotice n0 => Sys2Proof.Machine.execDeviceNotice n0 s
  | .bar4Access fn off n wr => Sys2Proof.Machine.execBar4Access fn off n wr s
  | .registerWrite fn off size v => Sys2Proof.Machine.execRegisterWrite fn off size v s
  | .faultMessage m => Sys2Proof.Machine.execFaultMessage m s
  | .logic k => Sys2Proof.Machine.execLogic k s
  | .dieFence d => Sys2Proof.Machine.execDieFence d s
  | .pcretire m pc => Sys2Proof.Machine.execPcretire m pc s
  | .pcCopyDone m pc => Sys2Proof.Machine.execPcCopyDone m pc s
  | .stackfail m => Sys2Proof.Machine.execStackfail m s
  | .ring l => Sys2Proof.Machine.execRing l s
  | .fwWatchdog => Sys2Proof.Machine.execFwWatchdog s
  | .heartbeatMiss => Sys2Proof.Machine.execHeartbeatMiss s
  | .glitch detector => Sys2Proof.Machine.execGlitch detector s
  | .thermwarn die sensor => Sys2Proof.Machine.execThermwarn die sensor s
  | .thermtrip die sensor => Sys2Proof.Machine.execThermtrip die sensor s
  | .rail r => Sys2Proof.Machine.execRail r s
  | .powerSample input avg => Sys2Proof.Machine.execPowerSample input avg s
  | .clockStep d up => Sys2Proof.Machine.execClockStep d up s
  | .dozeEntry k idle => Sys2Proof.Machine.execDozeEntry k idle s
  | .napEntry k us wake => Sys2Proof.Machine.execNapEntry k us wake s
  | .dieNap d us => Sys2Proof.Machine.execDieNap d us s
  | .wake d c => Sys2Proof.Machine.execWake d c s
  | .traceDrop k => Sys2Proof.Machine.execTraceDrop k s
  | .perstAssert => Sys2Proof.Machine.execPerstAssert s
  | .perstRelease cfgMs badCores badDies => Sys2Proof.Machine.execPerstRelease cfgMs badCores badDies s
  | .memdone badPcs badStacks => Sys2Proof.Machine.execMemdone badPcs badStacks s
  | .ready ms => Sys2Proof.Machine.execReady ms s
  | .plinthBoot stby v54 inletOk => Sys2Proof.Machine.execPlinthBoot stby v54 inletOk s
  | .pwrWarn => Sys2Proof.Machine.execPwrWarn s
  | .undervoltage => Sys2Proof.Machine.execUndervoltage s
  | .armatureConnect t => Sys2Proof.Machine.execArmatureConnect t s
  | .ident h => Sys2Proof.Machine.execIdent h s
  | .attest h nonce => Sys2Proof.Machine.execAttest h nonce s
  | .certs h => Sys2Proof.Machine.execCerts h s
  | .logread h first count => Sys2Proof.Machine.execLogread h first count s
  | .telem h mask => Sys2Proof.Machine.execTelem h mask s
  | .subscribe h level interval => Sys2Proof.Machine.execSubscribe h level interval s
  | .telemetryEvent sess samples => Sys2Proof.Machine.execTelemetryEvent sess samples s
  | .instreset h inst late => Sys2Proof.Machine.execInstreset h inst late s
  | .quiesce h => Sys2Proof.Machine.execQuiesce h s
  | .halt h => Sys2Proof.Machine.execHalt h s
  | .railcut h => Sys2Proof.Machine.execRailcut h s
  | .zeroise h => Sys2Proof.Machine.execZeroise h s
  | .devreset h => Sys2Proof.Machine.execDevreset h s
  | .faultack h cls scope => Sys2Proof.Machine.execFaultack h cls scope s
  | .svcstate h new => Sys2Proof.Machine.execSvcstate h new s
  | .imgwrite h target off data => Sys2Proof.Machine.execImgwrite h target off data s
  | .imgact h target flags => Sys2Proof.Machine.execImgact h target flags s
  | .handoverTimeout => Sys2Proof.Machine.execHandoverTimeout s
  | .jrnlupd h mode readback => Sys2Proof.Machine.execJrnlupd h mode readback s
  | .macsec h sa => Sys2Proof.Machine.execMacsec h sa s
  | .anchor h slot cert => Sys2Proof.Machine.execAnchor h slot cert s
  | .pctrain h stack pc mode => Sys2Proof.Machine.execPctrain h stack pc mode s
  | .laneeq h port lane => Sys2Proof.Machine.execLaneeq h port lane s
  | .corerepl h core flags => Sys2Proof.Machine.execCorerepl h core flags s
  | .procstat h num => Sys2Proof.Machine.execProcstat h num s
  | .mctpRequest q => Sys2Proof.Machine.execMctpRequest q s
  | .pldmAnchorInstall slot cert => Sys2Proof.Machine.execPldmAnchorInstall slot cert s
  | .plinthReboot => Sys2Proof.Machine.execPlinthReboot s
  | .rootblock unit => Sys2Proof.Machine.execRootblock unit s
  | .plinthRailLoss us => Sys2Proof.Machine.execPlinthRailLoss us s
  | .lowHalfRead n0 n1 n2 => Sys2Proof.Machine.execLowHalfRead n0 n1 n2 s
  | .neighbourDiscovery q => Sys2Proof.Machine.execNeighbourDiscovery q s
  | .opcodeNotInTable k w => Sys2Proof.Machine.execOpcodeNotInTable k w s
  | .saved n0 => Sys2Proof.Machine.execSaved n0 s
  | .trDumpDone => Sys2Proof.Machine.execTrDumpDone s
  | .loadingDone tag => Sys2Proof.Machine.execLoadingDone tag s

end Sys2Proof.Machine
end

