-- ==== Sys2Proof/Machine/Tick.lean ====
section
/-! DEFINITION. What happens as time passes while no command waits (assumption log 9): the timebase counts, trace drains, arrays perform
their passes, and what waited for something tries again. -/

namespace Sys2Proof.Machine

/-- The timebase counts a nanosecond while the Plinth has its rail (R382). -/
def tickTime (s : State) : State := if s.plinth.up then { s with time := s.time + 1#64 } else s

/-- Every trace FIFO drains into its die's buffer (R393). -/
def tickTrace (s : State) : State := s.trFifo.foldl (fun t kv => drainFifo t kv.1) s

/-- An operation that waits for the device tries again (R206, R243, R416). -/
def retryOp (s : State) (o : Op) : State :=
  let go := fun (f : Inst → RingId → W32 → State → Res) => match f o.inst o.ring o.subseq s with
    | .next t => t
    | _ => s
  if !o.parked then s
  else match entByte o.desc 0, entByte o.desc 2 with
    | 0x20, 0 => go execMemAlloc
    | 0x20, 1 => go execMemFree
    | 0x10, 0 => go execAdapterLoad
    | 0x10, 1 => go execAdapterSwap
    | 0x10, 2 => go execAdapterPin
    | 0x10, 3 => go execAdapterUnpin
    | 0x10, 4 => go execAdapterEvict
    | 0x10, 5 => go execAdapterFree
    | 0x11, 0 => go execBaseLoad
    | 0x30, 1 => go execPeerClose
    | _, _ => s

/-- Every waiting operation tries again, in order of admission. -/
def tickOps (s : State) : State := s.ops.foldl retryOp s

/-- Cycles that a running item's core spends in the nanosecond that ends now are charged to its class (R298, R299). -/
def tickCharge (s : State) : State :=
  s.led.foldl (fun t kv =>
    match kv.2.pcore with
    | some k =>
      let ran := s.time.toNat - kv.2.start.toNat
      let n := coreCycles s k ran - coreCycles s k (ran - 1)
      if kv.2.st == .running && s.plinth.up && n ≠ 0 then charge t 0 (ledPart s kv.2) kv.2.cls n else t
    | none => t) s

/-- What an item left running on the arrays of its core has ended: nothing of it is in flight there any more (assumption log 163). -/
def tickTails (s : State) : State :=
  ((s.cores.map (·.1)).filter fun n => decide (144 ≤ n)).foldl (fun t n =>
    match itemOf t n with
    | some (_, e) =>
      if (t.core n).flight.any (fun f => (leftOver f).isSome) && !(t.core e.coreNo).flight.any (fun f => f.idx == 65536) then
        commitItem (settleCore (t.updCore n fun c => { c with flight := c.flight.filter fun f => (leftOver f).isNone }) n) n
      else t
    | none => t) s

/-- A step without a command. -/
def tick (s : State) : State :=
  let s1 := tickTails (tickArrays (tickTrace (tickCharge (tickTime s))))
  let s2 := (List.range 16).foldl tryFreeze (procTick (retryRetire (firmwareAcks s1)))
  settleRefreshes (tickEngines (tickOps s2))

end Sys2Proof.Machine
end

