-- ==== Sys2Proof/WellFormed.lean ====
section
/-! DEFINITION. Which terms of `Instr` spell a command of spec/opcode_table.json. A tile word's MODE or OP field names its row
(R70, R99, R102, R116, R193, R76); a register row carries a value whose own bits ask for it. -/

namespace Sys2Proof

open Sys2Proof.Machine

/-- Bits [hi:lo] of a tile word's operand part. -/
def WellFormed.field (b : BitVec 120) (hi lo : Nat) : Nat := bits b.toNat hi lo

/-- TLD with ACCLD = 1: an uncoded TFMT (not 3 or 4) with bit 7 set (R193). -/
def WellFormed.accld (b : BitVec 120) : Bool :=
  WellFormed.field b 103 101 ≠ 3 && WellFormed.field b 103 101 ≠ 4 && WellFormed.field b 7 7 = 1

/-- The opcodes of the table of R71. -/
def WellFormed.opcodes : List Nat :=
  [0x01, 0x02, 0x03, 0x10, 0x11, 0x12, 0x13, 0x20, 0x21, 0x22, 0x23, 0x30, 0x31, 0x40, 0x41, 0x50, 0xF0, 0xFF]

/-- Bytes of a tile by TFMT (R99). -/
def WellFormed.tileBytes : Nat → Option Nat
  | 0 => some 8192 | 1 => some 16384 | 2 => some 24576 | 3 => some 4162 | 4 => some 2114 | 5 => some 512 | _ => none

/-- A tile carries the bytes of its TFMT (R99, R218). -/
def WellFormed.tile (t : TileMsg) : Bool := WellFormed.tileBytes t.tfmt.toNat = some t.data.length

/-- A BAR access of 4 or 8 bytes, aligned to its size, whose value fits it (R12). -/
def WellFormed.access (off size : Nat) (v : W64) : Bool :=
  (size = 4 || size = 8) && off % size = 0 && decide (v.toNat < 2 ^ (8 * size))

/-- A write that has a row of its own because it carries what other modules answer: FC_SDC with GO (R356), CE_GRPCFG with
FORM (R241). The bits lie in the high half. -/
def WellFormed.ownRow (off size : Nat) (v : W64) : Bool :=
  let hi := if size = 8 then v.toNat / 2 ^ 32 else v.toNat
  let at_ := fun (r : Nat) => (size = 8 && off = r) || (size = 4 && off = r + 4)
  (at_ Reg.fcSdc && bit hi 31 && bits hi 29 27 ≠ 0) ||
    ((List.range 16).any fun g => at_ (Reg.ceGrpcfg g) && bit hi 31)

/-- A command of the table. A reserved MODE or OP travels with the last row of its opcode, which rejects it. -/
def WellFormed (c : Instr) : Bool :=
  match c with
  | .tld _ b => !WellFormed.accld b
  | .tldAccld _ b => WellFormed.accld b
  | .segLoad _ b => WellFormed.field b 103 102 = 0
  | .segSelect _ b => WellFormed.field b 103 102 = 1
  | .segClear _ b => decide (2 ≤ WellFormed.field b 103 102)
  | .sndSend _ b => WellFormed.field b 103 102 = 0
  | .sndAttach _ b => WellFormed.field b 103 102 = 1
  | .sndDetach _ b => decide (2 ≤ WellFormed.field b 103 102)
  | .rcvPlace _ b => WellFormed.field b 103 102 = 0
  | .rcvCombine _ b => decide (1 ≤ WellFormed.field b 103 102)
  | .synWait _ b => WellFormed.field b 103 103 = 0
  | .synSignal _ b => WellFormed.field b 103 103 = 1
  | .opcodeNotInTable _ w => !WellFormed.opcodes.contains (bits w.toNat 127 120)
  | .tileArrival _ t => WellFormed.tile t
  | .contributionArrival _ t => WellFormed.tile t
  | .doorbell _ _ size v => v.all fun x => decide (x.toNat < 2 ^ (8 * size))
  | .groupForm _ v _ => bits v.toNat 63 63 = 1
  | .groupReset _ v => bits v.toNat 62 62 = 1
  | .reverify v _ => bits v.toNat 63 63 = 1
  | .keepowner v _ => bits v.toNat 63 63 = 1
  | .keepbuddy v _ _ => bits v.toNat 63 63 = 1
  | .bar4Access _ _ n wr => match wr with
    | some bs => bs.length = n
    | none => true
  | .registerWrite _ off size v => WellFormed.access off size v && !WellFormed.ownRow off size v
  | .lowHalfRead _ _ size => size = 1 ∨ size = 2 ∨ size = 4 ∨ size = 8
  | _ => true

end Sys2Proof
end

