-- ==== Sys2Proof/Safety.lean ====
section
/-! DEFINITION. The words in which the statements speak: when a core issues its next command, which parts of the state a
command leaves alone, and the memory invariant. -/

namespace Sys2Proof.Machine

/-- A core runs an item that may issue its next command: it has not reached END, no context switch is in progress, the
program has a further command, which the fetch may read, and fewer than 32 commands are incomplete (R67, R69, R78, R201, R301). -/
abbrev issuing (s : State) (k key : Nat) (e : Led) : Prop :=
  itemOf s k = some (key, e) ∧ e.st ≠ .finishing ∧ (s.core k).switching = false ∧
    (s.core k).cmdIdx < workNcmd e.desc ∧ incomplete (s.core k) < 32 ∧ fetchStop s e (s.core k) = none

/-- A core after its next command issued: the index counts and nothing holds issue (R67, R81). -/
abbrev stepped (c : Core) : Core := { c with cmdIdx := c.cmdIdx + 1, wait := 0 }

/-- Nothing holds a command that uses `u`: the interlock of R68 passes and the transfer table has the entries it takes (R199). -/
abbrev unheld (s : State) (k : Nat) (e : Led) (u : Use) : Prop :=
  interlock e (s.core k) u = false ∧ xferFits s k e.inst u.xfer = true

/-- All of a state but its cores, its registers, the trace unit's FIFOs and counters, and the draw counter. -/
def besideCores (s : State) : State := { s with cores := [], regs := [], trFifo := [], trDrop := [], draws := 0 }

/-- Two states differ at most in one core, in registers and in the trace unit. -/
abbrev onlyCore (s t : State) (k : Nat) : Prop := besideCores t = besideCores s ∧ ∀ j, j ≠ k → t.core j = s.core j

/-- Every register reads as before but those of a list and the trace drop counters TR_PTR (R395). -/
abbrev regsBut (s t : State) (l : List Nat) : Prop :=
  ∀ off, off ∉ l → (∀ d, off ≠ Reg.trPtr d) → rd t off = rd s off

/-- Every byte of device memory and of host memory reads as before. -/
abbrev sameMemory (s t : State) : Prop := t.dev = s.dev ∧ t.host = s.host

/-- The admitted entry SUBSEQ of a ring, of a type (R278). -/
abbrev entryOf (s : State) (i : Inst) (r : RingId) (q : W32) (o : Op) (typ : Nat) : Prop :=
  opsAt s i r q typ none = [o]

/-- The admitted entry SUBSEQ of a ring, of a type and a sub-operation (R278). -/
abbrev entrySub (s : State) (i : Inst) (r : RingId) (q : W32) (o : Op) (typ sub : Nat) : Prop :=
  opsAt s i r q typ (some sub) = [o]

/-- A command of Ecneuz that its session may give now: the Plinth runs, the session `x` is open and has the role, the header is of good form with the
payload's length, and the service state and sealed mode permit the command (R362 to R366, R378). -/
abbrev ecReady (s : State) (h : EcHdr) (x : Session) (cmd len : Nat) (control g : Bool) : Prop :=
  plinthOn s = true ∧ Tab.find s.plinth.sessions h.sess = some x ∧ (control = true → x.role = .control) ∧
    h.ver = 1#8 ∧ h.mtype = 0#8 ∧ h.rsvd = 0#24 ∧ h.len.toNat = len ∧ len ≤ 65536 ∧ permitted s cmd g (cmd == 0x30) = true ∧
    (sealed s = true → cmd ≠ 0x41 ∧ cmd ≠ 0x42)

/-- Nothing of the device runs: no ledger entry and no update (R353). -/
abbrev nothingRuns (s : State) : Prop := s.led = [] ∧ s.jobs = []

/-- Nothing holds the publication of a working copy of step `n` of an adapter (R20, R164): no running eval item reads the older one, no
earlier refresh waits, and the step after was not skipped already. -/
abbrev copyFree (s : State) (tag : Tag) (n : W32) : Prop :=
  evalReads s tag.toNat n = false ∧ Tab.find s.refreshes tag.toNat = none ∧
    (stepRec s ((partOf s (s.desc tag.toNat).inst).getD 0) (n + 1#32)).outcome.skipped = false

/-- A membership message arrives: a whole packet of type 4 for this module on a torus port that is up, whose payload reads as `m` (R219,
R257). -/
abbrev membArrives (s : State) (p : Port) (pkt : List Byte) (m : Memb) : Prop :=
  p.val < 12 ∧ portUp s p = true ∧ crcOk pkt = true ∧ pktType pkt = 4 ∧ membType (pkt.drop 40) = m.typ ∧
    ∃ h pl sl, parsePacket pkt = some (h, pl, sl) ∧ h.typ = 4 ∧ h.dstMod = modId s ∧ readMemb pl = some m

/-- No escalation key of a class and a scope is pending (R339). -/
abbrev notPending (s : State) (c sc : Nat) : Prop := ∀ k ∈ s.esc, k.cls = c → k.scope ≠ sc

/-- Both memories are in canonical form. -/
abbrev memoryOk (s : State) : Prop := Memory.wf s.dev = true ∧ Memory.wf s.host = true

end Sys2Proof.Machine
end

