-- ==== Sys2Proof/Certificates/Slice0/Obligations.lean ====
section
/-! DEFINITION. The statements for the provers. Each names the rules of spec/ it rests on; where a clause rests on a choice
of the model, its docstring names the assumption log's entry. -/

open Sys2Proof Sys2Proof.Machine

/-! ### The step, the queue and the memories -/

/-- Log 1: a step takes the command at the front of the queue and runs it on the state with the queue's rest. -/
def Obligations.StepRunsFront : Prop :=
  ∀ (c : Instr) (rest : List Instr) (s : State), s.pending = c :: rest → step s = exec c { s with pending := rest }

/-- The memory invariant holds at reset: nothing is listed, and an unlisted byte reads as zero (logs 4 and 5). -/
def Obligations.ResetMemoryCanonical : Prop :=
  memoryOk State.reset ∧ ∀ a, Memory.get State.reset.dev a = 0#8 ∧ Memory.get State.reset.host a = 0#8

/-- Every step, of every command and of time, keeps both memories in canonical form. -/
def Obligations.StepKeepsMemoryCanonical : Prop :=
  ∀ s t : State, memoryOk s → step s = .next t → memoryOk t

/-- Log 1: every command answers a next state in every state, and so does every step: the block never stops. -/
def Obligations.EveryCommandAnswers : Prop :=
  (∀ (c : Instr) (s : State), ∃ t, exec c s = .next t) ∧ ∀ s : State, ∃ t, step s = .next t

/-- R13, R200, R307, R399: at reset GL_IDENT reads its identity, every logical core is mapped to its own physical core, every page is
FREE, no adapter, item or seal is there, and the queue, rings, ledger, keys and output are empty. -/
def Obligations.ResetValues : Prop :=
  State.reset.pending = [] ∧ State.reset.led = [] ∧ State.reset.rings = [] ∧ State.reset.ktab = [] ∧ State.reset.out = [] ∧
    rd State.reset Reg.glIdent = 0x4D25A100 ∧
    (∀ l : Fin 128, mapped State.reset l = true ∧ physOf State.reset l = 18 * (l.val / 16) + l.val % 16) ∧
    (∀ n, (State.reset.page n).kind = .free) ∧ (∀ t, (State.reset.desc t).st = .free) ∧
    (∀ k, (State.reset.core k).item = none) ∧ sealed State.reset = false

/-! ### Arithmetic -/

/-- R28: the residue of an accumulation stays within plus and minus 2^14 and never saturates. -/
def Obligations.ResidueStaysInRange : Prop :=
  ∀ (a q : Pair) (p : Fv) (o : Bool), accAdd a p = .ok q o → -16384 ≤ q.t.toInt ∧ q.t.toInt ≤ 16384

/-- R34: a value that FP16 represents exactly is returned unchanged by the stochastic cast, whatever the random integer. -/
def Obligations.StochasticCastKeepsExact : Prop :=
  ∀ (h u : W16), (dec16 h).isFinite = true → stochastic16 (widen h) u = (h, false)

/-! ### Tile commands -/

/-- R73, R84, R85, R116, R118: MMZ, PRO without a norm, SEG SELECT and SEG CLEAR complete on an issuing core; what each
leaves in the core, and that nothing else changes but the trace. -/
def Obligations.CoreStateCommandsComplete : Prop :=
  ∀ (s : State) (k : PCore) (b : BitVec 120) (key : Nat) (e : Led), issuing s k key e →
    let c := s.core k
    (hdrBad b true false = false → f120 b 102 0 = 0 → unheld s k e { sets := [(cmdArr b, f120 b 103 103)] } →
      ∃ t, exec (.mmz k b) s = .next t ∧ onlyCore s t k ∧ regsBut s t [] ∧
        t.core k = stepped (c.updArr (cmdArr b) fun a => a.setSet (f120 b 103 103) { st := .zeroed })) ∧
    (proFaults b = [] → f120 b 98 97 = 0 →
      ∃ t, exec (.pro k b) s = .next t ∧ onlyCore s t k ∧ regsBut s t [] ∧
        t.core k = stepped (c.updArr (cmdArr b) fun a => { a with
          pro := if f120 b 102 99 = 0 then none else some {
            row := f120 b 103 103 = 1, fn := f120 b 102 99, norm := 0, mu := [], rstd := [],
            paddr := 64 * f120 b 77 60, layer := cmdLayer b } })) ∧
    (f120 b 103 102 = 1 → hdrBad b false false = false → f120 b 67 0 = 0 → f120 b 101 96 < segCount c →
      ∃ t, exec (.segSelect k b) s = .next t ∧ onlyCore s t k ∧ regsBut s t [] ∧
        t.core k = stepped { c with sel := some {
          sidx := f120 b 101 96, tax := f120 b 95 94, rax := f120 b 93 92, rowbase := f120 b 91 68 } }) ∧
    (f120 b 103 102 = 2 → hdrBad b false false = false → f120 b 101 0 = 0 →
      ∃ t, exec (.segClear k b) s = .next t ∧ onlyCore s t k ∧ regsBut s t [] ∧ t.core k = stepped { c with sel := none })

/-- R58, R59, R74, R75: MMA, MMW and MMQ complete where their format checks, the interlock, Sepal and the arithmetic
pass; every accumulator is the fold of its own products in K order, the set is live in the command's form, and no
memory changes. The command stays in flight until its 64 x KT K steps of the passes of R23 are performed (log 155). -/
def Obligations.AccumulateCompletes : Prop :=
  ∀ (s : State) (k : PCore) (b : BitVec 120) (key : Nat) (e : Led) (i : Instr) (a : AccCmd), issuing s k key e →
    let c := s.core k
    let arr := c.arr (cmdArr b)
    let lines := accLines c arr a
    let r := accumulate (arr.set a.acc) a lines
    (i = .mma k b ∧ a = uncodedCmd b false ∧ accFaults a arr (hdrBad b true true || f120 b 98 96 ≠ 0 || f120 b 51 0 ≠ 0)
        (f120 b 102 102 = 1 || f120 b 100 100 = 1) = [] ∨
      i = .mmw k b ∧ a = uncodedCmd b true ∧ accFaults a arr (hdrBad b true true || f120 b 96 96 ≠ 0 || f120 b 51 0 ≠ 0)
        (f120 b 102 102 = 1 || f120 b 100 100 = 1) = [] ∨
      i = .mmq k b ∧ a = codedCmd b ∧ accFaults a arr (codedResv b) (4 < f120 b 98 96 || 4 < f120 b 95 93) = []) →
    unheld s k e (accUse b a c) →
    feederFence c.store (selInfo c) a arr = none →
    ((arr.set a.acc).tag = none ∨ (selInfo c).map (·.tag) = (arr.set a.acc).tag) →
    r.2.1.nan = none → r.2.2.1.nan = none → r.2.2.2.nan = none →
    ∃ t, exec i s = .next t ∧ t.host = s.host ∧ (t.core k).cmdIdx = c.cmdIdx + 1 ∧ (t.core k).wait = 0 ∧
      (t.core k).store = c.store ∧ (∀ j, j ≠ k.val → t.core j = s.core j) ∧
      (∃ f, (t.core k).flight = c.flight ++ [f] ∧ f.kind = .acc (cmdArr b) a.acc (fillCycles a arr) (64 * a.kt * a.passes) a.passes) ∧
      (let x := ((t.core k).arr (cmdArr b)).set a.acc;
        x.st = .live ∧ x.wide = a.wide ∧
        ∀ n, n < 4096 → Tab.get {} x.cells n = (cellFold (n / (if a.wide then 256 else 64)) (n % (if a.wide then 256 else 64))
          (Tab.get {} (arr.set a.acc).cells n) lines).1)

/-- R60, R89, R95 to R98: an EPI and a CHN whose checks pass and that produce no NaN complete; the core is drained as the
rules say, the drained set is undefined, and where no overflow is counted memory stays. -/
def Obligations.DrainsComplete : Prop :=
  ∀ (s : State) (k : PCore) (b : BitVec 120) (key : Nat) (e : Led), issuing s k key e →
    let c := s.core k
    (let a := epiCmd b
      let set := (c.arr (cmdArr b)).set a.acc
      epiFaults s b c = [] → unheld s k e (epiUse b c) →
      pblkFaults a c set (pblkOf c.store a) = [] → epiFence a c set (pblkOf c.store a) = none → (epiRep a c set).nan = none →
      a.send = false →
      ∃ t, exec (.epi k b false) s = .next t ∧ (t.core k).cmdIdx = c.cmdIdx + 1 ∧
        (t.core k).store = (epiDrained a c (cmdArr b) set c).store ∧
        (((t.core k).arr (cmdArr b)).set a.acc).st = .undefined ∧ t.host = s.host ∧
        ((epiRep a c set).count = 0 → t.dev = s.dev)) ∧
    (let a := chnCmd b
      let set := (c.arr (cmdArr b)).set a.acc
      let sc := chnScaled a c (cmdArr b)
      chnFaults b c = [] → unheld s k e (chnUse b) →
      (∀ n ∈ (if a.first then [] else a.outs), ((c.arr n).set a.oacc).tag = none ∨ ((c.arr n).set a.oacc).tag = set.tag) →
      (chnRep a c (cmdArr b)).nan = none → (∀ x ∈ sc, x.2.2.nan = none) →
      ∃ t, exec (.chn k b none) s = .next t ∧ (t.core k).cmdIdx = c.cmdIdx + 1 ∧
        t.core k = stepped (chnDone a c (cmdArr b) c) ∧ (((t.core k).arr (cmdArr b)).set a.acc).st = .undefined ∧ t.host = s.host)

/-- R193, R194: TLD completes where its format checks and its accesses pass; the pieces read lie in the tile store with
their tag records, or the set is loaded live; no memory changes.
R193, R197: TST completes where its checks pass and leaves every byte of device memory outside its runs alone; TCP
completes and leaves both memories alone. -/
def Obligations.TileMovesComplete : Prop :=
  (∀ (s : State) (k : PCore) (b : BitVec 120) (key : Nat) (e : Led), issuing s k key e →
     let c := s.core k
     let x := xferCmd b
     xferFaults b true c = [] → unheld s k e (tldUse b) →
     (x.accld = false →
       ∀ ps, loadTiles s e x = .ok ps →
         ∃ t, exec (.tld k b) s = .next t ∧ onlyCore s t k ∧ regsBut s t [] ∧
           t.core k = stepped (ps.foldl (fun c p => c.write p.1 p.2.1 p.2.2) c)) ∧
     (x.accld = true → ∀ ps tag, memRead s e x.maddr 24576 = .ok ps → ps ≠ [] → (∀ p ∈ ps, p.2 = tag) →
         ∃ t, exec (.tldAccld k b) s = .next t ∧ onlyCore s t k ∧ regsBut s t [] ∧
           t.core k = stepped (c.updArr (cmdArr b) fun a => a.setSet (f120 b 6 6)
             (setOfImage (ps.flatMap (·.1)) (f120 b 5 5 = 1) (f120 b 4 3) tag)))) ∧
  (∀ (s : State) (k : PCore) (b : BitVec 120) (key : Nat) (e : Led), issuing s k key e →
     let c := s.core k
     (let x := xferCmd b
       let runs := storeRuns c.store x
       xferFaults b false c = [] → unheld s k e { rd := [(x.taddr, x.nt * tfmtSlot x.tfmt)], xfer := 1 } →
       (∀ r ∈ runs, ∃ u, memWrite s e ((c.seg.map (·.train)).getD false) r.1 r.2 = .ok u) →
       ∃ t, exec (.tst k b) s = .next t ∧ t.core k = stepped c ∧ (∀ j, j ≠ k.val → t.core j = s.core j) ∧
         ∀ a, (∀ n, n < x.nt → ∀ r ∈ x.runs n, ¬ (bit r.1 47 = false ∧ r.1 ≤ a ∧ a < r.1 + r.2)) →
           Memory.get t.dev a = Memory.get s.dev a) ∧
     (tcpFaults s k b e = [] →
       unheld s k e (if f120 b 103 103 = 1 then { rd := [(64 * f120 b 91 74, f120 b 99 92 * tfmtSlot (f120 b 102 100))], xfer := 1 }
         else { wr := [(64 * f120 b 91 74, f120 b 99 92 * tfmtSlot (f120 b 102 100))], xfer := 1 }) →
       ∃ t, exec (.tcp k b) s = .next t ∧ sameMemory s t ∧ (t.core k).cmdIdx = c.cmdIdx + 1 ∧
         (f120 b 103 103 = 1 → t.core k = stepped c) ∧ (f120 b 103 103 = 0 → t.scratch = s.scratch)))

/-- R76: on a core with nothing in flight a SIGNAL adds COUNT to its semaphore at once and a WAIT that is satisfied
subtracts it; both complete, and no memory changes. A WAIT held by a SIGNAL in flight leaves the index and shows WAIT 3. -/
def Obligations.SemaphoresComplete : Prop :=
  ∀ (s : State) (k : PCore) (b : BitVec 120) (key : Nat) (e : Led), issuing s k key e →
    let c := s.core k
    let sem := f120 b 102 99
    synFaults b c = [] →
    (f120 b 103 103 = 1 → c.flight = [] →
      ∃ t, exec (.synSignal k b) s = .next t ∧ sameMemory s t ∧
        t.core k = stepped { c with sems := Tab.upd 0 c.sems sem (· + f120 b 95 80) }) ∧
    (f120 b 103 103 = 0 → f120 b 95 80 ≤ Tab.get 0 c.sems sem → c.flight = [] →
      ∃ t, exec (.synWait k b) s = .next t ∧ sameMemory s t ∧
        t.core k = stepped { c with sems := Tab.upd 0 c.sems sem (· - f120 b 95 80) }) ∧
    (f120 b 103 103 = 0 → Tab.get 0 c.sems sem < f120 b 95 80 →
      ∃ t, exec (.synWait k b) s = .next t ∧ (t.core k).cmdIdx = c.cmdIdx ∧ (t.core k).wait = 3 ∧ t.led = s.led)

/-- R99 to R102: SND ATTACH and DETACH set and clear the array's attachment, SEND counts its tiles, and RCV is posted;
all complete on a core with nothing in flight whose checks pass. -/
def Obligations.SendAndReceiveComplete : Prop :=
  ∀ (s : State) (k : PCore) (b : BitVec 120) (key : Nat) (e : Led), issuing s k key e →
    let c := s.core k
    (sndFaults s b e c = [] →
      (f120 b 103 102 = 1 → ∃ t, exec (.sndAttach k b) s = .next t ∧ sameMemory s t ∧ (t.core k).cmdIdx = c.cmdIdx + 1 ∧
        ((t.core k).arr (cmdArr b)).att = some { dkind := f120 b 101 100, dest := f120 b 99 84, rtag := f120 b 83 72, ord := f120 b 42 27 }) ∧
      (f120 b 103 102 = 2 → ∃ t, exec (.sndDetach k b) s = .next t ∧ sameMemory s t ∧ (t.core k).cmdIdx = c.cmdIdx + 1 ∧
        ((t.core k).arr (cmdArr b)).att = none) ∧
      (f120 b 103 102 = 0 → unheld s k e (sndUse b) →
        let d := sndTo b
        let addrs := (List.range (f120 b 71 64)).map fun n => 64 * f120 b 60 43 + n * tfmtSlot d.tfmt
        sendFence s c.store d addrs = none → sendRetired s e c.store d addrs = false →
        ∃ t, exec (.sndSend k b) s = .next t ∧ sameMemory s t ∧ (t.core k).cmdIdx = c.cmdIdx + 1 ∧
          (t.core k).sendN = c.sendN + f120 b 71 64 ∧ (t.core k).store = c.store)) ∧
    (∀ i, (i = .rcvPlace k b ∧ f120 b 103 102 = 0 ∨ i = .rcvCombine k b ∧ f120 b 103 102 = 1) →
      rcvFaults b c = [] → c.flight = [] → c.rcvs = [] → s.journal = [] → unheld s k e (rcvUse b) →
      ∃ t, exec i s = .next t ∧ sameMemory s t ∧ (t.core k).cmdIdx = c.cmdIdx + 1 ∧ (t.core k).posts = c.posts + 1 ∧
        ∃ r, (t.core k).rcvs = [r] ∧ r.rtag = f120 b 98 87 ∧ r.ord = f120 b 86 71 ∧ r.nt = f120 b 70 63 ∧
          r.addr = 64 * f120 b 62 45 ∧ r.combine = decide (f120 b 103 102 = 1) ∧ r.got = [])

/-- R117: a SEG LOAD whose table and descriptors pass latches the table, drops the selection and writes LASTSTEP of every
adapter it names; no memory changes. -/
def Obligations.SegmentLoadCompletes : Prop :=
  ∀ (s : State) (k : PCore) (b : BitVec 120) (key : Nat) (e : Led), issuing s k key e → f120 b 103 102 = 0 →
    let c := s.core k
    let n := f120 b 100 94
    let a := 64 * f120 b 93 76
    hdrBad b false false = false → f120 b 75 0 = 0 → unheld s k e { rd := [(a, 8 * n)] } →
    segChecks s e c.store (f120 b 101 101 = 1) a n = none →
    ∃ t, exec (.segLoad k b) s = .next t ∧ sameMemory s t ∧
      t.core k = stepped { c with
        seg := some { train := f120 b 101 101 = 1, ents := (segEntries c.store a n).map (segLatch s e) }, sel := none } ∧
      (∀ x ∈ segEntries c.store a n, (t.desc x.1.toNat).lastStep = e.step) ∧
      ∀ j, (∀ x ∈ segEntries c.store a n, x.1.toNat ≠ j) → t.desc j = s.desc j

/-- R149, R150, R154, R155: an NRM over tiles of the one tag, without a NaN, completes: its contribution, the scaled sum of the
squares, goes with the item until the item commits (log 156), and nothing else of any core changes; a UPD that its engine queues joins the jobs with the step and layer it names. -/
def Obligations.NormAndUpdateComplete : Prop :=
  ∀ (s : State) (k : PCore) (b : BitVec 120) (key : Nat) (e : Led), issuing s k key e →
    let c := s.core k
    (let a := 64 * f120 b 93 76
      let f32 := f120 b 102 102 = 1
      let len := f120 b 101 94 * fmtSize f32
      let want : TagRec := if f120 b 103 103 = 1 then none else some (BitVec.ofNat 16 (f120 b 75 60))
      nrmFaults s b e = [] → unheld s k e { rd := [(a, len)] } → (∀ g ∈ granules a len, c.store.tag g = want) →
      (∀ x ∈ (if f32 then fp32s (c.store.read a (f120 b 101 94 * 16384))
        else (fp16Line (c.store.read a (f120 b 101 94 * 8192))).map widen), isNan32 x = false) →
      let base := f120 b 103 103 = 1
      let step : W32 := BitVec.ofNat 32 (f120 b 59 28)
      let p := ledPart s e
      let xs := if f32 then fp32s (c.store.read a (f120 b 101 94 * 16384)) else (fp16Line (c.store.read a (f120 b 101 94 * 8192))).map widen
      ∃ t, exec (.nrm k b) s = .next t ∧ t.host = s.host ∧ (∀ j, j ≠ k.val → t.core j = s.core j) ∧
        t.core k = stepped { c with gsq := c.gsq ++ [{
          base := base, who := if base then p else f120 b 75 60, layer := cmdLayer b, step := step,
          v := (scaleGsq s p step (sumSquares xs).1).1 }] }) ∧
    (hdrBad b false true = false → f120 b 18 0 = 0 → (f120 b 103 103 = 1 → f120 b 102 87 = 0) →
      beyond (64 * f120 b 86 69) 64 = false → beyond (64 * f120 b 68 51) 64 = false →
      unheld s k e { rd := [(64 * f120 b 86 69, 64), (64 * f120 b 68 51, 64)] } →
      ∀ j, acceptUpd s key k b e c = .queue j →
        ∃ t, exec (.upd k b) s = .next t ∧ sameMemory s t ∧ t.jobs = s.jobs ++ [j] ∧ j.step = BitVec.ofNat 32 (f120 b 50 19) ∧
          j.layer = cmdLayer b ∧ j.stage = .waiting ∧ (t.core k).cmdIdx = c.cmdIdx + 1 ∧
          ∃ f, (t.core k).flight = c.flight ++ [f] ∧ f.kind = .upd j.id)

/-- R71, R77 to R79: TRP, an unknown opcode and a non-zero reserved bit of END stop the item: its ledger entry goes without
replay; END with every bit zero leaves the core free and the item committed or waiting for its stage 12.
R65, R66, R391: a start grant goes to the lowest logical core of the die that asks, where no other core was granted within 4
cycles and, on a die whose arrays all stand at L = 0, the PMU releases it; the first requesting array of that core stands
at L = 1, each further one is admitted a cycle later than the one before, and nothing but that core and the arbiter changes. -/
def Obligations.StopsEndAndStart : Prop :=
  (∀ (s : State) (k : PCore) (b : BitVec 120) (w : W128) (key : Nat) (e : Led), issuing s k key e → e.pcore = some k →
     (hdrBad b false false = false → f120 b 87 0 = 0 →
       ∃ t, exec (.trp k b) s = .next t ∧ t.ledAt key = none ∧ (t.core k).item = none) ∧
     (opcodes.contains (bits w.toNat 127 120) = false →
       ∃ t, exec (.opcodeNotInTable k w) s = .next t ∧ t.ledAt key = none ∧ (t.core k).item = none) ∧
     (b ≠ 0#120 → ∃ t, exec (.endItem k b) s = .next t ∧ t.ledAt key = none ∧ (t.core k).item = none) ∧
     (b = 0#120 → (s.core k).flight = [] → ∃ t, exec (.endItem k b) s = .next t ∧ (t.core k).item = none ∧
       (t.core k).sems = [] ∧ (t.core k).arrs = cooling (s.core k).arrs ∧ ∀ x, t.ledAt key = some x → x.st = .finishing ∧ x.pcore = none)) ∧
  (∀ (s : State) (d : Die) (l : Nat), startCore s d = some l → grantDue s d (physOf s l) = true →
     (dieStill s d = true → releases s d = true) →
     let c := s.core (physOf s l)
     ∃ t, exec (.startGrant d) s = .next t ∧ (∀ k, k ≠ physOf s l → t.core k = s.core k) ∧ sameMemory s t ∧ t.regs = s.regs ∧
       (t.core (physOf s l)).flight = c.flight ∧
       ∀ n, n < 4 →
         let x := (t.core (physOf s l)).arr n
         let before := ((List.range n).filter (asksStart c)).length
         (asksStart c n = false → x = c.arr n) ∧
         (asksStart c n = true → before = 0 → x = { c.arr n with level := 1, credit := 1 }) ∧
         (asksStart c n = true → 0 < before → x = { c.arr n with turn := some before }))

/-- R101, R103, R105, R176, R232: a tile that no posted receive covers is refused, and one of this module is to be sent again 2 µs
later; one that a posted PLACE receive covers is placed and answered accepted; an acknowledgement drops the retained tile; a tile
refused 2 µs ago is offered to the on-die network again; an overdue item stops. -/
def Obligations.TileTransferCompletes : Prop :=
  (∀ (s : State) (k : PCore) (m : TileMsg), itemOf s k = none → tailsOf s k = [] → s.ctx = [] →
    (Tab.get [] s.accepted (dieOf k)).any (fun a => a.source == tileSource m) = false →
      exec (.tileArrival k m) s = .next ((noteRefusal s m).emit (.tileAck (tileSource m) 2)) ∧
        ∀ x ∈ s.sent, m.srcMod.toNat = modId s → x.dkind = 0 → tileSource x.msg = tileSource m →
          { x with refused := some s.time } ∈ (noteRefusal s m).sent) ∧
  (∀ (s : State) (k : PCore) (m : TileMsg) (key : Nat) (e : Led) (r : Rcv), itemOf s k = some (key, e) →
    (s.core k).rcvs.find? (fun (r : Rcv) => r.covers e m) = some r → (Tab.find r.got (m.ord.toNat - r.ord)).isSome = true →
      ∃ t, exec (.tileArrival k m) s = .next t ∧ t.out = s.out ++ [.tileAck (tileSource m) 1] ∧ t.cores = s.cores ∧ sameMemory s t) ∧
  (∀ (s : State) (k : PCore) (m : TileMsg) (key : Nat) (e : Led) (r : Rcv), itemOf s k = some (key, e) →
    (s.core k).rcvs.find? (fun (r : Rcv) => r.covers e m) = some r → (Tab.find r.got (m.ord.toNat - r.ord)).isSome = false →
      tableYoung s (dieOf k) = false → (acceptTile s k key r.id m).isSome = true → r.combine = false → e.st ≠ .finishing →
      ∃ t, exec (.tileArrival k m) s = .next t ∧ (∃ o, t.out = o ++ [.tileAck (tileSource m) 0]) ∧
        (t.core k).store = ((s.core k).write (r.addr + (m.ord.toNat - r.ord) * tfmtSlot r.tfmt) m.data m.tag).store) ∧
  (∀ (s : State) (home : Die) (seq : BitVec 48) (key : Nat) (e : Led), senderKey s home seq.toNat = some key →
    s.ledAt key = some e → acked e (seq.toNat % 2 ^ 20) = false → seq.toNat % 2 ^ 20 < e.ackPfx + 64 → e.pcore = none →
      (s.sent.any fun x => x.led == key && x.waits) = false →
      ∃ t, exec (.tileAck home seq) s = .next t ∧ (∀ x ∈ t.sent, ¬ (x.led = key ∧ x.n = seq.toNat % 2 ^ 20)) ∧
        ∃ e', t.ledAt key = some e' ∧ acked e' (seq.toNat % 2 ^ 20) = true) ∧
  (∀ (s : State) (home : Die) (seq : BitVec 48) (x : Sent) (at_ : W64), s.sent = [x] → x.msg.home.toNat = home.val → x.msg.seq = seq →
      x.dkind = 0 → x.waits = false → x.refused = some at_ → at_.toNat + 2000 ≤ s.time.toNat →
      ∃ t, exec (.tileResendRetry home seq) s = .next t ∧ t = netTile (setSent s { x with refused := none }) x ∧
        ∃ o, t.out = s.out ++ [o] ∧ t.cores = s.cores ∧ sameMemory s t) ∧
  (∀ (s : State) (k : PCore) (key : Nat) (e : Led), itemOf s k = some (key, e) → e.pcore = some k → overdue s k key = true →
      ∃ t, exec (.transferTimeout k) s = .next t ∧ t.ledAt key = none ∧ (t.core k).item = none)

/-! ### Rings and their entries -/

/-- R272, R273, R275: a doorbell of 8 bytes at a ring's slot, by the ring's owner, stores TAIL and HEAD; one that runs ahead or
moves back sets ERR; another size is discarded, and a read returns zero; an enabled ring with room admits the entry at its next position. -/
def Obligations.DoorbellAndAdmission : Prop :=
  (∀ (s : State) (fn : Fn) (off : Nat) (v : W64) (i : Inst) (r : RingId) (mgr : Bool),
    reachable s = true → s.pwrWarnN = true →
    (mgr = false ∧ fn.val = i.val + 1 ∧ off = 8 * r.val ∨ mgr = true ∧ fn.val = 0 ∧ off = 0x20000 * i.val + 8 * r.val) →
    ringMgr (s.ring i r) = mgr → ringEn (s.ring i r) = true → (s.ring i r).err = false →
    exec (.doorbell fn off 8 (some v)) s = .next (
      if badDoorbell (s.ring i r) (v.truncate 32) ((v >>> 32).truncate 32) then s.updRing i r fun y => { y with err := true }
      else s.updRing i r fun y => { y with tail := v.truncate 32, head := (v >>> 32).truncate 32 })) ∧
  (∀ (s : State) (fn : Fn) (off size : Nat) (v : W64), size ≠ 8 → exec (.doorbell fn off size (some v)) s = .next s) ∧
  (∀ (s : State) (fn : Fn) (off size : Nat), reachable s = true →
    exec (.doorbell fn off size none) s = .next (s.emit (.readData fn (List.replicate size 0#8)))) ∧
  (∀ (s : State) (i : Inst) (r : RingId), mayAdmit s i r = true →
    let x := s.ring i r
    let a := bits x.rsq.toNat 46 12 * 4096 + x.next.toNat % 2 ^ sqLog x * 64
    let e : Entry := BitVec.ofNat 512 (ofLe (hostRead s i a 64))
    let o : Op := { inst := i, ring := r, subseq := x.next, desc := e, rsq := x.rsq, rcq := x.rcq, mgr := ringMgr x, order := s.orders }
    ioCheck s i false a 64 = .ok → knownType e = true → sealed s = false →
    ∃ t, exec (.admitEntry i r) s = .next t ∧ t.ops = s.ops ++ [o] ∧ t.orders = s.orders + 1 ∧ sameMemory s t ∧
      t.ring i r = { x with next := x.next + 1#32, outst := x.outst + 1 } ∧ ∀ j q, (j, q) ≠ (i.val, r.val) → q < 16384 → t.ring j q = s.ring j q)

/-- R275, R276, R283: a completion of an enabled ring stands at CQ position WRITTEN mod 2^CQLOG with the phase of its round;
WRITTEN counts, and the outstanding count of the enable that admitted its entry falls. A ring disabled since, or enabled at other bases, takes no byte. -/
def Obligations.CompletionEntryWritten : Prop :=
  ∀ (s : State) (c : Compl),
    let r := s.ring c.inst c.ring
    let a := bits r.rcq.toNat 46 12 * 4096 + r.written.toNat % 2 ^ cqLog r * 16
    (ringEn r = true → r.rsq = c.rsq → r.rcq = c.rcq → ioCheck s c.inst true a 16 = .ok →
      fbit s (Reg.qmDirtyctl c.inst) 0 = false →
      Memory.read (writeCompl s c).host (hostAddr s c.inst a) 16 = complBytes c (1 - r.written.toNat / 2 ^ cqLog r % 2) ∧
        ((writeCompl s c).ring c.inst c.ring).written = r.written + 1#32 ∧
        ((writeCompl s c).ring c.inst c.ring).outst = (if r.first ≤ c.order then r.outst - 1 else r.outst) ∧
        ((writeCompl s c).ring c.inst c.ring).older = (if r.first ≤ c.order then r.older else r.older - 1) ∧ (writeCompl s c).dev = s.dev ∧
        ∀ b, (b < hostAddr s c.inst a ∨ hostAddr s c.inst a + 16 ≤ b) → Memory.get (writeCompl s c).host b = Memory.get s.host b) ∧
    (ringEn r = false ∨ r.rsq ≠ c.rsq ∨ r.rcq ≠ c.rcq → sameMemory s (writeCompl s c) ∧ (writeCompl s c).out = s.out)

/-- R278, R279, R294: NOP and an ORDER with nothing before it complete OK; a WORK entry of good form for cores of its
partition, of a step that no base swap cut and whose update was not lost, waits for its generations, and once they are published its item joins the eligible queue.
R278: an entry whose header sets a reserved bit completes MALFORMED with no other effect, whatever its type. -/
def Obligations.PlainEntriesComplete : Prop :=
  (∀ (s : State) (i : Inst) (r : RingId) (q : W32) (o : Op),
     (entryOf s i r q o 0x3F → headOk o.desc = true → zeroAt o.desc [(2, 1), (4, 60)] = true →
       exec (.nop i r q) s = .next (completeOp s o 0 0)) ∧
     (entryOf s i r q o 2 → headOk o.desc = true → zeroAt o.desc [(2, 1), (4, 60)] = true → (s.ring i r).outst + (s.ring i r).older ≤ 1 →
       exec (.order i r q) s = .next (completeOp s o 0 0)) ∧
     (entryOf s i r q o 1 → o.waiting = false → workOk o.desc = true →
       (∀ l ∈ workSet o.desc, ∃ p, partOf s i = some p ∧ inPart s p l = true) →
       let sr := stepRec s (opPart s o) (BitVec.ofNat 32 (entNum o.desc 4 4))
       (entByte o.desc 2 % 4 = 0 → sr.refused = false) → (workStepEnd o.desc = true → sr.lost = false) →
       exec (.work i r q) s = .next (setOp s { o with waiting := true })) ∧
     (entryOf s i r q o 1 → o.waiting = true → (∀ p ∈ workIngen o.desc, satisfied s i p = true) →
       ∃ t x, exec (.generationSatisfied i r q) s = .next t ∧ t.elig = s.elig ++ [x] ∧ x.op = { o with waiting := false } ∧
         x.part.val = (partOf s o.inst).getD 0 % 16 ∧ x.cls = entByte o.desc 2 % 4 ∧ opsAt t i r q 1 none = [] ∧ sameMemory s t)) ∧
  (∀ (s : State) (i : Inst) (r : RingId) (q : W32) (o : Op), entByte o.desc 3 ≠ 0 → o.waiting = false → o.parked = false →
     (entryOf s i r q o 0x3F → exec (.nop i r q) s = .next (completeOp s o 0x0C 0)) ∧
     (entryOf s i r q o 2 → exec (.order i r q) s = .next (completeOp s o 0x0C 0)) ∧
     (entryOf s i r q o 1 → exec (.work i r q) s = .next (completeOp s o 0x0C 0)) ∧
     (entryOf s i r q o 0x21 → exec (.copy i r q) s = .next (completeOp s o 0x0C 0)) ∧
     (entryOf s i r q o 0x22 → exec (.normread i r q) s = .next (completeOp s o 0x0C 0)) ∧
     (entrySub s i r q o 0x11 2 → exec (.baseFreeze i r q) s = .next (completeOp s o 0x0C 0)))

/-- R280, R281, R297: a COPY of checked, unpoisoned memory, whose partition the copy path serves next, completes with its byte count; between device ranges the destination
reads as the source did and every other byte as before, and the generation it names is published. The cycles charged
for it are a free value (log 4).
R281, R282: a NORMREAD that passes its checks writes 16 B for every entry it reads and completes with that count. -/
def Obligations.CopyAndNormReadComplete : Prop :=
  (∀ (s : State) (i : Inst) (r : RingId) (q : W32) (o : Op), entryOf s i r q o 0x21 →
     let n := entNum o.desc 4 4
     let src := entNum o.desc 8 6
     let dst := entNum o.desc 16 6
     copyTurn s o = true → headOk o.desc = true → n % 64 = 0 → entNum o.desc 48 4 < 0x10000 → zeroAt o.desc [(2, 1), (14, 2), (22, 26), (56, 8)] = true →
     opAccess s i false src n = .ok → opAccess s i true dst n = .ok →
     (∀ x, addrOf src = .dev x → poisoned s x n = none) →
     ∃ t u, exec (.copy i r q) s = .next t ∧ t = completeOp u o 0 n ∧
       (entNum o.desc 48 4 ≠ 0 → Tab.get 0#32 t.gens (i.val * 65536 + entNum o.desc 48 4) = BitVec.ofNat 32 (entNum o.desc 52 4)) ∧
       ∀ x y, addrOf src = .dev x → addrOf dst = .dev y →
         ∀ a, Memory.get t.dev a = if y ≤ a ∧ a < y + n then Memory.get s.dev (x + (a - y)) else Memory.get s.dev a) ∧
  (∀ (s : State) (i : Inst) (r : RingId) (q : W32) (o : Op), entryOf s i r q o 0x22 →
     let n := entNum o.desc 10 2
     let fl := entNum o.desc 8 2
     let t := entNum o.desc 4 2
     let dst := entNum o.desc 16 6
     headOk o.desc = true → entByte o.desc 6 ≤ 1 → (entByte o.desc 6 = 1 → t = 0) → 0 < n → fl + n ≤ 4096 → dst % 16 = 0 → bit dst 47 = true →
     zeroAt o.desc [(2, 1), (7, 1), (12, 4), (22, 42)] = true → opAccess s i true dst (16 * n) = .ok →
     (entByte o.desc 6 = 1 → o.mgr = true) →
     (entByte o.desc 6 = 0 → (s.desc t).st ≠ .free ∧ (s.desc t).inst = i ∧ keyUsable s t = true) →
     let bs := ((List.range n).map fun k => normBytes (normGet s (entByte o.desc 6 = 1) (if entByte o.desc 6 = 1 then (partOf s o.inst).getD 0 else t) (fl + k))).flatten
     exec (.normread i r q) s = .next (completeOp (opWrite s i dst
       (if entByte o.desc 6 = 1 then bs else xtsRun (s.key t).key (dst % 2 ^ 47) bs)) o 0 (16 * n)))

/-- R203, R206, R417: a MEM ALLOC that the quota and the window cover takes its pages for the instance in the kind asked and
makes a rule change; a MEM FREE of the instance's own pages, none in use, sends them to ZEROING.
R204: a page that is zeroed is FREE and reads zero; every other byte stays. -/
def Obligations.MemoryOperationsComplete : Prop :=
  (∀ (s : State) (i : Inst) (r : RingId) (q : W32) (o : Op),
     let n := entNum o.desc 8 4
     let list := entNum o.desc 16 6
     (entrySub s i r q o 0x20 0 → o.parked = false → headOk o.desc = true → (entByte o.desc 4 = 3 ∨ entByte o.desc 4 = 6) →
       entByte o.desc 5 ≤ 4 → 0 < n → n ≤ 65536 → zeroAt o.desc [(6, 2), (12, 4), (22, 42)] = true →
       opAccess s i true list (4 * n) = .ok → bit list 47 = true → ruleBusy s i = false → s.resv = [] →
       ∀ ns, allocate s o n (entByte o.desc 5) = .pages s ns → ns.Nodup →
       ∃ t, exec (.memAlloc i r q) s = .next t ∧
         (∀ p ∈ ns, (t.page p).kind = (if entByte o.desc 4 = 3 then Kind.act else Kind.stage) ∧ (t.page p).inst = i) ∧
         (∀ p, p ∉ ns → t.page p = s.page p) ∧ opsAt t i r q 0x20 (some 0) = [] ∧ ruleBusy t i = true ∧ t.dev = s.dev) ∧
     (entrySub s i r q o 0x20 1 → headOk o.desc = true → 0 < n → n ≤ 65536 → zeroAt o.desc [(4, 4), (12, 4), (22, 42)] = true →
       opAccess s i false list (4 * n) = .ok → ruleBusy s i = false →
       ∀ ns, ns = (chunks 4 (opRead s i list (4 * n)).length (opRead s i list (4 * n))).map ofLe → ns.Pairwise (· < ·) →
       (∀ p ∈ ns, ((s.page p).kind = .act ∨ (s.page p).kind = .stage) ∧ (s.page p).inst = i ∧ pageUsers s p = []) →
       ∃ t, exec (.memFree i r q) s = .next t ∧ (∀ p ∈ ns, (t.page p).kind = .zeroing) ∧ (∀ p, p ∉ ns → t.page p = s.page p) ∧
         ruleBusy t i = true ∧ sameMemory s t)) ∧
  (∀ (s : State) (n : Fin 393216), (s.page n).kind = .zeroing → (∀ i : Inst, fget s (Reg.isRemove i) 29 28 ≠ 1) →
     ∃ t, exec (.pageZeroed n) s = .next t ∧ (t.page n).kind = .free ∧ t.host = s.host ∧
       ∀ a, Memory.get t.dev a = if n.val * Config.pageBytes ≤ a ∧ a < n.val * Config.pageBytes + Config.pageBytes then 0#8 else Memory.get s.dev a)

/-- R112, R113, R415: a LOAD that passes the checks and finds its pages leaves the tag LOADING with the entry's fields; when its
transfer is done and its source still passes, the tag becomes RESIDENT or TRAINABLE as the entry asked. -/
def Obligations.AdapterLoadCompletes : Prop :=
  (∀ (s : State) (i : Inst) (r : RingId) (q : W32) (o : Op), entrySub s i r q o 0x10 0 → o.parked = false →
    let t := opTag o
    (s.desc t).st = .free → loadOk o.desc = true → tagPriv s o = true → keyUsable s t = true → (s.key t).keygen.toNat = entByte o.desc 7 →
    (partOf s i).isSome = true → entNum o.desc 16 8 = (baseFp s (opPart s o)).toNat → loadLimit s (opPart s o) (bit (entByte o.desc 6) 2) = false →
    loadAccess s o = .ok → imageOk (imageOf s o) (entNum o.desc 10 2) (entNum o.desc 32 5) = true → ruleBusy s i = false → 0 < xferFree s 0 i →
    ∀ u ns, allocate s o ((loadPages o.desc).1 + (loadPages o.desc).2.1 + (loadPages o.desc).2.2) (entByte o.desc 9) = .pages u ns →
      ∃ w, exec (.adapterLoad i r q) s = .next w ∧ (w.desc t).st = .loading ∧ (w.desc t).inst = o.inst ∧
        (w.desc t).role = roleOf (entByte o.desc 6) ∧ (w.desc t).keygen = BitVec.ofNat 8 (entByte o.desc 7) ∧ (w.desc t).rankq = entByte o.desc 8 ∧
        (w.desc t).basefp = BitVec.ofNat 64 (entNum o.desc 16 8) ∧
        (w.desc t).target = (if bit (entByte o.desc 6) 2 then AState.trainable else .resident) ∧ ∀ j, j ≠ t → w.desc j = u.desc j) ∧
  (∀ (s : State) (tag : Tag) (o : Op), loadOpOf s tag.toNat = some o → (s.desc tag.toNat).st = .loading → reservedOf s o = [] →
    loadAccess s o = .ok → imageOk (imageOf s o) (entNum o.desc 10 2) (entNum o.desc 32 5) = true →
      ∃ w, exec (.loadingDone tag) s = .next w ∧ w.desc tag.toNat = { s.desc tag.toNat with st := (s.desc tag.toNat).target } ∧
        ∀ j, j ≠ tag.toNat → w.desc j = s.desc j)

/-- R134, R133, R136, R416: PIN, UNPIN, EVICT, FREE and SWAP of an adapter of the ring's instance complete or join their partition's pending swaps,
and what each leaves in the descriptor and its pages. -/
def Obligations.AdapterOperationsComplete : Prop :=
  ∀ (s : State) (i : Inst) (r : RingId) (q : W32) (o : Op) (n : Nat), entrySub s i r q o 0x10 n →
    let t := opTag o
    let d := s.desc t
    tagPriv s o = true → inTransit d = false →
    (tagOnlyOk o.desc = true → (d.st = .resident ∨ d.st = .trainable) →
      (n = 2 → (∀ die ∈ partDies s (opPart s o), hotUsed s die + hotBytes d ≤ fget s Reg.adHotcap 6 0 * 1048576) →
        exec (.adapterPin i r q) s = .next (completeOp (s.updDesc t fun x => { x with pin := true }) o 0 0)) ∧
      (n = 3 → exec (.adapterUnpin i r q) s = .next (completeOp (s.updDesc t fun x => { x with pin := false }) o 0 0)) ∧
      (n = 4 → evictable s t = true → ruleBusy s i = false →
        ∃ w, exec (.adapterEvict i r q) s = .next w ∧ (w.desc t).st = .evicting ∧ (∀ p ∈ d.allPages, (w.page p).kind = .zeroing) ∧
          (∀ p, p ∉ d.allPages → w.page p = s.page p) ∧ ruleBusy w i = true)) ∧
    (tagOnlyOk o.desc = true → n = 5 → d.st ≠ .free → ((s.key t).st = .absent ∨ (s.key t).st = .retired) → ruleBusy s i = false →
        ∃ w, exec (.adapterFree i r q) s = .next w ∧ w.desc t = {} ∧ (∀ p ∈ d.allPages, (w.page p).kind = .zeroing) ∧ ruleBusy w i = true) ∧
    (n = 1 → o.parked = false → swapOk o.desc = true → (d.st = .resident ∨ d.st = .trainable) → keyUsable s t = true →
        (s.key t).keygen = d.keygen → d.basefp = baseFp s (opPart s o) → loadAccess s o = .ok →
        imageOk (imageOf s o) d.nproj (entNum o.desc 32 5) = true → d.prevDir = 0 → d.newDir = 0 → swapParked s o = false → ruleBusy s i = false →
        ∀ ns, allocate s o (swapPages o.desc d) (entByte o.desc 9) = .pages s ns →
        ∃ w, exec (.adapterSwap i r q) s = .next w ∧ (w.desc t).newPages = ns ∧ (w.desc t).dir = d.dir ∧ (w.desc t).st = d.st ∧
          (w.part (opPart s o)).swaps = (s.part (opPart s o)).swaps ++ [(some (BitVec.ofNat 16 t), o)] ∧
          fbit w (Reg.adSwapstat (opPart s o)) 31 = true)

/-- R123, R137, R280, R418: the BASE operations of a manager-owned ring: LOAD into a partition without a base makes the copy
current, SWAP waits for the boundary, FREEZE and UNFREEZE set and clear the freeze. -/
def Obligations.BaseOperationsComplete : Prop :=
  ∀ (s : State) (i : Inst) (r : RingId) (q : W32) (o : Op) (n : Nat), entrySub s i r q o 0x11 n → o.mgr = true →
    let p := basePart o
    (n = 0 → o.parked = false → baseLoadOk o.desc = true → entNum o.desc 6 2 = 0 → (s.part p).built = none →
      (s.part p).coming = none → (s.part p).cur = none → opAccess s i false (entNum o.desc 16 6) (entNum o.desc 24 5) = .ok →
      ruleBusyPart s p = false → basePages s p + pagesFor (entNum o.desc 24 5) ≤ fget s (Reg.mtPquota p) 18 0 →
      pagesFor (entNum o.desc 24 5) ≤ freePages s (entByte o.desc 5) →
      ∃ w, exec (.baseLoad i r q) s = .next w ∧ baseFp w p = BitVec.ofNat 64 (entNum o.desc 8 8) ∧ (w.part p).key.isSome = true ∧
        (w.part p).frozen = (s.part p).frozen ∧ rd w (Reg.adBasefp p) = entNum o.desc 8 8) ∧
    (basePartOk o.desc = true →
      (n = 1 → (s.part p).built.isSome = true → (∀ x ∈ (s.part p).swaps, x.1.isSome = true) → (s.part p).prev = none →
        ∃ w, exec (.baseSwap i r q) s = .next w ∧ (w.part p).swaps = (s.part p).swaps ++ [(none, o)] ∧ (w.part p).cur = (s.part p).cur ∧
          fbit w (Reg.adSwapstat p) 31 = true ∧ opsAt w i r q 0x11 (some 1) = []) ∧
      (n = 2 → exec (.baseFreeze i r q) s = .next (completeOp (s.updPart p fun x => { x with frozen := true }) o 0 0)) ∧
      (n = 3 → exec (.baseUnfreeze i r q) s = .next (completeOp (s.updPart p fun x => { x with frozen := false }) o 0 0)))

/-- R230, R237, R281: a PEER OPEN of a FREE context makes it ACTIVE, or HELD while its group changes; a PEER CLOSE with nothing
unacknowledged makes it FREE. Nothing but the context and the completion changes.
R243, R280, R281: an open that passes its checks records the stream and waits for its end; over a STABLE group, and for no
CAST, the stream is ACTIVE at once (log 70); a close of an ended stream frees its handle. -/
def Obligations.PeersAndStreamsOpen : Prop :=
  (∀ (s : State) (i : Inst) (r : RingId) (q : W32) (o : Op) (n : Nat), entrySub s i r q o 0x30 n → headOk o.desc = true →
     let c := entNum o.desc 4 2
     (n = 0 → entNum o.desc 8 4 < 2 ^ 19 → entByte o.desc 12 < 32 → zeroAt o.desc [(13, 51)] = true →
       (bit (entByte o.desc 12) 4 = false → o.mgr = true) → (s.peer c).st = 0 →
       exec (.peerOpen i r q) s = .next (completeOp (askAgain (s.setPeer c {
         remmod := BitVec.ofNat 19 (entNum o.desc 8 4), st := if fbit s (Reg.fbGroup (entByte o.desc 12 % 16)) 31 then 2 else 1, inst := i,
         group := fin 15 (entByte o.desc 12 % 16), cls := bit (entByte o.desc 12) 4, remctx := BitVec.ofNat 16 (entNum o.desc 6 2),
         epoch := BitVec.ofNat 32 (grpEpoch s (entByte o.desc 12 % 16)) }) (· == c)) o 0 0)) ∧
     (n = 1 → zeroAt o.desc [(6, 58)] = true → (s.peer c).st ≠ 0 → (s.peer c).inst = i → ((s.peer c).cls = true ∨ o.mgr = true) →
       ctxUnacked s c = false → exec (.peerClose i r q) s = .next (completeOp ((dropAsmOf s (· == c)).setPeer c {}) o 0 0))) ∧
  (∀ (s : State) (i : Inst) (r : RingId) (q : W32) (o : Op) (n : Nat), entrySub s i r q o 0x31 n → headOk o.desc = true →
     let h := entNum o.desc 4 2
     h < 4096 →
     (n = 0 → o.parked = false → rolling s 2 ≠ some (h / 1024) → zeroAt o.desc [(6, 18)] = true → streamEntOk s o.desc = true →
       let x := streamOf s o
       x.op ≤ 5 → (x.cls = false → o.mgr = true) → (x.cls = true → x.inst = i ∧ partOf s i = some x.group.val) → (s.stream h).st = .free →
       formed s x.group = true → (x.slots s).2.length * x.nlocal ≤ 4096 →
       streamAccess s h x false x.src (4 * (x.srcEls (x.slots s).1 (x.slots s).2).length) = .ok →
       ((s.grp x.group).st ≠ .stable ∨ x.op = 5 → exec (.streamOpen i r q) s = .next ((setOp s { o with parked := true }).setStream h x)) ∧
       ((s.grp x.group).st = .stable → x.op ≠ 5 → (x.seals = false ∨ streamKeyOk s x = true) →
         ∃ t, exec (.streamOpen i r q) s = .next t ∧ (t.stream h).st = .active ∧ (t.stream h).opener = some o ∧
           t.ops = (setOp s { o with parked := true }).ops ∧ t.led = s.led ∧ t.cores = s.cores ∧ t.host = s.host)) ∧
     (n = 1 → zeroAt o.desc [(6, 58)] = true → ((s.stream h).st = .done ∨ (s.stream h).st = .aborted) →
       ((s.stream h).cls = false → o.mgr = true) → ((s.stream h).cls = true → (s.stream h).inst = i) →
       exec (.streamClose i r q) s = .next (completeOp (s.setStream h {}) o 0 0)))

/-! ### Dispatch, preemption, boundaries -/

/-- R18, R174, R295: a dispatch that picks an item not yet in the ledger records it in the die's lowest free entry under the next
LSN and starts it from command 0 on the lowest free core of its set, whose arrays keep their activity; an item that ended there keeps
beside the core what it still waits for (log 163).
R177: an entry in REPLAY that a free core may take restarts there from command 0, counted in REPLAYS and in the ledger's
register.
R18, R78: a finishing entry with nothing left on a core leaves the ledger and completes with status OK; one that still
stands on its core with no command incomplete frees the core and publishes its output generation. -/
def Obligations.DispatchCommands : Prop :=
  (∀ (s : State) (l : LCore) (p c key : Nat) (x : Elig), devQuiesced s = false → coreFree s l = true →
     (List.range 16).find? (fun p => inPart s p l) = some p → chosenFirst s p l = false → replayFor s l = none →
     let win := startable s p l
     let d := (lowestFree s x.op.desc).getD l.val / 16
     let k := physOf s ((lowestFree s x.op.desc).getD l.val)
     sharePick s p ((List.range 4).filter fun c => !(win c).isEmpty) = some c → pickOf (win c) = some x → x.slot = none →
     freeEntry s d = some key →
     ∃ t e, exec (.dispatch l) s = .next t ∧ t.ledAt key = some e ∧ e.desc = x.op.desc ∧ e.st = .running ∧ e.pcore = some (fin 143 k) ∧
       e.lsn = Tab.get 0 s.lsn d ∧ e.replays = 0 ∧ (t.core k).item = some key ∧ (t.core k).cmdIdx = 0 ∧
       (∀ n, n < 4 → (t.core k).arr n = { level := ((s.core k).arr n).level, credit := ((s.core k).arr n).credit }) ∧
       (t.core k).flight = (s.core k).flight.filterMap leftOver ∧
       (t.core k).store = {} ∧ (∀ y ∈ t.elig, y.same x = false) ∧
       (∀ j, j ≠ k → (∀ n, (s.core k).item = some n → j ≠ tailSeat n) → t.core j = s.core j) ∧
       (∀ n, (s.core k).item = some n → k < 144 →
         t.core (tailSeat n) = { s.core k with arrs := [], power := .active, switching := false }) ∧
       (∀ j, j ≠ key → t.ledAt j = s.ledAt j) ∧ sameMemory s t) ∧
  (∀ (s : State) (l : LCore) (p key : Nat) (e : Led), devQuiesced s = false → coreFree s l = true →
     (List.range 16).find? (fun p => inPart s p l) = some p → chosenFirst s p l = false → replayFor s l = some (key, e) → s.ledAt key = some e → e.lcore = l →
     ∃ t, exec (.dispatch l) s = .next t ∧ (t.core (physOf s l)).item = some key ∧ (t.core (physOf s l)).cmdIdx = 0 ∧
       (∃ e', t.ledAt key = some e' ∧ e'.st = .running ∧ e'.replays = min 255 (e.replays + 1) ∧ e'.desc = e.desc ∧ e'.lsn = e.lsn) ∧
       fget t (Reg.scLedgerStat (l.val / 16)) 31 16 = satAdd 16 (fget s (Reg.scLedgerStat (l.val / 16)) 31 16) 1 ∧
       t.elig = s.elig ∧ sameMemory s t) ∧
  (∀ (s : State) (d : Die) (slot : Fin 8192) (e : Led), s.ledAt (d.val * 8192 + slot.val) = some e → e.st = .finishing →
     let key := d.val * 8192 + slot.val
     (e.pcore = none → workStepEnd e.desc = false →
       exec (.ledgerRelease d slot) s = .next (writeCompl { s with led := Tab.erase s.led key } (workCompl s e 0 false 0))) ∧
     (∀ k, e.pcore = some k → (s.core k).item = some key → (s.core k).flight = [] →
       ∃ t, exec (.ledgerRelease d slot) s = .next t ∧ (t.core k).item = none ∧ (t.core k).sems = [] ∧
         ((s.core k).gsq = [] → t.dev = s.dev) ∧
         (∀ x, t.ledAt key = some x → x.st = .finishing ∧ x.pcore = none) ∧ (∀ j, j ≠ k.val → t.core j = s.core j) ∧
         (entNum e.desc 48 4 ≠ 0 → Tab.get 0#32 t.gens (e.inst * 65536 + entNum e.desc 48 4 % 65536) = BitVec.ofNat 32 (entNum e.desc 52 4))))

/-- R300, R301: a preempted core stops issuing; once its tiles are acknowledged its image is saved in the lowest free slot and
its entry goes back to the queue; a restore puts the image on a core again, whose arrays keep their activity.
R136, R137: at a boundary the pending swaps apply and the swap sequence counts once; a swapped adapter's new copy becomes
current and the old one stays until nothing older holds it, then its pages are zeroed. -/
def Obligations.SwitchAndBoundary : Prop :=
  ((∀ (s : State) (l : LCore) (p : Nat) (x : Elig), (List.range 16).find? (fun p => inPart s p l) = some p → mapped s l = true →
     ((s.elig.filter (preempts s p l)).foldr insertOrder []).head? = some x →
     ∃ t, exec (.preempt l) s = .next t ∧ (t.core (physOf s l)).switching = true ∧ (∀ k, k ≠ physOf s l → t.core k = s.core k) ∧
       (∀ y ∈ t.elig, y.same x = true → y.claim = true) ∧ t.elig.length = s.elig.length ∧ t.led = s.led ∧ t.regs = s.regs ∧ sameMemory s t) ∧
   (∀ (s : State) (k : PCore) (key slot : Nat) (e : Led), itemOf s k = some (key, e) → e.st = .running → (s.core k).switching = true →
     draining (s.core k) = false → s.sent.any (fun x => x.led == key) = false → freeSlot s (dieOf k) = some slot →
     ∃ t, exec (.switchOut k) s = .next t ∧ (t.core k).item = none ∧
       Tab.find t.ctx slot = some { core := imageCore (s.core k), led := key, lsn := e.lsn, home := e.home } ∧
       (∃ e', t.ledAt key = some e' ∧ e'.st = .dispatched ∧ e'.pcore = none ∧ e'.desc = e.desc) ∧
       (∃ x ∈ t.elig, x.ledKey = some key ∧ x.slot = some slot) ∧
       fget t Reg.scCtxstat 63 32 = satAdd 32 (fget s Reg.scCtxstat 63 32) 1 ∧ (∀ j, j ≠ k.val → t.core j = s.core j) ∧ sameMemory s t) ∧
   (∀ (s : State) (slot : Fin 128) (k : PCore) (l : Nat) (x : Ctx) (e : Led), Tab.find s.ctx slot.val = some x → logOf s k = some l →
     s.ledAt x.led = some e → coreFree s l = true → (workSet e.desc).contains l = true → mayRun s e.inst = true →
     (∀ j ∈ s.journal, j.led ≠ x.led) →
     ∃ t, exec (.contextRestore slot k) s = .next t ∧ (t.core k).item = some x.led ∧ (t.core k).cmdIdx = x.core.cmdIdx ∧
       (t.core k).store = x.core.store ∧
       (∀ n, n < 4 → (t.core k).arr n = { x.core.arr n with level := ((s.core k).arr n).level, credit := ((s.core k).arr n).credit }) ∧
       (t.core k).sems = x.core.sems ∧ Tab.find t.ctx slot.val = none ∧
       (∃ e', t.ledAt x.led = some e' ∧ e'.st = .running ∧ e'.pcore = some k) ∧ sameMemory s t)) ∧
  (∀ (s : State) (p : Part),
     let seq := fget s (Reg.adSwapstat p) 63 32 + 1
     ((s.part p).swaps ≠ [] → ∃ t, exec (.microbatchBoundary p) s = .next t ∧ (t.part p).swaps = [] ∧
       fget t (Reg.adSwapstat p) 63 32 = seq % 2 ^ 32 ∧ fbit t (Reg.adSwapstat p) 31 = false) ∧
     (∀ (g : Tag) (o : Op), (s.part p).swaps = [(some g, o)] → (s.desc g.toNat).newDir ≠ 0 →
       ((s.desc g.toNat).st = .resident ∨ (s.desc g.toNat).st = .trainable) →
       ∃ t, exec (.microbatchBoundary p) s = .next t ∧
         t.desc g.toNat = { s.desc g.toNat with
           prevDir := (s.desc g.toNat).dir, prevPages := (s.desc g.toNat).pages, dir := (s.desc g.toNat).newDir,
           pages := (s.desc g.toNat).newPages, grad := (s.desc g.toNat).newGrad, len := (s.desc g.toNat).newLen,
           swapSeq := BitVec.ofNat 32 seq, newDir := 0, newGrad := 0, newPages := [], newLen := 0, gradDirty := false } ∧
         ∀ j, j ≠ g.toNat → t.desc j = s.desc j) ∧
     (∀ (o : Op) (c : BaseCopy), (s.part p).swaps = [(none, o)] → (s.part p).built = some c →
       ∃ t, exec (.microbatchBoundary p) s = .next t ∧ (t.part p).cur = some c ∧ (t.part p).prev = (s.part p).cur ∧
         (t.part p).built = none ∧ rd t (Reg.adBasefp p) = c.fp.toNat) ∧
     (∀ g : Tag, (s.desc g.toNat).prevDir ≠ 0 → partOf s (s.desc g.toNat).inst = some p.val →
       heldBefore s p (s.desc g.toNat).swapSeq = false → ruleBusy s (s.desc g.toNat).inst = false →
       ∃ t, exec (.prevdirRelease p (some g)) s = .next t ∧ (t.desc g.toNat).prevDir = 0 ∧ (t.desc g.toNat).prevPages = [] ∧
         (t.desc g.toNat).dir = (s.desc g.toNat).dir ∧ (∀ n ∈ (s.desc g.toNat).prevPages, (t.page n).kind = .zeroing) ∧
         (∀ n, n ∉ (s.desc g.toNat).prevPages → t.page n = s.page n) ∧ ruleBusy t (s.desc g.toNat).inst = true ∧ sameMemory s t) ∧
     (∀ c : BaseCopy, (s.part p).prev = some c → heldBefore s p (s.part p).curSeq = false → ruleBusyPart s p = false →
       ∃ t, exec (.prevdirRelease p none) s = .next t ∧ (t.part p).prev = none ∧ (t.part p).cur = (s.part p).cur ∧
         (∀ n ∈ c.pages, (t.page n).kind = .zeroing) ∧ (∀ n, n ∉ c.pages → t.page n = s.page n) ∧ sameMemory s t))

/-! ### Loss scale, Teasel, updates -/

/-- R139, R141, R166: enabling the loss scale starts the context at FIRST with EXP the clamped INITEXP and CLEAN 0, publishes
FIRST's scale block where one is placed, and zeroes TN_WARM (log 66); disabling it makes EXP and CLEAN 0.
R140, R151: an overflow of a train item sets the flag of its step's parity, or LATE once the step's flag was sampled, and
counts in the train half of its layer's word where the table is placed; one of another class leaves LS_STATE. -/
def Obligations.LossScaleAndOverflow : Prop :=
  (∀ (s : State) (p : Part) (v : W32), reachable s = true →
     (lsOn s p = false → v.getLsbD 31 = true →
       let x : Int := max (-24) (min 24 (BitVec.ofNat 6 (bits v.toNat 21 16)).toInt)
       let first := fget s (Reg.lsStart p) 31 0
       let a := fget s (Reg.lsBlock p) 47 7 * 128 + 64 * (first % 2)
       ∃ t, exec (.lsEnable p v) s = .next t ∧ lsOn t p = true ∧ ctxExp t p = x ∧ fget t (Reg.lsState p) 15 0 = 0 ∧
         ctxStep t p = BitVec.ofNat 32 first - 1#32 ∧ rd t (Reg.tnWarm p) = 0 ∧ (t.lsc p).gen = BitVec.ofNat 32 first ∧ t.host = s.host ∧
         (written s (Reg.lsBlock p) = false → t.dev = s.dev) ∧
         (written s (Reg.lsBlock p) = true → Memory.read t.dev a 64 = leBytes 64 (pow2F x).toNat ∧
           ∀ b, (b < a ∨ a + 64 ≤ b) → Memory.get t.dev b = Memory.get s.dev b)) ∧
     (v.getLsbD 31 = false → ∃ t, exec (.lsEnable p v) s = .next t ∧ lsOn t p = false ∧ ctxExp t p = 0 ∧
       fget t (Reg.lsState p) 15 0 = 0 ∧ fget t (Reg.lsState p) 63 32 = fget s (Reg.lsState p) 63 32 ∧ sameMemory s t)) ∧
  (∀ (s : State) (p : Part) (n : W32) (layer : BitVec 12) (train : Bool),
     let a := rd s (Reg.lsOvftab p) + 8 * layer.toNat + (if train then 0 else 4)
     ∃ t, exec (.overflowNotify p n layer train) s = .next t ∧ t.host = s.host ∧
       (train = false → t.regs = s.regs) ∧
       (train = true → fbit t (Reg.lsState p) (if (stepRec s p n).sampled then 19 else 24 + n.toNat % 2) = true) ∧
       (∀ off, off ≠ Reg.lsState p → rd t off = rd s off) ∧
       (written s (Reg.lsOvftab p) = false → t.dev = s.dev) ∧
       (written s (Reg.lsOvftab p) = true → Memory.num t.dev a 4 = satAdd 32 (Memory.num s.dev a 4) 1 ∧
         ∀ b, (b < a ∨ a + 4 ≤ b) → Memory.get t.dev b = Memory.get s.dev b))

/-- R143: with GEN set, once the closing reduction of the next step has completed, the exchange sends this module's value for each of
its slots (log 67), and the verdict of the step is the canonical sum over the slots.
R141, R144: a decision of the next step takes the reduced OR of its closing reduction and records STEP; an overflowed one is
suppressed and lowers EXP, a clean one counts CLEAN or raises EXP, and is applied or held as Teasel finds; a closing reduction of
another step counts as MISSING and decides nothing.
R145: while a step is held, APPLY applies it and DISCARD discards it, each ending its hold; DISCARD goes before APPLY. Where a second
step is held, TN_HOLD shows it next (log 159). -/
def Obligations.StepDecisions : Prop :=
  (∀ (s : State) (p : Part) (others : List (Nat × W32)), verdictDue s p = true →
     let n := ctxStep s p + 1#32
     let mine : List (Nat × W32) := ownGsq s p n
     ∃ t, exec (.verdictExchange p others) s = .next t ∧ t.out = s.out ++ [.verdict p n mine] ∧ t.regs = s.regs ∧ sameMemory s t ∧
       (stepRec t p n).gsum = some (canonicalSlots ((List.range (slotsOf s p)).map fun q =>
         match (mine ++ others).find? fun x => x.1 == q with
         | some x => x.2
         | none => 0#32))) ∧
  (∀ (s : State) (p : Part) (n : W32) (ovf : Bool) (rest : List (W32 × Bool)), (s.lsc p).closed = (n, ovf) :: rest →
     n ≠ ctxStep s p + 1#32 →
     exec (.lsDecide p) s = .next (finc (s.setLsc p { s.lsc p with closed := rest }) (Reg.tnEvents p) 7 0 1)) ∧
  (∀ (s : State) (p : Part) (n : W32) (ovf : Bool) (rest : List (W32 × Bool)), (s.lsc p).closed = (n, ovf) :: rest →
     n = ctxStep s p + 1#32 → (fbit s (Reg.tnCtl p) 30 = true → (stepRec s p n).gsum.isSome = true) →
     (ovf = false → (stepRec s p n).refused = false) →
     ∃ t, exec (.lsDecide p) s = .next t ∧ fget t (Reg.lsState p) 63 32 = n.toNat ∧ (stepRec t p n).exp = ctxExp s p ∧
       (t.lsc p).closed = rest ∧
       (stepRec t p n).reduced = ovf ∧
       (stepRec t p n).outcome = (if ovf then .suppressed else if wouldHold s p n then .held else .applied) ∧
       (ovf = false → wouldHold s p n = true → fbit s (Reg.tnHold p) 31 = false →
         fbit t (Reg.tnHold p) 31 = true ∧ fget t (Reg.tnHold p) 63 32 = n.toNat) ∧
       (lsOn s p = true → ovf = true → ctxExp t p = max (ctxExp s p - 1) (-24) ∧ fget t (Reg.lsState p) 15 0 = 0) ∧
       (lsOn s p = true → ovf = false → max 1 (fget s (Reg.lsCtl p) 15 0) ≤ fget s (Reg.lsState p) 15 0 + 1 →
         ctxExp t p = min (ctxExp s p + 1) 24 ∧ fget t (Reg.lsState p) 15 0 = 0) ∧
       (lsOn s p = true → ovf = false → fget s (Reg.lsState p) 15 0 + 1 < max 1 (fget s (Reg.lsCtl p) 15 0) →
         ctxExp t p = ctxExp s p ∧ fget t (Reg.lsState p) 15 0 = fget s (Reg.lsState p) 15 0 + 1)) ∧
  (∀ (s : State) (p : Part) (v : W64), reachable s = true → fbit s (Reg.tnHold p) 31 = true →
     let n : W32 := BitVec.ofNat 32 (fget s (Reg.tnHold p) 63 32)
     let other := (s.lsc p).recs.any fun r => r.outcome == .held && r.step ≠ n
     (v.getLsbD 1 = true →
       ∃ t, exec (.tnHoldDiscard p v) s = .next t ∧ fbit t (Reg.tnHold p) 31 = other ∧ (stepRec t p n).outcome = .discarded ∧
         fget t (Reg.lsOutcomes p) 31 0 = satAdd 32 (fget s (Reg.lsOutcomes p) 31 0) 1) ∧
     (v.getLsbD 1 = false → v.getLsbD 0 = true → (stepRec s p n).refused = false →
       ∃ t, exec (.tnHoldApply p v) s = .next t ∧ fbit t (Reg.tnHold p) 31 = other ∧ (stepRec t p n).outcome = .applied ∧
         fget t (Reg.lsCounts p) 31 0 = satAdd 32 (fget s (Reg.lsCounts p) 31 0) 1 ∧ sameMemory s t))

/-- R155, R156, R159: an engine that is free runs its next update, whose streams and program pass, and keeps its sums; completing
it sets the log bit of its tensor and removes the job.
R21, R131, R164, R184, R185, R277: the owner sends the mirror under the adapter key (log 161) and its digest, the buddy keeps the
mirror and answers with its digest; equal digests end stage 12; the buddy of an adapter that is restored sends its latest mirror and
compares digests, and the restored adapter is TRAINABLE again; a refreshed working copy publishes its generation.
R356: FC_SDC resolves an adapter held after a digest mismatch at its owner: equal digests on a re-reading, or one side's state copied to the
other, publish the working copy and end the hold with RESULT 1. -/
def Obligations.UpdatesAndMirrors : Prop :=
  ((∀ (s : State) (n : Quad) (p : Nat) (j : UpdJob), s.jobs.any (fun j => j.eng == n.val && j.stage == .ran) = false →
     let ready := s.jobs.filter (jobReady s n)
     pickHolder s 1 ((dedup (ready.map fun j => j.part.val)).map fun p => (p, 0)) = some (p, 0) →
     ready.find? (fun (j : UpdJob) => j.part.val == p) = some j → xferFree s n j.inst ≠ 0 → logged s j.part j.step (blkTid j.block) = false →
     streamsCheck s j = none → streamsPoison s j.block = none → (runProgram s j).trap = none →
     ∃ t y, exec (.updRun n) s = .next t ∧ y ∈ t.jobs ∧ y.id = j.id ∧ y.stage = .ran ∧ y.eng = n.val ∧
       y.wsq = (tree (runProgram s j).wsq).1 ∧ y.usq = (tree (runProgram s j).usq).1 ∧ t.descs = s.descs ∧ t.led = s.led) ∧
   (∀ (s : State) (n : Quad) (j : UpdJob), s.jobs.find? (fun (j : UpdJob) => j.eng == n.val && j.stage == .ran) = some j →
     ∃ t, exec (.updComplete n) s = .next t ∧ logged t j.part j.step (blkTid j.block) = true ∧ (∀ y ∈ t.jobs, y.id ≠ j.id))) ∧
  (∀ (s : State) (tag : Tag),
     (∀ x, openStage s tag = some x → partnerUp s tag = true → keyUsable s tag.toNat = true →
       ((s.desc tag.toNat).role = .owner → (s.jobs.any fun j => !j.base && j.tag == tag && j.step == x.step) = false →
         (ranOf s tag x.step).isEmpty = false →
         let m := mirrorOf s tag x.step
         exec (.mirrorSend tag none) s =
           .next ((sendMirror (setStage s { x with own := some (stepDigest s tag m) }) tag m).emit (.digest tag (stepDigest s tag m)))) ∧
       (∀ m : Mirror, (s.desc tag.toNat).role = .buddy → m.step = x.step →
         ∃ t, exec (.mirrorSend tag (some m)) s = .next t ∧ Tab.find t.mirrors tag.toNat = some (m, stepDigest s tag m) ∧
           t.out = s.out ++ [.digest tag (stepDigest s tag m)] ∧ sameMemory s t ∧ t.regs = s.regs)) ∧
     (∀ x peer, s.stage12.find? (fun (x : Stage12) => x.tag == tag && !x.done && x.own.isSome) = some x → x.own = some peer →
       copyFree s tag x.step →
       ∃ t, exec (.digestExchange tag peer) s = .next t ∧
         (∀ y ∈ t.stage12, y.part = x.part → y.step = x.step → y.tag = tag → y.done = true) ∧
         (0 < sdiff32 (x.step + 1#32) (Tab.get 0#32 s.wcGen tag.toNat) → Tab.get 0#32 t.wcGen tag.toNat = x.step + 1#32) ∧
         ((s.desc tag.toNat).role = .owner → Out.refresh tag (x.step + 1#32) ∈ t.out) ∧ t.dev = s.dev) ∧
     (∀ mir : Mirror, (s.desc tag.toNat).st = .restoring → (s.desc tag.toNat).role = .owner → partnerUp s tag = true → keyUsable s tag.toNat = true →
       Tab.find s.refreshes tag.toNat = none →
       ∃ t, exec (.adapterRestore tag (.take mir (stepDigest (writeMirror s tag mir) tag mir))) s = .next t ∧ (t.desc tag.toNat).st = .trainable ∧
         t.dev = (writeMirror s tag mir).dev ∧ t.host = (writeMirror s tag mir).host ∧ ∀ j, j ≠ tag.toNat → t.desc j = s.desc j) ∧
     (∀ (m : Mirror) (h : W64), (s.desc tag.toNat).role = .buddy → partnerUp s tag = true → keyUsable s tag.toNat = true →
       Tab.find s.mirrors tag.toNat = some (m, h) →
       (∃ t, exec (.adapterRestore tag .asked) s = .next t ∧ t.out = (sendMirror s tag m).out ∧ t.mirrors = s.mirrors ∧ sameMemory s t ∧
         ∀ x ∈ t.stage12, x.tag = tag → x.step = m.step + 1#32 → x.done = true) ∧
       (copyFree s tag (m.step + 1#32) → 0 < sdiff32 (m.step + 2#32) (Tab.get 0#32 s.wcGen tag.toNat) →
         ∃ t, exec (.adapterRestore tag (.compare h)) s = .next t ∧ t.out = s.out ++ [.digest tag h] ∧
           Tab.get 0#32 t.wcGen tag.toNat = m.step + 2#32 ∧ t.held = s.held ∧ sameMemory s t)) ∧
     (∀ n w, (s.desc tag.toNat).role = .nonowner → ((s.desc tag.toNat).st = .resident ∨ (s.desc tag.toNat).st = .trainable) →
       keyUsable s tag.toNat = true → refreshDue s tag.toNat n w = true → copyFree s tag n → 0 < sdiff32 (n + 1#32) (Tab.get 0#32 s.wcGen tag.toNat) →
       let d := s.desc tag.toNat
       ∃ t, exec (.workingCopyRefresh tag n w) s = .next t ∧ Tab.get 0#32 t.wcGen tag.toNat = n + 1#32 ∧ t.regs = s.regs ∧ t.host = s.host ∧
         (w = none → t.dev = s.dev) ∧
         ∀ bs, w = some bs → t.dev = (writeRunAt s d.pages (16 * d.nproj) (bs.take (d.len - 16 * d.nproj))).dev)) ∧
  (∀ (s : State) (v : W64) (n : W32) (own peer : W64),
     let tag : Tag := BitVec.ofNat 16 (bits v.toNat 15 0)
     reachable s = true → v.getLsbD 63 = true → s.held.find? (fun x => x.1 == tag) = some (tag, n, own, peer) → (s.desc tag.toNat).role = .owner →
     (s.desc tag.toNat).st ≠ .restoring → copyFree s tag n →
     (bits v.toNat 61 59 = 1 → ∃ t, exec (.reverify v (reread s tag n)) s = .next t ∧ (∀ x ∈ t.held, x.1 ≠ tag) ∧
       fget t Reg.fcSdc 58 56 = 1 ∧ sameMemory s t ∧ (0 < sdiff32 (n + 1#32) (Tab.get 0#32 s.wcGen tag.toNat) → Tab.get 0#32 t.wcGen tag.toNat = n + 1#32)) ∧
     (bits v.toNat 61 59 = 1 → ∀ d, d ≠ reread s tag n → reread s tag n = own →
       ∃ t, exec (.reverify v d) s = .next t ∧ t.held = s.held ∧ fget t Reg.fcSdc 58 56 = (if d ≠ peer then 3 else 4) ∧ sameMemory s t) ∧
     (bits v.toNat 61 59 = 2 → ∃ t, exec (.keepowner v (reread s tag n)) s = .next t ∧ (∀ x ∈ t.held, x.1 ≠ tag) ∧
       fget t Reg.fcSdc 58 56 = 1 ∧ sameMemory s t ∧ t.out = (sendMirror s tag (mirrorOf s tag n)).out ++ [.refresh tag (n + 1#32)]) ∧
     (bits v.toNat 61 59 = 3 → ∀ m : Mirror, ∃ t, exec (.keepbuddy v m (stepDigest (writeMirror (writeSdc s v.toNat) tag m) tag m)) s = .next t ∧ (∀ x ∈ t.held, x.1 ≠ tag) ∧
       fget t Reg.fcSdc 58 56 = 1))

/-! ### Collective streams and groups -/

/-- R244, R245, R247, R252: a Cast whose step is decided starts; an ACTIVE stream takes a contribution, a shard of its exchange
and a header of its operation and step, each kept where it belongs, while its key serves.
R250, R252: an ACTIVE stream with everything in place whose result fits and may be written is DONE, counted by its engine, and
the result stands at RESULT. -/
def Obligations.StreamArrivalsAndEnd : Prop :=
  (∀ (s : State) (h : Handle), ((s.stream h).seals = false ∨ streamKeyOk s (s.stream h) = true) →
     let x := s.stream h
     let n := (x.slots s).1
     let mine := (x.slots s).2
     (x.op = 5 → x.st = .open_ → (s.grp x.group).st = .stable → stage12Done s x.group x.step = true →
       ∃ t, exec (.cast h) s = .next t ∧ (t.stream h).st = .active ∧ (t.stream h).epoch = BitVec.ofNat 32 (grpEpoch s x.group)) ∧
     (∀ m : TileMsg, x.st = .active → x.reduces = true → m.tag = x.tagRec → m.rtag.toNat < mine.length * x.nlocal →
       m.tfmt.toNat = (if x.e ≤ 128 then 5 else 1) → m.ord.toNat < ceilDiv x.e x.per →
       Tab.find x.contrib (m.rtag.toNat * 65536 + m.ord.toNat) = none →
       ∃ t, exec (.contributionArrival h m) s = .next t ∧ (t.stream h).st = .active ∧
         Tab.find (t.stream h).contrib (m.rtag.toNat * 65536 + m.ord.toNat) = some (tileWords m.data) ∧
         ∃ o, t.out = o ++ [.tileAck (m.srcMod, m.home, m.engine, m.seq) 0]) ∧
     (∀ (m : ShardMsg) (f : Xfer), x.st = .active → mine.contains m.dst = true → mine.contains m.src = false → x.xferOf n m = some f →
       let es := ((f.els.drop (4096 * m.ord)).take 4096).zip m.words
       ∃ t, exec (.engineShardArrival h m) s = .next t ∧ (t.stream h).st = .active ∧
         (f.phase = 0 → x.reduces = true → (t.stream h).kids = x.kids ++
           ((es.filter fun k => (x.kid f.lvl (f.dst / 8 ^ f.lvl) f.child k.1).isNone).map fun k => ((f.lvl, f.dst / 8 ^ f.lvl, f.child, k.1), k.2))) ∧
         (x.reduces = false → (t.stream h).vals = es.foldl (fun t k => Tab.insert t k.1 k.2) x.vals)) ∧
     (∀ m : HeaderMsg, x.st = .active → m.op.toNat = x.op → m.step = x.step →
       ∃ t, exec (.headerTile h m) s = .next t ∧ (t.stream h).st = .active ∧ (t.stream h).heard = x.heard ++ [(m.lvl, m.src, m.dst)] ∧
         (m.ovf = true → (t.stream h).ovf = true))) ∧
  (∀ (s : State) (h : Handle), let x := s.stream h
     let bs := if x.op = 5 then castExport s x else (streamResult s x).flatMap fun v => leBytes 4 v.toNat
     x.st = .active → streamReady s h = true → (x.op = 5 → bs.length ≤ 4096 * x.e) → (bs ≠ [] → streamAccess s h x true x.result bs.length = .ok) →
     ∃ t, exec (.streamDone h) s = .next t ∧ (t.stream h).st = .done ∧ (t.stream h).opener = none ∧
       fget t (Reg.ceStat (h.val / 1024)) 31 0 = satAdd 32 (fget s (Reg.ceStat (h.val / 1024)) 31 0) 1 ∧
       (x.norm = false → x.op ≠ 5 → t.dev = (writeResult s x bs).dev))

/-- R236, R241, R254: the barrier of a formation sends its first headers with FORM and the map's digest; where every member's header
agrees and has come, the group is STABLE at epoch 1, and where one differs, or the map cannot be formed on, it is FORMFAIL. A reset of a
STABLE group holds its contexts and spreads by a barrier with OP 6, which a member that hears of it joins; once complete, it aborts the
group's streams and installs the next epoch, at which the contexts are ACTIVE. The form of the headers' tiles is the model's choice
(log 169). -/
def Obligations.GroupsFormAndReset : Prop :=
  ∀ (s : State) (g : Part) (v : W64),
    let s1 := writeGrpcfg (s.dropLow 0 (Reg.ceGrpcfg g)) g v.toNat
    let bar : Stream := { op := 0, group := g, st := .active }
    let first := (bar.outgoing (bar.slots s1).1 (bar.slots s1).2).filter fun f => f.lvl = 1
    (∀ heard : List HeaderMsg, reachable s = true → v.getLsbD 63 = true →
      ((s.grp g).st = .unformed ∨ (s.grp g).st = .formfail ∨ (s.grp g).st = .noquorum) →
      let d := mapDigest s1 g
      (mapOk s1 g = true → (∀ m ∈ heard, m.form = true ∧ m.digest = d) →
        let s2 := barTake (barStart s1 g 0 (some d)) g 0 (some d) heard
        (∀ f ∈ first, Out.header g ((slotMod s1 g f.dst).getD 0) (headerBytes (bar.header s1 0 (some d) f)) ∈ s2.out) ∧
        (barDone s2 g = false → exec (.groupForm g v heard) s = .next s2) ∧
        (barDone s2 g = true → (s.grp g).resetReq = false →
          ∃ t, exec (.groupForm g v heard) s = .next t ∧ (t.grp g).st = .stable ∧ grpEpoch t g = 1 ∧ fget t (Reg.ceGrpstat g) 63 60 = 1 ∧
            fbit t (Reg.fbGroup g) 31 = false ∧ slotsOf t g = bits v.toNat 20 0 ∧ t.dev = s.dev)) ∧
      (mapOk s1 g = false ∨ (∃ m ∈ heard, m.form = false ∨ m.digest ≠ d) →
        ∃ t, exec (.groupForm g v heard) s = .next t ∧ (t.grp g).st = .formfail)) ∧
    (reachable s = true → v.getLsbD 62 = true → (s.grp g).st = .stable →
      ∃ t, exec (.groupReset g v) s = .next t ∧ (t.grp g).st = .resetting ∧ fbit t (Reg.fbGroup g) 31 = true ∧ sameMemory s t ∧
        (∀ f ∈ first, Out.header g ((slotMod s1 g f.dst).getD 0) (headerBytes (bar.header s1 6 none f)) ∈ t.out) ∧
        (∀ c, (s.peer c).group = g → (s.peer c).st = 1 → t.peer c = { s.peer c with st := 2 }) ∧
        ∀ c, (s.peer c).group ≠ g ∨ (s.peer c).st ≠ 1 → t.peer c = s.peer c) ∧
    (∀ heard : List HeaderMsg,
      let ms := heard.filter fun m => m.op = 6#8
      ((s.grp g).st = .stable → ms ≠ [] → barDone (barTake (startReset s g) g 6 none ms) g = false →
        exec (.groupResetApply g heard) s = .next (barTake (startReset s g) g 6 none ms)) ∧
      ((s.grp g).st = .resetting → barDone (barTake s g 6 none ms) g = false →
        exec (.groupResetApply g heard) s = .next (barTake s g 6 none ms)) ∧
      ((s.grp g).st = .resetting → barDone (barTake s g 6 none ms) g = true →
        ∃ t, exec (.groupResetApply g heard) s = .next t ∧ (t.grp g).st = .stable ∧ grpEpoch t g = nextEpoch (grpEpoch s g) ∧ t.dev = s.dev ∧
          (∀ h, (s.stream h).group = g → ((s.stream h).st = .open_ ∨ (s.stream h).st = .active) → (t.stream h).st = .aborted) ∧
          ∀ c, (s.peer c).group = g → ((s.peer c).st = 1 ∨ (s.peer c).st = 2) → (members s g).contains (s.peer c).remmod.toNat = true →
            (t.peer c).st = 1 ∧ (t.peer c).epoch = BitVec.ofNat 32 (nextEpoch (grpEpoch s g))))

/-! ### Membership -/

/-- R237, R257, R258: what the messages of a change do at a member and at the coordinator while a member's vote is still out.
R236, R238, R256, R258: a COMMIT that keeps this module, with no reset waiting, no suspects of this module's own and no adapter
being restored, writes the new slot map, installs the next epoch and aborts the group's streams; the vote window's end decides so with the votes it holds, or finds no quorum.
R258: without a CHANGE or COMMIT for TAKEOVER ms the coordinator is suspect; the lowest of the rest becomes coordinator. -/
def Obligations.MembershipMessages : Prop :=
  (∀ (s : State) (p : Port) (pkt : List Byte) (m : Memb), membArrives s p pkt m → m.epoch = grpEpoch s m.grp → formed s m.grp = true →
     let g := m.grp
     let s1 := addSuspects s g m.sender m.recs
     (m.typ = 1 → (s.grp g).st = .stable → (∃ x ∈ members s g, x ≠ modId s ∧ (suspected s1 g).contains x = false) →
       ∃ t, exec (.notice p pkt) s = .next t ∧ (t.grp g).st = .changing ∧ (t.grp g).coord = modId s ∧ (t.grp g).voted = [modId s] ∧
         fget t (Reg.ceGrpcoord g) 18 0 = modId s ∧ fbit t (Reg.fbGroup g) 31 = true ∧ grpEpoch t g = m.epoch ∧ sameMemory s t) ∧
     (m.typ = 2 → (s.grp g).st = .stable →
       ∃ t u, exec (.change p pkt) s = .next t ∧ (t.grp g).st = .changing ∧ (t.grp g).coord = m.coord ∧
         t = sendMemb u g m.coord 3 m.coord (mySuspects s g) ∧ grpEpoch t g = m.epoch ∧ sameMemory s t) ∧
     (m.typ = 3 → (s.grp g).st = .changing → (s.grp g).coord = modId s →
       (∃ x ∈ members s g, x ∉ (s.grp g).voted ∧ x ≠ m.sender ∧ (suspected s1 g).contains x = false) →
       ∃ t, exec (.vote p pkt) s = .next t ∧ m.sender ∈ (t.grp g).voted ∧ (∀ x ∈ (s.grp g).voted, x ∈ (t.grp g).voted) ∧
         (t.grp g).st = .changing ∧ t.regs = s.regs ∧ t.out = s.out ∧ sameMemory s t) ∧
     (m.typ = 5 → ((s.grp g).st = .stable ∨ (s.grp g).st = .changing) →
       ∃ t, exec (.takeover p pkt) s = .next t ∧ (t.grp g).st = .changing ∧ (t.grp g).coord = m.sender ∧ (t.grp g).voted = [] ∧ sameMemory s t)) ∧
  (∀ (s : State) (g : Part) (coord : Nat) (out : List Nat), out.contains (modId s) = false → (s.grp g).resetReq = false →
     (∀ kv ∈ s.descs, kv.2.st ≠ .restoring) →
     let installed := fun (t : State) => (t.grp g).st = .stable ∧ grpEpoch t g = nextEpoch (grpEpoch s g) ∧ fbit t (Reg.fbGroup g) 31 = false ∧
       t.dev = Memory.write s.dev (rd s (Reg.ceSlotmap g)) ((newMods s g out).flatMap fun m => leBytes 4 (m + 2 ^ 31)) ∧
       ∀ h, (s.stream h).group = g → ((s.stream h).st = .open_ ∨ (s.stream h).st = .active) → (t.stream h).st = .aborted
     (∀ (p : Port) (pkt : List Byte) (m : Memb), membArrives s p pkt m → m.typ = 4 → m.epoch = grpEpoch s g → m.grp = g →
       formed s g = true → m.coord = coord → m.recs = out → mySuspects s g = [] →
       ∃ t, exec (.commit p pkt) s = .next t ∧ installed t) ∧
     ((s.grp g).st = .changing → (s.grp g).coord = modId s →
       (s.grp g).since.toNat + fget s (Reg.ceGrpcfg g) 47 40 * 1000000 ≤ s.time.toNat →
       (removedSet (members s g) (s.grp g).voted (s.grp g).suspects = some out → ∃ t, exec (.voteWindowExpiry g) s = .next t ∧ installed t) ∧
       (removedSet (members s g) (s.grp g).voted (s.grp g).suspects = none →
         ∃ t, exec (.voteWindowExpiry g) s = .next t ∧ (t.grp g).st = .noquorum ∧ fbit t (Reg.fbGroup g) 31 = true ∧ sameMemory s t))) ∧
  (∀ (s : State) (g : Part), (s.grp g).st = .changing → (s.grp g).coord ≠ modId s →
     (s.grp g).since.toNat + fget s (Reg.ceGrpcfg g) 39 32 * 1000000 ≤ s.time.toNat →
     let s1 := addSuspects s g (modId s) [(s.grp g).coord]
     let c := coordOf s1 g (mySuspects s1 g)
     (c ≠ modId s → exec (.takeoverTimeout g) s = .next (setCoord s1 g c)) ∧
     (c = modId s → (∃ x ∈ members s g, x ≠ modId s ∧ (suspected s1 g).contains x = false) →
       ∃ t, exec (.takeoverTimeout g) s = .next t ∧ (t.grp g).st = .changing ∧ (t.grp g).coord = modId s ∧ (t.grp g).voted = [modId s] ∧ sameMemory s t))

/-! ### The link -/

/-- R220, R225, R231, R232: the first shard of a longer tile that passes its checks takes an assembly entry; a whole tile that opens
is delivered and answered with one record.
R101, R222, R232: a REPORT that accepts a tile ends its retention, and one that refuses it starts its timers again; a REQ, and 200 µs without a REPORT, resend a shard on the next
route as an attempt; 200 µs after a tile's first shard a REQ asks for the missing ones. -/
def Obligations.ShardsReportsAndResends : Prop :=
  (∀ (s : State) (p : Port) (pkt pl sl : List Byte) (h : FHdr), p.val < 12 → pktType pkt = 1 → portUp s p = true → crcOk pkt = true →
     parsePacket pkt = some (h, pl, sl) → h.dstMod = modId s → h.typ = 1 → (h.engine = false → (s.peer h.dstCtx).st ≠ 0) →
     epochOk s h = true → ctxOk s h = true → s.asm.find? (fun a => a.isFor h) = none →
     (h.nshard ≠ 0 → h.shard ≤ h.nshard → (s.asm.filter fun a => a.quad.val == portQuad p).length < 256 →
       exec (.dataShard p pkt) s = .next { s with asm := s.asm ++
         [{ quad := fin 3 (portQuad p), hdr := ofLe (h.bytes pl.length), got := [(h.shard, pl)], sealB := sl, first := s.time,
            ctx := if h.engine then none else some h.dstCtx }] }) ∧
     (h.nshard = 0 → h.shard = 0 → genCheck s h = none → (h.sealB = true → ofLe ((sl.drop 16).take 12) = h.nonce.toNat) →
       ∀ bs, (if h.sealB then gcmOpen (keyG (hdrKey s h).key) h.nonce h.aad pl (BitVec.ofNat 128 (ofLe (sl.take 16))) else some pl) = some bs →
         exec (.dataShard p pkt) s = .next (answerData (deliverTile s h bs).1 h 0 true (deliverTile s h bs).2))) ∧
  ((∀ (s : State) (p : Port) (pkt pl sl : List Byte) (h : FHdr) (r : Nat) (x : Sent), p.val < 12 → portUp s p = true → crcOk pkt = true →
     parsePacket pkt = some (h, pl, sl) → h.dstMod = modId s → records pl = some [r] →
     findSent s (bits r 50 48) (bit r 51) (bits r 47 0) = some x →
     (pktType pkt = 2 → h.typ = 2 → (bits r 57 55 = 0 ∨ bits r 57 55 = 1 ∨ bits r 57 55 = 5) →
       (x.dkind = 3 → exec (.report p pkt) s = .next { s with sent := s.sent.filter fun y => !(y.led == x.led && y.n == x.n) }) ∧
       (x.dkind = 1 → exec (.report p pkt) s = .next (acknowledge s x.led x.n))) ∧
     (pktType pkt = 2 → h.typ = 2 → (bits r 57 55 = 2 ∨ bits r 57 55 = 3 ∨ bits r 57 55 = 4) →
       exec (.report p pkt) s = .next (setSent s { x with
         refused := some s.time, shards := x.shards.map fun (h : Shard) => { h with last := s.time } })) ∧
     (pktType pkt = 3 → h.typ = 3 → bits r 57 55 = 0 → bit r 54 = false → heldTile s x = false →
       s.sent.find? (fun (y : Sent) => y.led == x.led && y.n == x.n) = some x →
       ∀ sh, x.shards[bits r 53 52]? = some sh → sh.attempts < 3 →
       let y := { x with shards := x.shards.set (bits r 53 52) { attempts := sh.attempts + 1, route := (sh.route + 1) % 4, last := s.time } }
       exec (.req p pkt) s = .next (sendShard (finc (setSent s y) Reg.fbRetry 63 32 1) y (bits r 53 52) ((sh.route + 1) % 4) true))) ∧
   (∀ (s : State) (home : BitVec 3) (engine : Bool) (seq : BitVec 48) (i : BitVec 2) (x : Sent) (sh : Shard),
     findSent s home.toNat engine seq.toNat = some x → x.shards[i.toNat]? = some sh → sh.last.toNat + 200000 ≤ s.time.toNat →
     heldTile s x = false → sh.attempts < 3 →
     let y := { x with shards := x.shards.set i.toNat { attempts := sh.attempts + 1, route := (sh.route + 1) % 4, last := s.time } }
     exec (.shardResendTimeout home engine seq i) s =
       .next (sendShard (finc (setSent s y) Reg.fbRetry 63 32 1) y i.toNat ((sh.route + 1) % 4) true)) ∧
   (∀ (s : State) (src : BitVec 19) (home : BitVec 3) (engine : Bool) (seq : BitVec 48) (a : Asm) (h : FHdr) (len : Nat) (bad : Bool),
     let key : FHdr := { srcMod := src.toNat, home := home.toNat, engine := engine, seq := seq.toNat }
     s.asm.find? (fun a => a.isFor key) = some a → readHdr a.hdr = some (h, len, bad) → a.first.toNat + 200000 * (a.reqs + 1) ≤ s.time.toNat →
     fbit s (Reg.fbGroup (hdrGroup s h)) 31 = false → a.reqs < 3 →
     ∃ t, exec (.reqTimeout src home engine seq) s = .next t ∧ fget t Reg.fbRetry 15 0 = satAdd 16 (fget s Reg.fbRetry 15 0) 1 ∧
       t.asm = s.asm.map (fun x => if x.isFor key then { a with reqs := a.reqs + 1 } else x) ∧ sameMemory s t))

/-- R217, R221, R226 to R228: a torus packet for another module of the rack goes on, a DATA or MEMB packet with HOPS one less (assumption
log 170), its CRC inverted after an uncorrectable codeword; a rail's frame that passes MACsec and its address is taken as a packet.
R235, R345: a lane that is lost leaves LANES; a port that is lost is down. -/
def Obligations.ForwardingAndPortLoss : Prop :=
  ((∀ (s : State) (p : Port) (pkt : List Byte) (h : FHdr) (len : Nat) (bad : Bool) (q : Nat), readHdr (ofLe (pkt.take 40)) = some (h, len, bad) →
     48 ≤ pkt.length → p.val < 12 → portUp s p = true → h.dstMod ≠ modId s → sameRack (modId s) h.dstMod = true → (h.counts = true → h.hops ≠ 0) →
     portFor s (modId s) h.dstMod h.route = some q →
     let moved := if h.counts then patchByte pkt 27 fun b => b - 16#8 else pkt
     exec (.packetForward p pkt false) s = .next (sendOn s q h.dstMod h.route moved) ∧
     exec (.packetForward p pkt true) s = .next (sendOn (finc s (Reg.fbPorterr p) 63 32 1) q h.dstMod h.route (invertCrc moved))) ∧
   (∀ (s t : State) (r : Rail) (f : RailFrame), portUp s (12 + r.val) = true → macsecIn s r f = some t → f.dst = railAddr s r (modId s) →
     f.udpDst.toNat = fget s Reg.fbUdp 15 0 →
     exec (.railFrame r f) s = .next (packetIn t (12 + r.val) f.payload) ∧ ∃ m, t = { s with pnSeen := m })) ∧
  (∀ (s : State) (p : Port), portUp s p = true →
     (∀ l : Fin 4, bit (fget s (Reg.fbPortstat p) 27 24) l = true →
       ∃ t, exec (.lane p l) s = .next t ∧ bit (fget t (Reg.fbPortstat p) 27 24) l = false) ∧
     ∃ t, exec (.portLoss p) s = .next t ∧ portUp t p = false)

/-! ### Keys, isolation and sealed mode -/

/-- R316 to R320: SETKEY installs a newer generation as ACTIVE, RETIRE makes it RETIRING, QUERY reports; each answers with the
key's generation and state. A retirement whose acknowledgements are in leaves the generation RETIRED with its key zeroised. -/
def Obligations.KeyCommandsComplete : Prop :=
  (∀ (s : State) (fn : Fn) (m : KeyMsg) (k : KeyId), (sessionCert s fn m.sess).isSome = true → m.rsvd = 0#24 → keyOf fn m = some k →
    mayAct s fn k = true →
    let e := keyEnt s k
    ((e.st = .absent ∨ e.st = .retired ∧ e.rettime.toNat + Config.quarantine ≤ s.time.toNat) → m.keygen ≠ 0#8 →
      (e.lastret = 0#8 ∨ 0 < sdiff8 m.keygen e.lastret) →
      ∃ t, exec (.setkey fn m) s = .next t ∧ keyEnt t k = { e with
          keygen := m.keygen, st := .active, inst := fin 15 (fn.val - 1), key := m.key, refused := false } ∧
        t.out = s.out ++ [.spdm fn (leBytes 8 (packFields [(8, 1), (8, 0), (8, m.keygen.toNat), (8, 1)]))] ∧ sameMemory s t ∧ t.regs = s.regs) ∧
    (e.keygen = m.keygen → e.st = .active → m.key = 0#256 →
      ∃ t o, exec (.retire fn m) s = .next t ∧ (keyEnt t k).st = .retiring ∧ (keyEnt t k).keygen = e.keygen ∧ t.dev = s.dev ∧
        t.out = o ++ [.spdm fn (leBytes 8 (packFields [(8, 2), (8, 0), (8, e.keygen.toNat), (8, 2)]))]) ∧
    (m.keygen = 0#8 → m.key = 0#256 → exec (.query fn m) s =
      .next (s.emit (.spdm fn (leBytes 8 (packFields [(8, 3), (8, 0), (8, e.keygen.toNat), (8, e.st.code)])))))) ∧
  (∀ (s : State) (k : KeyId), (keyEnt s k).st = .retiring → (∀ t : Tag, k = .adapter t → ∀ j ∈ s.jobs, j.base = false → j.tag ≠ t) →
    ∃ t, exec (.retireFinish k) s = .next t ∧ t.dev = s.dev ∧ keyEnt t k = { keyEnt s k with
      st := .retired, lastret := (keyEnt s k).keygen, rettime := s.time, key := 0#256, refused := false }) ∧
  (∀ (s : State) (n : Quad) (tag : Tag), (s.key tag.toNat).st = .active →
    ∃ t, exec (.keyFetch n tag true) s = .next t ∧ Tab.find t.kcache (n.val * 65536 + tag.toNat) = some (s.key tag.toNat).keygen ∧
      t.ktab = s.ktab ∧ t.regs = s.regs ∧ t.out = s.out ∧ sameMemory s t)

/-- R312 to R314: pairs stage in order at IS_XIDX, which counts on; a COMMIT applies them at once as one rule change; its end clears
BUSY and writes what waited for it. -/
def Obligations.RuleChangesComplete : Prop :=
  ∀ (s : State) (i : Inst),
    (∀ v : W64, reachable s = true → sealed s = false → (s.inst i).staged.length < 64 →
      ∃ t, exec (.xvalStage i v) s = .next t ∧ (t.inst i).staged = (s.inst i).staged ++ [(fget s (Reg.isXidx i) 23 0, v)] ∧
        fget t (Reg.isXidx i) 23 0 = (fget s (Reg.isXidx i) 23 0 + 1) % 2 ^ 24 ∧ fget t (Reg.isRulectl i) 6 0 = (s.inst i).staged.length + 1 ∧
        t.xlat = s.xlat ∧ sameMemory s t ∧ ∀ off, off ≠ Reg.isXidx i → off ≠ Reg.isRulectl i → rd t off = rd s off) ∧
    (∀ v : W32, reachable s = true → sealed s = false → v.getLsbD 31 = true →
      (ruleBusy s i = false → ∃ t, exec (.rulectlCommit i v) s = .next t ∧ (t.inst i).staged = [] ∧ ruleBusy t i = true ∧
        t.xlat = (s.inst i).staged.foldl (fun x (k : Nat × W64) => Tab.put 0#64 x (i.val * 2 ^ 24 + k.1) k.2) s.xlat ∧
        fget t (Reg.isEpoch i) 15 0 = (fget s (Reg.isEpoch i) 15 0 + 1) % 2 ^ 16 ∧ fget t (Reg.isRulectl i) 6 0 = 0 ∧ sameMemory s t) ∧
      (ruleBusy s i = true → ∃ t, exec (.rulectlCommit i v) s = .next t ∧ (t.inst i).commitQ = true ∧ t.xlat = s.xlat ∧ sameMemory s t)) ∧
    (ruleBusy s i = true → (s.inst i).commitQ = false →
      ∃ t, exec (.ruleChangeComplete i) s = .next t ∧ ruleBusy t i = false ∧ (t.inst i).deferred = [] ∧ t.dev = s.dev ∧ t.xlat = s.xlat)

/-- R308, R315, R327, R329: sealed mode starts on a tenant's SEAL with its conditions met, ARM clear and the trace gone; UNSEAL by
the sealing tenant starts its end; ARM sets, IDEUP once the PF's IDE stream is keyed; the responder answers as its session and journal let it. -/
def Obligations.SealedModeAndSessions : Prop :=
  ∀ (s : State) (fn : Fn) (m : KeyMsg) (cert : BitVec 384),
    (sessionCert s fn m.sess = some cert → m.kind = 0#8 → m.keygen = 0#8 → m.rsvd = 0#24 → m.key = 0#256 → fn.val ≠ 0 →
      (removing s = false → sealed s = false → sealOk s m.tag.toNat cert = true →
        ∃ t, exec (.seal fn m) s = .next t ∧ sealed t = true ∧ fbit t Reg.isSealctl 30 = false ∧ fget t Reg.isSealctl 15 0 = m.tag.toNat ∧
          t.sealCert = cert ∧ t.trFifo = [] ∧ t.trBuf = [] ∧ sameMemory s t ∧
          t.out = s.out ++ [.spdm fn (leBytes 8 (packFields [(8, 0x10), (8, 0), (8, 0), (8, 0)]))]) ∧
      (m.tag = 0#16 → sealed s = true → s.sealCert = cert →
        ∃ t o, exec (.unseal fn m) s = .next t ∧ (t.unsealing = true ∨ sealed t = false) ∧
          t.out = o ++ [.spdm fn (leBytes 8 (packFields [(8, 0x11), (8, 0), (8, 0), (8, 0)]))])) ∧
    (∀ v : W32, reachable s = true → v.getLsbD 30 = true →
      ∃ t, exec (.sealArm v) s = .next t ∧ fbit t Reg.isSealctl 30 = true ∧ sealed t = sealed s ∧ sameMemory s t ∧
        ∀ off, off ≠ Reg.isSealctl → rd t off = rd s off) ∧
    (∀ key, ∃ t, exec (.ideKm fn key) s = .next t ∧ Tab.find t.ideKeys fn.val = some key ∧ sealed t = sealed s ∧
      fbit t Reg.isSealctl 29 = (fn.val == 0 || fbit s Reg.isSealctl 29)) ∧
    (∀ ver : W16, 0x0103 ≤ ver.toNat → exec (.spdmRequest fn (.getVersion ver)) s = .next (s.emit (.spdm fn (4#8 :: leBytes 2 0x0103)))) ∧
    (fbit s Reg.ksStatus 31 = true →
      (∀ nonce, exec (.spdmRequest fn (.challenge nonce)) s =
        .next (s.emit (.spdm fn (3#8 :: Config.sign Config.identityKey (leBytes 32 nonce.toNat))))) ∧
      (Tab.find s.spdm (fn.val * 2) = none → exec (.spdmRequest fn (.keyExchange cert)) s =
        .next (State.emit { s with spdm := Tab.insert s.spdm (fn.val * 2) cert } (.spdm fn [0x64#8, 0#8]))))

/-- R287, R311, R322: a removal resets the instance, retires its key and marks its phase; IS_VIOL's latch clears on a 1. -/
def Obligations.RemovalAndViolations : Prop :=
  ∀ (s : State) (i : Inst), reachable s = true →
    (∀ v : W32, v.getLsbD 31 = true → fget s (Reg.isRemove i) 29 28 ≠ 1 → fget s (Reg.isRemove i) 29 28 ≠ 2 →
      ∃ t, exec (.tenantRemoval i v) s = .next t ∧ fget t (Reg.isRemove i) 29 28 ≠ 0 ∧ fbit t (Reg.qmInststat i) 2 = true ∧
        (∀ o ∈ t.ops, o.inst ≠ i) ∧ ((s.ikey i).st = .active → (t.ikey i).st = .retiring) ∧ t.dev = s.dev) ∧
    (∀ v : W64, ∃ t, exec (.isViolRearm i v) s = .next t ∧ (v.getLsbD 63 = true → fbit t (Reg.isViol i) 63 = false) ∧
      (v.getLsbD 62 = true → fbit t (Reg.isViol i) 62 = false) ∧ (v.getLsbD 63 = false → fbit t (Reg.isViol i) 63 = fbit s (Reg.isViol i) 63) ∧
      fget t (Reg.isViol i) 47 0 = fget s (Reg.isViol i) 47 0 ∧ sameMemory s t ∧ ∀ off, off ≠ Reg.isViol i → rd t off = rd s off)

/-! ### Instance control -/

/-- R266, R287: an instance reset, through QM_INSTCTL or by an FLR, leaves nothing of the instance admitted, queued or in the ledger, its
rings and generations at their reset values and RESETDONE set; keys and device memory stay.
R286: QUIESCE stops admission, QUIESCED sets once nothing of the instance is left, RESUME ends it. -/
def Obligations.InstanceStops : Prop :=
  (∀ (s : State) (i : Inst) (c : Instr), (c = .flrVf i ∨ c = .instctlReset i 1#32 ∧ reachable s = true ∧ s.plinth.svc = .normal) →
     ∃ t, exec c s = .next t ∧ (∀ o ∈ t.ops, o.inst ≠ i) ∧ (∀ x ∈ t.elig, x.op.inst ≠ i) ∧ (∀ e ∈ t.led, e.2.inst ≠ i) ∧
       (∀ r : RingId, t.ring i r = {}) ∧ (∀ n, n < 65536 → Tab.get 0#32 t.gens (i.val * 65536 + n) = 0#32) ∧
       fbit t (Reg.qmInststat i) 2 = true ∧ fbit t (Reg.qmInststat i) 4 = false ∧ t.ktab = s.ktab ∧ t.ikeys = s.ikeys ∧ sameMemory s t) ∧
  (∀ (s : State) (i : Inst),
     (reachable s = true →
       (∃ t, exec (.instctlQuiesce i 2#32) s = .next t ∧ (t.inst i).stopped = true ∧ (∀ r, mayAdmit t i r = false) ∧ t.regs = s.regs ∧ t.led = s.led ∧ sameMemory s t) ∧
       (∃ t, exec (.instctlResume i 4#32) s = .next t ∧ (t.inst i).stopped = false ∧ (t.inst i).quiescing = false ∧
         fbit t (Reg.qmInststat i) 1 = false ∧ t.led = s.led ∧ sameMemory s t ∧ ∀ off, off ≠ Reg.qmInststat i → rd t off = rd s off)) ∧
     ((s.inst i).quiescing = true → nothingOf s i = true →
       ∃ t, exec (.instanceQuiesced i) s = .next t ∧ fbit t (Reg.qmInststat i) 1 = true ∧ (t.inst i).quiescing = false ∧ sameMemory s t))

/-- R291: with no compute-die roll (R378), an instance with nothing running freezes at once and its contexts are HELD; a SAVE of a frozen instance with a migration key
ends with SAVED and its image; a RESTORE of an image that fits takes it and leaves the instance frozen; THAW ends the freeze. -/
def Obligations.MigrationCommandsComplete : Prop :=
  ∀ (s : State) (i : Inst),
    (reachable s = true →
      (mayRun s i = true → openInst s i = false → rolling s 3 = none → (s.led.any fun kv => kv.2.inst.val == i.val && (kv.2.st == .running || kv.2.st == .finishing)) = false →
        ∃ t, exec (.instctlFreeze i 8#32) s = .next t ∧ fbit t (Reg.qmInststat i) 4 = true ∧ (t.inst i).freezing = false ∧ sameMemory s t ∧
          (∀ c, (s.peer c).inst = i → (s.peer c).cls = true → (s.peer c).st = 1 → t.peer c = { s.peer c with st := 2 }) ∧
          ∀ c, (s.peer c).inst ≠ i → t.peer c = s.peer c) ∧
      (fbit s (Reg.qmInststat i) 4 = true → migReady s = true →
        ∃ t, exec (.instctlSave i 16#32) s = .next t ∧ (t.inst i).saving = true ∧ fbit t (Reg.qmInststat i) 5 = false ∧ sameMemory s t) ∧
      (∀ im u, imageAt s (rd s (Reg.qmMigaddr i)) = some im → imageFits s i im = true → imageKeys s i im = true → nothingOf s i = true →
        restoreImage s i im = some u →
        ∃ t, exec (.instctlRestore i 32#32) s = .next t ∧ fbit t (Reg.qmInststat i) 4 = true ∧ ruleBusy t i = true ∧ t.dev = u.dev ∧
          t.rings = u.rings ∧ t.descs = u.descs ∧ t.pages = u.pages ∧ t.led = u.led ∧ t.host = s.host) ∧
      (fbit s (Reg.qmInststat i) 4 = true →
        ∃ t, exec (.instctlThaw i 64#32) s = .next t ∧ fbit t (Reg.qmInststat i) 4 = false ∧ fbit t (Reg.qmInststat i) 5 = false ∧ sameMemory s t ∧
          ∀ c, (s.peer c).inst = i → (s.peer c).cls = true → (s.peer c).st = 2 → (s.grp (s.peer c).group).st = .stable → t.peer c = { s.peer c with st := 1 })) ∧
    ((s.inst i).saving = true → migReady s = true →
      ∃ t, exec (.saved i) s = .next t ∧ fbit t (Reg.qmInststat i) 5 = true ∧ (t.inst i).saving = false ∧ t.dev = s.dev ∧
        Tab.find t.images (rd s (Reg.qmMigaddr i)) = some (migImage s i).1)

/-- R272, R275, R290, R292: enabling a disabled ring zeroes its counts and takes its fields, from the PF with MGR and from the VF of an
instance-owned ring without, and the entries its earlier enable admitted are counted apart; dirty logging takes its fields, a changed SEL clears FLIPPED, and FLIPPED sets. -/
def Obligations.RingEnableAndDirtyLogging : Prop :=
  ∀ (s : State) (i : Inst),
    (∀ (fn : Fn) (r : RingId) (v : W32), reachable s = true → (fn.val = 0 ∨ fn.val = i.val + 1 ∧ ringMgr (s.ring i r) = false) →
      ringEn (s.ring i r) = false → v.getLsbD 31 = true →
      ∃ t x, exec (.ringEnable fn i r v) s = .next t ∧ x = t.ring i r ∧
        ringEn x = true ∧ sqLog x = bits v.toNat 28 24 ∧ cqLog x = bits v.toNat 23 19 ∧ ringVec x = bits v.toNat 10 0 ∧
        ringMgr x = (decide (fn.val = 0) && v.getLsbD 30) ∧ x.rsq = (s.ring i r).rsq ∧ x.rcq = (s.ring i r).rcq ∧
        x.tail = 0#32 ∧ x.head = 0#32 ∧ x.err = false ∧ x.written = 0#32 ∧ x.next = 0#32 ∧ x.outst = 0 ∧ x.first = s.orders ∧
        x.older = (s.ring i r).older + (s.ring i r).outst ∧
        (∀ j q : Nat, q < 16384 → (j, q) ≠ (i.val, r.val) → t.ring j q = s.ring j q) ∧ t.regs = s.regs ∧ sameMemory s t) ∧
    (∀ v : W64, reachable s = true → ∀ c, (c = .dirtyEnable i v ∨ c = .dirtySelect i v) →
      ∃ t, exec c s = .next t ∧ fget t (Reg.qmDirtyctl i) 63 16 = bits v.toNat 63 16 ∧ fget t (Reg.qmDirtyctl i) 1 1 = bits v.toNat 1 1 ∧
        ((∀ p, partOf s i = some p → slotsOf s p ≤ 16) → fget t (Reg.qmDirtyctl i) 0 0 = bits v.toNat 0 0) ∧
        (bits v.toNat 1 1 ≠ fget s (Reg.qmDirtyctl i) 1 1 → fbit t (Reg.qmDirtyctl i) 2 = false) ∧ sameMemory s t ∧
        ∀ off, off ≠ Reg.qmDirtyctl i → rd t off = rd s off) ∧
    (∃ t, exec (.flipped i) s = .next t ∧ fbit t (Reg.qmDirtyctl i) 2 = true ∧ sameMemory s t ∧ ∀ off, off ≠ Reg.qmDirtyctl i → rd t off = rd s off)

/-! ### Registers and latches -/

/-- R202, R293, R312, R414: QM_AP, SC_INSTCFG, SC_PCORES, the quotas and the table bases take what is written where their checks
pass; a change of QM_AP is a rule change; an instance that joins claims 65 pages, one that leaves loses its table; a core of another
partition sets CFGERR, and a table over used pages sets the pool's error and leaves every page. -/
def Obligations.ConfigurationWrites : Prop :=
  ∀ s : State, reachable s = true → sealed s = false →
    (∀ (i : Inst) (v : W64), ∃ t, exec (.qmApWrite i v) s = .next t ∧ fget t (Reg.qmAp i) 39 21 = bits v.toNat 39 21 ∧ sameMemory s t ∧
      (bits v.toNat 39 21 ≠ fget s (Reg.qmAp i) 39 21 → ruleBusy t i = true ∧ fget t (Reg.isEpoch i) 15 0 = (fget s (Reg.isEpoch i) 15 0 + 1) % 2 ^ 16)) ∧
    (∀ (i : Inst) (v : W32), (∀ p, partOf s i = some p → partBusy s p = false) → partBusy s (bits v.toNat 3 0) = false →
      (v.getLsbD 4 = true → memDone s = true → (partOf s i = none → (instTables s).length = 65) →
        ∃ t, exec (.instcfgWrite i v) s = .next t ∧ partOf t i = some (bits v.toNat 3 0) ∧ sameMemory s t ∧
          (partOf s i = none → Tab.find t.claims (2 ^ 32 + i.val) = some (instTables s) ∧ ∀ n ∈ instTables s, (t.page n).kind = .system)) ∧
      (v.getLsbD 4 = false → partOf s i ≠ none →
        ∃ t, exec (.instcfgWrite i v) s = .next t ∧ partOf t i = none ∧ Tab.find t.claims (2 ^ 32 + i.val) = none ∧
          (∀ a, a < 2 ^ 24 → leaf t i a = 0) ∧ sameMemory s t)) ∧
    (∀ (p : Part) (half : Fin 2) (v : W64),
      let off := fun (q : Nat) => if half.val = 0 then Reg.scPcores0 q else Reg.scPcores1 q
      ((∀ q : Part, q ≠ p → rd s (off q) &&& v.toNat = 0) → partBusy s p = false →
        ∃ t, exec (.pcoresWrite p half v) s = .next t ∧ rd t (off p) = v.toNat ∧ sameMemory s t ∧ ∀ o, o ≠ off p → o ≠ Reg.mtPoolstat → rd t o = rd s o) ∧
      (∀ q : Part, q ≠ p → rd s (off q) &&& v.toNat ≠ 0 →
        ∃ t, exec (.pcoresWrite p half v) s = .next t ∧ fbit t (Reg.scPstat p) 30 = true ∧ sameMemory s t ∧ ∀ o, o ≠ Reg.scPstat p → rd t o = rd s o)) ∧
    (∀ (off : Nat) (v : W32), isQuota off = true →
      (quotaSum s + bits v.toNat 18 0 + systemPages s ≤ fget s Reg.mtPoolstat 56 38 →
        ∃ t, exec (.quotaWrite off v) s = .next t ∧ fget t off 18 0 = bits v.toNat 18 0 ∧ sameMemory s t ∧ ∀ o, o ≠ off → rd t o = rd s o) ∧
      (fget s off 18 0 < bits v.toNat 18 0 → fget s Reg.mtPoolstat 56 38 + fget s off 18 0 < quotaSum s + bits v.toNat 18 0 + systemPages s →
        ∃ t, exec (.quotaWrite off v) s = .next t ∧ fget t off 18 0 = fget s off 18 0 ∧ fbit t Reg.mtPoolstat 63 = true ∧ sameMemory s t)) ∧
    (∀ (off : Nat) (v : W64) (ext : Nat), tableExtent off = some ext →
      (memDone s = false → (isRwo off = true → written s off = false ∧ Tab.find s.heldBase off = none) →
        ∃ t, exec (.tableBaseWrite off v) s = .next t ∧ Tab.find t.heldBase off = some v ∧ t.pages = s.pages ∧ t.regs = s.regs ∧ sameMemory s t) ∧
      (memDone s = true → (isRwo off = true → written s off = false ∧ Tab.find s.heldBase off = none) →
        let a := rd (regWritePlain s off v.toNat) off
        (a + ext ≤ Config.devMemEnd → (∀ n ∈ span Config.pageBytes a ext, pageFree s n = true ∨ (s.page n).kind = .system) →
          ∃ t, exec (.tableBaseWrite off v) s = .next t ∧ rd t off = a ∧ sameMemory s t ∧ ∀ n ∈ span Config.pageBytes a ext, (t.page n).kind = .system) ∧
        (∀ n ∈ span Config.pageBytes a ext, pageFree s n = false → (s.page n).kind ≠ .system →
          ∃ t, exec (.tableBaseWrite off v) s = .next t ∧ t.pages = s.pages ∧ fbit t Reg.mtPoolstat 61 = true ∧ sameMemory s t)))

/-- R284, R285: a mailbox word is written while its slot is clear and counted as dropped while it is full; OWN bits publish and release with
vector 0 of the other side; the next device notice goes to slot 15 once that is clear. -/
def Obligations.MailboxCommands : Prop :=
  ∀ (s : State) (i : Inst), 
    (reachable s = true →
      (∀ (slot : Fin 16) (w : Fin 8) (v : W64),
        ((Tab.get 0#16 s.mbUpOwn i).getLsbD slot = false → ∃ t, exec (.mailboxWordWrite true i slot w v) s = .next t ∧
          Tab.get 0#64 t.mbUp (i.val * 128 + slot.val * 8 + w.val) = v ∧ t.mbUpOwn = s.mbUpOwn ∧ sameMemory s t ∧ t.out = s.out) ∧
        ((Tab.get 0#16 s.mbUpOwn i).getLsbD slot = true → ∃ t, exec (.mailboxWordWrite true i slot w v) s = .next t ∧
          t.mbUp = s.mbUp ∧ Tab.get 0 t.mbUpDrop i = min 65535 (Tab.get 0 s.mbUpDrop i + 1) ∧ sameMemory s t) ∧
        (slot.val ≠ 15 → (Tab.get 0#16 s.mbDownOwn i).getLsbD slot = false → ∃ t, exec (.mailboxWordWrite false i slot w v) s = .next t ∧
          Tab.get 0#64 t.mbDown (i.val * 128 + slot.val * 8 + w.val) = v ∧ t.mbDownOwn = s.mbDownOwn ∧ sameMemory s t ∧ t.out = s.out)) ∧
      (∀ mask : W16,
        (∃ t, exec (.mailboxPublish true i mask) s = .next t ∧ Tab.get 0#16 t.mbUpOwn i = (Tab.get 0#16 s.mbUpOwn i ||| mask) ∧ t.mbUp = s.mbUp ∧
          sameMemory s t ∧ (¬ (Tab.get 0#16 s.mbUpOwn i ||| mask) = Tab.get 0#16 s.mbUpOwn i → t.out = s.out ++ [.msix 0 0])) ∧
        (∃ t, exec (.mailboxRelease false i mask) s = .next t ∧ Tab.get 0#16 t.mbUpOwn i = (Tab.get 0#16 s.mbUpOwn i &&& ~~~mask) ∧ t.mbUp = s.mbUp ∧
          sameMemory s t ∧ (¬ (Tab.get 0#16 s.mbUpOwn i &&& ~~~mask) = Tab.get 0#16 s.mbUpOwn i → t.out = s.out ++ [.msix i.succ 0])) ∧
        ((s.inst i).notices = [] →
          ∃ t, exec (.mailboxRelease true i mask) s = .next t ∧ Tab.get 0#16 t.mbDownOwn i = (Tab.get 0#16 s.mbDownOwn i &&& ~~~mask) ∧ sameMemory s t))) ∧
    (∀ k a rest, (s.inst i).notices = (k, a) :: rest → (Tab.get 0#16 s.mbDownOwn i).getLsbD 15 = false →
      ∃ t, exec (.deviceNotice i) s = .next t ∧ (t.inst i).notices = rest ∧ (Tab.get 0#16 t.mbDownOwn i).getLsbD 15 = true ∧
        Tab.get 0#64 t.mbDown (i.val * 128 + 120) = BitVec.ofNat 64 (k.toNat + a.toNat * 2 ^ 32) ∧
        (∀ w, 1 ≤ w → w < 8 → Tab.get 0#64 t.mbDown (i.val * 128 + 120 + w) = 0#64) ∧ t.out = s.out ++ [.msix i.succ 0] ∧ sameMemory s t)

/-- R12, R267, R271: a 64-bit register takes an aligned 64-bit write, or its two halves in order, as one write; other writes do nothing. A 32-bit
read of a low half latches the high half, an aligned 64-bit read gives the whole register, and a read that fits none gives all ones. BAR4
reads and writes device memory through the checks of its pages, and takes no request beyond its size. -/
def Obligations.FunctionAccesses : Prop :=
  ∀ (s : State) (fn : Fn), reachable s = true →
    (∀ (off : Nat) (v : W64), regWidth fn off = some true → off % 8 = 0 →
      exec (.registerWrite fn off 8 v) s = .next (writeWhole (s.dropLow fn off) fn off v.toNat) ∧
      (locked s fn off = true → exec (.registerWrite fn off 4 v) s = .next s) ∧
      (locked s fn off = false →
        ∃ t, exec (.registerWrite fn off 4 v) s = .next t ∧ t = { s with lowPend := Tab.insert s.lowPend (halfKey fn off) (v.truncate 32) } ∧
          (regWidth fn (off + 4) = none → ∀ w : W64, exec (.registerWrite fn (off + 4) 4 w) t =
            .next (writeWhole (t.dropLow fn off) fn off (w.toNat % 2 ^ 32 * 2 ^ 32 + v.toNat % 2 ^ 32))))) ∧
    (∀ (off size : Nat) (v : W64), size ≠ 8 ∨ off % 8 ≠ 0 → size ≠ 4 ∨ off % 4 ≠ 0 → exec (.registerWrite fn off size v) s = .next s) ∧
    (∀ (i : Inst) (v : W64), fn.val = 0 → ∃ t, exec (.registerWrite fn (Reg.qmMigaddr i) 8 v) s = .next t ∧
      fget t (Reg.qmMigaddr i) 46 12 = bits v.toNat 46 12 ∧ sameMemory s t ∧ ∀ o, o ≠ Reg.qmMigaddr i → rd t o = rd s o) ∧
    (∀ off : Nat, regWidth fn off = some true → off % 4 = 0 →
      ∃ t, exec (.lowHalfRead fn off 4) s = .next t ∧ t.out = s.out ++ [.readData fn (leBytes 4 (readWhole s fn off % 2 ^ 32))] ∧
        Tab.find t.hiLatch (halfKey fn off) = some (BitVec.ofNat 32 (readWhole s fn off / 2 ^ 32)) ∧ t.regs = s.regs ∧ sameMemory s t) ∧
    (∀ off : Nat, off % 8 = 0 →
      (regWidth fn off = some true → exec (.lowHalfRead fn off 8) s = .next (s.emit (.readData fn (leBytes 8 (readWhole s fn off))))) ∧
      (regWidth fn off = some false → exec (.lowHalfRead fn off 8) s = .next (s.emit (.readData fn (List.replicate 8 0xFF#8))))) ∧
    (∀ off size : Nat, size ≠ 8 ∨ off % 8 ≠ 0 → size ≠ 4 ∨ off % 4 ≠ 0 →
      exec (.lowHalfRead fn off size) s = .next (s.emit (.readData fn (List.replicate size 0xFF#8)))) ∧
    (sealed s = false → ∀ off n : Nat,
      let a := if fn.val = 0 then off else rd s (Reg.qmAp (fn.val - 1)) + off
      (∀ bs : List Byte, off + bs.length ≤ bar4Size s fn → a + bs.length ≤ Config.devMemEnd → (∀ pg ∈ span Config.pageBytes a bs.length, bar4Page s fn true a bs.length pg = true) →
        ∃ t, exec (.bar4Access fn off n (some bs)) s = .next t ∧ t.dev = Memory.write s.dev a bs ∧ t.host = s.host ∧ t.regs = s.regs ∧ t.out = s.out) ∧
      (off + n ≤ bar4Size s fn → a + n ≤ Config.devMemEnd → (∀ pg ∈ span Config.pageBytes a n, bar4Page s fn false a n pg = true) →
        exec (.bar4Access fn off n none) s = .next (s.emit (.readData fn (Memory.read s.dev a n)))) ∧
      (bar4Size s fn < off + n → exec (.bar4Access fn off n none) s = .next s) ∧
      (off + n ≤ bar4Size s fn → ∀ pg ∈ span Config.pageBytes a n, bar4Page s fn false a n pg = false →
        ∃ t, exec (.bar4Access fn off n none) s = .next t ∧ t.out = s.out ++ [.readData fn (List.replicate n 0xFF#8)] ∧ sameMemory s t))

/-- R235, R393 to R397, R410: enabling and training a port; a trace dump copies a die's packets as they stood, and one asked
for while a copy runs follows it (the model's choice, assumption log 167); a packet that meets a full FIFO is dropped and counted. -/
def Obligations.PortsAndTrace : Prop :=
  ∀ s : State,
    (∀ (p : Port) (v : W32), reachable s = true →
      (v.getLsbD 31 = true → written s Reg.fbModid = true →
        ∃ t, exec (.portEnable p v) s = .next t ∧ fbit t (Reg.fbPortctl p) 31 = true ∧ sameMemory s t ∧ ∀ o, o ≠ Reg.fbPortctl p → rd t o = rd s o) ∧
      (v.getLsbD 31 = true → written s Reg.fbModid = false →
        ∃ t, exec (.portEnable p v) s = .next t ∧ fbit t Reg.glStatus 29 = true ∧ sameMemory s t ∧ ∀ o, o ≠ Reg.glStatus → rd t o = rd s o) ∧
      (v.getLsbD 31 = false →
        ∃ t, exec (.portEnable p v) s = .next t ∧ fbit t (Reg.fbPortctl p) 31 = false ∧ fget t (Reg.fbPortstat p) 31 28 = 0 ∧ sameMemory s t)) ∧
    (∀ p : Port, fbit s (Reg.fbPortctl p) 31 = true →
      ∃ t, exec (.portTraining p true) s = .next t ∧ portUp t p = true ∧ fget t (Reg.fbPortstat p) 30 28 = 4 ∧ fget t (Reg.fbPortstat p) 27 24 = 15 ∧
        p ∉ t.portWait ∧ sameMemory s t ∧ (memDone s = true → s.portWait = [p] → fbit t Reg.glStatus 12 = true)) ∧
    (∀ v : W64, reachable s = true → sealed s = false → fbit s Reg.trDump 10 = false → v.getLsbD 11 = true →
      ∃ t, exec (.trDump v) s = .next t ∧ fbit t Reg.trDump 10 = true ∧ fget t Reg.trDump 63 12 = bits v.toNat 63 12 ∧
        fbit t Reg.trDump 11 = false ∧ t.trTo = 4096 * bits v.toNat 63 12 ∧ t.trCopy = Tab.get [] s.trBuf (bits v.toNat 2 0) ∧ t.trBuf = s.trBuf ∧
        sameMemory s t) ∧
    (∀ v : W64, reachable s = true → sealed s = false → fbit s Reg.trDump 10 = true → v.getLsbD 11 = true →
      ∃ t, exec (.trDump v) s = .next t ∧ fbit t Reg.trDump 11 = true ∧ t.trCopy = s.trCopy ∧ t.trTo = s.trTo ∧ sameMemory s t) ∧
    (fbit s Reg.trDump 10 = true → ∃ t, exec .trDumpDone s = .next t ∧ t.dev = s.dev ∧
      Memory.read t.host s.trTo (16 * s.trCopy.length) = (s.trCopy.flatMap fun p => leBytes 16 p.toNat) ∧
      (fbit s Reg.trDump 11 = false → fbit t Reg.trDump 10 = false ∧ t.trCopy = []) ∧
      (fbit s Reg.trDump 11 = true → sealed s = false → fbit t Reg.trDump 10 = true ∧ fbit t Reg.trDump 11 = false ∧
        t.trCopy = Tab.get [] s.trBuf (fget s Reg.trDump 2 0) ∧ t.trTo = 4096 * fget s Reg.trDump 63 12)) ∧
    (∀ k : PCore, traceOn s = true → 32 ≤ (Tab.get [] s.trFifo k).length →
      ∃ t, exec (.traceDrop k) s = .next t ∧ t.trFifo = s.trFifo ∧ sameMemory s t ∧
        fget t (Reg.trPtr (dieOf k)) 63 32 = min (2 ^ 32 - 1) (fget s (Reg.trPtr (dieOf k)) 63 32 + 1))

/-! ### Faults, power and start-up -/

/-- R334, R336, R338: a message whose level is its kind's and whose ESC is clear is logged: its class's latch is valid, and
where no key of its class and scope is pending it stands in the log as sent and, if the latch was free, in the latch; at level 0, where it brings no
pseudo-channel to its threshold (R344), FC_STATUS counts it and nothing else happens.
R39, R270, R338, R339: a 1 to VALID re-arms a latch and clears its count, a 1 to OVF clears OVF, and the record stays; FC_ACK takes a key
pending at level 3 or above away and sets ACKERR for any other. -/
def Obligations.FaultsAreLogged : Prop :=
  (∀ (s : State) (m : W128), kindLevel (mKind m.toNat) = some (mLevel m.toNat) → bit m.toNat 80 = false →
     let c := mKind m.toNat / 16
     let n := fget s Reg.fcStatus 31 0
     ∃ t, exec (.faultMessage m) s = .next t ∧ fbit t (Reg.fcLstat c) 31 = true ∧
       (sealed s = false → notPending s c (scopeOf m.toNat) →
         rd t (Reg.fcLoglo (n % 4096)) = bits m.toNat 63 0 ∧ rd t (Reg.fcLoghi (n % 4096)) = bits m.toNat 127 64 ∧
         (fbit s (Reg.fcLstat c) 31 = false → rd t (Reg.fcLatchlo c) = bits m.toNat 63 0 ∧ rd t (Reg.fcLatchhi c) = bits m.toNat 127 64)) ∧
       (mLevel m.toNat = 0 → tripsPc s m.toNat = false → fget t Reg.fcStatus 31 0 = (n + 1) % 2 ^ 32 ∧ t.led = s.led ∧ t.esc = s.esc ∧ sameMemory s t)) ∧
  (∀ s : State, reachable s = true →
     (∀ (i : Inst) (c : Fin 16) (v : W32) (x : Instr) (off : Nat), (x = .tnNanstatRearm i v ∨ x = .mrNanstatRearm i v) ∧ off = Reg.tnNanstat i ∨
         x = .fcLstatRearm c v ∧ off = Reg.fcLstat c →
       ∃ t, exec x s = .next t ∧ sameMemory s t ∧ (∀ o, o ≠ off → rd t o = rd s o) ∧
         (v.getLsbD 31 = true → fget t off 31 30 = 0 ∧ fget t off 15 0 = 0) ∧
         (v.getLsbD 31 = false → v.getLsbD 30 = true → fbit t off 30 = false ∧ fbit t off 31 = fbit s off 31 ∧ fget t off 15 0 = fget s off 15 0) ∧
         (v.getLsbD 31 = false → v.getLsbD 30 = false → rd t off = rd s off)) ∧
     (∀ v : W32, v.getLsbD 31 = true →
       (∀ k, s.esc.find? (keyEq (bits v.toNat 19 16) (bits v.toNat 15 0)) = some k → 3 ≤ k.level →
         ∃ t, exec (.fcAck v) s = .next t ∧ notPending t (bits v.toNat 19 16) (bits v.toNat 15 0) ∧ t.led = s.led ∧ sameMemory s t ∧
           fbit t Reg.fcStatus 63 = fbit s Reg.fcStatus 63) ∧
       (notPending s (bits v.toNat 19 16) (bits v.toNat 15 0) →
         ∃ t, exec (.fcAck v) s = .next t ∧ t.esc = s.esc ∧ fbit t Reg.fcStatus 63 = true ∧ t.led = s.led ∧ sameMemory s t)))

/-- R330, R336, R341 to R347, R392: what each fault event takes out of service: a core or a die is fenced, a pseudo-channel retired, by its
controller's word or by the memory error that brings it to its threshold; the ring and the watchdog leave a key pending at level 2, and
the watchdog's stops admission; a stack or a block of the root die quiesces the device, and a trip, a
rail, a glitch or a lost root die halts it. -/
def Obligations.FaultEventsAct : Prop :=
  ∀ s : State,
    (∀ k : PCore, notPending s 1 (dieOf k) → ∃ t, exec (.logic k) s = .next t ∧ k ∈ t.fenced) ∧
    (∀ d : Die, notPending s 1 0xFFFF → ∃ t, exec (.dieFence d) s = .next t ∧ d ∈ t.diesOut ∧
      (d ∉ s.diesOut → ∀ j : Fin 16, mapped t (16 * d.val + j.val) = false)) ∧
    (∀ (m : Fin 12) (pc : Fin 64), notPending s 3 (0x10 + m.val) → (retirePc s m pc).isSome = true →
      ∃ t, exec (.pcretire m pc) s = .next t ∧ ∃ r ∈ t.retired, r.pc = m.val * 64 + pc.val) ∧
    (∀ (m : W128) (c : Nat), mLevel m.toNat = 0 → bit m.toNat 80 = false → errPc s m.toNat = some c → tripsPc s m.toNat = true →
      notPending s 3 (0x10 + c / 64) → (retirePc s (c / 64) (c % 64)).isSome = true →
      ∃ t, exec (.faultMessage m) s = .next t ∧ ∃ r ∈ t.retired, r.pc = c) ∧
    (∀ (m : Fin 12) (pc : Fin 64), ∃ t, exec (.pcCopyDone m pc) s = .next t ∧ (∀ r ∈ t.retired, r.pc = m.val * 64 + pc.val → r.done = true) ∧
      t.retired.length = s.retired.length ∧ t.pages = s.pages ∧ t.regs = s.regs ∧ sameMemory s t) ∧
    (∀ (c : Instr) (m : Fin 12) (u : BitVec 11), c = .stackfail m ∨ c = .rootblock u →
      ∃ t, exec c s = .next t ∧ devQuiesced t = true ∧ (devQuiesced s = false → nothingRuns t ∧ t.plinth.svc = .recovery)) ∧
    (∀ (c : Instr) (l : Fin 4) (cls : Nat), (c = .ring l ∧ cls = 4 ∨ c = .fwWatchdog ∧ cls = 9) → notPending s cls 0xFFFF →
      ∃ t, exec c s = .next t ∧ (∃ k ∈ t.esc, k.cls = cls ∧ k.scope = 0xFFFF ∧ k.level = 2) ∧ t.led = s.led ∧ sameMemory s t ∧
        (c = .fwWatchdog → ∀ i r, mayAdmit t i r = false)) ∧
    (∀ (c : Instr) (die : BitVec 5) (x : BitVec 48), c = .thermtrip die x ∨ c = .rail x ∨ c = .glitch x ∨
        (c = .heartbeatMiss ∧ s.plinth.up = true ∧ s.plinth.away = none) →
      ∃ t, exec c s = .next t ∧ t.halted = true ∧ t.rails = false ∧ t.dev = [] ∧ (∀ p : Port, fbit t (Reg.fbPortctl p) 31 = false) ∧
        (c = .glitch x → (∀ k, (keyEnt t k).key = 0#256) ∧ fbit t Reg.ksStatus 29 = true) ∧ (c = .heartbeatMiss → t.barUp = false)) ∧
    (∀ (die : BitVec 5) (x : BitVec 48), ∃ t, exec (.thermwarn die x) s = .next t ∧ (∀ d ∈ hotDies die.toNat, d ∈ t.clkHot) ∧ t.alertN = false ∧
      t.led = s.led ∧ sameMemory s t)

/-- R381, R385 to R390, R392, R396: a sample moves the limiter and shows the power and the cap; a clock steps by 25 MHz within
its ceiling; idle cores pass to Doze and Nap, a die to Nap, and a transfer wakes them. -/
def Obligations.PowerAndClocks : Prop :=
  ∀ s : State,
    (∀ input avg : W16, s.pwrWarnN = true → ∃ t, exec (.powerSample input avg) s = .next t ∧ t.pw = limit s input.toNat avg.toNat ∧
      fget t Reg.pwStat 15 0 = avg.toNat ∧ fbit t Reg.pwStat 31 = (t.pw.c16 || t.pw.c24) ∧
      fget t Reg.pwStat 30 25 = (if t.pw.c16 then 16 else if t.pw.c24 then 24 else 32) ∧ sameMemory s t ∧ ∀ o, o ≠ Reg.pwStat → rd t o = rd s o) ∧
    (∀ d : Die,
      let cur := fget s (Reg.ckDie d) 31 16
      let top := min 1400 (fget s (Reg.ckDie d) 15 0)
      (s.pw.tdp = false → s.pw.c24 = false → cur + 25 ≤ top → ∃ t, exec (.clockStep d true) s = .next t ∧ fget t (Reg.ckDie d) 31 16 = cur + 25 ∧
        d.val ∉ t.clkHot ∧ regsBut s t [Reg.ckDie d] ∧ sameMemory s t) ∧
      (s.pw.tdp = true ∨ s.pw.c24 = true ∨ d.val ∈ s.clkHot ∨ top < cur → 625 ≤ cur →
        ∃ t, exec (.clockStep d false) s = .next t ∧ fget t (Reg.ckDie d) 31 16 = cur - 25 ∧ regsBut s t [Reg.ckDie d] ∧ sameMemory s t)) ∧
    (∀ (k : PCore) (n : Nat), (s.core k).power = .active → (s.core k).item = none → fget s Reg.pwIdle 15 0 ≤ n →
      ∃ t, exec (.dozeEntry k n) s = .next t ∧ t.core k = { s.core k with power := .doze } ∧ onlyCore s t k ∧ regsBut s t []) ∧
    (∀ (k : PCore) (us : Nat), (s.core k).power = .doze → fget s Reg.pwIdle 31 16 ≤ us → expecting s k = false →
      ∃ t, exec (.napEntry k us false) s = .next t ∧ t.core k = { s.core k with power := .nap } ∧ (∀ j, j ≠ k.val → t.core j = s.core j) ∧
        Tab.get [] t.trFifo k = [] ∧ sameMemory s t) ∧
    (∀ (d : Die) (us : Nat), (∀ c, c < 18 → (s.core (18 * d.val + c)).power = .nap) → fget s Reg.pwIdle 31 16 ≤ us → d ∉ s.dieNap → d ∉ s.diesOut →
      ∃ t, exec (.dieNap d us) s = .next t ∧ t.dieNap = s.dieNap ++ [d] ∧ t.cores = s.cores ∧ regsBut s t [] ∧ sameMemory s t) ∧
    (∀ (d : Die) (c : Fin 18), s.rails = true → ∃ t, exec (.wake d (some c)) s = .next t ∧ d ∉ t.dieNap ∧
      (t.core (18 * d.val + c.val)).power ≠ .doze ∧ (t.core (18 * d.val + c.val)).power ≠ .nap ∧
      (∀ j, j ≠ 18 * d.val + c.val → t.core j = s.core j) ∧ regsBut s t [] ∧ sameMemory s t)

/-- R13, R266, R406: a device reset, through the PF's FLR or PERST#, leaves every register but the journal's two at its reset value,
every table of the device empty and the Plinth's own state; host memory and the timebase stay.
R324, R325, R352, R403, R408 to R412: the steps of start-up set the bits and times of GL_STATUS and GL_TIMES; a bad core is fenced, a bad stack
ends start-up; with every step done the device is READY; the Plinth selects its journal slot; a falling input stops everything. -/
def Obligations.ResetsAndStartUp : Prop :=
  (∀ (s : State) (c : Instr), c = .flrPf ∨ c = .perstAssert →
     ∃ t, exec c s = .next t ∧ (∀ off, off ≠ Reg.ksStatus → off ≠ Reg.ksJgen → rd t off = rd State.reset off) ∧
       nothingRuns t ∧ t.ops = [] ∧ t.elig = [] ∧ t.rings = [] ∧ t.ktab = [] ∧ t.ikeys = [] ∧ t.descs = [] ∧ t.pages = [] ∧ t.esc = [] ∧ t.dev = [] ∧
       t.host = s.host ∧ t.time = s.time ∧ t.barUp = false ∧ t.halted = false ∧ t.plinth.log = s.plinth.log ∧ t.plinth.sessions = s.plinth.sessions ∧
       t.plinth.jsel = s.plinth.jsel ∧ (s.plinth.up = true → t.plinth.svc = .startup) ∧ (c = .perstAssert → t.perstN = false)) ∧
  (∀ s : State,
     (∀ (ms : W32) (cs : List PCore) (ds : List Die), s.modPwrgd = true → s.barUp = false → s.halted = false →
       ∃ t, exec (.perstRelease ms cs ds) s = .next t ∧ t.perstN = true ∧ t.barUp = true ∧ fget t Reg.glTimes 31 0 = ms.toNat ∧
         fget t Reg.glStatus 14 13 = 3 ∧ (∀ k ∈ cs, k ∈ t.fenced) ∧ (∀ d ∈ ds, d ∈ t.diesOut)) ∧
     (∀ (pcs : List (Fin 12 × Fin 64)) (ms : List (Fin 12)), s.barUp = true → s.halted = false → memDone s = false →
       (ms = [] → ∃ t, exec (.memdone pcs ms) s = .next t ∧ memDone t = true ∧ fget t Reg.glStatus 11 0 = 0xFFF ∧ t.dev = [] ∧ t.host = s.host ∧
         t.heldBase = [] ∧ (s.portWait = [] → fbit t Reg.glStatus 12 = true)) ∧
       (ms ≠ [] → ∃ t, exec (.memdone pcs ms) s = .next t ∧ fbit t Reg.glStatus 30 = true ∧ devQuiesced t = true)) ∧
     (∀ ms : W32, fget s Reg.glStatus 15 12 = 15 → fbit s Reg.glStatus 30 = false → s.plinth.svc = .startup → devQuiesced s = false →
       ∃ t, exec (.ready ms) s = .next t ∧ fbit t Reg.glStatus 31 = true ∧ fget t Reg.glTimes 63 32 = ms.toNat ∧ t.plinth.svc = .normal ∧
         sameMemory s t ∧ ∀ o, o ≠ Reg.glStatus → o ≠ Reg.glTimes → rd t o = rd s o) ∧
     (∀ (stby v54 inlet b : Bool), (stby || v54) = true → s.plinth.up = false → selectSlot s.plinth = some b →
       ∃ t, exec (.plinthBoot stby v54 inlet) s = .next t ∧ t.plinth.up = true ∧ t.plinth.jsel = some b ∧ fbit t Reg.ksStatus 31 = true ∧
         fbit t Reg.ksStatus 30 = b ∧ rd t Reg.ksJgen = (s.plinth.slot b).gen.toNat ∧ sameMemory s t ∧
         (v54 = true → inlet = true → s.halted = false → t.rails = true ∧ t.modPwrgd = true) ∧ (v54 = false ∨ inlet = false → t.rails = s.rails)) ∧
     (∀ c : Instr, c = .pwrWarn ∨ c = .undervoltage → s.pwrWarnN = true →
       ∃ t, exec c s = .next t ∧ t.pwrWarnN = false ∧ t.barUp = false ∧ nothingRuns t ∧ t.rails = false ∧ t.modPwrgd = false ∧ t.dev = [] ∧ t.host = s.host ∧
         t.plinth.logTail = s.plinth.log.drop (s.plinth.log.length - 4096)) ∧
     (∀ us : Nat, 2000 < us → ∃ t, exec (.plinthRailLoss us) s = .next t ∧ t.time = 0#64 ∧ nothingRuns t ∧ t.regs = [] ∧ t.dev = [] ∧ t.ktab = [] ∧
       t.host = s.host ∧ t.plinth.up = false ∧ t.plinth.jslot0 = s.plinth.jslot0 ∧ t.plinth.jslot1 = s.plinth.jslot1 ∧
       t.plinth.anchors = s.plinth.anchors ∧ t.plinth.img = s.plinth.img))

/-! ### The Plinth -/

/-- R338, R360 to R363, R367, R368: a client that passes the checks gets the lowest free session with its anchor's role; each report of
Ecneuz answers OK with its payload; I3C and the Armature port answer as they are asked. -/
def Obligations.PlinthReports : Prop :=
  ∀ (s : State) (h : EcHdr) (x : Session),
    (∀ (c : TlsHello) (k : Nat), clientOk s c = true → [0, 1, 2, 3].find? (fun k => (Tab.find s.plinth.sessions k).isNone) = some k →
      ∃ t, exec (.armatureConnect c) s = .next t ∧
        Tab.find t.plinth.sessions k = some { role := if c.anchor = some 0 then Role.control else Role.observe } ∧ t.out = s.out ∧ t.regs = s.regs ∧ sameMemory s t) ∧
    (∀ c : TlsHello, clientOk s c = false → exec (.armatureConnect c) s = .next (s.emit (.ecClose 4))) ∧
    (ecReady s h x 0x01 0 false true → ∃ bs, exec (.ident h) s = .next (respond s h 0x01 0 bs) ∧ bs.length = 59 ∧ bs.take 7 = ascii "MDN-T25") ∧
    (ecReady s h x 0x02 32 false true → ∀ nonce, ∃ bs, bs = (List.range 5).flatMap (fun k => (measurement s (k + 1)).getD []) ∧
      exec (.attest h nonce) s = .next (respond s h 0x02 0 (bs ++ Config.sign Config.identityKey (leBytes 32 nonce.toNat ++ bs)))) ∧
    (ecReady s h x 0x03 0 false true → exec (.certs h) s = .next (respond s h 0x03 0 (Config.measure 0 ++ Config.measure 6))) ∧
    (ecReady s h x 0x10 6 false true → ∀ (first : W32) (count : W16), count.toNat ≤ 4096 → s.plinth.logBase ≤ first.toNat →
      ∃ bs, exec (.logread h first count) s = .next (respond s h 0x10 0 bs) ∧
        bs.length = 16 * min count.toNat (s.plinth.log.length - (first.toNat - s.plinth.logBase)) ∧
        (sealed s = false → bs = ((s.plinth.log.drop (first.toNat - s.plinth.logBase)).take count.toNat).flatMap fun m => leBytes 16 m.toNat)) ∧
    (ecReady s h x 0x11 4 false true → ∀ mask : W32, exec (.telem h mask) s =
      .next (respond s h 0x11 0 ((s.plinth.sensors.filter fun y => bit mask.toNat y.group.toNat).flatMap sensorRec))) ∧
    (ecReady s h x 0x12 3 false false → ∀ (level : Byte) (iv : W16), ∃ t, exec (.subscribe h level iv) s = .next (respond t h 0x12 0 []) ∧
      Tab.find t.plinth.sessions h.sess = some { x with level := level.toNat, interval := iv.toNat } ∧ t.regs = s.regs ∧ t.out = s.out ∧ sameMemory s t) ∧
    (plinthOn s = true → ∀ (k : Fin 4) (l : List Sensor), Tab.find s.plinth.sessions k = some x → x.interval ≠ 0 →
      ∃ t, exec (.telemetryEvent k l) s = .next t ∧ t.plinth.sensors = l ∧ t.out = s.out ++ [.ecEvent k 0x11 x.evSeq (l.flatMap sensorRec)] ∧
        Tab.find t.plinth.sessions k = some { x with evSeq := x.evSeq + 1 } ∧ t.regs = s.regs ∧ sameMemory s t) ∧
    (ecReady s h x 0x63 2 false true → ∀ (n : W16) (p : Proc), s.plinth.procs.find? (fun p => p.num == n.toNat) = some p →
      exec (.procstat h n) s = .next (respond s h 0x63 0 (procPayload s p))) ∧
    (plinthOn s = true →
      exec (.mctpRequest .pldmServiceState) s = .next (s.emit (.mctp [1#8, 0x21#8, 0#8, BitVec.ofNat 8 (Svc.code s.plinth.svc)])) ∧
      exec (.mctpRequest .pldmFirmwareUpdate) s = .next (s.emit (.mctp [1#8, 0x01#8, 5#8])) ∧
      (∀ data, exec (.neighbourDiscovery (.echoRequest data)) s = .next (s.emit (.net (129#8 :: data)))) ∧
      (∀ (slot : Byte) (cert : List Byte), slot.toNat < 2 → Tab.find s.plinth.anchors slot.toNat = none → cert ≠ [] →
        ∃ t, exec (.pldmAnchorInstall slot cert) s = .next t ∧ Tab.find t.plinth.anchors slot.toNat = some cert ∧ t.regs = s.regs ∧ sameMemory s t))

/-- R288, R329, R339, R353 to R355, R366: a session that may give them has INSTRESET, QUIESCE, HALT, RAILCUT, ZEROISE, DEVRESET, FAULTACK of a pending
key and SVCSTATE answered OK, and what each leaves; SVCSTATE to normal is refused while a deep fault is pending. -/
def Obligations.PlinthControls : Prop :=
  ∀ (s : State) (h : EcHdr) (x : Session),
    (ecReady s h x 0x20 1 true true → ∀ (i : Inst) (b : Byte) (late : Bool), b.toNat = i.val → ∃ t, exec (.instreset h b late) s = .next (respond t h 0x20 0 []) ∧
      (∀ o ∈ t.ops, o.inst ≠ i) ∧ (∀ e ∈ t.led, e.2.inst ≠ i) ∧ (∀ r : RingId, t.ring i r = {}) ∧ fbit t (Reg.qmInststat i) 2 = true ∧ sameMemory s t) ∧
    (ecReady s h x 0x21 0 true true → ∃ t, exec (.quiesce h) s = .next (respond t h 0x21 0 []) ∧ devQuiesced t = true ∧
      (devQuiesced s = false → nothingRuns t ∧ t.plinth.svc = .recovery) ∧ sameMemory s t) ∧
    (ecReady s h x 0x22 0 true true → ∃ t, exec (.halt h) s = .next (respond t h 0x22 0 []) ∧ t.halted = true ∧ t.rails = false ∧ t.dev = [] ∧
      t.host = s.host ∧ ∀ p : Port, fbit t (Reg.fbPortctl p) 31 = false) ∧
    (ecReady s h x 0x23 0 true true → ∃ t, exec (.railcut h) s = .next (respond t h 0x23 0 []) ∧ t.rails = false ∧ t.cores = [] ∧ nothingRuns t ∧
      t.plinth.svc = .recovery ∧ sameMemory s t) ∧
    (ecReady s h x 0x24 0 true true → ∃ t, exec (.zeroise h) s = .next (respond t h 0x24 0 []) ∧ (∀ k, (keyEnt t k).key = 0#256) ∧ t.kcache = [] ∧
      t.sysKey = 0#256 ∧ t.tableKey = 0#256 ∧ fbit t Reg.ksStatus 29 = true ∧ t.plinth.svc = .recovery) ∧
    (ecReady s h x 0x25 0 true false → exec (.devreset h) s = .next (respond (deviceReset s) h 0x25 0 [])) ∧
    (ecReady s h x 0x26 3 true false → ∀ (c : Byte) (sc : W16) (k : EscKey), c.toNat < 16 → s.esc.find? (keyEq c.toNat sc.toNat) = some k → 3 ≤ k.level →
      ∃ t, exec (.faultack h c sc) s = .next (respond t h 0x26 0 []) ∧ notPending t c.toNat sc.toNat ∧ t.led = s.led ∧ t.regs = s.regs ∧ sameMemory s t) ∧
    (ecReady s h x 0x30 1 true false →
      (∃ t, exec (.svcstate h 3#8) s = .next (respond t h 0x30 0 []) ∧ t = { s with plinth := { s.plinth with svc := .recovery } }) ∧
      (s.plinth.svc = .normal → ∃ t, exec (.svcstate h 2#8) s = .next (respond t h 0x30 0 []) ∧ t = { s with plinth := { s.plinth with svc := .test } }) ∧
      (s.plinth.svc = .test ∨ s.plinth.svc = .recovery ∧ deepPending s = false →
        ∃ t, exec (.svcstate h 1#8) s = .next (respond t h 0x30 0 []) ∧ t = { s with plinth := { s.plinth with svc := .normal } }) ∧
      (s.plinth.svc = .recovery → deepPending s = true → exec (.svcstate h 1#8) s = .next (respond s h 0x30 3 [])))

/-- R326, R361, R369 to R379: an image is written into the standby slot and activated by a numbered procedure; the journal, an association and an anchor are
replaced; recalibration, equalisation and core replacement start their procedures; a handover that times out is ABANDONED; the
Plinth leaves with its sessions closed and returns on the new image. -/
def Obligations.PlinthProcedures : Prop :=
  ∀ (s : State) (h : EcHdr) (x : Session),
    let n := s.plinth.procNum + 1
    (ecReady s h x 0x42 1 true false → ∀ (mode : Byte) (b : Bool), mode.toNat < 2 → s.plinth.jsel = some b →
      ∃ t, exec (.jrnlupd h mode true) s = .next (respond t h 0x42 0 []) ∧ t.plinth.jsel = some (!b) ∧ t.plinth.slot b = s.plinth.slot b ∧
        (t.plinth.slot (!b)).valid = true ∧ (t.plinth.slot (!b)).gen = (s.plinth.slot b).gen + 1#32 ∧
        (mode = 0#8 → (t.plinth.slot (!b)).sealKey = (s.plinth.slot b).sealKey) ∧ rd t Reg.ksJgen = ((s.plinth.slot b).gen + 1#32).toNat ∧ sameMemory s t) ∧
    (∀ (tg : Byte) (off : W32) (data : List Byte), ecReady s h x 0x40 (5 + data.length) true false → tg.toNat < 4 → data.length ≤ 65528 →
      off.toNat + data.length ≤ slotBytes tg.toNat → imageBusy s = false →
      ∃ t, exec (.imgwrite h tg off data) s = .next (respond t h 0x40 0 []) ∧
        Memory.read (imgAt t tg.toNat (1 - activeSlot s tg.toNat)).bytes off.toNat data.length = data ∧
        imgAt t tg.toNat (activeSlot s tg.toNat) = imgAt s tg.toNat (activeSlot s tg.toNat) ∧ t.plinth.active = s.plinth.active ∧ t.regs = s.regs ∧ sameMemory s t) ∧
    (∀ (tg fl : Byte), ecReady s h x 0x41 2 true false → tg.toNat < 4 → fl.toNat < 2 → imageBusy s = false → stagedOk s tg.toNat = true →
      ∃ t, exec (.imgact h tg fl) s = .next (respond t h 0x41 0 (leBytes 2 n)) ∧ t.plinth.procNum = n ∧ sameMemory s t ∧
        ∃ p ∈ t.plinth.procs, p.num = n ∧ p.kind = 0 ∧ p.res = tg.toNat ∧ p.st = .running ∧ p.step = 0 ∧ p.arg = fl.toNat) ∧
    (ecReady s h x 0x50 68 true false → ∀ a : MacsecSa, a.rail.toNat < 6 → a.dir.toNat < 2 → a.an.toNat < 4 → a.active.toNat < 2 →
      ∃ t, exec (.macsec h a) s = .next (respond t h 0x50 0 []) ∧
        Tab.find t.plinth.macsec (saKey a.rail.toNat (a.dir == 1#8) a.an.toNat a.sci) = some (a.sci, a.pn, a.sak, a.active == 1#8) ∧ t.regs = s.regs ∧ sameMemory s t) ∧
    (∀ (slot : Byte) (cert : List Byte), ecReady s h x 0x51 (1 + cert.length) true false → slot.toNat < 2 → cert ≠ [] →
      ∃ t, exec (.anchor h slot cert) s = .next (respond t h 0x51 0 []) ∧ Tab.find t.plinth.anchors slot.toNat = some cert ∧ t.regs = s.regs ∧ sameMemory s t) ∧
    (ecReady s h x 0x60 3 true false → ∀ m c : Byte, m.toNat < 12 → c.toNat < 64 → procBusy s 1 (fun r => r / 64 == m.toNat) = false →
      (∀ r ∈ s.retired, r.pc ≠ m.toNat * 64 + c.toNat) →
      (∃ t, exec (.pctrain h m c 0#8) s = .next (respond t h 0x60 0 (leBytes 2 n)) ∧ t.pages = s.pages ∧ t.regs = s.regs ∧ sameMemory s t ∧
        ∃ p ∈ t.plinth.procs, p.num = n ∧ p.kind = 1 ∧ p.res = m.toNat * 64 + c.toNat ∧ p.st = .running ∧ p.finish = after s 20000) ∧
      (∀ u, retirePc s m.toNat c.toNat = some u → ∃ t, exec (.pctrain h m c 1#8) s = .next (respond t h 0x60 0 (leBytes 2 n)) ∧ t.pages = u.pages ∧
        t.retired = u.retired ∧ sameMemory s t ∧ ∃ p ∈ t.plinth.procs, p.num = n ∧ p.kind = 1 ∧ p.st = .running ∧ p.arg = 1)) ∧
    (ecReady s h x 0x61 2 true false → ∀ p l : Byte, p.toNat < 18 → l.toNat < 4 → procBusy s 2 (· == p.toNat) = false → portUp s p.toNat = true →
      ∃ t, exec (.laneeq h p l) s = .next (respond t h 0x61 0 (leBytes 2 n)) ∧ sameMemory s t ∧
        ∃ q ∈ t.plinth.procs, q.num = n ∧ q.kind = 2 ∧ q.res = p.toNat ∧ q.st = .running ∧ q.finish = after s 5000000) ∧
    (ecReady s h x 0x62 2 true false → ∀ k fl : Byte, k.toNat < 144 → fl.toNat < 2 → procBusy s 3 (fun r => r / 18 == k.toNat / 18) = false →
      (∀ f ∈ s.fenced, f.val ≠ k.toNat) → (fl = 1#8 ∨ spareLeft s k.toNat = true) →
      ∃ t, exec (.corerepl h k fl) s = .next (respond t h 0x62 0 (leBytes 2 n)) ∧ t.fenced = s.fenced ∧ replacing t k.toNat = true ∧ sameMemory s t) ∧
    (∃ t, exec .handoverTimeout s = .next t ∧ sameMemory s t ∧ t.regs = s.regs ∧
      ∀ p ∈ t.plinth.procs, p.kind = 0 → p.res = 1 → p.st ≠ .running ∧ p.st ≠ .queued) ∧
    (∀ p, s.plinth.procs.find? (fun p => p.kind == 0 && p.res == 0 && p.st == .running) = some p →
      (s.plinth.away = none → ∃ t, exec .plinthReboot s = .next t ∧ t.plinth.away = some (fget s Reg.fcStatus 31 0) ∧ t.plinth.sessions = [] ∧
        t.regs = s.regs ∧ sameMemory s t) ∧
      (s.plinth.away.isSome = true → ∃ t, exec .plinthReboot s = .next t ∧ t.plinth.away = none ∧ activeSlot t 0 = 1 - activeSlot s 0 ∧
        t.plinth.jsel = selectSlot s.plinth ∧ t.regs = s.regs ∧ sameMemory s t))

/-! ### Rules of the whole machine -/

/-- R229: a packet for another rack takes rail (b + i) mod 6 on route i, or the first rail after it in that order that is up, and none where all
six are down. Every shard of a tile first leaves on route 0, also one held since its tile was ready, and each resend, of a shard, of a tile or at the install of an
epoch, takes the next route index mod 4. -/
def Obligations.RailRoutes : Prop :=
  (∀ (s : State) (src dst i : Nat), sameRack (modId s) dst = false → i < 4 →
     let b := (src + dst) % 6
     let rail := fun (k : Nat) => 12 + (b + i + k) % 6
     (∀ k, k < 6 → portUp s (rail k) = true → (∀ j, j < k → portUp s (rail j) = false) → portFor s src dst i = some (rail k)) ∧
     ((∀ k, k < 6 → portUp s (12 + k) = false) → portFor s src dst i = none)) ∧
  (∀ (s : State) (x : Sent), (x.dkind = 1 ∨ x.dkind = 3) → heldTile s x = false →
     let n := ceilDiv x.msg.data.length 8192
     let y := { x with shards := List.replicate n { last := s.time }, time := s.time, waits := false, refused := none }
     transmit s x = (List.range n).foldl (fun t sh => sendShard t y sh 0 false) (setSent s y)) ∧
  (∀ (s : State) (x : Sent) (i : Nat) (h : Shard), x.shards[i]? = some h → heldTile s x = false → h.attempts < 3 →
     ∃ y, y.shards[i]? = some { attempts := h.attempts + 1, route := (h.route + 1) % 4, last := s.time } ∧
       attemptShard s x i = sendShard (finc (setSent s y) Reg.fbRetry 63 32 1) y i ((h.route + 1) % 4) true) ∧
  (∀ (s : State) (x : Sent), x.retries s = true → (x.dkind = 1 ∨ x.dkind = 3) → heldTile s x = false →
     ∃ y : Sent, y.shards = x.shards.map (fun h => { h with route := (h.route + 1) % 4, last := s.time }) ∧
       resendTile s x = y.shards.zipIdx.foldl (fun t h => sendShard t y h.2 h.1.route true) (finc (setSent s y) Reg.fbRetry 63 32 x.shards.length)) ∧
  (∀ (s : State) (began : W64) (x : Sent), x.waits = false →
     ∃ (y : Sent) (n : Nat), y.shards = x.shards.map (fun h => { h with route := if h.started then (h.route + 1) % 4 else 0, last := s.time, started := true }) ∧
       restamp began s x = (x.shards.zip y.shards).zipIdx.foldl (fun t h => sendShard t y h.2 h.1.2.route h.1.1.started) (finc (setSent s y) Reg.fbRetry 63 32 n))

/-- R48: a block scale with E below 31 is exactly (1 + f/8) 2^(E-15), or f/8 2^-14 where E is 0, and E = 31 decodes as NaN; 0x78 is 1, 0xF7 the largest,
61,440, and 0x01 the smallest that is not zero, 2^-17. Values are stated times 2^17, which makes every one a whole number. -/
def Obligations.BlockScaleDecodes : Prop :=
  ∀ c : Byte,
    let e := bits c.toNat 7 3
    let f := bits c.toNat 2 0
    (e = 31 → decBlockScale c = .nan) ∧
    (e ≠ 31 → ∃ (m : Nat) (x : Int) (v : Nat), decBlockScale c = .fin false m x ∧ -17 ≤ x ∧ v = m * 2 ^ (x + 17).toNat ∧
      v = (if e = 0 then f else (8 + f) * 2 ^ (e - 1)) ∧ v ≤ 61440 * 2 ^ 17 ∧ (c ≠ 0#8 → 1 ≤ v) ∧ (c = 0#8 → v = 0) ∧
      (c = 0x78#8 → v = 2 ^ 17) ∧ (c = 0xF7#8 → v = 61440 * 2 ^ 17) ∧ (c = 0x01#8 → v = 1))

/-- R49: a finite group scale decodes as its FP16 value, whatever its sign and size; an infinity or a NaN decodes as NaN. -/
def Obligations.GroupScaleDecodes : Prop :=
  ∀ x : W16, ((dec16 x).isFinite = true → decGroupScale x = dec16 x) ∧ ((dec16 x).isFinite = false → decGroupScale x = .nan)

/-- R11: in sealed mode a register write of any function, at any offset and of any size, completes and leaves every LCK field of every register; where all
fields of the PF's register written are LCK, it changes no register, no memory and drives nothing. -/
def Obligations.LockedFieldsHoldWhenSealed : Prop :=
  ∀ (s : State) (fn : Fn) (off size : Nat) (v : W64), sealed s = true →
    ∃ t, exec (.registerWrite fn off size v) s = .next t ∧
      (∀ o r f, regRow o = some r → f ∈ r.1.flds → f.acc = .lck → fget t o f.hi f.lo = fget s o f.hi f.lo) ∧
      (∀ r, regRow off = some r → fn.val = 0 → (∀ f ∈ r.1.flds, f.acc = .lck) → (∀ o, rd t o = rd s o) ∧ sameMemory s t ∧ t.out = s.out)

/-- R329: whatever command runs, sealed mode ends only by a device reset, after which no key of a tenant exists, or once every bound instance has been
removed where the sealing tenant's UNSEAL or a zeroise has begun its end. -/
def Obligations.SealedModeEnds : Prop :=
  ∀ (c : Instr) (s t : State), sealed s = true → exec c s = .next t → sealed t = false →
    ((c = .flrPf ∨ c = .perstAssert ∨ (∃ h, c = .devreset h) ∨ (∃ us, c = .plinthRailLoss us)) ∧ t.ktab = [] ∧ t.ikeys = []) ∨
    ((s.unsealing = true ∨ (∃ fn m, c = .unseal fn m ∧ sessionCert s fn m.sess = some s.sealCert) ∨ (∃ h, c = .zeroise h)) ∧
      ∀ i : Inst, bit (fget s Reg.isSealctl 15 0) i = true → fget t (Reg.isRemove i) 29 28 = 3)

/-- R70, R71: the tile command that a command word spells is one of the table's, an opcode outside R71's table spells the command that rejects it, and every
well-formed tile command is what its own opcode before its operand bits spells; a drain's and a chain's word carry no array error. -/
def Obligations.CommandWordsDecode : Prop :=
  ∀ (k : PCore) (w : W128), WellFormed (tileCommand k w) = true ∧
    (WellFormed.opcodes.contains (bits w.toNat 127 120) = false → tileCommand k w = .opcodeNotInTable k w) ∧
    ∀ (n : Byte) (b : BitVec 120) (i : Instr), w = n ++ b → WellFormed i = true →
      (n, i) ∈ [(0x01#8, .tld k b), (0x01#8, .tldAccld k b), (0x02#8, .tst k b), (0x03#8, .tcp k b), (0x10#8, .mmz k b), (0x11#8, .mma k b),
        (0x12#8, .mmw k b), (0x13#8, .mmq k b), (0x20#8, .pro k b), (0x21#8, .epi k b false), (0x22#8, .chn k b none), (0x23#8, .segLoad k b),
        (0x23#8, .segSelect k b), (0x23#8, .segClear k b), (0x30#8, .sndSend k b), (0x30#8, .sndAttach k b), (0x30#8, .sndDetach k b),
        (0x31#8, .rcvPlace k b), (0x31#8, .rcvCombine k b), (0x40#8, .synWait k b), (0x40#8, .synSignal k b), (0x41#8, .nrm k b), (0x50#8, .upd k b),
        (0xF0#8, .trp k b), (0xFF#8, .endItem k b)] →
      tileCommand k w = i
end

