-- ==== Sys2Proof/Laws/Tab.lean ====
section
/-! SUPPORT. Laws of sparse tables and byte memories: what a read after a write gives, and that every operation keeps the
canonical form. -/

namespace Sys2Proof.Machine

variable {α : Type}

/-! ### Tables -/

@[simp] theorem Tab.find_insert_self (t : Tab α) (k : Nat) (v : α) : Tab.find (Tab.insert t k v) k = some v := by
  induction t with
  | nil => simp [Tab.insert, Tab.find]
  | cons x xs ih =>
    obtain ⟨a, b⟩ := x
    unfold Tab.insert
    split_ifs with h1 h2
    · simp [Tab.find]
    · simp [Tab.find]
    · have : a ≠ k := fun h => h2 h.symm
      simp [Tab.find, this, ih]

theorem Tab.find_insert_other (t : Tab α) {k j : Nat} (v : α) (h : j ≠ k) :
    Tab.find (Tab.insert t k v) j = Tab.find t j := by
  induction t with
  | nil => simp [Tab.insert, Tab.find, h.symm]
  | cons x xs ih =>
    obtain ⟨a, b⟩ := x
    unfold Tab.insert
    split_ifs with h1 h2
    · simp [Tab.find, h.symm]
    · subst h2; simp [Tab.find, h.symm]
    · simp only [Tab.find]; rw [ih]

@[simp] theorem Tab.find_erase_self (t : Tab α) (k : Nat) : Tab.find (Tab.erase t k) k = none := by
  induction t with
  | nil => rfl
  | cons x xs ih =>
    obtain ⟨a, b⟩ := x
    unfold Tab.erase
    split_ifs with h
    · exact ih
    · simp [Tab.find, h, ih]

theorem Tab.find_erase_other (t : Tab α) {k j : Nat} (h : j ≠ k) : Tab.find (Tab.erase t k) j = Tab.find t j := by
  induction t with
  | nil => rfl
  | cons x xs ih =>
    obtain ⟨a, b⟩ := x
    unfold Tab.erase
    split_ifs with h1
    · subst h1; simp [Tab.find, h.symm, ih]
    · simp [Tab.find, ih]

@[simp] theorem Tab.get_nil (d : α) (k : Nat) : Tab.get d [] k = d := rfl

@[simp] theorem Tab.get_insert_self (d : α) (t : Tab α) (k : Nat) (v : α) : Tab.get d (Tab.insert t k v) k = v := by
  simp [Tab.get]

theorem Tab.get_insert_other (d : α) (t : Tab α) {k j : Nat} (v : α) (h : j ≠ k) :
    Tab.get d (Tab.insert t k v) j = Tab.get d t j := by
  simp [Tab.get, Tab.find_insert_other t v h]

@[simp] theorem Tab.get_put_self [DecidableEq α] (d : α) (t : Tab α) (k : Nat) (v : α) :
    Tab.get d (Tab.put d t k v) k = v := by
  unfold Tab.put
  split_ifs with h
  · simp [Tab.get, h]
  · simp

theorem Tab.get_put_other [DecidableEq α] (d : α) (t : Tab α) {k j : Nat} (v : α) (h : j ≠ k) :
    Tab.get d (Tab.put d t k v) j = Tab.get d t j := by
  unfold Tab.put
  split_ifs
  · simp [Tab.get, Tab.find_erase_other t h]
  · exact Tab.get_insert_other d t v h

@[simp] theorem Tab.get_upd_self [DecidableEq α] (d : α) (t : Tab α) (k : Nat) (f : α → α) :
    Tab.get d (Tab.upd d t k f) k = f (Tab.get d t k) := by
  simp [Tab.upd]

theorem Tab.get_upd_other [DecidableEq α] (d : α) (t : Tab α) {k j : Nat} (f : α → α) (h : j ≠ k) :
    Tab.get d (Tab.upd d t k f) j = Tab.get d t j :=
  Tab.get_put_other d t _ h

/-! ### Keys that rise -/

theorem Tab.risingFrom_mono {lo lo' : Nat} (h : lo' ≤ lo) {t : Tab α} (ht : Tab.risingFrom lo t = true) :
    Tab.risingFrom lo' t = true := by
  cases t with
  | nil => rfl
  | cons x xs =>
    obtain ⟨a, b⟩ := x
    simp only [Tab.risingFrom, Bool.and_eq_true, decide_eq_true_eq] at ht ⊢
    exact ⟨by omega, ht.2⟩

theorem Tab.risingFrom_insert {k : Nat} (v : α) : ∀ {t : Tab α} {lo : Nat}, lo ≤ k →
    Tab.risingFrom lo t = true → Tab.risingFrom lo (Tab.insert t k v) = true
  | [], lo, hk, _ => by simp [Tab.insert, Tab.risingFrom, hk]
  | (a, b) :: xs, lo, hk, ht => by
    simp only [Tab.risingFrom, Bool.and_eq_true, decide_eq_true_eq] at ht
    unfold Tab.insert
    split_ifs with h1 h2
    · simp only [Tab.risingFrom, Bool.and_eq_true, decide_eq_true_eq]
      exact ⟨hk, by omega, ht.2⟩
    · subst h2
      simp only [Tab.risingFrom, Bool.and_eq_true, decide_eq_true_eq]
      exact ht
    · simp only [Tab.risingFrom, Bool.and_eq_true, decide_eq_true_eq]
      exact ⟨ht.1, Tab.risingFrom_insert v (by omega) ht.2⟩

theorem Tab.risingFrom_erase (k : Nat) : ∀ {t : Tab α} {lo : Nat}, Tab.risingFrom lo t = true →
    Tab.risingFrom lo (Tab.erase t k) = true
  | [], _, _ => rfl
  | (a, b) :: xs, lo, ht => by
    simp only [Tab.risingFrom, Bool.and_eq_true, decide_eq_true_eq] at ht
    unfold Tab.erase
    split_ifs
    · exact Tab.risingFrom_mono (by omega) (Tab.risingFrom_erase k ht.2)
    · simp only [Tab.risingFrom, Bool.and_eq_true, decide_eq_true_eq]
      exact ⟨ht.1, Tab.risingFrom_erase k ht.2⟩

theorem Tab.mem_insert {k : Nat} {v : α} {p : Nat × α} : ∀ {t : Tab α}, p ∈ Tab.insert t k v → p = (k, v) ∨ p ∈ t
  | [], h => by simpa [Tab.insert] using h
  | (a, b) :: xs, h => by
    unfold Tab.insert at h
    split_ifs at h
    · simpa using h
    · rcases List.mem_cons.mp h with h | h
      · exact .inl h
      · exact .inr (List.mem_cons_of_mem _ h)
    · rcases List.mem_cons.mp h with h | h
      · exact .inr (by simp [h])
      · rcases Tab.mem_insert h with h | h
        · exact .inl h
        · exact .inr (List.mem_cons_of_mem _ h)

theorem Tab.mem_erase {k : Nat} {p : Nat × α} : ∀ {t : Tab α}, p ∈ Tab.erase t k → p ∈ t
  | [], h => by simp [Tab.erase] at h
  | (a, b) :: xs, h => by
    unfold Tab.erase at h
    split_ifs at h
    · exact List.mem_cons_of_mem _ (Tab.mem_erase h)
    · rcases List.mem_cons.mp h with h | h
      · simp [h]
      · exact List.mem_cons_of_mem _ (Tab.mem_erase h)

/-- Writing keeps a table's canonical form. -/
theorem Tab.wf_put [DecidableEq α] {d : α} {t : Tab α} (k : Nat) (v : α) (h : Tab.wf d t = true) :
    Tab.wf d (Tab.put d t k v) = true := by
  simp only [Tab.wf, Bool.and_eq_true, List.all_eq_true, decide_eq_true_eq] at h ⊢
  unfold Tab.put
  split_ifs with hv
  · exact ⟨Tab.risingFrom_erase k h.1, fun p hp => h.2 p (Tab.mem_erase hp)⟩
  · refine ⟨Tab.risingFrom_insert v (Nat.zero_le k) h.1, fun p hp => ?_⟩
    rcases Tab.mem_insert hp with rfl | hp
    · exact hv
    · exact h.2 p hp

/-! ### Memories -/

theorem Tab.find_append (t u : Tab α) (k : Nat) : Tab.find (t ++ u) k = (Tab.find t k).or (Tab.find u k) := by
  induction t with
  | nil => simp [Tab.find]
  | cons x xs ih =>
    obtain ⟨a, b⟩ := x
    simp only [List.cons_append, Tab.find]
    split_ifs <;> simp [ih]

theorem Tab.find_filter (p : Nat → Bool) (t : Tab α) (k : Nat) :
    Tab.find (t.filter fun c => p c.1) k = if p k then Tab.find t k else none := by
  induction t with
  | nil => simp [Tab.find]
  | cons x xs ih =>
    obtain ⟨a, b⟩ := x
    by_cases hp : p a = true
    · simp only [List.filter_cons, hp, if_true, Tab.find]
      split_ifs with h1 h2 h2
      · rfl
      · subst h1; exact absurd hp h2
      · simp [ih, h2]
      · simp [ih, h2]
    · simp only [List.filter_cons, hp, Tab.find]
      by_cases h1 : a = k
      · subst h1; simp [ih, hp]
      · simp [h1, ih]

theorem Memory.find_cells (bs : List Byte) : ∀ (a k : Nat),
    (Tab.find (Memory.cells a bs) k).getD 0#8 = if a ≤ k then bs.getD (k - a) 0#8 else 0#8 := by
  induction bs with
  | nil => intro a k; simp [Memory.cells, Tab.find]
  | cons b bs ih =>
    intro a k
    unfold Memory.cells
    by_cases hb : b = 0#8
    · rw [if_pos hb, ih]
      by_cases h : a ≤ k
      · rcases Nat.lt_or_eq_of_le h with h | h
        · have e : k - a = (k - (a + 1)) + 1 := by omega
          rw [if_pos (by omega), if_pos (by omega), e, List.getD_cons_succ]
        · subst h; simp [hb]
      · rw [if_neg (by omega), if_neg h]
    · rw [if_neg hb]
      simp only [Tab.find]
      by_cases h1 : a = k
      · subst h1; simp
      · rw [if_neg h1, ih]
        by_cases h : a ≤ k
        · have e : k - a = (k - (a + 1)) + 1 := by omega
          rw [if_pos (by omega), if_pos h, e, List.getD_cons_succ]
        · rw [if_neg (by omega), if_neg h]

theorem Memory.find_cells_out (bs : List Byte) : ∀ (a k : Nat), (k < a ∨ a + bs.length ≤ k) →
    Tab.find (Memory.cells a bs) k = none := by
  induction bs with
  | nil => intro a k _; rfl
  | cons b bs ih =>
    intro a k h
    simp only [List.length_cons] at h
    unfold Memory.cells
    split_ifs
    · exact ih _ _ (by omega)
    · simp only [Tab.find]
      rw [if_neg (by omega)]
      exact ih _ _ (by omega)

/-- A byte of a written run reads as written. -/
theorem Memory.get_write_in (m : Memory) (a : Nat) (bs : List Byte) {k : Nat} (h1 : a ≤ k) (h2 : k < a + bs.length) :
    Memory.get (Memory.write m a bs) k = bs.getD (k - a) 0#8 := by
  unfold Memory.get Memory.write Tab.get
  rw [Tab.find_append, Tab.find_append,
    Tab.find_filter (fun c => decide (c < a)), Tab.find_filter (fun c => decide (a + bs.length ≤ c))]
  have e1 : decide (k < a) = false := by simp; omega
  have e2 : decide (a + bs.length ≤ k) = false := by simp; omega
  simp [e1, e2, Memory.find_cells, h1]

/-- A byte outside a written run keeps its value. -/
theorem Memory.get_write_out (m : Memory) (a : Nat) (bs : List Byte) {k : Nat} (h : k < a ∨ a + bs.length ≤ k) :
    Memory.get (Memory.write m a bs) k = Memory.get m k := by
  unfold Memory.get Memory.write Tab.get
  rw [Tab.find_append, Tab.find_append,
    Tab.find_filter (fun c => decide (c < a)), Tab.find_filter (fun c => decide (a + bs.length ≤ c)),
    Memory.find_cells_out bs a k h]
  by_cases h1 : k < a
  · have e2 : ¬ a + bs.length ≤ k := by omega
    simp [h1, e2]
  · have e2 : a + bs.length ≤ k := by omega
    simp [h1, e2]

theorem Memory.get_zero_in (m : Memory) {a n k : Nat} (h1 : a ≤ k) (h2 : k < a + n) : Memory.get (Memory.zero m a n) k = 0#8 := by
  unfold Memory.get Memory.zero Tab.get
  rw [Tab.find_append, Tab.find_filter (fun c => decide (c < a)), Tab.find_filter (fun c => decide (a + n ≤ c))]
  have e1 : ¬ k < a := by omega
  have e2 : ¬ a + n ≤ k := by omega
  simp [e1, e2]

theorem Memory.get_zero_out (m : Memory) {a n k : Nat} (h : k < a ∨ a + n ≤ k) :
    Memory.get (Memory.zero m a n) k = Memory.get m k := by
  unfold Memory.get Memory.zero Tab.get
  rw [Tab.find_append, Tab.find_filter (fun c => decide (c < a)), Tab.find_filter (fun c => decide (a + n ≤ c))]
  by_cases h1 : k < a
  · have e2 : ¬ a + n ≤ k := by omega
    simp [h1, e2]
  · have e2 : a + n ≤ k := by omega
    simp [h1, e2]

/-- A canonical memory is one whose keys rise strictly and that lists no zero. -/
theorem Memory.wf_iff (m : Memory) :
    Memory.wf m = true ↔ m.Pairwise (fun x y => x.1 < y.1) ∧ ∀ c ∈ m, c.2 ≠ 0#8 := by
  have key : ∀ (m : Memory) (lo : Nat), Tab.risingFrom lo m = true ↔ (∀ c ∈ m, lo ≤ c.1) ∧ m.Pairwise (fun x y => x.1 < y.1) := by
    intro m
    induction m with
    | nil => intro lo; simp [Tab.risingFrom]
    | cons x xs ih =>
      intro lo
      obtain ⟨a, b⟩ := x
      simp only [Tab.risingFrom, Bool.and_eq_true, decide_eq_true_eq, ih, List.mem_cons, forall_eq_or_imp,
        List.pairwise_cons]
      constructor
      · rintro ⟨h1, h2, h3⟩
        exact ⟨⟨h1, fun c hc => by have := h2 c hc; omega⟩, fun c hc => by have := h2 c hc; show a < c.1; omega, h3⟩
      · rintro ⟨⟨h1, _⟩, h3, h4⟩
        exact ⟨h1, fun c hc => h3 c hc, h4⟩
  simp [Memory.wf, Tab.wf, key, List.all_eq_true]

theorem Memory.mem_cells (bs : List Byte) : ∀ (a : Nat) {c : Host.Cell}, c ∈ Memory.cells a bs →
    a ≤ c.1 ∧ c.1 < a + bs.length ∧ c.2 ≠ 0#8 := by
  induction bs with
  | nil => intro a c h; simp [Memory.cells] at h
  | cons b bs ih =>
    intro a c h
    unfold Memory.cells at h
    simp only [List.length_cons]
    split_ifs at h with hb
    · have := ih (a + 1) h
      exact ⟨by omega, by omega, this.2.2⟩
    · rcases List.mem_cons.mp h with h | h
      · subst h; exact ⟨le_refl _, by simp, hb⟩
      · have := ih (a + 1) h
        exact ⟨by omega, by omega, this.2.2⟩

theorem Memory.cells_pairwise (bs : List Byte) : ∀ a : Nat, (Memory.cells a bs).Pairwise (fun x y => x.1 < y.1) := by
  induction bs with
  | nil => intro a; simp [Memory.cells]
  | cons b bs ih =>
    intro a
    unfold Memory.cells
    split_ifs
    · exact ih _
    · rw [List.pairwise_cons]
      exact ⟨fun c hc => by have := (Memory.mem_cells bs (a + 1) hc).1; show a < c.1; omega, ih _⟩

/-- A write keeps the canonical form. -/
theorem Memory.wf_write {m : Memory} (a : Nat) (bs : List Byte) (h : Memory.wf m = true) :
    Memory.wf (Memory.write m a bs) = true := by
  rw [Memory.wf_iff] at h ⊢
  unfold Memory.write
  refine ⟨?_, ?_⟩
  · rw [List.pairwise_append, List.pairwise_append]
    refine ⟨⟨h.1.filter _, Memory.cells_pairwise bs a, ?_⟩, h.1.filter _, ?_⟩
    · intro x hx y hy
      have h1 : x.1 < a := by simpa using (List.mem_filter.mp hx).2
      have h2 := (Memory.mem_cells bs a hy).1
      omega
    · intro x hx y hy
      have h2 : a + bs.length ≤ y.1 := by simpa using (List.mem_filter.mp hy).2
      rcases List.mem_append.mp hx with hx | hx
      · have h1 : x.1 < a := by simpa using (List.mem_filter.mp hx).2
        omega
      · have h1 := (Memory.mem_cells bs a hx).2.1
        omega
  · intro c hc
    rcases List.mem_append.mp hc with hc | hc
    · rcases List.mem_append.mp hc with hc | hc
      · exact h.2 c (List.mem_filter.mp hc).1
      · exact (Memory.mem_cells bs a hc).2.2
    · exact h.2 c (List.mem_filter.mp hc).1

/-- Zeroing a run keeps the canonical form. -/
theorem Memory.wf_zero {m : Memory} (a n : Nat) (h : Memory.wf m = true) : Memory.wf (Memory.zero m a n) = true := by
  rw [Memory.wf_iff] at h ⊢
  unfold Memory.zero
  refine ⟨?_, ?_⟩
  · rw [List.pairwise_append]
    refine ⟨h.1.filter _, h.1.filter _, ?_⟩
    intro x hx y hy
    have h1 : x.1 < a := by simpa using (List.mem_filter.mp hx).2
    have h2 : a + n ≤ y.1 := by simpa using (List.mem_filter.mp hy).2
    omega
  · intro c hc
    rcases List.mem_append.mp hc with hc | hc
    · exact h.2 c (List.mem_filter.mp hc).1
    · exact h.2 c (List.mem_filter.mp hc).1

@[simp] theorem Memory.wf_nil : Memory.wf [] = true := rfl

@[simp] theorem Memory.length_read (m : Memory) (a n : Nat) : (Memory.read m a n).length = n := by
  simp [Memory.read]

end Sys2Proof.Machine
end

