-- ==== Sys2Proof/Laws/Bits.lean ====
section
/-! SUPPORT. Laws of bit fields and of registers' fields. -/

namespace Sys2Proof.Machine

/-- A field is below its width. -/
theorem bits_lt (w hi lo : Nat) : bits w hi lo < 2 ^ (hi + 1 - lo) := Nat.mod_lt _ (Nat.two_pow_pos _)

/-- A word is what lies above a field, the field, and what lies below it. -/
theorem bits_split (w hi lo : Nat) :
    w = w / 2 ^ lo / 2 ^ (hi + 1 - lo) * 2 ^ (hi + 1 - lo) * 2 ^ lo + bits w hi lo * 2 ^ lo + w % 2 ^ lo := by
  have h1 := Nat.div_add_mod w (2 ^ lo)
  have h2 := Nat.div_add_mod (w / 2 ^ lo) (2 ^ (hi + 1 - lo))
  unfold bits
  calc w = 2 ^ lo * (w / 2 ^ lo) + w % 2 ^ lo := h1.symm
    _ = 2 ^ lo * (2 ^ (hi + 1 - lo) * (w / 2 ^ lo / 2 ^ (hi + 1 - lo)) + w / 2 ^ lo % 2 ^ (hi + 1 - lo)) + w % 2 ^ lo := by rw [h2]
    _ = _ := by ring

/-- A word with a field set. -/
theorem setBits_eq (w hi lo v : Nat) : setBits w hi lo v =
    (w / 2 ^ lo / 2 ^ (hi + 1 - lo) * 2 ^ (hi + 1 - lo) + v % 2 ^ (hi + 1 - lo)) * 2 ^ lo + w % 2 ^ lo := by
  have h := bits_split w hi lo
  unfold setBits
  generalize bits w hi lo * 2 ^ lo = b at h ⊢
  have e : w - b = w / 2 ^ lo / 2 ^ (hi + 1 - lo) * 2 ^ (hi + 1 - lo) * 2 ^ lo + w % 2 ^ lo := by omega
  rw [e]; ring

/-- A field that was set reads as the value's low bits. -/
@[simp] theorem bits_setBits_self (w hi lo v : Nat) : bits (setBits w hi lo v) hi lo = v % 2 ^ (hi + 1 - lo) := by
  rw [setBits_eq]
  unfold bits
  have h : w % 2 ^ lo / 2 ^ lo = 0 := Nat.div_eq_of_lt (Nat.mod_lt _ (Nat.two_pow_pos _))
  rw [mul_comm _ (2 ^ lo), Nat.mul_add_div (Nat.two_pow_pos _), h, Nat.add_zero, Nat.mul_comm _ (2 ^ (hi + 1 - lo)),
    Nat.mul_add_mod, Nat.mod_mod]

/-- A field is a remainder before it is a quotient. -/
theorem bits_eq_mod_div (w hi lo : Nat) (h : lo ≤ hi + 1) : bits w hi lo = w % 2 ^ (hi + 1) / 2 ^ lo := by
  unfold bits
  have e : 2 ^ (hi + 1) = 2 ^ lo * 2 ^ (hi + 1 - lo) := by rw [← pow_add]; congr 1; omega
  rw [e, Nat.mod_mul_right_div_self]

/-- Setting a field leaves a field above it alone. -/
theorem bits_setBits_above (w hi lo v hi' lo' : Nat) (h : lo ≤ hi + 1) (h' : hi < lo') :
    bits (setBits w hi lo v) hi' lo' = bits w hi' lo' := by
  have key : ∀ x : Nat, x / 2 ^ lo' = x / 2 ^ lo / 2 ^ (hi + 1 - lo) / 2 ^ (lo' - (hi + 1)) := by
    intro x
    rw [Nat.div_div_eq_div_mul, Nat.div_div_eq_div_mul, ← pow_add, ← pow_add]
    congr 2; omega
  unfold bits
  rw [key, key, setBits_eq]
  have h1 : w % 2 ^ lo / 2 ^ lo = 0 := Nat.div_eq_of_lt (Nat.mod_lt _ (Nat.two_pow_pos _))
  rw [mul_comm _ (2 ^ lo), Nat.mul_add_div (Nat.two_pow_pos _), h1, Nat.add_zero, Nat.mul_comm _ (2 ^ (hi + 1 - lo)),
    Nat.mul_add_div (Nat.two_pow_pos _), Nat.div_eq_of_lt (Nat.mod_lt v (Nat.two_pow_pos _)), Nat.add_zero]

/-- Setting a field leaves a field below it alone. -/
theorem bits_setBits_below (w hi lo v hi' lo' : Nat) (h : lo' ≤ hi' + 1) (h' : hi' < lo) :
    bits (setBits w hi lo v) hi' lo' = bits w hi' lo' := by
  rw [bits_eq_mod_div _ _ _ h, bits_eq_mod_div _ _ _ h, setBits_eq]
  have e : 2 ^ lo = 2 ^ (hi' + 1) * 2 ^ (lo - (hi' + 1)) := by rw [← pow_add]; congr 1; omega
  congr 1
  rw [Nat.add_mod, Nat.mul_mod_eq_zero_of_right, Nat.zero_add, Nat.mod_mod, Nat.mod_mod_of_dvd]
  · exact ⟨_, e⟩
  · exact ⟨_, e⟩
where
  Nat.mul_mod_eq_zero_of_right {a b n : Nat} (h : n ∣ b) : a * b % n = 0 := Nat.mod_eq_zero_of_dvd (Dvd.dvd.mul_left h a)

/-- A field below bit 64 of a stored word. -/
theorem bits_mod64 (w hi lo : Nat) (h : hi < 64) (h' : lo ≤ hi + 1) : bits (w % 2 ^ 64) hi lo = bits w hi lo := by
  rw [bits_eq_mod_div _ _ _ h', bits_eq_mod_div _ _ _ h', Nat.mod_mod_of_dvd]
  exact pow_dvd_pow 2 (by omega)

theorem bit_eq_bits (w b : Nat) : bit w b = (bits w b b == 1) := by
  simp [bit, bits]

/-- A field of a stored word. -/
theorem fget_setReg_self (s : State) (off v : Nat) {hi lo : Nat} (h : hi < 64) (h' : lo ≤ hi + 1) :
    fget (s.setReg off v) off hi lo = bits v hi lo := by
  simp only [fget, rd, State.setReg, Tab.find_insert_self, BitVec.toNat_ofNat]
  exact bits_mod64 v hi lo h h'

theorem fget_setReg_other (s : State) {off off' : Nat} (v hi lo : Nat) (h : off' ≠ off) :
    fget (s.setReg off v) off' hi lo = fget s off' hi lo := by
  simp [fget, rd, State.setReg, Tab.find_insert_other _ _ h]

/-- A field that was set reads back. -/
theorem fget_fset_self (s : State) (off v : Nat) {hi lo : Nat} (h : hi < 64) (h' : lo ≤ hi + 1) :
    fget (fset s off hi lo v) off hi lo = v % 2 ^ (hi + 1 - lo) := by
  rw [fset, fget_setReg_self _ _ _ h h', bits_setBits_self]

/-- Setting a field leaves another register's fields alone. -/
theorem fget_fset_other (s : State) {off off' : Nat} (hi lo v hi' lo' : Nat) (h : off' ≠ off) :
    fget (fset s off hi lo v) off' hi' lo' = fget s off' hi' lo' := fget_setReg_other s _ _ _ h

/-- Setting a field leaves the fields above and below it in the same register alone. -/
theorem fget_fset_field (s : State) (off v : Nat) {hi lo hi' lo' : Nat} (h : lo ≤ hi + 1) (h1 : lo' ≤ hi' + 1)
    (h2 : hi' < 64) (d : hi < lo' ∨ hi' < lo) :
    fget (fset s off hi lo v) off hi' lo' = fget s off hi' lo' := by
  rw [fset, fget_setReg_self _ _ _ h2 h1]
  rcases d with d | d
  · exact bits_setBits_above _ _ _ _ _ _ h d
  · exact bits_setBits_below _ _ _ _ _ _ h1 d

theorem fbit_eq_fget (s : State) (off b : Nat) : fbit s off b = (fget s off b b == 1) := bit_eq_bits _ _

/-- A bit that was set reads back. -/
theorem fbit_fset_self (s : State) (off v : Nat) {b : Nat} (h : b < 64) : fbit (fset s off b b v) off b = (v % 2 == 1) := by
  rw [fbit_eq_fget, fget_fset_self s off v h (by omega)]
  simp

theorem fbit_fset_other (s : State) {off off' : Nat} (hi lo v b : Nat) (h : off' ≠ off) :
    fbit (fset s off hi lo v) off' b = fbit s off' b := by
  rw [fbit_eq_fget, fget_fset_other s hi lo v b b h, ← fbit_eq_fget]

theorem fbit_fset_field (s : State) (off v : Nat) {hi lo b : Nat} (h : lo ≤ hi + 1) (h2 : b < 64) (d : hi < b ∨ b < lo) :
    fbit (fset s off hi lo v) off b = fbit s off b := by
  rw [fbit_eq_fget, fget_fset_field s off v h (by omega) h2 d, ← fbit_eq_fget]

end Sys2Proof.Machine
end

