-- ==== Sys2Proof/Laws/Crypto.lean ====
section
/-! SUPPORT. Laws of the ciphers: what a key seals, the same key opens (R224, R309). -/

set_option exponentiation.threshold 1024

namespace Sys2Proof.Machine

/-! ### Bytes -/

@[simp] theorem length_leBytes (n v : Nat) : (leBytes n v).length = n := by
  induction n generalizing v with
  | zero => rfl
  | succ n ih => simp [leBytes, ih]

theorem ofLe_leBytes (n v : Nat) : ofLe (leBytes n v) = v % 256 ^ n := by
  induction n generalizing v with
  | zero => simp [leBytes, ofLe, Nat.mod_one]
  | succ n ih =>
    have h : 256 ^ (n + 1) = 256 * 256 ^ n := by rw [Nat.pow_succ, Nat.mul_comm]
    rw [leBytes, ofLe, ih, BitVec.toNat_ofNat, h, Nat.mod_mul]

theorem leBytes_ofLe (bs : List Byte) : leBytes bs.length (ofLe bs) = bs := by
  induction bs with
  | nil => rfl
  | cons b t ih =>
    have hb : b.toNat < 256 := b.isLt
    rw [ofLe, List.length_cons, leBytes]
    congr 1
    · apply BitVec.eq_of_toNat_eq
      rw [BitVec.toNat_ofNat]; omega
    · rw [show (b.toNat + 256 * ofLe t) / 256 = ofLe t by omega, ih]

theorem ofLe_lt (bs : List Byte) : ofLe bs < 256 ^ bs.length := by
  induction bs with
  | nil => simp [ofLe]
  | cons b t ih =>
    have hb : b.toNat < 256 := b.isLt
    rw [ofLe, List.length_cons, pow_succ]
    omega

/-- What a read finds where a run was written. -/
theorem Memory.read_write (m : Memory) (a : Nat) (bs : List Byte) : Memory.read (Memory.write m a bs) a bs.length = bs := by
  apply List.ext_getElem
  · simp
  · intro n h1 h2
    simp only [Memory.read, List.getElem_map, List.getElem_range]
    rw [Memory.get_write_in m a bs (by omega) (by omega)]
    simp [h2]

/-- What a read finds of a field that a written run holds. -/
theorem Memory.num_write_mid (m : Memory) (a : Nat) (p q : List Byte) (n v k : Nat) (h : p.length = k) :
    Memory.num (Memory.write m a (p ++ (leBytes n v ++ q))) (a + k) n = v % 256 ^ n := by
  have e : Memory.read (Memory.write m a (p ++ (leBytes n v ++ q))) (a + k) n = leBytes n v := by
    apply List.ext_getElem
    · simp
    · intro i h1 h2
      have hi : i < n := by simpa using h2
      simp only [Memory.read, List.getElem_map, List.getElem_range]
      rw [Memory.get_write_in m a _ (by omega) (by simp; omega)]
      rw [show a + k + i - a = k + i by omega, List.getD_eq_getElem?_getD, List.getElem?_append_right (by omega),
        show k + i - p.length = i by omega, List.getElem?_append_left (by simpa using hi)]
      simp [hi]
  rw [Memory.num, e, ofLe_leBytes]

/-- What a read finds at the start of a run. -/
theorem Memory.read_write_left (m : Memory) (a : Nat) (p q : List Byte) : Memory.read (Memory.write m a (p ++ q)) a p.length = p := by
  apply List.ext_getElem
  · simp
  · intro i h1 h2
    simp only [Memory.read, List.getElem_map, List.getElem_range]
    rw [Memory.get_write_in m a _ (by omega) (by simp; omega), show a + i - a = i by omega, List.getD_eq_getElem?_getD,
      List.getElem?_append_left h2]
    simp [h2]

/-! ### AES-256-XTS -/

theorem length_xtsEnc {u : List Byte} (k : BitVec 256) (n : Nat) (h : u.length = 64) : (xtsEnc k n u).length = 64 := by
  simp [xtsEnc, h]

theorem pow_256_64 : 256 ^ 64 = 2 ^ 512 := (Nat.pow_mul 2 8 64).symm

theorem xtsDec_xtsEnc {u : List Byte} (k : BitVec 256) (n : Nat) (h : u.length = 64) : xtsDec k n (xtsEnc k n u) = u := by
  have e : xtsEnc k n u = leBytes 64 (Config.xtsUnit (keyX1 k) (keyX2 k) n (BitVec.ofNat 512 (ofLe u))).toNat := by simp [xtsEnc, h]
  rw [xtsDec, if_pos (length_xtsEnc k n h), e, ofLe_leBytes]
  have lt := (Config.xtsUnit (keyX1 k) (keyX2 k) n (BitVec.ofNat 512 (ofLe u))).isLt
  rw [Nat.mod_eq_of_lt (by rw [pow_256_64]; exact lt), BitVec.ofNat_toNat, BitVec.setWidth_eq, Equiv.symm_apply_apply, BitVec.toNat_ofNat,
    Nat.mod_eq_of_lt]
  · rw [← h]; exact leBytes_ofLe u
  · have := ofLe_lt u; rw [h, pow_256_64] at this; exact this

/-- A run of whole units, from unit `i` on. -/
def encFrom (f : Nat → List Byte → List Byte) (fuel i : Nat) (bs : List Byte) : List Byte :=
  (((chunks 64 fuel bs).zipIdx i).map fun u => f u.2 u.1).flatten

theorem encFrom_cons (f : Nat → List Byte → List Byte) (fuel i : Nat) {bs : List Byte} (h : bs ≠ []) :
    encFrom f (fuel + 1) i bs = f i (bs.take 64) ++ encFrom f fuel (i + 1) (bs.drop 64) := by
  cases bs with
  | nil => exact absurd rfl h
  | cons b t => simp [encFrom, chunks]

theorem encFrom_inv (f g : Nat → List Byte → List Byte) (hl : ∀ i u, u.length = 64 → (f i u).length = 64) (hg : ∀ i u, u.length = 64 → g i (f i u) = u)
    (m : Nat) : ∀ (i fuel fuel' : Nat) (bs : List Byte), bs.length = 64 * m → m ≤ fuel → m ≤ fuel' →
      (encFrom f fuel i bs).length = 64 * m ∧ encFrom g fuel' i (encFrom f fuel i bs) = bs := by
  induction m with
  | zero =>
    intro i fuel fuel' bs hb _ _
    obtain rfl : bs = [] := List.eq_nil_of_length_eq_zero (by omega)
    cases fuel <;> cases fuel' <;> simp [encFrom, chunks]
  | succ m ih =>
    intro i fuel fuel' bs hb h1 h2
    obtain ⟨a, rfl⟩ := Nat.exists_eq_add_of_le' (show 1 ≤ fuel by omega)
    obtain ⟨b, rfl⟩ := Nat.exists_eq_add_of_le' (show 1 ≤ fuel' by omega)
    have hne : bs ≠ [] := by intro h; rw [h] at hb; simp at hb
    have ht : (bs.take 64).length = 64 := by simp; omega
    obtain ⟨l1, l2⟩ := ih (i + 1) a b (bs.drop 64) (by simp; omega) (by omega) (by omega)
    rw [encFrom_cons f a i hne]
    constructor
    · rw [List.length_append, hl _ _ ht, l1]; omega
    · have hne' : f i (bs.take 64) ++ encFrom f a (i + 1) (bs.drop 64) ≠ [] := by
        intro h; have := congrArg List.length h; rw [List.length_append, hl _ _ ht] at this; simp at this
      rw [encFrom_cons g b i hne', List.take_left' (hl _ _ ht), List.drop_left' (hl _ _ ht), hg _ _ ht, l2, List.take_append_drop]

theorem xtsRun_encFrom (k : BitVec 256) (a : Nat) (bs : List Byte) : xtsRun k a bs = encFrom (fun i u => xtsEnc k (a / 64 + i) u) bs.length 0 bs := by
  unfold xtsRun encFrom; rfl

theorem unxts_encFrom (k : BitVec 256) (a : Nat) (bs : List Byte) :
    unxts k a bs = encFrom (fun i u => xtsDec k (a % 2 ^ 47 / 64 + i) u) bs.length 0 bs := by
  unfold unxts encFrom; rfl

/-- A run of whole units that was encrypted at an address decrypts there to itself. -/
theorem unxts_xtsRun (k : BitVec 256) (a : Nat) (bs : List Byte) (m : Nat) (h : bs.length = 64 * m) :
    unxts k a (xtsRun k (a % 2 ^ 47) bs) = bs ∧ (xtsRun k (a % 2 ^ 47) bs).length = bs.length := by
  rw [unxts_encFrom, xtsRun_encFrom]
  generalize a % 2 ^ 47 / 64 = t
  have key := encFrom_inv (fun i u => xtsEnc k (t + i) u) (fun i u => xtsDec k (t + i) u)
    (fun i u hu => length_xtsEnc k _ hu) (fun i u hu => xtsDec_xtsEnc k _ hu) m 0
  have len := (key bs.length bs.length bs h (by omega) (by omega)).1
  refine ⟨?_, by omega⟩
  exact (key bs.length _ bs h (by omega) (by omega)).2

/-! ### AES-256-GCM -/

/-- What a key seals it opens. -/
theorem gcmOpen_gcmSeal (k : BitVec 256) (n : BitVec 96) (aad pt : List Byte) :
    gcmOpen k n aad (gcmSeal k n aad pt).1 (gcmSeal k n aad pt).2 = some pt := by
  rw [gcmSeal, gcmOpen, if_pos rfl, Option.some_inj]
  apply List.ext_getElem
  · simp [gcmXor]
  · intro i h1 h2
    simp only [gcmXor, List.getElem_map, List.getElem_zipIdx, Nat.zero_add]
    rw [BitVec.xor_assoc, BitVec.xor_self, BitVec.xor_zero]

end Sys2Proof.Machine
end

