-- ==== Sys2Proof/Laws/Flags.lean ====
section
/-! SUPPORT. Laws of reports, and of an accumulation that adds nothing. -/

namespace Sys2Proof.Machine

/-- A join of reports without a NaN has none. -/
theorem Rep.foldl_nan (l : List Rep) (r : Rep) (hr : r.nan = none) (h : ∀ x ∈ l, x.nan = none) : (l.foldl Rep.join r).nan = none := by
  induction l generalizing r with
  | nil => exact hr
  | cons a t ih =>
    refine ih _ ?_ fun x hx => h x (by simp [hx])
    simp [Rep.join, hr, h a (by simp), firstNan]

/-- A K step that multiplies zeros leaves a zero pair as it is. -/
theorem cellStep_zero (k i j : Nat) : cellStep k i j ({}, {}) (elemZero false) (elemZero false) = ({}, {}) := rfl

/-- Cells fold zero lines to zero. -/
theorem cellFold_zero (i j : Nat) (lines : List (List Elem × List Elem))
    (h : ∀ l ∈ lines, (∀ x ∈ l.1, x = elemZero false) ∧ ∀ x ∈ l.2, x = elemZero false) : cellFold i j {} lines = ({}, {}) := by
  have get : ∀ (l : List Elem) (n : Nat), (∀ x ∈ l, x = elemZero false) → l.getD n (elemZero false) = elemZero false := by
    intro l n hl
    rw [List.getD_eq_getElem?_getD]
    cases hn : l[n]? with
    | none => rfl
    | some x => exact hl x (List.mem_of_getElem? hn)
  unfold cellFold
  have key : ∀ (ls : List ((List Elem × List Elem) × Nat)), (∀ y ∈ ls, y.1 ∈ lines) →
      ls.foldl (fun acc (l : (List Elem × List Elem) × Nat) => cellStep l.2 i j acc (l.1.1.getD i (elemZero false)) (l.1.2.getD j (elemZero false)))
        (({}, {}) : Pair × Rep) = ({}, {}) := by
    intro ls hls
    induction ls with
    | nil => rfl
    | cons y t ih =>
      rw [List.foldl_cons, get _ _ (h _ (hls y (by simp))).1, get _ _ (h _ (hls y (by simp))).2, cellStep_zero]
      exact ih fun z hz => hls z (by simp [hz])
  refine key _ fun y hy => ?_
  exact (List.mem_zipIdx' hy).2 ▸ List.getElem_mem _

end Sys2Proof.Machine
end

