-- ==== Sys2Proof/Laws/State.lean ====
section
/-! SUPPORT. What each named update of the state leaves alone, field by field, and what it writes. -/

namespace Sys2Proof.Machine

/-! ### State.emit writes out -/

@[simp] theorem State.emit_pending (s : State) (o : Out) : (s.emit o).pending = s.pending := rfl
@[simp] theorem State.emit_time (s : State) (o : Out) : (s.emit o).time = s.time := rfl
@[simp] theorem State.emit_regs (s : State) (o : Out) : (s.emit o).regs = s.regs := rfl
@[simp] theorem State.emit_lowPend (s : State) (o : Out) : (s.emit o).lowPend = s.lowPend := rfl
@[simp] theorem State.emit_hiLatch (s : State) (o : Out) : (s.emit o).hiLatch = s.hiLatch := rfl
@[simp] theorem State.emit_perstN (s : State) (o : Out) : (s.emit o).perstN = s.perstN := rfl
@[simp] theorem State.emit_pwrWarnN (s : State) (o : Out) : (s.emit o).pwrWarnN = s.pwrWarnN := rfl
@[simp] theorem State.emit_modPwrgd (s : State) (o : Out) : (s.emit o).modPwrgd = s.modPwrgd := rfl
@[simp] theorem State.emit_alertN (s : State) (o : Out) : (s.emit o).alertN = s.alertN := rfl
@[simp] theorem State.emit_rails (s : State) (o : Out) : (s.emit o).rails = s.rails := rfl
@[simp] theorem State.emit_inputIn (s : State) (o : Out) : (s.emit o).inputIn = s.inputIn := rfl
@[simp] theorem State.emit_barUp (s : State) (o : Out) : (s.emit o).barUp = s.barUp := rfl
@[simp] theorem State.emit_halted (s : State) (o : Out) : (s.emit o).halted = s.halted := rfl
@[simp] theorem State.emit_draws (s : State) (o : Out) : (s.emit o).draws = s.draws := rfl
@[simp] theorem State.emit_dev (s : State) (o : Out) : (s.emit o).dev = s.dev := rfl
@[simp] theorem State.emit_host (s : State) (o : Out) : (s.emit o).host = s.host := rfl
@[simp] theorem State.emit_pages (s : State) (o : Out) : (s.emit o).pages = s.pages := rfl
@[simp] theorem State.emit_claims (s : State) (o : Out) : (s.emit o).claims = s.claims := rfl
@[simp] theorem State.emit_resv (s : State) (o : Out) : (s.emit o).resv = s.resv := rfl
@[simp] theorem State.emit_heldBase (s : State) (o : Out) : (s.emit o).heldBase = s.heldBase := rfl
@[simp] theorem State.emit_poison (s : State) (o : Out) : (s.emit o).poison = s.poison := rfl
@[simp] theorem State.emit_retired (s : State) (o : Out) : (s.emit o).retired = s.retired := rfl
@[simp] theorem State.emit_pcErrs (s : State) (o : Out) : (s.emit o).pcErrs = s.pcErrs := rfl
@[simp] theorem State.emit_cores (s : State) (o : Out) : (s.emit o).cores = s.cores := rfl
@[simp] theorem State.emit_scratch (s : State) (o : Out) : (s.emit o).scratch = s.scratch := rfl
@[simp] theorem State.emit_journal (s : State) (o : Out) : (s.emit o).journal = s.journal := rfl
@[simp] theorem State.emit_accepted (s : State) (o : Out) : (s.emit o).accepted = s.accepted := rfl
@[simp] theorem State.emit_led (s : State) (o : Out) : (s.emit o).led = s.led := rfl
@[simp] theorem State.emit_lsn (s : State) (o : Out) : (s.emit o).lsn = s.lsn := rfl
@[simp] theorem State.emit_fenced (s : State) (o : Out) : (s.emit o).fenced = s.fenced := rfl
@[simp] theorem State.emit_diesOut (s : State) (o : Out) : (s.emit o).diesOut = s.diesOut := rfl
@[simp] theorem State.emit_dieNap (s : State) (o : Out) : (s.emit o).dieNap = s.dieNap := rfl
@[simp] theorem State.emit_ctx (s : State) (o : Out) : (s.emit o).ctx = s.ctx := rfl
@[simp] theorem State.emit_images (s : State) (o : Out) : (s.emit o).images = s.images := rfl
@[simp] theorem State.emit_rings (s : State) (o : Out) : (s.emit o).rings = s.rings := rfl
@[simp] theorem State.emit_ops (s : State) (o : Out) : (s.emit o).ops = s.ops := rfl
@[simp] theorem State.emit_orders (s : State) (o : Out) : (s.emit o).orders = s.orders := rfl
@[simp] theorem State.emit_elig (s : State) (o : Out) : (s.emit o).elig = s.elig := rfl
@[simp] theorem State.emit_gens (s : State) (o : Out) : (s.emit o).gens = s.gens := rfl
@[simp] theorem State.emit_wcGen (s : State) (o : Out) : (s.emit o).wcGen = s.wcGen := rfl
@[simp] theorem State.emit_vtClass (s : State) (o : Out) : (s.emit o).vtClass = s.vtClass := rfl
@[simp] theorem State.emit_vtPart (s : State) (o : Out) : (s.emit o).vtPart = s.vtPart := rfl
@[simp] theorem State.emit_insts (s : State) (o : Out) : (s.emit o).insts = s.insts := rfl
@[simp] theorem State.emit_parts (s : State) (o : Out) : (s.emit o).parts = s.parts := rfl
@[simp] theorem State.emit_mbUp (s : State) (o : Out) : (s.emit o).mbUp = s.mbUp := rfl
@[simp] theorem State.emit_mbDown (s : State) (o : Out) : (s.emit o).mbDown = s.mbDown := rfl
@[simp] theorem State.emit_mbUpOwn (s : State) (o : Out) : (s.emit o).mbUpOwn = s.mbUpOwn := rfl
@[simp] theorem State.emit_mbDownOwn (s : State) (o : Out) : (s.emit o).mbDownOwn = s.mbDownOwn := rfl
@[simp] theorem State.emit_mbUpDrop (s : State) (o : Out) : (s.emit o).mbUpDrop = s.mbUpDrop := rfl
@[simp] theorem State.emit_mbDownDrop (s : State) (o : Out) : (s.emit o).mbDownDrop = s.mbDownDrop := rfl
@[simp] theorem State.emit_descs (s : State) (o : Out) : (s.emit o).descs = s.descs := rfl
@[simp] theorem State.emit_ktab (s : State) (o : Out) : (s.emit o).ktab = s.ktab := rfl
@[simp] theorem State.emit_ikeys (s : State) (o : Out) : (s.emit o).ikeys = s.ikeys := rfl
@[simp] theorem State.emit_migKey (s : State) (o : Out) : (s.emit o).migKey = s.migKey := rfl
@[simp] theorem State.emit_kcache (s : State) (o : Out) : (s.emit o).kcache = s.kcache := rfl
@[simp] theorem State.emit_sysKey (s : State) (o : Out) : (s.emit o).sysKey = s.sysKey := rfl
@[simp] theorem State.emit_tableKey (s : State) (o : Out) : (s.emit o).tableKey = s.tableKey := rfl
@[simp] theorem State.emit_linkKeys (s : State) (o : Out) : (s.emit o).linkKeys = s.linkKeys := rfl
@[simp] theorem State.emit_xlat (s : State) (o : Out) : (s.emit o).xlat = s.xlat := rfl
@[simp] theorem State.emit_spdm (s : State) (o : Out) : (s.emit o).spdm = s.spdm := rfl
@[simp] theorem State.emit_sealCert (s : State) (o : Out) : (s.emit o).sealCert = s.sealCert := rfl
@[simp] theorem State.emit_ideKeys (s : State) (o : Out) : (s.emit o).ideKeys = s.ideKeys := rfl
@[simp] theorem State.emit_unsealing (s : State) (o : Out) : (s.emit o).unsealing = s.unsealing := rfl
@[simp] theorem State.emit_ls (s : State) (o : Out) : (s.emit o).ls = s.ls := rfl
@[simp] theorem State.emit_norms (s : State) (o : Out) : (s.emit o).norms = s.norms := rfl
@[simp] theorem State.emit_bnorms (s : State) (o : Out) : (s.emit o).bnorms = s.bnorms := rfl
@[simp] theorem State.emit_updLog (s : State) (o : Out) : (s.emit o).updLog = s.updLog := rfl
@[simp] theorem State.emit_jobs (s : State) (o : Out) : (s.emit o).jobs = s.jobs := rfl
@[simp] theorem State.emit_jobNum (s : State) (o : Out) : (s.emit o).jobNum = s.jobNum := rfl
@[simp] theorem State.emit_ran (s : State) (o : Out) : (s.emit o).ran = s.ran := rfl
@[simp] theorem State.emit_stage12 (s : State) (o : Out) : (s.emit o).stage12 = s.stage12 := rfl
@[simp] theorem State.emit_mirrors (s : State) (o : Out) : (s.emit o).mirrors = s.mirrors := rfl
@[simp] theorem State.emit_held (s : State) (o : Out) : (s.emit o).held = s.held := rfl
@[simp] theorem State.emit_portWait (s : State) (o : Out) : (s.emit o).portWait = s.portWait := rfl
@[simp] theorem State.emit_ueMap (s : State) (o : Out) : (s.emit o).ueMap = s.ueMap := rfl
@[simp] theorem State.emit_peers (s : State) (o : Out) : (s.emit o).peers = s.peers := rfl
@[simp] theorem State.emit_sent (s : State) (o : Out) : (s.emit o).sent = s.sent := rfl
@[simp] theorem State.emit_asm (s : State) (o : Out) : (s.emit o).asm = s.asm := rfl
@[simp] theorem State.emit_history (s : State) (o : Out) : (s.emit o).history = s.history := rfl
@[simp] theorem State.emit_pnSeen (s : State) (o : Out) : (s.emit o).pnSeen = s.pnSeen := rfl
@[simp] theorem State.emit_streams (s : State) (o : Out) : (s.emit o).streams = s.streams := rfl
@[simp] theorem State.emit_grps (s : State) (o : Out) : (s.emit o).grps = s.grps := rfl
@[simp] theorem State.emit_esc (s : State) (o : Out) : (s.emit o).esc = s.esc := rfl
@[simp] theorem State.emit_pw (s : State) (o : Out) : (s.emit o).pw = s.pw := rfl
@[simp] theorem State.emit_clkHot (s : State) (o : Out) : (s.emit o).clkHot = s.clkHot := rfl
@[simp] theorem State.emit_trFifo (s : State) (o : Out) : (s.emit o).trFifo = s.trFifo := rfl
@[simp] theorem State.emit_trDrop (s : State) (o : Out) : (s.emit o).trDrop = s.trDrop := rfl
@[simp] theorem State.emit_trBuf (s : State) (o : Out) : (s.emit o).trBuf = s.trBuf := rfl
@[simp] theorem State.emit_trCopy (s : State) (o : Out) : (s.emit o).trCopy = s.trCopy := rfl
@[simp] theorem State.emit_trTo (s : State) (o : Out) : (s.emit o).trTo = s.trTo := rfl
@[simp] theorem State.emit_bar4Log (s : State) (o : Out) : (s.emit o).bar4Log = s.bar4Log := rfl
@[simp] theorem State.emit_slotGsq (s : State) (o : Out) : (s.emit o).slotGsq = s.slotGsq := rfl
@[simp] theorem State.emit_refreshes (s : State) (o : Out) : (s.emit o).refreshes = s.refreshes := rfl
@[simp] theorem State.emit_grants (s : State) (o : Out) : (s.emit o).grants = s.grants := rfl
@[simp] theorem State.emit_released (s : State) (o : Out) : (s.emit o).released = s.released := rfl
@[simp] theorem State.emit_plinth (s : State) (o : Out) : (s.emit o).plinth = s.plinth := rfl

/-! ### State.setReg writes regs -/

@[simp] theorem State.setReg_pending (s : State) (off v : Nat) : (s.setReg off v).pending = s.pending := rfl
@[simp] theorem State.setReg_time (s : State) (off v : Nat) : (s.setReg off v).time = s.time := rfl
@[simp] theorem State.setReg_lowPend (s : State) (off v : Nat) : (s.setReg off v).lowPend = s.lowPend := rfl
@[simp] theorem State.setReg_hiLatch (s : State) (off v : Nat) : (s.setReg off v).hiLatch = s.hiLatch := rfl
@[simp] theorem State.setReg_perstN (s : State) (off v : Nat) : (s.setReg off v).perstN = s.perstN := rfl
@[simp] theorem State.setReg_pwrWarnN (s : State) (off v : Nat) : (s.setReg off v).pwrWarnN = s.pwrWarnN := rfl
@[simp] theorem State.setReg_modPwrgd (s : State) (off v : Nat) : (s.setReg off v).modPwrgd = s.modPwrgd := rfl
@[simp] theorem State.setReg_alertN (s : State) (off v : Nat) : (s.setReg off v).alertN = s.alertN := rfl
@[simp] theorem State.setReg_rails (s : State) (off v : Nat) : (s.setReg off v).rails = s.rails := rfl
@[simp] theorem State.setReg_inputIn (s : State) (off v : Nat) : (s.setReg off v).inputIn = s.inputIn := rfl
@[simp] theorem State.setReg_barUp (s : State) (off v : Nat) : (s.setReg off v).barUp = s.barUp := rfl
@[simp] theorem State.setReg_halted (s : State) (off v : Nat) : (s.setReg off v).halted = s.halted := rfl
@[simp] theorem State.setReg_draws (s : State) (off v : Nat) : (s.setReg off v).draws = s.draws := rfl
@[simp] theorem State.setReg_dev (s : State) (off v : Nat) : (s.setReg off v).dev = s.dev := rfl
@[simp] theorem State.setReg_host (s : State) (off v : Nat) : (s.setReg off v).host = s.host := rfl
@[simp] theorem State.setReg_pages (s : State) (off v : Nat) : (s.setReg off v).pages = s.pages := rfl
@[simp] theorem State.setReg_claims (s : State) (off v : Nat) : (s.setReg off v).claims = s.claims := rfl
@[simp] theorem State.setReg_resv (s : State) (off v : Nat) : (s.setReg off v).resv = s.resv := rfl
@[simp] theorem State.setReg_heldBase (s : State) (off v : Nat) : (s.setReg off v).heldBase = s.heldBase := rfl
@[simp] theorem State.setReg_poison (s : State) (off v : Nat) : (s.setReg off v).poison = s.poison := rfl
@[simp] theorem State.setReg_retired (s : State) (off v : Nat) : (s.setReg off v).retired = s.retired := rfl
@[simp] theorem State.setReg_pcErrs (s : State) (off v : Nat) : (s.setReg off v).pcErrs = s.pcErrs := rfl
@[simp] theorem State.setReg_cores (s : State) (off v : Nat) : (s.setReg off v).cores = s.cores := rfl
@[simp] theorem State.setReg_scratch (s : State) (off v : Nat) : (s.setReg off v).scratch = s.scratch := rfl
@[simp] theorem State.setReg_journal (s : State) (off v : Nat) : (s.setReg off v).journal = s.journal := rfl
@[simp] theorem State.setReg_accepted (s : State) (off v : Nat) : (s.setReg off v).accepted = s.accepted := rfl
@[simp] theorem State.setReg_led (s : State) (off v : Nat) : (s.setReg off v).led = s.led := rfl
@[simp] theorem State.setReg_lsn (s : State) (off v : Nat) : (s.setReg off v).lsn = s.lsn := rfl
@[simp] theorem State.setReg_fenced (s : State) (off v : Nat) : (s.setReg off v).fenced = s.fenced := rfl
@[simp] theorem State.setReg_diesOut (s : State) (off v : Nat) : (s.setReg off v).diesOut = s.diesOut := rfl
@[simp] theorem State.setReg_dieNap (s : State) (off v : Nat) : (s.setReg off v).dieNap = s.dieNap := rfl
@[simp] theorem State.setReg_ctx (s : State) (off v : Nat) : (s.setReg off v).ctx = s.ctx := rfl
@[simp] theorem State.setReg_images (s : State) (off v : Nat) : (s.setReg off v).images = s.images := rfl
@[simp] theorem State.setReg_rings (s : State) (off v : Nat) : (s.setReg off v).rings = s.rings := rfl
@[simp] theorem State.setReg_ops (s : State) (off v : Nat) : (s.setReg off v).ops = s.ops := rfl
@[simp] theorem State.setReg_orders (s : State) (off v : Nat) : (s.setReg off v).orders = s.orders := rfl
@[simp] theorem State.setReg_elig (s : State) (off v : Nat) : (s.setReg off v).elig = s.elig := rfl
@[simp] theorem State.setReg_gens (s : State) (off v : Nat) : (s.setReg off v).gens = s.gens := rfl
@[simp] theorem State.setReg_wcGen (s : State) (off v : Nat) : (s.setReg off v).wcGen = s.wcGen := rfl
@[simp] theorem State.setReg_vtClass (s : State) (off v : Nat) : (s.setReg off v).vtClass = s.vtClass := rfl
@[simp] theorem State.setReg_vtPart (s : State) (off v : Nat) : (s.setReg off v).vtPart = s.vtPart := rfl
@[simp] theorem State.setReg_insts (s : State) (off v : Nat) : (s.setReg off v).insts = s.insts := rfl
@[simp] theorem State.setReg_parts (s : State) (off v : Nat) : (s.setReg off v).parts = s.parts := rfl
@[simp] theorem State.setReg_mbUp (s : State) (off v : Nat) : (s.setReg off v).mbUp = s.mbUp := rfl
@[simp] theorem State.setReg_mbDown (s : State) (off v : Nat) : (s.setReg off v).mbDown = s.mbDown := rfl
@[simp] theorem State.setReg_mbUpOwn (s : State) (off v : Nat) : (s.setReg off v).mbUpOwn = s.mbUpOwn := rfl
@[simp] theorem State.setReg_mbDownOwn (s : State) (off v : Nat) : (s.setReg off v).mbDownOwn = s.mbDownOwn := rfl
@[simp] theorem State.setReg_mbUpDrop (s : State) (off v : Nat) : (s.setReg off v).mbUpDrop = s.mbUpDrop := rfl
@[simp] theorem State.setReg_mbDownDrop (s : State) (off v : Nat) : (s.setReg off v).mbDownDrop = s.mbDownDrop := rfl
@[simp] theorem State.setReg_descs (s : State) (off v : Nat) : (s.setReg off v).descs = s.descs := rfl
@[simp] theorem State.setReg_ktab (s : State) (off v : Nat) : (s.setReg off v).ktab = s.ktab := rfl
@[simp] theorem State.setReg_ikeys (s : State) (off v : Nat) : (s.setReg off v).ikeys = s.ikeys := rfl
@[simp] theorem State.setReg_migKey (s : State) (off v : Nat) : (s.setReg off v).migKey = s.migKey := rfl
@[simp] theorem State.setReg_kcache (s : State) (off v : Nat) : (s.setReg off v).kcache = s.kcache := rfl
@[simp] theorem State.setReg_sysKey (s : State) (off v : Nat) : (s.setReg off v).sysKey = s.sysKey := rfl
@[simp] theorem State.setReg_tableKey (s : State) (off v : Nat) : (s.setReg off v).tableKey = s.tableKey := rfl
@[simp] theorem State.setReg_linkKeys (s : State) (off v : Nat) : (s.setReg off v).linkKeys = s.linkKeys := rfl
@[simp] theorem State.setReg_xlat (s : State) (off v : Nat) : (s.setReg off v).xlat = s.xlat := rfl
@[simp] theorem State.setReg_spdm (s : State) (off v : Nat) : (s.setReg off v).spdm = s.spdm := rfl
@[simp] theorem State.setReg_sealCert (s : State) (off v : Nat) : (s.setReg off v).sealCert = s.sealCert := rfl
@[simp] theorem State.setReg_ideKeys (s : State) (off v : Nat) : (s.setReg off v).ideKeys = s.ideKeys := rfl
@[simp] theorem State.setReg_unsealing (s : State) (off v : Nat) : (s.setReg off v).unsealing = s.unsealing := rfl
@[simp] theorem State.setReg_ls (s : State) (off v : Nat) : (s.setReg off v).ls = s.ls := rfl
@[simp] theorem State.setReg_norms (s : State) (off v : Nat) : (s.setReg off v).norms = s.norms := rfl
@[simp] theorem State.setReg_bnorms (s : State) (off v : Nat) : (s.setReg off v).bnorms = s.bnorms := rfl
@[simp] theorem State.setReg_updLog (s : State) (off v : Nat) : (s.setReg off v).updLog = s.updLog := rfl
@[simp] theorem State.setReg_jobs (s : State) (off v : Nat) : (s.setReg off v).jobs = s.jobs := rfl
@[simp] theorem State.setReg_jobNum (s : State) (off v : Nat) : (s.setReg off v).jobNum = s.jobNum := rfl
@[simp] theorem State.setReg_ran (s : State) (off v : Nat) : (s.setReg off v).ran = s.ran := rfl
@[simp] theorem State.setReg_stage12 (s : State) (off v : Nat) : (s.setReg off v).stage12 = s.stage12 := rfl
@[simp] theorem State.setReg_mirrors (s : State) (off v : Nat) : (s.setReg off v).mirrors = s.mirrors := rfl
@[simp] theorem State.setReg_held (s : State) (off v : Nat) : (s.setReg off v).held = s.held := rfl
@[simp] theorem State.setReg_portWait (s : State) (off v : Nat) : (s.setReg off v).portWait = s.portWait := rfl
@[simp] theorem State.setReg_ueMap (s : State) (off v : Nat) : (s.setReg off v).ueMap = s.ueMap := rfl
@[simp] theorem State.setReg_peers (s : State) (off v : Nat) : (s.setReg off v).peers = s.peers := rfl
@[simp] theorem State.setReg_sent (s : State) (off v : Nat) : (s.setReg off v).sent = s.sent := rfl
@[simp] theorem State.setReg_asm (s : State) (off v : Nat) : (s.setReg off v).asm = s.asm := rfl
@[simp] theorem State.setReg_history (s : State) (off v : Nat) : (s.setReg off v).history = s.history := rfl
@[simp] theorem State.setReg_pnSeen (s : State) (off v : Nat) : (s.setReg off v).pnSeen = s.pnSeen := rfl
@[simp] theorem State.setReg_streams (s : State) (off v : Nat) : (s.setReg off v).streams = s.streams := rfl
@[simp] theorem State.setReg_grps (s : State) (off v : Nat) : (s.setReg off v).grps = s.grps := rfl
@[simp] theorem State.setReg_esc (s : State) (off v : Nat) : (s.setReg off v).esc = s.esc := rfl
@[simp] theorem State.setReg_pw (s : State) (off v : Nat) : (s.setReg off v).pw = s.pw := rfl
@[simp] theorem State.setReg_clkHot (s : State) (off v : Nat) : (s.setReg off v).clkHot = s.clkHot := rfl
@[simp] theorem State.setReg_trFifo (s : State) (off v : Nat) : (s.setReg off v).trFifo = s.trFifo := rfl
@[simp] theorem State.setReg_trDrop (s : State) (off v : Nat) : (s.setReg off v).trDrop = s.trDrop := rfl
@[simp] theorem State.setReg_trBuf (s : State) (off v : Nat) : (s.setReg off v).trBuf = s.trBuf := rfl
@[simp] theorem State.setReg_trCopy (s : State) (off v : Nat) : (s.setReg off v).trCopy = s.trCopy := rfl
@[simp] theorem State.setReg_trTo (s : State) (off v : Nat) : (s.setReg off v).trTo = s.trTo := rfl
@[simp] theorem State.setReg_bar4Log (s : State) (off v : Nat) : (s.setReg off v).bar4Log = s.bar4Log := rfl
@[simp] theorem State.setReg_slotGsq (s : State) (off v : Nat) : (s.setReg off v).slotGsq = s.slotGsq := rfl
@[simp] theorem State.setReg_refreshes (s : State) (off v : Nat) : (s.setReg off v).refreshes = s.refreshes := rfl
@[simp] theorem State.setReg_grants (s : State) (off v : Nat) : (s.setReg off v).grants = s.grants := rfl
@[simp] theorem State.setReg_released (s : State) (off v : Nat) : (s.setReg off v).released = s.released := rfl
@[simp] theorem State.setReg_plinth (s : State) (off v : Nat) : (s.setReg off v).plinth = s.plinth := rfl
@[simp] theorem State.setReg_out (s : State) (off v : Nat) : (s.setReg off v).out = s.out := rfl

/-! ### State.setCore writes cores -/

@[simp] theorem State.setCore_pending (s : State) (k : Nat) (c : Core) : (s.setCore k c).pending = s.pending := rfl
@[simp] theorem State.setCore_time (s : State) (k : Nat) (c : Core) : (s.setCore k c).time = s.time := rfl
@[simp] theorem State.setCore_regs (s : State) (k : Nat) (c : Core) : (s.setCore k c).regs = s.regs := rfl
@[simp] theorem State.setCore_lowPend (s : State) (k : Nat) (c : Core) : (s.setCore k c).lowPend = s.lowPend := rfl
@[simp] theorem State.setCore_hiLatch (s : State) (k : Nat) (c : Core) : (s.setCore k c).hiLatch = s.hiLatch := rfl
@[simp] theorem State.setCore_perstN (s : State) (k : Nat) (c : Core) : (s.setCore k c).perstN = s.perstN := rfl
@[simp] theorem State.setCore_pwrWarnN (s : State) (k : Nat) (c : Core) : (s.setCore k c).pwrWarnN = s.pwrWarnN := rfl
@[simp] theorem State.setCore_modPwrgd (s : State) (k : Nat) (c : Core) : (s.setCore k c).modPwrgd = s.modPwrgd := rfl
@[simp] theorem State.setCore_alertN (s : State) (k : Nat) (c : Core) : (s.setCore k c).alertN = s.alertN := rfl
@[simp] theorem State.setCore_rails (s : State) (k : Nat) (c : Core) : (s.setCore k c).rails = s.rails := rfl
@[simp] theorem State.setCore_inputIn (s : State) (k : Nat) (c : Core) : (s.setCore k c).inputIn = s.inputIn := rfl
@[simp] theorem State.setCore_barUp (s : State) (k : Nat) (c : Core) : (s.setCore k c).barUp = s.barUp := rfl
@[simp] theorem State.setCore_halted (s : State) (k : Nat) (c : Core) : (s.setCore k c).halted = s.halted := rfl
@[simp] theorem State.setCore_draws (s : State) (k : Nat) (c : Core) : (s.setCore k c).draws = s.draws := rfl
@[simp] theorem State.setCore_dev (s : State) (k : Nat) (c : Core) : (s.setCore k c).dev = s.dev := rfl
@[simp] theorem State.setCore_host (s : State) (k : Nat) (c : Core) : (s.setCore k c).host = s.host := rfl
@[simp] theorem State.setCore_pages (s : State) (k : Nat) (c : Core) : (s.setCore k c).pages = s.pages := rfl
@[simp] theorem State.setCore_claims (s : State) (k : Nat) (c : Core) : (s.setCore k c).claims = s.claims := rfl
@[simp] theorem State.setCore_resv (s : State) (k : Nat) (c : Core) : (s.setCore k c).resv = s.resv := rfl
@[simp] theorem State.setCore_heldBase (s : State) (k : Nat) (c : Core) : (s.setCore k c).heldBase = s.heldBase := rfl
@[simp] theorem State.setCore_poison (s : State) (k : Nat) (c : Core) : (s.setCore k c).poison = s.poison := rfl
@[simp] theorem State.setCore_retired (s : State) (k : Nat) (c : Core) : (s.setCore k c).retired = s.retired := rfl
@[simp] theorem State.setCore_pcErrs (s : State) (k : Nat) (c : Core) : (s.setCore k c).pcErrs = s.pcErrs := rfl
@[simp] theorem State.setCore_scratch (s : State) (k : Nat) (c : Core) : (s.setCore k c).scratch = s.scratch := rfl
@[simp] theorem State.setCore_journal (s : State) (k : Nat) (c : Core) : (s.setCore k c).journal = s.journal := rfl
@[simp] theorem State.setCore_accepted (s : State) (k : Nat) (c : Core) : (s.setCore k c).accepted = s.accepted := rfl
@[simp] theorem State.setCore_led (s : State) (k : Nat) (c : Core) : (s.setCore k c).led = s.led := rfl
@[simp] theorem State.setCore_lsn (s : State) (k : Nat) (c : Core) : (s.setCore k c).lsn = s.lsn := rfl
@[simp] theorem State.setCore_fenced (s : State) (k : Nat) (c : Core) : (s.setCore k c).fenced = s.fenced := rfl
@[simp] theorem State.setCore_diesOut (s : State) (k : Nat) (c : Core) : (s.setCore k c).diesOut = s.diesOut := rfl
@[simp] theorem State.setCore_dieNap (s : State) (k : Nat) (c : Core) : (s.setCore k c).dieNap = s.dieNap := rfl
@[simp] theorem State.setCore_ctx (s : State) (k : Nat) (c : Core) : (s.setCore k c).ctx = s.ctx := rfl
@[simp] theorem State.setCore_images (s : State) (k : Nat) (c : Core) : (s.setCore k c).images = s.images := rfl
@[simp] theorem State.setCore_rings (s : State) (k : Nat) (c : Core) : (s.setCore k c).rings = s.rings := rfl
@[simp] theorem State.setCore_ops (s : State) (k : Nat) (c : Core) : (s.setCore k c).ops = s.ops := rfl
@[simp] theorem State.setCore_orders (s : State) (k : Nat) (c : Core) : (s.setCore k c).orders = s.orders := rfl
@[simp] theorem State.setCore_elig (s : State) (k : Nat) (c : Core) : (s.setCore k c).elig = s.elig := rfl
@[simp] theorem State.setCore_gens (s : State) (k : Nat) (c : Core) : (s.setCore k c).gens = s.gens := rfl
@[simp] theorem State.setCore_wcGen (s : State) (k : Nat) (c : Core) : (s.setCore k c).wcGen = s.wcGen := rfl
@[simp] theorem State.setCore_vtClass (s : State) (k : Nat) (c : Core) : (s.setCore k c).vtClass = s.vtClass := rfl
@[simp] theorem State.setCore_vtPart (s : State) (k : Nat) (c : Core) : (s.setCore k c).vtPart = s.vtPart := rfl
@[simp] theorem State.setCore_insts (s : State) (k : Nat) (c : Core) : (s.setCore k c).insts = s.insts := rfl
@[simp] theorem State.setCore_parts (s : State) (k : Nat) (c : Core) : (s.setCore k c).parts = s.parts := rfl
@[simp] theorem State.setCore_mbUp (s : State) (k : Nat) (c : Core) : (s.setCore k c).mbUp = s.mbUp := rfl
@[simp] theorem State.setCore_mbDown (s : State) (k : Nat) (c : Core) : (s.setCore k c).mbDown = s.mbDown := rfl
@[simp] theorem State.setCore_mbUpOwn (s : State) (k : Nat) (c : Core) : (s.setCore k c).mbUpOwn = s.mbUpOwn := rfl
@[simp] theorem State.setCore_mbDownOwn (s : State) (k : Nat) (c : Core) : (s.setCore k c).mbDownOwn = s.mbDownOwn := rfl
@[simp] theorem State.setCore_mbUpDrop (s : State) (k : Nat) (c : Core) : (s.setCore k c).mbUpDrop = s.mbUpDrop := rfl
@[simp] theorem State.setCore_mbDownDrop (s : State) (k : Nat) (c : Core) : (s.setCore k c).mbDownDrop = s.mbDownDrop := rfl
@[simp] theorem State.setCore_descs (s : State) (k : Nat) (c : Core) : (s.setCore k c).descs = s.descs := rfl
@[simp] theorem State.setCore_ktab (s : State) (k : Nat) (c : Core) : (s.setCore k c).ktab = s.ktab := rfl
@[simp] theorem State.setCore_ikeys (s : State) (k : Nat) (c : Core) : (s.setCore k c).ikeys = s.ikeys := rfl
@[simp] theorem State.setCore_migKey (s : State) (k : Nat) (c : Core) : (s.setCore k c).migKey = s.migKey := rfl
@[simp] theorem State.setCore_kcache (s : State) (k : Nat) (c : Core) : (s.setCore k c).kcache = s.kcache := rfl
@[simp] theorem State.setCore_sysKey (s : State) (k : Nat) (c : Core) : (s.setCore k c).sysKey = s.sysKey := rfl
@[simp] theorem State.setCore_tableKey (s : State) (k : Nat) (c : Core) : (s.setCore k c).tableKey = s.tableKey := rfl
@[simp] theorem State.setCore_linkKeys (s : State) (k : Nat) (c : Core) : (s.setCore k c).linkKeys = s.linkKeys := rfl
@[simp] theorem State.setCore_xlat (s : State) (k : Nat) (c : Core) : (s.setCore k c).xlat = s.xlat := rfl
@[simp] theorem State.setCore_spdm (s : State) (k : Nat) (c : Core) : (s.setCore k c).spdm = s.spdm := rfl
@[simp] theorem State.setCore_sealCert (s : State) (k : Nat) (c : Core) : (s.setCore k c).sealCert = s.sealCert := rfl
@[simp] theorem State.setCore_ideKeys (s : State) (k : Nat) (c : Core) : (s.setCore k c).ideKeys = s.ideKeys := rfl
@[simp] theorem State.setCore_unsealing (s : State) (k : Nat) (c : Core) : (s.setCore k c).unsealing = s.unsealing := rfl
@[simp] theorem State.setCore_ls (s : State) (k : Nat) (c : Core) : (s.setCore k c).ls = s.ls := rfl
@[simp] theorem State.setCore_norms (s : State) (k : Nat) (c : Core) : (s.setCore k c).norms = s.norms := rfl
@[simp] theorem State.setCore_bnorms (s : State) (k : Nat) (c : Core) : (s.setCore k c).bnorms = s.bnorms := rfl
@[simp] theorem State.setCore_updLog (s : State) (k : Nat) (c : Core) : (s.setCore k c).updLog = s.updLog := rfl
@[simp] theorem State.setCore_jobs (s : State) (k : Nat) (c : Core) : (s.setCore k c).jobs = s.jobs := rfl
@[simp] theorem State.setCore_jobNum (s : State) (k : Nat) (c : Core) : (s.setCore k c).jobNum = s.jobNum := rfl
@[simp] theorem State.setCore_ran (s : State) (k : Nat) (c : Core) : (s.setCore k c).ran = s.ran := rfl
@[simp] theorem State.setCore_stage12 (s : State) (k : Nat) (c : Core) : (s.setCore k c).stage12 = s.stage12 := rfl
@[simp] theorem State.setCore_mirrors (s : State) (k : Nat) (c : Core) : (s.setCore k c).mirrors = s.mirrors := rfl
@[simp] theorem State.setCore_held (s : State) (k : Nat) (c : Core) : (s.setCore k c).held = s.held := rfl
@[simp] theorem State.setCore_portWait (s : State) (k : Nat) (c : Core) : (s.setCore k c).portWait = s.portWait := rfl
@[simp] theorem State.setCore_ueMap (s : State) (k : Nat) (c : Core) : (s.setCore k c).ueMap = s.ueMap := rfl
@[simp] theorem State.setCore_peers (s : State) (k : Nat) (c : Core) : (s.setCore k c).peers = s.peers := rfl
@[simp] theorem State.setCore_sent (s : State) (k : Nat) (c : Core) : (s.setCore k c).sent = s.sent := rfl
@[simp] theorem State.setCore_asm (s : State) (k : Nat) (c : Core) : (s.setCore k c).asm = s.asm := rfl
@[simp] theorem State.setCore_history (s : State) (k : Nat) (c : Core) : (s.setCore k c).history = s.history := rfl
@[simp] theorem State.setCore_pnSeen (s : State) (k : Nat) (c : Core) : (s.setCore k c).pnSeen = s.pnSeen := rfl
@[simp] theorem State.setCore_streams (s : State) (k : Nat) (c : Core) : (s.setCore k c).streams = s.streams := rfl
@[simp] theorem State.setCore_grps (s : State) (k : Nat) (c : Core) : (s.setCore k c).grps = s.grps := rfl
@[simp] theorem State.setCore_esc (s : State) (k : Nat) (c : Core) : (s.setCore k c).esc = s.esc := rfl
@[simp] theorem State.setCore_pw (s : State) (k : Nat) (c : Core) : (s.setCore k c).pw = s.pw := rfl
@[simp] theorem State.setCore_clkHot (s : State) (k : Nat) (c : Core) : (s.setCore k c).clkHot = s.clkHot := rfl
@[simp] theorem State.setCore_trFifo (s : State) (k : Nat) (c : Core) : (s.setCore k c).trFifo = s.trFifo := rfl
@[simp] theorem State.setCore_trDrop (s : State) (k : Nat) (c : Core) : (s.setCore k c).trDrop = s.trDrop := rfl
@[simp] theorem State.setCore_trBuf (s : State) (k : Nat) (c : Core) : (s.setCore k c).trBuf = s.trBuf := rfl
@[simp] theorem State.setCore_trCopy (s : State) (k : Nat) (c : Core) : (s.setCore k c).trCopy = s.trCopy := rfl
@[simp] theorem State.setCore_trTo (s : State) (k : Nat) (c : Core) : (s.setCore k c).trTo = s.trTo := rfl
@[simp] theorem State.setCore_bar4Log (s : State) (k : Nat) (c : Core) : (s.setCore k c).bar4Log = s.bar4Log := rfl
@[simp] theorem State.setCore_slotGsq (s : State) (k : Nat) (c : Core) : (s.setCore k c).slotGsq = s.slotGsq := rfl
@[simp] theorem State.setCore_refreshes (s : State) (k : Nat) (c : Core) : (s.setCore k c).refreshes = s.refreshes := rfl
@[simp] theorem State.setCore_grants (s : State) (k : Nat) (c : Core) : (s.setCore k c).grants = s.grants := rfl
@[simp] theorem State.setCore_released (s : State) (k : Nat) (c : Core) : (s.setCore k c).released = s.released := rfl
@[simp] theorem State.setCore_plinth (s : State) (k : Nat) (c : Core) : (s.setCore k c).plinth = s.plinth := rfl
@[simp] theorem State.setCore_out (s : State) (k : Nat) (c : Core) : (s.setCore k c).out = s.out := rfl

/-! ### State.updCore writes cores -/

@[simp] theorem State.updCore_pending (s : State) (k : Nat) (f : Core → Core) : (s.updCore k f).pending = s.pending := rfl
@[simp] theorem State.updCore_time (s : State) (k : Nat) (f : Core → Core) : (s.updCore k f).time = s.time := rfl
@[simp] theorem State.updCore_regs (s : State) (k : Nat) (f : Core → Core) : (s.updCore k f).regs = s.regs := rfl
@[simp] theorem State.updCore_lowPend (s : State) (k : Nat) (f : Core → Core) : (s.updCore k f).lowPend = s.lowPend := rfl
@[simp] theorem State.updCore_hiLatch (s : State) (k : Nat) (f : Core → Core) : (s.updCore k f).hiLatch = s.hiLatch := rfl
@[simp] theorem State.updCore_perstN (s : State) (k : Nat) (f : Core → Core) : (s.updCore k f).perstN = s.perstN := rfl
@[simp] theorem State.updCore_pwrWarnN (s : State) (k : Nat) (f : Core → Core) : (s.updCore k f).pwrWarnN = s.pwrWarnN := rfl
@[simp] theorem State.updCore_modPwrgd (s : State) (k : Nat) (f : Core → Core) : (s.updCore k f).modPwrgd = s.modPwrgd := rfl
@[simp] theorem State.updCore_alertN (s : State) (k : Nat) (f : Core → Core) : (s.updCore k f).alertN = s.alertN := rfl
@[simp] theorem State.updCore_rails (s : State) (k : Nat) (f : Core → Core) : (s.updCore k f).rails = s.rails := rfl
@[simp] theorem State.updCore_inputIn (s : State) (k : Nat) (f : Core → Core) : (s.updCore k f).inputIn = s.inputIn := rfl
@[simp] theorem State.updCore_barUp (s : State) (k : Nat) (f : Core → Core) : (s.updCore k f).barUp = s.barUp := rfl
@[simp] theorem State.updCore_halted (s : State) (k : Nat) (f : Core → Core) : (s.updCore k f).halted = s.halted := rfl
@[simp] theorem State.updCore_draws (s : State) (k : Nat) (f : Core → Core) : (s.updCore k f).draws = s.draws := rfl
@[simp] theorem State.updCore_dev (s : State) (k : Nat) (f : Core → Core) : (s.updCore k f).dev = s.dev := rfl
@[simp] theorem State.updCore_host (s : State) (k : Nat) (f : Core → Core) : (s.updCore k f).host = s.host := rfl
@[simp] theorem State.updCore_pages (s : State) (k : Nat) (f : Core → Core) : (s.updCore k f).pages = s.pages := rfl
@[simp] theorem State.updCore_claims (s : State) (k : Nat) (f : Core → Core) : (s.updCore k f).claims = s.claims := rfl
@[simp] theorem State.updCore_resv (s : State) (k : Nat) (f : Core → Core) : (s.updCore k f).resv = s.resv := rfl
@[simp] theorem State.updCore_heldBase (s : State) (k : Nat) (f : Core → Core) : (s.updCore k f).heldBase = s.heldBase := rfl
@[simp] theorem State.updCore_poison (s : State) (k : Nat) (f : Core → Core) : (s.updCore k f).poison = s.poison := rfl
@[simp] theorem State.updCore_retired (s : State) (k : Nat) (f : Core → Core) : (s.updCore k f).retired = s.retired := rfl
@[simp] theorem State.updCore_pcErrs (s : State) (k : Nat) (f : Core → Core) : (s.updCore k f).pcErrs = s.pcErrs := rfl
@[simp] theorem State.updCore_scratch (s : State) (k : Nat) (f : Core → Core) : (s.updCore k f).scratch = s.scratch := rfl
@[simp] theorem State.updCore_journal (s : State) (k : Nat) (f : Core → Core) : (s.updCore k f).journal = s.journal := rfl
@[simp] theorem State.updCore_accepted (s : State) (k : Nat) (f : Core → Core) : (s.updCore k f).accepted = s.accepted := rfl
@[simp] theorem State.updCore_led (s : State) (k : Nat) (f : Core → Core) : (s.updCore k f).led = s.led := rfl
@[simp] theorem State.updCore_lsn (s : State) (k : Nat) (f : Core → Core) : (s.updCore k f).lsn = s.lsn := rfl
@[simp] theorem State.updCore_fenced (s : State) (k : Nat) (f : Core → Core) : (s.updCore k f).fenced = s.fenced := rfl
@[simp] theorem State.updCore_diesOut (s : State) (k : Nat) (f : Core → Core) : (s.updCore k f).diesOut = s.diesOut := rfl
@[simp] theorem State.updCore_dieNap (s : State) (k : Nat) (f : Core → Core) : (s.updCore k f).dieNap = s.dieNap := rfl
@[simp] theorem State.updCore_ctx (s : State) (k : Nat) (f : Core → Core) : (s.updCore k f).ctx = s.ctx := rfl
@[simp] theorem State.updCore_images (s : State) (k : Nat) (f : Core → Core) : (s.updCore k f).images = s.images := rfl
@[simp] theorem State.updCore_rings (s : State) (k : Nat) (f : Core → Core) : (s.updCore k f).rings = s.rings := rfl
@[simp] theorem State.updCore_ops (s : State) (k : Nat) (f : Core → Core) : (s.updCore k f).ops = s.ops := rfl
@[simp] theorem State.updCore_orders (s : State) (k : Nat) (f : Core → Core) : (s.updCore k f).orders = s.orders := rfl
@[simp] theorem State.updCore_elig (s : State) (k : Nat) (f : Core → Core) : (s.updCore k f).elig = s.elig := rfl
@[simp] theorem State.updCore_gens (s : State) (k : Nat) (f : Core → Core) : (s.updCore k f).gens = s.gens := rfl
@[simp] theorem State.updCore_wcGen (s : State) (k : Nat) (f : Core → Core) : (s.updCore k f).wcGen = s.wcGen := rfl
@[simp] theorem State.updCore_vtClass (s : State) (k : Nat) (f : Core → Core) : (s.updCore k f).vtClass = s.vtClass := rfl
@[simp] theorem State.updCore_vtPart (s : State) (k : Nat) (f : Core → Core) : (s.updCore k f).vtPart = s.vtPart := rfl
@[simp] theorem State.updCore_insts (s : State) (k : Nat) (f : Core → Core) : (s.updCore k f).insts = s.insts := rfl
@[simp] theorem State.updCore_parts (s : State) (k : Nat) (f : Core → Core) : (s.updCore k f).parts = s.parts := rfl
@[simp] theorem State.updCore_mbUp (s : State) (k : Nat) (f : Core → Core) : (s.updCore k f).mbUp = s.mbUp := rfl
@[simp] theorem State.updCore_mbDown (s : State) (k : Nat) (f : Core → Core) : (s.updCore k f).mbDown = s.mbDown := rfl
@[simp] theorem State.updCore_mbUpOwn (s : State) (k : Nat) (f : Core → Core) : (s.updCore k f).mbUpOwn = s.mbUpOwn := rfl
@[simp] theorem State.updCore_mbDownOwn (s : State) (k : Nat) (f : Core → Core) : (s.updCore k f).mbDownOwn = s.mbDownOwn := rfl
@[simp] theorem State.updCore_mbUpDrop (s : State) (k : Nat) (f : Core → Core) : (s.updCore k f).mbUpDrop = s.mbUpDrop := rfl
@[simp] theorem State.updCore_mbDownDrop (s : State) (k : Nat) (f : Core → Core) : (s.updCore k f).mbDownDrop = s.mbDownDrop := rfl
@[simp] theorem State.updCore_descs (s : State) (k : Nat) (f : Core → Core) : (s.updCore k f).descs = s.descs := rfl
@[simp] theorem State.updCore_ktab (s : State) (k : Nat) (f : Core → Core) : (s.updCore k f).ktab = s.ktab := rfl
@[simp] theorem State.updCore_ikeys (s : State) (k : Nat) (f : Core → Core) : (s.updCore k f).ikeys = s.ikeys := rfl
@[simp] theorem State.updCore_migKey (s : State) (k : Nat) (f : Core → Core) : (s.updCore k f).migKey = s.migKey := rfl
@[simp] theorem State.updCore_kcache (s : State) (k : Nat) (f : Core → Core) : (s.updCore k f).kcache = s.kcache := rfl
@[simp] theorem State.updCore_sysKey (s : State) (k : Nat) (f : Core → Core) : (s.updCore k f).sysKey = s.sysKey := rfl
@[simp] theorem State.updCore_tableKey (s : State) (k : Nat) (f : Core → Core) : (s.updCore k f).tableKey = s.tableKey := rfl
@[simp] theorem State.updCore_linkKeys (s : State) (k : Nat) (f : Core → Core) : (s.updCore k f).linkKeys = s.linkKeys := rfl
@[simp] theorem State.updCore_xlat (s : State) (k : Nat) (f : Core → Core) : (s.updCore k f).xlat = s.xlat := rfl
@[simp] theorem State.updCore_spdm (s : State) (k : Nat) (f : Core → Core) : (s.updCore k f).spdm = s.spdm := rfl
@[simp] theorem State.updCore_sealCert (s : State) (k : Nat) (f : Core → Core) : (s.updCore k f).sealCert = s.sealCert := rfl
@[simp] theorem State.updCore_ideKeys (s : State) (k : Nat) (f : Core → Core) : (s.updCore k f).ideKeys = s.ideKeys := rfl
@[simp] theorem State.updCore_unsealing (s : State) (k : Nat) (f : Core → Core) : (s.updCore k f).unsealing = s.unsealing := rfl
@[simp] theorem State.updCore_ls (s : State) (k : Nat) (f : Core → Core) : (s.updCore k f).ls = s.ls := rfl
@[simp] theorem State.updCore_norms (s : State) (k : Nat) (f : Core → Core) : (s.updCore k f).norms = s.norms := rfl
@[simp] theorem State.updCore_bnorms (s : State) (k : Nat) (f : Core → Core) : (s.updCore k f).bnorms = s.bnorms := rfl
@[simp] theorem State.updCore_updLog (s : State) (k : Nat) (f : Core → Core) : (s.updCore k f).updLog = s.updLog := rfl
@[simp] theorem State.updCore_jobs (s : State) (k : Nat) (f : Core → Core) : (s.updCore k f).jobs = s.jobs := rfl
@[simp] theorem State.updCore_jobNum (s : State) (k : Nat) (f : Core → Core) : (s.updCore k f).jobNum = s.jobNum := rfl
@[simp] theorem State.updCore_ran (s : State) (k : Nat) (f : Core → Core) : (s.updCore k f).ran = s.ran := rfl
@[simp] theorem State.updCore_stage12 (s : State) (k : Nat) (f : Core → Core) : (s.updCore k f).stage12 = s.stage12 := rfl
@[simp] theorem State.updCore_mirrors (s : State) (k : Nat) (f : Core → Core) : (s.updCore k f).mirrors = s.mirrors := rfl
@[simp] theorem State.updCore_held (s : State) (k : Nat) (f : Core → Core) : (s.updCore k f).held = s.held := rfl
@[simp] theorem State.updCore_portWait (s : State) (k : Nat) (f : Core → Core) : (s.updCore k f).portWait = s.portWait := rfl
@[simp] theorem State.updCore_ueMap (s : State) (k : Nat) (f : Core → Core) : (s.updCore k f).ueMap = s.ueMap := rfl
@[simp] theorem State.updCore_peers (s : State) (k : Nat) (f : Core → Core) : (s.updCore k f).peers = s.peers := rfl
@[simp] theorem State.updCore_sent (s : State) (k : Nat) (f : Core → Core) : (s.updCore k f).sent = s.sent := rfl
@[simp] theorem State.updCore_asm (s : State) (k : Nat) (f : Core → Core) : (s.updCore k f).asm = s.asm := rfl
@[simp] theorem State.updCore_history (s : State) (k : Nat) (f : Core → Core) : (s.updCore k f).history = s.history := rfl
@[simp] theorem State.updCore_pnSeen (s : State) (k : Nat) (f : Core → Core) : (s.updCore k f).pnSeen = s.pnSeen := rfl
@[simp] theorem State.updCore_streams (s : State) (k : Nat) (f : Core → Core) : (s.updCore k f).streams = s.streams := rfl
@[simp] theorem State.updCore_grps (s : State) (k : Nat) (f : Core → Core) : (s.updCore k f).grps = s.grps := rfl
@[simp] theorem State.updCore_esc (s : State) (k : Nat) (f : Core → Core) : (s.updCore k f).esc = s.esc := rfl
@[simp] theorem State.updCore_pw (s : State) (k : Nat) (f : Core → Core) : (s.updCore k f).pw = s.pw := rfl
@[simp] theorem State.updCore_clkHot (s : State) (k : Nat) (f : Core → Core) : (s.updCore k f).clkHot = s.clkHot := rfl
@[simp] theorem State.updCore_trFifo (s : State) (k : Nat) (f : Core → Core) : (s.updCore k f).trFifo = s.trFifo := rfl
@[simp] theorem State.updCore_trDrop (s : State) (k : Nat) (f : Core → Core) : (s.updCore k f).trDrop = s.trDrop := rfl
@[simp] theorem State.updCore_trBuf (s : State) (k : Nat) (f : Core → Core) : (s.updCore k f).trBuf = s.trBuf := rfl
@[simp] theorem State.updCore_trCopy (s : State) (k : Nat) (f : Core → Core) : (s.updCore k f).trCopy = s.trCopy := rfl
@[simp] theorem State.updCore_trTo (s : State) (k : Nat) (f : Core → Core) : (s.updCore k f).trTo = s.trTo := rfl
@[simp] theorem State.updCore_bar4Log (s : State) (k : Nat) (f : Core → Core) : (s.updCore k f).bar4Log = s.bar4Log := rfl
@[simp] theorem State.updCore_slotGsq (s : State) (k : Nat) (f : Core → Core) : (s.updCore k f).slotGsq = s.slotGsq := rfl
@[simp] theorem State.updCore_refreshes (s : State) (k : Nat) (f : Core → Core) : (s.updCore k f).refreshes = s.refreshes := rfl
@[simp] theorem State.updCore_grants (s : State) (k : Nat) (f : Core → Core) : (s.updCore k f).grants = s.grants := rfl
@[simp] theorem State.updCore_released (s : State) (k : Nat) (f : Core → Core) : (s.updCore k f).released = s.released := rfl
@[simp] theorem State.updCore_plinth (s : State) (k : Nat) (f : Core → Core) : (s.updCore k f).plinth = s.plinth := rfl
@[simp] theorem State.updCore_out (s : State) (k : Nat) (f : Core → Core) : (s.updCore k f).out = s.out := rfl

/-! ### State.updInst writes insts -/

@[simp] theorem State.updInst_pending (s : State) (i : Nat) (f : InstX → InstX) : (s.updInst i f).pending = s.pending := rfl
@[simp] theorem State.updInst_time (s : State) (i : Nat) (f : InstX → InstX) : (s.updInst i f).time = s.time := rfl
@[simp] theorem State.updInst_regs (s : State) (i : Nat) (f : InstX → InstX) : (s.updInst i f).regs = s.regs := rfl
@[simp] theorem State.updInst_lowPend (s : State) (i : Nat) (f : InstX → InstX) : (s.updInst i f).lowPend = s.lowPend := rfl
@[simp] theorem State.updInst_hiLatch (s : State) (i : Nat) (f : InstX → InstX) : (s.updInst i f).hiLatch = s.hiLatch := rfl
@[simp] theorem State.updInst_perstN (s : State) (i : Nat) (f : InstX → InstX) : (s.updInst i f).perstN = s.perstN := rfl
@[simp] theorem State.updInst_pwrWarnN (s : State) (i : Nat) (f : InstX → InstX) : (s.updInst i f).pwrWarnN = s.pwrWarnN := rfl
@[simp] theorem State.updInst_modPwrgd (s : State) (i : Nat) (f : InstX → InstX) : (s.updInst i f).modPwrgd = s.modPwrgd := rfl
@[simp] theorem State.updInst_alertN (s : State) (i : Nat) (f : InstX → InstX) : (s.updInst i f).alertN = s.alertN := rfl
@[simp] theorem State.updInst_rails (s : State) (i : Nat) (f : InstX → InstX) : (s.updInst i f).rails = s.rails := rfl
@[simp] theorem State.updInst_inputIn (s : State) (i : Nat) (f : InstX → InstX) : (s.updInst i f).inputIn = s.inputIn := rfl
@[simp] theorem State.updInst_barUp (s : State) (i : Nat) (f : InstX → InstX) : (s.updInst i f).barUp = s.barUp := rfl
@[simp] theorem State.updInst_halted (s : State) (i : Nat) (f : InstX → InstX) : (s.updInst i f).halted = s.halted := rfl
@[simp] theorem State.updInst_draws (s : State) (i : Nat) (f : InstX → InstX) : (s.updInst i f).draws = s.draws := rfl
@[simp] theorem State.updInst_dev (s : State) (i : Nat) (f : InstX → InstX) : (s.updInst i f).dev = s.dev := rfl
@[simp] theorem State.updInst_host (s : State) (i : Nat) (f : InstX → InstX) : (s.updInst i f).host = s.host := rfl
@[simp] theorem State.updInst_pages (s : State) (i : Nat) (f : InstX → InstX) : (s.updInst i f).pages = s.pages := rfl
@[simp] theorem State.updInst_claims (s : State) (i : Nat) (f : InstX → InstX) : (s.updInst i f).claims = s.claims := rfl
@[simp] theorem State.updInst_resv (s : State) (i : Nat) (f : InstX → InstX) : (s.updInst i f).resv = s.resv := rfl
@[simp] theorem State.updInst_heldBase (s : State) (i : Nat) (f : InstX → InstX) : (s.updInst i f).heldBase = s.heldBase := rfl
@[simp] theorem State.updInst_poison (s : State) (i : Nat) (f : InstX → InstX) : (s.updInst i f).poison = s.poison := rfl
@[simp] theorem State.updInst_retired (s : State) (i : Nat) (f : InstX → InstX) : (s.updInst i f).retired = s.retired := rfl
@[simp] theorem State.updInst_pcErrs (s : State) (i : Nat) (f : InstX → InstX) : (s.updInst i f).pcErrs = s.pcErrs := rfl
@[simp] theorem State.updInst_cores (s : State) (i : Nat) (f : InstX → InstX) : (s.updInst i f).cores = s.cores := rfl
@[simp] theorem State.updInst_scratch (s : State) (i : Nat) (f : InstX → InstX) : (s.updInst i f).scratch = s.scratch := rfl
@[simp] theorem State.updInst_journal (s : State) (i : Nat) (f : InstX → InstX) : (s.updInst i f).journal = s.journal := rfl
@[simp] theorem State.updInst_accepted (s : State) (i : Nat) (f : InstX → InstX) : (s.updInst i f).accepted = s.accepted := rfl
@[simp] theorem State.updInst_led (s : State) (i : Nat) (f : InstX → InstX) : (s.updInst i f).led = s.led := rfl
@[simp] theorem State.updInst_lsn (s : State) (i : Nat) (f : InstX → InstX) : (s.updInst i f).lsn = s.lsn := rfl
@[simp] theorem State.updInst_fenced (s : State) (i : Nat) (f : InstX → InstX) : (s.updInst i f).fenced = s.fenced := rfl
@[simp] theorem State.updInst_diesOut (s : State) (i : Nat) (f : InstX → InstX) : (s.updInst i f).diesOut = s.diesOut := rfl
@[simp] theorem State.updInst_dieNap (s : State) (i : Nat) (f : InstX → InstX) : (s.updInst i f).dieNap = s.dieNap := rfl
@[simp] theorem State.updInst_ctx (s : State) (i : Nat) (f : InstX → InstX) : (s.updInst i f).ctx = s.ctx := rfl
@[simp] theorem State.updInst_images (s : State) (i : Nat) (f : InstX → InstX) : (s.updInst i f).images = s.images := rfl
@[simp] theorem State.updInst_rings (s : State) (i : Nat) (f : InstX → InstX) : (s.updInst i f).rings = s.rings := rfl
@[simp] theorem State.updInst_ops (s : State) (i : Nat) (f : InstX → InstX) : (s.updInst i f).ops = s.ops := rfl
@[simp] theorem State.updInst_orders (s : State) (i : Nat) (f : InstX → InstX) : (s.updInst i f).orders = s.orders := rfl
@[simp] theorem State.updInst_elig (s : State) (i : Nat) (f : InstX → InstX) : (s.updInst i f).elig = s.elig := rfl
@[simp] theorem State.updInst_gens (s : State) (i : Nat) (f : InstX → InstX) : (s.updInst i f).gens = s.gens := rfl
@[simp] theorem State.updInst_wcGen (s : State) (i : Nat) (f : InstX → InstX) : (s.updInst i f).wcGen = s.wcGen := rfl
@[simp] theorem State.updInst_vtClass (s : State) (i : Nat) (f : InstX → InstX) : (s.updInst i f).vtClass = s.vtClass := rfl
@[simp] theorem State.updInst_vtPart (s : State) (i : Nat) (f : InstX → InstX) : (s.updInst i f).vtPart = s.vtPart := rfl
@[simp] theorem State.updInst_parts (s : State) (i : Nat) (f : InstX → InstX) : (s.updInst i f).parts = s.parts := rfl
@[simp] theorem State.updInst_mbUp (s : State) (i : Nat) (f : InstX → InstX) : (s.updInst i f).mbUp = s.mbUp := rfl
@[simp] theorem State.updInst_mbDown (s : State) (i : Nat) (f : InstX → InstX) : (s.updInst i f).mbDown = s.mbDown := rfl
@[simp] theorem State.updInst_mbUpOwn (s : State) (i : Nat) (f : InstX → InstX) : (s.updInst i f).mbUpOwn = s.mbUpOwn := rfl
@[simp] theorem State.updInst_mbDownOwn (s : State) (i : Nat) (f : InstX → InstX) : (s.updInst i f).mbDownOwn = s.mbDownOwn := rfl
@[simp] theorem State.updInst_mbUpDrop (s : State) (i : Nat) (f : InstX → InstX) : (s.updInst i f).mbUpDrop = s.mbUpDrop := rfl
@[simp] theorem State.updInst_mbDownDrop (s : State) (i : Nat) (f : InstX → InstX) : (s.updInst i f).mbDownDrop = s.mbDownDrop := rfl
@[simp] theorem State.updInst_descs (s : State) (i : Nat) (f : InstX → InstX) : (s.updInst i f).descs = s.descs := rfl
@[simp] theorem State.updInst_ktab (s : State) (i : Nat) (f : InstX → InstX) : (s.updInst i f).ktab = s.ktab := rfl
@[simp] theorem State.updInst_ikeys (s : State) (i : Nat) (f : InstX → InstX) : (s.updInst i f).ikeys = s.ikeys := rfl
@[simp] theorem State.updInst_migKey (s : State) (i : Nat) (f : InstX → InstX) : (s.updInst i f).migKey = s.migKey := rfl
@[simp] theorem State.updInst_kcache (s : State) (i : Nat) (f : InstX → InstX) : (s.updInst i f).kcache = s.kcache := rfl
@[simp] theorem State.updInst_sysKey (s : State) (i : Nat) (f : InstX → InstX) : (s.updInst i f).sysKey = s.sysKey := rfl
@[simp] theorem State.updInst_tableKey (s : State) (i : Nat) (f : InstX → InstX) : (s.updInst i f).tableKey = s.tableKey := rfl
@[simp] theorem State.updInst_linkKeys (s : State) (i : Nat) (f : InstX → InstX) : (s.updInst i f).linkKeys = s.linkKeys := rfl
@[simp] theorem State.updInst_xlat (s : State) (i : Nat) (f : InstX → InstX) : (s.updInst i f).xlat = s.xlat := rfl
@[simp] theorem State.updInst_spdm (s : State) (i : Nat) (f : InstX → InstX) : (s.updInst i f).spdm = s.spdm := rfl
@[simp] theorem State.updInst_sealCert (s : State) (i : Nat) (f : InstX → InstX) : (s.updInst i f).sealCert = s.sealCert := rfl
@[simp] theorem State.updInst_ideKeys (s : State) (i : Nat) (f : InstX → InstX) : (s.updInst i f).ideKeys = s.ideKeys := rfl
@[simp] theorem State.updInst_unsealing (s : State) (i : Nat) (f : InstX → InstX) : (s.updInst i f).unsealing = s.unsealing := rfl
@[simp] theorem State.updInst_ls (s : State) (i : Nat) (f : InstX → InstX) : (s.updInst i f).ls = s.ls := rfl
@[simp] theorem State.updInst_norms (s : State) (i : Nat) (f : InstX → InstX) : (s.updInst i f).norms = s.norms := rfl
@[simp] theorem State.updInst_bnorms (s : State) (i : Nat) (f : InstX → InstX) : (s.updInst i f).bnorms = s.bnorms := rfl
@[simp] theorem State.updInst_updLog (s : State) (i : Nat) (f : InstX → InstX) : (s.updInst i f).updLog = s.updLog := rfl
@[simp] theorem State.updInst_jobs (s : State) (i : Nat) (f : InstX → InstX) : (s.updInst i f).jobs = s.jobs := rfl
@[simp] theorem State.updInst_jobNum (s : State) (i : Nat) (f : InstX → InstX) : (s.updInst i f).jobNum = s.jobNum := rfl
@[simp] theorem State.updInst_ran (s : State) (i : Nat) (f : InstX → InstX) : (s.updInst i f).ran = s.ran := rfl
@[simp] theorem State.updInst_stage12 (s : State) (i : Nat) (f : InstX → InstX) : (s.updInst i f).stage12 = s.stage12 := rfl
@[simp] theorem State.updInst_mirrors (s : State) (i : Nat) (f : InstX → InstX) : (s.updInst i f).mirrors = s.mirrors := rfl
@[simp] theorem State.updInst_held (s : State) (i : Nat) (f : InstX → InstX) : (s.updInst i f).held = s.held := rfl
@[simp] theorem State.updInst_portWait (s : State) (i : Nat) (f : InstX → InstX) : (s.updInst i f).portWait = s.portWait := rfl
@[simp] theorem State.updInst_ueMap (s : State) (i : Nat) (f : InstX → InstX) : (s.updInst i f).ueMap = s.ueMap := rfl
@[simp] theorem State.updInst_peers (s : State) (i : Nat) (f : InstX → InstX) : (s.updInst i f).peers = s.peers := rfl
@[simp] theorem State.updInst_sent (s : State) (i : Nat) (f : InstX → InstX) : (s.updInst i f).sent = s.sent := rfl
@[simp] theorem State.updInst_asm (s : State) (i : Nat) (f : InstX → InstX) : (s.updInst i f).asm = s.asm := rfl
@[simp] theorem State.updInst_history (s : State) (i : Nat) (f : InstX → InstX) : (s.updInst i f).history = s.history := rfl
@[simp] theorem State.updInst_pnSeen (s : State) (i : Nat) (f : InstX → InstX) : (s.updInst i f).pnSeen = s.pnSeen := rfl
@[simp] theorem State.updInst_streams (s : State) (i : Nat) (f : InstX → InstX) : (s.updInst i f).streams = s.streams := rfl
@[simp] theorem State.updInst_grps (s : State) (i : Nat) (f : InstX → InstX) : (s.updInst i f).grps = s.grps := rfl
@[simp] theorem State.updInst_esc (s : State) (i : Nat) (f : InstX → InstX) : (s.updInst i f).esc = s.esc := rfl
@[simp] theorem State.updInst_pw (s : State) (i : Nat) (f : InstX → InstX) : (s.updInst i f).pw = s.pw := rfl
@[simp] theorem State.updInst_clkHot (s : State) (i : Nat) (f : InstX → InstX) : (s.updInst i f).clkHot = s.clkHot := rfl
@[simp] theorem State.updInst_trFifo (s : State) (i : Nat) (f : InstX → InstX) : (s.updInst i f).trFifo = s.trFifo := rfl
@[simp] theorem State.updInst_trDrop (s : State) (i : Nat) (f : InstX → InstX) : (s.updInst i f).trDrop = s.trDrop := rfl
@[simp] theorem State.updInst_trBuf (s : State) (i : Nat) (f : InstX → InstX) : (s.updInst i f).trBuf = s.trBuf := rfl
@[simp] theorem State.updInst_trCopy (s : State) (i : Nat) (f : InstX → InstX) : (s.updInst i f).trCopy = s.trCopy := rfl
@[simp] theorem State.updInst_trTo (s : State) (i : Nat) (f : InstX → InstX) : (s.updInst i f).trTo = s.trTo := rfl
@[simp] theorem State.updInst_bar4Log (s : State) (i : Nat) (f : InstX → InstX) : (s.updInst i f).bar4Log = s.bar4Log := rfl
@[simp] theorem State.updInst_slotGsq (s : State) (i : Nat) (f : InstX → InstX) : (s.updInst i f).slotGsq = s.slotGsq := rfl
@[simp] theorem State.updInst_refreshes (s : State) (i : Nat) (f : InstX → InstX) : (s.updInst i f).refreshes = s.refreshes := rfl
@[simp] theorem State.updInst_grants (s : State) (i : Nat) (f : InstX → InstX) : (s.updInst i f).grants = s.grants := rfl
@[simp] theorem State.updInst_released (s : State) (i : Nat) (f : InstX → InstX) : (s.updInst i f).released = s.released := rfl
@[simp] theorem State.updInst_plinth (s : State) (i : Nat) (f : InstX → InstX) : (s.updInst i f).plinth = s.plinth := rfl
@[simp] theorem State.updInst_out (s : State) (i : Nat) (f : InstX → InstX) : (s.updInst i f).out = s.out := rfl

/-! ### State.updPart writes parts -/

@[simp] theorem State.updPart_pending (s : State) (p : Nat) (f : PartX → PartX) : (s.updPart p f).pending = s.pending := rfl
@[simp] theorem State.updPart_time (s : State) (p : Nat) (f : PartX → PartX) : (s.updPart p f).time = s.time := rfl
@[simp] theorem State.updPart_regs (s : State) (p : Nat) (f : PartX → PartX) : (s.updPart p f).regs = s.regs := rfl
@[simp] theorem State.updPart_lowPend (s : State) (p : Nat) (f : PartX → PartX) : (s.updPart p f).lowPend = s.lowPend := rfl
@[simp] theorem State.updPart_hiLatch (s : State) (p : Nat) (f : PartX → PartX) : (s.updPart p f).hiLatch = s.hiLatch := rfl
@[simp] theorem State.updPart_perstN (s : State) (p : Nat) (f : PartX → PartX) : (s.updPart p f).perstN = s.perstN := rfl
@[simp] theorem State.updPart_pwrWarnN (s : State) (p : Nat) (f : PartX → PartX) : (s.updPart p f).pwrWarnN = s.pwrWarnN := rfl
@[simp] theorem State.updPart_modPwrgd (s : State) (p : Nat) (f : PartX → PartX) : (s.updPart p f).modPwrgd = s.modPwrgd := rfl
@[simp] theorem State.updPart_alertN (s : State) (p : Nat) (f : PartX → PartX) : (s.updPart p f).alertN = s.alertN := rfl
@[simp] theorem State.updPart_rails (s : State) (p : Nat) (f : PartX → PartX) : (s.updPart p f).rails = s.rails := rfl
@[simp] theorem State.updPart_inputIn (s : State) (p : Nat) (f : PartX → PartX) : (s.updPart p f).inputIn = s.inputIn := rfl
@[simp] theorem State.updPart_barUp (s : State) (p : Nat) (f : PartX → PartX) : (s.updPart p f).barUp = s.barUp := rfl
@[simp] theorem State.updPart_halted (s : State) (p : Nat) (f : PartX → PartX) : (s.updPart p f).halted = s.halted := rfl
@[simp] theorem State.updPart_draws (s : State) (p : Nat) (f : PartX → PartX) : (s.updPart p f).draws = s.draws := rfl
@[simp] theorem State.updPart_dev (s : State) (p : Nat) (f : PartX → PartX) : (s.updPart p f).dev = s.dev := rfl
@[simp] theorem State.updPart_host (s : State) (p : Nat) (f : PartX → PartX) : (s.updPart p f).host = s.host := rfl
@[simp] theorem State.updPart_pages (s : State) (p : Nat) (f : PartX → PartX) : (s.updPart p f).pages = s.pages := rfl
@[simp] theorem State.updPart_claims (s : State) (p : Nat) (f : PartX → PartX) : (s.updPart p f).claims = s.claims := rfl
@[simp] theorem State.updPart_resv (s : State) (p : Nat) (f : PartX → PartX) : (s.updPart p f).resv = s.resv := rfl
@[simp] theorem State.updPart_heldBase (s : State) (p : Nat) (f : PartX → PartX) : (s.updPart p f).heldBase = s.heldBase := rfl
@[simp] theorem State.updPart_poison (s : State) (p : Nat) (f : PartX → PartX) : (s.updPart p f).poison = s.poison := rfl
@[simp] theorem State.updPart_retired (s : State) (p : Nat) (f : PartX → PartX) : (s.updPart p f).retired = s.retired := rfl
@[simp] theorem State.updPart_pcErrs (s : State) (p : Nat) (f : PartX → PartX) : (s.updPart p f).pcErrs = s.pcErrs := rfl
@[simp] theorem State.updPart_cores (s : State) (p : Nat) (f : PartX → PartX) : (s.updPart p f).cores = s.cores := rfl
@[simp] theorem State.updPart_scratch (s : State) (p : Nat) (f : PartX → PartX) : (s.updPart p f).scratch = s.scratch := rfl
@[simp] theorem State.updPart_journal (s : State) (p : Nat) (f : PartX → PartX) : (s.updPart p f).journal = s.journal := rfl
@[simp] theorem State.updPart_accepted (s : State) (p : Nat) (f : PartX → PartX) : (s.updPart p f).accepted = s.accepted := rfl
@[simp] theorem State.updPart_led (s : State) (p : Nat) (f : PartX → PartX) : (s.updPart p f).led = s.led := rfl
@[simp] theorem State.updPart_lsn (s : State) (p : Nat) (f : PartX → PartX) : (s.updPart p f).lsn = s.lsn := rfl
@[simp] theorem State.updPart_fenced (s : State) (p : Nat) (f : PartX → PartX) : (s.updPart p f).fenced = s.fenced := rfl
@[simp] theorem State.updPart_diesOut (s : State) (p : Nat) (f : PartX → PartX) : (s.updPart p f).diesOut = s.diesOut := rfl
@[simp] theorem State.updPart_dieNap (s : State) (p : Nat) (f : PartX → PartX) : (s.updPart p f).dieNap = s.dieNap := rfl
@[simp] theorem State.updPart_ctx (s : State) (p : Nat) (f : PartX → PartX) : (s.updPart p f).ctx = s.ctx := rfl
@[simp] theorem State.updPart_images (s : State) (p : Nat) (f : PartX → PartX) : (s.updPart p f).images = s.images := rfl
@[simp] theorem State.updPart_rings (s : State) (p : Nat) (f : PartX → PartX) : (s.updPart p f).rings = s.rings := rfl
@[simp] theorem State.updPart_ops (s : State) (p : Nat) (f : PartX → PartX) : (s.updPart p f).ops = s.ops := rfl
@[simp] theorem State.updPart_orders (s : State) (p : Nat) (f : PartX → PartX) : (s.updPart p f).orders = s.orders := rfl
@[simp] theorem State.updPart_elig (s : State) (p : Nat) (f : PartX → PartX) : (s.updPart p f).elig = s.elig := rfl
@[simp] theorem State.updPart_gens (s : State) (p : Nat) (f : PartX → PartX) : (s.updPart p f).gens = s.gens := rfl
@[simp] theorem State.updPart_wcGen (s : State) (p : Nat) (f : PartX → PartX) : (s.updPart p f).wcGen = s.wcGen := rfl
@[simp] theorem State.updPart_vtClass (s : State) (p : Nat) (f : PartX → PartX) : (s.updPart p f).vtClass = s.vtClass := rfl
@[simp] theorem State.updPart_vtPart (s : State) (p : Nat) (f : PartX → PartX) : (s.updPart p f).vtPart = s.vtPart := rfl
@[simp] theorem State.updPart_insts (s : State) (p : Nat) (f : PartX → PartX) : (s.updPart p f).insts = s.insts := rfl
@[simp] theorem State.updPart_mbUp (s : State) (p : Nat) (f : PartX → PartX) : (s.updPart p f).mbUp = s.mbUp := rfl
@[simp] theorem State.updPart_mbDown (s : State) (p : Nat) (f : PartX → PartX) : (s.updPart p f).mbDown = s.mbDown := rfl
@[simp] theorem State.updPart_mbUpOwn (s : State) (p : Nat) (f : PartX → PartX) : (s.updPart p f).mbUpOwn = s.mbUpOwn := rfl
@[simp] theorem State.updPart_mbDownOwn (s : State) (p : Nat) (f : PartX → PartX) : (s.updPart p f).mbDownOwn = s.mbDownOwn := rfl
@[simp] theorem State.updPart_mbUpDrop (s : State) (p : Nat) (f : PartX → PartX) : (s.updPart p f).mbUpDrop = s.mbUpDrop := rfl
@[simp] theorem State.updPart_mbDownDrop (s : State) (p : Nat) (f : PartX → PartX) : (s.updPart p f).mbDownDrop = s.mbDownDrop := rfl
@[simp] theorem State.updPart_descs (s : State) (p : Nat) (f : PartX → PartX) : (s.updPart p f).descs = s.descs := rfl
@[simp] theorem State.updPart_ktab (s : State) (p : Nat) (f : PartX → PartX) : (s.updPart p f).ktab = s.ktab := rfl
@[simp] theorem State.updPart_ikeys (s : State) (p : Nat) (f : PartX → PartX) : (s.updPart p f).ikeys = s.ikeys := rfl
@[simp] theorem State.updPart_migKey (s : State) (p : Nat) (f : PartX → PartX) : (s.updPart p f).migKey = s.migKey := rfl
@[simp] theorem State.updPart_kcache (s : State) (p : Nat) (f : PartX → PartX) : (s.updPart p f).kcache = s.kcache := rfl
@[simp] theorem State.updPart_sysKey (s : State) (p : Nat) (f : PartX → PartX) : (s.updPart p f).sysKey = s.sysKey := rfl
@[simp] theorem State.updPart_tableKey (s : State) (p : Nat) (f : PartX → PartX) : (s.updPart p f).tableKey = s.tableKey := rfl
@[simp] theorem State.updPart_linkKeys (s : State) (p : Nat) (f : PartX → PartX) : (s.updPart p f).linkKeys = s.linkKeys := rfl
@[simp] theorem State.updPart_xlat (s : State) (p : Nat) (f : PartX → PartX) : (s.updPart p f).xlat = s.xlat := rfl
@[simp] theorem State.updPart_spdm (s : State) (p : Nat) (f : PartX → PartX) : (s.updPart p f).spdm = s.spdm := rfl
@[simp] theorem State.updPart_sealCert (s : State) (p : Nat) (f : PartX → PartX) : (s.updPart p f).sealCert = s.sealCert := rfl
@[simp] theorem State.updPart_ideKeys (s : State) (p : Nat) (f : PartX → PartX) : (s.updPart p f).ideKeys = s.ideKeys := rfl
@[simp] theorem State.updPart_unsealing (s : State) (p : Nat) (f : PartX → PartX) : (s.updPart p f).unsealing = s.unsealing := rfl
@[simp] theorem State.updPart_ls (s : State) (p : Nat) (f : PartX → PartX) : (s.updPart p f).ls = s.ls := rfl
@[simp] theorem State.updPart_norms (s : State) (p : Nat) (f : PartX → PartX) : (s.updPart p f).norms = s.norms := rfl
@[simp] theorem State.updPart_bnorms (s : State) (p : Nat) (f : PartX → PartX) : (s.updPart p f).bnorms = s.bnorms := rfl
@[simp] theorem State.updPart_updLog (s : State) (p : Nat) (f : PartX → PartX) : (s.updPart p f).updLog = s.updLog := rfl
@[simp] theorem State.updPart_jobs (s : State) (p : Nat) (f : PartX → PartX) : (s.updPart p f).jobs = s.jobs := rfl
@[simp] theorem State.updPart_jobNum (s : State) (p : Nat) (f : PartX → PartX) : (s.updPart p f).jobNum = s.jobNum := rfl
@[simp] theorem State.updPart_ran (s : State) (p : Nat) (f : PartX → PartX) : (s.updPart p f).ran = s.ran := rfl
@[simp] theorem State.updPart_stage12 (s : State) (p : Nat) (f : PartX → PartX) : (s.updPart p f).stage12 = s.stage12 := rfl
@[simp] theorem State.updPart_mirrors (s : State) (p : Nat) (f : PartX → PartX) : (s.updPart p f).mirrors = s.mirrors := rfl
@[simp] theorem State.updPart_held (s : State) (p : Nat) (f : PartX → PartX) : (s.updPart p f).held = s.held := rfl
@[simp] theorem State.updPart_portWait (s : State) (p : Nat) (f : PartX → PartX) : (s.updPart p f).portWait = s.portWait := rfl
@[simp] theorem State.updPart_ueMap (s : State) (p : Nat) (f : PartX → PartX) : (s.updPart p f).ueMap = s.ueMap := rfl
@[simp] theorem State.updPart_peers (s : State) (p : Nat) (f : PartX → PartX) : (s.updPart p f).peers = s.peers := rfl
@[simp] theorem State.updPart_sent (s : State) (p : Nat) (f : PartX → PartX) : (s.updPart p f).sent = s.sent := rfl
@[simp] theorem State.updPart_asm (s : State) (p : Nat) (f : PartX → PartX) : (s.updPart p f).asm = s.asm := rfl
@[simp] theorem State.updPart_history (s : State) (p : Nat) (f : PartX → PartX) : (s.updPart p f).history = s.history := rfl
@[simp] theorem State.updPart_pnSeen (s : State) (p : Nat) (f : PartX → PartX) : (s.updPart p f).pnSeen = s.pnSeen := rfl
@[simp] theorem State.updPart_streams (s : State) (p : Nat) (f : PartX → PartX) : (s.updPart p f).streams = s.streams := rfl
@[simp] theorem State.updPart_grps (s : State) (p : Nat) (f : PartX → PartX) : (s.updPart p f).grps = s.grps := rfl
@[simp] theorem State.updPart_esc (s : State) (p : Nat) (f : PartX → PartX) : (s.updPart p f).esc = s.esc := rfl
@[simp] theorem State.updPart_pw (s : State) (p : Nat) (f : PartX → PartX) : (s.updPart p f).pw = s.pw := rfl
@[simp] theorem State.updPart_clkHot (s : State) (p : Nat) (f : PartX → PartX) : (s.updPart p f).clkHot = s.clkHot := rfl
@[simp] theorem State.updPart_trFifo (s : State) (p : Nat) (f : PartX → PartX) : (s.updPart p f).trFifo = s.trFifo := rfl
@[simp] theorem State.updPart_trDrop (s : State) (p : Nat) (f : PartX → PartX) : (s.updPart p f).trDrop = s.trDrop := rfl
@[simp] theorem State.updPart_trBuf (s : State) (p : Nat) (f : PartX → PartX) : (s.updPart p f).trBuf = s.trBuf := rfl
@[simp] theorem State.updPart_trCopy (s : State) (p : Nat) (f : PartX → PartX) : (s.updPart p f).trCopy = s.trCopy := rfl
@[simp] theorem State.updPart_trTo (s : State) (p : Nat) (f : PartX → PartX) : (s.updPart p f).trTo = s.trTo := rfl
@[simp] theorem State.updPart_bar4Log (s : State) (p : Nat) (f : PartX → PartX) : (s.updPart p f).bar4Log = s.bar4Log := rfl
@[simp] theorem State.updPart_slotGsq (s : State) (p : Nat) (f : PartX → PartX) : (s.updPart p f).slotGsq = s.slotGsq := rfl
@[simp] theorem State.updPart_refreshes (s : State) (p : Nat) (f : PartX → PartX) : (s.updPart p f).refreshes = s.refreshes := rfl
@[simp] theorem State.updPart_grants (s : State) (p : Nat) (f : PartX → PartX) : (s.updPart p f).grants = s.grants := rfl
@[simp] theorem State.updPart_released (s : State) (p : Nat) (f : PartX → PartX) : (s.updPart p f).released = s.released := rfl
@[simp] theorem State.updPart_plinth (s : State) (p : Nat) (f : PartX → PartX) : (s.updPart p f).plinth = s.plinth := rfl
@[simp] theorem State.updPart_out (s : State) (p : Nat) (f : PartX → PartX) : (s.updPart p f).out = s.out := rfl

/-! ### State.setDesc writes descs -/

@[simp] theorem State.setDesc_pending (s : State) (t : Nat) (d : Desc) : (s.setDesc t d).pending = s.pending := rfl
@[simp] theorem State.setDesc_time (s : State) (t : Nat) (d : Desc) : (s.setDesc t d).time = s.time := rfl
@[simp] theorem State.setDesc_regs (s : State) (t : Nat) (d : Desc) : (s.setDesc t d).regs = s.regs := rfl
@[simp] theorem State.setDesc_lowPend (s : State) (t : Nat) (d : Desc) : (s.setDesc t d).lowPend = s.lowPend := rfl
@[simp] theorem State.setDesc_hiLatch (s : State) (t : Nat) (d : Desc) : (s.setDesc t d).hiLatch = s.hiLatch := rfl
@[simp] theorem State.setDesc_perstN (s : State) (t : Nat) (d : Desc) : (s.setDesc t d).perstN = s.perstN := rfl
@[simp] theorem State.setDesc_pwrWarnN (s : State) (t : Nat) (d : Desc) : (s.setDesc t d).pwrWarnN = s.pwrWarnN := rfl
@[simp] theorem State.setDesc_modPwrgd (s : State) (t : Nat) (d : Desc) : (s.setDesc t d).modPwrgd = s.modPwrgd := rfl
@[simp] theorem State.setDesc_alertN (s : State) (t : Nat) (d : Desc) : (s.setDesc t d).alertN = s.alertN := rfl
@[simp] theorem State.setDesc_rails (s : State) (t : Nat) (d : Desc) : (s.setDesc t d).rails = s.rails := rfl
@[simp] theorem State.setDesc_inputIn (s : State) (t : Nat) (d : Desc) : (s.setDesc t d).inputIn = s.inputIn := rfl
@[simp] theorem State.setDesc_barUp (s : State) (t : Nat) (d : Desc) : (s.setDesc t d).barUp = s.barUp := rfl
@[simp] theorem State.setDesc_halted (s : State) (t : Nat) (d : Desc) : (s.setDesc t d).halted = s.halted := rfl
@[simp] theorem State.setDesc_draws (s : State) (t : Nat) (d : Desc) : (s.setDesc t d).draws = s.draws := rfl
@[simp] theorem State.setDesc_dev (s : State) (t : Nat) (d : Desc) : (s.setDesc t d).dev = s.dev := rfl
@[simp] theorem State.setDesc_host (s : State) (t : Nat) (d : Desc) : (s.setDesc t d).host = s.host := rfl
@[simp] theorem State.setDesc_pages (s : State) (t : Nat) (d : Desc) : (s.setDesc t d).pages = s.pages := rfl
@[simp] theorem State.setDesc_claims (s : State) (t : Nat) (d : Desc) : (s.setDesc t d).claims = s.claims := rfl
@[simp] theorem State.setDesc_resv (s : State) (t : Nat) (d : Desc) : (s.setDesc t d).resv = s.resv := rfl
@[simp] theorem State.setDesc_heldBase (s : State) (t : Nat) (d : Desc) : (s.setDesc t d).heldBase = s.heldBase := rfl
@[simp] theorem State.setDesc_poison (s : State) (t : Nat) (d : Desc) : (s.setDesc t d).poison = s.poison := rfl
@[simp] theorem State.setDesc_retired (s : State) (t : Nat) (d : Desc) : (s.setDesc t d).retired = s.retired := rfl
@[simp] theorem State.setDesc_pcErrs (s : State) (t : Nat) (d : Desc) : (s.setDesc t d).pcErrs = s.pcErrs := rfl
@[simp] theorem State.setDesc_cores (s : State) (t : Nat) (d : Desc) : (s.setDesc t d).cores = s.cores := rfl
@[simp] theorem State.setDesc_scratch (s : State) (t : Nat) (d : Desc) : (s.setDesc t d).scratch = s.scratch := rfl
@[simp] theorem State.setDesc_journal (s : State) (t : Nat) (d : Desc) : (s.setDesc t d).journal = s.journal := rfl
@[simp] theorem State.setDesc_accepted (s : State) (t : Nat) (d : Desc) : (s.setDesc t d).accepted = s.accepted := rfl
@[simp] theorem State.setDesc_led (s : State) (t : Nat) (d : Desc) : (s.setDesc t d).led = s.led := rfl
@[simp] theorem State.setDesc_lsn (s : State) (t : Nat) (d : Desc) : (s.setDesc t d).lsn = s.lsn := rfl
@[simp] theorem State.setDesc_fenced (s : State) (t : Nat) (d : Desc) : (s.setDesc t d).fenced = s.fenced := rfl
@[simp] theorem State.setDesc_diesOut (s : State) (t : Nat) (d : Desc) : (s.setDesc t d).diesOut = s.diesOut := rfl
@[simp] theorem State.setDesc_dieNap (s : State) (t : Nat) (d : Desc) : (s.setDesc t d).dieNap = s.dieNap := rfl
@[simp] theorem State.setDesc_ctx (s : State) (t : Nat) (d : Desc) : (s.setDesc t d).ctx = s.ctx := rfl
@[simp] theorem State.setDesc_images (s : State) (t : Nat) (d : Desc) : (s.setDesc t d).images = s.images := rfl
@[simp] theorem State.setDesc_rings (s : State) (t : Nat) (d : Desc) : (s.setDesc t d).rings = s.rings := rfl
@[simp] theorem State.setDesc_ops (s : State) (t : Nat) (d : Desc) : (s.setDesc t d).ops = s.ops := rfl
@[simp] theorem State.setDesc_orders (s : State) (t : Nat) (d : Desc) : (s.setDesc t d).orders = s.orders := rfl
@[simp] theorem State.setDesc_elig (s : State) (t : Nat) (d : Desc) : (s.setDesc t d).elig = s.elig := rfl
@[simp] theorem State.setDesc_gens (s : State) (t : Nat) (d : Desc) : (s.setDesc t d).gens = s.gens := rfl
@[simp] theorem State.setDesc_wcGen (s : State) (t : Nat) (d : Desc) : (s.setDesc t d).wcGen = s.wcGen := rfl
@[simp] theorem State.setDesc_vtClass (s : State) (t : Nat) (d : Desc) : (s.setDesc t d).vtClass = s.vtClass := rfl
@[simp] theorem State.setDesc_vtPart (s : State) (t : Nat) (d : Desc) : (s.setDesc t d).vtPart = s.vtPart := rfl
@[simp] theorem State.setDesc_insts (s : State) (t : Nat) (d : Desc) : (s.setDesc t d).insts = s.insts := rfl
@[simp] theorem State.setDesc_parts (s : State) (t : Nat) (d : Desc) : (s.setDesc t d).parts = s.parts := rfl
@[simp] theorem State.setDesc_mbUp (s : State) (t : Nat) (d : Desc) : (s.setDesc t d).mbUp = s.mbUp := rfl
@[simp] theorem State.setDesc_mbDown (s : State) (t : Nat) (d : Desc) : (s.setDesc t d).mbDown = s.mbDown := rfl
@[simp] theorem State.setDesc_mbUpOwn (s : State) (t : Nat) (d : Desc) : (s.setDesc t d).mbUpOwn = s.mbUpOwn := rfl
@[simp] theorem State.setDesc_mbDownOwn (s : State) (t : Nat) (d : Desc) : (s.setDesc t d).mbDownOwn = s.mbDownOwn := rfl
@[simp] theorem State.setDesc_mbUpDrop (s : State) (t : Nat) (d : Desc) : (s.setDesc t d).mbUpDrop = s.mbUpDrop := rfl
@[simp] theorem State.setDesc_mbDownDrop (s : State) (t : Nat) (d : Desc) : (s.setDesc t d).mbDownDrop = s.mbDownDrop := rfl
@[simp] theorem State.setDesc_ktab (s : State) (t : Nat) (d : Desc) : (s.setDesc t d).ktab = s.ktab := rfl
@[simp] theorem State.setDesc_ikeys (s : State) (t : Nat) (d : Desc) : (s.setDesc t d).ikeys = s.ikeys := rfl
@[simp] theorem State.setDesc_migKey (s : State) (t : Nat) (d : Desc) : (s.setDesc t d).migKey = s.migKey := rfl
@[simp] theorem State.setDesc_kcache (s : State) (t : Nat) (d : Desc) : (s.setDesc t d).kcache = s.kcache := rfl
@[simp] theorem State.setDesc_sysKey (s : State) (t : Nat) (d : Desc) : (s.setDesc t d).sysKey = s.sysKey := rfl
@[simp] theorem State.setDesc_tableKey (s : State) (t : Nat) (d : Desc) : (s.setDesc t d).tableKey = s.tableKey := rfl
@[simp] theorem State.setDesc_linkKeys (s : State) (t : Nat) (d : Desc) : (s.setDesc t d).linkKeys = s.linkKeys := rfl
@[simp] theorem State.setDesc_xlat (s : State) (t : Nat) (d : Desc) : (s.setDesc t d).xlat = s.xlat := rfl
@[simp] theorem State.setDesc_spdm (s : State) (t : Nat) (d : Desc) : (s.setDesc t d).spdm = s.spdm := rfl
@[simp] theorem State.setDesc_sealCert (s : State) (t : Nat) (d : Desc) : (s.setDesc t d).sealCert = s.sealCert := rfl
@[simp] theorem State.setDesc_ideKeys (s : State) (t : Nat) (d : Desc) : (s.setDesc t d).ideKeys = s.ideKeys := rfl
@[simp] theorem State.setDesc_unsealing (s : State) (t : Nat) (d : Desc) : (s.setDesc t d).unsealing = s.unsealing := rfl
@[simp] theorem State.setDesc_ls (s : State) (t : Nat) (d : Desc) : (s.setDesc t d).ls = s.ls := rfl
@[simp] theorem State.setDesc_norms (s : State) (t : Nat) (d : Desc) : (s.setDesc t d).norms = s.norms := rfl
@[simp] theorem State.setDesc_bnorms (s : State) (t : Nat) (d : Desc) : (s.setDesc t d).bnorms = s.bnorms := rfl
@[simp] theorem State.setDesc_updLog (s : State) (t : Nat) (d : Desc) : (s.setDesc t d).updLog = s.updLog := rfl
@[simp] theorem State.setDesc_jobs (s : State) (t : Nat) (d : Desc) : (s.setDesc t d).jobs = s.jobs := rfl
@[simp] theorem State.setDesc_jobNum (s : State) (t : Nat) (d : Desc) : (s.setDesc t d).jobNum = s.jobNum := rfl
@[simp] theorem State.setDesc_ran (s : State) (t : Nat) (d : Desc) : (s.setDesc t d).ran = s.ran := rfl
@[simp] theorem State.setDesc_stage12 (s : State) (t : Nat) (d : Desc) : (s.setDesc t d).stage12 = s.stage12 := rfl
@[simp] theorem State.setDesc_mirrors (s : State) (t : Nat) (d : Desc) : (s.setDesc t d).mirrors = s.mirrors := rfl
@[simp] theorem State.setDesc_held (s : State) (t : Nat) (d : Desc) : (s.setDesc t d).held = s.held := rfl
@[simp] theorem State.setDesc_portWait (s : State) (t : Nat) (d : Desc) : (s.setDesc t d).portWait = s.portWait := rfl
@[simp] theorem State.setDesc_ueMap (s : State) (t : Nat) (d : Desc) : (s.setDesc t d).ueMap = s.ueMap := rfl
@[simp] theorem State.setDesc_peers (s : State) (t : Nat) (d : Desc) : (s.setDesc t d).peers = s.peers := rfl
@[simp] theorem State.setDesc_sent (s : State) (t : Nat) (d : Desc) : (s.setDesc t d).sent = s.sent := rfl
@[simp] theorem State.setDesc_asm (s : State) (t : Nat) (d : Desc) : (s.setDesc t d).asm = s.asm := rfl
@[simp] theorem State.setDesc_history (s : State) (t : Nat) (d : Desc) : (s.setDesc t d).history = s.history := rfl
@[simp] theorem State.setDesc_pnSeen (s : State) (t : Nat) (d : Desc) : (s.setDesc t d).pnSeen = s.pnSeen := rfl
@[simp] theorem State.setDesc_streams (s : State) (t : Nat) (d : Desc) : (s.setDesc t d).streams = s.streams := rfl
@[simp] theorem State.setDesc_grps (s : State) (t : Nat) (d : Desc) : (s.setDesc t d).grps = s.grps := rfl
@[simp] theorem State.setDesc_esc (s : State) (t : Nat) (d : Desc) : (s.setDesc t d).esc = s.esc := rfl
@[simp] theorem State.setDesc_pw (s : State) (t : Nat) (d : Desc) : (s.setDesc t d).pw = s.pw := rfl
@[simp] theorem State.setDesc_clkHot (s : State) (t : Nat) (d : Desc) : (s.setDesc t d).clkHot = s.clkHot := rfl
@[simp] theorem State.setDesc_trFifo (s : State) (t : Nat) (d : Desc) : (s.setDesc t d).trFifo = s.trFifo := rfl
@[simp] theorem State.setDesc_trDrop (s : State) (t : Nat) (d : Desc) : (s.setDesc t d).trDrop = s.trDrop := rfl
@[simp] theorem State.setDesc_trBuf (s : State) (t : Nat) (d : Desc) : (s.setDesc t d).trBuf = s.trBuf := rfl
@[simp] theorem State.setDesc_trCopy (s : State) (t : Nat) (d : Desc) : (s.setDesc t d).trCopy = s.trCopy := rfl
@[simp] theorem State.setDesc_trTo (s : State) (t : Nat) (d : Desc) : (s.setDesc t d).trTo = s.trTo := rfl
@[simp] theorem State.setDesc_bar4Log (s : State) (t : Nat) (d : Desc) : (s.setDesc t d).bar4Log = s.bar4Log := rfl
@[simp] theorem State.setDesc_slotGsq (s : State) (t : Nat) (d : Desc) : (s.setDesc t d).slotGsq = s.slotGsq := rfl
@[simp] theorem State.setDesc_refreshes (s : State) (t : Nat) (d : Desc) : (s.setDesc t d).refreshes = s.refreshes := rfl
@[simp] theorem State.setDesc_grants (s : State) (t : Nat) (d : Desc) : (s.setDesc t d).grants = s.grants := rfl
@[simp] theorem State.setDesc_released (s : State) (t : Nat) (d : Desc) : (s.setDesc t d).released = s.released := rfl
@[simp] theorem State.setDesc_plinth (s : State) (t : Nat) (d : Desc) : (s.setDesc t d).plinth = s.plinth := rfl
@[simp] theorem State.setDesc_out (s : State) (t : Nat) (d : Desc) : (s.setDesc t d).out = s.out := rfl

/-! ### State.updDesc writes descs -/

@[simp] theorem State.updDesc_pending (s : State) (t : Nat) (f : Desc → Desc) : (s.updDesc t f).pending = s.pending := rfl
@[simp] theorem State.updDesc_time (s : State) (t : Nat) (f : Desc → Desc) : (s.updDesc t f).time = s.time := rfl
@[simp] theorem State.updDesc_regs (s : State) (t : Nat) (f : Desc → Desc) : (s.updDesc t f).regs = s.regs := rfl
@[simp] theorem State.updDesc_lowPend (s : State) (t : Nat) (f : Desc → Desc) : (s.updDesc t f).lowPend = s.lowPend := rfl
@[simp] theorem State.updDesc_hiLatch (s : State) (t : Nat) (f : Desc → Desc) : (s.updDesc t f).hiLatch = s.hiLatch := rfl
@[simp] theorem State.updDesc_perstN (s : State) (t : Nat) (f : Desc → Desc) : (s.updDesc t f).perstN = s.perstN := rfl
@[simp] theorem State.updDesc_pwrWarnN (s : State) (t : Nat) (f : Desc → Desc) : (s.updDesc t f).pwrWarnN = s.pwrWarnN := rfl
@[simp] theorem State.updDesc_modPwrgd (s : State) (t : Nat) (f : Desc → Desc) : (s.updDesc t f).modPwrgd = s.modPwrgd := rfl
@[simp] theorem State.updDesc_alertN (s : State) (t : Nat) (f : Desc → Desc) : (s.updDesc t f).alertN = s.alertN := rfl
@[simp] theorem State.updDesc_rails (s : State) (t : Nat) (f : Desc → Desc) : (s.updDesc t f).rails = s.rails := rfl
@[simp] theorem State.updDesc_inputIn (s : State) (t : Nat) (f : Desc → Desc) : (s.updDesc t f).inputIn = s.inputIn := rfl
@[simp] theorem State.updDesc_barUp (s : State) (t : Nat) (f : Desc → Desc) : (s.updDesc t f).barUp = s.barUp := rfl
@[simp] theorem State.updDesc_halted (s : State) (t : Nat) (f : Desc → Desc) : (s.updDesc t f).halted = s.halted := rfl
@[simp] theorem State.updDesc_draws (s : State) (t : Nat) (f : Desc → Desc) : (s.updDesc t f).draws = s.draws := rfl
@[simp] theorem State.updDesc_dev (s : State) (t : Nat) (f : Desc → Desc) : (s.updDesc t f).dev = s.dev := rfl
@[simp] theorem State.updDesc_host (s : State) (t : Nat) (f : Desc → Desc) : (s.updDesc t f).host = s.host := rfl
@[simp] theorem State.updDesc_pages (s : State) (t : Nat) (f : Desc → Desc) : (s.updDesc t f).pages = s.pages := rfl
@[simp] theorem State.updDesc_claims (s : State) (t : Nat) (f : Desc → Desc) : (s.updDesc t f).claims = s.claims := rfl
@[simp] theorem State.updDesc_resv (s : State) (t : Nat) (f : Desc → Desc) : (s.updDesc t f).resv = s.resv := rfl
@[simp] theorem State.updDesc_heldBase (s : State) (t : Nat) (f : Desc → Desc) : (s.updDesc t f).heldBase = s.heldBase := rfl
@[simp] theorem State.updDesc_poison (s : State) (t : Nat) (f : Desc → Desc) : (s.updDesc t f).poison = s.poison := rfl
@[simp] theorem State.updDesc_retired (s : State) (t : Nat) (f : Desc → Desc) : (s.updDesc t f).retired = s.retired := rfl
@[simp] theorem State.updDesc_pcErrs (s : State) (t : Nat) (f : Desc → Desc) : (s.updDesc t f).pcErrs = s.pcErrs := rfl
@[simp] theorem State.updDesc_cores (s : State) (t : Nat) (f : Desc → Desc) : (s.updDesc t f).cores = s.cores := rfl
@[simp] theorem State.updDesc_scratch (s : State) (t : Nat) (f : Desc → Desc) : (s.updDesc t f).scratch = s.scratch := rfl
@[simp] theorem State.updDesc_journal (s : State) (t : Nat) (f : Desc → Desc) : (s.updDesc t f).journal = s.journal := rfl
@[simp] theorem State.updDesc_accepted (s : State) (t : Nat) (f : Desc → Desc) : (s.updDesc t f).accepted = s.accepted := rfl
@[simp] theorem State.updDesc_led (s : State) (t : Nat) (f : Desc → Desc) : (s.updDesc t f).led = s.led := rfl
@[simp] theorem State.updDesc_lsn (s : State) (t : Nat) (f : Desc → Desc) : (s.updDesc t f).lsn = s.lsn := rfl
@[simp] theorem State.updDesc_fenced (s : State) (t : Nat) (f : Desc → Desc) : (s.updDesc t f).fenced = s.fenced := rfl
@[simp] theorem State.updDesc_diesOut (s : State) (t : Nat) (f : Desc → Desc) : (s.updDesc t f).diesOut = s.diesOut := rfl
@[simp] theorem State.updDesc_dieNap (s : State) (t : Nat) (f : Desc → Desc) : (s.updDesc t f).dieNap = s.dieNap := rfl
@[simp] theorem State.updDesc_ctx (s : State) (t : Nat) (f : Desc → Desc) : (s.updDesc t f).ctx = s.ctx := rfl
@[simp] theorem State.updDesc_images (s : State) (t : Nat) (f : Desc → Desc) : (s.updDesc t f).images = s.images := rfl
@[simp] theorem State.updDesc_rings (s : State) (t : Nat) (f : Desc → Desc) : (s.updDesc t f).rings = s.rings := rfl
@[simp] theorem State.updDesc_ops (s : State) (t : Nat) (f : Desc → Desc) : (s.updDesc t f).ops = s.ops := rfl
@[simp] theorem State.updDesc_orders (s : State) (t : Nat) (f : Desc → Desc) : (s.updDesc t f).orders = s.orders := rfl
@[simp] theorem State.updDesc_elig (s : State) (t : Nat) (f : Desc → Desc) : (s.updDesc t f).elig = s.elig := rfl
@[simp] theorem State.updDesc_gens (s : State) (t : Nat) (f : Desc → Desc) : (s.updDesc t f).gens = s.gens := rfl
@[simp] theorem State.updDesc_wcGen (s : State) (t : Nat) (f : Desc → Desc) : (s.updDesc t f).wcGen = s.wcGen := rfl
@[simp] theorem State.updDesc_vtClass (s : State) (t : Nat) (f : Desc → Desc) : (s.updDesc t f).vtClass = s.vtClass := rfl
@[simp] theorem State.updDesc_vtPart (s : State) (t : Nat) (f : Desc → Desc) : (s.updDesc t f).vtPart = s.vtPart := rfl
@[simp] theorem State.updDesc_insts (s : State) (t : Nat) (f : Desc → Desc) : (s.updDesc t f).insts = s.insts := rfl
@[simp] theorem State.updDesc_parts (s : State) (t : Nat) (f : Desc → Desc) : (s.updDesc t f).parts = s.parts := rfl
@[simp] theorem State.updDesc_mbUp (s : State) (t : Nat) (f : Desc → Desc) : (s.updDesc t f).mbUp = s.mbUp := rfl
@[simp] theorem State.updDesc_mbDown (s : State) (t : Nat) (f : Desc → Desc) : (s.updDesc t f).mbDown = s.mbDown := rfl
@[simp] theorem State.updDesc_mbUpOwn (s : State) (t : Nat) (f : Desc → Desc) : (s.updDesc t f).mbUpOwn = s.mbUpOwn := rfl
@[simp] theorem State.updDesc_mbDownOwn (s : State) (t : Nat) (f : Desc → Desc) : (s.updDesc t f).mbDownOwn = s.mbDownOwn := rfl
@[simp] theorem State.updDesc_mbUpDrop (s : State) (t : Nat) (f : Desc → Desc) : (s.updDesc t f).mbUpDrop = s.mbUpDrop := rfl
@[simp] theorem State.updDesc_mbDownDrop (s : State) (t : Nat) (f : Desc → Desc) : (s.updDesc t f).mbDownDrop = s.mbDownDrop := rfl
@[simp] theorem State.updDesc_ktab (s : State) (t : Nat) (f : Desc → Desc) : (s.updDesc t f).ktab = s.ktab := rfl
@[simp] theorem State.updDesc_ikeys (s : State) (t : Nat) (f : Desc → Desc) : (s.updDesc t f).ikeys = s.ikeys := rfl
@[simp] theorem State.updDesc_migKey (s : State) (t : Nat) (f : Desc → Desc) : (s.updDesc t f).migKey = s.migKey := rfl
@[simp] theorem State.updDesc_kcache (s : State) (t : Nat) (f : Desc → Desc) : (s.updDesc t f).kcache = s.kcache := rfl
@[simp] theorem State.updDesc_sysKey (s : State) (t : Nat) (f : Desc → Desc) : (s.updDesc t f).sysKey = s.sysKey := rfl
@[simp] theorem State.updDesc_tableKey (s : State) (t : Nat) (f : Desc → Desc) : (s.updDesc t f).tableKey = s.tableKey := rfl
@[simp] theorem State.updDesc_linkKeys (s : State) (t : Nat) (f : Desc → Desc) : (s.updDesc t f).linkKeys = s.linkKeys := rfl
@[simp] theorem State.updDesc_xlat (s : State) (t : Nat) (f : Desc → Desc) : (s.updDesc t f).xlat = s.xlat := rfl
@[simp] theorem State.updDesc_spdm (s : State) (t : Nat) (f : Desc → Desc) : (s.updDesc t f).spdm = s.spdm := rfl
@[simp] theorem State.updDesc_sealCert (s : State) (t : Nat) (f : Desc → Desc) : (s.updDesc t f).sealCert = s.sealCert := rfl
@[simp] theorem State.updDesc_ideKeys (s : State) (t : Nat) (f : Desc → Desc) : (s.updDesc t f).ideKeys = s.ideKeys := rfl
@[simp] theorem State.updDesc_unsealing (s : State) (t : Nat) (f : Desc → Desc) : (s.updDesc t f).unsealing = s.unsealing := rfl
@[simp] theorem State.updDesc_ls (s : State) (t : Nat) (f : Desc → Desc) : (s.updDesc t f).ls = s.ls := rfl
@[simp] theorem State.updDesc_norms (s : State) (t : Nat) (f : Desc → Desc) : (s.updDesc t f).norms = s.norms := rfl
@[simp] theorem State.updDesc_bnorms (s : State) (t : Nat) (f : Desc → Desc) : (s.updDesc t f).bnorms = s.bnorms := rfl
@[simp] theorem State.updDesc_updLog (s : State) (t : Nat) (f : Desc → Desc) : (s.updDesc t f).updLog = s.updLog := rfl
@[simp] theorem State.updDesc_jobs (s : State) (t : Nat) (f : Desc → Desc) : (s.updDesc t f).jobs = s.jobs := rfl
@[simp] theorem State.updDesc_jobNum (s : State) (t : Nat) (f : Desc → Desc) : (s.updDesc t f).jobNum = s.jobNum := rfl
@[simp] theorem State.updDesc_ran (s : State) (t : Nat) (f : Desc → Desc) : (s.updDesc t f).ran = s.ran := rfl
@[simp] theorem State.updDesc_stage12 (s : State) (t : Nat) (f : Desc → Desc) : (s.updDesc t f).stage12 = s.stage12 := rfl
@[simp] theorem State.updDesc_mirrors (s : State) (t : Nat) (f : Desc → Desc) : (s.updDesc t f).mirrors = s.mirrors := rfl
@[simp] theorem State.updDesc_held (s : State) (t : Nat) (f : Desc → Desc) : (s.updDesc t f).held = s.held := rfl
@[simp] theorem State.updDesc_portWait (s : State) (t : Nat) (f : Desc → Desc) : (s.updDesc t f).portWait = s.portWait := rfl
@[simp] theorem State.updDesc_ueMap (s : State) (t : Nat) (f : Desc → Desc) : (s.updDesc t f).ueMap = s.ueMap := rfl
@[simp] theorem State.updDesc_peers (s : State) (t : Nat) (f : Desc → Desc) : (s.updDesc t f).peers = s.peers := rfl
@[simp] theorem State.updDesc_sent (s : State) (t : Nat) (f : Desc → Desc) : (s.updDesc t f).sent = s.sent := rfl
@[simp] theorem State.updDesc_asm (s : State) (t : Nat) (f : Desc → Desc) : (s.updDesc t f).asm = s.asm := rfl
@[simp] theorem State.updDesc_history (s : State) (t : Nat) (f : Desc → Desc) : (s.updDesc t f).history = s.history := rfl
@[simp] theorem State.updDesc_pnSeen (s : State) (t : Nat) (f : Desc → Desc) : (s.updDesc t f).pnSeen = s.pnSeen := rfl
@[simp] theorem State.updDesc_streams (s : State) (t : Nat) (f : Desc → Desc) : (s.updDesc t f).streams = s.streams := rfl
@[simp] theorem State.updDesc_grps (s : State) (t : Nat) (f : Desc → Desc) : (s.updDesc t f).grps = s.grps := rfl
@[simp] theorem State.updDesc_esc (s : State) (t : Nat) (f : Desc → Desc) : (s.updDesc t f).esc = s.esc := rfl
@[simp] theorem State.updDesc_pw (s : State) (t : Nat) (f : Desc → Desc) : (s.updDesc t f).pw = s.pw := rfl
@[simp] theorem State.updDesc_clkHot (s : State) (t : Nat) (f : Desc → Desc) : (s.updDesc t f).clkHot = s.clkHot := rfl
@[simp] theorem State.updDesc_trFifo (s : State) (t : Nat) (f : Desc → Desc) : (s.updDesc t f).trFifo = s.trFifo := rfl
@[simp] theorem State.updDesc_trDrop (s : State) (t : Nat) (f : Desc → Desc) : (s.updDesc t f).trDrop = s.trDrop := rfl
@[simp] theorem State.updDesc_trBuf (s : State) (t : Nat) (f : Desc → Desc) : (s.updDesc t f).trBuf = s.trBuf := rfl
@[simp] theorem State.updDesc_trCopy (s : State) (t : Nat) (f : Desc → Desc) : (s.updDesc t f).trCopy = s.trCopy := rfl
@[simp] theorem State.updDesc_trTo (s : State) (t : Nat) (f : Desc → Desc) : (s.updDesc t f).trTo = s.trTo := rfl
@[simp] theorem State.updDesc_bar4Log (s : State) (t : Nat) (f : Desc → Desc) : (s.updDesc t f).bar4Log = s.bar4Log := rfl
@[simp] theorem State.updDesc_slotGsq (s : State) (t : Nat) (f : Desc → Desc) : (s.updDesc t f).slotGsq = s.slotGsq := rfl
@[simp] theorem State.updDesc_refreshes (s : State) (t : Nat) (f : Desc → Desc) : (s.updDesc t f).refreshes = s.refreshes := rfl
@[simp] theorem State.updDesc_grants (s : State) (t : Nat) (f : Desc → Desc) : (s.updDesc t f).grants = s.grants := rfl
@[simp] theorem State.updDesc_released (s : State) (t : Nat) (f : Desc → Desc) : (s.updDesc t f).released = s.released := rfl
@[simp] theorem State.updDesc_plinth (s : State) (t : Nat) (f : Desc → Desc) : (s.updDesc t f).plinth = s.plinth := rfl
@[simp] theorem State.updDesc_out (s : State) (t : Nat) (f : Desc → Desc) : (s.updDesc t f).out = s.out := rfl

/-! ### State.updRing writes rings -/

@[simp] theorem State.updRing_pending (s : State) (i r : Nat) (f : Ring → Ring) : (s.updRing i r f).pending = s.pending := rfl
@[simp] theorem State.updRing_time (s : State) (i r : Nat) (f : Ring → Ring) : (s.updRing i r f).time = s.time := rfl
@[simp] theorem State.updRing_regs (s : State) (i r : Nat) (f : Ring → Ring) : (s.updRing i r f).regs = s.regs := rfl
@[simp] theorem State.updRing_lowPend (s : State) (i r : Nat) (f : Ring → Ring) : (s.updRing i r f).lowPend = s.lowPend := rfl
@[simp] theorem State.updRing_hiLatch (s : State) (i r : Nat) (f : Ring → Ring) : (s.updRing i r f).hiLatch = s.hiLatch := rfl
@[simp] theorem State.updRing_perstN (s : State) (i r : Nat) (f : Ring → Ring) : (s.updRing i r f).perstN = s.perstN := rfl
@[simp] theorem State.updRing_pwrWarnN (s : State) (i r : Nat) (f : Ring → Ring) : (s.updRing i r f).pwrWarnN = s.pwrWarnN := rfl
@[simp] theorem State.updRing_modPwrgd (s : State) (i r : Nat) (f : Ring → Ring) : (s.updRing i r f).modPwrgd = s.modPwrgd := rfl
@[simp] theorem State.updRing_alertN (s : State) (i r : Nat) (f : Ring → Ring) : (s.updRing i r f).alertN = s.alertN := rfl
@[simp] theorem State.updRing_rails (s : State) (i r : Nat) (f : Ring → Ring) : (s.updRing i r f).rails = s.rails := rfl
@[simp] theorem State.updRing_inputIn (s : State) (i r : Nat) (f : Ring → Ring) : (s.updRing i r f).inputIn = s.inputIn := rfl
@[simp] theorem State.updRing_barUp (s : State) (i r : Nat) (f : Ring → Ring) : (s.updRing i r f).barUp = s.barUp := rfl
@[simp] theorem State.updRing_halted (s : State) (i r : Nat) (f : Ring → Ring) : (s.updRing i r f).halted = s.halted := rfl
@[simp] theorem State.updRing_draws (s : State) (i r : Nat) (f : Ring → Ring) : (s.updRing i r f).draws = s.draws := rfl
@[simp] theorem State.updRing_dev (s : State) (i r : Nat) (f : Ring → Ring) : (s.updRing i r f).dev = s.dev := rfl
@[simp] theorem State.updRing_host (s : State) (i r : Nat) (f : Ring → Ring) : (s.updRing i r f).host = s.host := rfl
@[simp] theorem State.updRing_pages (s : State) (i r : Nat) (f : Ring → Ring) : (s.updRing i r f).pages = s.pages := rfl
@[simp] theorem State.updRing_claims (s : State) (i r : Nat) (f : Ring → Ring) : (s.updRing i r f).claims = s.claims := rfl
@[simp] theorem State.updRing_resv (s : State) (i r : Nat) (f : Ring → Ring) : (s.updRing i r f).resv = s.resv := rfl
@[simp] theorem State.updRing_heldBase (s : State) (i r : Nat) (f : Ring → Ring) : (s.updRing i r f).heldBase = s.heldBase := rfl
@[simp] theorem State.updRing_poison (s : State) (i r : Nat) (f : Ring → Ring) : (s.updRing i r f).poison = s.poison := rfl
@[simp] theorem State.updRing_retired (s : State) (i r : Nat) (f : Ring → Ring) : (s.updRing i r f).retired = s.retired := rfl
@[simp] theorem State.updRing_pcErrs (s : State) (i r : Nat) (f : Ring → Ring) : (s.updRing i r f).pcErrs = s.pcErrs := rfl
@[simp] theorem State.updRing_cores (s : State) (i r : Nat) (f : Ring → Ring) : (s.updRing i r f).cores = s.cores := rfl
@[simp] theorem State.updRing_scratch (s : State) (i r : Nat) (f : Ring → Ring) : (s.updRing i r f).scratch = s.scratch := rfl
@[simp] theorem State.updRing_journal (s : State) (i r : Nat) (f : Ring → Ring) : (s.updRing i r f).journal = s.journal := rfl
@[simp] theorem State.updRing_accepted (s : State) (i r : Nat) (f : Ring → Ring) : (s.updRing i r f).accepted = s.accepted := rfl
@[simp] theorem State.updRing_led (s : State) (i r : Nat) (f : Ring → Ring) : (s.updRing i r f).led = s.led := rfl
@[simp] theorem State.updRing_lsn (s : State) (i r : Nat) (f : Ring → Ring) : (s.updRing i r f).lsn = s.lsn := rfl
@[simp] theorem State.updRing_fenced (s : State) (i r : Nat) (f : Ring → Ring) : (s.updRing i r f).fenced = s.fenced := rfl
@[simp] theorem State.updRing_diesOut (s : State) (i r : Nat) (f : Ring → Ring) : (s.updRing i r f).diesOut = s.diesOut := rfl
@[simp] theorem State.updRing_dieNap (s : State) (i r : Nat) (f : Ring → Ring) : (s.updRing i r f).dieNap = s.dieNap := rfl
@[simp] theorem State.updRing_ctx (s : State) (i r : Nat) (f : Ring → Ring) : (s.updRing i r f).ctx = s.ctx := rfl
@[simp] theorem State.updRing_images (s : State) (i r : Nat) (f : Ring → Ring) : (s.updRing i r f).images = s.images := rfl
@[simp] theorem State.updRing_ops (s : State) (i r : Nat) (f : Ring → Ring) : (s.updRing i r f).ops = s.ops := rfl
@[simp] theorem State.updRing_orders (s : State) (i r : Nat) (f : Ring → Ring) : (s.updRing i r f).orders = s.orders := rfl
@[simp] theorem State.updRing_elig (s : State) (i r : Nat) (f : Ring → Ring) : (s.updRing i r f).elig = s.elig := rfl
@[simp] theorem State.updRing_gens (s : State) (i r : Nat) (f : Ring → Ring) : (s.updRing i r f).gens = s.gens := rfl
@[simp] theorem State.updRing_wcGen (s : State) (i r : Nat) (f : Ring → Ring) : (s.updRing i r f).wcGen = s.wcGen := rfl
@[simp] theorem State.updRing_vtClass (s : State) (i r : Nat) (f : Ring → Ring) : (s.updRing i r f).vtClass = s.vtClass := rfl
@[simp] theorem State.updRing_vtPart (s : State) (i r : Nat) (f : Ring → Ring) : (s.updRing i r f).vtPart = s.vtPart := rfl
@[simp] theorem State.updRing_insts (s : State) (i r : Nat) (f : Ring → Ring) : (s.updRing i r f).insts = s.insts := rfl
@[simp] theorem State.updRing_parts (s : State) (i r : Nat) (f : Ring → Ring) : (s.updRing i r f).parts = s.parts := rfl
@[simp] theorem State.updRing_mbUp (s : State) (i r : Nat) (f : Ring → Ring) : (s.updRing i r f).mbUp = s.mbUp := rfl
@[simp] theorem State.updRing_mbDown (s : State) (i r : Nat) (f : Ring → Ring) : (s.updRing i r f).mbDown = s.mbDown := rfl
@[simp] theorem State.updRing_mbUpOwn (s : State) (i r : Nat) (f : Ring → Ring) : (s.updRing i r f).mbUpOwn = s.mbUpOwn := rfl
@[simp] theorem State.updRing_mbDownOwn (s : State) (i r : Nat) (f : Ring → Ring) : (s.updRing i r f).mbDownOwn = s.mbDownOwn := rfl
@[simp] theorem State.updRing_mbUpDrop (s : State) (i r : Nat) (f : Ring → Ring) : (s.updRing i r f).mbUpDrop = s.mbUpDrop := rfl
@[simp] theorem State.updRing_mbDownDrop (s : State) (i r : Nat) (f : Ring → Ring) : (s.updRing i r f).mbDownDrop = s.mbDownDrop := rfl
@[simp] theorem State.updRing_descs (s : State) (i r : Nat) (f : Ring → Ring) : (s.updRing i r f).descs = s.descs := rfl
@[simp] theorem State.updRing_ktab (s : State) (i r : Nat) (f : Ring → Ring) : (s.updRing i r f).ktab = s.ktab := rfl
@[simp] theorem State.updRing_ikeys (s : State) (i r : Nat) (f : Ring → Ring) : (s.updRing i r f).ikeys = s.ikeys := rfl
@[simp] theorem State.updRing_migKey (s : State) (i r : Nat) (f : Ring → Ring) : (s.updRing i r f).migKey = s.migKey := rfl
@[simp] theorem State.updRing_kcache (s : State) (i r : Nat) (f : Ring → Ring) : (s.updRing i r f).kcache = s.kcache := rfl
@[simp] theorem State.updRing_sysKey (s : State) (i r : Nat) (f : Ring → Ring) : (s.updRing i r f).sysKey = s.sysKey := rfl
@[simp] theorem State.updRing_tableKey (s : State) (i r : Nat) (f : Ring → Ring) : (s.updRing i r f).tableKey = s.tableKey := rfl
@[simp] theorem State.updRing_linkKeys (s : State) (i r : Nat) (f : Ring → Ring) : (s.updRing i r f).linkKeys = s.linkKeys := rfl
@[simp] theorem State.updRing_xlat (s : State) (i r : Nat) (f : Ring → Ring) : (s.updRing i r f).xlat = s.xlat := rfl
@[simp] theorem State.updRing_spdm (s : State) (i r : Nat) (f : Ring → Ring) : (s.updRing i r f).spdm = s.spdm := rfl
@[simp] theorem State.updRing_sealCert (s : State) (i r : Nat) (f : Ring → Ring) : (s.updRing i r f).sealCert = s.sealCert := rfl
@[simp] theorem State.updRing_ideKeys (s : State) (i r : Nat) (f : Ring → Ring) : (s.updRing i r f).ideKeys = s.ideKeys := rfl
@[simp] theorem State.updRing_unsealing (s : State) (i r : Nat) (f : Ring → Ring) : (s.updRing i r f).unsealing = s.unsealing := rfl
@[simp] theorem State.updRing_ls (s : State) (i r : Nat) (f : Ring → Ring) : (s.updRing i r f).ls = s.ls := rfl
@[simp] theorem State.updRing_norms (s : State) (i r : Nat) (f : Ring → Ring) : (s.updRing i r f).norms = s.norms := rfl
@[simp] theorem State.updRing_bnorms (s : State) (i r : Nat) (f : Ring → Ring) : (s.updRing i r f).bnorms = s.bnorms := rfl
@[simp] theorem State.updRing_updLog (s : State) (i r : Nat) (f : Ring → Ring) : (s.updRing i r f).updLog = s.updLog := rfl
@[simp] theorem State.updRing_jobs (s : State) (i r : Nat) (f : Ring → Ring) : (s.updRing i r f).jobs = s.jobs := rfl
@[simp] theorem State.updRing_jobNum (s : State) (i r : Nat) (f : Ring → Ring) : (s.updRing i r f).jobNum = s.jobNum := rfl
@[simp] theorem State.updRing_ran (s : State) (i r : Nat) (f : Ring → Ring) : (s.updRing i r f).ran = s.ran := rfl
@[simp] theorem State.updRing_stage12 (s : State) (i r : Nat) (f : Ring → Ring) : (s.updRing i r f).stage12 = s.stage12 := rfl
@[simp] theorem State.updRing_mirrors (s : State) (i r : Nat) (f : Ring → Ring) : (s.updRing i r f).mirrors = s.mirrors := rfl
@[simp] theorem State.updRing_held (s : State) (i r : Nat) (f : Ring → Ring) : (s.updRing i r f).held = s.held := rfl
@[simp] theorem State.updRing_portWait (s : State) (i r : Nat) (f : Ring → Ring) : (s.updRing i r f).portWait = s.portWait := rfl
@[simp] theorem State.updRing_ueMap (s : State) (i r : Nat) (f : Ring → Ring) : (s.updRing i r f).ueMap = s.ueMap := rfl
@[simp] theorem State.updRing_peers (s : State) (i r : Nat) (f : Ring → Ring) : (s.updRing i r f).peers = s.peers := rfl
@[simp] theorem State.updRing_sent (s : State) (i r : Nat) (f : Ring → Ring) : (s.updRing i r f).sent = s.sent := rfl
@[simp] theorem State.updRing_asm (s : State) (i r : Nat) (f : Ring → Ring) : (s.updRing i r f).asm = s.asm := rfl
@[simp] theorem State.updRing_history (s : State) (i r : Nat) (f : Ring → Ring) : (s.updRing i r f).history = s.history := rfl
@[simp] theorem State.updRing_pnSeen (s : State) (i r : Nat) (f : Ring → Ring) : (s.updRing i r f).pnSeen = s.pnSeen := rfl
@[simp] theorem State.updRing_streams (s : State) (i r : Nat) (f : Ring → Ring) : (s.updRing i r f).streams = s.streams := rfl
@[simp] theorem State.updRing_grps (s : State) (i r : Nat) (f : Ring → Ring) : (s.updRing i r f).grps = s.grps := rfl
@[simp] theorem State.updRing_esc (s : State) (i r : Nat) (f : Ring → Ring) : (s.updRing i r f).esc = s.esc := rfl
@[simp] theorem State.updRing_pw (s : State) (i r : Nat) (f : Ring → Ring) : (s.updRing i r f).pw = s.pw := rfl
@[simp] theorem State.updRing_clkHot (s : State) (i r : Nat) (f : Ring → Ring) : (s.updRing i r f).clkHot = s.clkHot := rfl
@[simp] theorem State.updRing_trFifo (s : State) (i r : Nat) (f : Ring → Ring) : (s.updRing i r f).trFifo = s.trFifo := rfl
@[simp] theorem State.updRing_trDrop (s : State) (i r : Nat) (f : Ring → Ring) : (s.updRing i r f).trDrop = s.trDrop := rfl
@[simp] theorem State.updRing_trBuf (s : State) (i r : Nat) (f : Ring → Ring) : (s.updRing i r f).trBuf = s.trBuf := rfl
@[simp] theorem State.updRing_trCopy (s : State) (i r : Nat) (f : Ring → Ring) : (s.updRing i r f).trCopy = s.trCopy := rfl
@[simp] theorem State.updRing_trTo (s : State) (i r : Nat) (f : Ring → Ring) : (s.updRing i r f).trTo = s.trTo := rfl
@[simp] theorem State.updRing_bar4Log (s : State) (i r : Nat) (f : Ring → Ring) : (s.updRing i r f).bar4Log = s.bar4Log := rfl
@[simp] theorem State.updRing_slotGsq (s : State) (i r : Nat) (f : Ring → Ring) : (s.updRing i r f).slotGsq = s.slotGsq := rfl
@[simp] theorem State.updRing_refreshes (s : State) (i r : Nat) (f : Ring → Ring) : (s.updRing i r f).refreshes = s.refreshes := rfl
@[simp] theorem State.updRing_grants (s : State) (i r : Nat) (f : Ring → Ring) : (s.updRing i r f).grants = s.grants := rfl
@[simp] theorem State.updRing_released (s : State) (i r : Nat) (f : Ring → Ring) : (s.updRing i r f).released = s.released := rfl
@[simp] theorem State.updRing_plinth (s : State) (i r : Nat) (f : Ring → Ring) : (s.updRing i r f).plinth = s.plinth := rfl
@[simp] theorem State.updRing_out (s : State) (i r : Nat) (f : Ring → Ring) : (s.updRing i r f).out = s.out := rfl

/-! ### State.setPage writes pages -/

@[simp] theorem State.setPage_pending (s : State) (n : Nat) (p : Page) : (s.setPage n p).pending = s.pending := rfl
@[simp] theorem State.setPage_time (s : State) (n : Nat) (p : Page) : (s.setPage n p).time = s.time := rfl
@[simp] theorem State.setPage_regs (s : State) (n : Nat) (p : Page) : (s.setPage n p).regs = s.regs := rfl
@[simp] theorem State.setPage_lowPend (s : State) (n : Nat) (p : Page) : (s.setPage n p).lowPend = s.lowPend := rfl
@[simp] theorem State.setPage_hiLatch (s : State) (n : Nat) (p : Page) : (s.setPage n p).hiLatch = s.hiLatch := rfl
@[simp] theorem State.setPage_perstN (s : State) (n : Nat) (p : Page) : (s.setPage n p).perstN = s.perstN := rfl
@[simp] theorem State.setPage_pwrWarnN (s : State) (n : Nat) (p : Page) : (s.setPage n p).pwrWarnN = s.pwrWarnN := rfl
@[simp] theorem State.setPage_modPwrgd (s : State) (n : Nat) (p : Page) : (s.setPage n p).modPwrgd = s.modPwrgd := rfl
@[simp] theorem State.setPage_alertN (s : State) (n : Nat) (p : Page) : (s.setPage n p).alertN = s.alertN := rfl
@[simp] theorem State.setPage_rails (s : State) (n : Nat) (p : Page) : (s.setPage n p).rails = s.rails := rfl
@[simp] theorem State.setPage_inputIn (s : State) (n : Nat) (p : Page) : (s.setPage n p).inputIn = s.inputIn := rfl
@[simp] theorem State.setPage_barUp (s : State) (n : Nat) (p : Page) : (s.setPage n p).barUp = s.barUp := rfl
@[simp] theorem State.setPage_halted (s : State) (n : Nat) (p : Page) : (s.setPage n p).halted = s.halted := rfl
@[simp] theorem State.setPage_draws (s : State) (n : Nat) (p : Page) : (s.setPage n p).draws = s.draws := rfl
@[simp] theorem State.setPage_dev (s : State) (n : Nat) (p : Page) : (s.setPage n p).dev = s.dev := rfl
@[simp] theorem State.setPage_host (s : State) (n : Nat) (p : Page) : (s.setPage n p).host = s.host := rfl
@[simp] theorem State.setPage_claims (s : State) (n : Nat) (p : Page) : (s.setPage n p).claims = s.claims := rfl
@[simp] theorem State.setPage_resv (s : State) (n : Nat) (p : Page) : (s.setPage n p).resv = s.resv := rfl
@[simp] theorem State.setPage_heldBase (s : State) (n : Nat) (p : Page) : (s.setPage n p).heldBase = s.heldBase := rfl
@[simp] theorem State.setPage_poison (s : State) (n : Nat) (p : Page) : (s.setPage n p).poison = s.poison := rfl
@[simp] theorem State.setPage_retired (s : State) (n : Nat) (p : Page) : (s.setPage n p).retired = s.retired := rfl
@[simp] theorem State.setPage_pcErrs (s : State) (n : Nat) (p : Page) : (s.setPage n p).pcErrs = s.pcErrs := rfl
@[simp] theorem State.setPage_cores (s : State) (n : Nat) (p : Page) : (s.setPage n p).cores = s.cores := rfl
@[simp] theorem State.setPage_scratch (s : State) (n : Nat) (p : Page) : (s.setPage n p).scratch = s.scratch := rfl
@[simp] theorem State.setPage_journal (s : State) (n : Nat) (p : Page) : (s.setPage n p).journal = s.journal := rfl
@[simp] theorem State.setPage_accepted (s : State) (n : Nat) (p : Page) : (s.setPage n p).accepted = s.accepted := rfl
@[simp] theorem State.setPage_led (s : State) (n : Nat) (p : Page) : (s.setPage n p).led = s.led := rfl
@[simp] theorem State.setPage_lsn (s : State) (n : Nat) (p : Page) : (s.setPage n p).lsn = s.lsn := rfl
@[simp] theorem State.setPage_fenced (s : State) (n : Nat) (p : Page) : (s.setPage n p).fenced = s.fenced := rfl
@[simp] theorem State.setPage_diesOut (s : State) (n : Nat) (p : Page) : (s.setPage n p).diesOut = s.diesOut := rfl
@[simp] theorem State.setPage_dieNap (s : State) (n : Nat) (p : Page) : (s.setPage n p).dieNap = s.dieNap := rfl
@[simp] theorem State.setPage_ctx (s : State) (n : Nat) (p : Page) : (s.setPage n p).ctx = s.ctx := rfl
@[simp] theorem State.setPage_images (s : State) (n : Nat) (p : Page) : (s.setPage n p).images = s.images := rfl
@[simp] theorem State.setPage_rings (s : State) (n : Nat) (p : Page) : (s.setPage n p).rings = s.rings := rfl
@[simp] theorem State.setPage_ops (s : State) (n : Nat) (p : Page) : (s.setPage n p).ops = s.ops := rfl
@[simp] theorem State.setPage_orders (s : State) (n : Nat) (p : Page) : (s.setPage n p).orders = s.orders := rfl
@[simp] theorem State.setPage_elig (s : State) (n : Nat) (p : Page) : (s.setPage n p).elig = s.elig := rfl
@[simp] theorem State.setPage_gens (s : State) (n : Nat) (p : Page) : (s.setPage n p).gens = s.gens := rfl
@[simp] theorem State.setPage_wcGen (s : State) (n : Nat) (p : Page) : (s.setPage n p).wcGen = s.wcGen := rfl
@[simp] theorem State.setPage_vtClass (s : State) (n : Nat) (p : Page) : (s.setPage n p).vtClass = s.vtClass := rfl
@[simp] theorem State.setPage_vtPart (s : State) (n : Nat) (p : Page) : (s.setPage n p).vtPart = s.vtPart := rfl
@[simp] theorem State.setPage_insts (s : State) (n : Nat) (p : Page) : (s.setPage n p).insts = s.insts := rfl
@[simp] theorem State.setPage_parts (s : State) (n : Nat) (p : Page) : (s.setPage n p).parts = s.parts := rfl
@[simp] theorem State.setPage_mbUp (s : State) (n : Nat) (p : Page) : (s.setPage n p).mbUp = s.mbUp := rfl
@[simp] theorem State.setPage_mbDown (s : State) (n : Nat) (p : Page) : (s.setPage n p).mbDown = s.mbDown := rfl
@[simp] theorem State.setPage_mbUpOwn (s : State) (n : Nat) (p : Page) : (s.setPage n p).mbUpOwn = s.mbUpOwn := rfl
@[simp] theorem State.setPage_mbDownOwn (s : State) (n : Nat) (p : Page) : (s.setPage n p).mbDownOwn = s.mbDownOwn := rfl
@[simp] theorem State.setPage_mbUpDrop (s : State) (n : Nat) (p : Page) : (s.setPage n p).mbUpDrop = s.mbUpDrop := rfl
@[simp] theorem State.setPage_mbDownDrop (s : State) (n : Nat) (p : Page) : (s.setPage n p).mbDownDrop = s.mbDownDrop := rfl
@[simp] theorem State.setPage_descs (s : State) (n : Nat) (p : Page) : (s.setPage n p).descs = s.descs := rfl
@[simp] theorem State.setPage_ktab (s : State) (n : Nat) (p : Page) : (s.setPage n p).ktab = s.ktab := rfl
@[simp] theorem State.setPage_ikeys (s : State) (n : Nat) (p : Page) : (s.setPage n p).ikeys = s.ikeys := rfl
@[simp] theorem State.setPage_migKey (s : State) (n : Nat) (p : Page) : (s.setPage n p).migKey = s.migKey := rfl
@[simp] theorem State.setPage_kcache (s : State) (n : Nat) (p : Page) : (s.setPage n p).kcache = s.kcache := rfl
@[simp] theorem State.setPage_sysKey (s : State) (n : Nat) (p : Page) : (s.setPage n p).sysKey = s.sysKey := rfl
@[simp] theorem State.setPage_tableKey (s : State) (n : Nat) (p : Page) : (s.setPage n p).tableKey = s.tableKey := rfl
@[simp] theorem State.setPage_linkKeys (s : State) (n : Nat) (p : Page) : (s.setPage n p).linkKeys = s.linkKeys := rfl
@[simp] theorem State.setPage_xlat (s : State) (n : Nat) (p : Page) : (s.setPage n p).xlat = s.xlat := rfl
@[simp] theorem State.setPage_spdm (s : State) (n : Nat) (p : Page) : (s.setPage n p).spdm = s.spdm := rfl
@[simp] theorem State.setPage_sealCert (s : State) (n : Nat) (p : Page) : (s.setPage n p).sealCert = s.sealCert := rfl
@[simp] theorem State.setPage_ideKeys (s : State) (n : Nat) (p : Page) : (s.setPage n p).ideKeys = s.ideKeys := rfl
@[simp] theorem State.setPage_unsealing (s : State) (n : Nat) (p : Page) : (s.setPage n p).unsealing = s.unsealing := rfl
@[simp] theorem State.setPage_ls (s : State) (n : Nat) (p : Page) : (s.setPage n p).ls = s.ls := rfl
@[simp] theorem State.setPage_norms (s : State) (n : Nat) (p : Page) : (s.setPage n p).norms = s.norms := rfl
@[simp] theorem State.setPage_bnorms (s : State) (n : Nat) (p : Page) : (s.setPage n p).bnorms = s.bnorms := rfl
@[simp] theorem State.setPage_updLog (s : State) (n : Nat) (p : Page) : (s.setPage n p).updLog = s.updLog := rfl
@[simp] theorem State.setPage_jobs (s : State) (n : Nat) (p : Page) : (s.setPage n p).jobs = s.jobs := rfl
@[simp] theorem State.setPage_jobNum (s : State) (n : Nat) (p : Page) : (s.setPage n p).jobNum = s.jobNum := rfl
@[simp] theorem State.setPage_ran (s : State) (n : Nat) (p : Page) : (s.setPage n p).ran = s.ran := rfl
@[simp] theorem State.setPage_stage12 (s : State) (n : Nat) (p : Page) : (s.setPage n p).stage12 = s.stage12 := rfl
@[simp] theorem State.setPage_mirrors (s : State) (n : Nat) (p : Page) : (s.setPage n p).mirrors = s.mirrors := rfl
@[simp] theorem State.setPage_held (s : State) (n : Nat) (p : Page) : (s.setPage n p).held = s.held := rfl
@[simp] theorem State.setPage_portWait (s : State) (n : Nat) (p : Page) : (s.setPage n p).portWait = s.portWait := rfl
@[simp] theorem State.setPage_ueMap (s : State) (n : Nat) (p : Page) : (s.setPage n p).ueMap = s.ueMap := rfl
@[simp] theorem State.setPage_peers (s : State) (n : Nat) (p : Page) : (s.setPage n p).peers = s.peers := rfl
@[simp] theorem State.setPage_sent (s : State) (n : Nat) (p : Page) : (s.setPage n p).sent = s.sent := rfl
@[simp] theorem State.setPage_asm (s : State) (n : Nat) (p : Page) : (s.setPage n p).asm = s.asm := rfl
@[simp] theorem State.setPage_history (s : State) (n : Nat) (p : Page) : (s.setPage n p).history = s.history := rfl
@[simp] theorem State.setPage_pnSeen (s : State) (n : Nat) (p : Page) : (s.setPage n p).pnSeen = s.pnSeen := rfl
@[simp] theorem State.setPage_streams (s : State) (n : Nat) (p : Page) : (s.setPage n p).streams = s.streams := rfl
@[simp] theorem State.setPage_grps (s : State) (n : Nat) (p : Page) : (s.setPage n p).grps = s.grps := rfl
@[simp] theorem State.setPage_esc (s : State) (n : Nat) (p : Page) : (s.setPage n p).esc = s.esc := rfl
@[simp] theorem State.setPage_pw (s : State) (n : Nat) (p : Page) : (s.setPage n p).pw = s.pw := rfl
@[simp] theorem State.setPage_clkHot (s : State) (n : Nat) (p : Page) : (s.setPage n p).clkHot = s.clkHot := rfl
@[simp] theorem State.setPage_trFifo (s : State) (n : Nat) (p : Page) : (s.setPage n p).trFifo = s.trFifo := rfl
@[simp] theorem State.setPage_trDrop (s : State) (n : Nat) (p : Page) : (s.setPage n p).trDrop = s.trDrop := rfl
@[simp] theorem State.setPage_trBuf (s : State) (n : Nat) (p : Page) : (s.setPage n p).trBuf = s.trBuf := rfl
@[simp] theorem State.setPage_trCopy (s : State) (n : Nat) (p : Page) : (s.setPage n p).trCopy = s.trCopy := rfl
@[simp] theorem State.setPage_trTo (s : State) (n : Nat) (p : Page) : (s.setPage n p).trTo = s.trTo := rfl
@[simp] theorem State.setPage_bar4Log (s : State) (n : Nat) (p : Page) : (s.setPage n p).bar4Log = s.bar4Log := rfl
@[simp] theorem State.setPage_slotGsq (s : State) (n : Nat) (p : Page) : (s.setPage n p).slotGsq = s.slotGsq := rfl
@[simp] theorem State.setPage_refreshes (s : State) (n : Nat) (p : Page) : (s.setPage n p).refreshes = s.refreshes := rfl
@[simp] theorem State.setPage_grants (s : State) (n : Nat) (p : Page) : (s.setPage n p).grants = s.grants := rfl
@[simp] theorem State.setPage_released (s : State) (n : Nat) (p : Page) : (s.setPage n p).released = s.released := rfl
@[simp] theorem State.setPage_plinth (s : State) (n : Nat) (p : Page) : (s.setPage n p).plinth = s.plinth := rfl
@[simp] theorem State.setPage_out (s : State) (n : Nat) (p : Page) : (s.setPage n p).out = s.out := rfl

/-! ### State.setPeer writes peers -/

@[simp] theorem State.setPeer_pending (s : State) (c : Nat) (p : Peer) : (s.setPeer c p).pending = s.pending := rfl
@[simp] theorem State.setPeer_time (s : State) (c : Nat) (p : Peer) : (s.setPeer c p).time = s.time := rfl
@[simp] theorem State.setPeer_regs (s : State) (c : Nat) (p : Peer) : (s.setPeer c p).regs = s.regs := rfl
@[simp] theorem State.setPeer_lowPend (s : State) (c : Nat) (p : Peer) : (s.setPeer c p).lowPend = s.lowPend := rfl
@[simp] theorem State.setPeer_hiLatch (s : State) (c : Nat) (p : Peer) : (s.setPeer c p).hiLatch = s.hiLatch := rfl
@[simp] theorem State.setPeer_perstN (s : State) (c : Nat) (p : Peer) : (s.setPeer c p).perstN = s.perstN := rfl
@[simp] theorem State.setPeer_pwrWarnN (s : State) (c : Nat) (p : Peer) : (s.setPeer c p).pwrWarnN = s.pwrWarnN := rfl
@[simp] theorem State.setPeer_modPwrgd (s : State) (c : Nat) (p : Peer) : (s.setPeer c p).modPwrgd = s.modPwrgd := rfl
@[simp] theorem State.setPeer_alertN (s : State) (c : Nat) (p : Peer) : (s.setPeer c p).alertN = s.alertN := rfl
@[simp] theorem State.setPeer_rails (s : State) (c : Nat) (p : Peer) : (s.setPeer c p).rails = s.rails := rfl
@[simp] theorem State.setPeer_inputIn (s : State) (c : Nat) (p : Peer) : (s.setPeer c p).inputIn = s.inputIn := rfl
@[simp] theorem State.setPeer_barUp (s : State) (c : Nat) (p : Peer) : (s.setPeer c p).barUp = s.barUp := rfl
@[simp] theorem State.setPeer_halted (s : State) (c : Nat) (p : Peer) : (s.setPeer c p).halted = s.halted := rfl
@[simp] theorem State.setPeer_draws (s : State) (c : Nat) (p : Peer) : (s.setPeer c p).draws = s.draws := rfl
@[simp] theorem State.setPeer_dev (s : State) (c : Nat) (p : Peer) : (s.setPeer c p).dev = s.dev := rfl
@[simp] theorem State.setPeer_host (s : State) (c : Nat) (p : Peer) : (s.setPeer c p).host = s.host := rfl
@[simp] theorem State.setPeer_pages (s : State) (c : Nat) (p : Peer) : (s.setPeer c p).pages = s.pages := rfl
@[simp] theorem State.setPeer_claims (s : State) (c : Nat) (p : Peer) : (s.setPeer c p).claims = s.claims := rfl
@[simp] theorem State.setPeer_resv (s : State) (c : Nat) (p : Peer) : (s.setPeer c p).resv = s.resv := rfl
@[simp] theorem State.setPeer_heldBase (s : State) (c : Nat) (p : Peer) : (s.setPeer c p).heldBase = s.heldBase := rfl
@[simp] theorem State.setPeer_poison (s : State) (c : Nat) (p : Peer) : (s.setPeer c p).poison = s.poison := rfl
@[simp] theorem State.setPeer_retired (s : State) (c : Nat) (p : Peer) : (s.setPeer c p).retired = s.retired := rfl
@[simp] theorem State.setPeer_pcErrs (s : State) (c : Nat) (p : Peer) : (s.setPeer c p).pcErrs = s.pcErrs := rfl
@[simp] theorem State.setPeer_cores (s : State) (c : Nat) (p : Peer) : (s.setPeer c p).cores = s.cores := rfl
@[simp] theorem State.setPeer_scratch (s : State) (c : Nat) (p : Peer) : (s.setPeer c p).scratch = s.scratch := rfl
@[simp] theorem State.setPeer_journal (s : State) (c : Nat) (p : Peer) : (s.setPeer c p).journal = s.journal := rfl
@[simp] theorem State.setPeer_accepted (s : State) (c : Nat) (p : Peer) : (s.setPeer c p).accepted = s.accepted := rfl
@[simp] theorem State.setPeer_led (s : State) (c : Nat) (p : Peer) : (s.setPeer c p).led = s.led := rfl
@[simp] theorem State.setPeer_lsn (s : State) (c : Nat) (p : Peer) : (s.setPeer c p).lsn = s.lsn := rfl
@[simp] theorem State.setPeer_fenced (s : State) (c : Nat) (p : Peer) : (s.setPeer c p).fenced = s.fenced := rfl
@[simp] theorem State.setPeer_diesOut (s : State) (c : Nat) (p : Peer) : (s.setPeer c p).diesOut = s.diesOut := rfl
@[simp] theorem State.setPeer_dieNap (s : State) (c : Nat) (p : Peer) : (s.setPeer c p).dieNap = s.dieNap := rfl
@[simp] theorem State.setPeer_ctx (s : State) (c : Nat) (p : Peer) : (s.setPeer c p).ctx = s.ctx := rfl
@[simp] theorem State.setPeer_images (s : State) (c : Nat) (p : Peer) : (s.setPeer c p).images = s.images := rfl
@[simp] theorem State.setPeer_rings (s : State) (c : Nat) (p : Peer) : (s.setPeer c p).rings = s.rings := rfl
@[simp] theorem State.setPeer_ops (s : State) (c : Nat) (p : Peer) : (s.setPeer c p).ops = s.ops := rfl
@[simp] theorem State.setPeer_orders (s : State) (c : Nat) (p : Peer) : (s.setPeer c p).orders = s.orders := rfl
@[simp] theorem State.setPeer_elig (s : State) (c : Nat) (p : Peer) : (s.setPeer c p).elig = s.elig := rfl
@[simp] theorem State.setPeer_gens (s : State) (c : Nat) (p : Peer) : (s.setPeer c p).gens = s.gens := rfl
@[simp] theorem State.setPeer_wcGen (s : State) (c : Nat) (p : Peer) : (s.setPeer c p).wcGen = s.wcGen := rfl
@[simp] theorem State.setPeer_vtClass (s : State) (c : Nat) (p : Peer) : (s.setPeer c p).vtClass = s.vtClass := rfl
@[simp] theorem State.setPeer_vtPart (s : State) (c : Nat) (p : Peer) : (s.setPeer c p).vtPart = s.vtPart := rfl
@[simp] theorem State.setPeer_insts (s : State) (c : Nat) (p : Peer) : (s.setPeer c p).insts = s.insts := rfl
@[simp] theorem State.setPeer_parts (s : State) (c : Nat) (p : Peer) : (s.setPeer c p).parts = s.parts := rfl
@[simp] theorem State.setPeer_mbUp (s : State) (c : Nat) (p : Peer) : (s.setPeer c p).mbUp = s.mbUp := rfl
@[simp] theorem State.setPeer_mbDown (s : State) (c : Nat) (p : Peer) : (s.setPeer c p).mbDown = s.mbDown := rfl
@[simp] theorem State.setPeer_mbUpOwn (s : State) (c : Nat) (p : Peer) : (s.setPeer c p).mbUpOwn = s.mbUpOwn := rfl
@[simp] theorem State.setPeer_mbDownOwn (s : State) (c : Nat) (p : Peer) : (s.setPeer c p).mbDownOwn = s.mbDownOwn := rfl
@[simp] theorem State.setPeer_mbUpDrop (s : State) (c : Nat) (p : Peer) : (s.setPeer c p).mbUpDrop = s.mbUpDrop := rfl
@[simp] theorem State.setPeer_mbDownDrop (s : State) (c : Nat) (p : Peer) : (s.setPeer c p).mbDownDrop = s.mbDownDrop := rfl
@[simp] theorem State.setPeer_descs (s : State) (c : Nat) (p : Peer) : (s.setPeer c p).descs = s.descs := rfl
@[simp] theorem State.setPeer_ktab (s : State) (c : Nat) (p : Peer) : (s.setPeer c p).ktab = s.ktab := rfl
@[simp] theorem State.setPeer_ikeys (s : State) (c : Nat) (p : Peer) : (s.setPeer c p).ikeys = s.ikeys := rfl
@[simp] theorem State.setPeer_migKey (s : State) (c : Nat) (p : Peer) : (s.setPeer c p).migKey = s.migKey := rfl
@[simp] theorem State.setPeer_kcache (s : State) (c : Nat) (p : Peer) : (s.setPeer c p).kcache = s.kcache := rfl
@[simp] theorem State.setPeer_sysKey (s : State) (c : Nat) (p : Peer) : (s.setPeer c p).sysKey = s.sysKey := rfl
@[simp] theorem State.setPeer_tableKey (s : State) (c : Nat) (p : Peer) : (s.setPeer c p).tableKey = s.tableKey := rfl
@[simp] theorem State.setPeer_linkKeys (s : State) (c : Nat) (p : Peer) : (s.setPeer c p).linkKeys = s.linkKeys := rfl
@[simp] theorem State.setPeer_xlat (s : State) (c : Nat) (p : Peer) : (s.setPeer c p).xlat = s.xlat := rfl
@[simp] theorem State.setPeer_spdm (s : State) (c : Nat) (p : Peer) : (s.setPeer c p).spdm = s.spdm := rfl
@[simp] theorem State.setPeer_sealCert (s : State) (c : Nat) (p : Peer) : (s.setPeer c p).sealCert = s.sealCert := rfl
@[simp] theorem State.setPeer_ideKeys (s : State) (c : Nat) (p : Peer) : (s.setPeer c p).ideKeys = s.ideKeys := rfl
@[simp] theorem State.setPeer_unsealing (s : State) (c : Nat) (p : Peer) : (s.setPeer c p).unsealing = s.unsealing := rfl
@[simp] theorem State.setPeer_ls (s : State) (c : Nat) (p : Peer) : (s.setPeer c p).ls = s.ls := rfl
@[simp] theorem State.setPeer_norms (s : State) (c : Nat) (p : Peer) : (s.setPeer c p).norms = s.norms := rfl
@[simp] theorem State.setPeer_bnorms (s : State) (c : Nat) (p : Peer) : (s.setPeer c p).bnorms = s.bnorms := rfl
@[simp] theorem State.setPeer_updLog (s : State) (c : Nat) (p : Peer) : (s.setPeer c p).updLog = s.updLog := rfl
@[simp] theorem State.setPeer_jobs (s : State) (c : Nat) (p : Peer) : (s.setPeer c p).jobs = s.jobs := rfl
@[simp] theorem State.setPeer_jobNum (s : State) (c : Nat) (p : Peer) : (s.setPeer c p).jobNum = s.jobNum := rfl
@[simp] theorem State.setPeer_ran (s : State) (c : Nat) (p : Peer) : (s.setPeer c p).ran = s.ran := rfl
@[simp] theorem State.setPeer_stage12 (s : State) (c : Nat) (p : Peer) : (s.setPeer c p).stage12 = s.stage12 := rfl
@[simp] theorem State.setPeer_mirrors (s : State) (c : Nat) (p : Peer) : (s.setPeer c p).mirrors = s.mirrors := rfl
@[simp] theorem State.setPeer_held (s : State) (c : Nat) (p : Peer) : (s.setPeer c p).held = s.held := rfl
@[simp] theorem State.setPeer_portWait (s : State) (c : Nat) (p : Peer) : (s.setPeer c p).portWait = s.portWait := rfl
@[simp] theorem State.setPeer_ueMap (s : State) (c : Nat) (p : Peer) : (s.setPeer c p).ueMap = s.ueMap := rfl
@[simp] theorem State.setPeer_sent (s : State) (c : Nat) (p : Peer) : (s.setPeer c p).sent = s.sent := rfl
@[simp] theorem State.setPeer_asm (s : State) (c : Nat) (p : Peer) : (s.setPeer c p).asm = s.asm := rfl
@[simp] theorem State.setPeer_history (s : State) (c : Nat) (p : Peer) : (s.setPeer c p).history = s.history := rfl
@[simp] theorem State.setPeer_pnSeen (s : State) (c : Nat) (p : Peer) : (s.setPeer c p).pnSeen = s.pnSeen := rfl
@[simp] theorem State.setPeer_streams (s : State) (c : Nat) (p : Peer) : (s.setPeer c p).streams = s.streams := rfl
@[simp] theorem State.setPeer_grps (s : State) (c : Nat) (p : Peer) : (s.setPeer c p).grps = s.grps := rfl
@[simp] theorem State.setPeer_esc (s : State) (c : Nat) (p : Peer) : (s.setPeer c p).esc = s.esc := rfl
@[simp] theorem State.setPeer_pw (s : State) (c : Nat) (p : Peer) : (s.setPeer c p).pw = s.pw := rfl
@[simp] theorem State.setPeer_clkHot (s : State) (c : Nat) (p : Peer) : (s.setPeer c p).clkHot = s.clkHot := rfl
@[simp] theorem State.setPeer_trFifo (s : State) (c : Nat) (p : Peer) : (s.setPeer c p).trFifo = s.trFifo := rfl
@[simp] theorem State.setPeer_trDrop (s : State) (c : Nat) (p : Peer) : (s.setPeer c p).trDrop = s.trDrop := rfl
@[simp] theorem State.setPeer_trBuf (s : State) (c : Nat) (p : Peer) : (s.setPeer c p).trBuf = s.trBuf := rfl
@[simp] theorem State.setPeer_trCopy (s : State) (c : Nat) (p : Peer) : (s.setPeer c p).trCopy = s.trCopy := rfl
@[simp] theorem State.setPeer_trTo (s : State) (c : Nat) (p : Peer) : (s.setPeer c p).trTo = s.trTo := rfl
@[simp] theorem State.setPeer_bar4Log (s : State) (c : Nat) (p : Peer) : (s.setPeer c p).bar4Log = s.bar4Log := rfl
@[simp] theorem State.setPeer_slotGsq (s : State) (c : Nat) (p : Peer) : (s.setPeer c p).slotGsq = s.slotGsq := rfl
@[simp] theorem State.setPeer_refreshes (s : State) (c : Nat) (p : Peer) : (s.setPeer c p).refreshes = s.refreshes := rfl
@[simp] theorem State.setPeer_grants (s : State) (c : Nat) (p : Peer) : (s.setPeer c p).grants = s.grants := rfl
@[simp] theorem State.setPeer_released (s : State) (c : Nat) (p : Peer) : (s.setPeer c p).released = s.released := rfl
@[simp] theorem State.setPeer_plinth (s : State) (c : Nat) (p : Peer) : (s.setPeer c p).plinth = s.plinth := rfl
@[simp] theorem State.setPeer_out (s : State) (c : Nat) (p : Peer) : (s.setPeer c p).out = s.out := rfl

/-! ### State.setStream writes streams -/

@[simp] theorem State.setStream_pending (s : State) (h : Nat) (x : Stream) : (s.setStream h x).pending = s.pending := rfl
@[simp] theorem State.setStream_time (s : State) (h : Nat) (x : Stream) : (s.setStream h x).time = s.time := rfl
@[simp] theorem State.setStream_regs (s : State) (h : Nat) (x : Stream) : (s.setStream h x).regs = s.regs := rfl
@[simp] theorem State.setStream_lowPend (s : State) (h : Nat) (x : Stream) : (s.setStream h x).lowPend = s.lowPend := rfl
@[simp] theorem State.setStream_hiLatch (s : State) (h : Nat) (x : Stream) : (s.setStream h x).hiLatch = s.hiLatch := rfl
@[simp] theorem State.setStream_perstN (s : State) (h : Nat) (x : Stream) : (s.setStream h x).perstN = s.perstN := rfl
@[simp] theorem State.setStream_pwrWarnN (s : State) (h : Nat) (x : Stream) : (s.setStream h x).pwrWarnN = s.pwrWarnN := rfl
@[simp] theorem State.setStream_modPwrgd (s : State) (h : Nat) (x : Stream) : (s.setStream h x).modPwrgd = s.modPwrgd := rfl
@[simp] theorem State.setStream_alertN (s : State) (h : Nat) (x : Stream) : (s.setStream h x).alertN = s.alertN := rfl
@[simp] theorem State.setStream_rails (s : State) (h : Nat) (x : Stream) : (s.setStream h x).rails = s.rails := rfl
@[simp] theorem State.setStream_inputIn (s : State) (h : Nat) (x : Stream) : (s.setStream h x).inputIn = s.inputIn := rfl
@[simp] theorem State.setStream_barUp (s : State) (h : Nat) (x : Stream) : (s.setStream h x).barUp = s.barUp := rfl
@[simp] theorem State.setStream_halted (s : State) (h : Nat) (x : Stream) : (s.setStream h x).halted = s.halted := rfl
@[simp] theorem State.setStream_draws (s : State) (h : Nat) (x : Stream) : (s.setStream h x).draws = s.draws := rfl
@[simp] theorem State.setStream_dev (s : State) (h : Nat) (x : Stream) : (s.setStream h x).dev = s.dev := rfl
@[simp] theorem State.setStream_host (s : State) (h : Nat) (x : Stream) : (s.setStream h x).host = s.host := rfl
@[simp] theorem State.setStream_pages (s : State) (h : Nat) (x : Stream) : (s.setStream h x).pages = s.pages := rfl
@[simp] theorem State.setStream_claims (s : State) (h : Nat) (x : Stream) : (s.setStream h x).claims = s.claims := rfl
@[simp] theorem State.setStream_resv (s : State) (h : Nat) (x : Stream) : (s.setStream h x).resv = s.resv := rfl
@[simp] theorem State.setStream_heldBase (s : State) (h : Nat) (x : Stream) : (s.setStream h x).heldBase = s.heldBase := rfl
@[simp] theorem State.setStream_poison (s : State) (h : Nat) (x : Stream) : (s.setStream h x).poison = s.poison := rfl
@[simp] theorem State.setStream_retired (s : State) (h : Nat) (x : Stream) : (s.setStream h x).retired = s.retired := rfl
@[simp] theorem State.setStream_pcErrs (s : State) (h : Nat) (x : Stream) : (s.setStream h x).pcErrs = s.pcErrs := rfl
@[simp] theorem State.setStream_cores (s : State) (h : Nat) (x : Stream) : (s.setStream h x).cores = s.cores := rfl
@[simp] theorem State.setStream_scratch (s : State) (h : Nat) (x : Stream) : (s.setStream h x).scratch = s.scratch := rfl
@[simp] theorem State.setStream_journal (s : State) (h : Nat) (x : Stream) : (s.setStream h x).journal = s.journal := rfl
@[simp] theorem State.setStream_accepted (s : State) (h : Nat) (x : Stream) : (s.setStream h x).accepted = s.accepted := rfl
@[simp] theorem State.setStream_led (s : State) (h : Nat) (x : Stream) : (s.setStream h x).led = s.led := rfl
@[simp] theorem State.setStream_lsn (s : State) (h : Nat) (x : Stream) : (s.setStream h x).lsn = s.lsn := rfl
@[simp] theorem State.setStream_fenced (s : State) (h : Nat) (x : Stream) : (s.setStream h x).fenced = s.fenced := rfl
@[simp] theorem State.setStream_diesOut (s : State) (h : Nat) (x : Stream) : (s.setStream h x).diesOut = s.diesOut := rfl
@[simp] theorem State.setStream_dieNap (s : State) (h : Nat) (x : Stream) : (s.setStream h x).dieNap = s.dieNap := rfl
@[simp] theorem State.setStream_ctx (s : State) (h : Nat) (x : Stream) : (s.setStream h x).ctx = s.ctx := rfl
@[simp] theorem State.setStream_images (s : State) (h : Nat) (x : Stream) : (s.setStream h x).images = s.images := rfl
@[simp] theorem State.setStream_rings (s : State) (h : Nat) (x : Stream) : (s.setStream h x).rings = s.rings := rfl
@[simp] theorem State.setStream_ops (s : State) (h : Nat) (x : Stream) : (s.setStream h x).ops = s.ops := rfl
@[simp] theorem State.setStream_orders (s : State) (h : Nat) (x : Stream) : (s.setStream h x).orders = s.orders := rfl
@[simp] theorem State.setStream_elig (s : State) (h : Nat) (x : Stream) : (s.setStream h x).elig = s.elig := rfl
@[simp] theorem State.setStream_gens (s : State) (h : Nat) (x : Stream) : (s.setStream h x).gens = s.gens := rfl
@[simp] theorem State.setStream_wcGen (s : State) (h : Nat) (x : Stream) : (s.setStream h x).wcGen = s.wcGen := rfl
@[simp] theorem State.setStream_vtClass (s : State) (h : Nat) (x : Stream) : (s.setStream h x).vtClass = s.vtClass := rfl
@[simp] theorem State.setStream_vtPart (s : State) (h : Nat) (x : Stream) : (s.setStream h x).vtPart = s.vtPart := rfl
@[simp] theorem State.setStream_insts (s : State) (h : Nat) (x : Stream) : (s.setStream h x).insts = s.insts := rfl
@[simp] theorem State.setStream_parts (s : State) (h : Nat) (x : Stream) : (s.setStream h x).parts = s.parts := rfl
@[simp] theorem State.setStream_mbUp (s : State) (h : Nat) (x : Stream) : (s.setStream h x).mbUp = s.mbUp := rfl
@[simp] theorem State.setStream_mbDown (s : State) (h : Nat) (x : Stream) : (s.setStream h x).mbDown = s.mbDown := rfl
@[simp] theorem State.setStream_mbUpOwn (s : State) (h : Nat) (x : Stream) : (s.setStream h x).mbUpOwn = s.mbUpOwn := rfl
@[simp] theorem State.setStream_mbDownOwn (s : State) (h : Nat) (x : Stream) : (s.setStream h x).mbDownOwn = s.mbDownOwn := rfl
@[simp] theorem State.setStream_mbUpDrop (s : State) (h : Nat) (x : Stream) : (s.setStream h x).mbUpDrop = s.mbUpDrop := rfl
@[simp] theorem State.setStream_mbDownDrop (s : State) (h : Nat) (x : Stream) : (s.setStream h x).mbDownDrop = s.mbDownDrop := rfl
@[simp] theorem State.setStream_descs (s : State) (h : Nat) (x : Stream) : (s.setStream h x).descs = s.descs := rfl
@[simp] theorem State.setStream_ktab (s : State) (h : Nat) (x : Stream) : (s.setStream h x).ktab = s.ktab := rfl
@[simp] theorem State.setStream_ikeys (s : State) (h : Nat) (x : Stream) : (s.setStream h x).ikeys = s.ikeys := rfl
@[simp] theorem State.setStream_migKey (s : State) (h : Nat) (x : Stream) : (s.setStream h x).migKey = s.migKey := rfl
@[simp] theorem State.setStream_kcache (s : State) (h : Nat) (x : Stream) : (s.setStream h x).kcache = s.kcache := rfl
@[simp] theorem State.setStream_sysKey (s : State) (h : Nat) (x : Stream) : (s.setStream h x).sysKey = s.sysKey := rfl
@[simp] theorem State.setStream_tableKey (s : State) (h : Nat) (x : Stream) : (s.setStream h x).tableKey = s.tableKey := rfl
@[simp] theorem State.setStream_linkKeys (s : State) (h : Nat) (x : Stream) : (s.setStream h x).linkKeys = s.linkKeys := rfl
@[simp] theorem State.setStream_xlat (s : State) (h : Nat) (x : Stream) : (s.setStream h x).xlat = s.xlat := rfl
@[simp] theorem State.setStream_spdm (s : State) (h : Nat) (x : Stream) : (s.setStream h x).spdm = s.spdm := rfl
@[simp] theorem State.setStream_sealCert (s : State) (h : Nat) (x : Stream) : (s.setStream h x).sealCert = s.sealCert := rfl
@[simp] theorem State.setStream_ideKeys (s : State) (h : Nat) (x : Stream) : (s.setStream h x).ideKeys = s.ideKeys := rfl
@[simp] theorem State.setStream_unsealing (s : State) (h : Nat) (x : Stream) : (s.setStream h x).unsealing = s.unsealing := rfl
@[simp] theorem State.setStream_ls (s : State) (h : Nat) (x : Stream) : (s.setStream h x).ls = s.ls := rfl
@[simp] theorem State.setStream_norms (s : State) (h : Nat) (x : Stream) : (s.setStream h x).norms = s.norms := rfl
@[simp] theorem State.setStream_bnorms (s : State) (h : Nat) (x : Stream) : (s.setStream h x).bnorms = s.bnorms := rfl
@[simp] theorem State.setStream_updLog (s : State) (h : Nat) (x : Stream) : (s.setStream h x).updLog = s.updLog := rfl
@[simp] theorem State.setStream_jobs (s : State) (h : Nat) (x : Stream) : (s.setStream h x).jobs = s.jobs := rfl
@[simp] theorem State.setStream_jobNum (s : State) (h : Nat) (x : Stream) : (s.setStream h x).jobNum = s.jobNum := rfl
@[simp] theorem State.setStream_ran (s : State) (h : Nat) (x : Stream) : (s.setStream h x).ran = s.ran := rfl
@[simp] theorem State.setStream_stage12 (s : State) (h : Nat) (x : Stream) : (s.setStream h x).stage12 = s.stage12 := rfl
@[simp] theorem State.setStream_mirrors (s : State) (h : Nat) (x : Stream) : (s.setStream h x).mirrors = s.mirrors := rfl
@[simp] theorem State.setStream_held (s : State) (h : Nat) (x : Stream) : (s.setStream h x).held = s.held := rfl
@[simp] theorem State.setStream_portWait (s : State) (h : Nat) (x : Stream) : (s.setStream h x).portWait = s.portWait := rfl
@[simp] theorem State.setStream_ueMap (s : State) (h : Nat) (x : Stream) : (s.setStream h x).ueMap = s.ueMap := rfl
@[simp] theorem State.setStream_peers (s : State) (h : Nat) (x : Stream) : (s.setStream h x).peers = s.peers := rfl
@[simp] theorem State.setStream_sent (s : State) (h : Nat) (x : Stream) : (s.setStream h x).sent = s.sent := rfl
@[simp] theorem State.setStream_asm (s : State) (h : Nat) (x : Stream) : (s.setStream h x).asm = s.asm := rfl
@[simp] theorem State.setStream_history (s : State) (h : Nat) (x : Stream) : (s.setStream h x).history = s.history := rfl
@[simp] theorem State.setStream_pnSeen (s : State) (h : Nat) (x : Stream) : (s.setStream h x).pnSeen = s.pnSeen := rfl
@[simp] theorem State.setStream_grps (s : State) (h : Nat) (x : Stream) : (s.setStream h x).grps = s.grps := rfl
@[simp] theorem State.setStream_esc (s : State) (h : Nat) (x : Stream) : (s.setStream h x).esc = s.esc := rfl
@[simp] theorem State.setStream_pw (s : State) (h : Nat) (x : Stream) : (s.setStream h x).pw = s.pw := rfl
@[simp] theorem State.setStream_clkHot (s : State) (h : Nat) (x : Stream) : (s.setStream h x).clkHot = s.clkHot := rfl
@[simp] theorem State.setStream_trFifo (s : State) (h : Nat) (x : Stream) : (s.setStream h x).trFifo = s.trFifo := rfl
@[simp] theorem State.setStream_trDrop (s : State) (h : Nat) (x : Stream) : (s.setStream h x).trDrop = s.trDrop := rfl
@[simp] theorem State.setStream_trBuf (s : State) (h : Nat) (x : Stream) : (s.setStream h x).trBuf = s.trBuf := rfl
@[simp] theorem State.setStream_trCopy (s : State) (h : Nat) (x : Stream) : (s.setStream h x).trCopy = s.trCopy := rfl
@[simp] theorem State.setStream_trTo (s : State) (h : Nat) (x : Stream) : (s.setStream h x).trTo = s.trTo := rfl
@[simp] theorem State.setStream_bar4Log (s : State) (h : Nat) (x : Stream) : (s.setStream h x).bar4Log = s.bar4Log := rfl
@[simp] theorem State.setStream_slotGsq (s : State) (h : Nat) (x : Stream) : (s.setStream h x).slotGsq = s.slotGsq := rfl
@[simp] theorem State.setStream_refreshes (s : State) (h : Nat) (x : Stream) : (s.setStream h x).refreshes = s.refreshes := rfl
@[simp] theorem State.setStream_grants (s : State) (h : Nat) (x : Stream) : (s.setStream h x).grants = s.grants := rfl
@[simp] theorem State.setStream_released (s : State) (h : Nat) (x : Stream) : (s.setStream h x).released = s.released := rfl
@[simp] theorem State.setStream_plinth (s : State) (h : Nat) (x : Stream) : (s.setStream h x).plinth = s.plinth := rfl
@[simp] theorem State.setStream_out (s : State) (h : Nat) (x : Stream) : (s.setStream h x).out = s.out := rfl

/-! ### State.setGrp writes grps -/

@[simp] theorem State.setGrp_pending (s : State) (g : Nat) (x : Grp) : (s.setGrp g x).pending = s.pending := rfl
@[simp] theorem State.setGrp_time (s : State) (g : Nat) (x : Grp) : (s.setGrp g x).time = s.time := rfl
@[simp] theorem State.setGrp_regs (s : State) (g : Nat) (x : Grp) : (s.setGrp g x).regs = s.regs := rfl
@[simp] theorem State.setGrp_lowPend (s : State) (g : Nat) (x : Grp) : (s.setGrp g x).lowPend = s.lowPend := rfl
@[simp] theorem State.setGrp_hiLatch (s : State) (g : Nat) (x : Grp) : (s.setGrp g x).hiLatch = s.hiLatch := rfl
@[simp] theorem State.setGrp_perstN (s : State) (g : Nat) (x : Grp) : (s.setGrp g x).perstN = s.perstN := rfl
@[simp] theorem State.setGrp_pwrWarnN (s : State) (g : Nat) (x : Grp) : (s.setGrp g x).pwrWarnN = s.pwrWarnN := rfl
@[simp] theorem State.setGrp_modPwrgd (s : State) (g : Nat) (x : Grp) : (s.setGrp g x).modPwrgd = s.modPwrgd := rfl
@[simp] theorem State.setGrp_alertN (s : State) (g : Nat) (x : Grp) : (s.setGrp g x).alertN = s.alertN := rfl
@[simp] theorem State.setGrp_rails (s : State) (g : Nat) (x : Grp) : (s.setGrp g x).rails = s.rails := rfl
@[simp] theorem State.setGrp_inputIn (s : State) (g : Nat) (x : Grp) : (s.setGrp g x).inputIn = s.inputIn := rfl
@[simp] theorem State.setGrp_barUp (s : State) (g : Nat) (x : Grp) : (s.setGrp g x).barUp = s.barUp := rfl
@[simp] theorem State.setGrp_halted (s : State) (g : Nat) (x : Grp) : (s.setGrp g x).halted = s.halted := rfl
@[simp] theorem State.setGrp_draws (s : State) (g : Nat) (x : Grp) : (s.setGrp g x).draws = s.draws := rfl
@[simp] theorem State.setGrp_dev (s : State) (g : Nat) (x : Grp) : (s.setGrp g x).dev = s.dev := rfl
@[simp] theorem State.setGrp_host (s : State) (g : Nat) (x : Grp) : (s.setGrp g x).host = s.host := rfl
@[simp] theorem State.setGrp_pages (s : State) (g : Nat) (x : Grp) : (s.setGrp g x).pages = s.pages := rfl
@[simp] theorem State.setGrp_claims (s : State) (g : Nat) (x : Grp) : (s.setGrp g x).claims = s.claims := rfl
@[simp] theorem State.setGrp_resv (s : State) (g : Nat) (x : Grp) : (s.setGrp g x).resv = s.resv := rfl
@[simp] theorem State.setGrp_heldBase (s : State) (g : Nat) (x : Grp) : (s.setGrp g x).heldBase = s.heldBase := rfl
@[simp] theorem State.setGrp_poison (s : State) (g : Nat) (x : Grp) : (s.setGrp g x).poison = s.poison := rfl
@[simp] theorem State.setGrp_retired (s : State) (g : Nat) (x : Grp) : (s.setGrp g x).retired = s.retired := rfl
@[simp] theorem State.setGrp_pcErrs (s : State) (g : Nat) (x : Grp) : (s.setGrp g x).pcErrs = s.pcErrs := rfl
@[simp] theorem State.setGrp_cores (s : State) (g : Nat) (x : Grp) : (s.setGrp g x).cores = s.cores := rfl
@[simp] theorem State.setGrp_scratch (s : State) (g : Nat) (x : Grp) : (s.setGrp g x).scratch = s.scratch := rfl
@[simp] theorem State.setGrp_journal (s : State) (g : Nat) (x : Grp) : (s.setGrp g x).journal = s.journal := rfl
@[simp] theorem State.setGrp_accepted (s : State) (g : Nat) (x : Grp) : (s.setGrp g x).accepted = s.accepted := rfl
@[simp] theorem State.setGrp_led (s : State) (g : Nat) (x : Grp) : (s.setGrp g x).led = s.led := rfl
@[simp] theorem State.setGrp_lsn (s : State) (g : Nat) (x : Grp) : (s.setGrp g x).lsn = s.lsn := rfl
@[simp] theorem State.setGrp_fenced (s : State) (g : Nat) (x : Grp) : (s.setGrp g x).fenced = s.fenced := rfl
@[simp] theorem State.setGrp_diesOut (s : State) (g : Nat) (x : Grp) : (s.setGrp g x).diesOut = s.diesOut := rfl
@[simp] theorem State.setGrp_dieNap (s : State) (g : Nat) (x : Grp) : (s.setGrp g x).dieNap = s.dieNap := rfl
@[simp] theorem State.setGrp_ctx (s : State) (g : Nat) (x : Grp) : (s.setGrp g x).ctx = s.ctx := rfl
@[simp] theorem State.setGrp_images (s : State) (g : Nat) (x : Grp) : (s.setGrp g x).images = s.images := rfl
@[simp] theorem State.setGrp_rings (s : State) (g : Nat) (x : Grp) : (s.setGrp g x).rings = s.rings := rfl
@[simp] theorem State.setGrp_ops (s : State) (g : Nat) (x : Grp) : (s.setGrp g x).ops = s.ops := rfl
@[simp] theorem State.setGrp_orders (s : State) (g : Nat) (x : Grp) : (s.setGrp g x).orders = s.orders := rfl
@[simp] theorem State.setGrp_elig (s : State) (g : Nat) (x : Grp) : (s.setGrp g x).elig = s.elig := rfl
@[simp] theorem State.setGrp_gens (s : State) (g : Nat) (x : Grp) : (s.setGrp g x).gens = s.gens := rfl
@[simp] theorem State.setGrp_wcGen (s : State) (g : Nat) (x : Grp) : (s.setGrp g x).wcGen = s.wcGen := rfl
@[simp] theorem State.setGrp_vtClass (s : State) (g : Nat) (x : Grp) : (s.setGrp g x).vtClass = s.vtClass := rfl
@[simp] theorem State.setGrp_vtPart (s : State) (g : Nat) (x : Grp) : (s.setGrp g x).vtPart = s.vtPart := rfl
@[simp] theorem State.setGrp_insts (s : State) (g : Nat) (x : Grp) : (s.setGrp g x).insts = s.insts := rfl
@[simp] theorem State.setGrp_parts (s : State) (g : Nat) (x : Grp) : (s.setGrp g x).parts = s.parts := rfl
@[simp] theorem State.setGrp_mbUp (s : State) (g : Nat) (x : Grp) : (s.setGrp g x).mbUp = s.mbUp := rfl
@[simp] theorem State.setGrp_mbDown (s : State) (g : Nat) (x : Grp) : (s.setGrp g x).mbDown = s.mbDown := rfl
@[simp] theorem State.setGrp_mbUpOwn (s : State) (g : Nat) (x : Grp) : (s.setGrp g x).mbUpOwn = s.mbUpOwn := rfl
@[simp] theorem State.setGrp_mbDownOwn (s : State) (g : Nat) (x : Grp) : (s.setGrp g x).mbDownOwn = s.mbDownOwn := rfl
@[simp] theorem State.setGrp_mbUpDrop (s : State) (g : Nat) (x : Grp) : (s.setGrp g x).mbUpDrop = s.mbUpDrop := rfl
@[simp] theorem State.setGrp_mbDownDrop (s : State) (g : Nat) (x : Grp) : (s.setGrp g x).mbDownDrop = s.mbDownDrop := rfl
@[simp] theorem State.setGrp_descs (s : State) (g : Nat) (x : Grp) : (s.setGrp g x).descs = s.descs := rfl
@[simp] theorem State.setGrp_ktab (s : State) (g : Nat) (x : Grp) : (s.setGrp g x).ktab = s.ktab := rfl
@[simp] theorem State.setGrp_ikeys (s : State) (g : Nat) (x : Grp) : (s.setGrp g x).ikeys = s.ikeys := rfl
@[simp] theorem State.setGrp_migKey (s : State) (g : Nat) (x : Grp) : (s.setGrp g x).migKey = s.migKey := rfl
@[simp] theorem State.setGrp_kcache (s : State) (g : Nat) (x : Grp) : (s.setGrp g x).kcache = s.kcache := rfl
@[simp] theorem State.setGrp_sysKey (s : State) (g : Nat) (x : Grp) : (s.setGrp g x).sysKey = s.sysKey := rfl
@[simp] theorem State.setGrp_tableKey (s : State) (g : Nat) (x : Grp) : (s.setGrp g x).tableKey = s.tableKey := rfl
@[simp] theorem State.setGrp_linkKeys (s : State) (g : Nat) (x : Grp) : (s.setGrp g x).linkKeys = s.linkKeys := rfl
@[simp] theorem State.setGrp_xlat (s : State) (g : Nat) (x : Grp) : (s.setGrp g x).xlat = s.xlat := rfl
@[simp] theorem State.setGrp_spdm (s : State) (g : Nat) (x : Grp) : (s.setGrp g x).spdm = s.spdm := rfl
@[simp] theorem State.setGrp_sealCert (s : State) (g : Nat) (x : Grp) : (s.setGrp g x).sealCert = s.sealCert := rfl
@[simp] theorem State.setGrp_ideKeys (s : State) (g : Nat) (x : Grp) : (s.setGrp g x).ideKeys = s.ideKeys := rfl
@[simp] theorem State.setGrp_unsealing (s : State) (g : Nat) (x : Grp) : (s.setGrp g x).unsealing = s.unsealing := rfl
@[simp] theorem State.setGrp_ls (s : State) (g : Nat) (x : Grp) : (s.setGrp g x).ls = s.ls := rfl
@[simp] theorem State.setGrp_norms (s : State) (g : Nat) (x : Grp) : (s.setGrp g x).norms = s.norms := rfl
@[simp] theorem State.setGrp_bnorms (s : State) (g : Nat) (x : Grp) : (s.setGrp g x).bnorms = s.bnorms := rfl
@[simp] theorem State.setGrp_updLog (s : State) (g : Nat) (x : Grp) : (s.setGrp g x).updLog = s.updLog := rfl
@[simp] theorem State.setGrp_jobs (s : State) (g : Nat) (x : Grp) : (s.setGrp g x).jobs = s.jobs := rfl
@[simp] theorem State.setGrp_jobNum (s : State) (g : Nat) (x : Grp) : (s.setGrp g x).jobNum = s.jobNum := rfl
@[simp] theorem State.setGrp_ran (s : State) (g : Nat) (x : Grp) : (s.setGrp g x).ran = s.ran := rfl
@[simp] theorem State.setGrp_stage12 (s : State) (g : Nat) (x : Grp) : (s.setGrp g x).stage12 = s.stage12 := rfl
@[simp] theorem State.setGrp_mirrors (s : State) (g : Nat) (x : Grp) : (s.setGrp g x).mirrors = s.mirrors := rfl
@[simp] theorem State.setGrp_held (s : State) (g : Nat) (x : Grp) : (s.setGrp g x).held = s.held := rfl
@[simp] theorem State.setGrp_portWait (s : State) (g : Nat) (x : Grp) : (s.setGrp g x).portWait = s.portWait := rfl
@[simp] theorem State.setGrp_ueMap (s : State) (g : Nat) (x : Grp) : (s.setGrp g x).ueMap = s.ueMap := rfl
@[simp] theorem State.setGrp_peers (s : State) (g : Nat) (x : Grp) : (s.setGrp g x).peers = s.peers := rfl
@[simp] theorem State.setGrp_sent (s : State) (g : Nat) (x : Grp) : (s.setGrp g x).sent = s.sent := rfl
@[simp] theorem State.setGrp_asm (s : State) (g : Nat) (x : Grp) : (s.setGrp g x).asm = s.asm := rfl
@[simp] theorem State.setGrp_history (s : State) (g : Nat) (x : Grp) : (s.setGrp g x).history = s.history := rfl
@[simp] theorem State.setGrp_pnSeen (s : State) (g : Nat) (x : Grp) : (s.setGrp g x).pnSeen = s.pnSeen := rfl
@[simp] theorem State.setGrp_streams (s : State) (g : Nat) (x : Grp) : (s.setGrp g x).streams = s.streams := rfl
@[simp] theorem State.setGrp_esc (s : State) (g : Nat) (x : Grp) : (s.setGrp g x).esc = s.esc := rfl
@[simp] theorem State.setGrp_pw (s : State) (g : Nat) (x : Grp) : (s.setGrp g x).pw = s.pw := rfl
@[simp] theorem State.setGrp_clkHot (s : State) (g : Nat) (x : Grp) : (s.setGrp g x).clkHot = s.clkHot := rfl
@[simp] theorem State.setGrp_trFifo (s : State) (g : Nat) (x : Grp) : (s.setGrp g x).trFifo = s.trFifo := rfl
@[simp] theorem State.setGrp_trDrop (s : State) (g : Nat) (x : Grp) : (s.setGrp g x).trDrop = s.trDrop := rfl
@[simp] theorem State.setGrp_trBuf (s : State) (g : Nat) (x : Grp) : (s.setGrp g x).trBuf = s.trBuf := rfl
@[simp] theorem State.setGrp_trCopy (s : State) (g : Nat) (x : Grp) : (s.setGrp g x).trCopy = s.trCopy := rfl
@[simp] theorem State.setGrp_trTo (s : State) (g : Nat) (x : Grp) : (s.setGrp g x).trTo = s.trTo := rfl
@[simp] theorem State.setGrp_bar4Log (s : State) (g : Nat) (x : Grp) : (s.setGrp g x).bar4Log = s.bar4Log := rfl
@[simp] theorem State.setGrp_slotGsq (s : State) (g : Nat) (x : Grp) : (s.setGrp g x).slotGsq = s.slotGsq := rfl
@[simp] theorem State.setGrp_refreshes (s : State) (g : Nat) (x : Grp) : (s.setGrp g x).refreshes = s.refreshes := rfl
@[simp] theorem State.setGrp_grants (s : State) (g : Nat) (x : Grp) : (s.setGrp g x).grants = s.grants := rfl
@[simp] theorem State.setGrp_released (s : State) (g : Nat) (x : Grp) : (s.setGrp g x).released = s.released := rfl
@[simp] theorem State.setGrp_plinth (s : State) (g : Nat) (x : Grp) : (s.setGrp g x).plinth = s.plinth := rfl
@[simp] theorem State.setGrp_out (s : State) (g : Nat) (x : Grp) : (s.setGrp g x).out = s.out := rfl

/-! ### State.setLsc writes ls -/

@[simp] theorem State.setLsc_pending (s : State) (p : Nat) (x : LsCtx) : (s.setLsc p x).pending = s.pending := rfl
@[simp] theorem State.setLsc_time (s : State) (p : Nat) (x : LsCtx) : (s.setLsc p x).time = s.time := rfl
@[simp] theorem State.setLsc_regs (s : State) (p : Nat) (x : LsCtx) : (s.setLsc p x).regs = s.regs := rfl
@[simp] theorem State.setLsc_lowPend (s : State) (p : Nat) (x : LsCtx) : (s.setLsc p x).lowPend = s.lowPend := rfl
@[simp] theorem State.setLsc_hiLatch (s : State) (p : Nat) (x : LsCtx) : (s.setLsc p x).hiLatch = s.hiLatch := rfl
@[simp] theorem State.setLsc_perstN (s : State) (p : Nat) (x : LsCtx) : (s.setLsc p x).perstN = s.perstN := rfl
@[simp] theorem State.setLsc_pwrWarnN (s : State) (p : Nat) (x : LsCtx) : (s.setLsc p x).pwrWarnN = s.pwrWarnN := rfl
@[simp] theorem State.setLsc_modPwrgd (s : State) (p : Nat) (x : LsCtx) : (s.setLsc p x).modPwrgd = s.modPwrgd := rfl
@[simp] theorem State.setLsc_alertN (s : State) (p : Nat) (x : LsCtx) : (s.setLsc p x).alertN = s.alertN := rfl
@[simp] theorem State.setLsc_rails (s : State) (p : Nat) (x : LsCtx) : (s.setLsc p x).rails = s.rails := rfl
@[simp] theorem State.setLsc_inputIn (s : State) (p : Nat) (x : LsCtx) : (s.setLsc p x).inputIn = s.inputIn := rfl
@[simp] theorem State.setLsc_barUp (s : State) (p : Nat) (x : LsCtx) : (s.setLsc p x).barUp = s.barUp := rfl
@[simp] theorem State.setLsc_halted (s : State) (p : Nat) (x : LsCtx) : (s.setLsc p x).halted = s.halted := rfl
@[simp] theorem State.setLsc_draws (s : State) (p : Nat) (x : LsCtx) : (s.setLsc p x).draws = s.draws := rfl
@[simp] theorem State.setLsc_dev (s : State) (p : Nat) (x : LsCtx) : (s.setLsc p x).dev = s.dev := rfl
@[simp] theorem State.setLsc_host (s : State) (p : Nat) (x : LsCtx) : (s.setLsc p x).host = s.host := rfl
@[simp] theorem State.setLsc_pages (s : State) (p : Nat) (x : LsCtx) : (s.setLsc p x).pages = s.pages := rfl
@[simp] theorem State.setLsc_claims (s : State) (p : Nat) (x : LsCtx) : (s.setLsc p x).claims = s.claims := rfl
@[simp] theorem State.setLsc_resv (s : State) (p : Nat) (x : LsCtx) : (s.setLsc p x).resv = s.resv := rfl
@[simp] theorem State.setLsc_heldBase (s : State) (p : Nat) (x : LsCtx) : (s.setLsc p x).heldBase = s.heldBase := rfl
@[simp] theorem State.setLsc_poison (s : State) (p : Nat) (x : LsCtx) : (s.setLsc p x).poison = s.poison := rfl
@[simp] theorem State.setLsc_retired (s : State) (p : Nat) (x : LsCtx) : (s.setLsc p x).retired = s.retired := rfl
@[simp] theorem State.setLsc_pcErrs (s : State) (p : Nat) (x : LsCtx) : (s.setLsc p x).pcErrs = s.pcErrs := rfl
@[simp] theorem State.setLsc_cores (s : State) (p : Nat) (x : LsCtx) : (s.setLsc p x).cores = s.cores := rfl
@[simp] theorem State.setLsc_scratch (s : State) (p : Nat) (x : LsCtx) : (s.setLsc p x).scratch = s.scratch := rfl
@[simp] theorem State.setLsc_journal (s : State) (p : Nat) (x : LsCtx) : (s.setLsc p x).journal = s.journal := rfl
@[simp] theorem State.setLsc_accepted (s : State) (p : Nat) (x : LsCtx) : (s.setLsc p x).accepted = s.accepted := rfl
@[simp] theorem State.setLsc_led (s : State) (p : Nat) (x : LsCtx) : (s.setLsc p x).led = s.led := rfl
@[simp] theorem State.setLsc_lsn (s : State) (p : Nat) (x : LsCtx) : (s.setLsc p x).lsn = s.lsn := rfl
@[simp] theorem State.setLsc_fenced (s : State) (p : Nat) (x : LsCtx) : (s.setLsc p x).fenced = s.fenced := rfl
@[simp] theorem State.setLsc_diesOut (s : State) (p : Nat) (x : LsCtx) : (s.setLsc p x).diesOut = s.diesOut := rfl
@[simp] theorem State.setLsc_dieNap (s : State) (p : Nat) (x : LsCtx) : (s.setLsc p x).dieNap = s.dieNap := rfl
@[simp] theorem State.setLsc_ctx (s : State) (p : Nat) (x : LsCtx) : (s.setLsc p x).ctx = s.ctx := rfl
@[simp] theorem State.setLsc_images (s : State) (p : Nat) (x : LsCtx) : (s.setLsc p x).images = s.images := rfl
@[simp] theorem State.setLsc_rings (s : State) (p : Nat) (x : LsCtx) : (s.setLsc p x).rings = s.rings := rfl
@[simp] theorem State.setLsc_ops (s : State) (p : Nat) (x : LsCtx) : (s.setLsc p x).ops = s.ops := rfl
@[simp] theorem State.setLsc_orders (s : State) (p : Nat) (x : LsCtx) : (s.setLsc p x).orders = s.orders := rfl
@[simp] theorem State.setLsc_elig (s : State) (p : Nat) (x : LsCtx) : (s.setLsc p x).elig = s.elig := rfl
@[simp] theorem State.setLsc_gens (s : State) (p : Nat) (x : LsCtx) : (s.setLsc p x).gens = s.gens := rfl
@[simp] theorem State.setLsc_wcGen (s : State) (p : Nat) (x : LsCtx) : (s.setLsc p x).wcGen = s.wcGen := rfl
@[simp] theorem State.setLsc_vtClass (s : State) (p : Nat) (x : LsCtx) : (s.setLsc p x).vtClass = s.vtClass := rfl
@[simp] theorem State.setLsc_vtPart (s : State) (p : Nat) (x : LsCtx) : (s.setLsc p x).vtPart = s.vtPart := rfl
@[simp] theorem State.setLsc_insts (s : State) (p : Nat) (x : LsCtx) : (s.setLsc p x).insts = s.insts := rfl
@[simp] theorem State.setLsc_parts (s : State) (p : Nat) (x : LsCtx) : (s.setLsc p x).parts = s.parts := rfl
@[simp] theorem State.setLsc_mbUp (s : State) (p : Nat) (x : LsCtx) : (s.setLsc p x).mbUp = s.mbUp := rfl
@[simp] theorem State.setLsc_mbDown (s : State) (p : Nat) (x : LsCtx) : (s.setLsc p x).mbDown = s.mbDown := rfl
@[simp] theorem State.setLsc_mbUpOwn (s : State) (p : Nat) (x : LsCtx) : (s.setLsc p x).mbUpOwn = s.mbUpOwn := rfl
@[simp] theorem State.setLsc_mbDownOwn (s : State) (p : Nat) (x : LsCtx) : (s.setLsc p x).mbDownOwn = s.mbDownOwn := rfl
@[simp] theorem State.setLsc_mbUpDrop (s : State) (p : Nat) (x : LsCtx) : (s.setLsc p x).mbUpDrop = s.mbUpDrop := rfl
@[simp] theorem State.setLsc_mbDownDrop (s : State) (p : Nat) (x : LsCtx) : (s.setLsc p x).mbDownDrop = s.mbDownDrop := rfl
@[simp] theorem State.setLsc_descs (s : State) (p : Nat) (x : LsCtx) : (s.setLsc p x).descs = s.descs := rfl
@[simp] theorem State.setLsc_ktab (s : State) (p : Nat) (x : LsCtx) : (s.setLsc p x).ktab = s.ktab := rfl
@[simp] theorem State.setLsc_ikeys (s : State) (p : Nat) (x : LsCtx) : (s.setLsc p x).ikeys = s.ikeys := rfl
@[simp] theorem State.setLsc_migKey (s : State) (p : Nat) (x : LsCtx) : (s.setLsc p x).migKey = s.migKey := rfl
@[simp] theorem State.setLsc_kcache (s : State) (p : Nat) (x : LsCtx) : (s.setLsc p x).kcache = s.kcache := rfl
@[simp] theorem State.setLsc_sysKey (s : State) (p : Nat) (x : LsCtx) : (s.setLsc p x).sysKey = s.sysKey := rfl
@[simp] theorem State.setLsc_tableKey (s : State) (p : Nat) (x : LsCtx) : (s.setLsc p x).tableKey = s.tableKey := rfl
@[simp] theorem State.setLsc_linkKeys (s : State) (p : Nat) (x : LsCtx) : (s.setLsc p x).linkKeys = s.linkKeys := rfl
@[simp] theorem State.setLsc_xlat (s : State) (p : Nat) (x : LsCtx) : (s.setLsc p x).xlat = s.xlat := rfl
@[simp] theorem State.setLsc_spdm (s : State) (p : Nat) (x : LsCtx) : (s.setLsc p x).spdm = s.spdm := rfl
@[simp] theorem State.setLsc_sealCert (s : State) (p : Nat) (x : LsCtx) : (s.setLsc p x).sealCert = s.sealCert := rfl
@[simp] theorem State.setLsc_ideKeys (s : State) (p : Nat) (x : LsCtx) : (s.setLsc p x).ideKeys = s.ideKeys := rfl
@[simp] theorem State.setLsc_unsealing (s : State) (p : Nat) (x : LsCtx) : (s.setLsc p x).unsealing = s.unsealing := rfl
@[simp] theorem State.setLsc_norms (s : State) (p : Nat) (x : LsCtx) : (s.setLsc p x).norms = s.norms := rfl
@[simp] theorem State.setLsc_bnorms (s : State) (p : Nat) (x : LsCtx) : (s.setLsc p x).bnorms = s.bnorms := rfl
@[simp] theorem State.setLsc_updLog (s : State) (p : Nat) (x : LsCtx) : (s.setLsc p x).updLog = s.updLog := rfl
@[simp] theorem State.setLsc_jobs (s : State) (p : Nat) (x : LsCtx) : (s.setLsc p x).jobs = s.jobs := rfl
@[simp] theorem State.setLsc_jobNum (s : State) (p : Nat) (x : LsCtx) : (s.setLsc p x).jobNum = s.jobNum := rfl
@[simp] theorem State.setLsc_ran (s : State) (p : Nat) (x : LsCtx) : (s.setLsc p x).ran = s.ran := rfl
@[simp] theorem State.setLsc_stage12 (s : State) (p : Nat) (x : LsCtx) : (s.setLsc p x).stage12 = s.stage12 := rfl
@[simp] theorem State.setLsc_mirrors (s : State) (p : Nat) (x : LsCtx) : (s.setLsc p x).mirrors = s.mirrors := rfl
@[simp] theorem State.setLsc_held (s : State) (p : Nat) (x : LsCtx) : (s.setLsc p x).held = s.held := rfl
@[simp] theorem State.setLsc_portWait (s : State) (p : Nat) (x : LsCtx) : (s.setLsc p x).portWait = s.portWait := rfl
@[simp] theorem State.setLsc_ueMap (s : State) (p : Nat) (x : LsCtx) : (s.setLsc p x).ueMap = s.ueMap := rfl
@[simp] theorem State.setLsc_peers (s : State) (p : Nat) (x : LsCtx) : (s.setLsc p x).peers = s.peers := rfl
@[simp] theorem State.setLsc_sent (s : State) (p : Nat) (x : LsCtx) : (s.setLsc p x).sent = s.sent := rfl
@[simp] theorem State.setLsc_asm (s : State) (p : Nat) (x : LsCtx) : (s.setLsc p x).asm = s.asm := rfl
@[simp] theorem State.setLsc_history (s : State) (p : Nat) (x : LsCtx) : (s.setLsc p x).history = s.history := rfl
@[simp] theorem State.setLsc_pnSeen (s : State) (p : Nat) (x : LsCtx) : (s.setLsc p x).pnSeen = s.pnSeen := rfl
@[simp] theorem State.setLsc_streams (s : State) (p : Nat) (x : LsCtx) : (s.setLsc p x).streams = s.streams := rfl
@[simp] theorem State.setLsc_grps (s : State) (p : Nat) (x : LsCtx) : (s.setLsc p x).grps = s.grps := rfl
@[simp] theorem State.setLsc_esc (s : State) (p : Nat) (x : LsCtx) : (s.setLsc p x).esc = s.esc := rfl
@[simp] theorem State.setLsc_pw (s : State) (p : Nat) (x : LsCtx) : (s.setLsc p x).pw = s.pw := rfl
@[simp] theorem State.setLsc_clkHot (s : State) (p : Nat) (x : LsCtx) : (s.setLsc p x).clkHot = s.clkHot := rfl
@[simp] theorem State.setLsc_trFifo (s : State) (p : Nat) (x : LsCtx) : (s.setLsc p x).trFifo = s.trFifo := rfl
@[simp] theorem State.setLsc_trDrop (s : State) (p : Nat) (x : LsCtx) : (s.setLsc p x).trDrop = s.trDrop := rfl
@[simp] theorem State.setLsc_trBuf (s : State) (p : Nat) (x : LsCtx) : (s.setLsc p x).trBuf = s.trBuf := rfl
@[simp] theorem State.setLsc_trCopy (s : State) (p : Nat) (x : LsCtx) : (s.setLsc p x).trCopy = s.trCopy := rfl
@[simp] theorem State.setLsc_trTo (s : State) (p : Nat) (x : LsCtx) : (s.setLsc p x).trTo = s.trTo := rfl
@[simp] theorem State.setLsc_bar4Log (s : State) (p : Nat) (x : LsCtx) : (s.setLsc p x).bar4Log = s.bar4Log := rfl
@[simp] theorem State.setLsc_slotGsq (s : State) (p : Nat) (x : LsCtx) : (s.setLsc p x).slotGsq = s.slotGsq := rfl
@[simp] theorem State.setLsc_refreshes (s : State) (p : Nat) (x : LsCtx) : (s.setLsc p x).refreshes = s.refreshes := rfl
@[simp] theorem State.setLsc_grants (s : State) (p : Nat) (x : LsCtx) : (s.setLsc p x).grants = s.grants := rfl
@[simp] theorem State.setLsc_released (s : State) (p : Nat) (x : LsCtx) : (s.setLsc p x).released = s.released := rfl
@[simp] theorem State.setLsc_plinth (s : State) (p : Nat) (x : LsCtx) : (s.setLsc p x).plinth = s.plinth := rfl
@[simp] theorem State.setLsc_out (s : State) (p : Nat) (x : LsCtx) : (s.setLsc p x).out = s.out := rfl

/-! ### What they write -/

@[simp] theorem State.emit_out (s : State) (o : Out) : (s.emit o).out = s.out ++ [o] := rfl
@[simp] theorem State.core_setCore (s : State) (k : Nat) (c : Core) : (s.setCore k c).core k = c := by
  simp [State.core, State.setCore]
theorem State.core_setCore_other (s : State) {k j : Nat} (c : Core) (h : j ≠ k) : (s.setCore k c).core j = s.core j := by
  simp [State.core, State.setCore, Tab.get_put_other _ _ _ h]
@[simp] theorem State.core_updCore (s : State) (k : Nat) (f : Core → Core) : (s.updCore k f).core k = f (s.core k) := by
  simp [State.updCore]
theorem State.core_updCore_other (s : State) {k j : Nat} (f : Core → Core) (h : j ≠ k) :
    (s.updCore k f).core j = s.core j := State.core_setCore_other s _ h
@[simp] theorem State.inst_updInst (s : State) (i : Nat) (f : InstX → InstX) : (s.updInst i f).inst i = f (s.inst i) := by
  simp [State.inst, State.updInst]
theorem State.inst_updInst_other (s : State) {i j : Nat} (f : InstX → InstX) (h : j ≠ i) : (s.updInst i f).inst j = s.inst j := by
  simp [State.inst, State.updInst, Tab.get_upd_other _ _ _ h]
@[simp] theorem State.part_updPart (s : State) (p : Nat) (f : PartX → PartX) : (s.updPart p f).part p = f (s.part p) := by
  simp [State.part, State.updPart]
theorem State.part_updPart_other (s : State) {p j : Nat} (f : PartX → PartX) (h : j ≠ p) : (s.updPart p f).part j = s.part j := by
  simp [State.part, State.updPart, Tab.get_upd_other _ _ _ h]
@[simp] theorem State.desc_setDesc (s : State) (t : Nat) (d : Desc) : (s.setDesc t d).desc t = d := by
  simp [State.desc, State.setDesc]
theorem State.desc_setDesc_other (s : State) {t j : Nat} (d : Desc) (h : j ≠ t) : (s.setDesc t d).desc j = s.desc j := by
  simp [State.desc, State.setDesc, Tab.get_put_other _ _ _ h]
@[simp] theorem State.desc_updDesc (s : State) (t : Nat) (f : Desc → Desc) : (s.updDesc t f).desc t = f (s.desc t) := by
  simp [State.updDesc]
theorem State.desc_updDesc_other (s : State) {t j : Nat} (f : Desc → Desc) (h : j ≠ t) : (s.updDesc t f).desc j = s.desc j :=
  State.desc_setDesc_other s _ h
@[simp] theorem State.ring_updRing (s : State) (i r : Nat) (f : Ring → Ring) : (s.updRing i r f).ring i r = f (s.ring i r) := by
  simp [State.ring, State.updRing]
theorem State.ring_updRing_other (s : State) {i r j q : Nat} (f : Ring → Ring) (h : j * 16384 + q ≠ i * 16384 + r) :
    (s.updRing i r f).ring j q = s.ring j q := by
  simp [State.ring, State.updRing, Tab.get_upd_other _ _ _ h]
@[simp] theorem State.page_setPage (s : State) (n : Nat) (p : Page) : (s.setPage n p).page n = p := by
  simp [State.page, State.setPage]
theorem State.page_setPage_other (s : State) {n j : Nat} (p : Page) (h : j ≠ n) : (s.setPage n p).page j = s.page j := by
  simp [State.page, State.setPage, Tab.get_put_other _ _ _ h]
@[simp] theorem State.peer_setPeer (s : State) (c : Nat) (p : Peer) : (s.setPeer c p).peer c = p := by
  simp [State.peer, State.setPeer]
@[simp] theorem State.stream_setStream (s : State) (h : Nat) (x : Stream) : (s.setStream h x).stream h = x := by
  simp [State.stream, State.setStream]
theorem State.stream_setStream_other (s : State) {h j : Nat} (x : Stream) (e : j ≠ h) : (s.setStream h x).stream j = s.stream j := by
  simp [State.stream, State.setStream, Tab.get_put_other _ _ _ e]
@[simp] theorem State.grp_setGrp (s : State) (g : Nat) (x : Grp) : (s.setGrp g x).grp g = x := by
  simp [State.grp, State.setGrp]
@[simp] theorem State.lsc_setLsc (s : State) (p : Nat) (x : LsCtx) : (s.setLsc p x).lsc p = x := by
  simp [State.lsc, State.setLsc]

/-! ### Registers -/

/-- A stored register reads as its low 64 bits. -/
theorem rd_setReg_self (s : State) (off v : Nat) : rd (s.setReg off v) off = v % 2 ^ 64 := by
  simp [rd, State.setReg]
theorem rd_setReg_other (s : State) {off off' : Nat} (v : Nat) (h : off' ≠ off) : rd (s.setReg off v) off' = rd s off' := by
  simp [rd, State.setReg, Tab.find_insert_other _ _ h]
/-- Setting a field of one register leaves every other register alone. -/
theorem rd_fset_other (s : State) {off off' : Nat} (hi lo v : Nat) (h : off' ≠ off) : rd (fset s off hi lo v) off' = rd s off' :=
  rd_setReg_other s _ h
theorem rd_finc_other (s : State) {off off' : Nat} (hi lo n : Nat) (h : off' ≠ off) : rd (finc s off hi lo n) off' = rd s off' :=
  rd_fset_other s _ _ _ h

end Sys2Proof.Machine
end

