-- ==== Sys2Proof/Laws/Ops.lean ====
section
/-! SUPPORT. What the shared operations can do, said once each: trace packets, register requests, and the issue of a tile
command. -/

namespace Sys2Proof.Machine

/-! ### Trace -/

/-- A trace packet changes nothing beside the trace unit and TR_PTR. -/
theorem tracePut_frame (s : State) (src body typ : Nat) :
    besideCores (tracePut s src body typ) = besideCores s ∧ (tracePut s src body typ).cores = s.cores ∧
      ∀ off, (∀ d, off ≠ Reg.trPtr d) → rd (tracePut s src body typ) off = rd s off := by
  unfold tracePut
  dsimp only
  split
  · exact ⟨rfl, rfl, fun _ _ => rfl⟩
  · split
    · exact ⟨rfl, rfl, fun off h => rd_finc_other _ _ _ _ (h _)⟩
    · split
      · exact ⟨rfl, rfl, fun _ _ => rfl⟩
      · split
        · exact ⟨rfl, rfl, fun off h => rd_finc_other _ _ _ _ (h _)⟩
        · exact ⟨rfl, rfl, fun _ _ => rfl⟩

/-- The CMD packet of a command changes nothing beside the trace unit, TR_PTR and the draw counter. -/
theorem traceCmd_frame (s : State) (k opcode idx arr : Nat) :
    besideCores (traceCmd s k opcode idx arr) = besideCores s ∧ (traceCmd s k opcode idx arr).cores = s.cores ∧
      ∀ off, (∀ d, off ≠ Reg.trPtr d) → rd (traceCmd s k opcode idx arr) off = rd s off := by
  unfold traceCmd
  dsimp only [State.drawWord]
  split
  · exact tracePut_frame { s with draws := s.draws + 1 } _ _ _
  · exact ⟨rfl, rfl, fun _ _ => rfl⟩

@[simp] theorem traceCmd_core (s : State) (k opcode idx arr j : Nat) : (traceCmd s k opcode idx arr).core j = s.core j := by
  simp only [State.core, (traceCmd_frame s k opcode idx arr).2.1]

/-! ### Register requests -/

/-- A register request on a reachable device has its effect. -/
theorem hostCmd_up {s : State} (h : reachable s = true) (f : State) : hostCmd s f = .next f := by simp [hostCmd, h]

/-- On a device whose registers cannot be reached it has none. -/
theorem hostCmd_down {s : State} (h : reachable s = false) (f : State) : hostCmd s f = .next s := by simp [hostCmd, h]

/-! ### The issue of a tile command -/

theorem interlock_nil (e : Led) (c : Core) : interlock e c {} = false := by simp [interlock, clashes]

/-- A command that takes no entry of the transfer table never waits for one (R199). -/
theorem xferFits_zero (s : State) (k : Nat) (i : Inst) : xferFits s k i 0 = true := by
  simp only [xferFits, Bool.or_eq_true, decide_eq_true_eq, Nat.add_zero]
  omega

theorem unheld_nil (s : State) (k : Nat) (e : Led) : unheld s k e {} := ⟨interlock_nil e _, xferFits_zero s k _⟩

/-- A command of an issuing core whose checks pass and whose effect is done. -/
theorem tileCmd_done {s : State} {k opcode : Nat} {b : BitVec 120} {fmt : Led → Core → List Nat}
    {use : Led → Core → Use} {run : Nat → Led → Core → TileRes} {key : Nat} {e : Led}
    (h : issuing s k key e) (hf : fmt e (s.core k) = [])
    (hi : unheld s k e (use e (s.core k)))
    {t : State} {fl : List Flight} (hr : run key e (s.core k) = .done t fl) :
    tileCmd s k opcode b fmt use run =
      traceCmd (t.updCore k fun x => { x with cmdIdx := (s.core k).cmdIdx + 1, wait := 0, flight := x.flight ++ fl })
        k opcode (s.core k).cmdIdx (cmdArr b) := by
  obtain ⟨h1, h2, h3, h4, h5, h6⟩ := h
  have e1 : (e.st == LState.finishing) = false := by simpa using h2
  unfold tileCmd
  rw [h1]
  simp only [h3, h6, hf, hi.1, hi.2, Bool.not_true, hr, lowest, Config.maxInFlight, e1, Nat.not_le.mpr h4, Nat.not_le.mpr h5, Bool.or_self, if_false,
    Bool.false_eq_true]

/-- A command that changes only its core. -/
theorem tileCmd_core {s : State} {k opcode : Nat} {b : BitVec 120} {fmt : Led → Core → List Nat}
    {use : Led → Core → Use} {run : Nat → Led → Core → TileRes} {key : Nat} {e : Led}
    (h : issuing s k key e) (hf : fmt e (s.core k) = [])
    (hi : unheld s k e (use e (s.core k)))
    {f : Core → Core} (hr : run key e (s.core k) = .done (s.updCore k f) []) :
    onlyCore s (tileCmd s k opcode b fmt use run) k ∧ regsBut s (tileCmd s k opcode b fmt use run) [] ∧
      (tileCmd s k opcode b fmt use run).core k = { f (s.core k) with cmdIdx := (s.core k).cmdIdx + 1, wait := 0 } := by
  rw [tileCmd_done h hf hi hr]
  have hh := traceCmd_frame ((s.updCore k f).updCore k fun x =>
    { x with cmdIdx := (s.core k).cmdIdx + 1, wait := 0, flight := x.flight ++ [] }) k opcode (s.core k).cmdIdx (cmdArr b)
  refine ⟨⟨hh.1, fun j hj => ?_⟩, fun off _ ho => hh.2.2 off ho, ?_⟩
  · rw [traceCmd_core, State.core_updCore_other _ _ hj, State.core_updCore_other _ _ hj]
  · simp

end Sys2Proof.Machine
end

