-- ==== Sys2Proof/Tests/Slice0.lean ====
section
/-! SUPPORT. The author's own tests: ill-formed terms that WellFormed refuses, results that the spec states, and for every
obligation with hypotheses a witness that meets them. -/

set_option Elab.async false
set_option exponentiation.threshold 1024

namespace Sys2Proof.Tests

open Sys2Proof Sys2Proof.Machine

/-! ### Well-formedness: one ill-formed term per check -/

theorem test_wf_tld : WellFormed (.tld 0 (BitVec.ofNat 120 128)) = false := by decide +kernel
theorem test_wf_tldAccld : WellFormed (.tldAccld 0 0#120) = false := by decide +kernel
theorem test_wf_segLoad : WellFormed (.segLoad 0 (BitVec.ofNat 120 (2 ^ 102))) = false := by decide +kernel
theorem test_wf_segSelect : WellFormed (.segSelect 0 0#120) = false := by decide +kernel
theorem test_wf_segClear : WellFormed (.segClear 0 (BitVec.ofNat 120 (2 ^ 102))) = false := by decide +kernel
theorem test_wf_sndSend : WellFormed (.sndSend 0 (BitVec.ofNat 120 (2 ^ 103))) = false := by decide +kernel
theorem test_wf_sndAttach : WellFormed (.sndAttach 0 0#120) = false := by decide +kernel
theorem test_wf_sndDetach : WellFormed (.sndDetach 0 0#120) = false := by decide +kernel
theorem test_wf_rcvPlace : WellFormed (.rcvPlace 0 (BitVec.ofNat 120 (2 ^ 102))) = false := by decide +kernel
theorem test_wf_rcvCombine : WellFormed (.rcvCombine 0 0#120) = false := by decide +kernel
theorem test_wf_synWait : WellFormed (.synWait 0 (BitVec.ofNat 120 (2 ^ 103))) = false := by decide +kernel
theorem test_wf_synSignal : WellFormed (.synSignal 0 0#120) = false := by decide +kernel
theorem test_wf_opcode : WellFormed (.opcodeNotInTable 0 (BitVec.ofNat 128 (0xFF * 2 ^ 120))) = false := by decide +kernel
theorem test_wf_doorbell : WellFormed (.doorbell 0 0 4 (some 0x100000000#64)) = false := by decide +kernel
theorem test_wf_groupForm : WellFormed (.groupForm 0 0#64 []) = false := by decide +kernel
theorem test_wf_groupReset : WellFormed (.groupReset 0 0#64) = false := by decide +kernel
theorem test_wf_reverify : WellFormed (.reverify 0#64 0#64) = false := by decide +kernel
theorem test_wf_keepowner : WellFormed (.keepowner 0#64 0#64) = false := by decide +kernel
theorem test_wf_bar4 : WellFormed (.bar4Access 0 0 1 (some [])) = false := by decide +kernel
theorem test_wf_register_size : WellFormed (.registerWrite 0 0 2 0#64) = false := by decide +kernel
theorem test_wf_register_aligned : WellFormed (.registerWrite 0 4 8 0#64) = false := by decide +kernel
theorem test_wf_register_ownRow : WellFormed (.registerWrite 0 Reg.fcSdc 8 (BitVec.ofNat 64 (2 ^ 63 + 2 ^ 59))) = false := by decide +kernel
theorem test_wf_lowHalf : WellFormed (.lowHalfRead 0 0 3) = false := by decide +kernel

/-- No row of the command table gives bits, so no word spells a command and placing one leaves the state alone. -/
theorem test_noWordSpellsACommand (s : State) (n w : Nat) : decodeTableWord n w = none ∧ s.withFetchWord n w = s := ⟨rfl, rfl⟩

theorem test_wf_tile :
    let m : TileMsg := { srcMod := 0#19, home := 0#3, engine := false, seq := 0#48, inst := 0, rtag := 0#12, tfmt := 5#3, ord := 0#16, tag := none, data := [] }
    WellFormed (.tileArrival 0 m) = false ∧ WellFormed (.contributionArrival 0 m) = false := by decide +kernel
theorem test_wf_keepbuddy : WellFormed (.keepbuddy 0#64 { step := 0#32, upds := [] } 0#64) = false := by decide +kernel

/-- Words written out from the tables of R70 and R71 and of each opcode's own fields: MMZ of set 1, TLD with ACCLD of FP32 tiles, a SEG SELECT, a WAIT and a SIGNAL, END, and
an opcode outside the table. -/
theorem test_tileCommand :
    tileCommand 3 (BitVec.ofNat 128 (0x10 * 2 ^ 120 + 2 ^ 103)) = .mmz 3 (BitVec.ofNat 120 (2 ^ 103)) ∧
      tileCommand 3 (BitVec.ofNat 128 (0x01 * 2 ^ 120 + 2 ^ 101 + 2 ^ 7)) = .tldAccld 3 (BitVec.ofNat 120 (2 ^ 101 + 2 ^ 7)) ∧
      tileCommand 3 (BitVec.ofNat 128 (0x01 * 2 ^ 120 + 3 * 2 ^ 101 + 2 ^ 7)) = .tld 3 (BitVec.ofNat 120 (3 * 2 ^ 101 + 2 ^ 7)) ∧
      tileCommand 3 (BitVec.ofNat 128 (0x23 * 2 ^ 120 + 2 ^ 102)) = .segSelect 3 (BitVec.ofNat 120 (2 ^ 102)) ∧
      tileCommand 3 (BitVec.ofNat 128 (0x40 * 2 ^ 120)) = .synWait 3 0#120 ∧
      tileCommand 3 (BitVec.ofNat 128 (0x40 * 2 ^ 120 + 2 ^ 103)) = .synSignal 3 (BitVec.ofNat 120 (2 ^ 103)) ∧
      tileCommand 3 (BitVec.ofNat 128 (0xFF * 2 ^ 120)) = .endItem 3 0#120 ∧
      tileCommand 3 (BitVec.ofNat 128 (0x99 * 2 ^ 120)) = .opcodeNotInTable 3 (BitVec.ofNat 128 (0x99 * 2 ^ 120)) := by decide +kernel

theorem witness_CommandWordsDecode :
    (∃ w : W128, WellFormed.opcodes.contains (bits w.toNat 127 120) = false) ∧
      ∃ (w : W128) (n : Byte) (b : BitVec 120), w = n ++ b ∧ n = 0x23#8 ∧ WellFormed (.segClear 3 b) = true :=
  ⟨⟨BitVec.ofNat 128 (0x99 * 2 ^ 120), by decide +kernel⟩, _, 0x23#8, BitVec.ofNat 120 (2 ^ 103), rfl, rfl, by decide +kernel⟩

/-- Four conditions at once, before the rest of a witness. -/
theorem four {a b c d r : Prop} (h : a ∧ b ∧ c ∧ d) (k : r) : a ∧ b ∧ c ∧ d ∧ r := ⟨h.1, h.2.1, h.2.2.1, h.2.2.2, k⟩

/-! ### Small states -/

/-- Registers can be reached. -/
def up : State := { State.reset with barUp := true }

/-- A WORK entry of the longest program, with its OUTGEN and flags zero. -/
def entry0 : Entry := BitVec.ofNat 512 (1 + 0xFFFF * 2 ^ 112)

/-- A running entry of instance 0 on core 0. -/
def led0 : Led := {
  desc := entry0, lsn := 0, st := .running, home := 0, inst := 0, cls := 0, swapSeq := 0#32, step := 5#32, ingen := [], pcore := some 0,
  lcore := 0, ring := 0, subseq := 0#32, rsq := 0#64, rcq := 0#64, mgr := false, order := 0 }

/-- Core 0 runs an item of instance 0, in partition 0; page 0 is the instance's. -/
def on0 : State := { up with
  regs := [(0x200100, 0x10#64)], led := [(0, led0)], cores := [(0, { item := some 0 })], pages := [(0, { kind := .act })] }

/-- The same with what `f` makes of its core. -/
def onCore (f : Core → Core) : State := on0.updCore 0 f

theorem on0_issuing : issuing on0 0 0 led0 := by decide +kernel

/-- A tile word from its fields: width and value, from bit 119 down. -/
def word (l : List (Nat × Nat)) : BitVec 120 := l.foldl (fun w x => w * BitVec.ofNat 120 (2 ^ x.1) + BitVec.ofNat 120 x.2) 0#120
/-! ### Witnesses: tile commands -/

/-- A latched segment table of one entry. -/
def seg1 : SegTab := { train := false, ents := [{ tag := 7#16, first := 0, count := 4, alpha := 0#32, keygen := 1#8, rankq := 1, dir := 0 }] }

theorem witness_CoreStateCommandsComplete :
    ∃ (s : State) (k : PCore) (key : Nat) (e : Led), issuing s k key e ∧
      (∃ b : BitVec 120, hdrBad b true false = false ∧ f120 b 102 0 = 0 ∧ unheld s k e { sets := [(cmdArr b, f120 b 103 103)] }) ∧ (∃ b, proFaults b = [] ∧ f120 b 98 97 = 0) ∧
      (∃ b, f120 b 103 102 = 1 ∧ hdrBad b false false = false ∧ f120 b 67 0 = 0 ∧ f120 b 101 96 < segCount (s.core k)) ∧
      (∃ b, f120 b 103 102 = 2 ∧ hdrBad b false false = false ∧ f120 b 101 0 = 0) :=
  ⟨onCore fun c => { c with seg := some seg1 }, 0, 0, led0, by decide +kernel, ⟨0#120, by decide +kernel⟩, ⟨0#120, by decide +kernel⟩,
    ⟨BitVec.ofNat 120 (2 ^ 102), by decide +kernel⟩, ⟨BitVec.ofNat 120 (2 ^ 103), by decide +kernel⟩⟩

/-- Core 0 with both sets of array 0 zeroed. -/
def zeroed0 : State := onCore fun c => (c.updArr 0 fun a => a.setSet 0 { st := .zeroed }).updArr 0 fun a => a.setSet 1 { st := .zeroed }

/-- Lines read from an empty tile store by plain FP16 feeders are zeros. -/
theorem zeroLines {c : Core} {arr : Arr} {a : AccCmd} (h : c.store = {} ∧ arr.pro = none ∧ a.col.code = 0 ∧ a.row.code = 0 ∧
    a.col.fp32 = false ∧ a.row.fp32 = false) :
    ∀ l ∈ accLines c arr a, (∀ x ∈ l.1, x = elemZero false) ∧ ∀ x ∈ l.2, x = elemZero false := by
  obtain ⟨hs, hp, hc, hr, fc, fr⟩ := h
  have el : ∀ (o : Opnd) book mask x t k j, o.code = 0 → o.fp32 = false → elemAt c.store o book none mask x t k j = elemZero false := by
    intro o book mask x t k j h0 h1
    cases mask <;> simp only [elemAt, h0, h1, hs] <;> rfl
  intro l hl
  simp only [accLines, List.mem_map] at hl
  obtain ⟨n, -, rfl⟩ := hl
  constructor
  · intro x hx
    simp only [colLine, colPro, hp, List.mem_map] at hx
    obtain ⟨j, -, rfl⟩ := hx
    exact el _ _ _ _ _ _ _ hc fc
  · intro x hx
    simp only [rowLine, rowPro, hp] at hx
    split at hx <;> (simp only [List.mem_map] at hx; obtain ⟨j, -, rfl⟩ := hx; exact el _ _ _ _ _ _ _ hr fr)

/-- An accumulation of zeros into an empty set reports no NaN. -/
theorem zeroReports {set : AccSet} {a : AccCmd} {lines : List (List Elem × List Elem)} (hs : set.cells = [])
    (h : ∀ l ∈ lines, (∀ x ∈ l.1, x = elemZero false) ∧ ∀ x ∈ l.2, x = elemZero false) :
    (accumulate set a lines).2.1.nan = none ∧ (accumulate set a lines).2.2.1.nan = none ∧ (accumulate set a lines).2.2.2.nan = none := by
  have z : ∀ key, ((elemZero false).rep key).nan = none := fun _ => rfl
  refine ⟨Rep.foldl_nan _ _ rfl fun x hx => ?_, Rep.foldl_nan _ _ rfl fun x hx => ?_, Rep.foldl_nan _ _ rfl fun x hx => ?_⟩
  · simp only [List.mem_map] at hx
    obtain ⟨_, ⟨n, -, rfl⟩, rfl⟩ := hx
    simp only [hs]
    rw [show (Tab.get {} ([] : List (Nat × Pair)) n) = {} from rfl, cellFold_zero _ _ _ h]
  · simp only [List.mem_map] at hx
    obtain ⟨l, hl, rfl⟩ := hx
    refine Rep.foldl_nan _ _ rfl fun y hy => ?_
    simp only [List.mem_map] at hy
    obtain ⟨e, he, rfl⟩ := hy
    have := (h _ ((List.mem_zipIdx' hl).2 ▸ List.getElem_mem _)).1 e.1 ((List.mem_zipIdx' he).2 ▸ List.getElem_mem _)
    rw [this]; exact z _
  · simp only [List.mem_map] at hx
    obtain ⟨l, hl, rfl⟩ := hx
    refine Rep.foldl_nan _ _ rfl fun y hy => ?_
    simp only [List.mem_map] at hy
    obtain ⟨e, he, rfl⟩ := hy
    have := (h _ ((List.mem_zipIdx' hl).2 ▸ List.getElem_mem _)).2 e.1 ((List.mem_zipIdx' he).2 ▸ List.getElem_mem _)
    rw [this]; exact z _

/-- The three forms of the statement, each on one K tile of an empty tile store. -/
theorem witness_AccumulateCompletes :
    issuing zeroed0 0 0 led0 ∧ (∀ x : BitVec 120 × AccCmd,
      x ∈ [(BitVec.ofNat 120 (2 ^ 88), uncodedCmd (BitVec.ofNat 120 (2 ^ 88)) false), (BitVec.ofNat 120 (2 ^ 88), uncodedCmd (BitVec.ofNat 120 (2 ^ 88)) true),
        (BitVec.ofNat 120 (2 ^ 80), codedCmd (BitVec.ofNat 120 (2 ^ 80)))] →
      let arr := (zeroed0.core 0).arr (cmdArr x.1)
      accFaults x.2 arr false false = [] ∧ unheld zeroed0 0 led0 (accUse x.1 x.2 (zeroed0.core 0)) ∧
        feederFence (zeroed0.core 0).store (selInfo (zeroed0.core 0)) x.2 arr = none ∧ (arr.set x.2.acc).tag = none ∧
        (let r := accumulate (arr.set x.2.acc) x.2 (accLines (zeroed0.core 0) arr x.2)
         r.2.1.nan = none ∧ r.2.2.1.nan = none ∧ r.2.2.2.nan = none)) ∧
      (hdrBad (BitVec.ofNat 120 (2 ^ 88)) true true || f120 (BitVec.ofNat 120 (2 ^ 88)) 98 96 ≠ 0 || f120 (BitVec.ofNat 120 (2 ^ 88)) 51 0 ≠ 0) = false ∧
      codedResv (BitVec.ofNat 120 (2 ^ 80)) = false := by
  refine ⟨by decide +kernel, fun x hx => ?_, by decide +kernel⟩
  simp only [List.mem_cons, List.mem_nil_iff, or_false] at hx
  rcases hx with rfl | rfl | rfl <;> exact four (by decide +kernel) (zeroReports (by decide +kernel) (zeroLines (by decide +kernel)))

/-- An EPI of a zeroed set as a cFP32 image. -/
def epi0 : BitVec 120 := BitVec.ofNat 120 (2 * 2 ^ 101)

theorem witness_DrainsComplete_epi :
    ∃ (s : State) (k : PCore) (b : BitVec 120) (key : Nat) (e : Led), issuing s k key e ∧
      (let c := s.core k
       let a := epiCmd b
       let set := (c.arr (cmdArr b)).set a.acc
       epiFaults s b c = [] ∧ unheld s k e (epiUse b c) ∧ pblkFaults a c set (pblkOf c.store a) = [] ∧
         epiFence a c set (pblkOf c.store a) = none ∧ (epiRep a c set).nan = none ∧ a.send = false ∧ (epiRep a c set).count = 0) := by
  have h : ∀ r ∈ (epiOuts (epiCmd epi0) (zeroed0.core 0) { st := .zeroed }).flatMap (fun r => r.map (·.2)), r = {} := by
    intro r hr
    simp only [epiOuts, List.mem_flatMap, List.mem_map] at hr
    obtain ⟨_, ⟨i, -, rfl⟩, y, hy, rfl⟩ := hr
    simp only [List.mem_map] at hy
    obtain ⟨j, -, rfl⟩ := hy
    have h1 : (epiCmd epi0).scl = false := by decide +kernel
    have h2 : (epiCmd epi0).vop = 0 := by decide +kernel
    have h3 : (epiCmd epi0).e1en = false := by decide +kernel
    have h4 : (epiCmd epi0).e0en = false := by decide +kernel
    have h5 : (epiCmd epi0).ofmt = 2 := by decide +kernel
    have h6 : ({} : Pair).drain.isNan = false := by decide +kernel
    simp [epiOut, epiValue, h1, h2, h3, h4, h5, h6, Tab.get_nil]
  have f : ∀ l : List Rep, (∀ r ∈ l, r = {}) → l.foldl Rep.join {} = {} := by
    intro l
    induction l with
    | nil => intro _; rfl
    | cons x t ih => intro hl; rw [List.foldl_cons, hl x (by simp)]; exact ih fun r hr => hl r (by simp [hr])
  have e : epiRep (epiCmd epi0) (zeroed0.core 0) { st := .zeroed } = {} := by
    rw [show epiRep (epiCmd epi0) (zeroed0.core 0) { st := .zeroed } =
      (((epiOuts (epiCmd epi0) (zeroed0.core 0) { st := .zeroed }).flatMap fun r => r.map (·.2)).foldl Rep.join {}).join {} from rfl, f _ h]
    rfl
  exact ⟨zeroed0, 0, epi0, 0, led0, by decide +kernel, four (by decide +kernel) ⟨(congrArg Rep.nan e).trans rfl, by decide +kernel, (congrArg Rep.count e).trans rfl⟩⟩

/-- A first CHN of a zeroed score set whose scores are all masked. -/
def chn0 : BitVec 120 := BitVec.ofNat 120 (2 ^ 102 + 2 ^ 95 + 64 * 2 ^ 27 + 128 * 2 ^ 77)

theorem witness_DrainsComplete_chn :
    ∃ (s : State) (k : PCore) (b : BitVec 120) (key : Nat) (e : Led), issuing s k key e ∧
      (let c := s.core k
       let a := chnCmd b
       let set := (c.arr (cmdArr b)).set a.acc
       chnFaults b c = [] ∧ unheld s k e (chnUse b) ∧
         (∀ n ∈ (if a.first then [] else a.outs), ((c.arr n).set a.oacc).tag = none ∨ ((c.arr n).set a.oacc).tag = set.tag) ∧
         (∀ x ∈ chnScaled a c (cmdArr b), x.2.2.nan = none) ∧ (chnRep a c (cmdArr b)).nan = none) :=
  ⟨zeroed0, 0, chn0, 0, led0, by decide +kernel⟩
theorem ok_of_isOk {x : Except Stop State} (h : x.isOk = true) : ∃ u, x = .ok u := by
  cases x with
  | ok u => exact ⟨u, rfl⟩
  | error _ => cases h

theorem witness_TileMovesComplete_tld :
    ∃ (s : State) (k : PCore) (b : BitVec 120) (key : Nat) (e : Led), issuing s k key e ∧ xferFaults b true (s.core k) = [] ∧ (xferCmd b).accld = false ∧
      unheld s k e (tldUse b) ∧ ∃ ps, loadTiles s e (xferCmd b) = .ok ps :=
  ⟨on0, 0, BitVec.ofNat 120 (5 * 2 ^ 101 + 2 ^ 93), 0, led0, four (by decide +kernel) ⟨_, rfl⟩⟩

theorem witness_TileMovesComplete_accld :
    ∃ (s : State) (k : PCore) (b : BitVec 120) (key : Nat) (e : Led), issuing s k key e ∧ xferFaults b true (s.core k) = [] ∧ (xferCmd b).accld = true ∧ unheld s k e (tldUse b) ∧
      ∃ ps tag, memRead s e (xferCmd b).maddr 24576 = .ok ps ∧ ps ≠ [] ∧ ∀ p ∈ ps, p.2 = tag :=
  ⟨on0, 0, BitVec.ofNat 120 (2 * 2 ^ 101 + 2 ^ 93 + 128), 0, led0, four (by decide +kernel) ⟨[(Memory.read on0.dev 0 24576, none)], none, rfl, by simp, by simp⟩⟩

theorem witness_TileMovesComplete_tst :
    ∃ (s : State) (k : PCore) (b : BitVec 120) (key : Nat) (e : Led), issuing s k key e ∧ xferFaults b false (s.core k) = [] ∧
      unheld s k e { rd := [((xferCmd b).taddr, (xferCmd b).nt * tfmtSlot (xferCmd b).tfmt)], xfer := 1 } ∧
      ∀ r ∈ storeRuns (s.core k).store (xferCmd b), ∃ u, memWrite s e (((s.core k).seg.map (·.train)).getD false) r.1 r.2 = .ok u := by
  refine ⟨on0, 0, BitVec.ofNat 120 (5 * 2 ^ 101 + 2 ^ 93), 0, led0, by decide +kernel, by decide +kernel, by decide +kernel, fun r hr => ?_⟩
  have h : ∀ r ∈ storeRuns (on0.core 0).store (xferCmd (BitVec.ofNat 120 (5 * 2 ^ 101 + 2 ^ 93))),
      (memWrite on0 led0 (((on0.core 0).seg.map (·.train)).getD false) r.1 r.2).isOk = true := by decide +kernel
  exact ok_of_isOk (h r hr)

/-- The state with 8 MiB of scratch for partition 0 on die 0, whose core 0 is the partition's. -/
def scratch0 : State := { on0 with regs := [(0x200100, 0x10#64), (0x201000, 1#64), (0x501408, 8#64)] }

theorem witness_TileMovesComplete_tcp :
    ∃ (s : State) (k : PCore) (b : BitVec 120) (key : Nat) (e : Led), issuing s k key e ∧ tcpFaults s k b e = [] ∧
      unheld s k e (if f120 b 103 103 = 1 then { rd := [(64 * f120 b 91 74, f120 b 99 92 * tfmtSlot (f120 b 102 100))], xfer := 1 }
        else { wr := [(64 * f120 b 91 74, f120 b 99 92 * tfmtSlot (f120 b 102 100))], xfer := 1 }) :=
  ⟨scratch0, 0, BitVec.ofNat 120 (5 * 2 ^ 100 + 2 ^ 92), 0, led0, by decide +kernel⟩

/-- A SIGNAL of core 0 in flight. -/
def signal0 : Flight := { idx := 0, unit := 1, kind := .signal 0 1 }

theorem witness_SemaphoresComplete :
    (∃ (s : State) (k : PCore) (b : BitVec 120) (key : Nat) (e : Led), issuing s k key e ∧ synFaults b (s.core k) = [] ∧ f120 b 103 103 = 1 ∧ (s.core k).flight = []) ∧
    (∃ (s : State) (k : PCore) (b : BitVec 120) (key : Nat) (e : Led), issuing s k key e ∧ synFaults b (s.core k) = [] ∧ f120 b 103 103 = 0 ∧
      f120 b 95 80 ≤ Tab.get 0 (s.core k).sems (f120 b 102 99) ∧ (s.core k).flight = []) ∧
    (∃ (s : State) (k : PCore) (b : BitVec 120) (key : Nat) (e : Led), issuing s k key e ∧ synFaults b (s.core k) = [] ∧ f120 b 103 103 = 0 ∧
      Tab.get 0 (s.core k).sems (f120 b 102 99) < f120 b 95 80) :=
  ⟨⟨on0, 0, BitVec.ofNat 120 (2 ^ 103 + 2 ^ 80), 0, led0, by decide +kernel⟩,
    ⟨onCore fun c => { c with sems := [(0, 1)] }, 0, BitVec.ofNat 120 (2 ^ 80), 0, led0, by decide +kernel⟩,
    ⟨onCore fun c => { c with flight := [signal0] }, 0, BitVec.ofNat 120 (2 ^ 80), 0, led0, by decide +kernel⟩⟩

theorem witness_SendAndReceiveComplete_snd :
    ∃ (s : State) (k : PCore) (key : Nat) (e : Led), issuing s k key e ∧
      (∃ b, sndFaults s b e (s.core k) = [] ∧ f120 b 103 102 = 1) ∧ (∃ b, sndFaults s b e (s.core k) = [] ∧ f120 b 103 102 = 2) ∧
      (∃ b, sndFaults s b e (s.core k) = [] ∧ f120 b 103 102 = 0 ∧ unheld s k e (sndUse b) ∧
        (let d := sndTo b
         let addrs := (List.range (f120 b 71 64)).map fun n => 64 * f120 b 60 43 + n * tfmtSlot d.tfmt
         sendFence s (s.core k).store d addrs = none ∧ sendRetired s e (s.core k).store d addrs = false)) :=
  ⟨scratch0, 0, 0, led0, by decide +kernel, ⟨BitVec.ofNat 120 (2 ^ 102), by decide +kernel⟩, ⟨BitVec.ofNat 120 (2 ^ 103), by decide +kernel⟩,
    ⟨BitVec.ofNat 120 (2 ^ 64 + 5 * 2 ^ 61), by decide +kernel⟩⟩

theorem witness_SendAndReceiveComplete_rcv :
    ∃ (s : State) (k : PCore) (key : Nat) (e : Led), issuing s k key e ∧ (s.core k).flight = [] ∧ (s.core k).rcvs = [] ∧ s.journal = [] ∧
      (∃ b, f120 b 103 102 = 0 ∧ rcvFaults b (s.core k) = [] ∧ unheld s k e (rcvUse b)) ∧ (∃ b, f120 b 103 102 = 1 ∧ rcvFaults b (s.core k) = [] ∧ unheld s k e (rcvUse b)) :=
  ⟨on0, 0, 0, led0, four (by decide +kernel) ⟨⟨BitVec.ofNat 120 (2 ^ 63), by decide +kernel⟩,
    ⟨BitVec.ofNat 120 (2 ^ 102 + 5 * 2 ^ 99 + 2 ^ 63 + 8 * 2 ^ 27), by decide +kernel⟩⟩⟩
/-- Core 0 with a segment table of one entry, tag 7 with rows 0 to 3, in its tile store; adapter 7 is RESIDENT. -/
def segs0 : State := { onCore (fun c => { c with store := ({} : TileStore).write 0 (leBytes 8 (7 + 4 * 2 ^ 40)) none }) with
  descs := [(7, { st := .resident, rankq := 1 })] }

theorem witness_SegmentLoadCompletes :
    ∃ (s : State) (k : PCore) (b : BitVec 120) (key : Nat) (e : Led), issuing s k key e ∧ f120 b 103 102 = 0 ∧ hdrBad b false false = false ∧ f120 b 75 0 = 0 ∧
      unheld s k e { rd := [(64 * f120 b 93 76, 8 * f120 b 100 94)] } ∧
      segChecks s e (s.core k).store (f120 b 101 101 = 1) (64 * f120 b 93 76) (f120 b 100 94) = none :=
  ⟨segs0, 0, BitVec.ofNat 120 (2 ^ 94), 0, led0, by decide +kernel⟩

/-- Zero bytes spell zero. -/
theorem ofLe_zero (l : List Byte) (h : ∀ x ∈ l, x = 0#8) : ofLe l = 0 := by
  induction l with
  | nil => rfl
  | cons x t ih => rw [ofLe, h x (by simp), ih fun y hy => h y (by simp [hy])]; rfl

theorem witness_NormAndUpdateComplete_nrm :
    ∃ (s : State) (k : PCore) (b : BitVec 120) (key : Nat) (e : Led), issuing s k key e ∧
      (let c := s.core k
       let a := 64 * f120 b 93 76
       let f32 := f120 b 102 102 = 1
       let len := f120 b 101 94 * fmtSize f32
       let want : TagRec := if f120 b 103 103 = 1 then none else some (BitVec.ofNat 16 (f120 b 75 60))
       nrmFaults s b e = [] ∧ unheld s k e { rd := [(a, len)] } ∧ (∀ g ∈ granules a len, c.store.tag g = want) ∧
       (∀ x ∈ (if f32 then fp32s (c.store.read a (f120 b 101 94 * 16384)) else (fp16Line (c.store.read a (f120 b 101 94 * 8192))).map widen), isNan32 x = false)) :=
  by
  refine ⟨on0, 0, BitVec.ofNat 120 (2 ^ 103 + 2 ^ 94 + 2 ^ 28), 0, led0, four (by decide +kernel) (fun x hx => ?_)⟩
  rw [if_neg (by decide +kernel), List.mem_map] at hx
  obtain ⟨y, hy, rfl⟩ := hx
  simp only [fp16Line, List.mem_map] at hy
  obtain ⟨j, -, rfl⟩ := hy
  rw [ofLe_zero]
  · decide +kernel
  · intro b hb
    have hb := List.mem_of_mem_drop (List.mem_of_mem_take hb)
    simp only [TileStore.read, Memory.read, List.mem_map] at hb
    obtain ⟨n, -, rfl⟩ := hb
    rw [show (on0.core (0 : PCore).val).store.mem = [] from by decide +kernel]; rfl

def isQueue : Accept → Bool
  | .queue _ => true
  | _ => false

theorem queue_of {x : Accept} (h : isQueue x = true) : ∃ j, x = .queue j := by
  cases x with
  | queue j => exact ⟨j, rfl⟩
  | _ => cases h

/-- Core 0 with an update block of one element and a program of one instruction at address 0, its partition's base unfrozen. -/
def upd0 : State := { onCore (fun c => { c with store := ({} : TileStore).write 0 (((List.replicate 64 0#8).set 36 1#8).set 44 1#8) none }) with
  parts := [(0, { frozen := false })] }

theorem witness_NormAndUpdateComplete_upd :
    ∃ (s : State) (k : PCore) (b : BitVec 120) (key : Nat) (e : Led), issuing s k key e ∧ hdrBad b false true = false ∧ f120 b 18 0 = 0 ∧
      (f120 b 103 103 = 1 → f120 b 102 87 = 0) ∧ beyond (64 * f120 b 86 69) 64 = false ∧ beyond (64 * f120 b 68 51) 64 = false ∧
      unheld s k e { rd := [(64 * f120 b 86 69, 64), (64 * f120 b 68 51, 64)] } ∧ ∃ j, acceptUpd s key k b e (s.core k) = .queue j := by
  refine ⟨upd0, 0, BitVec.ofNat 120 (2 ^ 103 + 2 ^ 51 + 2 ^ 19), 0, led0, by decide +kernel, by decide +kernel, by decide +kernel, four (by decide +kernel) (?_)⟩
  exact queue_of (by decide +kernel)

theorem witness_StopsEndAndStart_stops :
    ∃ (s : State) (k : PCore) (key : Nat) (e : Led), issuing s k key e ∧ e.pcore = some k ∧ (s.core k).flight = [] ∧
      (∃ b, hdrBad b false false = false ∧ f120 b 87 0 = 0) ∧ (∃ w : W128, opcodes.contains (bits w.toNat 127 120) = false) ∧
      (∃ b : BitVec 120, b ≠ 0#120) ∧ (∃ b : BitVec 120, b = 0#120) :=
  ⟨on0, 0, 0, led0, by decide +kernel, by decide +kernel, by decide +kernel, ⟨0#120, by decide +kernel⟩, ⟨BitVec.ofNat 128 (0x99 * 2 ^ 120), by decide +kernel⟩,
    ⟨1#120, by decide⟩, ⟨0#120, rfl⟩⟩

/-- An accumulating command on an array, its feeders filled. -/
def fed0 (arr : Nat) : Flight := { idx := 0, unit := 0, kind := .acc arr 0 0 64 1 }

/-- Core 1 asks for a start on arrays 0 and 2. -/
def asks1 : State := up.updCore 1 fun c => { c with flight := [fed0 0, fed0 2] }

theorem witness_StopsEndAndStart_grant :
    ∃ (s : State) (d : Die) (l : Nat), startCore s d = some l ∧ grantDue s d (physOf s l) = true ∧ dieStill s d = true ∧ releases s d = true ∧
      asksStart (s.core (physOf s l)) 0 = true ∧ asksStart (s.core (physOf s l)) 1 = false ∧ asksStart (s.core (physOf s l)) 2 = true ∧
        ((List.range 2).filter (asksStart (s.core (physOf s l)))).length = 1 :=
  ⟨asks1, 0, 1, by decide +kernel⟩

/-- A VEC tile of instance 0 with ordinal 0 and RTAG 3. -/
def tile0 : TileMsg := {
  srcMod := 0#19, home := 0#3, engine := false, seq := 0#48, inst := 0, rtag := 3#12, tfmt := 5#3, ord := 0#16, tag := none, data := List.replicate 512 1#8 }

/-- A PLACE receive of that tile. -/
def rcv0 : Rcv := { id := 0, idx := 0, combine := false, tfmt := 5, rtag := 3, ord := 0, nt := 2, addr := 0, baddr := 0, layer := 0 }

/-- The same tile retained at its sender. -/
def sent0 : Sent := { led := 0, core := 0, n := 0, era := 0, dkind := 0, dest := 1, msg := tile0, shards := [], time := 0#64 }

theorem witness_TileTransferCompletes_unposted :
    ∃ (s : State) (k : PCore) (m : TileMsg) (x : Sent), itemOf s k = none ∧ tailsOf s k = [] ∧ s.ctx = [] ∧
      (Tab.get [] s.accepted (dieOf k)).any (fun a => a.source == tileSource m) = false ∧ x ∈ s.sent ∧ m.srcMod.toNat = modId s ∧ x.dkind = 0 ∧
      tileSource x.msg = tileSource m :=
  ⟨{ up with sent := [sent0] }, 0, tile0, sent0, four (by decide +kernel) ⟨by simp, by decide +kernel, rfl, rfl⟩⟩

theorem witness_TileTransferCompletes_duplicate :
    ∃ (s : State) (k : PCore) (m : TileMsg) (key : Nat) (e : Led) (r : Rcv), itemOf s k = some (key, e) ∧
      (s.core k).rcvs.find? (fun (r : Rcv) => r.covers e m) = some r ∧ (Tab.find r.got (m.ord.toNat - r.ord)).isSome = true :=
  ⟨onCore fun c => { c with rcvs := [{ rcv0 with got := [(0, none)] }] }, 0, tile0, 0, led0, { rcv0 with got := [(0, none)] }, by decide +kernel⟩

theorem witness_TileTransferCompletes_placed :
    ∃ (s : State) (k : PCore) (m : TileMsg) (key : Nat) (e : Led) (r : Rcv), itemOf s k = some (key, e) ∧
      (s.core k).rcvs.find? (fun (r : Rcv) => r.covers e m) = some r ∧ (Tab.find r.got (m.ord.toNat - r.ord)).isSome = false ∧
      tableYoung s (dieOf k) = false ∧ (acceptTile s k key r.id m).isSome = true ∧ r.combine = false ∧ e.st ≠ .finishing :=
  ⟨{ (onCore fun c => { c with rcvs := [rcv0] }) with regs := [(0x200100, 0x10#64), (Reg.scJournal 0, 1#64)] }, 0, tile0, 0, led0, rcv0,
    by decide +kernel⟩

theorem witness_TileTransferCompletes_ack :
    ∃ (s : State) (home : Die) (seq : BitVec 48) (key : Nat) (e : Led), senderKey s home seq.toNat = some key ∧ s.ledAt key = some e ∧
      acked e (seq.toNat % 2 ^ 20) = false ∧ seq.toNat % 2 ^ 20 < e.ackPfx + 64 ∧ e.pcore = none ∧ (s.sent.any fun x => x.led == key && x.waits) = false :=
  ⟨{ up with led := [(0, { led0 with pcore := none })], sent := [sent0] }, 0, 63#48, 0, { led0 with pcore := none }, by decide +kernel⟩

theorem witness_TileTransferCompletes_resend :
    ∃ (s : State) (home : Die) (seq : BitVec 48) (x : Sent) (at_ : W64), s.sent = [x] ∧ x.msg.home.toNat = home.val ∧ x.msg.seq = seq ∧ x.dkind = 0 ∧
      x.waits = false ∧ x.refused = some at_ ∧ at_.toNat + 2000 ≤ s.time.toNat :=
  ⟨{ up with sent := [{ sent0 with refused := some 1#64 }], time := 2001#64 }, 0, 0#48, { sent0 with refused := some 1#64 }, 1#64, by decide +kernel⟩

theorem witness_TileTransferCompletes_timeout :
    ∃ (s : State) (k : PCore) (key : Nat) (e : Led), itemOf s k = some (key, e) ∧ e.pcore = some k ∧ overdue s k key = true :=
  ⟨{ on0 with sent := [sent0], time := 1000#64, regs := [(0x200100, 0x10#64), (Reg.coXferLimit 0, 1#64)] }, 0, 0, led0, by decide +kernel⟩
/-! ### Witnesses: rings and their entries -/

/-- An entry from (byte, value) pairs. -/
def ent (l : List (Nat × Nat)) : Entry :=
  BitVec.ofNat 512 (ofLe (l.foldl (fun (b : List Byte) x => b.set x.1 (BitVec.ofNat 8 x.2)) (List.replicate 64 0#8)))

/-- Entry 0 of ring 0 of instance 0. -/
def op (mgr : Bool) (l : List (Nat × Nat)) : Op :=
  { inst := 0, ring := 0, subseq := 0#32, desc := ent l, rsq := 0#64, rcq := 0#64, mgr := mgr, order := 0 }

/-- An enabled ring of 64 entries and 64 completions. -/
def ring0 : Ring := { rcfg := 0x86300000#32, tail := 1#32 }

/-- Instance 0 in partition 0 with the first cores of die 0, ring 0 enabled, its I/O page 0 readable and writable, pages 0 to 63 SYSTEM. -/
def io0 : State := { up with
  regs := [(0x200100, 0x10#64), (0x201000, 0xF#64)], rings := [(0, ring0)], xlat := [(0, 3#64)] }

/-- The same with one admitted entry. -/
def ops0 (o : Op) : State := { io0 with ops := [o] }

theorem witness_DoorbellAndAdmission_owner :
    ∃ (s : State) (fn : Fn) (off : Nat) (i : Inst) (r : RingId), reachable s = true ∧ s.pwrWarnN = true ∧ fn.val = i.val + 1 ∧ off = 8 * r.val ∧
      ringMgr (s.ring i r) = false ∧ ringEn (s.ring i r) = true ∧ (s.ring i r).err = false :=
  ⟨io0, 1, 0, 0, 0, by decide +kernel⟩

theorem witness_DoorbellAndAdmission_manager :
    ∃ (s : State) (fn : Fn) (off : Nat) (i : Inst) (r : RingId), reachable s = true ∧ s.pwrWarnN = true ∧ fn.val = 0 ∧ off = 0x20000 * i.val + 8 * r.val ∧
      ringMgr (s.ring i r) = true ∧ ringEn (s.ring i r) = true ∧ (s.ring i r).err = false :=
  ⟨{ io0 with rings := [(15 * 16384 + 16383, { ring0 with rcfg := 0xC6300000#32 })] }, 0, 0x1FFFF8, 15, 16383, by decide +kernel⟩

theorem witness_DoorbellAndAdmission_size : ∃ size : Nat, size ≠ 8 := ⟨4, by decide⟩

theorem witness_DoorbellAndAdmission_admit :
    ∃ (s : State) (i : Inst) (r : RingId), mayAdmit s i r = true ∧ sealed s = false ∧
      (let x := s.ring i r
       let a := bits x.rsq.toNat 46 12 * 4096 + x.next.toNat % 2 ^ sqLog x * 64
       ioCheck s i false a 64 = .ok ∧ knownType (BitVec.ofNat 512 (ofLe (hostRead s i a 64))) = true) :=
  ⟨{ io0 with host := [(0, 0x3F#8)] }, 0, 0, by decide +kernel⟩

/-- A completion of ring 0. -/
def compl0 : Compl := complOf (op false [(0, 0x3F)]) 0 0

theorem witness_CompletionEntryWritten :
    ∃ (s : State) (c : Compl),
      (let r := s.ring c.inst c.ring
       let a := bits r.rcq.toNat 46 12 * 4096 + r.written.toNat % 2 ^ cqLog r * 16
       ringEn r = true ∧ r.rsq = c.rsq ∧ r.rcq = c.rcq ∧ ioCheck s c.inst true a 16 = .ok ∧ fbit s (Reg.qmDirtyctl c.inst) 0 = false) :=
  ⟨io0, compl0, by decide +kernel⟩

theorem witness_CompletionEntryWritten_gone :
    ∃ (s : State) (c : Compl), ringEn (s.ring c.inst c.ring) = false ∨ (s.ring c.inst c.ring).rsq ≠ c.rsq ∨ (s.ring c.inst c.ring).rcq ≠ c.rcq :=
  ⟨up, compl0, by decide +kernel⟩

theorem witness_PlainEntriesComplete_nop :
    ∃ (s : State) (i : Inst) (r : RingId) (q : W32) (o : Op), entryOf s i r q o 0x3F ∧ headOk o.desc = true ∧ zeroAt o.desc [(2, 1), (4, 60)] = true :=
  ⟨ops0 (op false [(0, 0x3F)]), 0, 0, 0#32, op false [(0, 0x3F)], by decide +kernel⟩

theorem witness_PlainEntriesComplete_order :
    ∃ (s : State) (i : Inst) (r : RingId) (q : W32) (o : Op), entryOf s i r q o 2 ∧ headOk o.desc = true ∧ zeroAt o.desc [(2, 1), (4, 60)] = true ∧ (s.ring i r).outst + (s.ring i r).older ≤ 1 :=
  ⟨ops0 (op false [(0, 2)]), 0, 0, 0#32, op false [(0, 2)], by decide +kernel⟩

theorem witness_PlainEntriesComplete_work :
    ∃ (s : State) (i : Inst) (r : RingId) (q : W32) (o : Op), entryOf s i r q o 1 ∧ o.waiting = false ∧ workOk o.desc = true ∧
      (∀ l ∈ workSet o.desc, ∃ p, partOf s i = some p ∧ inPart s p l = true) ∧
      (let sr := stepRec s (opPart s o) (BitVec.ofNat 32 (entNum o.desc 4 4))
       (entByte o.desc 2 % 4 = 0 → sr.refused = false) ∧ (workStepEnd o.desc = true → sr.lost = false)) :=
  ⟨ops0 (op false [(0, 1), (17, 1)]), 0, 0, 0#32, op false [(0, 1), (17, 1)], by decide +kernel, by decide +kernel, by decide +kernel,
    fun l hl => ⟨0, by decide +kernel, (by decide +kernel : ∀ l ∈ workSet (op false [(0, 1), (17, 1)]).desc, inPart io0 0 l = true) l hl⟩, by decide +kernel⟩

theorem witness_PlainEntriesComplete_generation :
    ∃ (s : State) (i : Inst) (r : RingId) (q : W32) (o : Op), entryOf s i r q o 1 ∧ o.waiting = true ∧ ∀ p ∈ workIngen o.desc, satisfied s i p = true :=
  ⟨{ ops0 { op false [(0, 1), (17, 1), (24, 5), (28, 1)] with waiting := true } with gens := [(5, 1#32)] }, 0, 0, 0#32, { op false [(0, 1), (17, 1), (24, 5), (28, 1)] with waiting := true }, by decide +kernel, by decide +kernel, List.all_eq_true.mp (by decide +kernel)⟩

/-- Each type of entry with a reserved header bit. -/
theorem witness_PlainEntriesComplete_malformed :
    ∀ typ ∈ [0x3F, 2, 1, 0x21, 0x22, 0x11], ∃ (s : State) (i : Inst) (r : RingId) (q : W32) (o : Op), entrySub s i r q o typ 2 ∧ entryOf s i r q o typ ∧
      entByte o.desc 3 ≠ 0 ∧ o.waiting = false ∧ o.parked = false := by
  have h : ∀ typ ∈ [0x3F, 2, 1, 0x21, 0x22, 0x11], (fun (o : Op) => entrySub (ops0 o) 0 0 0#32 o typ 2 ∧ entryOf (ops0 o) 0 0 0#32 o typ ∧
      entByte o.desc 3 ≠ 0) (op false [(0, typ), (2, 2), (3, 1)]) := by decide +kernel
  intro typ ht
  obtain ⟨h1, h2, h3⟩ := h typ ht
  exact ⟨_, 0, 0, 0#32, _, h1, h2, h3, rfl, rfl⟩

/-- Pages 0 and 1 in use by instance 0. -/
def mem0 (o : Op) : State := { ops0 o with pages := [(0, { kind := .act }), (1, { kind := .act })] }

/-- A COPY of 64 bytes from address 0 to 2 MiB. -/
def copy0 : Op := op false [(0, 0x21), (4, 64), (18, 0x20)]

theorem witness_CopyAndNormReadComplete_copy :
    ∃ (s : State) (i : Inst) (r : RingId) (q : W32) (o : Op), entryOf s i r q o 0x21 ∧
      (let n := entNum o.desc 4 4
       let src := entNum o.desc 8 6
       let dst := entNum o.desc 16 6
       copyTurn s o = true ∧ headOk o.desc = true ∧ n % 64 = 0 ∧ entNum o.desc 48 4 < 0x10000 ∧ zeroAt o.desc [(2, 1), (14, 2), (22, 26), (56, 8)] = true ∧
         opAccess s i false src n = .ok ∧ opAccess s i true dst n = .ok ∧ ∀ x, addrOf src = .dev x → poisoned s x n = none) :=
  ⟨mem0 copy0, 0, 0, 0#32, copy0, four (by decide +kernel) (four (by decide +kernel) (fun _ _ => rfl))⟩

/-- A NORMREAD of one entry of adapter 7, to I/O address 0. -/
def normread0 : Op := op false [(0, 0x22), (4, 7), (10, 1), (21, 0x80)]

theorem witness_CopyAndNormReadComplete_normread :
    ∃ (s : State) (i : Inst) (r : RingId) (q : W32) (o : Op), entryOf s i r q o 0x22 ∧
      (let n := entNum o.desc 10 2
       let fl := entNum o.desc 8 2
       let t := entNum o.desc 4 2
       let dst := entNum o.desc 16 6
       headOk o.desc = true ∧ entByte o.desc 6 ≤ 1 ∧ (entByte o.desc 6 = 1 → t = 0) ∧ 0 < n ∧ fl + n ≤ 4096 ∧ dst % 16 = 0 ∧ bit dst 47 = true ∧
         zeroAt o.desc [(2, 1), (7, 1), (12, 4), (22, 42)] = true ∧ opAccess s i true dst (16 * n) = .ok ∧ (entByte o.desc 6 = 1 → o.mgr = true) ∧
         (entByte o.desc 6 = 0 → (s.desc t).st ≠ .free ∧ (s.desc t).inst = i ∧ keyUsable s t = true)) :=
  ⟨{ ops0 normread0 with descs := [(7, { st := .resident, keygen := 1#8 })], ktab := [(7, { keygen := 1#8, st := .active })] }, 0, 0, 0#32, normread0, by decide +kernel⟩

/-- An allocation that neither its quota nor its window cuts short takes the lowest pages. -/
theorem allocate_free {s : State} {o : Op} {n w : Nat} (h : usedPages s o.inst.val + n - fget s (Reg.mtQuota o.inst.val) 18 0 = 0 ∧ n - freePages s w = 0) :
    allocate s o n w = .pages s (takeFree s w n) := by
  unfold allocate
  exact if_pos h

/-- A MEM ALLOC of one ACT page, its list at I/O address 0. -/
def alloc0 : Op := op false [(0, 0x20), (4, 3), (8, 1), (21, 0x80)]

/-- `ops0` with a quota of 8 pages for instance 0. -/
def quota0 (o : Op) : State := { ops0 o with regs := [(0x10, 0x8000#64), (0x200100, 0x10#64), (0x201000, 0xF#64), (Reg.mtQuota 0, 8#64)] }

theorem witness_MemoryOperationsComplete_alloc :
    ∃ (s : State) (i : Inst) (r : RingId) (q : W32) (o : Op), entrySub s i r q o 0x20 0 ∧
      (let n := entNum o.desc 8 4
       let list := entNum o.desc 16 6
       o.parked = false ∧ headOk o.desc = true ∧ (entByte o.desc 4 = 3 ∨ entByte o.desc 4 = 6) ∧ entByte o.desc 5 ≤ 4 ∧ 0 < n ∧ n ≤ 65536 ∧
         zeroAt o.desc [(6, 2), (12, 4), (22, 42)] = true ∧ opAccess s i true list (4 * n) = .ok ∧ bit list 47 = true ∧ ruleBusy s i = false ∧ s.resv = [] ∧
         ∃ ns, allocate s o n (entByte o.desc 5) = .pages s ns ∧ ns.Nodup) :=
  ⟨quota0 alloc0, 0, 0, 0#32, alloc0, four (by decide +kernel) (four (by decide +kernel) (four (by decide +kernel) ⟨_, allocate_free (by decide +kernel), by decide +kernel⟩))⟩

/-- A MEM FREE of page 5, listed at I/O address 0. -/
def free0 : Op := op false [(0, 0x20), (2, 1), (8, 1), (21, 0x80)]

theorem witness_MemoryOperationsComplete_free :
    ∃ (s : State) (i : Inst) (r : RingId) (q : W32) (o : Op), entrySub s i r q o 0x20 1 ∧
      (let n := entNum o.desc 8 4
       let list := entNum o.desc 16 6
       headOk o.desc = true ∧ 0 < n ∧ n ≤ 65536 ∧ zeroAt o.desc [(4, 4), (12, 4), (22, 42)] = true ∧ opAccess s i false list (4 * n) = .ok ∧ ruleBusy s i = false ∧
         ∃ ns, ns = (chunks 4 (opRead s i list (4 * n)).length (opRead s i list (4 * n))).map ofLe ∧ ns.Pairwise (· < ·) ∧
           ∀ p ∈ ns, ((s.page p).kind = .act ∨ (s.page p).kind = .stage) ∧ (s.page p).inst = i ∧ pageUsers s p = []) :=
  ⟨{ ops0 free0 with host := [(0, 5#8)], pages := [(5, { kind := .act })] }, 0, 0, 0#32, free0, by decide +kernel, by decide +kernel, by decide +kernel, four (by decide +kernel) ⟨[5], by decide +kernel⟩⟩

theorem witness_MemoryOperationsComplete_zeroed :
    ∃ (s : State) (n : Fin 393216), (s.page n).kind = .zeroing ∧ ∀ i : Inst, fget s (Reg.isRemove i) 29 28 ≠ 1 :=
  ⟨{ up with pages := [(393215, { kind := .zeroing })] }, 393215, by decide +kernel⟩

/-! ### An adapter's image under its key -/

/-- An image of one projection: layer 0, A and B at 64; 8,256 bytes. -/
def image0 : List Byte := [0#8, 0#8, 64#8, 0#8, 0#8, 0#8, 0#8, 0#8, 64#8] ++ List.replicate 8247 0#8

/-- The image as host memory holds it. -/
def cipher0 : List Byte := xtsRun 5#256 0 image0

theorem length_image0 : image0.length = 64 * 129 := by
  rw [image0, List.length_append, List.length_replicate]; rfl

theorem length_cipher0 : cipher0.length = 8256 := (unxts_xtsRun 5#256 0 image0 129 length_image0).2.trans length_image0

/-- Whatever state has the image at host address 0 behind I/O page 0 and adapter 7's key, an entry that names it finds it of good form. -/
theorem imageOf_image0 {s : State} {o : Op} (hi : o.inst = 0) (hk : (s.key (opTag o)).key = 5#256) (ha : entNum o.desc 24 6 = 2 ^ 47)
    (hn : entNum o.desc 32 5 = 8256) (hh : s.host = Memory.write [] 0 cipher0) (hx : hostAddr s 0 0 = 0) : imageOf s o = image0 := by
  have hr : opRead s o.inst (entNum o.desc 24 6) 8256 = cipher0 := by
    have h1 : addrOf (2 ^ 47) = .io 0 := by decide +kernel
    have h2 : pieces 0 8256 = [(0, 8256)] := by decide +kernel
    rw [ha, hi]
    simp only [opRead, h1, hostRead, h2, List.map_cons, List.map_nil, List.flatten_cons, List.flatten_nil, List.append_nil, Fin.val_zero]
    rw [hx, hh, ← length_cipher0, Memory.read_write]
  unfold imageOf
  dsimp only
  rw [hn, hr, hk, ha]
  have h := (unxts_xtsRun 5#256 (2 ^ 47) image0 129 length_image0).1
  rwa [show (2 ^ 47) % 2 ^ 47 = 0 from rfl] at h

theorem imageOk_image0 : imageOk image0 1 8256 = true := by
  have h : ∀ (rest : List Byte) (n : Nat), dirOf ([0#8, 0#8, 64#8, 0#8, 0#8, 0#8, 0#8, 0#8, 64#8] ++ List.replicate (n + 7) 0#8) 1 = [(0, 64, 64, 0)] := by
    intro _ n
    rw [show List.replicate (n + 7) (0#8) = List.replicate 7 0#8 ++ List.replicate n 0#8 by rw [List.replicate_append_replicate, Nat.add_comm]]
    rfl
  rw [imageOk, image0, h [] 8240]
  decide

/-- ADAPTER LOAD of adapter 7, to serve: generation 1, rank 1, one projection, the image at I/O address 0. -/
def load0 : Op := op false [(0, 0x10), (4, 7), (7, 1), (8, 1), (10, 1), (29, 0x80), (32, 0x40), (33, 0x20)]

/-- Instance 0 may load one adapter whose key is ACTIVE; the pool is open. -/
def adapters0 (o : Op) : State := { ops0 o with
  regs := [(0x10, 0x8000#64), (0x200100, 0x10#64), (0x201000, 0xF#64), (Reg.mtQuota 0, 8#64), (Reg.adQuota 0, 0x00010001#64)]
  host := Memory.write [] 0 cipher0, ktab := [(7, { keygen := 1#8, st := .active, key := 5#256 })] }

theorem witness_AdapterLoadCompletes_load :
    ∃ (s : State) (i : Inst) (r : RingId) (q : W32) (o : Op), entrySub s i r q o 0x10 0 ∧ o.parked = false ∧
      (let t := opTag o
       (s.desc t).st = .free ∧ loadOk o.desc = true ∧ tagPriv s o = true ∧ keyUsable s t = true ∧ (s.key t).keygen.toNat = entByte o.desc 7 ∧
         (partOf s i).isSome = true ∧ entNum o.desc 16 8 = (baseFp s (opPart s o)).toNat ∧ loadLimit s (opPart s o) (bit (entByte o.desc 6) 2) = false ∧
         loadAccess s o = .ok ∧ imageOk (imageOf s o) (entNum o.desc 10 2) (entNum o.desc 32 5) = true ∧ ruleBusy s i = false ∧ 0 < xferFree s 0 i ∧
         ∃ u ns, allocate s o ((loadPages o.desc).1 + (loadPages o.desc).2.1 + (loadPages o.desc).2.2) (entByte o.desc 9) = .pages u ns) := by
  refine ⟨adapters0 load0, 0, 0, 0#32, load0, by decide +kernel, by decide +kernel, by decide +kernel, four (by decide +kernel) (four (by decide +kernel) ⟨?_, by decide +kernel, by decide +kernel, _, _, allocate_free (by decide +kernel)⟩)⟩
  rw [imageOf_image0 (s := adapters0 load0) (o := load0) rfl (by decide +kernel) (by decide +kernel) (by decide +kernel) rfl (by decide +kernel),
    show entNum load0.desc 10 2 = 1 by decide +kernel, show entNum load0.desc 32 5 = 8256 by decide +kernel]
  exact imageOk_image0
theorem witness_AdapterLoadCompletes_done :
    ∃ (s : State) (tag : Tag) (o : Op), loadOpOf s tag.toNat = some o ∧ (s.desc tag.toNat).st = .loading ∧ reservedOf s o = [] ∧ loadAccess s o = .ok ∧
      imageOk (imageOf s o) (entNum o.desc 10 2) (entNum o.desc 32 5) = true := by
  refine ⟨{ adapters0 { load0 with parked := true } with descs := [(7, { st := .loading, target := .resident, pages := [0], len := 8256, nproj := 1 })] }, 7#16,
    { load0 with parked := true }, four (by decide +kernel) (?_)⟩
  rw [imageOf_image0 (s := { adapters0 { load0 with parked := true } with descs := [(7, { st := .loading, target := .resident, pages := [0], len := 8256, nproj := 1 })] })
      (o := { load0 with parked := true }) rfl (by decide +kernel) (by decide +kernel) (by decide +kernel) rfl (by decide +kernel),
    show entNum ({ load0 with parked := true } : Op).desc 10 2 = 1 by decide +kernel, show entNum ({ load0 with parked := true } : Op).desc 32 5 = 8256 by decide +kernel]
  exact imageOk_image0

/-- Adapter 7, RESIDENT to serve, of instance 0. -/
def resident7 (o : Op) : State := { adapters0 o with descs := [(7, { st := .resident, keygen := 1#8, nproj := 1, dir := 0 })] }

theorem witness_AdapterOperationsComplete_tag :
    ∀ n ∈ [2, 3, 4], ∃ (s : State) (i : Inst) (r : RingId) (q : W32) (o : Op), entrySub s i r q o 0x10 n ∧
      tagPriv s o = true ∧ inTransit (s.desc (opTag o)) = false ∧ tagOnlyOk o.desc = true ∧ (s.desc (opTag o)).st = .resident ∧
      (∀ die ∈ partDies s (opPart s o), hotUsed s die + hotBytes (s.desc (opTag o)) ≤ fget s Reg.adHotcap 6 0 * 1048576) ∧
      evictable s (opTag o) = true ∧ ruleBusy s i = false := by
  intro n hn
  have h : ∀ n ∈ [2, 3, 4], (fun o => entrySub (resident7 o) 0 0 0#32 o 0x10 n ∧
      tagPriv (resident7 o) o = true ∧ inTransit ((resident7 o).desc (opTag o)) = false ∧ tagOnlyOk o.desc = true ∧ ((resident7 o).desc (opTag o)).st = .resident ∧
      (partDies (resident7 o) (opPart (resident7 o) o)).all (fun die => decide (hotUsed (resident7 o) die + hotBytes ((resident7 o).desc (opTag o)) ≤
        fget (resident7 o) Reg.adHotcap 6 0 * 1048576)) = true ∧
      evictable (resident7 o) (opTag o) = true ∧ ruleBusy (resident7 o) 0 = false) (op false [(0, 0x10), (2, n), (4, 7)]) := by decide +kernel
  obtain ⟨h1, h2, h3, h4, h5, h6, h7, h8⟩ := h n hn
  exact ⟨_, 0, 0, 0#32, _, h1, h2, h3, h4, h5, fun d hd => of_decide_eq_true (List.all_eq_true.mp h6 d hd), h7, h8⟩

theorem witness_AdapterOperationsComplete_free :
    ∃ (s : State) (i : Inst) (r : RingId) (q : W32) (o : Op), entrySub s i r q o 0x10 5 ∧ tagPriv s o = true ∧
      inTransit (s.desc (opTag o)) = false ∧ tagOnlyOk o.desc = true ∧ (s.desc (opTag o)).st ≠ .free ∧
      ((s.key (opTag o)).st = .absent ∨ (s.key (opTag o)).st = .retired) ∧ ruleBusy s i = false :=
  ⟨{ resident7 (op false [(0, 0x10), (2, 5), (4, 7)]) with ktab := [(7, { st := .retired, lastret := 1#8 })] }, 0, 0, 0#32, op false [(0, 0x10), (2, 5), (4, 7)],
    by decide +kernel⟩

/-- ADAPTER SWAP of adapter 7 from the same image. -/
def swap0 : Op := op false [(0, 0x10), (2, 1), (4, 7), (29, 0x80), (32, 0x40), (33, 0x20)]

theorem witness_AdapterOperationsComplete_swap :
    ∃ (s : State) (i : Inst) (r : RingId) (q : W32) (o : Op), entrySub s i r q o 0x10 1 ∧ tagPriv s o = true ∧
      (let t := opTag o
       let d := s.desc t
       inTransit d = false ∧ o.parked = false ∧ swapOk o.desc = true ∧ (d.st = .resident ∨ d.st = .trainable) ∧ keyUsable s t = true ∧
         (s.key t).keygen = d.keygen ∧ d.basefp = baseFp s (opPart s o) ∧ loadAccess s o = .ok ∧ imageOk (imageOf s o) d.nproj (entNum o.desc 32 5) = true ∧
         d.prevDir = 0 ∧ d.newDir = 0 ∧ swapParked s o = false ∧ ruleBusy s i = false ∧
         ∃ ns, allocate s o (swapPages o.desc d) (entByte o.desc 9) = .pages s ns) := by
  refine ⟨resident7 swap0, 0, 0, 0#32, swap0, by decide +kernel, by decide +kernel, four (by decide +kernel) (four (by decide +kernel) ⟨?_, four (by decide +kernel) ⟨_,
    allocate_free (by decide +kernel)⟩⟩)⟩
  rw [imageOf_image0 (s := resident7 swap0) (o := swap0) rfl (by decide +kernel) (by decide +kernel) (by decide +kernel) rfl (by decide +kernel),
    show ((resident7 swap0).desc (opTag swap0)).nproj = 1 by decide +kernel, show entNum swap0.desc 32 5 = 8256 by decide +kernel]
  exact imageOk_image0

/-- BASE LOAD of 8,192 bytes at I/O address 0 into partition 0. -/
def base0 : Op := op true [(0, 0x11), (8, 9), (21, 0x80), (25, 0x20)]

/-- The pool is open and partition 0 may hold 8 base pages. -/
def bases0 (o : Op) : State := { ops0 o with regs := [(0x10, 0x8000#64), (0x200100, 0x10#64), (0x201000, 0xF#64), (Reg.mtPquota 0, 8#64)] }

theorem witness_BaseOperationsComplete_load :
    ∃ (s : State) (i : Inst) (r : RingId) (q : W32) (o : Op), entrySub s i r q o 0x11 0 ∧ o.mgr = true ∧
      (let p := basePart o
       o.parked = false ∧ baseLoadOk o.desc = true ∧ entNum o.desc 6 2 = 0 ∧ (s.part p).built = none ∧ (s.part p).coming = none ∧
         (s.part p).cur = none ∧ opAccess s i false (entNum o.desc 16 6) (entNum o.desc 24 5) = .ok ∧ ruleBusyPart s p = false ∧
         basePages s p + pagesFor (entNum o.desc 24 5) ≤ fget s (Reg.mtPquota p) 18 0 ∧ pagesFor (entNum o.desc 24 5) ≤ freePages s (entByte o.desc 5)) :=
  ⟨bases0 base0, 0, 0, 0#32, base0, by decide +kernel⟩

/-- A base of one page. -/
def copyA : BaseCopy := { fp := 9#64, pages := [3], len := 8192 }

theorem witness_BaseOperationsComplete_swap :
    ∃ (s : State) (i : Inst) (r : RingId) (q : W32) (o : Op), entrySub s i r q o 0x11 1 ∧ o.mgr = true ∧ basePartOk o.desc = true ∧
      (s.part (basePart o)).built.isSome = true ∧ ((s.part (basePart o)).swaps.all fun x => x.1.isSome) = true ∧ (s.part (basePart o)).prev = none :=
  ⟨{ ops0 (op true [(0, 0x11), (2, 1)]) with parts := [(0, { built := some copyA })] }, 0, 0, 0#32, op true [(0, 0x11), (2, 1)],
    by decide +kernel⟩

theorem witness_BaseOperationsComplete_freeze :
    ∀ n ∈ [2, 3], ∃ (s : State) (i : Inst) (r : RingId) (q : W32) (o : Op), entrySub s i r q o 0x11 n ∧ o.mgr = true ∧ basePartOk o.desc = true := by
  have h : ∀ n ∈ [2, 3], (fun o => entrySub (ops0 o) 0 0 0#32 o 0x11 n ∧ basePartOk o.desc = true) (op true [(0, 0x11), (2, n)]) := by decide +kernel
  intro n hn
  exact ⟨_, 0, 0, 0#32, _, (h n hn).1, rfl, (h n hn).2⟩
/-! ### Witnesses: peers, streams, dispatch and boundaries -/

theorem witness_PeersAndStreamsOpen_peer :
    (∃ (s : State) (i : Inst) (r : RingId) (q : W32) (o : Op), entrySub s i r q o 0x30 0 ∧ headOk o.desc = true ∧
      entNum o.desc 8 4 < 2 ^ 19 ∧ entByte o.desc 12 < 32 ∧ zeroAt o.desc [(13, 51)] = true ∧ (bit (entByte o.desc 12) 4 = false → o.mgr = true) ∧
      (s.peer (entNum o.desc 4 2)).st = 0) ∧
    (∃ (s : State) (i : Inst) (r : RingId) (q : W32) (o : Op), entrySub s i r q o 0x30 1 ∧ headOk o.desc = true ∧
      (let c := entNum o.desc 4 2
       zeroAt o.desc [(6, 58)] = true ∧ (s.peer c).st ≠ 0 ∧ (s.peer c).inst = i ∧ ((s.peer c).cls = true ∨ o.mgr = true) ∧ ctxUnacked s c = false)) :=
  ⟨⟨ops0 (op true [(0, 0x30), (4, 3), (8, 2)]), 0, 0, 0#32, op true [(0, 0x30), (4, 3), (8, 2)], by decide +kernel⟩,
    ⟨{ ops0 (op true [(0, 0x30), (2, 1), (4, 3)]) with peers := [(3, { st := 1 })] }, 0, 0, 0#32, op true [(0, 0x30), (2, 1), (4, 3)], by decide +kernel⟩⟩

/-- STREAM OPEN of a barrier of partition 0, class OPERATOR, with handle 5. -/
def stream0 : Op := op true [(0, 0x31), (4, 5)]

/-- Group 0 formed at epoch 1, in a state. -/
def group0 (st : GState) (o : Op) : State := { ops0 o with
  regs := [(0x200100, 0x10#64), (0x201000, 0xF#64), (Reg.fbGroup 0, 0x100000000#64)], grps := [(0, { st := st })] }

theorem witness_PeersAndStreamsOpen_open :
    ∀ st ∈ [GState.stable, GState.changing], ∃ (s : State) (i : Inst) (r : RingId) (q : W32) (o : Op), entrySub s i r q o 0x31 0 ∧ headOk o.desc = true ∧
      (let h := entNum o.desc 4 2
       let x := streamOf s o
       h < 4096 ∧ o.parked = false ∧ rolling s 2 ≠ some (h / 1024) ∧ zeroAt o.desc [(6, 18)] = true ∧ streamEntOk s o.desc = true ∧
         x.op ≤ 5 ∧ (x.cls = false → o.mgr = true) ∧ (x.cls = true → x.inst = i ∧ partOf s i = some x.group.val) ∧ (s.stream h).st = .free ∧
         formed s x.group = true ∧ (x.slots s).2.length * x.nlocal ≤ 4096 ∧
         streamAccess s h x false x.src (4 * (x.srcEls (x.slots s).1 (x.slots s).2).length) = .ok ∧ (s.grp x.group).st = st ∧ x.op ≠ 5 ∧ x.seals = false) := by
  have h : ∀ st ∈ [GState.stable, GState.changing], (fun s => entrySub s 0 0 0#32 stream0 0x31 0 ∧ headOk stream0.desc = true ∧
      (let h := entNum stream0.desc 4 2
       let x := streamOf s stream0
       h < 4096 ∧ stream0.parked = false ∧ rolling s 2 ≠ some (h / 1024) ∧ zeroAt stream0.desc [(6, 18)] = true ∧ streamEntOk s stream0.desc = true ∧
         x.op ≤ 5 ∧ (x.cls = false → stream0.mgr = true) ∧ (x.cls = true → x.inst = 0 ∧ partOf s 0 = some x.group.val) ∧ (s.stream h).st = .free ∧
         formed s x.group = true ∧ (x.slots s).2.length * x.nlocal ≤ 4096 ∧
         streamAccess s h x false x.src (4 * (x.srcEls (x.slots s).1 (x.slots s).2).length) = .ok ∧ (s.grp x.group).st = st ∧ x.op ≠ 5 ∧ x.seals = false)) (group0 st stream0) := by
    decide +kernel
  intro st hst
  exact ⟨group0 st stream0, 0, 0, 0#32, stream0, h st hst⟩

theorem witness_PeersAndStreamsOpen_close :
    ∃ (s : State) (i : Inst) (r : RingId) (q : W32) (o : Op), entrySub s i r q o 0x31 1 ∧ headOk o.desc = true ∧ entNum o.desc 4 2 < 4096 ∧
      zeroAt o.desc [(6, 58)] = true ∧ (s.stream (entNum o.desc 4 2)).st = .done ∧ ((s.stream (entNum o.desc 4 2)).cls = false → o.mgr = true) ∧
      ((s.stream (entNum o.desc 4 2)).cls = true → (s.stream (entNum o.desc 4 2)).inst = i) :=
  ⟨{ ops0 (op true [(0, 0x31), (2, 1), (4, 5)]) with streams := [(5, { st := .done })] }, 0, 0, 0#32, op true [(0, 0x31), (2, 1), (4, 5)], by decide +kernel⟩

/-- A WORK entry for core 2 of die 0. -/
def work2 : Op := op false [(0, 1), (16, 2), (17, 0)]

def elig0 : Elig := { op := work2, part := 0, cls := 0 }

theorem witness_DispatchCommands_first :
    ∃ (s : State) (l : LCore) (p c key : Nat) (x : Elig), devQuiesced s = false ∧ coreFree s l = true ∧ (List.range 16).find? (fun p => inPart s p l) = some p ∧
      chosenFirst s p l = false ∧ replayFor s l = none ∧
      (let win := startable s p l
       let d := (lowestFree s x.op.desc).getD l.val / 16
       sharePick s p ((List.range 4).filter fun c => !(win c).isEmpty) = some c ∧ pickOf (win c) = some x ∧ x.slot = none ∧ freeEntry s d = some key) :=
  ⟨{ io0 with elig := [elig0] }, 2, 0, 0, 0, elig0, by decide +kernel⟩

/-- The entry of instance 0 that replays on core 0. -/
def replay0 : Led := { led0 with st := .replay, pcore := none }

theorem witness_DispatchCommands_replay :
    ∃ (s : State) (l : LCore) (p key : Nat) (e : Led), devQuiesced s = false ∧ coreFree s l = true ∧ (List.range 16).find? (fun p => inPart s p l) = some p ∧
      chosenFirst s p l = false ∧ replayFor s l = some (key, e) ∧ s.ledAt key = some e ∧ e.lcore = l :=
  ⟨{ io0 with led := [(0, replay0)] }, 0, 0, 0, replay0, by decide +kernel⟩

theorem witness_DispatchCommands_release :
    (∃ (s : State) (d : Die) (slot : Fin 8192) (e : Led), s.ledAt (d.val * 8192 + slot.val) = some e ∧ e.st = .finishing ∧ e.pcore = none ∧ workStepEnd e.desc = false) ∧
    (∃ (s : State) (d : Die) (slot : Fin 8192) (e : Led) (k : PCore), s.ledAt (d.val * 8192 + slot.val) = some e ∧ e.st = .finishing ∧ e.pcore = some k ∧
      (s.core k).item = some (d.val * 8192 + slot.val) ∧ (s.core k).flight = []) :=
  ⟨⟨{ io0 with led := [(8 * 8192 - 1, { led0 with st := .finishing, pcore := none })] }, 7, 8191, { led0 with st := .finishing, pcore := none }, by decide +kernel⟩,
    ⟨{ on0 with led := [(0, { led0 with st := .finishing })] }, 0, 0, { led0 with st := .finishing }, 0, by decide +kernel⟩⟩

/-- Partition 0 has one core, whose item of class 0 has run for 2 µs under a slice of 1 µs; an item of class 1 waits for it. -/
def slice0 : State := { on0 with
  regs := [(0x200100, 0x10#64), (0x201000, 1#64), (0x201018, 0x1000001#64)], time := 2000#64, vtClass := [(0, 5)]
  elig := [{ op := op false [(0, 1), (2, 1)], part := 0, cls := 1 }] }

theorem witness_SwitchAndBoundary_preempt :
    ∃ (s : State) (l : LCore) (p : Nat) (x : Elig), (List.range 16).find? (fun p => inPart s p l) = some p ∧ mapped s l = true ∧
      ((s.elig.filter (preempts s p l)).foldr insertOrder []).head? = some x :=
  ⟨slice0, 0, 0, { op := op false [(0, 1), (2, 1)], part := 0, cls := 1 }, by decide +kernel⟩

theorem witness_SwitchAndBoundary_out :
    ∃ (s : State) (k : PCore) (key slot : Nat) (e : Led), itemOf s k = some (key, e) ∧ e.st = .running ∧ (s.core k).switching = true ∧ draining (s.core k) = false ∧
      s.sent.any (fun x => x.led == key) = false ∧ freeSlot s (dieOf k) = some slot :=
  ⟨onCore fun c => { c with switching := true }, 0, 0, 0, led0, by decide +kernel⟩

/-- A saved context of an entry that no core runs. -/
def ctx0 : Ctx := { core := { cmdIdx := 3 }, led := 0, lsn := 0, home := 0 }

theorem witness_SwitchAndBoundary_restore :
    ∃ (s : State) (slot : Fin 128) (k : PCore) (l : Nat) (x : Ctx) (e : Led), Tab.find s.ctx slot.val = some x ∧ logOf s k = some l ∧ s.ledAt x.led = some e ∧
      coreFree s l = true ∧ (workSet e.desc).contains l = true ∧ mayRun s e.inst = true ∧ (s.journal.all fun j => j.led ≠ x.led) = true :=
  ⟨{ io0 with led := [(0, { led0 with st := .dispatched, pcore := none })], ctx := [(127, ctx0)] }, 127, 0, 0, ctx0, { led0 with st := .dispatched, pcore := none },
    by decide +kernel⟩

theorem witness_SwitchAndBoundary_swaps :
    (∃ (s : State) (p : Part), (s.part p).swaps ≠ []) ∧
    (∃ (s : State) (p : Part) (g : Tag) (o : Op), (s.part p).swaps = [(some g, o)] ∧ (s.desc g.toNat).newDir ≠ 0 ∧ (s.desc g.toNat).st = .resident) ∧
    (∃ (s : State) (p : Part) (o : Op) (c : BaseCopy), (s.part p).swaps = [(none, o)] ∧ (s.part p).built = some c) :=
  ⟨⟨{ up with parts := [(15, { swaps := [(none, base0)] })] }, 15, by decide +kernel⟩,
    ⟨{ up with parts := [(0, { swaps := [(some 7#16, swap0)] })], descs := [(7, { st := .resident, newDir := 0x200000, newPages := [1] })] }, 0, 7#16, swap0, by decide +kernel⟩,
    ⟨{ up with parts := [(0, { swaps := [(none, base0)], built := some copyA })] }, 0, base0, copyA, by decide +kernel⟩⟩

theorem witness_SwitchAndBoundary_release :
    (∃ (s : State) (p : Part) (g : Tag), (s.desc g.toNat).prevDir ≠ 0 ∧ partOf s (s.desc g.toNat).inst = some p.val ∧ heldBefore s p (s.desc g.toNat).swapSeq = false ∧
      ruleBusy s (s.desc g.toNat).inst = false) ∧
    (∃ (s : State) (p : Part) (c : BaseCopy), (s.part p).prev = some c ∧ heldBefore s p (s.part p).curSeq = false ∧ ruleBusyPart s p = false) :=
  ⟨⟨{ io0 with descs := [(7, { st := .resident, prevDir := 0x200000, prevPages := [1], swapSeq := 1#32 })] }, 0, 7#16, by decide +kernel⟩,
    ⟨{ io0 with parts := [(0, { prev := some copyA, curSeq := 1#32 })] }, 0, copyA, by decide +kernel⟩⟩
/-! ### Witnesses: loss scale, Teasel, updates -/

theorem witness_LossScaleAndOverflow :
    (∃ (s : State) (p : Part) (v : W32), reachable s = true ∧ lsOn s p = false ∧ v.getLsbD 31 = true ∧ written s (Reg.lsBlock p) = false) ∧
    (∃ (s : State) (p : Part) (v : W32), reachable s = true ∧ lsOn s p = false ∧ v.getLsbD 31 = true ∧ written s (Reg.lsBlock p) = true) ∧
    (∃ (s : State) (v : W32), reachable s = true ∧ v.getLsbD 31 = false) ∧
    (∃ (s : State) (p : Part), written s (Reg.lsOvftab p) = true) ∧ ∃ (s : State) (p : Part), written s (Reg.lsOvftab p) = false :=
  ⟨⟨up, 0, 0x80000000#32, by decide +kernel⟩,
    ⟨{ up with regs := [(Reg.lsBlock 15, 0x200000#64)] }, 15, 0x80180000#32, by decide +kernel⟩,
    ⟨up, 0#32, by decide +kernel⟩, ⟨{ up with regs := [(Reg.lsOvftab 3, 0x200000#64)] }, 3, by decide +kernel⟩, up, 3, by decide +kernel⟩

theorem witness_StepDecisions_exchange : ∃ (s : State) (p : Part), verdictDue s p = true :=
  ⟨{ up with regs := [(Reg.tnCtl 0, 0x40000000#64)], ls := [(0, { closed := [(1#32, false)] })] }, 0, by decide +kernel⟩

theorem witness_StepDecisions_missing :
    ∃ (s : State) (p : Part) (n : W32) (ovf : Bool) (rest : List (W32 × Bool)), (s.lsc p).closed = (n, ovf) :: rest ∧ n ≠ ctxStep s p + 1#32 :=
  ⟨{ up with ls := [(0, { closed := [(5#32, true)] })] }, 0, 5#32, true, [], by decide +kernel⟩

/-- The loss scale of partition 0 is on and CLEAN must reach `n`; the closing reduction of step 1 has completed. -/
def scaled0 (ovf : Bool) (n : Nat) : State := { up with
  regs := [(Reg.lsCtl 0, BitVec.ofNat 64 (2 ^ 31 + n))], ls := [(0, { closed := [(1#32, ovf)] })] }

theorem witness_StepDecisions_decide :
    ∀ ovf n, (ovf = true ∧ n = 0) ∨ (ovf = false ∧ (n = 0 ∨ n = 5)) → (fun (s : State) => (s.lsc 0).closed = [(ctxStep s 0 + 1#32, ovf)] ∧
      (fbit s (Reg.tnCtl 0) 30 = true → (stepRec s 0 (ctxStep s 0 + 1#32)).gsum.isSome = true) ∧ (stepRec s 0 (ctxStep s 0 + 1#32)).refused = false ∧
      wouldHold s 0 (ctxStep s 0 + 1#32) = false ∧ lsOn s 0 = true ∧
      (n = 0 → max 1 (fget s (Reg.lsCtl 0) 15 0) ≤ fget s (Reg.lsState 0) 15 0 + 1) ∧
      (n = 5 → fget s (Reg.lsState 0) 15 0 + 1 < max 1 (fget s (Reg.lsCtl 0) 15 0))) (scaled0 ovf n) := by
  intro ovf n h
  replace h : n = 0 ∨ n = 5 := by rcases h with h | h <;> simp [h]
  cases ovf <;> rcases h with rfl | rfl <;> decide +kernel

/-- A held step of partition 0: the gradient norm exceeds the bound that the module checks. -/
theorem witness_StepDecisions_hold :
    ∃ (s : State) (p : Part) (n : W32), (s.lsc p).closed = [(n, false)] ∧ n = ctxStep s p + 1#32 ∧ wouldHold s p n = true ∧ fbit s (Reg.tnHold p) 31 = false ∧
      (fbit s (Reg.tnCtl p) 30 = true → (stepRec s p n).gsum.isSome = true) ∧ (stepRec s p n).refused = false :=
  ⟨{ up with regs := [(Reg.tnCtl 0, 0x50000000#64), (Reg.tnWarm 0, 1#64)]
             ls := [(0, { closed := [(1#32, false)], recs := [{ step := 1#32, gsum := some 0x7F800000#32 }] })] }, 0, 1#32, by decide +kernel⟩

theorem witness_StepDecisions_held :
    ∃ (s : State) (p : Part), reachable s = true ∧ fbit s (Reg.tnHold p) 31 = true ∧ (stepRec s p (BitVec.ofNat 32 (fget s (Reg.tnHold p) 63 32))).refused = false ∧ (∃ v : W64, v.getLsbD 1 = true) ∧ ∃ v : W64, v.getLsbD 1 = false ∧ v.getLsbD 0 = true :=
  ⟨{ up with regs := [(Reg.tnHold 0, 0x180000000#64)] }, 0, by decide +kernel, by decide +kernel, by decide +kernel, ⟨3#64, by decide +kernel⟩, 1#64, by decide +kernel⟩

/-- An accepted update of one element of the base of partition 0, whose program is one no-operation. -/
def job0 (st : UpdStage) : UpdJob := {
  id := 0, led := 0, core := 0, idx := 0, base := true, tag := 0#16, inst := 0, part := 0, layer := 0, step := 1#32,
  block := BitVec.ofNat 512 (ofLe (((List.replicate 64 0#8).set 36 1#8).set 44 1#8)), consts := [], prog := [0#32], stage := st }

theorem witness_UpdatesAndMirrors_run :
    ∃ (s : State) (n : Quad) (p : Nat) (j : UpdJob), s.jobs.any (fun j => j.eng == n.val && j.stage == .ran) = false ∧
      (let ready := s.jobs.filter (jobReady s n)
       pickHolder s 1 ((dedup (ready.map fun j => j.part.val)).map fun p => (p, 0)) = some (p, 0) ∧ ready.find? (fun (j : UpdJob) => j.part.val == p) = some j ∧
         xferFree s n j.inst ≠ 0 ∧ logged s j.part j.step (blkTid j.block) = false ∧
         streamsCheck s j = none ∧ streamsPoison s j.block = none ∧ (runProgram s j).trap = none) :=
  ⟨{ up with jobs := [job0 .waiting], ls := [(0, { recs := [{ step := 1#32, outcome := .applied }] })] }, 0, 0, job0 .waiting, by decide +kernel⟩

theorem witness_UpdatesAndMirrors_complete :
    ∃ (s : State) (n : Quad) (j : UpdJob), s.jobs.find? (fun (j : UpdJob) => j.eng == n.val && j.stage == .ran) = some j :=
  ⟨{ up with jobs := [job0 .ran] }, 0, job0 .ran, by decide +kernel⟩

/-- The stage 12 of step 1 of adapter 7. -/
def stage7 : Stage12 := { part := 0, step := 1#32, tag := 7#16 }

/-- The record of the update that step 1 ran on adapter 7. -/
def ran7 : RanUpd := { tag := 7#16, step := 1#32, tid := 0, layer := 0, block := (job0 .ran).block }

/-- Adapter 7 in a role, its partner's context 3 ACTIVE, its stage 12 open. -/
def shared7 (role : ARole) (st : AState) : State := { io0 with
  descs := [(7, { st := st, role := role, peerctx := 3#16, keygen := 1#8 })], peers := [(3, { st := 1 })], stage12 := [stage7], ran := [ran7]
  ktab := [(7, { keygen := 1#8, st := .active })] }

theorem witness_UpdatesAndMirrors_mirror :
    (∃ (s : State) (tag : Tag) (x : Stage12), openStage s tag = some x ∧ partnerUp s tag = true ∧ keyUsable s tag.toNat = true ∧ (s.desc tag.toNat).role = .owner ∧
      (s.jobs.any fun j => !j.base && j.tag == tag && j.step == x.step) = false ∧ (ranOf s tag x.step).isEmpty = false) ∧
    (∃ (s : State) (tag : Tag) (x : Stage12) (m : Mirror), openStage s tag = some x ∧ partnerUp s tag = true ∧ keyUsable s tag.toNat = true ∧
      (s.desc tag.toNat).role = .buddy ∧ m.step = x.step) :=
  ⟨⟨shared7 .owner .trainable, 7#16, stage7, by decide +kernel⟩, ⟨shared7 .buddy .trainable, 7#16, stage7, { step := 1#32, upds := [] }, by decide +kernel⟩⟩

theorem witness_UpdatesAndMirrors_digest :
    ∃ (s : State) (tag : Tag) (x : Stage12) (peer : W64), s.stage12.find? (fun (x : Stage12) => x.tag == tag && !x.done && x.own.isSome) = some x ∧ x.own = some peer ∧ copyFree s tag x.step ∧
      0 < sdiff32 (x.step + 1#32) (Tab.get 0#32 s.wcGen tag.toNat) ∧ (s.desc tag.toNat).role = .owner :=
  ⟨{ shared7 .owner .trainable with stage12 := [{ stage7 with own := some 77#64 }] }, 7#16, { stage7 with own := some 77#64 }, 77#64, by decide +kernel⟩

theorem witness_UpdatesAndMirrors_restore :
    (∃ (s : State) (tag : Tag), (s.desc tag.toNat).st = .restoring ∧ (s.desc tag.toNat).role = .owner ∧ partnerUp s tag = true ∧ keyUsable s tag.toNat = true ∧
      Tab.find s.refreshes tag.toNat = none) ∧
    (∃ (s : State) (tag : Tag) (m : Mirror) (h : W64), (s.desc tag.toNat).role = .buddy ∧ partnerUp s tag = true ∧ keyUsable s tag.toNat = true ∧
      Tab.find s.mirrors tag.toNat = some (m, h) ∧ (∃ x ∈ s.stage12, x.tag = tag ∧ x.step = m.step + 1#32) ∧ copyFree s tag (m.step + 1#32) ∧
      0 < sdiff32 (m.step + 2#32) (Tab.get 0#32 s.wcGen tag.toNat)) ∧
    (∃ (s : State) (tag : Tag) (n : W32), (s.desc tag.toNat).role = .nonowner ∧ (s.desc tag.toNat).st = .resident ∧ keyUsable s tag.toNat = true ∧
      (∀ w, w = none ∨ w = some [1#8] → refreshDue s tag.toNat n w = true) ∧ copyFree s tag n ∧ 0 < sdiff32 (n + 1#32) (Tab.get 0#32 s.wcGen tag.toNat)) :=
  ⟨⟨shared7 .owner .restoring, 7#16, by decide +kernel⟩,
    ⟨{ shared7 .buddy .trainable with mirrors := [(7, ({ step := 0#32, upds := [] }, 9#64))] }, 7#16, { step := 0#32, upds := [] }, 9#64, by decide +kernel⟩,
    { shared7 .nonowner .resident with wcGen := [(7, 1#32)], ls := [(0, { recs := [{ step := 1#32, outcome := .applied }] })] }, 7#16, 1#32,
    by decide +kernel, by decide +kernel, by decide +kernel, by rintro w (rfl | rfl) <;> decide +kernel, by decide +kernel⟩

/-- Adapter 7 held after a digest mismatch of step 1. -/
def held7 (own : W64) : State := { shared7 .owner .trainable with held := [(7#16, 1#32, own, 2#64)] }

theorem reread_held (s : State) (h : List (Tag × W32 × W64 × W64)) (t : Tag) (n : W32) : reread { s with held := h } t n = reread s t n := rfl

/-- The word of FC_SDC that asks for an operation on tag 7. -/
def sdc7 (n : Nat) : W64 := BitVec.ofNat 64 (2 ^ 63 + n * 2 ^ 59 + 7)

theorem witness_UpdatesAndMirrors_sdc :
    ∀ n ∈ [1, 2, 3], ∃ (s : State) (v own : W64), reachable s = true ∧ v.getLsbD 63 = true ∧ bits v.toNat 61 59 = n ∧ BitVec.ofNat 16 (bits v.toNat 15 0) = 7#16 ∧
      s.held.find? (fun x => x.1 == 7#16) = some (7#16, 1#32, own, 2#64) ∧ (s.desc 7).role = .owner ∧ (s.desc 7).st ≠ .restoring ∧ copyFree s 7#16 1#32 ∧
      0 < sdiff32 (1#32 + 1#32) (Tab.get 0#32 s.wcGen 7) ∧ (n = 1 → reread s 7#16 1#32 = own ∧ ∃ d, d ≠ reread s 7#16 1#32) := by
  have h : ∀ n ∈ [1, 2, 3], (sdc7 n).getLsbD 63 = true ∧ bits (sdc7 n).toNat 61 59 = n ∧ BitVec.ofNat 16 (bits (sdc7 n).toNat 15 0) = 7#16 := by decide +kernel
  intro n hn
  obtain ⟨h1, h2, h3⟩ := h n hn
  refine ⟨held7 (reread (shared7 .owner .trainable) 7#16 1#32), sdc7 n, reread (shared7 .owner .trainable) 7#16 1#32, by decide +kernel, h1, h2, h3, ?_, four (by decide +kernel) (fun _ => ⟨reread_held _ _ _ _, ?_⟩)⟩
  · simp [held7]
  · generalize reread _ _ _ = r
    by_cases hr : r = 0#64
    · exact ⟨1#64, by rw [hr]; decide⟩
    · exact ⟨0#64, fun e => hr e.symm⟩
/-! ### Witnesses: collective streams and groups -/

/-- Group 0 STABLE at epoch 1 over two slots, of module 0 (this one) and module 1. -/
def pair0 : State := { io0 with
  regs := [(0x200100, 0x10#64), (0x201000, 0xF#64), (Reg.ceGrpcfg 0, 2#64), (Reg.fbGroup 0, 0x100000000#64), (Reg.ceSlotmap 0, 0#64)]
  dev := [(3, 0x80#8), (4, 1#8), (7, 0x80#8)], grps := [(0, { st := .stable })] }

/-- With stream 5 of group 0. -/
def str5 (x : Stream) : State := { pair0 with streams := [(5, x)] }

theorem witness_StreamArrivalsAndEnd_cast :
    ∃ (s : State) (h : Handle), (s.stream h).seals = false ∧ (s.stream h).op = 5 ∧ (s.stream h).st = .open_ ∧ (s.grp (s.stream h).group).st = .stable ∧
      stage12Done s (s.stream h).group (s.stream h).step = true :=
  ⟨{ str5 { st := .open_, op := 5, step := 1#32 } with ls := [(0, { recs := [{ step := 1#32, outcome := .suppressed }] })] }, 5, by decide +kernel⟩

/-- A contribution of one element tile. -/
def contribution0 : TileMsg := {
  srcMod := 0, home := 0, engine := false, seq := 0, inst := 0, rtag := 0, tfmt := 5, ord := 0, tag := none, data := List.replicate 512 0#8 }

theorem witness_StreamArrivalsAndEnd_contribution :
    ∃ (s : State) (h : Handle) (m : TileMsg),
      (let x := s.stream h
       let mine := (x.slots s).2
       x.seals = false ∧ x.st = .active ∧ x.reduces = true ∧ m.tag = x.tagRec ∧ m.rtag.toNat < mine.length * x.nlocal ∧
         m.tfmt.toNat = (if x.e ≤ 128 then 5 else 1) ∧ m.ord.toNat < ceilDiv x.e x.per ∧ Tab.find x.contrib (m.rtag.toNat * 65536 + m.ord.toNat) = none) :=
  ⟨str5 { st := .active, op := 4, e := 2, nlocal := 1 }, 5, contribution0, by decide +kernel⟩

/-- A shard of a reduction and one of a broadcast, both from slot 1 to slot 0. -/
def shard0 : ShardMsg := { phase := 0, lvl := 1, src := 1, dst := 0, child := 1, ord := 0, words := [3#32] }

theorem witness_StreamArrivalsAndEnd_shard :
    ∀ op ∈ [1, 2], ∃ (s : State) (h : Handle) (m : ShardMsg) (f : Xfer),
      (let x := s.stream h
       let n := (x.slots s).1
       let mine := (x.slots s).2
       x.seals = false ∧ x.st = .active ∧ mine.contains m.dst = true ∧ mine.contains m.src = false ∧ x.xferOf n m = some f ∧ f.phase = 0 ∧ x.reduces = (op == 2)) := by
  have h : ∀ op ∈ [1, 2], (fun s : State =>
      let x := s.stream 5
      let n := (x.slots s).1
      let mine := (x.slots s).2
      x.seals = false ∧ x.st = .active ∧ mine.contains shard0.dst = true ∧ mine.contains shard0.src = false ∧ (x.xferOf n shard0).isSome = true ∧
        ((x.xferOf n shard0).map (·.phase)) = some 0 ∧ x.reduces = (op == 2)) (str5 { st := .active, op := op, e := 512, nlocal := 1, root := 1 }) := by decide +kernel
  intro op ho
  obtain ⟨h1, h2, h3, h4, h5, h6, h7⟩ := h op ho
  obtain ⟨f, hf⟩ := Option.isSome_iff_exists.mp h5
  exact ⟨_, 5, shard0, f, h1, h2, h3, h4, hf, by simpa [hf] using h6, h7⟩

theorem witness_StreamArrivalsAndEnd_header :
    ∃ (s : State) (h : Handle) (m : HeaderMsg), (s.stream h).seals = false ∧ (s.stream h).st = .active ∧ m.op.toNat = (s.stream h).op ∧ m.step = (s.stream h).step ∧ m.ovf = true :=
  ⟨str5 { st := .active, op := 4, e := 2, nlocal := 1 }, 5, ⟨1, 1, 1, 0, 0#32, true, false, false, false, 4#8, 1#32, 1#32, 0#64⟩, by decide +kernel⟩

/-- Group 0 over this module's one slot. -/
def solo0 (x : Stream) : State := { str5 x with
  regs := [(0x200100, 0x10#64), (0x201000, 0xF#64), (Reg.ceGrpcfg 0, 1#64), (Reg.fbGroup 0, 0x100000000#64), (Reg.ceSlotmap 0, 0#64)], dev := [(3, 0x80#8)] }

theorem witness_StreamArrivalsAndEnd_done :
    ∃ (s : State) (h : Handle),
      (let x := s.stream h
       let bs := if x.op = 5 then castExport s x else (streamResult s x).flatMap fun v => leBytes 4 v.toNat
       x.st = .active ∧ streamReady s h = true ∧ (x.op = 5 → bs.length ≤ 4096 * x.e) ∧ (bs ≠ [] → streamAccess s h x true x.result bs.length = .ok) ∧ x.norm = false ∧ x.op ≠ 5 ∧ bs ≠ []) :=
  ⟨solo0 { st := .active, op := 4, e := 1, vals := [(0, 5#32)], result := 2 ^ 47 }, 5, by decide +kernel⟩

/-- A Cast of one slot: its records are STEP and CONTROL, and a capacity of one granule holds them. -/
theorem witness_StreamArrivalsAndEnd_export :
    ∃ (s : State) (h : Handle),
      (let x := s.stream h
       let bs := castExport s x
       x.st = .active ∧ streamReady s h = true ∧ x.op = 5 ∧ bs.length ≤ 4096 * x.e ∧ streamAccess s h x true x.result bs.length = .ok) :=
  ⟨solo0 { st := .active, op := 5, e := 1, result := 2 ^ 47 }, 5, by decide +kernel⟩

/-- Group 0 at epoch 1 over three slots, of modules 0 to 2; this is module 0 unless FB_MODID says another. -/
def trio0 (mod : Nat) (g : Grp) : State := { io0 with
  regs := [(0x200100, 0x10#64), (0x201000, 0xF#64), (Reg.fbModid, BitVec.ofNat 64 mod), (Reg.ceGrpcfg 0, 3#64), (Reg.fbGroup 0, 0x100000000#64), (Reg.ceSlotmap 0, 0#64),
    (Reg.fbPortstat 0, 0x8F000000#64)]
  dev := [(3, 0x80#8), (4, 1#8), (7, 0x80#8), (8, 2#8), (11, 0x80#8)], grps := [(0, g)] }

/-- A header of the formation's barrier, or of a reset's, from module 1's slot to this module's. -/
def header0 (op : Byte) (form : Bool) (digest : W64) : HeaderMsg := ⟨1, 1, 1, 0, 0#32, false, false, false, form, op, 0#32, 0#32, digest⟩

/-- FORM of group 0: over this module's one slot it completes at once, and over two it waits for the other's header. -/
theorem witness_GroupsFormAndReset_form :
    ∀ st ∈ [GState.unformed, .formfail, .noquorum], ∀ done ∈ [true, false], ∃ (s : State) (g : Part) (v : W64), reachable s = true ∧ v.getLsbD 63 = true ∧
      (s.grp g).st = st ∧ (s.grp g).resetReq = false ∧
      (let s1 := writeGrpcfg (s.dropLow 0 (Reg.ceGrpcfg g)) g v.toNat
       mapOk s1 g = true ∧ barDone (barTake (barStart s1 g 0 (some (mapDigest s1 g))) g 0 (some (mapDigest s1 g)) []) g = done) := by
  have h : ∀ st ∈ [GState.unformed, .formfail, .noquorum], ∀ done ∈ [true, false], (fun (s : State) (v : W64) => reachable s = true ∧ v.getLsbD 63 = true ∧
      (s.grp 0).st = st ∧ (s.grp 0).resetReq = false ∧
      (let s1 := writeGrpcfg (s.dropLow 0 (Reg.ceGrpcfg 0)) 0 v.toNat
       mapOk s1 0 = true ∧ barDone (barTake (barStart s1 0 0 (some (mapDigest s1 0))) 0 0 (some (mapDigest s1 0)) []) 0 = done))
      { (if done then solo0 {} else pair0) with grps := [(0, { st := st })] } (if done then 0x8000000000000001#64 else 0x8000000000000002#64) := by decide +kernel
  intro st hs done hd
  exact ⟨_, 0, _, h st hs done hd⟩

theorem witness_GroupsFormAndReset_formfail :
    ∃ (s : State) (g : Part) (v : W64), reachable s = true ∧ v.getLsbD 63 = true ∧ (s.grp g).st = .unformed ∧
      ∃ m : HeaderMsg, m.form = false ∨ m.digest ≠ mapDigest (writeGrpcfg (s.dropLow 0 (Reg.ceGrpcfg g)) g v.toNat) g :=
  ⟨{ pair0 with grps := [(0, {})] }, 0, 0x8000000000000002#64, by decide +kernel, by decide +kernel, by decide +kernel, header0 0#8 false 0#64, .inl rfl⟩

theorem witness_GroupsFormAndReset_headers :
    (∃ (s : State) (g : Part) (heard : List HeaderMsg), (s.grp g).st = .stable ∧ (heard.filter fun m => m.op = 6#8) ≠ [] ∧
      barDone (barTake (startReset s g) g 6 none (heard.filter fun m => m.op = 6#8)) g = false) ∧
    (∃ (s : State) (g : Part) (heard : List HeaderMsg), (s.grp g).st = .resetting ∧ barDone (barTake s g 6 none (heard.filter fun m => m.op = 6#8)) g = false) ∧
    ∃ (s : State) (g : Part) (heard : List HeaderMsg), (s.grp g).st = .resetting ∧ barDone (barTake s g 6 none (heard.filter fun m => m.op = 6#8)) g = true :=
  ⟨⟨trio0 0 { st := .stable }, 0, [header0 6#8 false 0#64], by decide +kernel⟩, ⟨startReset pair0 0, 0, [], by decide +kernel⟩,
    startReset pair0 0, 0, [header0 6#8 false 0#64], by decide +kernel⟩

theorem witness_GroupsFormAndReset_reset :
    (∃ (s : State) (g : Part) (v : W64), reachable s = true ∧ v.getLsbD 62 = true ∧ (s.grp g).st = .stable ∧
      (∃ c, (s.peer c).group = g ∧ (s.peer c).st = 1) ∧ ∃ c, (s.peer c).group ≠ g ∨ (s.peer c).st ≠ 1) ∧
    ∃ (s : State) (g : Part), (s.grp g).st = .resetting ∧ (∃ h, (s.stream h).group = g ∧ (s.stream h).st = .open_) ∧
      ∃ c, (s.peer c).group = g ∧ (s.peer c).st = 2 ∧ (members s g).contains (s.peer c).remmod.toNat = true :=
  ⟨⟨{ pair0 with peers := [(3, { st := 1, remmod := 1 })] }, 0, 0x4000000000000002#64, by decide +kernel, by decide +kernel, by decide +kernel, ⟨3, by decide +kernel⟩, 4, by decide +kernel⟩,
    { str5 { st := .open_, op := 4 } with peers := [(3, { st := 2, remmod := 1 })], grps := [(0, { st := .resetting })] }, 0, by decide +kernel, ⟨5, by decide +kernel⟩, 3, by decide +kernel⟩
/-! ### Witnesses: membership and the link -/

/-- A message of a type from module 1 about module 2, coordinated by module 0. -/
def memb0 (typ : Nat) (recs : List Nat) : Memb := { typ := typ, grp := 0, epoch := 1, sender := 1, coord := 0, recs := recs }

/-- The packet that carries it to this module. -/
def membPkt (typ : Nat) (recs : List Nat) : List Byte :=
  packetOf { typ := 4, epoch := 1, srcMod := 1, dstMod := 0 } (membBytes typ 0 1 1 0 recs) []

theorem arrives0 (s : State) (typ : Nat) (recs : List Nat)
    (h : portUp s 0 = true ∧ crcOk (membPkt typ recs) = true ∧ pktType (membPkt typ recs) = 4 ∧ membType ((membPkt typ recs).drop 40) = typ ∧
      parsePacket (membPkt typ recs) = some ({ typ := 4, epoch := 1, srcMod := 1, dstMod := 0 }, membBytes typ 0 1 1 0 recs, []) ∧ modId s = 0 ∧
      readMemb (membBytes typ 0 1 1 0 recs) = some (memb0 typ recs)) : membArrives s 0 (membPkt typ recs) (memb0 typ recs) :=
  ⟨by decide, h.1, h.2.1, h.2.2.1, h.2.2.2.1, _, _, _, h.2.2.2.2.1, rfl, h.2.2.2.2.2.1.symm, h.2.2.2.2.2.2⟩

theorem witness_MembershipMessages_message :
    ∀ x ∈ [(1, GState.stable), (2, GState.stable), (3, .changing), (5, .stable), (5, .changing)], ∃ (s : State) (pkt : List Byte) (m : Memb),
      membArrives s 0 pkt m ∧ m.epoch = grpEpoch s m.grp ∧ formed s m.grp = true ∧ m.typ = x.1 ∧ (s.grp m.grp).st = x.2 ∧ (s.grp m.grp).coord = modId s ∧
      ∃ y ∈ members s m.grp, y ∉ (s.grp m.grp).voted ∧ y ≠ m.sender ∧ y ≠ modId s ∧ (suspected (addSuspects s m.grp m.sender m.recs) m.grp).contains y = false := by
  have h : ∀ x ∈ [(1, GState.stable), (2, GState.stable), (3, .changing), (5, .stable), (5, .changing)],
      (fun (s : State) (m : Memb) => (portUp s 0 = true ∧ crcOk (membPkt x.1 []) = true ∧ pktType (membPkt x.1 []) = 4 ∧ membType ((membPkt x.1 []).drop 40) = x.1 ∧
        parsePacket (membPkt x.1 []) = some ({ typ := 4, epoch := 1, srcMod := 1, dstMod := 0 }, membBytes x.1 0 1 1 0 [], []) ∧ modId s = 0 ∧
        readMemb (membBytes x.1 0 1 1 0 []) = some (memb0 x.1 [])) ∧ m.epoch = grpEpoch s m.grp ∧ formed s m.grp = true ∧ (s.grp m.grp).st = x.2 ∧
        (s.grp m.grp).coord = modId s ∧ 2 ∈ members s m.grp ∧ 2 ∉ (s.grp m.grp).voted ∧ 2 ≠ m.sender ∧ 2 ≠ modId s ∧
        (suspected (addSuspects s m.grp m.sender m.recs) m.grp).contains 2 = false) (trio0 0 { st := x.2, voted := [0] }) (memb0 x.1 []) := by decide +kernel
  intro x hx
  obtain ⟨h1, h2, h3, h4, h5, h6, h7⟩ := h x hx
  exact ⟨_, _, memb0 x.1 [], arrives0 _ _ _ h1, h2, h3, rfl, h4, h5, 2, h6, h7⟩

theorem witness_MembershipMessages_commit :
    ∃ (s : State) (g : Part) (coord : Nat) (out : List Nat) (pkt : List Byte) (m : Memb), out.contains (modId s) = false ∧ (s.grp g).resetReq = false ∧
      (∀ kv ∈ s.descs, kv.2.st ≠ .restoring) ∧ membArrives s 0 pkt m ∧ m.typ = 4 ∧ m.epoch = grpEpoch s g ∧ m.grp = g ∧ formed s g = true ∧ m.coord = coord ∧
      m.recs = out ∧ mySuspects s g = [] ∧ ∃ h, (s.stream h).group = g ∧ (s.stream h).st = .active :=
  ⟨{ trio0 0 { st := .changing } with streams := [(5, { st := .active, op := 4 })] }, 0, 0, [1], membPkt 4 [1], memb0 4 [1], by decide +kernel, by decide +kernel,
    fun _ h => (nomatch h), arrives0 _ _ _ (by decide +kernel), rfl, by decide +kernel, rfl, by decide +kernel, rfl, rfl, by decide +kernel, 5, by decide +kernel⟩

theorem witness_MembershipMessages_window :
    (∃ (s : State) (g : Part) (out : List Nat), out.contains (modId s) = false ∧ (s.grp g).resetReq = false ∧ (s.grp g).st = .changing ∧ (s.grp g).coord = modId s ∧
      (s.grp g).since.toNat + fget s (Reg.ceGrpcfg g) 47 40 * 1000000 ≤ s.time.toNat ∧ removedSet (members s g) (s.grp g).voted (s.grp g).suspects = some out ∧ out ≠ []) ∧
    ∃ (s : State) (g : Part), (s.grp g).resetReq = false ∧ (s.grp g).st = .changing ∧ (s.grp g).coord = modId s ∧
      (s.grp g).since.toNat + fget s (Reg.ceGrpcfg g) 47 40 * 1000000 ≤ s.time.toNat ∧ removedSet (members s g) (s.grp g).voted (s.grp g).suspects = none :=
  ⟨⟨trio0 0 { st := .changing, voted := [0, 1] }, 0, [2], by decide +kernel⟩, trio0 0 { st := .changing, voted := [0] }, 0, by decide +kernel⟩

theorem witness_MembershipMessages_takeover :
    ∀ me ∈ [0, 2], ∃ (s : State) (g : Part), modId s = me ∧ (s.grp g).st = .changing ∧ (s.grp g).coord ≠ modId s ∧
      (s.grp g).since.toNat + fget s (Reg.ceGrpcfg g) 39 32 * 1000000 ≤ s.time.toNat ∧
      (let s1 := addSuspects s g (modId s) [(s.grp g).coord]
       let c := coordOf s1 g (mySuspects s1 g)
       (me = 2 → c ≠ modId s) ∧ (me = 0 → c = modId s ∧ (members s g).any (fun x => x != modId s && !(suspected s1 g).contains x) = true)) := by
  have h : ∀ me ∈ [0, 2], (fun (s : State) => modId s = me ∧ (s.grp 0).st = .changing ∧ (s.grp 0).coord ≠ modId s ∧
      (s.grp 0).since.toNat + fget s (Reg.ceGrpcfg 0) 39 32 * 1000000 ≤ s.time.toNat ∧
      (let s1 := addSuspects s 0 (modId s) [(s.grp 0).coord]
       let c := coordOf s1 0 (mySuspects s1 0)
       (me = 2 → c ≠ modId s) ∧ (me = 0 → c = modId s ∧ (members s 0).any (fun x => x != modId s && !(suspected s1 0).contains x) = true)))
      (trio0 me { st := .changing, coord := if me = 0 then 1 else 0 }) := by decide +kernel
  intro me hm
  exact ⟨_, 0, h me hm⟩

/-- Port 0 up, context 3 to module 1. -/
def link0 : State := { pair0 with
  regs := [(0x200100, 0x10#64), (0x201000, 0xF#64), (Reg.ceGrpcfg 0, 2#64), (Reg.fbGroup 0, 0x100000000#64), (Reg.ceSlotmap 0, 0#64),
    (Reg.fbPortstat 0, 0x8F000000#64), (Reg.fbPortstat 3, 0x8F000000#64), (Reg.fbPortstat 12, 0x8F000000#64)]
  peers := [(3, { st := 1, remmod := 1, remctx := 9#16 })], time := 400000#64 }

/-- The header of a DATA shard of module 1 for context 3. -/
def data0 (nshard : Nat) : FHdr := { epoch := 1, srcMod := 1, dstCtx := 3, srcCtx := 9, nshard := nshard, tfmt := 1 }

/-- Eight bytes of payload. -/
def eight0 : List Byte := List.replicate 8 7#8

theorem witness_ShardsReportsAndResends_data :
    ∀ n ∈ [0, 1], ∃ (s : State) (p : Port) (pkt pl sl : List Byte) (h : FHdr), pktType pkt = 1 ∧ portUp s p = true ∧ crcOk pkt = true ∧
      parsePacket pkt = some (h, pl, sl) ∧ h.dstMod = modId s ∧ h.typ = 1 ∧ (h.engine = false → (s.peer h.dstCtx).st ≠ 0) ∧ epochOk s h = true ∧ ctxOk s h = true ∧
      s.asm.find? (fun a => a.isFor h) = none ∧ h.nshard = n ∧ h.shard = 0 ∧ genCheck s h = none ∧ h.sealB = false ∧
      (s.asm.filter fun a => a.quad.val == portQuad p).length < 256 := by
  have h : ∀ n ∈ [0, 1], (fun (s : State) pkt (h : FHdr) => pktType pkt = 1 ∧ portUp s 0 = true ∧ crcOk pkt = true ∧
      parsePacket pkt = some (h, eight0, []) ∧ h.dstMod = modId s ∧ h.typ = 1 ∧ (h.engine = false → (s.peer h.dstCtx).st ≠ 0) ∧ epochOk s h = true ∧ ctxOk s h = true ∧
      s.asm.find? (fun a => a.isFor h) = none ∧ h.nshard = n ∧ h.shard = 0 ∧ genCheck s h = none ∧ h.sealB = false ∧
      (s.asm.filter fun a => a.quad.val == portQuad 0).length < 256) link0 (packetOf (data0 n) eight0 []) (data0 n) := by decide +kernel
  intro n hn
  exact ⟨link0, 0, _, eight0, [], data0 n, h n hn⟩

/-- A retained tile of core 0's item (1) or of engine 0 (3). -/
def sent1 (dkind : Nat) : Sent := {
  led := 0, core := 0, n := 0, era := 0, dkind := dkind, dest := if dkind = 1 then 3 else 4096 + 5, shards := [{}], time := 0
  msg := { srcMod := 0, home := 0, engine := dkind == 3, seq := 6, inst := 0, rtag := 0, tfmt := 1, ord := 0, tag := none, data := [] } }

/-- A packet of one record about that tile. -/
def record0 (typ code : Nat) (engine : Bool) : List Byte :=
  packetOf { typ := typ, epoch := 1, srcMod := 1, dstCtx := 3, srcCtx := 9 } (leBytes 8 (recordOf 6 0 engine 0 false code)) []

theorem witness_ShardsReportsAndResends_record :
    ∀ x ∈ [(2, 0, 1), (2, 1, 3), (2, 5, 1), (2, 2, 1), (2, 3, 3), (2, 4, 1), (3, 0, 1), (3, 0, 3)], ∃ (s : State) (p : Port) (pkt pl sl : List Byte) (h : FHdr) (r : Nat) (y : Sent), portUp s p = true ∧
      crcOk pkt = true ∧ parsePacket pkt = some (h, pl, sl) ∧ h.dstMod = modId s ∧ records pl = some [r] ∧ findSent s (bits r 50 48) (bit r 51) (bits r 47 0) = some y ∧
      pktType pkt = x.1 ∧ h.typ = x.1 ∧ bits r 57 55 = x.2.1 ∧ y.dkind = x.2.2 ∧ bit r 54 = false ∧ heldTile s y = false ∧
      s.sent.find? (fun (z : Sent) => z.led == y.led && z.n == y.n) = some y ∧ ∃ sh, y.shards[bits r 53 52]? = some sh ∧ sh.attempts < 3 := by
  have h : ∀ x ∈ [(2, 0, 1), (2, 1, 3), (2, 5, 1), (2, 2, 1), (2, 3, 3), (2, 4, 1), (3, 0, 1), (3, 0, 3)], (fun (s : State) pkt pl (h : FHdr) (r : Nat) (y : Sent) => portUp s 0 = true ∧
      crcOk pkt = true ∧ parsePacket pkt = some (h, pl, []) ∧ h.dstMod = modId s ∧ records pl = some [r] ∧ findSent s (bits r 50 48) (bit r 51) (bits r 47 0) = some y ∧
      pktType pkt = x.1 ∧ h.typ = x.1 ∧ bits r 57 55 = x.2.1 ∧ y.dkind = x.2.2 ∧ bit r 54 = false ∧ heldTile s y = false ∧
      s.sent.find? (fun (z : Sent) => z.led == y.led && z.n == y.n) = some y ∧ y.shards[bits r 53 52]? = some {})
      { link0 with sent := [sent1 x.2.2] } (record0 x.1 x.2.1 (x.2.2 == 3)) (leBytes 8 (recordOf 6 0 (x.2.2 == 3) 0 false x.2.1))
        { typ := x.1, epoch := 1, srcMod := 1, dstCtx := 3, srcCtx := 9 } (recordOf 6 0 (x.2.2 == 3) 0 false x.2.1) (sent1 x.2.2) := by decide +kernel
  intro x hx
  obtain ⟨h1, h2, h3, h4, h5, h6, h7, h8, h9, h10, h11, h12, h13, h14⟩ := h x hx
  exact ⟨_, 0, _, _, [], _, _, _, h1, h2, h3, h4, h5, h6, h7, h8, h9, h10, h11, h12, h13, {}, h14, by decide⟩

theorem witness_ShardsReportsAndResends_resend :
    ∃ (s : State) (home : BitVec 3) (engine : Bool) (seq : BitVec 48) (i : BitVec 2) (x : Sent) (sh : Shard), findSent s home.toNat engine seq.toNat = some x ∧
      x.shards[i.toNat]? = some sh ∧ sh.last.toNat + 200000 ≤ s.time.toNat ∧ heldTile s x = false ∧ sh.attempts < 3 :=
  ⟨{ link0 with sent := [sent1 1] }, 0, false, 6, 0, sent1 1, {}, by decide +kernel⟩

/-- An incomplete tile of module 1. -/
def asm0 : Asm := { quad := 0, hdr := ofLe ((data0 1).bytes 8), got := [(0, eight0)], first := 0 }

theorem witness_ShardsReportsAndResends_request :
    ∃ (s : State) (src : BitVec 19) (home : BitVec 3) (engine : Bool) (seq : BitVec 48) (a : Asm) (h : FHdr) (len : Nat) (bad : Bool),
      s.asm.find? (fun a => a.isFor { srcMod := src.toNat, home := home.toNat, engine := engine, seq := seq.toNat }) = some a ∧ readHdr a.hdr = some (h, len, bad) ∧
      a.first.toNat + 200000 * (a.reqs + 1) ≤ s.time.toNat ∧ fbit s (Reg.fbGroup (hdrGroup s h)) 31 = false ∧ a.reqs < 3 :=
  ⟨{ link0 with asm := [asm0] }, 1, 0, false, 0, asm0, data0 1, 8, false, by decide +kernel⟩

/-- The header of a packet of a type of module 3 for module 1, on its way through module 0. -/
def transit0 (typ : Nat) : FHdr := { data0 0 with typ := typ, srcMod := 3, dstMod := 1, hops := if typ = 1 then 2 else 0 }

theorem witness_ForwardingAndPortLoss_forward :
    ∀ typ ∈ [1, 2], ∃ (s : State) (p : Port) (pkt : List Byte) (h : FHdr) (len : Nat) (bad : Bool) (q : Nat), readHdr (ofLe (pkt.take 40)) = some (h, len, bad) ∧
      48 ≤ pkt.length ∧ p.val < 12 ∧ portUp s p = true ∧ h.dstMod ≠ modId s ∧ sameRack (modId s) h.dstMod = true ∧ h.counts = (typ == 1) ∧
      (h.counts = true → h.hops ≠ 0) ∧ portFor s (modId s) h.dstMod h.route = some q := by
  have h : ∀ typ ∈ [1, 2], (fun (s : State) (pkt : List Byte) (h : FHdr) (bad : Bool) => readHdr (ofLe (pkt.take 40)) = some (h, 8, bad) ∧ 48 ≤ pkt.length ∧
      (3 : Port).val < 12 ∧ portUp s 3 = true ∧ h.dstMod ≠ modId s ∧ sameRack (modId s) h.dstMod = true ∧ h.counts = (typ == 1) ∧
      (h.counts = true → h.hops ≠ 0) ∧ portFor s (modId s) h.dstMod h.route = some 0) link0 (packetOf (transit0 typ) eight0 []) (transit0 typ) false := by decide +kernel
  intro typ ht
  exact ⟨link0, 3, _, _, 8, false, 0, h typ ht⟩

/-- A frame on rail 0 for this module, its integrity check by association 0 of channel 4. -/
def frame0 (s : State) : RailFrame :=
  let f : RailFrame := { dst := railAddr s 0 (modId s), udpDst := BitVec.ofNat 16 (fget s Reg.fbUdp 15 0), an := 0#2, pn := 0#64, sci := 4#64, icv := 0#128, payload := packetOf (data0 0) eight0 [] }
  { f with icv := Config.macsecIcv 9#256 4#64 0#64 (railBytes f) }

/-- Rail 0 with a receive association of that channel. -/
def railed0 : State := { link0 with plinth := { link0.plinth with macsec := [(saKey 0 true 0 4#64, (4#64, 0#64, 9#256, true))] } }

theorem witness_ForwardingAndPortLoss_rail :
    ∃ (s t : State) (r : Rail) (f : RailFrame), portUp s (12 + r.val) = true ∧ macsecIn s r f = some t ∧ f.dst = railAddr s r (modId s) ∧ f.udpDst.toNat = fget s Reg.fbUdp 15 0 := by
  refine ⟨railed0, { railed0 with pnSeen := Tab.put 0 railed0.pnSeen (saKey 0 true 0 4#64) 1 }, 0, frame0 railed0, by decide +kernel, ?_, rfl, by decide +kernel⟩
  have h1 : Tab.find railed0.plinth.macsec (saKey 0 true 0 4#64) = some (4#64, 0#64, 9#256, true) := by decide +kernel
  have h2 : (frame0 railed0).icv = Config.macsecIcv 9#256 4#64 0#64 (railBytes (frame0 railed0)) := rfl
  unfold macsecIn
  have h3 : saKey (0 : Rail) true (frame0 railed0).an.toNat (frame0 railed0).sci = saKey 0 true 0 4#64 := rfl
  simp only [h3, h1]
  rw [if_neg]
  · rfl
  · rintro (h | h)
    · revert h; decide +kernel
    · exact h h2

theorem witness_ForwardingAndPortLoss_loss :
    ∃ (s : State) (p : Port) (l : Fin 4), portUp s p = true ∧ bit (fget s (Reg.fbPortstat p) 27 24) l = true :=
  ⟨link0, 0, 3, by decide +kernel⟩
/-! ### Witnesses: keys, isolation, sealed mode, instance control -/

/-- A key message about adapter 7 in session 0. -/
def key7 (keygen : Byte) : KeyMsg := { sess := 0, kind := 0#8, tag := 7#16, keygen := keygen, rsvd := 0#24, key := 0#256 }

/-- The tenant of instance 0 holds a session; adapter 7 has a key. -/
def keyed0 (e : KeyEnt) : State := { io0 with spdm := [(2, 11#384)], ktab := [(7, e)], time := 0xF00000000000#64 }

theorem witness_KeyCommandsComplete :
    ∀ e ∈ [({} : KeyEnt), { st := .retired, lastret := 4#8, keygen := 4#8 }, { st := .active, keygen := 5#8 }],
      ∃ (s : State) (fn : Fn) (m : KeyMsg) (k : KeyId), (sessionCert s fn m.sess).isSome = true ∧ m.rsvd = 0#24 ∧ keyOf fn m = some k ∧ mayAct s fn k = true ∧
        keyEnt s k = e ∧ (e.st = .retired → e.rettime.toNat + Config.quarantine ≤ s.time.toNat) ∧ m.keygen ≠ 0#8 ∧
        (e.st ≠ .active → e.lastret = 0#8 ∨ 0 < sdiff8 m.keygen e.lastret) ∧ (e.st = .active → e.keygen = m.keygen) ∧ m.key = 0#256 := by
  have h : ∀ e ∈ [({} : KeyEnt), { st := .retired, lastret := 4#8, keygen := 4#8 }, { st := .active, keygen := 5#8 }],
      (sessionCert (keyed0 e) 1 0).isSome = true ∧ keyOf 1 (key7 5#8) = some (.adapter 7#16) ∧ mayAct (keyed0 e) 1 (.adapter 7#16) = true ∧
        keyEnt (keyed0 e) (.adapter 7#16) = e ∧ (e.st = .retired → e.rettime.toNat + Config.quarantine ≤ (keyed0 e).time.toNat) ∧
        (e.st ≠ .active → e.lastret = 0#8 ∨ 0 < sdiff8 5#8 e.lastret) ∧ (e.st = .active → e.keygen = 5#8) := by decide +kernel
  intro e he
  obtain ⟨h1, h2, h3, h4, h5, h6, h7⟩ := h e he
  exact ⟨keyed0 e, 1, key7 5#8, .adapter 7#16, h1, rfl, h2, h3, h4, h5, by decide, h6, h7, rfl⟩

theorem witness_KeyCommandsComplete_query :
    ∃ (s : State) (fn : Fn) (m : KeyMsg) (k : KeyId), (sessionCert s fn m.sess).isSome = true ∧ m.rsvd = 0#24 ∧ keyOf fn m = some k ∧ mayAct s fn k = true ∧
      m.keygen = 0#8 ∧ m.key = 0#256 :=
  ⟨keyed0 {}, 1, key7 0#8, .adapter 7#16, by decide +kernel, rfl, by decide +kernel, by decide +kernel, rfl, rfl⟩

theorem witness_KeyCommandsComplete_finish :
    ∃ (s : State) (k : KeyId), (keyEnt s k).st = .retiring ∧ k = .adapter 7#16 ∧ ∀ j ∈ s.jobs, j.base = false → j.tag ≠ 7#16 :=
  ⟨keyed0 { st := .retiring }, .adapter 7#16, by decide +kernel, rfl, fun _ h => nomatch h⟩

theorem witness_KeyCommandsComplete_fetch : ∃ (s : State) (tag : Tag), (s.key tag.toNat).st = .active :=
  ⟨keyed0 { st := .active, keygen := 5#8 }, 7#16, by decide +kernel⟩

theorem witness_RuleChangesComplete :
    ∃ (s : State) (i : Inst) (v : W32), reachable s = true ∧ sealed s = false ∧ (s.inst i).staged.length < 64 ∧ (s.inst i).staged ≠ [] ∧ v.getLsbD 31 = true ∧ ruleBusy s i = false :=
  ⟨{ io0 with insts := [(0, { staged := [(4, 3#64)] })] }, 0, 0x80000000#32, by decide +kernel⟩

theorem witness_RuleChangesComplete_busy :
    ∃ (s : State) (i : Inst) (v : W32), reachable s = true ∧ sealed s = false ∧ v.getLsbD 31 = true ∧ ruleBusy s i = true ∧ (s.inst i).commitQ = false :=
  ⟨{ up with regs := [(Reg.isRulectl 15, 0x40000000#64)] }, 15, 0x80000000#32, by decide +kernel⟩

/-- A session's message with nothing but a mask. -/
def seal0 (tag : W16) : KeyMsg := { sess := 0, kind := 0#8, tag := tag, keygen := 0#8, rsvd := 0#24, key := 0#256 }

/-- Every instance is quiesced, instance 0 is of partition 0 and its tenant's session is open; the journal is valid. -/
def sealing0 (ctl : W64) : State := { up with
  regs := (Reg.isSealctl, ctl) :: (Reg.ksStatus, 0x80000000#64) :: (0x200100, 0x10#64) :: (List.range 16).map fun i => (Reg.qmInststat i, 2#64)
  spdm := [(2, 11#384)], sealCert := 11#384 }

theorem witness_SealedModeAndSessions_seal :
    ∃ (s : State) (fn : Fn) (m : KeyMsg) (cert : BitVec 384), sessionCert s fn m.sess = some cert ∧ m.kind = 0#8 ∧ m.keygen = 0#8 ∧ m.rsvd = 0#24 ∧ m.key = 0#256 ∧
      fn.val ≠ 0 ∧ removing s = false ∧ sealed s = false ∧ sealOk s m.tag.toNat cert = true :=
  ⟨sealing0 0x40000000#64, 1, seal0 1#16, 11#384, by decide +kernel, rfl, rfl, rfl, rfl, by decide, by decide +kernel⟩

theorem witness_SealedModeAndSessions_unseal :
    ∃ (s : State) (fn : Fn) (m : KeyMsg) (cert : BitVec 384), sessionCert s fn m.sess = some cert ∧ m.kind = 0#8 ∧ m.keygen = 0#8 ∧ m.rsvd = 0#24 ∧ m.key = 0#256 ∧
      fn.val ≠ 0 ∧ m.tag = 0#16 ∧ sealed s = true ∧ s.sealCert = cert :=
  ⟨sealing0 0x80000001#64, 1, seal0 0#16, 11#384, by decide +kernel, rfl, rfl, rfl, rfl, by decide, rfl, by decide +kernel, rfl⟩

theorem witness_SealedModeAndSessions_arm :
    (∃ (s : State) (v : W32), reachable s = true ∧ v.getLsbD 30 = true) ∧ (∃ ver : W16, 0x0103 ≤ ver.toNat) ∧
      ∃ (s : State) (fn : Fn), fbit s Reg.ksStatus 31 = true ∧ Tab.find s.spdm (fn.val * 2) = none :=
  ⟨⟨up, 0x40000000#32, by decide +kernel⟩, ⟨0x0103#16, by decide⟩, sealing0 0#64, 0, by decide +kernel⟩

theorem witness_RemovalAndViolations :
    ∃ (s : State) (i : Inst) (v : W32), reachable s = true ∧ v.getLsbD 31 = true ∧ fget s (Reg.isRemove i) 29 28 ≠ 1 ∧ fget s (Reg.isRemove i) 29 28 ≠ 2 ∧ (s.ikey i).st = .active :=
  ⟨{ io0 with ikeys := [(0, { st := .active })] }, 0, 0x80000000#32, by decide +kernel⟩

theorem witness_RemovalAndViolations_rearm :
    ∃ (s : State) (i : Inst) (v : W64), reachable s = true ∧ v.getLsbD 63 = true ∧ v.getLsbD 62 = true ∧ fbit s (Reg.isViol i) 63 = true :=
  ⟨{ up with regs := [(Reg.isViol 2, 0x8000000000000000#64)] }, 2, 0xC000000000000000#64, by decide +kernel⟩

theorem witness_InstanceStops :
    (∃ (s : State) (i : Inst) (c : Instr), c = .instctlReset i 1#32 ∧ reachable s = true ∧ s.plinth.svc = .normal) ∧
    ∃ (s : State) (i : Inst), (s.inst i).quiescing = true ∧ nothingOf s i = true :=
  ⟨⟨{ up with plinth := { up.plinth with svc := .normal } }, 0, _, rfl, by decide +kernel⟩, { io0 with insts := [(0, { quiescing := true })] }, 0, by decide +kernel⟩

/-- Instance 0 is frozen, or not, with a usable migration key. -/
def migrating0 (stat : W64) : State := { io0 with
  regs := [(0x200100, 0x10#64), (0x201000, 0xF#64), (Reg.qmInststat 0, stat)], migKey := { st := .active }, peers := [(3, { st := 1, cls := true })] }

theorem witness_MigrationCommandsComplete :
    (∃ (s : State) (i : Inst), reachable s = true ∧ mayRun s i = true ∧ openInst s i = false ∧
      (s.led.any fun kv => kv.2.inst.val == i.val && (kv.2.st == .running || kv.2.st == .finishing)) = false ∧
      ∃ c, (s.peer c).inst = i ∧ (s.peer c).cls = true ∧ (s.peer c).st = 1 ∧ rolling s 3 = none) ∧
    (∃ (s : State) (i : Inst), reachable s = true ∧ fbit s (Reg.qmInststat i) 4 = true ∧ migReady s = true) ∧
    ∃ (s : State) (i : Inst), (s.inst i).saving = true ∧ migReady s = true :=
  ⟨⟨migrating0 0#64, 0, four (by decide +kernel) ⟨3, by decide +kernel⟩⟩, ⟨migrating0 0x10#64, 0, by decide +kernel⟩,
    { migrating0 0x10#64 with insts := [(0, { saving := true })] }, 0, by decide +kernel⟩

/-- An image of an instance that holds nothing, of the shape of instance 0's partition. -/
def emptyImage : Image := { len := 0, orders := 0, cores0 := 0xF, cores1 := 0, fp := 0#64, rings := [], gens := [], ops := [], elig := [], leds := [], ctxs := [], pages := [], data := [], descs := [] }

/-- Its seal stands at the address that QM_MIGADDR names. -/
def imaged0 : State := { migrating0 0#64 with host := Memory.write [] 0 (imageSeal 0#256 0 []), images := [(0, emptyImage)] }

theorem length_imageSeal (k : BitVec 256) (n : Nat) (b : List Byte) : (imageSeal k n b).length = 32 := by simp [imageSeal]

theorem witness_MigrationCommandsComplete_restore :
    ∃ (s : State) (i : Inst) (im : Image) (u : State), reachable s = true ∧ imageAt s (rd s (Reg.qmMigaddr i)) = some im ∧ imageFits s i im = true ∧
      imageKeys s i im = true ∧ nothingOf s i = true ∧ restoreImage s i im = some u := by
  refine ⟨imaged0, 0, emptyImage, _, by decide +kernel, ?_, by decide +kernel, by decide +kernel, by decide +kernel, rfl⟩
  have h1 : Memory.read imaged0.host 0 32 = imageSeal 0#256 0 [] := by
    have := Memory.read_write [] 0 (imageSeal 0#256 0 [])
    rw [length_imageSeal] at this
    exact this
  have h2 : Memory.read imaged0.host 0 12 = (Memory.read imaged0.host 0 32).take 12 := by
    simp [Memory.read, ← List.map_take, List.take_range]
  have h3 : Memory.num imaged0.host 0 12 = 0 := by
    rw [Memory.num, h2, h1]
    have : (imageSeal 0#256 0 []).take 12 = leBytes 12 0 := by
      rw [imageSeal, List.append_assoc, List.take_left' (by simp)]
    rw [this]; decide +kernel
  have h4 : rd imaged0 (Reg.qmMigaddr 0) = 0 := by decide +kernel
  have h5 : imaged0.images = [(0, emptyImage)] := rfl
  have h6 : migReady imaged0 = true := by decide +kernel
  have e0 : emptyImage.len = 0 := rfl
  have ek : imaged0.migKey.key = 0#256 := rfl
  have er : Memory.read imaged0.host 0 0 = [] := rfl
  show imageAt imaged0 (rd imaged0 (Reg.qmMigaddr 0)) = some emptyImage
  rw [h4, imageAt, h5]
  simp [e0, h1, h3, h6, ek, er]

theorem witness_RingEnableAndDirtyLogging :
    (∃ (s : State) (fn : Fn) (i : Inst) (r : RingId) (v : W32), reachable s = true ∧ fn.val = 0 ∧ ringEn (s.ring i r) = false ∧ v.getLsbD 31 = true) ∧
    (∃ (s : State) (fn : Fn) (i : Inst) (r : RingId) (v : W32), reachable s = true ∧ fn.val = i.val + 1 ∧ ringMgr (s.ring i r) = false ∧ ringEn (s.ring i r) = false ∧
      v.getLsbD 31 = true) ∧
    ∃ (s : State) (i : Inst) (v : W64), reachable s = true ∧ (∀ p, partOf s i = some p → slotsOf s p ≤ 16) ∧ bits v.toNat 1 1 ≠ fget s (Reg.qmDirtyctl i) 1 1 :=
  ⟨⟨up, 0, 3, 16383, 0xC6300000#32, by decide +kernel⟩, ⟨up, 16, 15, 0, 0x86300000#32, by decide +kernel⟩, io0, 0, 3#64, by decide +kernel,
    fun p hp => by have : partOf io0 0 = some 0 := by decide +kernel
                   rw [show ((0 : Inst) : Nat) = 0 from rfl, this] at hp; cases hp; decide +kernel, by decide +kernel⟩
/-! ### Witnesses: registers, ports, faults, power, start-up -/

/-- Memory is done, and MT_POOLSTAT shows every page but the tables' and the FREE ones as its total. -/
def pool0 : State := { up with regs := [(Reg.glStatus, 0x8000#64), (Reg.scPcores0 1, 0xF0#64)] }

theorem witness_ConfigurationWrites_instcfg :
    ∃ (s : State) (i : Inst) (v : W32), reachable s = true ∧ sealed s = false ∧ (∀ p, partOf s i = some p → partBusy s p = false) ∧ partBusy s (bits v.toNat 3 0) = false ∧
      v.getLsbD 4 = true ∧ memDone s = true ∧ partOf s i = none ∧ (instTables s).length = 65 := by
  have h : partOf pool0 0 = none := by decide +kernel
  exact ⟨pool0, 0, 0x10#32, by decide +kernel, by decide +kernel, fun p hp => (by rw [show ((0 : Inst) : Nat) = 0 from rfl, h] at hp; cases hp), by decide +kernel⟩

theorem witness_ConfigurationWrites_leave :
    ∃ (s : State) (i : Inst) (v : W32), reachable s = true ∧ sealed s = false ∧ partBusy s 0 = false ∧ partOf s i = some 0 ∧ partBusy s (bits v.toNat 3 0) = false ∧ v.getLsbD 4 = false :=
  ⟨io0, 0, 0#32, by decide +kernel⟩

theorem witness_ConfigurationWrites_pcores :
    (∃ (s : State) (p : Part) (v : W64), reachable s = true ∧ sealed s = false ∧ (∀ q : Part, q ≠ p → rd s (Reg.scPcores0 q) &&& v.toNat = 0) ∧ partBusy s p = false ∧ v ≠ 0#64) ∧
    ∃ (s : State) (p q : Part) (v : W64), reachable s = true ∧ sealed s = false ∧ q ≠ p ∧ rd s (Reg.scPcores0 q) &&& v.toNat ≠ 0 :=
  ⟨⟨pool0, 0, 0xF0F#64, four (by decide +kernel) (by decide)⟩, pool0, 0, 1, 0x10#64, by decide +kernel⟩

theorem witness_ConfigurationWrites_quota :
    (∃ (s : State) (off : Nat) (v : W32), reachable s = true ∧ sealed s = false ∧ isQuota off = true ∧
      quotaSum s + bits v.toNat 18 0 + systemPages s ≤ fget s Reg.mtPoolstat 56 38 ∧ 0 < bits v.toNat 18 0) ∧
    ∃ (s : State) (off : Nat) (v : W32), reachable s = true ∧ sealed s = false ∧ isQuota off = true ∧ fget s off 18 0 < bits v.toNat 18 0 ∧
      fget s Reg.mtPoolstat 56 38 + fget s off 18 0 < quotaSum s + bits v.toNat 18 0 + systemPages s :=
  ⟨⟨pool0, Reg.mtPquota 15, 100#32, by decide +kernel⟩, pool0, Reg.mtQuota 3, 0x7FFFF#32, by decide +kernel⟩

theorem witness_ConfigurationWrites_base :
    (∃ (s : State) (off : Nat), reachable s = true ∧ sealed s = false ∧ tableExtent off = some 0x600000 ∧ memDone s = false ∧ isRwo off = true ∧ written s off = false ∧
      Tab.find s.heldBase off = none) ∧
    (∃ (s : State) (off : Nat) (v : W64), reachable s = true ∧ sealed s = false ∧ tableExtent off = some 0x600000 ∧ memDone s = true ∧ written s off = false ∧
      Tab.find s.heldBase off = none ∧
      (let a := rd (regWritePlain s off v.toNat) off
       a + 0x600000 ≤ Config.devMemEnd ∧ (span Config.pageBytes a 0x600000).all (fun n => pageFree s n || (s.page n).kind == .system) = true)) ∧
    ∃ (s : State) (off : Nat) (v : W64), reachable s = true ∧ sealed s = false ∧ tableExtent off = some 0x600000 ∧ memDone s = true ∧ written s off = false ∧
      Tab.find s.heldBase off = none ∧ ∃ n ∈ span Config.pageBytes (rd (regWritePlain s off v.toNat) off) 0x600000, pageFree s n = false ∧ (s.page n).kind ≠ .system :=
  ⟨⟨up, Reg.mtPagerec, by decide +kernel⟩, ⟨pool0, Reg.mtPagerec, 0x200000#64, by decide +kernel⟩,
    { pool0 with pages := [(2, { kind := .act })] }, Reg.mtPagerec, 0x200000#64, by decide +kernel, by decide +kernel, four (by decide +kernel) ⟨2, by decide +kernel⟩⟩

/-- Slot 3 of instance 2 is clear, or full, both ways. -/
def mailed0 (own : W16) : State := { up with mbUpOwn := [(2, own)], mbDownOwn := [(2, own)] }

theorem witness_MailboxCommands :
    (∃ (s : State) (i : Inst) (slot : Fin 16), reachable s = true ∧ (Tab.get 0#16 s.mbUpOwn i).getLsbD slot = false ∧ slot.val ≠ 15 ∧
      (Tab.get 0#16 s.mbDownOwn i).getLsbD slot = false ∧ (s.inst i).notices = []) ∧
    (∃ (s : State) (i : Inst) (slot : Fin 16), reachable s = true ∧ (Tab.get 0#16 s.mbUpOwn i).getLsbD slot = true) ∧
    (∃ (s : State) (i : Inst) (mask : W16), reachable s = true ∧ ¬ (Tab.get 0#16 s.mbUpOwn i ||| mask) = Tab.get 0#16 s.mbUpOwn i) ∧
    (∃ (s : State) (i : Inst) (mask : W16), reachable s = true ∧ ¬ (Tab.get 0#16 s.mbUpOwn i &&& ~~~mask) = Tab.get 0#16 s.mbUpOwn i) ∧
    ∃ (s : State) (i : Inst) (k : Byte) (a : W32) (rest : List (Byte × W32)), (s.inst i).notices = (k, a) :: rest ∧ (Tab.get 0#16 s.mbDownOwn i).getLsbD 15 = false :=
  ⟨⟨mailed0 0#16, 2, 3, by decide +kernel⟩, ⟨mailed0 8#16, 2, 3, by decide +kernel⟩, ⟨mailed0 8#16, 2, 1#16, by decide +kernel⟩, ⟨mailed0 8#16, 2, 8#16, by decide +kernel⟩,
    { mailed0 8#16 with insts := [(2, { notices := [(0xF1#8, 0#32)] })] }, 2, 0xF1#8, 0#32, [], by decide +kernel⟩

/-- Page 0 is of kind ACT and of instance 2, reached by its VF and by the PF. -/
def bar0 : State := { up with pages := [(0, { kind := .act, inst := 2 })] }

theorem witness_FunctionAccesses :
    (∃ (s : State) (fn : Fn) (off : Nat), reachable s = true ∧ regWidth fn off = some true ∧ off % 8 = 0 ∧ regWidth fn (off + 4) = none ∧ locked s fn off = false) ∧
    (∃ (s : State) (fn : Fn) (off : Nat), reachable s = true ∧ regWidth fn off = some true ∧ off % 8 = 0 ∧ locked s fn off = true) ∧
    (∃ (fn : Fn) (off : Nat), regWidth fn off = some false ∧ off % 8 = 0) ∧
    (∃ off size : Nat, (size ≠ 8 ∨ off % 8 ≠ 0) ∧ (size ≠ 4 ∨ off % 4 ≠ 0)) ∧
    (∀ fn ∈ [(0 : Fn), 3], ∃ (s : State) (bs : List Byte), reachable s = true ∧ sealed s = false ∧
      (let a := if fn.val = 0 then 64 else rd s (Reg.qmAp (fn.val - 1)) + 64
       bs ≠ [] ∧ 64 + bs.length ≤ bar4Size s fn ∧ a + bs.length ≤ Config.devMemEnd ∧
         (span Config.pageBytes a bs.length).all (fun pg => bar4Page s fn true a bs.length pg && bar4Page s fn false a bs.length pg) = true)) ∧
    (∃ (s : State) (fn : Fn) (off n : Nat), reachable s = true ∧ sealed s = false ∧ fn.val ≠ 0 ∧ off + n ≤ bar4Size s fn ∧
      ∃ pg ∈ span Config.pageBytes (rd s (Reg.qmAp (fn.val - 1)) + off) n, bar4Page s fn false (rd s (Reg.qmAp (fn.val - 1)) + off) n pg = false) ∧
    ∃ (s : State) (fn : Fn) (off n : Nat), reachable s = true ∧ sealed s = false ∧ bar4Size s fn < off + n :=
  ⟨⟨up, 0, Reg.qmMigaddr 15, by decide +kernel⟩, ⟨sealing0 0x80000001#64, 0, Reg.qmAp 0, by decide +kernel⟩, ⟨0, Reg.isRulectl 0, by decide +kernel⟩, ⟨0, 2, by decide⟩,
    fun fn hf => ⟨bar0, [1#8], by decide +kernel, by decide +kernel, (by decide +kernel : ∀ fn ∈ [(0 : Fn), 3],
      (let a := if fn.val = 0 then 64 else rd bar0 (Reg.qmAp (fn.val - 1)) + 64
       ([1#8] : List Byte) ≠ [] ∧ 64 + 1 ≤ bar4Size bar0 fn ∧ a + 1 ≤ Config.devMemEnd ∧
         (span Config.pageBytes a 1).all (fun pg => bar4Page bar0 fn true a 1 pg && bar4Page bar0 fn false a 1 pg) = true)) fn hf⟩,
    ⟨bar0, 1, 0, 8, four (by decide +kernel) ⟨0, by decide +kernel⟩⟩,
    bar0, 1, 2 ^ 36 - 4, 8, by decide +kernel⟩

theorem witness_PortsAndTrace_ports :
    (∃ (s : State) (v : W32), reachable s = true ∧ v.getLsbD 31 = true ∧ written s Reg.fbModid = true) ∧
    (∃ (s : State) (v : W32), reachable s = true ∧ v.getLsbD 31 = true ∧ written s Reg.fbModid = false) ∧
    ∃ (s : State) (p : Port), fbit s (Reg.fbPortctl p) 31 = true ∧ memDone s = true ∧ s.portWait = [p] :=
  ⟨⟨{ up with regs := [(Reg.fbModid, 5#64)] }, 0x80000000#32, by decide +kernel⟩, ⟨up, 0x80000000#32, by decide +kernel⟩,
    { up with regs := [(Reg.glStatus, 0x8000#64), (Reg.fbPortctl 17, 0x80000000#64)], portWait := [17] }, 17, by decide +kernel⟩

/-- Core 0's FIFO is full while the trace runs, or die 0 has a packet and its dump is in progress. -/
def traced0 (dump : W64) : State := { up with
  regs := [(Reg.trCfg, 0xFFFFFFFFFFFFFFFF#64), (Reg.trDump, dump)], trFifo := [(0, List.replicate 32 0#128)], trBuf := [(0, [5#128])], trCopy := [5#128] }

theorem witness_PortsAndTrace_trace :
    (∀ busy ∈ [true, false], ∃ (s : State) (v : W64), reachable s = true ∧ sealed s = false ∧ fbit s Reg.trDump 10 = busy ∧ v.getLsbD 11 = true) ∧
    (∀ go ∈ [true, false], ∃ s : State, fbit s Reg.trDump 10 = true ∧ fbit s Reg.trDump 11 = go ∧ sealed s = false ∧ s.trCopy ≠ []) ∧
    ∃ (s : State) (k : PCore), traceOn s = true ∧ 32 ≤ (Tab.get [] s.trFifo k).length := by
  refine ⟨fun busy hb => ⟨traced0 (if busy then 0x1400#64 else 0#64), 0x1800#64, ?_⟩, fun go hg => ⟨traced0 (if go then 0x1C00#64 else 0x1400#64), ?_⟩,
    traced0 0#64, 0, by decide +kernel⟩
  · cases busy <;> decide +kernel
  · cases go <;> decide +kernel

/-- No escalation key is pending at reset. -/
theorem noKeys (c sc : Nat) : notPending up c sc := fun _ h => absurd h List.not_mem_nil

theorem witness_FaultsAreLogged_message :
    ∀ x ∈ [(0x31, 0), (0x42, 2)], ∃ (s : State) (m : W128), kindLevel (mKind m.toNat) = some (mLevel m.toNat) ∧ bit m.toNat 80 = false ∧ mKind m.toNat = x.1 ∧
      mLevel m.toNat = x.2 ∧ sealed s = false ∧ notPending s (mKind m.toNat / 16) (scopeOf m.toNat) ∧ fbit s (Reg.fcLstat (mKind m.toNat / 16)) 31 = false ∧
      tripsPc s m.toNat = false := by
  have h : ∀ x ∈ [(0x31, 0), (0x42, 2)], (fun m : W128 => kindLevel (mKind m.toNat) = some (mLevel m.toNat) ∧ bit m.toNat 80 = false ∧ mKind m.toNat = x.1 ∧
      mLevel m.toNat = x.2 ∧ fbit up (Reg.fcLstat (mKind m.toNat / 16)) 31 = false ∧ tripsPc up m.toNat = false) (BitVec.ofNat 128 (mkMsg up 9 3 x.1 0 0 3)) := by decide +kernel
  intro x hx
  obtain ⟨h1, h2, h3, h4, h5⟩ := h x hx
  exact ⟨up, _, h1, h2, h3, h4, by decide +kernel, noKeys _ _, h5⟩

/-- A latch is valid and has counted; a key is pending at level 3. -/
def latched0 : State := { up with
  regs := [(Reg.tnNanstat 15, 0xC0000005#64), (Reg.fcLstat 15, 0xC0000005#64)], esc := [{ cls := 1, scope := 7, level := 3, unit := 0, die := 7, since := 0, waits := [] }] }

theorem witness_FaultsAreLogged_rearm :
    (∃ (s : State) (i : Inst) (c : Fin 16) (v w u : W32), reachable s = true ∧ fget s (Reg.tnNanstat i) 31 30 = 3 ∧ fget s (Reg.fcLstat c) 31 30 = 3 ∧ v.getLsbD 31 = true ∧
      w.getLsbD 31 = false ∧ w.getLsbD 30 = true ∧ u.getLsbD 31 = false ∧ u.getLsbD 30 = false) ∧
    (∃ (s : State) (v : W32) (k : EscKey), reachable s = true ∧ v.getLsbD 31 = true ∧ s.esc.find? (keyEq (bits v.toNat 19 16) (bits v.toNat 15 0)) = some k ∧ 3 ≤ k.level) ∧
    ∃ (s : State) (v : W32), reachable s = true ∧ v.getLsbD 31 = true ∧ notPending s (bits v.toNat 19 16) (bits v.toNat 15 0) :=
  ⟨⟨latched0, 15, 15, 0x80000000#32, 0x40000000#32, 0#32, by decide +kernel⟩,
    ⟨latched0, 0x80010007#32, { cls := 1, scope := 7, level := 3, unit := 0, die := 7, since := 0, waits := [] }, by decide +kernel⟩,
    up, 0x80010007#32, by decide +kernel, by decide +kernel, noKeys _ _⟩

theorem witness_FaultEventsAct :
    (∀ c sc, notPending up c sc) ∧ (retirePc pool0 11 63).isSome = true ∧ notPending pool0 3 (0x10 + 11) ∧ (11 : Nat) < 12 ∧
      (∀ d : Die, d ∉ up.diesOut) ∧ devQuiesced up = false ∧ ∃ s : State, s.plinth.up = true ∧ s.plinth.away = none :=
  ⟨noKeys, by decide +kernel, fun _ h => absurd h List.not_mem_nil, by decide, fun _ h => absurd h List.not_mem_nil, by decide +kernel, { up with plinth := { up.plinth with up := true } }, rfl, rfl⟩

/-- A pseudo-channel has recorded one uncorrectable error. -/
def erring0 : State := { pool0 with pcErrs := [(767, { ue := 1 })] }

theorem witness_FaultEventsAct_threshold :
    ∃ (s : State) (m : W128) (c : Nat), mLevel m.toNat = 0 ∧ bit m.toNat 80 = false ∧ errPc s m.toNat = some c ∧ tripsPc s m.toNat = true ∧
      notPending s 3 (0x10 + c / 64) ∧ (retirePc s (c / 64) (c % 64)).isSome = true :=
  ⟨erring0, BitVec.ofNat 128 (mkMsg erring0 0x1B 63 0x31 0 0 (pcBase erring0 11 63)), 767, by decide +kernel, by decide +kernel, by decide +kernel,
    by decide +kernel, noKeys _ _, by decide +kernel⟩

/-- Core 5 in a power state, or every core of die 0. -/
def napping0 (p : PState) : State := { up with cores := (List.range 18).map fun k => (k, { power := p }), regs := [(Reg.ckDie 7, 0x5140578#64)], clkHot := [7], rails := true }

theorem witness_PowerAndClocks :
    (∃ s : State, s.pwrWarnN = true) ∧
    (∃ (s : State) (d : Die), s.pw.tdp = false ∧ s.pw.c24 = false ∧ fget s (Reg.ckDie d) 31 16 + 25 ≤ min 1400 (fget s (Reg.ckDie d) 15 0)) ∧
    (∃ (s : State) (d : Die), d.val ∈ s.clkHot ∧ 625 ≤ fget s (Reg.ckDie d) 31 16) ∧
    (∃ (s : State) (k : PCore) (n : Nat), (s.core k).power = .active ∧ (s.core k).item = none ∧ fget s Reg.pwIdle 15 0 ≤ n) ∧
    (∃ (s : State) (k : PCore) (us : Nat), (s.core k).power = .doze ∧ fget s Reg.pwIdle 31 16 ≤ us ∧ expecting s k = false) ∧
    (∃ (s : State) (d : Die) (us : Nat), ((List.range 18).all fun c => (s.core (18 * d.val + c)).power == .nap) = true ∧ fget s Reg.pwIdle 31 16 ≤ us ∧ d ∉ s.dieNap ∧ d ∉ s.diesOut) ∧
    ∃ s : State, s.rails = true :=
  ⟨⟨up, by decide +kernel⟩, ⟨napping0 .nap, 7, by decide +kernel⟩, ⟨napping0 .nap, 7, by decide +kernel⟩, ⟨napping0 .active, 5, 65535, by decide +kernel⟩,
    ⟨napping0 .doze, 5, 65535, by decide +kernel⟩, ⟨napping0 .nap, 0, 65535, by decide +kernel, by decide +kernel, List.not_mem_nil, List.not_mem_nil⟩, napping0 .nap, rfl⟩

theorem witness_ResetsAndStartUp :
    (∃ s : State, s.modPwrgd = true ∧ s.barUp = false ∧ s.halted = false) ∧ (∃ s : State, s.barUp = true ∧ s.halted = false ∧ memDone s = false ∧ s.portWait = []) ∧
    (∃ s : State, fget s Reg.glStatus 15 12 = 15 ∧ fbit s Reg.glStatus 30 = false ∧ s.plinth.svc = .startup ∧ devQuiesced s = false) ∧
    (∃ (s : State) (b : Bool), s.plinth.up = false ∧ selectSlot s.plinth = some b ∧ s.halted = false) ∧ (∃ s : State, s.pwrWarnN = true) ∧ ∃ us : Nat, 2000 < us :=
  ⟨⟨{ State.reset with modPwrgd := true }, rfl, rfl, rfl⟩, ⟨up, by decide +kernel⟩, ⟨{ up with regs := [(Reg.glStatus, 0xF000#64)] }, by decide +kernel⟩,
    ⟨State.reset, false, by decide +kernel⟩, ⟨up, by decide +kernel⟩, 2001, by decide⟩
/-! ### Witnesses: the Plinth -/

/-- The Plinth runs on journal slot 0 with a session of control; port 0 is up. -/
def plinth0 : State := { up with
  regs := [(Reg.glStatus, 0x8000#64), (Reg.fbPortstat 0, 0xCF000000#64)]
  plinth := { up.plinth with up := true, svc := .normal, jsel := some false, sessions := [(0, { role := .control })], anchors := [(0, [1#8])] } }

/-- A request of session 0 with a payload of a length. -/
def ec0 (len : Nat) : EcHdr := { sess := 0, ver := 1#8, mtype := 0#8, id := 7#32, len := BitVec.ofNat 32 len, rsvd := 0#24 }

/-- Every command of Ecneuz: its code, its payload's length, whether it asks for control and whether it is guaranteed. -/
def ecRows : List (Nat × Nat × Bool × Bool) := [
  (0x01, 0, false, true), (0x02, 32, false, true), (0x03, 0, false, true), (0x10, 6, false, true), (0x11, 4, false, true), (0x12, 3, false, false),
  (0x63, 2, false, true), (0x20, 1, true, true), (0x21, 0, true, true), (0x22, 0, true, true), (0x23, 0, true, true), (0x24, 0, true, true),
  (0x25, 0, true, false), (0x26, 3, true, false), (0x30, 1, true, false), (0x42, 1, true, false), (0x40, 9, true, false), (0x41, 2, true, false),
  (0x50, 68, true, false), (0x51, 2, true, false), (0x60, 3, true, false), (0x61, 2, true, false), (0x62, 2, true, false)]

/-- In one state each of them may be given; the further hypotheses of a command are met in that state or in the ones below. -/
theorem witness_PlinthCommands : ∀ r ∈ ecRows, ecReady plinth0 (ec0 r.2.1) { role := .control } r.1 r.2.1 r.2.2.1 r.2.2.2 := by decide +kernel

theorem witness_PlinthReports :
    clientOk plinth0 { port := 7734#16, tls13 := true, suiteOk := true, psk := false, anchor := some 0 } = true ∧
      ([0, 1, 2, 3].find? fun k => (Tab.find plinth0.plinth.sessions k).isNone) = some 1 ∧
      clientOk plinth0 { port := 7734#16, tls13 := true, suiteOk := true, psk := true, anchor := some 0 } = false ∧
      (0#16 : W16).toNat ≤ 4096 ∧ plinth0.plinth.logBase ≤ (0#32 : W32).toNat ∧ sealed plinth0 = false ∧ plinthOn plinth0 = true ∧
      Tab.find plinth0.plinth.anchors 1 = none ∧ (1#8 : Byte).toNat < 2 := by decide +kernel

/-- The same with a session that has an interval. -/
theorem witness_PlinthReports_telemetry :
    ∃ (s : State) (k : Fin 4) (x : Session), plinthOn s = true ∧ Tab.find s.plinth.sessions k = some x ∧ x.interval ≠ 0 :=
  ⟨{ plinth0 with plinth := { plinth0.plinth with sessions := [(0, { role := .observe, interval := 5 })] } }, 0, { role := .observe, interval := 5 }, by decide +kernel⟩

/-- An image procedure that runs, of a target. -/
def proc0 (kind res : Nat) : Proc := { num := 1, kind := kind, res := res, st := .running }

theorem witness_PlinthReports_procstat :
    ∃ (s : State) (n : W16) (p : Proc), s.plinth.procs.find? (fun p => p.num == n.toNat) = some p :=
  ⟨{ plinth0 with plinth := { plinth0.plinth with procs := [proc0 0 0] } }, 1#16, proc0 0 0, by decide +kernel⟩

theorem witness_PlinthControls :
    (∃ (i : Inst) (b : Byte), b.toNat = i.val) ∧ devQuiesced plinth0 = false ∧
    (∃ (c : Byte) (sc : W16) (k : EscKey), c.toNat < 16 ∧ latched0.esc.find? (keyEq c.toNat sc.toNat) = some k ∧ 3 ≤ k.level) ∧
    plinth0.plinth.svc = .normal ∧
    (∃ s : State, s.plinth.svc = .test) ∧ (∃ s : State, s.plinth.svc = .recovery ∧ deepPending s = false) ∧ ∃ s : State, s.plinth.svc = .recovery ∧ deepPending s = true :=
  ⟨⟨15, 15#8, by decide⟩, by decide +kernel, ⟨1#8, 7#16, { cls := 1, scope := 7, level := 3, unit := 0, die := 7, since := 0, waits := [] }, by decide +kernel⟩, rfl,
    ⟨{ plinth0 with plinth := { plinth0.plinth with svc := .test } }, rfl⟩, ⟨{ plinth0 with plinth := { plinth0.plinth with svc := .recovery } }, by decide +kernel⟩,
    { plinth0 with plinth := { plinth0.plinth with svc := .recovery }, regs := [(Reg.fcStatus, 0x4000000000000000#64)] }, by decide +kernel⟩

theorem witness_PlinthProcedures :
    plinth0.plinth.jsel = some false ∧ imageBusy plinth0 = false ∧
    (∃ (tg : Byte) (off : W32) (data : List Byte), data.length = 4 ∧ tg.toNat < 4 ∧ data.length ≤ 65528 ∧ off.toNat + data.length ≤ slotBytes tg.toNat) ∧
    (∃ a : MacsecSa, a.rail.toNat < 6 ∧ a.dir.toNat < 2 ∧ a.an.toNat < 4 ∧ a.active.toNat < 2) ∧
    (∃ m c : Byte, m.toNat < 12 ∧ c.toNat < 64 ∧ procBusy plinth0 1 (fun r => r / 64 == m.toNat) = false ∧ (∀ r ∈ plinth0.retired, r.pc ≠ m.toNat * 64 + c.toNat) ∧
      (retirePc plinth0 m.toNat c.toNat).isSome = true) ∧
    (∃ p l : Byte, p.toNat < 18 ∧ l.toNat < 4 ∧ procBusy plinth0 2 (· == p.toNat) = false ∧ portUp plinth0 p.toNat = true) ∧
    ∃ k : Byte, k.toNat < 144 ∧ procBusy plinth0 3 (fun r => r / 18 == k.toNat / 18) = false ∧ (∀ f ∈ plinth0.fenced, f.val ≠ k.toNat) ∧ spareLeft plinth0 k.toNat = true :=
  ⟨rfl, by decide +kernel, ⟨3#8, 0x1FFFFFC#32, [1#8, 2#8, 3#8, 4#8], by decide +kernel⟩,
    ⟨{ rail := 5#8, dir := 1#8, an := 3#8, active := 1#8, sci := 4#64, ssci := 0#32, salt := 0#96, pn := 0#64, sak := 9#256 }, by decide⟩,
    ⟨11#8, 63#8, by decide, by decide, by decide +kernel, fun _ h => absurd h List.not_mem_nil, by decide +kernel⟩, ⟨0#8, 3#8, by decide +kernel⟩,
    143#8, by decide, by decide +kernel, fun _ h => absurd h List.not_mem_nil, by decide +kernel⟩

theorem witness_PlinthProcedures_reboot :
    (∃ (s : State) (p : Proc), s.plinth.procs.find? (fun p => p.kind == 0 && p.res == 0 && p.st == .running) = some p ∧ s.plinth.away = none) ∧
    ∃ (s : State) (p : Proc), s.plinth.procs.find? (fun p => p.kind == 0 && p.res == 0 && p.st == .running) = some p ∧ s.plinth.away.isSome = true :=
  ⟨⟨{ plinth0 with plinth := { plinth0.plinth with procs := [proc0 0 0] } }, proc0 0 0, by decide +kernel⟩,
    { plinth0 with plinth := { plinth0.plinth with procs := [proc0 0 0], away := some 3 } }, proc0 0 0, by decide +kernel⟩

/-! An image that passes R369's checks, for any target: its fields, each with its width. -/

/-- The fields of a run of bytes. -/
def fieldBytes (l : List (Nat × Nat)) : List Byte := l.flatMap fun f => leBytes f.1 f.2

theorem length_fieldBytes (l : List (Nat × Nat)) : (fieldBytes l).length = (l.map (·.1)).sum := by
  induction l with
  | nil => rfl
  | cons f l ih => rw [fieldBytes, List.flatMap_cons, List.length_append, length_leBytes]; exact congrArg (f.1 + ·) ih

/-- A field reads as it was placed. -/
theorem num_field (pre : List (Nat × Nat)) (f : Nat × Nat) (post : List (Nat × Nat)) :
    Memory.num (Memory.write [] 0 (fieldBytes (pre ++ f :: post))) (pre.map (·.1)).sum f.1 = f.2 % 256 ^ f.1 := by
  have h := Memory.num_write_mid [] 0 (fieldBytes pre) (fieldBytes post) f.1 f.2 (pre.map (·.1)).sum (length_fieldBytes pre)
  have e : fieldBytes (pre ++ f :: post) = fieldBytes pre ++ (leBytes f.1 f.2 ++ fieldBytes post) := by
    simp [fieldBytes]
  rw [Nat.zero_add] at h
  rw [e]; exact h

/-- MAGIC; TARGET with its reserved bytes; VERSION; SVN; LENGTH; COMPAT; the digest of no bytes. -/
def firmFields (t : Nat) : List (Nat × Nat) := [(4, 0x474D4946), (1, t), (3, 0), (4, 0), (4, 0xFFFFFFFF), (4, 0),
  (4, (Config.freeWord (2 ^ 64 + t)).toNat % 2 ^ 32), (48, (Config.sha384 []).toNat)]

/-- The signature over those 72 bytes. -/
def firmSig (t : Nat) : BitVec 768 := Config.imageSignature (fieldBytes (firmFields t))

/-- The image in memory. -/
def firmMem (t : Nat) : Memory := Memory.write [] 0 (fieldBytes (firmFields t ++ [(96, (firmSig t).toNat)]))

/-- It stands in the standby slot of its target. -/
def staged0 (t : Nat) : State := { plinth0 with plinth := { plinth0.plinth with img := [(t * 2 + 1, { bytes := firmMem t, erased := false })] } }

theorem pow_256_48 : 256 ^ 48 = 2 ^ 384 := (Nat.pow_mul 2 8 48).symm
theorem pow_256_96 : 256 ^ 96 = 2 ^ 768 := (Nat.pow_mul 2 8 96).symm

theorem firmMem_fields (t : Nat) (ht : t < 4) :
    Memory.num (firmMem t) 0 4 = 0x474D4946 ∧ Memory.num (firmMem t) 4 1 = t ∧ Memory.num (firmMem t) 12 4 = 0xFFFFFFFF ∧ Memory.num (firmMem t) 16 4 = 0 ∧
      Memory.num (firmMem t) 20 4 = (Config.freeWord (2 ^ 64 + t)).toNat % 2 ^ 32 ∧ Memory.num (firmMem t) 24 48 = (Config.sha384 []).toNat ∧
      Memory.num (firmMem t) 72 96 = (firmSig t).toNat := by
  refine ⟨?_, ?_, ?_, ?_, ?_, ?_, ?_⟩
  · exact num_field [] (4, 0x474D4946) _
  · exact (num_field [(4, 0x474D4946)] (1, t) _).trans (Nat.mod_eq_of_lt (Nat.lt_of_lt_of_le ht (show 4 ≤ 256 ^ 1 by decide)))
  · exact num_field [(4, 0x474D4946), (1, t), (3, 0), (4, 0)] (4, 0xFFFFFFFF) _
  · exact num_field [(4, 0x474D4946), (1, t), (3, 0), (4, 0), (4, 0xFFFFFFFF)] (4, 0) _
  · exact (num_field [(4, 0x474D4946), (1, t), (3, 0), (4, 0), (4, 0xFFFFFFFF), (4, 0)] (4, (Config.freeWord (2 ^ 64 + t)).toNat % 2 ^ 32) _).trans
      (Nat.mod_eq_of_lt (Nat.mod_lt _ (by decide)))
  · exact (num_field [(4, 0x474D4946), (1, t), (3, 0), (4, 0), (4, 0xFFFFFFFF), (4, 0), (4, (Config.freeWord (2 ^ 64 + t)).toNat % 2 ^ 32)]
      (48, (Config.sha384 []).toNat) _).trans (Nat.mod_eq_of_lt (by rw [pow_256_48]; exact (Config.sha384 []).isLt))
  · exact (num_field (firmFields t) (96, (firmSig t).toNat) []).trans (Nat.mod_eq_of_lt (by rw [pow_256_96]; exact (firmSig t).isLt))

theorem staged0_ok (t : Nat) (ht : t < 4) : stagedOk (staged0 t) t = true := by
  have ea : activeSlot (staged0 t) t = 0 := rfl
  have ei : (staged0 t).plinth.img = [(t * 2 + 1, { bytes := firmMem t, erased := false })] := rfl
  have e0 : (imgAt (staged0 t) t (1 - activeSlot (staged0 t) t)).bytes = firmMem t := by
    rw [ea, imgAt, ei]; simp [Tab.get, Tab.find]
  have ec : runningCompat (staged0 t) t = (Config.freeWord (2 ^ 64 + t)).toNat % 2 ^ 32 := by
    have ex : imgAt (staged0 t) t 0 = {} := by rw [imgAt, ei]; simp [Tab.get, Tab.find]
    rw [runningCompat, ea, ex]; rfl
  have em : minSvn (staged0 t) t ≤ 0xFFFFFFFF := by
    have ev : (staged0 t).plinth.svnMin = [] := rfl
    have := (Config.fusedSvn t).isLt
    rw [minSvn, ev, Tab.get_nil]; omega
  obtain ⟨hm, ht1, hv, hl, hc, hd, hs⟩ := firmMem_fields t ht
  have hh : Memory.read (firmMem t) 0 72 = fieldBytes (firmFields t) := by
    have e : fieldBytes (firmFields t ++ [(96, (firmSig t).toNat)]) = fieldBytes (firmFields t) ++ leBytes 96 (firmSig t).toNat := by simp [fieldBytes]
    have h := Memory.read_write_left [] 0 (fieldBytes (firmFields t)) (leBytes 96 (firmSig t).toNat)
    rw [length_fieldBytes, ← e] at h
    exact h
  have hg : (Memory.get (firmMem t) 4).toNat = t := by
    have h : Memory.num (firmMem t) 4 1 = (Memory.get (firmMem t) 4).toNat + 256 * 0 := rfl
    omega
  have hr : Memory.read (firmMem t) 512 0 = [] := rfl
  have h512 : 512 + 0 ≤ slotBytes t := by unfold slotBytes; split <;> (try split) <;> omega
  have hs' : ofLe (Memory.read (firmMem t) 72 96) = (firmSig t).toNat := hs
  unfold stagedOk slotOk
  simp only [e0, hm, hl, hc, hv, hd, hh, ec, hg, hs', hr, BitVec.ofNat_toNat, BitVec.setWidth_eq, signedOk, firmSig, h512, em]
  simp

theorem witness_PlinthProcedures_image :
    ∀ t < 4, ∃ (s : State) (tg fl : Byte), ecReady s (ec0 2) { role := .control } 0x41 2 true false ∧ tg.toNat = t ∧ fl.toNat < 2 ∧ imageBusy s = false ∧ stagedOk s tg.toNat = true := by
  intro t ht
  have e : (BitVec.ofNat 8 t).toNat = t := by simp; omega
  exact ⟨staged0 t, BitVec.ofNat 8 t, 1#8, witness_PlinthCommands (0x41, 2, true, false) (by decide), e, by decide, rfl, by rw [e]; exact staged0_ok t ht⟩
/-! ### Witnesses: rules of the whole machine -/

theorem witness_StepRunsFront : ∃ (s : State) (c : Instr) (rest : List Instr), s.pending = c :: rest :=
  ⟨{ up with pending := [.pwrWarn, .undervoltage] }, .pwrWarn, [.undervoltage], rfl⟩

theorem witness_StepKeepsMemoryCanonical : memoryOk { up with dev := [(3, 0x80#8), (7, 1#8)] } ∧ ∃ t, step { up with dev := [(3, 0x80#8), (7, 1#8)], pending := [.flrPf] } = .next t :=
  ⟨by decide +kernel, _, rfl⟩

theorem witness_ResidueStaysInRange : ∃ (a q : Pair) (p : Fv) (o : Bool), accAdd a p = .ok q o :=
  have h : (match accAdd {} (.fin false 1 0) with | .ok _ _ => true | _ => false) = true := by decide +kernel
  match e : accAdd {} (.fin false 1 0) with
  | .ok q o => ⟨{}, q, .fin false 1 0, o, e⟩
  | .nan _ => by rw [e] at h; cases h

theorem witness_StochasticCastKeepsExact : ∃ h : W16, (dec16 h).isFinite = true := ⟨0x3C00#16, by decide +kernel⟩

theorem witness_GroupScaleDecodes : (∃ x : W16, (dec16 x).isFinite = true) ∧ ∃ x : W16, (dec16 x).isFinite = false := ⟨⟨0x3C00#16, by decide +kernel⟩, 0x7C00#16, by decide +kernel⟩

/-- A sealed device and a register of locked fields only. -/
def sealed0 : State := { up with regs := [(Reg.isSealctl, 0x80000001#64)] }

theorem witness_LockedFieldsHoldWhenSealed :
    sealed sealed0 = true ∧ ∃ (off : Nat) (r : RegRow × Nat), regRow off = some r ∧ (∀ f ∈ r.1.flds, f.acc = .lck) ∧ r.1.flds ≠ [] := by
  have h : ((regRow (Reg.scPcores0 3)).any fun r => r.1.flds.all (·.acc == .lck) && !r.1.flds.isEmpty) = true := by decide +kernel
  refine ⟨by decide +kernel, Reg.scPcores0 3, ?_⟩
  cases e : regRow (Reg.scPcores0 3) with
  | none => rw [e] at h; cases h
  | some r =>
    rw [e] at h
    simp at h
    exact ⟨r, rfl, fun f hf => h.1 f hf, fun hn => h.2 hn⟩

theorem witness_SealedModeEnds : ∃ (c : Instr) (s t : State), sealed s = true ∧ exec c s = .next t ∧ sealed t = false :=
  ⟨.flrPf, sealed0, deviceReset sealed0, by decide +kernel, rfl, by decide +kernel⟩

/-- The other way out: nothing is bound, and the tenant's UNSEAL ends sealed mode at once. -/
theorem witness_SealedModeEnds_unseal :
    ∃ (fn : Fn) (m : KeyMsg) (s t : State), sealed s = true ∧ exec (.unseal fn m) s = .next t ∧ sealed t = false ∧ sessionCert s fn m.sess = some s.sealCert := by
  have h : sealed (match exec (.unseal 1 (seal0 0#16)) (sealing0 0x80000000#64) with | .next t => t | _ => sealed0) = false := by decide +kernel
  exact ⟨1, seal0 0#16, sealing0 0x80000000#64, _, by decide +kernel, rfl, h, by decide +kernel⟩
/-! ### Results that the spec works out -/

/-- The state after a command. -/
def did (c : Instr) (s : State) : State := match exec c s with | .next t => t | _ => s

/-- A long tail of small products (02, worked example): s and t after the first, second and third addition of 2^-25 to 1. -/
theorem test_longTail :
    (([1, 2, 3].map fun n => (List.range n).foldl (fun (a : Produced Pair) _ => match a with
      | .ok x _ => accAdd x (.fin false 1 (-25))
      | y => y) (.ok { s := 0x3F800000#32 } false))) =
      [.ok { s := 0x3F800000#32, t := 8192#16 } false, .ok { s := 0x3F800000#32, t := 16384#16 } false, .ok { s := 0x3F800001#32, t := -8192#16 } false] := by decide +kernel

/-- The drain of the sum 1 + 2^-13 (the same example), to FP32 and to FP16. -/
theorem test_drainOfLongTail :
    (rne32 ({ s := 0x3F800400#32, t := 0#16 } : Pair).drain).1 = 0x3F800400#32 ∧ (rne16 ({ s := 0x3F800400#32, t := 0#16 } : Pair).drain).1 = 0x3C00#16 := by decide +kernel

/-- The stochastic cast of 1 + 2^-12 (R35's example): up below 16,384, down from there on. -/
theorem test_stochasticCast : (stochastic16 0x3F800800#32 16383#16).1 = 0x3C01#16 ∧ (stochastic16 0x3F800800#32 16384#16).1 = 0x3C00#16 := by decide +kernel

/-- One C4 element (03, worked example): entry 11 is 0.6875, block scale 0x85, group scale 0x3C02. -/
theorem test_codedElement : (expand (dec16 0x3980#16) (decBlockScale 0x85#8) (decGroupScale 0x3C02#16)).val = dec16 0x407A#16 := by decide +kernel

/-- The second case there: 122,880 expands to infinity and counts one overflow. -/
theorem test_codedOverflow :
    (let x := expand (dec16 0x3C00#16) (decBlockScale 0xF7#8) (decGroupScale 0x4000#16); x.val = .inf false ∧ x.o = 1 ∧ x.nan = none) := by decide +kernel

/-- Ten slots (08, worked example): the radix-8 tree gives +0. -/
theorem test_tenSlots : canonicalSlots (0x3F800000#32 :: List.replicate 7 0x33800000#32 ++ [0xBF800000#32, 0#32]) = 0#32 := by decide +kernel

/-- Addresses of R190's examples, with 0 GiB and with 16 GiB of every stack local: M9, and M2 in the pseudo-channel of stack unit 12,582,913. -/
theorem test_interleave :
    (pcOf { up with regs := [(Reg.mtSplit, 0#64)] } 0x12345000).1 = 9 ∧ pcOf { up with regs := [(Reg.mtSplit, 16#64)] } 0x9000005000 = (2, 48) := by decide +kernel

/-- Logical core 37 starts on P(2,5), and lies on P(2,16) once that core is promoted (00, R307). -/
theorem test_logicalCore :
    physOf up 37 = 41 ∧ logOf up 41 = some 37 ∧ physOf (did (.logic 41) up) 37 = 52 := by decide +kernel

/-- The routes of the corrupt shard's example (10): from 0x161 to 0x14B route 0 leaves on port 0 and route 1 on port 11, six hops. -/
theorem test_routes : torusPort 0x161 0x14B 0 = some 0 ∧ torusPort 0x161 0x14B 1 = some 11 ∧ hopCount 0x161 0x14B = 6 := by decide +kernel

/-- Three instructions of the AdamW program (07, worked example): OP, D, A, B, C and AUX. -/
theorem test_updateEncodings :
    ([0x0C400010, 0x20900800, 0x081C000C].map fun w => [insOp w, insD w, insA w, insB w, insC w, insAux w]) =
      [[3, 1, 0, 0, 0, 16], [8, 2, 4, 0, 2, 0], [2, 0, 7, 0, 0, 12]] := by decide +kernel

/-- Two core faults on one die (15, worked example): the second, outside the first's core, fences the die. -/
theorem test_twoCoreFaults :
    (let t := did (.logic 58) up
     let u := did (.logic 63) t
     t.fenced.contains 58 && u.diesOut.contains 3 && !mapped u 48 && !mapped u 63 && mapped u 47) = true := by decide +kernel

/-- A tenant ring of 256 entries and 512 completions, with 4 operations outstanding (12, worked example). -/
def ring37 : State := { up with rings := [(3 * 16384 + 37, { rcfg := 0x88480000#32, tail := 1024#32, head := 1020#32, written := 1020#32, next := 1024#32, outst := 4 })] }

/-- Ring 37 of instance 3 takes TAIL 1,029 and HEAD 1,020 from its VF; the PF's slot discards the doorbell. -/
theorem test_doorbell :
    ((did (.doorbell 4 0x128 8 0x000003FC00000405#64) ring37).ring 3 37).tail = 1029#32 ∧ ((did (.doorbell 4 0x128 8 0x000003FC00000405#64) ring37).ring 3 37).head = 1020#32 ∧
      ((did (.doorbell 0 0x60128 8 0x000003FC00000405#64) ring37).ring 3 37).tail = 1024#32 := by decide +kernel

/-- EXP 15 at CLEAN 1,999 of 2,000, after step 1,998; the closing reduction of step 1,999 has completed. -/
def scale15 (ovf : Bool) : State := { up with
  regs := [(Reg.lsCtl 0, 0x800007D0#64), (Reg.lsState 0, 0x000007CE3C0007CF#64)], ls := [(0, { closed := [(1999#32, ovf)] })] }

/-- The loss scale doubles at the 2,000th clean step and halves on an overflow (07, R141). -/
theorem test_lossScale :
    ctxExp (did (.lsDecide 0) (scale15 false)) 0 = 16 ∧ fget (did (.lsDecide 0) (scale15 false)) (Reg.lsState 0) 15 0 = 0 ∧ ctxExp (did (.lsDecide 0) (scale15 true)) 0 = 14 ∧
      (stepRec (did (.lsDecide 0) (scale15 true)) 0 1999#32).outcome = .suppressed := by decide +kernel

/-- A packet's CRC holds when it is built and fails once a bit changes (R221). -/
theorem test_crc : crcOk (record0 2 0 false) = true ∧ crcOk ((record0 2 0 false).set 5 1#8) = false := by decide +kernel
/-! ### Witnesses: routes over the rails -/

/-- A module of rack 0 with two rails up. -/
def rails0 : State := { link0 with regs := [(0x200100, 0x10#64), (0x201000, 0xF#64), (Reg.fbPortstat 13, 0x8F000000#64), (Reg.fbPortstat 16, 0x8F000000#64)] }

theorem witness_RailRoutes_rail :
    (∃ (s : State) (src dst i k : Nat), sameRack (modId s) dst = false ∧ i < 4 ∧ k < 6 ∧ 1 < k ∧ portUp s (12 + ((src + dst) % 6 + i + k) % 6) = true ∧
      ∀ j, j < k → portUp s (12 + ((src + dst) % 6 + i + j) % 6) = false) ∧
    ∃ (s : State) (dst i : Nat), sameRack (modId s) dst = false ∧ i < 4 ∧ ∀ k, k < 6 → portUp s (12 + k) = false :=
  ⟨⟨rails0, 0, 64, 1, 2, by decide +kernel⟩, State.reset, 64, 3, by decide +kernel⟩

/-- Module 64's rails from module 0: b = 4, so route 0 takes rail 4; route 1 finds rails 5 and 0 down and takes rail 1. -/
theorem test_rails : portFor rails0 0 64 0 = some 16 ∧ portFor rails0 0 64 1 = some 13 ∧ portFor rails0 0 64 3 = some 13 ∧ portFor State.reset 0 64 2 = none := by
  decide +kernel

theorem witness_RailRoutes_tiles :
    ∀ d ∈ [1, 3], ∀ b ∈ [true, false], ∃ (s : State) (x : Sent) (h : Shard), x.dkind = d ∧ heldTile s x = false ∧ x.shards[0]? = some h ∧ h.attempts < 3 ∧
      x.shards = [h, h] ∧ x.waits = false ∧ h.started = b ∧ x.retries s = true := by
  have h : ∀ d ∈ [1, 3], ∀ b ∈ [true, false], (fun (s : State) (x : Sent) (h : Shard) => x.dkind = d ∧ heldTile s x = false ∧ x.shards[0]? = some h ∧ h.attempts < 3 ∧
      x.shards = [h, h] ∧ x.waits = false ∧ h.started = b ∧ x.retries s = true) link0
      { sent1 d with shards := [{ started := b }, { started := b }], refused := some 1#64 } { started := b } := by decide +kernel
  intro d hd b hb
  exact ⟨_, _, _, h d hd b hb⟩

/-- A tile that a change held from the start leaves on route 0; one that had left on route 3 takes route 0 next, one on route 1 takes route 2. -/
theorem test_installRoutes :
    ∀ x ∈ [(true, 3, 0), (true, 1, 2), (false, 0, 0)],
      (restamp 0#64 { link0 with sent := [{ sent1 1 with shards := [{ started := x.1, route := x.2.1 }] }] } { sent1 1 with shards := [{ started := x.1, route := x.2.1 }] }).sent.map
        (fun y => y.shards.map (·.route)) = [[x.2.2]] := by decide +kernel

end Sys2Proof.Tests
end

section
/-! SUPPORT. The LCK registers (R9, R11): which offsets they stand at, and that a software write in sealed mode leaves their stored words. -/

namespace Sys2Proof.Proofs

open Sys2Proof.Machine

/-! ### The registers of the tables -/

/-- A row that a register lies in is one of its block's, and the register is the row's at its index. -/
theorem regRow_some {off : Nat} {x : RegRow × Nat} (h : regRow off = some x) :
    x.1 ∈ blockRows off ∧ off = x.1.base + x.1.stride * x.2 ∧ x.2 < x.1.count := by
  unfold regRow at h
  obtain ⟨r, hr, rfl⟩ := Option.map_eq_some_iff.mp h
  obtain ⟨hm, hp⟩ := List.mem_filter.mp (List.mem_of_head? hr)
  obtain ⟨hle, hmod, hlt⟩ := of_decide_eq_true hp
  refine ⟨hm, ?_, hlt⟩
  have := Nat.div_add_mod (off - r.base) r.stride
  dsimp only
  omega

/-- What holds of every row of the tables holds of the rows of any block. -/
theorem blockRows_all {p : RegRow → Bool}
    (h : [glRows, qmRows, scRows, fcRows, ksisRows, mtRows, adRows, lstnRows, fbRows, ceRows, ckpwRows, trRows, coRows].all (·.all p) = true)
    (off : Nat) : ∀ r ∈ blockRows off, p r = true := by
  simp only [List.all_cons, List.all_nil, Bool.and_true, Bool.and_eq_true, List.all_eq_true] at h
  obtain ⟨h0, h1, h2, h3, h4, h5, h6, h7, h8, h9, h10, h11, h12⟩ := h
  unfold blockRows
  split
  case h_13 => split_ifs <;> simp_all
  all_goals assumption

/-- A register with an LCK field. -/
def lckAt (off : Nat) : Bool := (regRow off).any fun x => x.1.flds.any fun f => f.acc == .lck

/-- A register whose fields are all LCK. -/
def onlyLckAt (off : Nat) : Bool := (regRow off).any fun x => x.1.flds.all fun f => f.acc == .lck

/-- The LCK registers that stand at index `i` of their rows, those that stand once with every index. -/
def lckRegs (i : Nat) : List Nat :=
  [Reg.qmAp i, Reg.scInstcfg i, Reg.scPcores0 i, Reg.scPcores1 i, Reg.scShare i, Reg.scPctl i, Reg.scJournal (i % 8), Reg.isXidx i, Reg.isXval i,
    Reg.mtQuota i, Reg.mtXfercap i, Reg.mtPquota i, Reg.mtScratch i, Reg.adHotcap, Reg.adQuota i, Reg.trCfg]

/-- What the tables say of a row with an LCK field: its other fields are read-only, it resets to a 64-bit word, and it names only
the registers of `lckRegs`. -/
def lckRowOk (r : RegRow) : Bool :=
  !(r.flds.any fun f => f.acc == .lck) ||
    ((r.flds.all fun f => f.acc == .lck || f.acc == .ro) &&
      decide (r.flds.foldl (fun w f => setBits w f.hi f.lo f.rst) 0 < 2 ^ 64) && r.base != 0x200400 &&
      (List.range r.count).all fun i => decide (i < 16) && (lckRegs i).contains (r.base + r.stride * i))

theorem blockRows_lckRowOk (off : Nat) : ∀ r ∈ blockRows off, lckRowOk r = true := blockRows_all (by decide +kernel) off

/-- The row of a register with an LCK field, and where the register stands. -/
theorem regRow_of_lckAt {off : Nat} (h : lckAt off = true) : ∃ x, regRow off = some x ∧
    (∀ f ∈ x.1.flds, f.acc = .lck ∨ f.acc = .ro) ∧
    x.1.flds.foldl (fun w f => setBits w f.hi f.lo f.rst) 0 < 2 ^ 64 ∧ x.1.base ≠ 0x200400 ∧ ∃ i < 16, off ∈ lckRegs i := by
  unfold lckAt at h
  cases hx : regRow off with
  | none => simp [hx] at h
  | some x =>
    have hl : (x.1.flds.any fun f => f.acc == .lck) = true := by simpa only [hx, Option.any_some] using h
    obtain ⟨hm, ho, hk⟩ := regRow_some hx
    have hok := blockRows_lckRowOk off _ hm
    simp only [lckRowOk, hl, Bool.not_true, Bool.false_or, Bool.and_eq_true, List.all_eq_true, Bool.or_eq_true, beq_iff_eq,
      bne_iff_ne, decide_eq_true_eq, List.mem_range, List.contains_eq_mem] at hok
    obtain ⟨⟨⟨hf, hw⟩, hb⟩, hi⟩ := hok
    exact ⟨x, rfl, hf, hw, hb, x.2, ho ▸ hi _ hk⟩

/-- An LCK register is one of `lckRegs`. -/
theorem mem_lckRegs {off : Nat} (h : lckAt off = true) : ∃ i < 16, off ∈ lckRegs i := by
  obtain ⟨x, hx, hf, hw, hb, hi⟩ := regRow_of_lckAt h
  exact hi

/-- A stored word of an LCK register has 64 bits. -/
theorem rd_lt_of_lckAt (s : State) {off : Nat} (h : lckAt off = true) : rd s off < 2 ^ 64 := by
  obtain ⟨⟨r, i⟩, hr, hf, hw, hb, hi⟩ := regRow_of_lckAt h
  unfold rd
  split
  case h_1 v hv => exact v.isLt
  case h_2 hv =>
    unfold resetWord
    split_ifs with hs
    · exact Config.serial.isLt
    · simp only [hr, if_neg hb, Nat.add_zero]
      exact hw

/-- Storing what a register holds changes no register. -/
theorem rd_setReg_rd {s : State} {off : Nat} (h : rd s off < 2 ^ 64) (o : Nat) : rd (s.setReg off (rd s off)) o = rd s o := by
  by_cases ho : o = off
  · rw [ho, rd_setReg_self, Nat.mod_eq_of_lt h]
  · exact rd_setReg_other s _ ho

/-- R11: in sealed mode a software write of an LCK register stores the word that it holds. -/
theorem regWritePlain_of_lckAt {s : State} {off : Nat} (v : Nat) (hs : sealed s = true) (h : lckAt off = true) :
    regWritePlain s off v = s.setReg off (rd s off) := by
  obtain ⟨⟨r, i⟩, hr, hf, hw, hb, hi⟩ := regRow_of_lckAt h
  have hfold : ∀ l : List Fld, (∀ f ∈ l, f.acc = .lck ∨ f.acc = .ro) → ∀ w,
      l.foldl (fun w f => fieldWrite (sealed s) (written s off) w v f) w = w := by
    intro l hl
    induction l with
    | nil => exact fun _ => rfl
    | cons f l ih =>
      intro w
      have hw : fieldWrite (sealed s) (written s off) w v f = w := by
        rcases hl f (by simp) with e | e <;> simp [fieldWrite, e, hs]
      rw [List.foldl_cons, hw]
      exact ih (fun g hg => hl g (by simp [hg])) w
  simp only [regWritePlain, hr, hfold _ hf]

/-! ### Writes that keep the LCK registers -/

/-- `t` holds in every LCK register the word that `s` does. -/
def LckKept (s t : State) : Prop := ∀ o, lckAt o = true → rd t o = rd s o

namespace LckKept

variable {s t u : State}

theorem refl (s : State) : LckKept s s := fun _ _ => rfl

theorem trans (h : LckKept s t) (h' : LckKept t u) : LckKept s u := fun o ho => (h' o ho).trans (h o ho)

/-- An update that stores no register. -/
theorem of_regs (h : LckKept s t) (e : u.regs = t.regs) : LckKept s u := fun o ho => by
  rw [← h o ho]; simp only [rd, e]

/-- A whole register without an LCK field is stored. -/
theorem setReg (h : LckKept s t) {off : Nat} (v : Nat) (ho : lckAt off = false) : LckKept s (t.setReg off v) := fun o hl => by
  have hne : o ≠ off := fun e => by simp [e, ho] at hl
  rw [rd_setReg_other t v hne, h o hl]

theorem fset (h : LckKept s t) {off : Nat} (hi lo v : Nat) (ho : lckAt off = false) : LckKept s (fset t off hi lo v) := h.setReg _ ho

theorem finc (h : LckKept s t) {off : Nat} (hi lo n : Nat) (ho : lckAt off = false) : LckKept s (finc t off hi lo n) := h.fset _ _ _ ho

/-- Every operation of a list keeps them. -/
theorem foldl {α : Type} {f : State → α → State} (h : LckKept s t) (l : List α)
    (hf : ∀ u, LckKept s u → ∀ a ∈ l, LckKept s (f u a)) : LckKept s (l.foldl f t) :=
  List.foldlRecOn l f h fun u hu a ha => hf u hu a ha

/-- R11: a software write of any register in sealed mode. -/
theorem regWritePlain (hs : sealed s = true) (off v : Nat) : LckKept s (regWritePlain s off v) := by
  by_cases h : lckAt off = true
  · rw [regWritePlain_of_lckAt v hs h]
    exact fun o _ => rd_setReg_rd (rd_lt_of_lckAt s h) o
  · unfold Machine.regWritePlain
    split
    · exact (refl s).setReg _ (by simpa using h)
    · exact refl s

end LckKept

end Sys2Proof.Proofs
end

section
/-! SUPPORT. The operations that store no register, said once each: the register file they leave is the one they found. -/

namespace Sys2Proof.Proofs

open Sys2Proof.Machine

theorem foldl_regs {α : Type} {f : State → α → State} (hf : ∀ t a, (f t a).regs = t.regs) (l : List α) (s : State) :
    (l.foldl f s).regs = s.regs := by
  induction l generalizing s with
  | nil => rfl
  | cons a l ih => rw [List.foldl_cons, ih, hf]

/-! ### Interrupts, notices and mailboxes -/

@[simp] theorem msix_regs (s : State) (fn vec : Nat) : (msix s fn vec).regs = s.regs := rfl

@[simp] theorem postNotice_regs (s : State) (i : Nat) : (postNotice s i).regs = s.regs := by
  unfold postNotice
  split
  · rfl
  · dsimp only
    split_ifs <;> rfl

@[simp] theorem notify_regs (s : State) (i kind arg : Nat) : (notify s i kind arg).regs = s.regs := postNotice_regs _ i

@[simp] theorem writeWord_regs (s : State) (tenant : Bool) (i slot w : Nat) (v : W64) : (writeWord s tenant i slot w v).regs = s.regs := by
  unfold writeWord
  split_ifs <;> rfl

@[simp] theorem mbPublish_regs (s : State) (tenant : Bool) (i : Nat) (mask : W16) : (mbPublish s tenant i mask).regs = s.regs := by
  simp only [mbPublish]
  split_ifs <;> rfl

@[simp] theorem mbRelease_regs (s : State) (tenant : Bool) (i : Nat) (mask : W16) : (mbRelease s tenant i mask).regs = s.regs := by
  simp only [mbRelease]
  split_ifs <;> simp

@[simp] theorem writeMbox_regs (s : State) (i o v : Nat) : (writeMbox s i o v).regs = s.regs := by
  unfold writeMbox
  split_ifs <;> simp

/-! ### Rings -/

@[simp] theorem writeRcfg_regs (s : State) (mgr : Bool) (i r v : Nat) : (writeRcfg s mgr i r v).regs = s.regs := by
  simp only [writeRcfg]
  split_ifs <;> rfl

@[simp] theorem writeRbase_regs (s : State) (mgr : Bool) (i r : Nat) (cq : Bool) (v : Nat) : (writeRbase s mgr i r cq v).regs = s.regs := by
  simp only [writeRbase]
  split_ifs <;> rfl

/-! ### Items, updates and steps -/

@[simp] theorem updLed_regs (s : State) (key : Nat) (f : Led → Led) : (s.updLed key f).regs = s.regs := by
  unfold State.updLed
  split <;> rfl

@[simp] theorem startRestore_regs (s : State) (p : Part) (n : W32) (t : Tag) : (startRestore s p n t).regs = s.regs := by
  unfold startRestore askBuddy
  split_ifs <;> rfl

@[simp] theorem stopUpdates_regs (s : State) (keep : UpdJob → Bool) : (stopUpdates s keep).regs = s.regs := by
  refine foldl_regs (fun t j => ?_) (s.jobs.filter fun j => !keep j) s
  split_ifs <;> simp

@[simp] theorem setKeyEnt_regs (s : State) (id : KeyId) (f : KeyEnt → KeyEnt) : (setKeyEnt s id f).regs = s.regs := by
  cases id <;> rfl

@[simp] theorem publishCopy_regs (s : State) (t : Nat) (g : W32) : (publishCopy s t g).regs = s.regs := by
  unfold publishCopy
  split_ifs <;> rfl

@[simp] theorem passSkipped_regs (fuel : Nat) (s : State) (p t : Nat) : (passSkipped fuel s p t).regs = s.regs := by
  induction fuel generalizing s with
  | zero => rfl
  | succ fuel ih =>
    simp only [passSkipped]
    split_ifs
    · rw [ih, publishCopy_regs]
    · rfl

@[simp] theorem publishScale_regs (s : State) (p : Nat) (n v : W32) : (publishScale s p n v).regs = s.regs := by
  simp only [publishScale]
  split_ifs <;> rfl

@[simp] theorem ovfTable_regs (s : State) (p layer n : Nat) (train : Bool) : (ovfTable s p layer n train).regs = s.regs := by
  unfold ovfTable
  split_ifs <;> rfl

@[simp] theorem addGsq_regs (s : State) (base : Bool) (who layer : Nat) (n v : W32) : (addGsq s base who layer n v).1.regs = s.regs := by
  simp only [addGsq, normSet]
  split_ifs <;> rfl

/-! ### Groups, faults, tables, images -/

@[simp] theorem barSend_regs (s : State) (g op : Nat) (digest : Option W64) : (barSend s g op digest).regs = s.regs := by
  refine foldl_regs (fun t f => ?_) _ s
  dsimp only
  split_ifs <;> rfl

@[simp] theorem moveContexts_regs (s : State) (g frm nxt : Nat) : (moveContexts s g frm nxt).regs = s.regs := rfl

@[simp] theorem instContexts_regs (s : State) (i frm nxt : Nat) (ok : Nat → Bool) : (instContexts s i frm nxt ok).regs = s.regs := rfl

@[simp] theorem pinAlert_regs (s : State) : (pinAlert s).regs = s.regs := by
  unfold pinAlert
  dsimp only
  split_ifs <;> rfl

@[simp] theorem ackKey_regs (s : State) (c sc : Nat) : (ackKey s c sc).1.regs = s.regs := by
  unfold ackKey
  split
  · split_ifs
    · exact pinAlert_regs _
    · rfl
  · rfl

@[simp] theorem clearTable_regs (s : State) (off : Nat) : (clearTable s off).regs = s.regs := by
  unfold clearTable
  dsimp only
  split_ifs <;> rfl

theorem placeRestored_regs {i p base : Nat} {im : Image} {s t : State} {kv : Nat × Led} (h : placeRestored i p base im s kv = some t) :
    t.regs = s.regs := by
  unfold placeRestored at h
  dsimp only at h
  split at h
  · cases h
  · split at h
    · rw [← Option.some.inj h]
    · split at h
      · cases h
      · rw [← Option.some.inj h]

theorem restoreImage_regs {s t : State} {i : Nat} {im : Image} (h : restoreImage s i im = some t) : t.regs = s.regs := by
  simp only [restoreImage] at h
  refine List.foldlRecOn (motive := fun o : Option State => ∀ u, o = some u → u.regs = s.regs) _ _ ?_ ?_ t h
  · intro u hu
    cases hu; rfl
  · intro o ho kv _ u hu
    obtain ⟨w, hw, hu⟩ := Option.bind_eq_some_iff.mp hu
    rw [placeRestored_regs hu, ho w hw]

end Sys2Proof.Proofs
end

section
/-! SUPPORT. Operations that the device performs on its own behalf keep the LCK registers: they write other registers only. -/

namespace Sys2Proof.Proofs

open Sys2Proof.Machine

/-! ### Registers without an LCK field -/

/-- Registers of a tenant, a partition, a group or a die that the device or a software write changes; none has an LCK field. -/
abbrev plainRegs (i : Nat) : List Nat :=
  [Reg.qmInststat i, Reg.qmDirtyctl i, Reg.isEpoch i, Reg.isRulectl i, Reg.isViol i, Reg.isRemove i, Reg.mtEvents i, Reg.adSwapstat i,
    Reg.lsState i, Reg.lsCounts i, Reg.lsOutcomes i, Reg.tnHold i, Reg.tnEma i, Reg.tnWarm i, Reg.tnNanstat i, Reg.fcLstat i,
    Reg.ceGrpcfg i, Reg.ceGrpstat i, Reg.fbGroup i, Reg.ckDie i]

theorem lckAt_plainRegs : ∀ i : Fin 16, ∀ off ∈ plainRegs i, lckAt off = false := by decide +kernel

theorem lckAt_plain {i off : Nat} (hi : i < 16) (h : off ∈ plainRegs i) : lckAt off = false :=
  lckAt_plainRegs ⟨i, hi⟩ off h

/-- TR_CFG is the last register with an LCK field. -/
theorem lckAt_beyond {off : Nat} (h : Reg.trCfg < off) : lckAt off = false := by
  refine Bool.eq_false_iff.mpr fun hl => ?_
  obtain ⟨i, hi, hm⟩ := mem_lckRegs hl
  simp only [lckRegs, List.mem_cons, List.not_mem_nil, or_false, Reg.qmAp, Reg.scInstcfg, Reg.scPcores0, Reg.scPcores1, Reg.scShare, Reg.scPctl,
    Reg.scJournal, Reg.isXidx, Reg.isXval, Reg.mtQuota, Reg.mtXfercap, Reg.mtPquota, Reg.mtScratch, Reg.adHotcap, Reg.adQuota, Reg.trCfg] at hm h
  omega

theorem lckAt_trPtr (d : Nat) : lckAt (Reg.trPtr d) = false := lckAt_beyond (by simp only [Reg.trCfg, Reg.trPtr]; omega)

theorem lckAt_fbPortctl : ∀ p : Port, lckAt (Reg.fbPortctl p) = false := by decide +kernel

theorem lckAt_fbPortstat : ∀ p : Port, lckAt (Reg.fbPortstat p) = false := by decide +kernel

/-- Registers without an LCK field that stand once. -/
abbrev singleRegs : List Nat := [Reg.glStatus, Reg.fcAck, Reg.fcStatus, Reg.fcSdc, Reg.isSealctl, Reg.mtPoolstat, Reg.pwLimit, Reg.trDump]

theorem lckAt_singleRegs : ∀ off ∈ singleRegs, lckAt off = false := by decide +kernel

theorem lckAt_single {off : Nat} (h : off ∈ singleRegs) : lckAt off = false := lckAt_singleRegs off h

theorem partOf_lt {s : State} {i p : Nat} (h : partOf s i = some p) : p < 16 := by
  unfold partOf at h
  split_ifs at h
  exact Option.some.inj h ▸ bits_lt _ 3 0

theorem partOf_getD_lt (s : State) (i : Nat) : (partOf s i).getD 0 < 16 := by
  cases h : partOf s i with
  | none => decide
  | some p => exact partOf_lt h

theorem ledPart_lt (s : State) (e : Led) : ledPart s e < 16 := partOf_getD_lt s _

namespace LckKept

variable {s t : State}

/-! ### Trace, items leaving their cores -/

theorem tracePut (h : LckKept s t) (src body typ : Nat) : LckKept s (tracePut t src body typ) := fun o ho => by
  rw [(tracePut_frame t src body typ).2.2 o fun d e => by simp [e, lckAt_trPtr] at ho, h o ho]

theorem leaveCore (h : LckKept s t) (key : Nat) (e : Led) (status : Nat) : LckKept s (leaveCore t key e status) := by
  unfold Machine.leaveCore traceItemEnd
  split
  · exact h
  · split_ifs
    · exact (h.tracePut _ _ _).of_regs (by rfl)
    · exact h.of_regs (by rfl)

theorem releaseItem (h : LckKept s t) (key status : Nat) : LckKept s (releaseItem t key status) := by
  unfold Machine.releaseItem
  split
  · exact h
  · exact (h.leaveCore _ _ _).of_regs (by rfl)

/-! ### Host writes and completions -/

/-- An interrupt, where one is asked for. -/
theorem interrupt (h : LckKept s t) (c : Prop) [Decidable c] (fn vec : Nat) : LckKept s (if c then msix t fn vec else t) := by
  split_ifs
  · exact h.of_regs (by rfl)
  · exact h

theorem countViol (h : LckKept s t) {i : Nat} (hi : i < 16) (cause addr : Nat) : LckKept s (countViol t i cause addr) := by
  have h1 : LckKept s (Machine.finc t (Reg.mtEvents i) 15 0 1) := h.finc _ _ _ (lckAt_plain hi (by simp))
  unfold Machine.countViol
  dsimp only
  split_ifs
  · exact h1.fset _ _ _ (lckAt_plain hi (by simp))
  · exact h1.setReg _ (lckAt_plain hi (by simp))

theorem dirtyBit (h : LckKept s t) {i : Nat} (hi : i < 16) (b : Nat) : LckKept s (dirtyBit t i b) := by
  unfold Machine.dirtyBit
  dsimp only
  split_ifs
  · exact h
  · exact h.fset _ _ _ (lckAt_plain hi (by simp))
  all_goals exact h.of_regs (by rfl)

theorem hostWrite (h : LckKept s t) {i : Nat} (hi : i < 16) (a : Nat) (bs : List Byte) : LckKept s (hostWrite t i a bs) :=
  LckKept.foldl (h.of_regs (by rfl)) _ fun _ hu b _ => hu.dirtyBit hi b

theorem writeCompl (h : LckKept s t) (c : Compl) : LckKept s (writeCompl t c) := by
  unfold Machine.writeCompl
  dsimp only
  split
  · exact h.of_regs (by rfl)
  · refine interrupt ?_ _ _ _
    split
    · exact hostWrite (h.of_regs (by rfl)) c.inst.isLt _ _
    · exact countViol (h.of_regs (by rfl)) c.inst.isLt _ _
    · exact h.of_regs (by rfl)

theorem completeOp (h : LckKept s t) (o : Op) (status value : Nat) : LckKept s (completeOp t o status value) :=
  writeCompl (h.of_regs (by rfl)) _

theorem completeItem (h : LckKept s t) (key : Nat) : LckKept s (completeItem t key) := by
  unfold Machine.completeItem
  split
  · exact h
  · rename_i e _
    dsimp only
    split_ifs
    · exact h
    · exact (writeCompl (h.of_regs (by rfl)) _).finc 63 32 1 (lckAt_plain (ledPart_lt t e) (by simp))
    · exact writeCompl (h.of_regs (by rfl)) _
    · exact h
    · exact writeCompl (h.of_regs (by rfl)) _

/-! ### Commits -/

theorem flagOverflow (h : LckKept s t) {p : Nat} (hp : p < 16) (n : W32) : LckKept s (flagOverflow t p n) := by
  unfold Machine.flagOverflow
  split_ifs <;> exact h.fset _ _ _ (lckAt_plain hp (by simp))

theorem countOvf (h : LckKept s t) (e : Led) (layer n : Nat) : LckKept s (countOvf t e layer n) := by
  have h1 := h.of_regs (ovfTable_regs t (ledPart t e) layer n (e.cls == 0))
  unfold Machine.countOvf
  dsimp only
  split_ifs
  · exact h
  · exact h1.flagOverflow (ledPart_lt t e) _
  · exact h1

theorem commitGsq (h : LckKept s t) (e : Led) (x : GsqPart) : LckKept s (commitGsq e t x) := by
  have h1 := h.of_regs (addGsq_regs t x.base x.who x.layer x.step x.v)
  unfold Machine.commitGsq
  dsimp only
  split_ifs
  · exact countOvf (h1.of_regs (by rfl)) _ _ _
  · exact h1.countOvf _ _ _

theorem commitItem (h : LckKept s t) (k : Nat) : LckKept s (commitItem t k) := by
  unfold Machine.commitItem
  split
  · exact h
  · rename_i key e _
    split
    · exact h
    · extract_lets hd s0 s1 s2 u s3
      have h0 : LckKept s s0 := h.foldl _ fun _ hu x _ => hu.commitGsq e x
      have h1 : LckKept s s1 := by
        dsimp only [s1]
        split_ifs
        · exact h0
        · exact h0.of_regs (by rfl)
      have hu : LckKept s u := (h1.leaveCore key e 0).of_regs (updLed_regs s2 key _)
      exact completeItem (hu.of_regs (by rfl)) key

theorem finishJob (h : LckKept s t) (j : UpdJob) : LckKept s (finishJob t j) := by
  unfold Machine.finishJob updItemCore
  split
  · exact h.of_regs (by rfl)
  · split
    · exact commitItem (h.of_regs (by rfl)) _
    · exact h.of_regs (by rfl)

end LckKept

end Sys2Proof.Proofs
end

section
/-! SUPPORT. Steps, resets, tenant removal and the control registers' actions keep the LCK registers. -/

namespace Sys2Proof.Proofs

open Sys2Proof.Machine

namespace LckKept

variable {s t : State}

/-! ### Steps of a loss-scale context -/

theorem skipStep (h : LckKept s t) (p : Nat) (n : W32) : LckKept s (skipStep t p n) := by
  unfold Machine.skipStep completeStep
  extract_lets s1 s2
  have h1 : LckKept s s1 := h.foldl _ fun _ hu j _ => hu.finishJob j
  have h2 : LckKept s s2 := h1.foldl _ fun u hu g _ => by
    split_ifs
    · exact hu.of_regs (publishCopy_regs _ _ _)
    · exact hu.of_regs (passSkipped_regs _ _ _ _)
  exact h2.foldl _ fun _ hu key _ => hu.completeItem key

theorem applyStep (h : LckKept s t) {p : Nat} (hp : p < 16) (n : W32) : LckKept s (applyStep t p n) := by
  unfold Machine.applyStep
  extract_lets r warm lema gema newL newG s1 s2 s3 mine s4
  have h1 : LckKept s s1 := h.setReg _ (lckAt_plain hp (by simp))
  have h2 : LckKept s s2 := (h1.fset _ _ _ (lckAt_plain hp (by simp))).finc _ _ _ (lckAt_plain hp (by simp))
  have h4 : LckKept s s4 := h2.of_regs (by rfl)
  exact h4.foldl _ fun _ hu g _ => hu.of_regs (publishCopy_regs _ _ _)

theorem nextHold (h : LckKept s t) {p : Nat} (hp : p < 16) : LckKept s (nextHold t p) := by
  unfold Machine.nextHold showHold
  split
  · exact h
  · exact h.setReg _ (lckAt_plain hp (by simp))

theorem writeHold (h : LckKept s t) {p : Nat} (hp : p < 16) (v : Nat) : LckKept s (writeHold t p v) := by
  unfold Machine.writeHold
  extract_lets n s1
  have h1 : LckKept s s1 := h.fset _ _ _ (lckAt_plain hp (by simp))
  have h2 : LckKept s (Machine.finc s1 (Reg.lsOutcomes p) 31 0 1) := h1.finc _ _ _ (lckAt_plain hp (by simp))
  split_ifs
  · exact h
  · exact nextHold (skipStep (h2.of_regs (by rfl)) _ _) hp
  · exact nextHold (skipStep (h1.of_regs (by rfl)) _ _) hp
  · exact (h1.applyStep hp n).nextHold hp
  · exact h

theorem setExp (h : LckKept s t) {p : Nat} (hp : p < 16) (x : Int) : LckKept s (setExp t p x) :=
  h.fset _ _ _ (lckAt_plain hp (by simp))

/-! ### Instance reset and the retirement of keys -/

theorem dropSwapsOf (h : LckKept s t) (i : Nat) : LckKept s (dropSwapsOf t i) := by
  unfold Machine.dropSwapsOf
  extract_lets mine tags s1 s2
  have h1 : LckKept s s1 := h.foldl _ fun _ hu g _ => hu.of_regs (by rfl)
  have h2 : LckKept s s2 := h1.of_regs (by rfl)
  exact h2.foldl _ fun _ hu p hp => hu.fset _ _ _ (lckAt_plain (List.mem_range.mp hp) (by simp))

theorem clearInstance (h : LckKept s t) (i : Nat) : LckKept s (clearInstance t i) := by
  unfold Machine.clearInstance
  extract_lets keys s1 s2 s3 s4 closed
  have h1 : LckKept s s1 := h.of_regs (by rfl)
  have h2 : LckKept s s2 := h1.foldl _ fun _ hu key _ => hu.releaseItem key 0
  have h3 : LckKept s s3 := h2.of_regs (stopUpdates_regs _ _)
  have h4 : LckKept s s4 := dropSwapsOf (h3.of_regs (by rfl)) i
  clear_value s4
  exact h4.of_regs (by rfl)

theorem instanceReset (h : LckKept s t) {i : Nat} (hi : i < 16) (cause : Nat) : LckKept s (instanceReset t i cause) := by
  have hq : lckAt (Reg.qmInststat i) = false := lckAt_plain hi (by simp)
  unfold Machine.instanceReset
  extract_lets s1 s2 s3 s4
  have h1 : LckKept s s1 := h.clearInstance i
  have h2 : LckKept s s2 := h1.of_regs (State.updInst_regs _ _ _)
  have h4 : LckKept s s4 := ((h2.fset _ _ _ hq).fset _ _ _ hq).fset _ _ _ hq
  exact h4.of_regs (notify_regs _ _ _ _)

theorem stopKey (h : LckKept s t) (key : Nat) : LckKept s (stopKey t key .keyRetired) := by
  unfold Machine.stopKey
  split
  · exact (h.releaseItem key _).writeCompl _
  · exact h

theorem endSwaps (h : LckKept s t) {p : Nat} (hp : p < 16) (g : Nat) {f : State → Op → State}
    (hf : ∀ u, LckKept s u → ∀ o, LckKept s (f u o)) : LckKept s (endSwaps t p g f) := by
  unfold Machine.endSwaps markSwaps
  extract_lets tag gone s1
  have h1 : LckKept s s1 := h.of_regs (by rfl)
  exact (h1.foldl gone fun u hu x _ => hf u hu x.2).fset _ _ _ (lckAt_plain hp (by simp))

theorem beginRetire (h : LckKept s t) (id : KeyId) : LckKept s (beginRetire t id) := by
  unfold Machine.beginRetire
  extract_lets k s1 s2 items s3 s4
  have h1 : LckKept s s1 := h.of_regs (setKeyEnt_regs _ _ _)
  have h2 : LckKept s s2 := by
    dsimp only [s2]
    clear_value s1
    split
    · split_ifs <;> exact h1.of_regs (by rfl)
    · exact h1
  have h3 : LckKept s s3 := h2.of_regs (by rfl)
  have h4 : LckKept s s4 := by
    dsimp only [s4]
    clear_value s3
    split
    · exact h3.endSwaps (partOf_getD_lt _ _) _ fun _ hu o => hu.completeOp o _ _
    · exact h3
  split_ifs
  · exact h
  · exact h4.foldl _ fun _ hu key _ => hu.stopKey key

/-! ### Tenant removal -/

theorem endSeal (h : LckKept s t) : LckKept s (endSeal t) := by
  have hs : lckAt Reg.isSealctl = false := lckAt_single (by simp)
  unfold Machine.endSeal
  dsimp only
  split_ifs
  · exact of_regs (((h.fset _ _ _ hs).fset _ _ _ hs).fset _ _ _ hs) (by rfl)
  · exact h

theorem removalStep (h : LckKept s t) {i : Nat} (hi : i < 16) : LckKept s (removalStep t i) := by
  have hr : lckAt (Reg.isRemove i) = false := lckAt_plain hi (by simp)
  unfold Machine.removalStep
  extract_lets ph ns mine u w s1
  have hu : LckKept s u := fset (h.of_regs (by rfl)) _ _ _ hr
  have h1 : LckKept s s1 := by
    dsimp only [s1]
    split_ifs
    · exact hu.of_regs (by rfl)
    · exact h
  clear_value s1
  split_ifs
  · exact endSeal ((fset (h1.of_regs (State.updInst_regs _ _ _)) _ _ _ hr).of_regs (notify_regs _ _ _ _))
  · exact h1

theorem beginRemoval (h : LckKept s t) (i : Inst) : LckKept s (beginRemoval t i) := by
  have hr : lckAt (Reg.isRemove i) = false := lckAt_plain i.isLt (by simp)
  have h1 : LckKept s (startRemoval t i) := by
    unfold startRemoval
    extract_lets s1
    have h1 : LckKept s s1 := ((h.instanceReset i.isLt 0).fset _ _ _ hr).beginRetire _
    split_ifs
    · exact h
    · exact h1.foldl _ fun _ hu g _ => hu.beginRetire _
  unfold Machine.beginRemoval
  split_ifs
  · exact h
  · exact h1.removalStep i.isLt

/-! ### Groups -/

theorem setGState (h : LckKept s t) {g : Nat} (hg : g < 16) (x : GState) : LckKept s (setGState t g x) :=
  fset (fset (h.of_regs (by rfl)) _ _ _ (lckAt_plain hg (by simp))) _ _ _ (lckAt_plain hg (by simp))

theorem barStart (h : LckKept s t) {g : Nat} (hg : g < 16) (op : Nat) (digest : Option W64) : LckKept s (barStart t g op digest) := by
  have h1 := h.of_regs (State.setGrp_regs t g { t.grp g with bar := { op := 0, group := fin 15 g, st := .active } })
  exact (h1.fset _ _ _ (lckAt_plain hg (by simp))).of_regs (barSend_regs _ _ _ _)

theorem startReset (h : LckKept s t) {g : Nat} (hg : g < 16) : LckKept s (startReset t g) := by
  have h1 : LckKept s (moveContexts (Machine.setGState t g .resetting) g 1 2) := (h.setGState hg _).of_regs (moveContexts_regs _ _ _ _)
  exact (h1.of_regs (State.setGrp_regs _ _ _)).barStart hg 6 none

/-! ### Instance control -/

theorem ruleChange (h : LckKept s t) {i : Nat} (hi : i < 16) : LckKept s (ruleChange t i) :=
  (h.fset _ _ _ (lckAt_plain hi (by simp))).fset _ _ _ (lckAt_plain hi (by simp))

theorem thaw (h : LckKept s t) {i : Nat} (hi : i < 16) : LckKept s (thaw t i) := by
  have hq : lckAt (Reg.qmInststat i) = false := lckAt_plain hi (by simp)
  unfold Machine.thaw
  extract_lets s1 s2
  have h1 : LckKept s s1 := (h.fset _ _ _ hq).fset _ _ _ hq
  split_ifs
  · exact h
  · exact h1.of_regs (notify_regs _ _ _ _)

theorem beginFreeze (h : LckKept s t) {i : Nat} (hi : i < 16) : LckKept s (beginFreeze t i) := by
  have hq : lckAt (Reg.qmInststat i) = false := lckAt_plain hi (by simp)
  unfold Machine.beginFreeze tryFreeze
  extract_lets s1
  have h1 : LckKept s s1 := h.of_regs (by rfl)
  split_ifs
  · exact h
  · exact h.of_regs (by rfl)
  · exact (h1.fset _ _ _ hq).of_regs (notify_regs _ _ _ _)

theorem beginSave (h : LckKept s t) {i : Nat} (hi : i < 16) : LckKept s (beginSave t i) := by
  have hq : lckAt (Reg.qmInststat i) = false := lckAt_plain hi (by simp)
  unfold Machine.beginSave
  split_ifs
  · exact h.fset _ _ _ hq
  · exact fset (h.of_regs (by rfl)) _ _ _ hq

theorem doRestore (h : LckKept s t) {i : Nat} (hi : i < 16) : LckKept s (doRestore t i) := by
  have hq : lckAt (Reg.qmInststat i) = false := lckAt_plain hi (by simp)
  have herr := h.fset 6 6 1 hq
  unfold Machine.doRestore
  dsimp only
  split
  · exact herr
  · split_ifs
    · exact herr
    · split
      case h_1 u hu => exact (ruleChange (h.of_regs (restoreImage_regs hu)) hi).fset _ _ _ hq
      case h_2 => exact herr

theorem resetWrite (h : LckKept s t) {i : Nat} (hi : i < 16) : LckKept s (resetWrite t i) := by
  unfold Machine.resetWrite
  split_ifs
  · exact h.fset _ _ _ (lckAt_plain hi (by simp))
  · exact h.instanceReset hi 0

theorem resumeInst (h : LckKept s t) {i : Nat} (hi : i < 16) : LckKept s (resumeInst t i) :=
  fset (h.of_regs (by rfl)) _ _ _ (lckAt_plain hi (by simp))

theorem writeInstctl (h : LckKept s t) {i : Nat} (hi : i < 16) (v : Nat) : LckKept s (writeInstctl t i v) := by
  have on : ∀ {u : State} (f : State → Nat → State) (b : Nat), (∀ u, LckKept s u → LckKept s (f u i)) → LckKept s u →
      LckKept s (if bit v b then f u i else u) := by
    intro u f b hf hu
    split_ifs
    · exact hf u hu
    · exact hu
  unfold Machine.writeInstctl
  exact on _ 6 (fun _ hu => hu.thaw hi) <| on _ 5 (fun _ hu => hu.doRestore hi) <| on _ 4 (fun _ hu => hu.beginSave hi) <|
    on _ 3 (fun _ hu => hu.beginFreeze hi) <| on _ 2 (fun _ hu => hu.resumeInst hi) <| on _ 1 (fun _ hu => hu.of_regs (by rfl)) <|
    on _ 0 (fun _ hu => hu.resetWrite hi) h

end LckKept

end Sys2Proof.Proofs
end

section
/-! SUPPORT. A register write by a function in sealed mode keeps the LCK registers. -/

namespace Sys2Proof.Proofs

open Sys2Proof.Machine

/-! ### Indexed registers, half writes -/

/-- The index that a register has in its family. -/
theorem idxOf_some {base stride n off i : Nat} (h : idxOf base stride n off = some i) : off = base + stride * i ∧ i < n := by
  unfold idxOf at h
  split_ifs at h with hc
  obtain ⟨hle, hmod, hlt⟩ := hc
  obtain rfl := Option.some.inj h
  have := Nat.div_add_mod (off - base) stride
  exact ⟨by omega, hlt⟩

/-- Sealed mode is a bit of the register file. -/
theorem sealed_of_regs {s t : State} (e : t.regs = s.regs) : sealed t = sealed s := by simp only [sealed, fbit, rd, e]

@[simp] theorem dropLow_regs (s : State) (fn off : Nat) : (s.dropLow fn off).regs = s.regs := by
  unfold State.dropLow
  split_ifs <;> rfl

namespace LckKept

variable {s t : State}

/-! ### Writes that act -/

theorem rearm (h : LckKept s t) {off : Nat} (ho : lckAt off = false) (v : Nat) : LckKept s (rearm t off v) := by
  unfold Machine.rearm
  split_ifs
  · exact (h.fset _ _ _ ho).fset _ _ _ ho
  · exact h.fset _ _ _ ho
  · exact h

theorem writeAck (h : LckKept s t) (v : Nat) : LckKept s (writeAck t v) := by
  have hack : lckAt Reg.fcAck = false := lckAt_single (by simp)
  unfold Machine.writeAck
  extract_lets s1
  have h1 : LckKept s s1 := (h.fset _ _ _ hack).fset _ _ _ hack
  have h2 : LckKept s (ackKey s1 (bits v 19 16) (bits v 15 0)).1 := h1.of_regs (ackKey_regs _ _ _)
  dsimp only
  split_ifs
  · exact h1
  · exact h2
  · exact h2.fset _ _ _ (lckAt_single (by simp))

theorem noteClip (h : LckKept s t) (u : State) : LckKept s (noteClip u t) := by
  unfold Machine.noteClip
  extract_lets ds w
  have hw : LckKept s w := h.of_regs (by rfl)
  split_ifs
  · exact h
  · exact hw.fset _ _ _ (lckAt_single (by simp))
  · exact hw

theorem portsDone (h : LckKept s t) : LckKept s (portsDone t) := by
  unfold Machine.portsDone
  split_ifs
  · exact h.fset _ _ _ (lckAt_single (by simp))
  · exact h

theorem writePortctl (h : LckKept s t) (p : Port) (v : Nat) : LckKept s (writePortctl t p v) := by
  have h1 := h.fset 31 31 1 (lckAt_fbPortctl p)
  unfold Machine.writePortctl
  dsimp only
  split_ifs
  · exact h.fset _ _ _ (lckAt_single (by simp))
  · exact h1
  · exact h1.of_regs (by rfl)
  · exact portsDone (of_regs ((h.fset 31 31 0 (lckAt_fbPortctl p)).fset 31 28 0 (lckAt_fbPortstat p)) (by rfl))

theorem startDump (h : LckKept s t) : LckKept s (startDump t) := by
  have hd : lckAt Reg.trDump = false := lckAt_single (by simp)
  unfold Machine.startDump
  split_ifs
  · exact h.fset _ _ _ hd
  · exact h
  · exact of_regs ((h.fset 11 11 0 hd).fset 10 10 1 hd) (by rfl)

/-! ### Writes that store the register by its access codes, and act -/

variable (hs : sealed s = true)
include hs

theorem requestReset {g : Nat} (hg : g < 16) (v : Nat) : LckKept s (requestReset s g v) := by
  unfold Machine.requestReset
  extract_lets s1
  have h1 : LckKept s s1 := (regWritePlain hs _ v).fset _ _ _ (lckAt_plain hg (by simp))
  split
  · exact h1.startReset hg
  · exact h1.of_regs (by rfl)
  · exact h1.of_regs (by rfl)
  · exact h1

theorem writeLsCtl {p : Nat} (hp : p < 16) (v : Nat) : LckKept s (writeLsCtl s p v) := by
  have hst : lckAt (Reg.lsState p) = false := lckAt_plain hp (by simp)
  unfold Machine.writeLsCtl
  extract_lets was s1 first s2 s3
  have h1 : LckKept s s1 := regWritePlain hs _ v
  have h3 : LckKept s s3 := ((h1.setExp hp _).fset _ _ _ hst).fset _ _ _ hst
  have h4 : LckKept s (s3.setReg (Reg.tnWarm p) 0) := h3.setReg _ (lckAt_plain hp (by simp))
  split_ifs
  · exact h4.of_regs (publishScale_regs _ _ _ _)
  · exact h1
  · exact (h1.setExp hp 0).fset _ _ _ hst

theorem writeDirtyctl {i : Nat} (hi : i < 16) (v : Nat) : LckKept s (writeDirtyctl s i v) := by
  have ho : lckAt (Reg.qmDirtyctl i) = false := lckAt_plain hi (by simp)
  unfold Machine.writeDirtyctl
  extract_lets off big turned s1 s2
  have h1 : LckKept s s1 := regWritePlain hs _ v
  have h2 : LckKept s s2 := by
    dsimp only [s2]
    split_ifs
    · exact h1.fset _ _ _ ho
    · exact h1
  split_ifs
  · exact (h2.fset _ _ _ ho).fset _ _ _ ho
  · exact h2

theorem writeAp {i : Nat} (hi : i < 16) (v : Nat) : LckKept s (writeAp s i v) := by
  unfold Machine.writeAp
  extract_lets s1
  have h1 : LckKept s s1 := regWritePlain hs _ v
  split_ifs
  · exact h1
  · exact h1.ruleChange hi

theorem writeQuota (off v : Nat) : LckKept s (writeQuota s off v) := by
  unfold Machine.writeQuota
  extract_lets s1
  split_ifs
  · exact (refl s).fset _ _ _ (lckAt_single (by simp))
  · exact regWritePlain hs off v

theorem claimTable (off v ext : Nat) : LckKept s (claimTable s off v ext) := by
  unfold Machine.claimTable
  extract_lets t a ns old s1 s2
  have h1 : LckKept s s1 := of_regs (regWritePlain hs off v) (by rfl)
  have h2 : LckKept s s2 := by
    dsimp only [s2]
    split_ifs
    · exact h1
    · exact h1.of_regs (clearTable_regs _ _)
  clear_value s2
  split_ifs
  · exact (refl s).fset _ _ _ (lckAt_single (by simp))
  · exact h2.of_regs (by rfl)

theorem writeBase (off v ext : Nat) : LckKept s (writeBase s off v ext) := by
  unfold Machine.writeBase
  split_ifs
  · exact refl s
  · exact (refl s).of_regs (by rfl)
  · exact claimTable hs off v ext

theorem writeRulectl {i : Nat} (hi : i < 16) (v : Nat) : LckKept s (writeRulectl s i v) := by
  unfold Machine.writeRulectl
  simp only [hs, Bool.or_true, if_true]
  split_ifs
  · exact (refl s).fset _ _ _ (lckAt_plain hi (by simp))
  · exact refl s

/-! ### Blocks -/

theorem writeQm (off v : Nat) : LckKept s (writeQm s off v) := by
  have h := refl s
  unfold Machine.writeQm
  dsimp only
  split_ifs
  · exact h.of_regs (writeMbox_regs _ _ _ _)
  · exact h.of_regs (writeRbase_regs _ _ _ _ _ _)
  · exact h.of_regs (writeRcfg_regs _ _ _ _ _)
  · exact h.of_regs (writeRbase_regs _ _ _ _ _ _)
  · split
    case h_1 i hi => exact h.writeInstctl (idxOf_some hi).2 v
    case h_2 i hi _ => exact writeDirtyctl hs (idxOf_some hi).2 v
    case h_3 i hi _ _ => exact writeAp hs (idxOf_some hi).2 v
    case h_4 => exact regWritePlain hs off v

theorem writeSc (off v : Nat) : LckKept s (writeSc s off v) := by
  unfold Machine.writeSc writeInstcfg writePcores
  split
  · simpa only [hs, if_true] using refl s
  · simpa only [hs, if_true] using refl s
  · simpa only [hs, if_true] using refl s
  · exact (regWritePlain hs off v).noteClip s

theorem writeKsis (off v : Nat) : LckKept s (writeKsis s off v) := by
  unfold Machine.writeKsis
  split
  case h_1 i hi => exact writeRulectl hs (idxOf_some hi).2 v
  case h_2 i hi _ => simpa only [writeXval, hs, if_true] using refl s
  case h_3 i hi _ _ =>
    split_ifs
    · exact (refl s).beginRemoval _
    · exact refl s
  case h_4 => exact regWritePlain hs off v

theorem writeLstn (off v : Nat) : LckKept s (writeLstn s off v) := by
  unfold Machine.writeLstn
  split
  case h_1 p hp => exact writeLsCtl hs (idxOf_some hp).2 v
  case h_2 p hp _ => exact (refl s).writeHold (idxOf_some hp).2 v
  case h_3 i hi _ _ =>
    obtain ⟨rfl, hlt⟩ := idxOf_some hi
    exact (refl s).rearm (lckAt_plain hlt (by simp [Reg.tnNanstat])) v
  case h_4 => exact regWritePlain hs off v

/-- R11: a whole write of a register by the PF. -/
theorem pfWrite (off v : Nat) : LckKept s (pfWrite s off v) := by
  have h := refl s
  have hp := regWritePlain hs off v
  unfold Machine.pfWrite
  split
  case h_1 ext _ => exact writeBase hs off v ext
  case h_2 =>
    split
    case h_1 => exact writeQm hs off v
    case h_2 => exact writeSc hs off v
    case h_3 =>
      split_ifs with h1 h2 h3
      · exact h.writeAck v
      · exact (h.fset _ _ _ (lckAt_single (off := Reg.fcSdc) (by simp))).fset _ _ _ (lckAt_single (off := Reg.fcSdc) (by simp))
      · obtain ⟨i, hi⟩ := Option.isSome_iff_exists.mp h3
        obtain ⟨rfl, hlt⟩ := idxOf_some hi
        exact h.rearm (lckAt_plain hlt (by simp [Reg.fcLstat])) v
      · exact hp
    case h_4 => exact writeKsis hs off v
    case h_5 =>
      split_ifs
      · exact writeQuota hs off v
      · exact hp.noteClip s
    case h_6 => exact hp.noteClip s
    case h_7 => exact writeLstn hs off v
    case h_8 =>
      split
      · exact h.writePortctl _ v
      · exact hp
    case h_9 =>
      split
      case h_1 g hg => exact requestReset hs (idxOf_some hg).2 v
      case h_2 => exact hp
    case h_10 =>
      split_ifs with h1 h2
      · exact h.setReg _ (lckAt_single (by simp))
      · obtain ⟨i, hi⟩ := Option.isSome_iff_exists.mp h2
        obtain ⟨rfl, hlt⟩ := idxOf_some hi
        exact h.fset _ _ _ (lckAt_plain (i := i) (by omega) (by simp [Reg.ckDie]))
      · exact hp
    case h_11 =>
      split_ifs
      · exact (regWritePlain hs Reg.trDump v).startDump
      · exact hp.noteClip s
    case h_12 => exact hp

omit hs in
/-- A whole write of a register in a VF window. -/
theorem vfWrite (h : LckKept s t) {i : Nat} (hi : i < 16) (off v : Nat) : LckKept s (vfWrite t i off v) := by
  unfold Machine.vfWrite
  dsimp only
  split_ifs
  · split
    · exact h.of_regs (writeRbase_regs _ _ _ _ _ _)
    · exact h.of_regs (writeRcfg_regs _ _ _ _ _)
    · exact h.of_regs (writeRbase_regs _ _ _ _ _ _)
    · exact h
  · exact h.rearm (lckAt_plain hi (by simp)) v
  · exact h.of_regs (writeWord_regs _ _ _ _ _ _)
  · exact h.of_regs (by simp)
  · exact h.of_regs (by rfl)
  · exact h

theorem writeWhole (fn : Fn) (off v : Nat) : LckKept s (writeWhole s fn off v) := by
  unfold Machine.writeWhole
  split_ifs with h
  · exact pfWrite hs off v
  · exact (refl s).vfWrite (by omega) off v

/-- A 64-bit write, which discards the function's pending low half first. -/
theorem writeWide (fn : Fn) (off v : Nat) : LckKept s (Machine.writeWhole (s.dropLow fn off) fn off v) :=
  trans (refl s |>.of_regs (dropLow_regs s fn off)) (writeWhole ((sealed_of_regs (dropLow_regs s fn off)).trans hs) fn off v)

/-- R11, R12: a BAR0 write at any offset and of any size, by any function. -/
theorem bar0Write (fn : Fn) (off size : Nat) (v : W64) : LckKept s (bar0Write s fn off size v) := by
  unfold Machine.bar0Write
  split
  · split
    · exact writeWide hs fn off _
    · exact refl s
  · split
    · split
      · exact writeWhole hs fn off _
      · split_ifs
        · exact refl s
        · exact (refl s).of_regs (by rfl)
      · split_ifs
        · exact writeWide hs fn (off - 4) _
        · exact refl s
    · exact refl s

end LckKept

end Sys2Proof.Proofs
end

section
/-! O58 (R11): in sealed mode a register write completes, leaves every LCK field, and at a register of LCK fields only has no side
effect. -/

namespace Sys2Proof.Proofs

open Sys2Proof.Machine

/-! ### Writes that have no effect on registers, memories and outputs -/

/-- `t` shows the registers, the memories and the outputs of `s`. -/
def Silent (s t : State) : Prop := (∀ o, rd t o = rd s o) ∧ sameMemory s t ∧ t.out = s.out

theorem Silent.refl (s : State) : Silent s s := ⟨fun _ => rfl, ⟨rfl, rfl⟩, rfl⟩

theorem regWritePlain_silent {s : State} {off : Nat} (v : Nat) (hs : sealed s = true) (h : lckAt off = true) :
    Silent s (regWritePlain s off v) := by
  rw [regWritePlain_of_lckAt v hs h]
  exact ⟨rd_setReg_rd (rd_lt_of_lckAt s h), ⟨rfl, rfl⟩, rfl⟩

/-- The tile cache's sections are read from registers. -/
theorem sections_congr {s t : State} (h : ∀ o, rd t o = rd s o) (d : Nat) : sections t d = sections s d := by
  have hon : onDie t = onDie s := by
    funext p d
    simp only [onDie, inPart, h]
  simp only [sections, hon, fixedSections, fget, h]

/-- Where no register reads otherwise, no section changed. -/
theorem noteClip_of_rd {s t : State} (h : ∀ o, rd t o = rd s o) : noteClip s t = t := by
  have hd : ((List.range 8).filter fun d => sections t d ≠ sections s d) = [] :=
    List.filter_eq_nil_iff.mpr fun d _ => by simp [sections_congr h]
  simp only [noteClip, hd, List.isEmpty_nil, if_true]

theorem noteClip_silent {s t : State} (h : Silent s t) : Silent s (noteClip s t) := by rwa [noteClip_of_rd h.1]

theorem writeQuota_silent {s : State} {off : Nat} (v : Nat) (hs : sealed s = true) (h : lckAt off = true) :
    Silent s (writeQuota s off v) := by
  have hp := regWritePlain_silent v hs h
  have hq : quotaSum (regWritePlain s off v) = quotaSum s := by simp only [quotaSum, fget, hp.1]
  simpa only [writeQuota, hq, lt_irrefl, false_and, if_false] using hp

theorem writeAp_silent {s : State} {i : Nat} (v : Nat) (hs : sealed s = true) (h : lckAt (Reg.qmAp i) = true) :
    Silent s (writeAp s i v) := by
  have hp := regWritePlain_silent v hs h
  simpa only [writeAp, hp.1, if_true] using hp

/-! ### Where a write of an LCK register goes -/

/-- A PF write at the offset reaches a plain store, QM_AP or a function that is locked in sealed mode. -/
def lckRoute (off : Nat) : Bool :=
  (tableExtent off).isNone && (pfWidth off).isSome &&
  match off / 0x100000 with
  | 1 => decide (0x100030 < off) && decide (off < 0x108000) && (idxOf 0x101000 0x40 16 off).isNone && (idxOf 0x101018 0x40 16 off).isNone
  | 2 | 5 | 6 => true
  | 4 => (idxOf 0x401008 0x40 16 off).isNone && (idxOf 0x401028 0x40 16 off).isNone
  | 11 => off != Reg.trDump
  | _ => false

theorem lckRoute_lckRegs : ∀ i : Fin 16, ∀ off ∈ lckRegs i, lckRoute off = true := by decide +kernel

theorem lckRoute_of_lckAt {off : Nat} (h : lckAt off = true) : lckRoute off = true := by
  obtain ⟨i, hi, hm⟩ := mem_lckRegs h
  exact lckRoute_lckRegs ⟨i, hi⟩ off hm

/-- R11: a whole write of an LCK register by the PF in sealed mode has no effect. -/
theorem pfWrite_silent {s : State} {off : Nat} (v : Nat) (hs : sealed s = true) (h : lckAt off = true) : Silent s (pfWrite s off v) := by
  have hp := regWritePlain_silent v hs h
  have hr := lckRoute_of_lckAt h
  simp only [lckRoute, Bool.and_eq_true, Option.isNone_iff_eq_none] at hr
  obtain ⟨⟨ht, hw⟩, hb⟩ := hr
  simp only [pfWrite, ht]
  split at hb
  case h_1 e =>
    simp only [Bool.and_eq_true, decide_eq_true_eq, Option.isNone_iff_eq_none] at hb
    obtain ⟨⟨⟨hlo, hhi⟩, hctl⟩, hdirty⟩ := hb
    simp only [e, writeQm, hctl, hdirty]
    rw [if_neg (by omega), if_neg (by omega), if_neg (by omega), if_neg (by omega)]
    split
    case h_1 e => cases e
    case h_2 e _ => cases e
    case h_3 i e _ _ =>
      obtain ⟨rfl, hlt⟩ := idxOf_some e
      exact writeAp_silent v hs h
    case h_4 => exact hp
  case h_2 e =>
    simp only [e, writeSc, writeInstcfg, writePcores, hs, if_true]
    split
    · exact .refl s
    · exact .refl s
    · exact .refl s
    · exact noteClip_silent hp
  case h_3 e =>
    simp only [e]
    split_ifs
    · exact writeQuota_silent v hs h
    · exact noteClip_silent hp
  case h_4 e =>
    simp only [e]
    exact noteClip_silent hp
  case h_5 e =>
    simp only [Bool.and_eq_true, Option.isNone_iff_eq_none] at hb
    simp only [e, writeKsis, hb.1, hb.2, writeXval, hs, if_true]
    split
    case h_1 e => cases e
    case h_2 => exact .refl s
    case h_3 e _ _ => cases e
    case h_4 => exact hp
  case h_6 e =>
    simp only [e]
    rw [if_neg (by simpa using hb)]
    exact noteClip_silent hp
  case h_7 => cases hb

/-- A register has a field. -/
theorem lckAt_of_onlyLckAt {off : Nat} (h : onlyLckAt off = true) : lckAt off = true := by
  unfold onlyLckAt at h
  unfold lckAt
  cases hx : regRow off with
  | none => simp [hx] at h
  | some x =>
    simp only [hx, Option.any_some] at h ⊢
    have hf : (!x.1.flds.isEmpty) = true :=
      blockRows_all (p := fun r => !r.flds.isEmpty) (by decide +kernel) off _ (regRow_some hx).1
    cases hl : x.1.flds with
    | nil => simp [hl] at hf
    | cons f l => simp_all

theorem locked_of_onlyLckAt {s : State} {fn : Fn} {off : Nat} (hs : sealed s = true) (hfn : fn.val = 0) (h : onlyLckAt off = true) :
    locked s fn off = true := by
  simpa only [locked, hs, hfn, BEq.rfl, Bool.true_and, onlyLckAt] using h

/-- R11, R12: a BAR0 write by the PF at a register of LCK fields only, in sealed mode. -/
theorem bar0Write_silent {s : State} {fn : Fn} {off : Nat} (hs : sealed s = true) (hfn : fn.val = 0) (h : onlyLckAt off = true)
    (size : Nat) (v : W64) : Silent s (bar0Write s fn off size v) := by
  have hl := lckAt_of_onlyLckAt h
  have hlock := locked_of_onlyLckAt hs hfn h
  have hdrop : s.dropLow fn off = s := by simp only [State.dropLow, hlock, if_true]
  have hwrite : ∀ w, Silent s (writeWhole s fn off w) := fun w => by
    simpa only [writeWhole, hfn, if_true] using pfWrite_silent w hs hl
  have hwidth : ∃ b, regWidth fn off = some b := by
    have hr := lckRoute_of_lckAt hl
    simp only [lckRoute, Bool.and_eq_true] at hr
    simpa only [regWidth, hfn, if_true] using Option.isSome_iff_exists.mp hr.1.2
  obtain ⟨b, hb⟩ := hwidth
  cases b with
  | true =>
    simp only [bar0Write, hb, hdrop, hlock, if_true]
    split
    · exact hwrite _
    · split <;> exact .refl s
  | false =>
    simp only [bar0Write, hb]
    split
    · exact .refl s
    · split
      · exact hwrite _
      · exact .refl s

/-- Settles O58: what a software write stores in sealed mode is the word that an LCK register holds, the device's own writes go to
other registers, and the writes of LCK registers that act are locked. -/
theorem lockedFieldsHoldWhenSealed : Obligations.LockedFieldsHoldWhenSealed := by
  unfold Obligations.LockedFieldsHoldWhenSealed
  intro s fn off size v hs
  refine ⟨if reachable s then bar0Write s fn off size v else s, rfl, fun o r f hr hf hacc => ?_, fun r hr hfn hacc => ?_⟩
  · have hl : lckAt o = true := by
      simp only [lckAt, hr, Option.any_some, List.any_eq_true, beq_iff_eq]
      exact ⟨f, hf, hacc⟩
    unfold fget
    split_ifs
    · rw [LckKept.bar0Write hs fn off size v o hl]
    · rfl
  · have hl : onlyLckAt off = true := by
      simpa only [onlyLckAt, hr, Option.any_some, List.all_eq_true, beq_iff_eq] using hacc
    split_ifs
    · exact bar0Write_silent hs hfn hl size v
    · exact Silent.refl s

end Sys2Proof.Proofs
end

section
/-! O56 and O57 (R48, R49): the values that block scales and group scales decode to. -/

namespace Sys2Proof.Proofs

open Sys2Proof.Machine

/-! ### Block scales (R48) -/

theorem decBlockScale_invalid {c : Byte} (h : bits c.toNat 7 3 = 31) : decBlockScale c = .nan := by
  simp only [decBlockScale, h, if_true]

theorem decBlockScale_subnormal {c : Byte} (h : bits c.toNat 7 3 = 0) :
    decBlockScale c = .fin false (bits c.toNat 2 0) (-17) := by
  simp [decBlockScale, h]

theorem decBlockScale_normal {c : Byte} (h31 : bits c.toNat 7 3 ≠ 31) (h0 : bits c.toNat 7 3 ≠ 0) :
    decBlockScale c = .fin false (8 + bits c.toNat 2 0) ((bits c.toNat 7 3 : Int) - 18) := by
  simp only [decBlockScale, if_neg h31, if_neg h0]

/-- The value of a valid block scale in units of 2^-17, the smallest that is not zero. -/
def blockScaleUnits (c : Byte) : Nat :=
  if bits c.toNat 7 3 = 0 then bits c.toNat 2 0 else (8 + bits c.toNat 2 0) * 2 ^ (bits c.toNat 7 3 - 1)

/-- A valid block scale decodes exactly to its number of units. -/
theorem decBlockScale_eq_units {c : Byte} (h31 : bits c.toNat 7 3 ≠ 31) :
    ∃ (m : Nat) (x : Int), decBlockScale c = .fin false m x ∧ -17 ≤ x ∧ blockScaleUnits c = m * 2 ^ (x + 17).toNat := by
  by_cases h0 : bits c.toNat 7 3 = 0
  · exact ⟨_, _, decBlockScale_subnormal h0, le_rfl, by simp [blockScaleUnits, h0]⟩
  · have hx : ((bits c.toNat 7 3 : Int) - 18 + 17).toNat = bits c.toNat 7 3 - 1 := by omega
    exact ⟨_, _, decBlockScale_normal h31 h0, by omega, by rw [blockScaleUnits, if_neg h0, hx]⟩

theorem blockScaleUnits_le {c : Byte} (h31 : bits c.toNat 7 3 ≠ 31) : blockScaleUnits c ≤ 61440 * 2 ^ 17 := by
  have he : bits c.toNat 7 3 < 32 := bits_lt _ 7 3
  have hf : bits c.toNat 2 0 < 8 := bits_lt _ 2 0
  unfold blockScaleUnits
  split
  · omega
  · calc (8 + bits c.toNat 2 0) * 2 ^ (bits c.toNat 7 3 - 1)
      _ ≤ 15 * 2 ^ 29 := Nat.mul_le_mul (by omega) (Nat.pow_le_pow_right (by decide) (by omega))
      _ = 61440 * 2 ^ 17 := by decide

/-- 0x00 is the only code of value zero. -/
theorem blockScaleUnits_eq_zero_iff {c : Byte} : blockScaleUnits c = 0 ↔ c = 0#8 := by
  refine ⟨fun h => ?_, fun h => h ▸ rfl⟩
  by_cases h0 : bits c.toNat 7 3 = 0
  · have hf : bits c.toNat 2 0 = 0 := by simpa only [blockScaleUnits, h0, if_true] using h
    simp only [bits] at h0 hf
    bv_omega
  · have hpos : 0 < (8 + bits c.toNat 2 0) * 2 ^ (bits c.toNat 7 3 - 1) := by positivity
    rw [blockScaleUnits, if_neg h0] at h
    omega

/-- Settles O56: the value is a whole number of units of 2^-17, bounded by the fields' widths; the named codes are evaluated. -/
theorem blockScaleDecodes : Obligations.BlockScaleDecodes := by
  unfold Obligations.BlockScaleDecodes
  refine fun c => ⟨decBlockScale_invalid, fun h31 => ?_⟩
  obtain ⟨m, x, hdec, hx, hv⟩ := decBlockScale_eq_units h31
  refine ⟨m, x, blockScaleUnits c, hdec, hx, hv, rfl, blockScaleUnits_le h31, fun hc => ?_,
    blockScaleUnits_eq_zero_iff.mpr, ?_, ?_, ?_⟩
  · exact Nat.one_le_iff_ne_zero.mpr (mt blockScaleUnits_eq_zero_iff.mp hc)
  all_goals
    rintro rfl
    decide

/-! ### Group scales (R49) -/

/-- A group scale is its FP16 value where that is finite; both infinities and every NaN are one NaN. -/
theorem decGroupScale_eq_ite (x : W16) : decGroupScale x = if (dec16 x).isFinite then dec16 x else .nan := by
  unfold decGroupScale
  cases dec16 x with
  | fin n m e => rfl
  | inf n => rfl
  | nan => rfl

/-- Settles O57, by the case that the FP16 value is finite and the case that it is not. -/
theorem groupScaleDecodes : Obligations.GroupScaleDecodes := by
  unfold Obligations.GroupScaleDecodes
  refine fun x => ⟨fun hfin => ?_, fun hinf => ?_⟩
  · rw [decGroupScale_eq_ite, if_pos hfin]
  · rw [decGroupScale_eq_ite, hinf, if_neg Bool.false_ne_true]

end Sys2Proof.Proofs
end

section
/-! O55 (R229): the rail that a packet for another rack takes, and the routes of a tile's first transmission and of its resends. -/

namespace Sys2Proof.Proofs

open Sys2Proof.Machine

/-! ### Rails (R229) -/

/-- The port of the rail `k` places after the one that route `i` uses. -/
def railAfter (src dst i k : Nat) : Nat := 12 + ((src + dst) % 6 + i + k) % 6

/-- A packet for another rack tries the six rails in their order, from the one of its route. -/
theorem portFor_otherRack {s : State} {dst : Nat} (h : sameRack (modId s) dst = false) (src i : Nat) :
    portFor s src dst i = ((List.range 6).find? (portUp s ∘ railAfter src dst i)).map (railAfter src dst i) := by
  rw [portFor, h, if_neg Bool.false_ne_true]
  exact List.find?_map

/-- A packet for another rack takes the first rail that is up. -/
theorem portFor_eq_railAfter {s : State} {src dst i k : Nat} (h : sameRack (modId s) dst = false) (hk : k < 6)
    (hup : portUp s (railAfter src dst i k) = true) (hdown : ∀ j, j < k → portUp s (railAfter src dst i j) = false) :
    portFor s src dst i = some (railAfter src dst i k) := by
  have hfirst : (List.range 6).find? (portUp s ∘ railAfter src dst i) = some k :=
    List.find?_range_eq_some.mpr ⟨hup, List.mem_range.mpr hk, fun j hj => by rw [Function.comp_apply, hdown j hj, Bool.not_false]⟩
  rw [portFor_otherRack h, hfirst, Option.map_some]

/-- A packet for another rack takes no port where all six rails are down. -/
theorem portFor_eq_none {s : State} {dst : Nat} (h : sameRack (modId s) dst = false) (hdown : ∀ k, k < 6 → portUp s (12 + k) = false)
    (src i : Nat) : portFor s src dst i = none := by
  have hnone : (List.range 6).find? (portUp s ∘ railAfter src dst i) = none :=
    List.find?_eq_none.mpr fun k _ => Bool.eq_false_iff.mp (hdown _ (Nat.mod_lt _ (by decide)))
  rw [portFor_otherRack h, hnone, Option.map_none]

/-! ### First transmission and resends (R229, R232, R238) -/

/-- A shard with the route of its next resend. -/
def onNextRoute (s : State) (h : Shard) : Shard := { h with route := (h.route + 1) % 4, last := s.time }

/-- A tile over the fabric as its first transmission retains it. -/
def transmittedTile (s : State) (x : Sent) : Sent :=
  { x with shards := List.replicate (ceilDiv x.msg.data.length 8192) { last := s.time }, time := s.time, waits := false, refused := none }

/-- A tile that its change does not hold leaves at once, every shard on route 0. -/
theorem transmit_unheld {s : State} {x : Sent} (hd : x.dkind = 1 ∨ x.dkind = 3) (hh : heldTile s x = false) :
    transmit s x = (List.range (ceilDiv x.msg.data.length 8192)).foldl (fun t sh => sendShard t (transmittedTile s x) sh 0 false)
      (setSent s (transmittedTile s x)) := by
  rw [transmit, if_pos hd, hh, if_neg Bool.false_ne_true]
  rfl

/-- A tile whose shard `i` has been sent again on its next route, as an attempt. -/
def attemptedTile (s : State) (x : Sent) (i : Nat) (h : Shard) : Sent :=
  { x with shards := x.shards.set i { attempts := h.attempts + 1, route := (h.route + 1) % 4, last := s.time } }

theorem attemptedTile_shard {x : Sent} {i : Nat} {h : Shard} (hi : x.shards[i]? = some h) (s : State) :
    (attemptedTile s x i h).shards[i]? = some { attempts := h.attempts + 1, route := (h.route + 1) % 4, last := s.time } := by
  obtain ⟨hlt, -⟩ := List.getElem?_eq_some_iff.mp hi
  exact List.getElem?_set_self hlt

/-- Until its third resend has left, a shard that is attempted leaves again on its next route. -/
theorem attemptShard_resends {s : State} {x : Sent} {i : Nat} {h : Shard} (hi : x.shards[i]? = some h) (hh : heldTile s x = false)
    (ha : h.attempts < 3) :
    attemptShard s x i =
      sendShard (finc (setSent s (attemptedTile s x i h)) Reg.fbRetry 63 32 1) (attemptedTile s x i h) i ((h.route + 1) % 4) true := by
  simp only [attemptShard, hi, hh, Bool.false_eq_true, if_false, if_neg ha.not_ge]
  rfl

/-- A refused tile as its resend retains it. -/
def retriedTile (s : State) (x : Sent) : Sent := { x with refused := none, shards := x.shards.map (onNextRoute s) }

/-- A tile over the fabric that was refused leaves again, every shard on its next route. -/
theorem resendTile_retries {s : State} {x : Sent} (hr : x.retries s = true) (hd : x.dkind = 1 ∨ x.dkind = 3) (hh : heldTile s x = false) :
    resendTile s x = (retriedTile s x).shards.zipIdx.foldl (fun t h => sendShard t (retriedTile s x) h.2 h.1.route true)
      (finc (setSent s (retriedTile s x)) Reg.fbRetry 63 32 x.shards.length) := by
  have hlen : (retriedTile s x).shards.length = x.shards.length := List.length_map _
  rw [← hlen, resendTile, hr, Bool.not_true, if_neg Bool.false_ne_true, if_pos hd, hh, if_neg Bool.false_ne_true]
  rfl

/-- A retained tile as the install of an epoch re-stamps it, where the change began at `began`. -/
def restampedTile (began : W64) (s : State) (x : Sent) : Sent :=
  { x with time := resumed s began x.time, shards := x.shards.map fun (h : Shard) =>
    { h with route := if h.started then (h.route + 1) % 4 else 0, last := s.time, started := true } }

/-- At the install of an epoch a tile that waits for no ACKPFX leaves at once, and RESENT is set
on the shards that had left before, which FB_RETRY counts. -/
theorem restamp_not_waiting {x : Sent} (hw : x.waits = false) (began : W64) (s : State) :
    restamp began s x = (x.shards.zip (restampedTile began s x).shards).zipIdx.foldl
      (fun t h => sendShard t (restampedTile began s x) h.2 h.1.2.route h.1.1.started)
      (finc (setSent s (restampedTile began s x)) Reg.fbRetry 63 32 (x.shards.filter (·.started)).length) := by
  rw [restamp, if_neg (Bool.eq_false_iff.mp hw)]
  rfl

/-- Settles O55: the rails by the search of the six in order, the routes by what each operation retains and sends. -/
theorem railRoutes : Obligations.RailRoutes := by
  unfold Obligations.RailRoutes
  refine ⟨fun s src dst i hr _ => ⟨fun k hk hup hdown => portFor_eq_railAfter hr hk hup hdown, fun hdown => portFor_eq_none hr hdown src i⟩,
    fun s x hd hh => transmit_unheld hd hh, fun s x i h hi hh ha => ?_, fun s x hr hd hh => ?_, fun s began x hw => ?_⟩
  · exact ⟨attemptedTile s x i h, attemptedTile_shard hi s, attemptShard_resends hi hh ha⟩
  · exact ⟨retriedTile s x, rfl, resendTile_retries hr hd hh⟩
  · exact ⟨restampedTile began s x, _, rfl, restamp_not_waiting hw began s⟩

end Sys2Proof.Proofs
end

section
/-! PROOFS. What every command but a reset keeps: both memories canonical, and what R329 reads of sealed mode. -/

namespace Sys2Proof.Proofs
open Sys2Proof.Machine

/-- A register that is neither IS_SEALCTL nor an IS_REMOVE. -/
def quietReg (off : Nat) : Bool := off != 0x400018 && (List.range 16).all fun i => off != 0x401028 + 0x40 * i

theorem quietReg_iff {off : Nat} : quietReg off = true ↔ off ≠ Reg.isSealctl ∧ ∀ i < 16, off ≠ Reg.isRemove i := by
  simp [quietReg, Reg.isSealctl, Reg.isRemove]

theorem quietReg_of_far {off : Nat} (h : off < 0x400018 ∨ 0x402000 ≤ off) : quietReg off = true := by
  rw [quietReg_iff]; unfold Reg.isSealctl Reg.isRemove; constructor <;> intros <;> omega

theorem quietReg_of_mod {off : Nat} (h : off % 64 ≠ 24 ∧ off % 64 ≠ 40) : quietReg off = true := by
  rw [quietReg_iff]; unfold Reg.isSealctl Reg.isRemove; constructor <;> intros <;> omega

@[simp] theorem quietReg_glStatus : quietReg Reg.glStatus = true :=
  quietReg_of_far (by unfold Reg.glStatus; omega)

@[simp] theorem quietReg_glTimes : quietReg Reg.glTimes = true :=
  quietReg_of_far (by unfold Reg.glTimes; omega)

@[simp] theorem quietReg_qmInststat (i : Nat) : quietReg (Reg.qmInststat i) = true :=
  quietReg_of_mod (by unfold Reg.qmInststat; omega)

@[simp] theorem quietReg_qmDirtyctl {i : Nat} (hi : i < 16) : quietReg (Reg.qmDirtyctl i) = true :=
  quietReg_of_far (by unfold Reg.qmDirtyctl; omega)

@[simp] theorem quietReg_scCtxstat : quietReg Reg.scCtxstat = true :=
  quietReg_of_far (by unfold Reg.scCtxstat; omega)

@[simp] theorem quietReg_scInstcfg {i : Nat} (hi : i < 16) : quietReg (Reg.scInstcfg i) = true :=
  quietReg_of_far (by unfold Reg.scInstcfg; omega)

@[simp] theorem quietReg_scRemap {i : Nat} (hi : i < 128) : quietReg (Reg.scRemap i) = true :=
  quietReg_of_far (by unfold Reg.scRemap; omega)

@[simp] theorem quietReg_scPcores0 (i : Nat) : quietReg (Reg.scPcores0 i) = true :=
  quietReg_of_mod (by unfold Reg.scPcores0; omega)

@[simp] theorem quietReg_scPcores1 (i : Nat) : quietReg (Reg.scPcores1 i) = true :=
  quietReg_of_mod (by unfold Reg.scPcores1; omega)

@[simp] theorem quietReg_scPstat (i : Nat) : quietReg (Reg.scPstat i) = true :=
  quietReg_of_mod (by unfold Reg.scPstat; omega)

@[simp] theorem quietReg_scAcctc {i c : Nat} (hi : i < 16) (hc : c < 4) : quietReg (Reg.scAcctc i c) = true :=
  quietReg_of_far (by unfold Reg.scAcctc; omega)

@[simp] theorem quietReg_scAcctb {i c : Nat} (hi : i < 16) (hc : c < 4) : quietReg (Reg.scAcctb i c) = true :=
  quietReg_of_far (by unfold Reg.scAcctb; omega)

@[simp] theorem quietReg_scLedgerStat (i : Nat) : quietReg (Reg.scLedgerStat i) = true :=
  quietReg_of_mod (by unfold Reg.scLedgerStat; omega)

@[simp] theorem quietReg_scDuptab (i : Nat) : quietReg (Reg.scDuptab i) = true :=
  quietReg_of_mod (by unfold Reg.scDuptab; omega)

@[simp] theorem quietReg_fcStatus : quietReg Reg.fcStatus = true :=
  quietReg_of_far (by unfold Reg.fcStatus; omega)

@[simp] theorem quietReg_fcAck : quietReg Reg.fcAck = true :=
  quietReg_of_far (by unfold Reg.fcAck; omega)

@[simp] theorem quietReg_fcSdc : quietReg Reg.fcSdc = true :=
  quietReg_of_far (by unfold Reg.fcSdc; omega)

@[simp] theorem quietReg_fcLatchlo (i : Nat) : quietReg (Reg.fcLatchlo i) = true :=
  quietReg_of_mod (by unfold Reg.fcLatchlo; omega)

@[simp] theorem quietReg_fcLatchhi {i : Nat} (hi : i < 16) : quietReg (Reg.fcLatchhi i) = true :=
  quietReg_of_far (by unfold Reg.fcLatchhi; omega)

@[simp] theorem quietReg_fcLstat (i : Nat) : quietReg (Reg.fcLstat i) = true :=
  quietReg_of_mod (by unfold Reg.fcLstat; omega)

@[simp] theorem quietReg_fcLoglo (i : Nat) : quietReg (Reg.fcLoglo i) = true :=
  quietReg_of_mod (by unfold Reg.fcLoglo; omega)

@[simp] theorem quietReg_fcLoghi {i : Nat} (hi : i < 4096) : quietReg (Reg.fcLoghi i) = true :=
  quietReg_of_far (by unfold Reg.fcLoghi; omega)

@[simp] theorem quietReg_ksStatus : quietReg Reg.ksStatus = true :=
  quietReg_of_mod (by unfold Reg.ksStatus; omega)

@[simp] theorem quietReg_ksJgen : quietReg Reg.ksJgen = true :=
  quietReg_of_mod (by unfold Reg.ksJgen; omega)

@[simp] theorem quietReg_isEpoch (i : Nat) : quietReg (Reg.isEpoch i) = true :=
  quietReg_of_mod (by unfold Reg.isEpoch; omega)

@[simp] theorem quietReg_isRulectl (i : Nat) : quietReg (Reg.isRulectl i) = true :=
  quietReg_of_mod (by unfold Reg.isRulectl; omega)

@[simp] theorem quietReg_isXidx (i : Nat) : quietReg (Reg.isXidx i) = true :=
  quietReg_of_mod (by unfold Reg.isXidx; omega)

@[simp] theorem quietReg_isViol (i : Nat) : quietReg (Reg.isViol i) = true :=
  quietReg_of_mod (by unfold Reg.isViol; omega)

@[simp] theorem quietReg_mtPoolstat : quietReg Reg.mtPoolstat = true :=
  quietReg_of_far (by unfold Reg.mtPoolstat; omega)

@[simp] theorem quietReg_mtXferstat : quietReg Reg.mtXferstat = true :=
  quietReg_of_far (by unfold Reg.mtXferstat; omega)

@[simp] theorem quietReg_mtPfviol : quietReg Reg.mtPfviol = true :=
  quietReg_of_far (by unfold Reg.mtPfviol; omega)

@[simp] theorem quietReg_mtEvents (i : Nat) : quietReg (Reg.mtEvents i) = true :=
  quietReg_of_far (by unfold Reg.mtEvents; omega)

@[simp] theorem quietReg_adBasefp (i : Nat) : quietReg (Reg.adBasefp i) = true :=
  quietReg_of_far (by unfold Reg.adBasefp; omega)

@[simp] theorem quietReg_adSwapstat (i : Nat) : quietReg (Reg.adSwapstat i) = true :=
  quietReg_of_far (by unfold Reg.adSwapstat; omega)

@[simp] theorem quietReg_adEvents (i : Nat) : quietReg (Reg.adEvents i) = true :=
  quietReg_of_far (by unfold Reg.adEvents; omega)

@[simp] theorem quietReg_lsState (i : Nat) : quietReg (Reg.lsState i) = true :=
  quietReg_of_far (by unfold Reg.lsState; omega)

@[simp] theorem quietReg_lsCounts (i : Nat) : quietReg (Reg.lsCounts i) = true :=
  quietReg_of_far (by unfold Reg.lsCounts; omega)

@[simp] theorem quietReg_tnEma (i : Nat) : quietReg (Reg.tnEma i) = true :=
  quietReg_of_far (by unfold Reg.tnEma; omega)

@[simp] theorem quietReg_tnLast (i : Nat) : quietReg (Reg.tnLast i) = true :=
  quietReg_of_far (by unfold Reg.tnLast; omega)

@[simp] theorem quietReg_tnHold (i : Nat) : quietReg (Reg.tnHold i) = true :=
  quietReg_of_far (by unfold Reg.tnHold; omega)

@[simp] theorem quietReg_tnNfcount (i : Nat) : quietReg (Reg.tnNfcount i) = true :=
  quietReg_of_far (by unfold Reg.tnNfcount; omega)

@[simp] theorem quietReg_tnEvents (i : Nat) : quietReg (Reg.tnEvents i) = true :=
  quietReg_of_far (by unfold Reg.tnEvents; omega)

@[simp] theorem quietReg_tnWarm (i : Nat) : quietReg (Reg.tnWarm i) = true :=
  quietReg_of_far (by unfold Reg.tnWarm; omega)

@[simp] theorem quietReg_lsOutcomes (i : Nat) : quietReg (Reg.lsOutcomes i) = true :=
  quietReg_of_far (by unfold Reg.lsOutcomes; omega)

@[simp] theorem quietReg_tnNanstat (i : Nat) : quietReg (Reg.tnNanstat i) = true :=
  quietReg_of_far (by unfold Reg.tnNanstat; omega)

@[simp] theorem quietReg_tnNanrec0 (i : Nat) : quietReg (Reg.tnNanrec0 i) = true :=
  quietReg_of_far (by unfold Reg.tnNanrec0; omega)

@[simp] theorem quietReg_tnNanrec1 (i : Nat) : quietReg (Reg.tnNanrec1 i) = true :=
  quietReg_of_far (by unfold Reg.tnNanrec1; omega)

@[simp] theorem quietReg_tnNanrec2 (i : Nat) : quietReg (Reg.tnNanrec2 i) = true :=
  quietReg_of_far (by unfold Reg.tnNanrec2; omega)

@[simp] theorem quietReg_tnNanrec3 (i : Nat) : quietReg (Reg.tnNanrec3 i) = true :=
  quietReg_of_far (by unfold Reg.tnNanrec3; omega)

@[simp] theorem quietReg_fbStat : quietReg Reg.fbStat = true :=
  quietReg_of_far (by unfold Reg.fbStat; omega)

@[simp] theorem quietReg_fbRetry : quietReg Reg.fbRetry = true :=
  quietReg_of_far (by unfold Reg.fbRetry; omega)

@[simp] theorem quietReg_fbPortctl (i : Nat) : quietReg (Reg.fbPortctl i) = true :=
  quietReg_of_far (by unfold Reg.fbPortctl; omega)

@[simp] theorem quietReg_fbPortstat (i : Nat) : quietReg (Reg.fbPortstat i) = true :=
  quietReg_of_far (by unfold Reg.fbPortstat; omega)

@[simp] theorem quietReg_fbPorterr (i : Nat) : quietReg (Reg.fbPorterr i) = true :=
  quietReg_of_far (by unfold Reg.fbPorterr; omega)

@[simp] theorem quietReg_fbGroup (i : Nat) : quietReg (Reg.fbGroup i) = true :=
  quietReg_of_far (by unfold Reg.fbGroup; omega)

@[simp] theorem quietReg_ceGrpcfg (i : Nat) : quietReg (Reg.ceGrpcfg i) = true :=
  quietReg_of_far (by unfold Reg.ceGrpcfg; omega)

@[simp] theorem quietReg_ceGrpstat (i : Nat) : quietReg (Reg.ceGrpstat i) = true :=
  quietReg_of_far (by unfold Reg.ceGrpstat; omega)

@[simp] theorem quietReg_ceGrpcoord (i : Nat) : quietReg (Reg.ceGrpcoord i) = true :=
  quietReg_of_far (by unfold Reg.ceGrpcoord; omega)

@[simp] theorem quietReg_ceStat (i : Nat) : quietReg (Reg.ceStat i) = true :=
  quietReg_of_far (by unfold Reg.ceStat; omega)

@[simp] theorem quietReg_pwLimit : quietReg Reg.pwLimit = true :=
  quietReg_of_far (by unfold Reg.pwLimit; omega)

@[simp] theorem quietReg_pwStat : quietReg Reg.pwStat = true :=
  quietReg_of_far (by unfold Reg.pwStat; omega)

@[simp] theorem quietReg_ckDie (i : Nat) : quietReg (Reg.ckDie i) = true :=
  quietReg_of_far (by unfold Reg.ckDie; omega)

@[simp] theorem quietReg_trDump : quietReg Reg.trDump = true :=
  quietReg_of_far (by unfold Reg.trDump; omega)

@[simp] theorem quietReg_trPtr (i : Nat) : quietReg (Reg.trPtr i) = true :=
  quietReg_of_far (by unfold Reg.trPtr; omega)

@[simp] theorem quietReg_coChkCount (i : Nat) : quietReg (Reg.coChkCount i) = true :=
  quietReg_of_far (by unfold Reg.coChkCount; omega)

@[simp] theorem quietReg_coKsteps (i : Nat) : quietReg (Reg.coKsteps i) = true :=
  quietReg_of_far (by unfold Reg.coKsteps; omega)

@[simp] theorem quietReg_coDupCount (i : Nat) : quietReg (Reg.coDupCount i) = true :=
  quietReg_of_far (by unfold Reg.coDupCount; omega)

/-- The fields of R329 read in `t` as in `s`: sealed mode, the bound instances, and the phase of every removal. -/
def SameSeal (s t : State) : Prop :=
  fget t Reg.isSealctl 31 31 = fget s Reg.isSealctl 31 31 ∧ fget t Reg.isSealctl 15 0 = fget s Reg.isSealctl 15 0 ∧
    ∀ i < 16, fget t (Reg.isRemove i) 29 28 = fget s (Reg.isRemove i) 29 28

/-- From `s` to `t` both memories stay canonical, and nothing that R329 reads changes. -/
structure Kept (s t : State) : Prop where
  mem : memoryOk s → memoryOk t
  seals : SameSeal s t
  unsealing : t.unsealing = s.unsealing

theorem SameSeal.setReg {s t : State} (h : SameSeal s t) {off : Nat} (v : Nat) (ho : quietReg off = true) : SameSeal s (t.setReg off v) := by
  obtain ⟨h1, h2⟩ := quietReg_iff.mp ho
  obtain ⟨ha, hb, hc⟩ := h
  refine ⟨?_, ?_, fun i hi => ?_⟩
  · rw [← ha]; simp only [fget, rd_setReg_other t v h1.symm]
  · rw [← hb]; simp only [fget, rd_setReg_other t v h1.symm]
  · rw [← hc i hi]; simp only [fget, rd_setReg_other t v (h2 i hi).symm]

variable {s t u : State}

theorem Kept.refl (s : State) : Kept s s := ⟨id, ⟨rfl, rfl, fun _ _ => rfl⟩, rfl⟩

theorem Kept.same (h : Kept s t) (hd : u.dev = t.dev) (hh : u.host = t.host) (hr : u.regs = t.regs)
    (hs : u.unsealing = t.unsealing) : Kept s u := by
  obtain ⟨hm, ⟨h1, h2, h3⟩, hu⟩ := h
  refine ⟨fun hk => ?_, ⟨?_, ?_, fun i hi => ?_⟩, hs.trans hu⟩
  · simpa only [memoryOk, hd, hh] using hm hk
  · simpa only [fget, rd, hr] using h1
  · simpa only [fget, rd, hr] using h2
  · simpa only [fget, rd, hr] using h3 i hi

/-- An update of other parts of the state: what stands in them is free. -/
theorem Kept.upd
    {a0 a1 a2 a3 a4 a5 a6 a7 a8 a9 a10 a11 a12 a13 a14 a15 a16 a17 a18 a19 a20 a21 a22 a23 a24 a25 a26 a27 a28 a29 a30 a31 a32 a33 a34 a35 a36 a37
    a38 a39 a40 a41 a42 a43 a44 a45 a46 a47 a48 a49 a50 a51 a52 a53 a54 a55 a56 a57 a58 a59 a60 a61 a62 a63 a64 a65 a66 a67 a68 a69 a70 a71 a72 a73
    a74 a75 a76 a77 a78 a79 a80 a81 a82 a83 a84 a85 a86 a87 a88 a89 a90 a91 a92}
    (h : Kept s t) :
    Kept s ⟨a0, a1, t.regs, a2, a3, a4, a5, a6, a7, a8, a9, a10, a11, a12, t.dev, t.host, a13, a14, a15, a16, a17, a18, a19, a20, a21, a22, a23,
      a24, a25, a26, a27, a28, a29, a30, a31, a32, a33, a34, a35, a36, a37, a38, a39, a40, a41, a42, a43, a44, a45, a46, a47, a48, a49, a50, a51,
      a52, a53, a54, a55, a56, a57, a58, t.unsealing, a59, a60, a61, a62, a63, a64, a65, a66, a67, a68, a69, a70, a71, a72, a73, a74, a75, a76,
      a77, a78, a79, a80, a81, a82, a83, a84, a85, a86, a87, a88, a89, a90, a91, a92⟩ := h.same rfl rfl rfl rfl

theorem Kept.ite {c : Prop} [Decidable c] {a b : State} (ha : Kept s a) (hb : Kept s b) : Kept s (if c then a else b) := by
  split <;> assumption

theorem Kept.foldl {α : Type} {f : State → α → State} {l : List α} (h : Kept s t)
    (hf : ∀ u, Kept s u → ∀ a ∈ l, Kept s (f u a)) : Kept s (l.foldl f t) :=
  List.foldlRecOn l f h fun u hu a ha => hf u hu a ha

theorem Kept.setReg (h : Kept s t) {off v : Nat} (ho : quietReg off = true) : Kept s (t.setReg off v) :=
  ⟨h.mem, h.seals.setReg v ho, h.unsealing⟩

theorem Kept.fset (h : Kept s t) {off hi lo v : Nat} (ho : quietReg off = true) : Kept s (fset t off hi lo v) := h.setReg ho

theorem Kept.finc (h : Kept s t) {off hi lo n : Nat} (ho : quietReg off = true) : Kept s (finc t off hi lo n) := h.fset ho

/-- A command answers a next state, and keeps what `Kept` says. -/
def Answers (s : State) (r : Res) : Prop := ∃ t, r = .next t ∧ Kept s t

theorem Answers.next (h : Kept s t) : Answers s (.next t) := ⟨t, rfl, h⟩

theorem Answers.ite {c : Prop} [Decidable c] {a b : Res} (ha : Answers s a) (hb : Answers s b) : Answers s (if c then a else b) := by
  split <;> assumption

/-- Where the run of a tile command leaves a state, it keeps what `Kept` says. -/
def RunKept (s : State) : TileRes → Prop
  | .done t _ => Kept s t
  | .hold _ => True
  | .stop t _ => Kept s t

theorem RunKept.done (h : Kept s t) {l : List Flight} : RunKept s (.done t l) := h

theorem RunKept.hold {w : Nat} : RunKept s (.hold w) := trivial

theorem RunKept.stop (h : Kept s t) {st : Stop} : RunKept s (.stop t st) := h

theorem RunKept.ite {c : Prop} [Decidable c] {a b : TileRes} (ha : RunKept s a) (hb : RunKept s b) : RunKept s (if c then a else b) := by
  split <;> assumption

/-- Where an allocation leaves a state, it keeps what `Kept` says. -/
def AllocKept (s : State) : Alloc → Prop
  | .refused => True
  | .waits t => Kept s t
  | .pages t _ => Kept s t

theorem AllocKept.of_waits {r : Alloc} (h : AllocKept s r) (hr : r = .waits t) : Kept s t := by
  subst hr; exact h

theorem AllocKept.of_pages {r : Alloc} {ns : List Nat} (h : AllocKept s r) (hr : r = .pages t ns) : Kept s t := by
  subst hr; exact h

/-- A software write leaves a field of which it may write no bit: the register's other fields lie above or below it. -/
theorem bits_fieldWrites (se wr : Bool) (v : Nat) {hi lo : Nat} (ho : lo ≤ hi + 1) :
    ∀ (l : List Fld) (w : Nat), (∀ f ∈ l, f.acc = .ro ∨ f.lo ≤ f.hi + 1 ∧ (f.hi < lo ∨ hi < f.lo)) →
      bits (l.foldl (fun w f => fieldWrite se wr w v f) w) hi lo = bits w hi lo
  | [], _, _ => rfl
  | f :: l, w, hl => by
    rw [List.foldl_cons, bits_fieldWrites se wr v ho l _ fun g hg => hl g (by simp [hg])]
    rcases hl f (by simp) with hr | ⟨h1, h2⟩
    · simp only [fieldWrite, hr]
    · have hs : ∀ x, bits (setBits w f.hi f.lo x) hi lo = bits w hi lo := fun x =>
        h2.elim (bits_setBits_above _ _ _ _ _ _ h1) (bits_setBits_below _ _ _ _ _ _ ho)
      obtain ⟨fh, fl, acc, rst⟩ := f
      cases acc <;> simp only [fieldWrite, apply_ite (bits · hi lo), hs, ite_self]

/-- The registers of R329 hold the fields that it reads apart from those that software writes. -/
theorem fget_regWritePlain {off hi lo : Nat} (hd : ∀ r, regRow off = some r → ∀ f ∈ r.1.flds, f.acc = .ro ∨ f.lo ≤ f.hi + 1 ∧ (f.hi < lo ∨ hi < f.lo))
    (hh : hi < 64) (ho : lo ≤ hi + 1) (v : Nat) : fget (Machine.regWritePlain t off v) off hi lo = fget t off hi lo := by
  unfold Machine.regWritePlain
  split
  · rename_i r i hr
    rw [fget_setReg_self _ _ _ hh ho, bits_fieldWrites _ _ _ ho _ _ (hd _ hr), fget]
  · rfl

/-- What the tables say of IS_SEALCTL and of every IS_REMOVE. -/
def sealRowOk (off hi lo : Nat) : Bool :=
  (regRow off).all fun r => r.1.flds.all fun f => f.acc == .ro || decide (f.lo ≤ f.hi + 1 ∧ (f.hi < lo ∨ hi < f.lo))

theorem sealRowOk_iff {off hi lo : Nat} (h : sealRowOk off hi lo = true) (r : RegRow × Nat) (hr : regRow off = some r) :
    ∀ f ∈ r.1.flds, f.acc = .ro ∨ f.lo ≤ f.hi + 1 ∧ (f.hi < lo ∨ hi < f.lo) := by
  simpa [sealRowOk, hr, List.all_eq_true] using h

theorem Kept.regWritePlain (h : Kept s t) {off v : Nat} : Kept s (Machine.regWritePlain t off v) := by
  by_cases hq : quietReg off = true
  · unfold Machine.regWritePlain
    split; exacts [h.setReg hq, h]
  · have hs : SameSeal t (Machine.regWritePlain t off v) := by
      have hf : ∀ o hi lo, sealRowOk o hi lo = true → hi < 64 → lo ≤ hi + 1 →
          fget (Machine.regWritePlain t off v) o hi lo = fget t o hi lo := by
        intro o hi lo hk hh ho
        by_cases he : o = off
        · subst he; exact fget_regWritePlain (sealRowOk_iff hk) hh ho v
        · unfold Machine.regWritePlain
          split
          · exact fget_setReg_other _ _ _ _ he
          · rfl
      refine ⟨hf _ _ _ (by decide +kernel) (by decide) (by decide), hf _ _ _ (by decide +kernel) (by decide) (by decide), fun i hi => ?_⟩
      have hr : ∀ i < 16, sealRowOk (Reg.isRemove i) 29 28 = true := by decide +kernel
      exact hf _ _ _ (hr i hi) (by decide) (by decide)
    have hm : (memoryOk t → memoryOk (Machine.regWritePlain t off v)) ∧ (Machine.regWritePlain t off v).unsealing = t.unsealing := by
      unfold Machine.regWritePlain
      split <;> exact ⟨id, rfl⟩
    obtain ⟨h1, h2, h3⟩ := h.seals
    obtain ⟨g1, g2, g3⟩ := hs
    exact ⟨fun hk => hm.1 (h.mem hk), ⟨g1.trans h1, g2.trans h2, fun i hi => (g3 i hi).trans (h3 i hi)⟩, hm.2.trans h.unsealing⟩

end Sys2Proof.Proofs

end

section
/-! PROOFS. What the operations on the state keep. -/

namespace Sys2Proof.Proofs
open Sys2Proof.Machine

variable {s t u : State}

theorem Kept.emit (h : Kept s t) {o : Out} : Kept s (t.emit o) := h.same rfl rfl rfl rfl

theorem Kept.drawKey (h : Kept s t) : Kept s t.drawKey.2 := h.same rfl rfl rfl rfl

theorem Kept.drawWord (h : Kept s t) : Kept s t.drawWord.2 := h.same rfl rfl rfl rfl

theorem Kept.setCore (h : Kept s t) {k : Nat} {c : Core} : Kept s (t.setCore k c) := h.same rfl rfl rfl rfl

theorem Kept.updCore (h : Kept s t) {k : Nat} {f : Core → Core} : Kept s (t.updCore k f) :=
  h.setCore

theorem Kept.updInst (h : Kept s t) {i : Nat} {f : InstX → InstX} : Kept s (t.updInst i f) := h.same rfl rfl rfl rfl

theorem Kept.updPart (h : Kept s t) {p : Nat} {f : PartX → PartX} : Kept s (t.updPart p f) := h.same rfl rfl rfl rfl

theorem Kept.setDesc (h : Kept s t) {t' : Nat} {d : Desc} : Kept s (t.setDesc t' d) := h.same rfl rfl rfl rfl

theorem Kept.updDesc (h : Kept s t) {t' : Nat} {f : Desc → Desc} : Kept s (t.updDesc t' f) :=
  h.setDesc

theorem Kept.updRing (h : Kept s t) {i r : Nat} {f : Ring → Ring} : Kept s (t.updRing i r f) := h.same rfl rfl rfl rfl

theorem Kept.setPage (h : Kept s t) {n : Nat} {p : Page} : Kept s (t.setPage n p) := h.same rfl rfl rfl rfl

theorem Kept.setPeer (h : Kept s t) {c : Nat} {p : Peer} : Kept s (t.setPeer c p) := h.same rfl rfl rfl rfl

theorem Kept.setStream (h : Kept s t) {h' : Nat} {x : Stream} : Kept s (t.setStream h' x) := h.same rfl rfl rfl rfl

theorem Kept.setGrp (h : Kept s t) {g : Nat} {x : Grp} : Kept s (t.setGrp g x) := h.same rfl rfl rfl rfl

theorem Kept.setLsc (h : Kept s t) {p : Nat} {x : LsCtx} : Kept s (t.setLsc p x) := h.same rfl rfl rfl rfl

theorem Kept.msix (h : Kept s t) {fn vec : Nat} : Kept s (Machine.msix t fn vec) :=
  h.emit

theorem Kept.queueNotice (h : Kept s t) {i kind arg : Nat} : Kept s (Machine.queueNotice t i kind arg) :=
  h.updInst

theorem Kept.postNotice (h : Kept s t) {i : Nat} : Kept s (Machine.postNotice t i) := by
  unfold Machine.postNotice
  dsimp only; split; exacts [h, .ite h h.updInst.upd.msix]

theorem Kept.notify (h : Kept s t) {i kind arg : Nat} : Kept s (Machine.notify t i kind arg) :=
  h.queueNotice.postNotice

theorem Kept.tracePut (h : Kept s t) {src body typ : Nat} : Kept s (Machine.tracePut t src body typ) :=
  .ite h (.ite (h.upd.finc (by simp)) (.ite h.upd (.ite (h.upd.finc (by simp)) h.upd)))

theorem Kept.traceSync (h : Kept s t) {src : Nat} : Kept s (Machine.traceSync t src) :=
  h.tracePut

theorem Kept.tracePstate (h : Kept s t) {src old new scope : Nat} : Kept s (Machine.tracePstate t src old new scope) :=
  h.tracePut

theorem Kept.bufAppend (h : Kept s t) {d : Nat} {pks : List W128} : Kept s (Machine.bufAppend t d pks) :=
  .ite (h.finc (by simp)) (.ite (.ite ((h.upd.fset (by simp)).fset (by simp)) (h.upd.fset (by simp))) ((h.upd.fset (by simp)).finc (by simp)))

theorem Kept.drainFifo (h : Kept s t) {src : Nat} : Kept s (Machine.drainFifo t src) := by
  unfold Machine.drainFifo
  dsimp only; split; exacts [h, h.upd.bufAppend]

theorem Kept.assignPages (h : Kept s t) {ns : List Nat} {kind : Kind} {i p : Nat} {tag : Tag} :
    Kept s (Machine.assignPages t ns kind i p tag) := h.same rfl rfl rfl rfl

theorem Kept.zeroingPages (h : Kept s t) {ns : List Nat} : Kept s (Machine.zeroingPages t ns) := h.same rfl rfl rfl rfl

theorem Kept.countViol (h : Kept s t) {i cause addr : Nat} : Kept s (Machine.countViol t i cause addr) :=
  .ite ((h.finc (by simp)).fset (by simp)) ((h.finc (by simp)).setReg (by simp))

/-- Memories that stay canonical. -/
theorem Kept.writes (h : Kept s t) (hr : u.regs = t.regs) (hs : u.unsealing = t.unsealing) (hm : memoryOk t → memoryOk u) :
    Kept s u := by
  obtain ⟨hm', ⟨h1, h2, h3⟩, hu⟩ := h
  refine ⟨fun hk => hm (hm' hk), ⟨?_, ?_, fun i hi => ?_⟩, hs.trans hu⟩
  · simpa only [fget, rd, hr] using h1
  · simpa only [fget, rd, hr] using h2
  · simpa only [fget, rd, hr] using h3 i hi

theorem Kept.dirtyBit (h : Kept s t) {i b : Nat} (hi : i < 16) : Kept s (Machine.dirtyBit t i b) :=
  .ite h (.ite (h.fset (quietReg_qmDirtyctl hi)) (h.writes rfl rfl fun hm => ⟨hm.1, Memory.wf_write _ _ hm.2⟩))

theorem Kept.hostWrite (h : Kept s t) {i a : Nat} {bs : List Byte} (hi : i < 16) : Kept s (Machine.hostWrite t i a bs) := by
  exact .foldl (h.writes rfl rfl fun hm => ⟨hm.1,
    List.foldlRecOn (motive := fun m => Memory.wf m = true) _ _ hm.2 fun _ h _ _ => Memory.wf_write _ _ h⟩) fun _ hu _ _ => hu.dirtyBit hi

theorem Kept.devWrite (h : Kept s t) {a : Nat} {bs : List Byte} : Kept s (Machine.devWrite t a bs) :=
  h.writes rfl rfl fun hm => ⟨Memory.wf_write _ _ hm.1, hm.2⟩

theorem Kept.writeCompl (h : Kept s t) {c : Compl} : Kept s (Machine.writeCompl t c) := by
  refine .ite h.updRing (.ite (.msix ?_) ?_)
  · split
    · exact (h.updRing.updRing.hostWrite (Fin.isLt _))
    · exact h.updRing.updRing.countViol
    · exact h.updRing.updRing
  · split
    · exact (h.updRing.updRing.hostWrite (Fin.isLt _))
    · exact h.updRing.updRing.countViol
    · exact h.updRing.updRing

theorem Kept.ruleChange (h : Kept s t) {i : Nat} : Kept s (Machine.ruleChange t i) :=
  (h.fset (by simp)).fset (by simp)

theorem Kept.deferCompl (h : Kept s t) {c : Compl} : Kept s (Machine.deferCompl t c) :=
  h.updInst

theorem Answers.hostCmd (h : Kept s t) (hu : Kept s u) : Answers s (Machine.hostCmd t u) := .next (.ite hu h)

theorem Kept.dropLow (h : Kept s t) {fn off : Nat} : Kept s (t.dropLow fn off) :=
  .ite h h.upd

theorem Answers.hostWide (h : Kept s t) {fn off : Nat} {f : State → State} (hf : ∀ u, Kept s u → Kept s (f u)) :
    Answers s (Machine.hostWide t fn off f) := .hostCmd h (hf _ h.dropLow)

theorem Kept.dropOp (h : Kept s t) {o : Op} : Kept s (Machine.dropOp t o) := h.same rfl rfl rfl rfl

theorem Kept.setOp (h : Kept s t) {o : Op} : Kept s (Machine.setOp t o) := h.same rfl rfl rfl rfl

theorem Kept.completeOp (h : Kept s t) {o : Op} {status value : Nat} : Kept s (Machine.completeOp t o status value) :=
  h.dropOp.writeCompl

theorem Kept.completeOpRule (h : Kept s t) {o : Op} {status value : Nat} : Kept s (Machine.completeOpRule t o status value) :=
  h.dropOp.deferCompl

theorem Kept.refuseOp (h : Kept s t) {o : Op} {detail : Nat} : Kept s (Machine.refuseOp t o detail) :=
  h.completeOp

theorem Kept.accessOp (h : Kept s t) {o : Op} {v : Verdict} : Kept s (Machine.accessOp t o v) :=
  .completeOp (by split; exacts [h.countViol, h])

theorem Kept.updLed (h : Kept s t) {key : Nat} {f : Led → Led} : Kept s (t.updLed key f) := by
  unfold State.updLed
  split; exacts [h.upd, h]

theorem Kept.raiseV (h : Kept s t) {eng p c : Nat} {hs : List (Nat × Nat)} : Kept s (Machine.raiseV t eng p c hs) :=
  .ite (.ite h h.upd) (.upd (.ite h h.upd))

theorem Kept.charge (h : Kept s t) {eng p cls cycles : Nat} (hp : p < 16) : Kept s (Machine.charge t eng p cls cycles) :=
  have hc : cls % 4 < 4 := Nat.mod_lt _ (by decide)
  .ite (h.upd.finc (quietReg_scAcctc hp hc)) (h.upd.finc (quietReg_scAcctb hp hc))

theorem Kept.traceItemEnd (h : Kept s t) {k : Nat} {e : Led} {status : Nat} : Kept s (Machine.traceItemEnd t k e status) :=
  .ite h.tracePut h

theorem Kept.leaveCore (h : Kept s t) {key : Nat} {e : Led} {status : Nat} : Kept s (Machine.leaveCore t key e status) := by
  unfold Machine.leaveCore
  split; exacts [h, h.traceItemEnd.updCore]

theorem Kept.releaseItem (h : Kept s t) {key status : Nat} : Kept s (Machine.releaseItem t key status) := by
  unfold Machine.releaseItem
  split; exacts [h, h.leaveCore.upd]

theorem Kept.writeRecord (h : Kept s t) {e : Led} {rec : BitVec 256} : Kept s (Machine.writeRecord t e rec).1 := by
  unfold Machine.writeRecord
  dsimp only
  split
  · exact h
  · split
    · split; exacts [(h.hostWrite (Fin.isLt _)), h.devWrite, h]
    · exact h.countViol
    · exact h

theorem Kept.latchNan (h : Kept s t) {i : Nat} {rec : BitVec 256} : Kept s (Machine.latchNan t i rec) :=
  .ite ((h.fset (by simp)).finc (by simp)) (((((h.fset (by simp)).setReg (by simp)).setReg (by simp)).setReg (by simp)).setReg (by simp))

theorem Kept.updStep (h : Kept s t) {p : Nat} {n : W32} {f : StepRec → StepRec} : Kept s (Machine.updStep t p n f) :=
  h.setLsc

theorem Kept.askBuddy (h : Kept s t) {t' : Tag} : Kept s (Machine.askBuddy t t') :=
  .ite h.emit h

theorem Kept.askAgain (h : Kept s t) {was : Nat → Bool} : Kept s (Machine.askAgain t was) :=
  .foldl h (fun _ hu _ _ => hu.askBuddy)

theorem Kept.startRestore (h : Kept s t) {p : Part} {n : W32} {t' : Tag} : Kept s (Machine.startRestore t p n t') :=
  h.updDesc.upd.askBuddy

theorem Kept.forgetOp (h : Kept s t) {o : Op} : Kept s (Machine.forgetOp t o) := h.same rfl rfl rfl rfl

theorem Kept.loseItem (h : Kept s t) {key : Nat} : Kept s (Machine.loseItem t key) := by
  unfold Machine.loseItem
  split; exacts [h, h.releaseItem.writeCompl]

theorem Kept.loseItemAndStep (h : Kept s t) {key : Nat} : Kept s (Machine.loseItemAndStep t key) := by
  unfold Machine.loseItemAndStep
  split
  · exact h
  · dsimp only
    split
    · refine .updStep (.upd ?_)
      split
      · exact h.loseItem.loseItem
      · split
        · exact h.loseItem.forgetOp.writeCompl
        · exact h.loseItem
    · refine .upd ?_
      split
      · exact h.loseItem.loseItem
      · split
        · exact h.loseItem.forgetOp.writeCompl
        · exact h.loseItem

theorem Kept.replayItem (h : Kept s t) {key : Nat} : Kept s (Machine.replayItem t key) := by
  unfold Machine.replayItem
  split; exacts [h, .ite h.loseItemAndStep (.upd (.updLed (by split; exacts [h.updCore, h])))]

theorem Kept.promoteSpare (h : Kept s t) {l : Nat} (hl : l < 128) : Kept s (Machine.promoteSpare t l) := by
  have hq := quietReg_scRemap hl
  unfold Machine.promoteSpare
  split; exacts [(h.fset hq).updCore, h.fset hq]

theorem Kept.vacate (h : Kept s t) {k : Nat} : Kept s (Machine.vacate t k) := by
  unfold Machine.vacate
  split; exacts [.ite h h.updCore, h.updCore]

/-- The logical core of a physical core of the device is one of 128. -/
theorem logOf_lt {k l : Nat} (hk : k < 144) (h : logOf s k = some l) : l < 128 := by
  obtain ⟨j, hj, rfl⟩ := List.mem_map.mp (List.mem_of_find?_eq_some h)
  have := List.mem_range.mp hj
  omega

theorem Kept.fenceCore (h : Kept s t) {k : Nat} (hk : k < 144) : Kept s (Machine.fenceCore t k) := by
  refine .ite h (Kept.vacate (.foldl ?_ fun _ hu _ _ => hu.replayItem))
  split
  · exact h.upd.promoteSpare (logOf_lt hk ‹_›)
  · exact h.upd

theorem Kept.fenceDie (h : Kept s t) {d : Nat} (hd : d < 8) : Kept s (Machine.fenceDie t d) := by
  have hm : Kept s ((List.range 16).foldl (fun t j => Machine.fset t (Reg.scRemap (16 * d + j)) 7 7 0) { t with diesOut := t.diesOut ++ [fin 7 d] }) :=
    h.upd.foldl fun _ hu j hj => hu.fset (quietReg_scRemap (by have := List.mem_range.mp hj; omega))
  exact .ite h (Kept.upd (h := ((hm.foldl fun _ hu _ _ => .ite hu.loseItemAndStep hu.replayItem).foldl fun _ hu _ _ => hu.loseItemAndStep).foldl
    fun _ hu _ _ => hu.vacate))

theorem Kept.dropAsmOf (h : Kept s t) {ctx : Nat → Bool} : Kept s (Machine.dropAsmOf t ctx) := h.same rfl rfl rfl rfl

theorem Kept.abortStreamsOf (h : Kept s t) {i : Nat} : Kept s (Machine.abortStreamsOf t i) := h.same rfl rfl rfl rfl

theorem Kept.dropSwapsOf (h : Kept s t) {i : Nat} : Kept s (Machine.dropSwapsOf t i) :=
  .foldl (.upd (.foldl h (fun _ hu _ _ => hu.zeroingPages.updDesc))) (fun _ hu _ _ => (hu.fset (by simp)))

theorem Kept.stopUpdates (h : Kept s t) {keep : UpdJob → Bool} : Kept s (Machine.stopUpdates t keep) :=
  .upd (.foldl h (fun _ hu _ _ => .ite hu.startRestore hu))

theorem Kept.clearInstance (h : Kept s t) {i : Nat} : Kept s (Machine.clearInstance t i) :=
  .upd (.dropAsmOf (.dropSwapsOf (.abortStreamsOf (.stopUpdates (.foldl h.upd (fun _ hu _ _ => hu.releaseItem))))))

theorem Kept.instanceReset (h : Kept s t) {i cause : Nat} : Kept s (Machine.instanceReset t i cause) :=
  (((h.clearInstance.updInst.fset (by simp)).fset (by simp)).fset (by simp)).notify

theorem Kept.sendOn (h : Kept s t) {p dst route : Nat} {pkt : List Byte} : Kept s (Machine.sendOn t p dst route pkt) :=
  .ite h.upd.emit (by dsimp only; split; exacts [h.upd, h.upd.emit.upd])

theorem Kept.sendPkt (h : Kept s t) {h' : FHdr} {payload sl : List Byte} : Kept s (Machine.sendPkt t h' payload sl) := by
  unfold Machine.sendPkt
  dsimp only; split; exacts [h.sendOn, h]

theorem Kept.answer (h : Kept s t) {typ : Nat} {h' : FHdr} {epoch shard : Nat} {all : Bool} {code : Nat} :
    Kept s (Machine.answer t typ h' epoch shard all code) :=
  h.sendPkt

theorem Kept.sendMemb (h : Kept s t) {g dst typ coord : Nat} {recs : List Nat} : Kept s (Machine.sendMemb t g dst typ coord recs) :=
  h.sendPkt

theorem Kept.sendNotice (h : Kept s t) {g : Nat} {suspects : List Nat} : Kept s (Machine.sendNotice t g suspects) :=
  h.sendMemb

theorem Kept.noticeSelf (h : Kept s t) : Kept s (Machine.noticeSelf t) :=
  .foldl h (fun _ hu _ _ => .ite hu.sendNotice hu)

end Sys2Proof.Proofs

end

section
/-! PROOFS. What faults and their actions keep. -/

namespace Sys2Proof.Proofs
open Sys2Proof.Machine

variable {s t u : State}

theorem Kept.sessEvent (h : Kept s t) {k : Nat} {x : Session} {cmd : Nat} {payload : List Byte} : Kept s (Machine.sessEvent t k x cmd payload) :=
  h.emit.upd

theorem Kept.logMsg (h : Kept s t) {m : Nat} : Kept s (Machine.logMsg t m) := by
  have hc : mKind (if hideAddr t m then setBits m 79 32 0 else m) / 16 < 16 := by
    have := bits_lt (if hideAddr t m then setBits m 79 32 0 else m) 111 104
    unfold mKind; omega
  unfold Machine.logMsg
  extract_lets m' c off s1 n s2 s3 s4
  have ho : quietReg off = true := quietReg_fcLstat c
  have h1 : Kept s s1 := .ite ((h.fset ho).finc ho) (((h.fset ho).setReg (by simp)).setReg (quietReg_fcLatchhi hc))
  have h3 : Kept s s3 := ((((h1.setReg (by simp)).setReg (quietReg_fcLoghi (Nat.mod_lt _ (by decide)))).fset (by simp)))
  exact .foldl (.ite h3 h3.upd) fun _ hu _ _ => .ite hu.sessEvent hu

theorem Kept.setProc (h : Kept s t) {p : Proc} : Kept s (Machine.setProc t p) :=
  .ite (.foldl h.upd (fun _ hu _ _ => hu.sessEvent)) h.upd

theorem Kept.abandonProcs (h : Kept s t) {hit : Proc → Bool} : Kept s (Machine.abandonProcs t hit) :=
  .foldl h (fun _ hu _ _ => hu.setProc)

theorem Kept.stopAll (h : Kept s t) : Kept s (Machine.stopAll t) :=
  .upd (.foldl h (fun _ hu _ _ => hu.releaseItem))

theorem Kept.quiesceDevice (h : Kept s t) : Kept s (Machine.quiesceDevice t) :=
  .ite h (h.fset (by simp)).stopAll.noticeSelf.upd.abandonProcs

theorem Kept.cutCompute (h : Kept s t) : Kept s (Machine.cutCompute t) := h.same rfl rfl rfl rfl

theorem Kept.cutRails (h : Kept s t) : Kept s (Machine.cutRails t) :=
  h.cutCompute.writes rfl rfl fun hm => ⟨rfl, hm.2⟩

theorem Kept.haltDevice (h : Kept s t) : Kept s (Machine.haltDevice t) :=
  .upd (.cutRails (.foldl h.quiesceDevice (fun _ hu _ _ => ((hu.fset (by simp)).fset (by simp)))))

theorem Kept.setKey (h : Kept s t) {m lvl : Nat} {waits : List Nat} : Kept s (Machine.setKey t m lvl waits) := h.same rfl rfl rfl rfl

theorem Kept.portDown (h : Kept s t) {p : Nat} : Kept s (Machine.portDown t p) :=
  .ite ((h.fset (by simp)).finc (by simp)) h

theorem Kept.laneDown (h : Kept s t) {p l : Nat} : Kept s (Machine.laneDown t p l) :=
  .ite (.ite (((h.fset (by simp)).fset (by simp)).finc (by simp)) (h.fset (by simp))) (h.fset (by simp)).portDown

theorem Kept.fencePort (h : Kept s t) {p : Nat} : Kept s (Machine.fencePort t p) :=
  h.portDown.fset (by simp)

theorem Kept.retirePc (h : Kept s t) {stack pc : Nat} (hu : Machine.retirePc t stack pc = some u) : Kept s u := by
  simp only [Machine.retirePc] at hu
  split_ifs at hu
  · cases hu; exact h
  · cases hu; exact h.upd.fset (by simp)

theorem Kept.act (h : Kept s t) {m lvl : Nat} {item : Option Nat} : Kept s (Machine.act t m lvl item) := by
  have hc : ∀ l ws,
    Kept s (if mDie m < 8 ∧ mUnit m < 18 then Machine.fenceCore (Machine.setKey t m l ws) (18 * mDie m + mUnit m) else Machine.setKey t m l ws) := by
    intro l ws
    split
    · exact h.setKey.fenceCore (by omega)
    · exact h.setKey
  unfold Machine.act
  dsimp only
  split
  · split
    · exact h.setKey.replayItem
    · split; exacts [h.setKey.replayItem, h.setKey]
  · split
    · exact hc _ _
    · exact hc _ _
    · split; exacts [h.setKey.retirePc ‹_›, h.setKey]
    · exact .ite h.setKey.laneDown (.ite h.setKey.portDown h.setKey)
    · exact h.setKey.upd
    · exact h.setKey
    · exact h.setKey
  · split
    · exact h.setKey.fenceDie (Nat.mod_lt _ (by decide))
    · exact .ite h.setKey h.setKey.quiesceDevice
    · exact .ite h.setKey.quiesceDevice h.setKey.fencePort
    · exact h.setKey.upd
    · exact h.setKey.quiesceDevice
  · exact .ite h.setKey.instanceReset (h.setKey.foldl fun _ hu _ _ => hu.instanceReset)
  · exact h.setKey.quiesceDevice
  · exact h.setKey.haltDevice
  · exact h

theorem Kept.zeroiseKeys (h : Kept s t) : Kept s (Machine.zeroiseKeys t) :=
  h.upd.fset (by simp)

theorem Kept.pinAlert (h : Kept s t) : Kept s (Machine.pinAlert t) :=
  .ite h h.upd.emit

theorem Kept.collectOne (h : Kept s t) {m : Nat} {item : Option Nat} : Kept s (Machine.collectOne t m item) :=
  .ite (.logMsg (.ite h.zeroiseKeys h)) (by split <;> exact .ite (.logMsg (.ite h.zeroiseKeys h)) (.act (.logMsg (.ite h.zeroiseKeys h))))

theorem Kept.collect (h : Kept s t) {m : Nat} {item : Option Nat} : Kept s (Machine.collect t m item) := by
  unfold Machine.collect
  dsimp only
  split
  · exact .pinAlert (.collectOne (.ite h.collectOne h.collectOne.abandonProcs))
  · exact .pinAlert (.ite h.collectOne h.collectOne.abandonProcs)

theorem Kept.retryRetire (h : Kept s t) : Kept s (Machine.retryRetire t) :=
  .foldl h (fun _ hu _ _ => .ite (by dsimp only; split; exacts [(hu.retirePc ‹_›).upd, hu]) hu)

theorem Kept.report (h : Kept s t) {die unit kind inst tag addr : Nat} {item : Option Nat} :
    Kept s (Machine.report t die unit kind inst tag addr item) :=
  h.collect

theorem Kept.firmwareAcks (h : Kept s t) : Kept s (Machine.firmwareAcks t) := h.same rfl rfl rfl rfl

end Sys2Proof.Proofs

end

section
/-! PROOFS. What tile commands keep. -/

namespace Sys2Proof.Proofs
open Sys2Proof.Machine

variable {s t u : State}

theorem Kept.ovfTable (h : Kept s t) {p layer n : Nat} {train : Bool} : Kept s (Machine.ovfTable t p layer n train) :=
  .ite h (h.writes rfl rfl fun hm => ⟨Memory.wf_write _ _ hm.1, hm.2⟩)

theorem Kept.flagOverflow (h : Kept s t) {p : Nat} {n : W32} : Kept s (Machine.flagOverflow t p n) :=
  .ite (h.fset (by simp)) (h.fset (by simp))

theorem Kept.countOvf (h : Kept s t) {e : Led} {layer n : Nat} : Kept s (Machine.countOvf t e layer n) :=
  .ite h (.ite h.ovfTable.flagOverflow h.ovfTable)

theorem Kept.countTrap (h : Kept s t) {e : Led} : Kept s (Machine.countTrap t e) :=
  .ite (h.finc (by simp)).updStep (.ite (h.finc (by simp)) h)

theorem Kept.normSet (h : Kept s t) {base : Bool} {who layer : Nat} {x : Norm} : Kept s (Machine.normSet t base who layer x) :=
  .ite h.upd h.upd

theorem Kept.addGsq (h : Kept s t) {base : Bool} {who layer : Nat} {n v : W32} : Kept s (Machine.addGsq t base who layer n v).1 := h.normSet

theorem Kept.addSlotGsq (h : Kept s t) {p q layer : Nat} {n v : W32} : Kept s (Machine.addSlotGsq t p q layer n v) := h.same rfl rfl rfl rfl

theorem Kept.stopEntry (h : Kept s t) {key : Nat} {e : Led} {k cmd opcode layer : Nat} {st : Stop} :
    Kept s (Machine.stopEntry t key e k cmd opcode layer st) := by
  unfold Machine.stopEntry
  extract_lets base rec?
  split
  rename_i s1 recd heq
  have h1 : Kept s s1 := by
    clear_value rec?
    split at heq
    · have hw := h.writeRecord (e := e) (rec := recordBits t e k ‹_›)
      rw [heq] at hw; exact hw
    · cases heq; exact h
  cases st
  case numeric => exact h1.latchNan.countTrap.releaseItem.writeCompl
  case access => exact h1.countViol.releaseItem.writeCompl
  case fence => exact h1.releaseItem.writeCompl.report
  all_goals exact h1.releaseItem.writeCompl

theorem Kept.stopItem (h : Kept s t) {k opcode layer : Nat} {st : Stop} : Kept s (Machine.stopItem t k opcode layer st) := by
  unfold Machine.stopItem
  split; exacts [h, by split; exacts [h.report, h.stopEntry]]

theorem Kept.notePeak (h : Kept s t) : Kept s (Machine.notePeak t) :=
  h.fset (by simp)

theorem Kept.traceCmd (h : Kept s t) {k opcode idx arr : Nat} : Kept s (Machine.traceCmd t k opcode idx arr) :=
  .ite h.drawWord.tracePut h

theorem Kept.tileCmd (h : Kept s t) {k opcode : Nat} {b : BitVec 120} {fmt : Led → Core → List Nat} {use : Led → Core → Use}
    {run : Nat → Led → Core → TileRes} (hr : ∀ key e c, RunKept s (run key e c)) : Kept s (Machine.tileCmd t k opcode b fmt use run) := by
  unfold Machine.tileCmd
  split
  · exact h
  · refine .ite h (.ite h.stopItem ?_)
    split
    · exact h.stopItem
    · refine .ite h.updCore ?_
      split
      · exact h.stopItem
      · refine .ite h.updCore ?_
        have hk := hr ‹_› ‹_› (t.core k)
        split
        case h_1 => exact h.updCore
        case h_2 hx => rw [hx] at hk; exact Kept.stopItem hk
        case h_3 hx => rw [hx] at hk; exact (Kept.updCore hk).traceCmd

theorem Kept.countKsteps (h : Kept s t) {k n : Nat} : Kept s (Machine.countKsteps t k n) :=
  .ite h (h.finc (by simp))

theorem Kept.sendShard (h : Kept s t) {x : Sent} {sh route : Nat} {resent : Bool} : Kept s (Machine.sendShard t x sh route resent) :=
  h.sendPkt

theorem Kept.setSent (h : Kept s t) {x : Sent} : Kept s (Machine.setSent t x) := h.same rfl rfl rfl rfl

theorem Kept.netTile (h : Kept s t) {x : Sent} : Kept s (Machine.netTile t x) :=
  .ite h.emit h.drawWord.emit

theorem Kept.transmit (h : Kept s t) {x : Sent} : Kept s (Machine.transmit t x) :=
  .ite (.ite h.setSent (.foldl h.setSent (fun _ hu _ _ => hu.sendShard))) h.setSent.netTile

theorem Kept.sendTile (h : Kept s t) {key k : Nat} {d : SendTo} {ord n a : Nat} : Kept s (Machine.sendTile t key k d ord n a) := by
  unfold Machine.sendTile
  split; exacts [h, .ite h.updLed (.ite h.updLed.upd h.updLed.upd.transmit)]

theorem Kept.sendTiles (h : Kept s t) {key k : Nat} {d : SendTo} {ord n0 : Nat} {addrs : List Nat} :
    Kept s (Machine.sendTiles t key k d ord n0 addrs) :=
  .foldl h.updCore (fun _ hu _ _ => hu.sendTile)

theorem Kept.settleCore (h : Kept s t) {k : Nat} : Kept s (Machine.settleCore t k) :=
  h.updCore

theorem Kept.finishSends (h : Kept s t) {k : Nat} {e : Led} : Kept s (Machine.finishSends t k e) :=
  h.updCore.settleCore

theorem Kept.completeItem (h : Kept s t) {key : Nat} : Kept s (Machine.completeItem t key) := by
  unfold Machine.completeItem
  split; exacts [h, .ite h (.ite (.ite (.ite (h.upd.writeCompl.finc (by simp)) h.upd.writeCompl) h) h.upd.writeCompl)]

theorem Kept.commitGsq (h : Kept s t) {e : Led} {x : GsqPart} : Kept s (Machine.commitGsq e t x) :=
  .countOvf (.ite h.addGsq.addSlotGsq h.addGsq)

theorem Kept.commitItem (h : Kept s t) {k : Nat} : Kept s (Machine.commitItem t k) := by
  unfold Machine.commitItem
  split
  · exact h
  · refine .ite h ?_
    refine .completeItem ?_
    exact .upd (.updLed (.leaveCore (.ite (.foldl h (fun _ hu _ _ => hu.commitGsq)) (.upd (.foldl h (fun _ hu _ _ => hu.commitGsq))))))

theorem Kept.acknowledge (h : Kept s t) {key n : Nat} : Kept s (Machine.acknowledge t key n) := by
  unfold Machine.acknowledge
  split
  · exact h
  · dsimp only
    split
    · exact .commitItem (.finishSends (.foldl h.updLed.upd (fun _ hu _ _ => hu.transmit)))
    · exact .foldl h.updLed.upd (fun _ hu _ _ => hu.transmit)

theorem Kept.updItemCore (h : Kept s t) {key : Nat} {f : Core → Core} : Kept s (Machine.updItemCore t key f) := by
  unfold Machine.updItemCore
  split; exacts [h, by split; exacts [h.updCore.commitItem, h.upd]]

theorem Kept.finishJob (h : Kept s t) {j : UpdJob} : Kept s (Machine.finishJob t j) :=
  h.upd.updItemCore

theorem Kept.tickCore (h : Kept s t) {k : Nat} : Kept s (Machine.tickCore t k) :=
  .ite h (.ite h.setCore.countKsteps.settleCore.commitItem h.setCore.countKsteps)

theorem Kept.tickArrays (h : Kept s t) : Kept s (Machine.tickArrays t) :=
  .foldl h (fun _ hu _ _ => hu.tickCore)

theorem Answers.execStartGrant (h : Kept s t) {d : Die} : Answers s (Machine.execStartGrant d t) := by
  unfold Machine.execStartGrant
  split; exacts [.next h, .ite (.next h) (.next h.upd.updCore)]

theorem RunKept.runSegLoad (h : Kept s t) {key k : Nat} {b : BitVec 120} {e : Led} {c : Core} : RunKept s (Machine.runSegLoad t key k b e c) := by
  unfold Machine.runSegLoad
  dsimp only
  split
  · exact .stop (h.finc (by simp))
  · exact .stop (h.finc (by simp))
  · exact .stop (h.finc (by simp))
  · exact .done (.updCore (.updLed (.foldl h (fun _ hu _ _ => hu.updDesc))))

theorem Kept.segCmd (h : Kept s t) {k : PCore} {b : BitVec 120} : Kept s (Machine.segCmd k b t) :=
  h.tileCmd (fun _ _ _ => by split; exacts [.runSegLoad h, .done h.updCore, .done h.updCore])

theorem Answers.execSegLoad (h : Kept s t) {k : PCore} {b : BitVec 120} : Answers s (Machine.execSegLoad k b t) :=
  .next h.segCmd

theorem Answers.execSegSelect (h : Kept s t) {k : PCore} {b : BitVec 120} : Answers s (Machine.execSegSelect k b t) :=
  .next h.segCmd

theorem Answers.execSegClear (h : Kept s t) {k : PCore} {b : BitVec 120} : Answers s (Machine.execSegClear k b t) :=
  .next h.segCmd

theorem Answers.execMmz (h : Kept s t) {k : PCore} {b : BitVec 120} : Answers s (Machine.execMmz k b t) :=
  .next (h.tileCmd (fun _ _ _ => .done h.updCore))

theorem RunKept.runAcc (h : Kept s t) {k arrNo : Nat} {a : AccCmd} {layer : Nat} {e : Led} {c : Core} :
    RunKept s (Machine.runAcc t k arrNo a layer e c) := by
  unfold Machine.runAcc
  dsimp only
  split
  · exact .stop h
  · refine .ite (.stop h) ?_
    split
    · exact .stop h.countOvf.countOvf.countOvf.countKsteps
    · exact .done h.countOvf.countOvf.countOvf.updCore

theorem Kept.accCmd (h : Kept s t) {k opcode : Nat} {b : BitVec 120} {a : AccCmd} {resvBad encBad : Bool} :
    Kept s (Machine.accCmd t k opcode b a resvBad encBad) :=
  h.tileCmd (fun _ _ _ => .runAcc h)

theorem Answers.execMma (h : Kept s t) {k : PCore} {b : BitVec 120} : Answers s (Machine.execMma k b t) :=
  .next h.accCmd

theorem Answers.execMmw (h : Kept s t) {k : PCore} {b : BitVec 120} : Answers s (Machine.execMmw k b t) :=
  .next h.accCmd

theorem Answers.execMmq (h : Kept s t) {k : PCore} {b : BitVec 120} : Answers s (Machine.execMmq k b t) :=
  .next h.accCmd

theorem Answers.execPro (h : Kept s t) {k : PCore} {b : BitVec 120} : Answers s (Machine.execPro k b t) :=
  .next (h.tileCmd (fun _ _ _ => .ite (.done h.updCore) (by dsimp only; split; exacts [.stop h.countOvf, .done h.countOvf.updCore])))

theorem RunKept.chkMismatch (h : Kept s t) {k : Nat} {e : Led} {c : Core} {arr : Nat} : RunKept s (Machine.chkMismatch t k e c arr) :=
  .stop (h.finc (by simp))

theorem RunKept.epiSend (h : Kept s t) {key k arrNo : Nat} {a : EpiCmd} {e : Led} {c : Core} {n : Nat} :
    RunKept s (Machine.epiSend t key k arrNo a e c n) := by
  unfold Machine.epiSend
  split; exacts [.done h, by dsimp only; split; exacts [.stop h, .ite (.stop h) (.done h.sendTiles.updCore)]]

theorem RunKept.runEpi (h : Kept s t) {key k : Nat} {b : BitVec 120} {bad : Bool} {e : Led} {c : Core} :
    RunKept s (Machine.runEpi t key k b bad e c) := by
  unfold Machine.runEpi
  dsimp only
  split
  · exact .stop h
  · split
    · exact .stop h
    · refine .ite (.chkMismatch h) ?_
      split
      · exact .ite (.stop h.countOvf) (.stop h.countOvf)
      · exact .ite (.epiSend h.countOvf.updCore) (.done h.countOvf.updCore)

theorem Kept.afterIssue (h : Kept s t) {k : Nat} : Kept s (Machine.afterIssue t k) := by
  unfold Machine.afterIssue
  split; exacts [h.finishSends.notePeak, h]

theorem Answers.execEpi (h : Kept s t) {k : PCore} {b : BitVec 120} {bad : Bool} : Answers s (Machine.execEpi k b bad t) :=
  .next ((h.tileCmd (fun _ _ _ => .runEpi h)).afterIssue)

theorem RunKept.runChn (h : Kept s t) {k : Nat} {b : BitVec 120} {bad : Option (Fin 4)} {e : Led} {c : Core} :
    RunKept s (Machine.runChn t k b bad e c) := by
  unfold Machine.runChn
  dsimp only
  split
  · exact .stop h
  · split
    · exact .chkMismatch h
    · split
      · exact .stop h.countOvf
      · exact .stop h.countOvf
      · exact .done h.countOvf.updCore

theorem Answers.execChn (h : Kept s t) {k : PCore} {b : BitVec 120} {bad : Option (Fin 4)} : Answers s (Machine.execChn k b bad t) :=
  .next (h.tileCmd (fun _ _ _ => .runChn h))

theorem RunKept.runSnd (h : Kept s t) {key k : Nat} {b : BitVec 120} {e : Led} {c : Core} : RunKept s (Machine.runSnd t key k b e c) := by
  unfold Machine.runSnd
  dsimp only; split; exacts [by split; exacts [.stop h, .ite (.stop h) (.done h.sendTiles)], .done h.updCore, .done h.updCore]

theorem Kept.sndCmd (h : Kept s t) {k : PCore} {b : BitVec 120} : Kept s (Machine.sndCmd k b t) :=
  (h.tileCmd (fun _ _ _ => .runSnd h)).afterIssue

theorem Answers.execSndSend (h : Kept s t) {k : PCore} {b : BitVec 120} : Answers s (Machine.execSndSend k b t) :=
  .next h.sndCmd

theorem Answers.execSndAttach (h : Kept s t) {k : PCore} {b : BitVec 120} : Answers s (Machine.execSndAttach k b t) :=
  .next h.sndCmd

theorem Answers.execSndDetach (h : Kept s t) {k : PCore} {b : BitVec 120} : Answers s (Machine.execSndDetach k b t) :=
  .next h.sndCmd

theorem Kept.finishRcv (h : Kept s t) {k : Nat} {r : Rcv} : Kept s (Machine.finishRcv t k r) :=
  .ite h.updCore.settleCore h

theorem Kept.fillRcv (h : Kept s t) {key k : Nat} {e : Led} {r : Rcv} {m : TileMsg} : Kept s (Machine.fillRcv t key k e r m) :=
  .ite h.updCore.finishRcv (.ite h.stopEntry (by dsimp only; split; exacts [h.setCore.countOvf.stopEntry, h.setCore.countOvf.finishRcv]))

theorem Kept.feedRcv {key k id : Nat} : ∀ {x : List TileMsg} {t : State}, Kept s t → Kept s (Machine.feedRcv key k id t x)
  | [], _, h => h
  | _ :: _, _, h => by
    unfold Machine.feedRcv
    split
    · exact .ite h.fillRcv.feedRcv h.feedRcv
    · exact h

theorem Kept.rcvCmd (h : Kept s t) {k : PCore} {b : BitVec 120} : Kept s (Machine.rcvCmd k b t) := by
  unfold Machine.rcvCmd
  dsimp only
  split
  · exact .ite ((h.tileCmd (fun _ _ _ => .ite .hold (.done h.updCore))).feedRcv) (h.tileCmd (fun _ _ _ => .ite .hold (.done h.updCore)))
  · exact h.tileCmd (fun _ _ _ => .ite .hold (.done h.updCore))

theorem Answers.execRcvPlace (h : Kept s t) {k : PCore} {b : BitVec 120} : Answers s (Machine.execRcvPlace k b t) :=
  .next h.rcvCmd

theorem Answers.execRcvCombine (h : Kept s t) {k : PCore} {b : BitVec 120} : Answers s (Machine.execRcvCombine k b t) :=
  .next h.rcvCmd

theorem Kept.acceptTile (h : Kept s t) {k key post : Nat} {m : TileMsg} (hu : Machine.acceptTile t k key post m = some u) : Kept s u := by
  unfold Machine.acceptTile at hu
  dsimp only at hu
  split at hu
  · cases hu
  · cases hu; exact h.upd

theorem Kept.receive (h : Kept s t) {k : Nat} {m : TileMsg} : Kept s (Machine.receive t k m).1 := by
  unfold Machine.receive
  dsimp only
  split
  · split_ifs
    · exact h.finc (by simp)
    · exact h.finc (by simp)
    · split; exacts [(h.acceptTile ‹_›).fillRcv.commitItem, h]
  · split_ifs
    · exact h.finc (by simp)
    · exact h.finc (by simp)
    · split; exacts [h.acceptTile ‹_›, h]
  · split_ifs; exacts [(h.finc (by simp)), h]

theorem Kept.noteRefusal (h : Kept s t) {t' : TileMsg} : Kept s (Machine.noteRefusal t t') := h.same rfl rfl rfl rfl

theorem Answers.execTileArrival (h : Kept s t) {k : PCore} {t' : TileMsg} : Answers s (Machine.execTileArrival k t' t) :=
  .next (.emit (.ite h.receive.noteRefusal h.receive))

theorem Answers.execTileAck (h : Kept s t) {home : Die} {seq : BitVec 48} : Answers s (Machine.execTileAck home seq t) := by
  unfold Machine.execTileAck
  split; exacts [.next h.acknowledge, .next h]

theorem Kept.resendTile (h : Kept s t) {x : Sent} : Kept s (Machine.resendTile t x) :=
  .ite h (.ite (.ite h (.foldl (h.setSent.finc (by simp)) (fun _ hu _ _ => hu.sendShard))) h.setSent.netTile)

theorem Answers.execTileResendRetry (h : Kept s t) {home : Die} {seq : BitVec 48} : Answers s (Machine.execTileResendRetry home seq t) :=
  .next (.foldl h (fun _ hu _ _ => hu.resendTile))

theorem Answers.execTransferTimeout (h : Kept s t) {k : PCore} : Answers s (Machine.execTransferTimeout k t) := by
  unfold Machine.execTransferTimeout
  dsimp only; split; exacts [.next h, .next h.stopItem]

theorem Kept.memWrite (h : Kept s t) {e : Led} {train : Bool} {a : Nat} {ps : List (Nat × List Byte × TagRec)}
    (hu : Machine.memWrite t e train a ps = .ok u) : Kept s u := by
  unfold Machine.memWrite at hu
  split at hu
  · cases hu
  · dsimp only at hu
    split at hu
    · cases hu
    · split_ifs at hu
      cases hu
      exact h.foldl fun _ hu _ _ => hu.hostWrite (Fin.isLt _)
  · split at hu
    · cases hu
    · split_ifs at hu
      cases hu
      refine h.foldl fun _ hu _ _ => ?_
      dsimp only
      split; exacts [hu.devWrite.updDesc, hu.devWrite]

theorem RunKept.runTld (h : Kept s t) {k : Nat} {b : BitVec 120} {e : Led} : RunKept s (Machine.runTld t k b e) :=
  .ite (by split; exacts [.stop h, by dsimp only; split; exacts [.stop h, .done h.updCore]]) (by split; exacts [.stop h, .done h.updCore])

theorem Kept.tldCmd (h : Kept s t) {k : PCore} {b : BitVec 120} : Kept s (Machine.tldCmd k b t) :=
  h.tileCmd (fun _ _ _ => .runTld h)

theorem Answers.execTld (h : Kept s t) {k : PCore} {b : BitVec 120} : Answers s (Machine.execTld k b t) :=
  .next h.tldCmd

theorem Answers.execTldAccld (h : Kept s t) {k : PCore} {b : BitVec 120} : Answers s (Machine.execTldAccld k b t) :=
  .next h.tldCmd

theorem RunKept.runTst (h : Kept s t) {b : BitVec 120} {e : Led} {c : Core} : RunKept s (Machine.runTst t b e c) := by
  unfold Machine.runTst
  dsimp only; split; exacts [.stop h, .done (.foldl h (fun _ hu _ _ => by split; exacts [hu.memWrite ‹_›, hu]))]

theorem Answers.execTst (h : Kept s t) {k : PCore} {b : BitVec 120} : Answers s (Machine.execTst k b t) :=
  .next (h.tileCmd (fun _ _ _ => .runTst h))

theorem Kept.trimScratch (h : Kept s t) : Kept s (Machine.trimScratch t) := h.same rfl rfl rfl rfl

theorem Answers.execTcp (h : Kept s t) {k : PCore} {b : BitVec 120} : Answers s (Machine.execTcp k b t) :=
  .next (h.tileCmd (fun _ _ _ => .ite (.done h.upd) (.done h.updCore)))

theorem Kept.addUpdNorms (h : Kept s t) {base : Bool} {who layer : Nat} {n w u : W32} : Kept s (Machine.addUpdNorms t base who layer n w u).1 :=
  h.normSet

theorem Kept.streamWrite (h : Kept s t) {j : UpdJob} {i e v : Nat} : Kept s (Machine.streamWrite t j i e v) := by
  unfold Machine.streamWrite
  dsimp only; split; exacts [(h.hostWrite (Fin.isLt _)), h.devWrite]

theorem Kept.synCmd (h : Kept s t) {k : PCore} {b : BitVec 120} : Kept s (Machine.synCmd k b t) :=
  (h.tileCmd (fun _ _ _ => .ite (.done h) (.ite .hold (.done h.updCore)))).afterIssue

theorem Answers.execSynWait (h : Kept s t) {k : PCore} {b : BitVec 120} : Answers s (Machine.execSynWait k b t) :=
  .next h.synCmd

theorem Answers.execSynSignal (h : Kept s t) {k : PCore} {b : BitVec 120} : Answers s (Machine.execSynSignal k b t) :=
  .next h.synCmd

theorem RunKept.runNrm (h : Kept s t) {k : Nat} {b : BitVec 120} {e : Led} {c : Core} : RunKept s (Machine.runNrm t k b e c) := by
  unfold Machine.runNrm
  dsimp only; split; exacts [.stop h, by split; exacts [.stop h, .done h.updCore.countOvf]]

theorem Answers.execNrm (h : Kept s t) {k : PCore} {b : BitVec 120} : Answers s (Machine.execNrm k b t) :=
  .next (h.tileCmd (fun _ _ _ => .runNrm h))

theorem Kept.queueUpd (h : Kept s t) {j : UpdJob} : Kept s (Machine.queueUpd t j) :=
  h.raiseV.upd

theorem Answers.execUpd (h : Kept s t) {k : PCore} {b : BitVec 120} : Answers s (Machine.execUpd k b t) :=
  .next (h.tileCmd (fun _ _ _ => by split; exacts [.stop h, .hold, .done h, .done h, .done h.queueUpd]))

theorem Answers.execTrp (h : Kept s t) {k : PCore} {b : BitVec 120} : Answers s (Machine.execTrp k b t) :=
  .next (h.tileCmd (fun _ _ _ => .stop h))

theorem Answers.execEndItem (h : Kept s t) {k : PCore} {b : BitVec 120} : Answers s (Machine.execEndItem k b t) :=
  .next ((h.tileCmd (fun _ _ _ => .done h.updLed)).commitItem)

theorem Answers.execOpcodeNotInTable (h : Kept s t) {k : PCore} {w : W128} : Answers s (Machine.execOpcodeNotInTable k w t) :=
  .ite (.next h) (.next (h.tileCmd (fun _ _ _ => .done h)))

end Sys2Proof.Proofs

end

section
/-! PROOFS. What rings, memory operations and adapters keep. -/

namespace Sys2Proof.Proofs
open Sys2Proof.Machine

variable {s t u : State}

theorem Kept.ringBell (h : Kept s t) {mgr : Bool} {i r : Nat} {v : W64} : Kept s (Machine.ringBell t mgr i r v) :=
  .ite (h.finc (by simp)) (.ite h (.ite h.updRing h.updRing))

theorem Kept.bar2Write (h : Kept s t) {fn : Fn} {off size : Nat} {val : W64} : Kept s (Machine.bar2Write t fn off size val) :=
  .ite h (.ite (.ite h.ringBell h) (.ite h.ringBell h))

theorem Answers.execDoorbell (h : Kept s t) {fn : Fn} {off size : Nat} {val : Option W64} : Answers s (Machine.execDoorbell fn off size val t) :=
  .hostCmd h (by split; exacts [h.bar2Write, h.emit])

theorem Answers.execAdmitEntry (h : Kept s t) {i : Inst} {r : RingId} : Answers s (Machine.execAdmitEntry i r t) := by
  refine .ite (.next h) ?_
  dsimp only
  split
  · exact .next h.countViol
  · exact .next h
  · refine .next ?_
    refine .ite (.completeOp (.upd (.ite h.updRing.raiseV h.updRing))) ?_
    exact .ite (.refuseOp (.upd (.ite h.updRing.raiseV h.updRing))) (.upd (.ite h.updRing.raiseV h.updRing))

theorem Answers.withOp (h : Kept s t) {i : Inst} {r : RingId} {q : W32} {typ : Nat} {sub : Option Nat} {f : Op → State}
    (hf : ∀ o, Kept s (f o)) : Answers s (Machine.withOp t i r q typ sub f) := by
  unfold Machine.withOp
  split
  · exact .next h
  · exact .next (hf _)
  · refine .next ?_
    cases ho : ((opsAt t i r q typ sub).map f).find? (· ≠ t) with
    | none => rw [Option.getD_none]; exact h
    | some u =>
      obtain ⟨o, _, rfl⟩ := List.mem_map.mp (List.mem_of_find?_eq_some ho)
      rw [Option.getD_some]; exact hf o

theorem Kept.malformedOp (h : Kept s t) {o : Op} : Kept s (Machine.malformedOp t o) :=
  h.completeOp

theorem Kept.opWrite (h : Kept s t) {i a : Nat} {bs : List Byte} (hi : i < 16) : Kept s (Machine.opWrite t i a bs) := by
  unfold Machine.opWrite
  split; exacts [h.hostWrite hi, h.devWrite, h]

theorem Answers.execWork (h : Kept s t) {i : Inst} {r : RingId} {q : W32} : Answers s (Machine.execWork i r q t) :=
  .withOp h (fun _ => .ite h (.ite h.malformedOp (.ite h.refuseOp (.ite h.refuseOp (.setOp (.ite h.updStep h))))))

theorem Kept.joinQueue (h : Kept s t) {x : Elig} : Kept s (Machine.joinQueue t x) :=
  h.raiseV.upd

theorem Answers.execGenerationSatisfied (h : Kept s t) {i : Inst} {r : RingId} {q : W32} : Answers s (Machine.execGenerationSatisfied i r q t) :=
  .withOp h (fun _ => .ite h h.dropOp.joinQueue)

theorem Answers.execOrder (h : Kept s t) {i : Inst} {r : RingId} {q : W32} : Answers s (Machine.execOrder i r q t) :=
  .withOp h (fun _ => .ite h.malformedOp (.ite h.completeOp h))

theorem Answers.execNop (h : Kept s t) {i : Inst} {r : RingId} {q : W32} : Answers s (Machine.execNop i r q t) :=
  .withOp h (fun _ => .ite h.malformedOp h.completeOp)

theorem Kept.ruleChangePart (h : Kept s t) {p : Nat} : Kept s (Machine.ruleChangePart t p) :=
  .foldl h (fun _ hu _ _ => hu.ruleChange)

theorem Kept.completeBaseOp (h : Kept s t) {o : Op} {p value : Nat} : Kept s (Machine.completeBaseOp t o p value) := by
  unfold Machine.completeBaseOp
  dsimp only; split; exacts [h.dropOp.updInst, h.dropOp.writeCompl]

theorem Kept.markSwaps (h : Kept s t) {p : Nat} : Kept s (Machine.markSwaps t p) :=
  h.fset (by simp)

theorem Kept.refuseAd (h : Kept s t) {o : Op} {detail : Nat} : Kept s (Machine.refuseAd t o detail) :=
  (h.finc (by simp)).refuseOp

theorem Kept.endSwaps (h : Kept s t) {p g : Nat} {f : State → Op → State} (hf : ∀ u, Kept s u → ∀ o, Kept s (f u o)) :
    Kept s (Machine.endSwaps t p g f) :=
  (h.updPart.foldl fun _ hu _ _ => hf _ hu _).markSwaps

theorem Kept.dropSwaps (h : Kept s t) {p t' : Nat} : Kept s (Machine.dropSwaps t p t') :=
  h.endSwaps (fun _ hu _ => hu.refuseAd)

theorem Kept.evictOne (h : Kept s t) {t' : Nat} : Kept s (Machine.evictOne t t') :=
  h.zeroingPages.dropSwaps.updDesc.finc (by simp)

theorem AllocKept.allocate (h : Kept s t) {o : Op} {n w : Nat} : AllocKept s (Machine.allocate t o n w) := by
  unfold Machine.allocate
  dsimp only
  split
  · exact h
  · split
    · trivial
    · split
      · exact h.foldl fun _ hu _ _ => hu.evictOne
      · exact Kept.upd (h.foldl fun _ hu _ _ => hu.evictOne)

theorem Kept.dropResv (h : Kept s t) {o : Op} : Kept s (Machine.dropResv t o) := h.same rfl rfl rfl rfl

theorem Kept.countRefusedAlloc (h : Kept s t) {i : Nat} : Kept s (Machine.countRefusedAlloc t i) :=
  h.finc (by simp)

theorem Kept.writeRun (h : Kept s t) {ns : List Nat} {bs : List Byte} : Kept s (Machine.writeRun t ns bs) :=
  .foldl h (fun _ hu _ _ => hu.devWrite)

theorem Kept.memTake (h : Kept s t) {o : Op} {ns : List Nat} : Kept s (Machine.memTake t o ns) := by
  unfold Machine.memTake
  dsimp only
  split
  · exact (h.dropResv.assignPages.ruleChange.opWrite (Fin.isLt _)).completeOpRule
  · refine .completeOpRule (.zeroingPages ?_)
    split
    · exact h.dropResv.assignPages.ruleChange.countViol
    · exact h.dropResv.assignPages.ruleChange

theorem Answers.execMemAlloc (h : Kept s t) {i : Inst} {r : RingId} {q : W32} : Answers s (Machine.execMemAlloc i r q t) := by
  refine .withOp h (fun _ => ?_)
  refine .ite ?_ (.ite h.malformedOp ?_)
  · split
    · exact .ite h h.memTake
    · exact h
  · split
    · refine .ite h ?_
      split
      · exact h.countRefusedAlloc.refuseOp
      · exact ((((AllocKept.allocate h).of_waits ‹_›)).ruleChange).setOp
      · exact (((AllocKept.allocate h).of_pages ‹_›)).memTake
    · exact h.accessOp

theorem Answers.execMemFree (h : Kept s t) {i : Inst} {r : RingId} {q : W32} : Answers s (Machine.execMemFree i r q t) := by
  refine .withOp h (fun _ => ?_)
  refine .ite h.malformedOp ?_
  split
  · exact .ite h.malformedOp (.ite h.completeOp (.ite h (.ite (.ite h h.upd.setOp) h.zeroingPages.ruleChange.completeOpRule)))
  · exact h.accessOp

theorem Kept.publish (h : Kept s t) {i h' g : Nat} : Kept s (Machine.publish t i h' g) :=
  .ite h h.upd

theorem Answers.execCopy (h : Kept s t) {i : Inst} {r : RingId} {q : W32} : Answers s (Machine.execCopy i r q t) := by
  refine .withOp h fun o => .ite h.malformedOp (.ite h ?_)
  split
  · dsimp only
    split
    · exact h.report.completeOp
    · exact ((h.drawWord.opWrite (Fin.isLt _)).charge (partOf_getD_lt _ _)).publish.completeOp
  · exact h.accessOp

theorem Answers.execNormread (h : Kept s t) {i : Inst} {r : RingId} {q : W32} : Answers s (Machine.execNormread i r q t) := by
  refine .withOp h (fun _ => ?_)
  refine .ite h.malformedOp (.ite h.refuseOp (.ite h.refuseOp (.ite h.refuseOp ?_)))
  split
  · exact (h.opWrite (Fin.isLt _)).completeOp
  · exact h.accessOp

theorem Kept.markRefused (h : Kept s t) {o : Op} : Kept s (Machine.markRefused t o) :=
  .ite h.updDesc h

theorem Kept.loadTake (h : Kept s t) {o : Op} {ns : List Nat} : Kept s (Machine.loadTake t o ns) := by
  unfold Machine.loadTake
  obtain ⟨ni, ng, nst⟩ := loadPages o.desc
  exact h.dropResv.assignPages.assignPages.ruleChange.updDesc

theorem Answers.execAdapterLoad (h : Kept s t) {i : Inst} {r : RingId} {q : W32} : Answers s (Machine.execAdapterLoad i r q t) := by
  refine .withOp h fun o => .ite h (.ite h (.ite h.malformedOp (.ite h.refuseAd (.ite h.markRefused.refuseAd (.ite h.refuseAd
    (.ite h.refuseAd (.ite h.refuseAd ?_)))))))
  split
  · refine .ite h.refuseAd (.ite h ?_)
    obtain ⟨ni, ng, nst⟩ := loadPages o.desc
    dsimp only
    split
    · exact h.countRefusedAlloc.refuseAd
    · exact ((AllocKept.allocate h).of_waits ‹_›).ruleChange.setDesc.setOp
    · exact ((AllocKept.allocate h).of_pages ‹_›).setDesc.loadTake.setOp
  · exact h.accessOp

theorem Kept.undoLoad (h : Kept s t) {o : Op} : Kept s (Machine.undoLoad t o) :=
  h.zeroingPages.dropResv.setDesc

theorem Answers.execLoadingDone (h : Kept s t) {tag : Tag} : Answers s (Machine.execLoadingDone tag t) := by
  unfold Machine.execLoadingDone
  dsimp only
  split
  · exact .next h
  · refine .ite (.next h.dropResv.completeOp) (.ite ?_ ?_)
    · split
      · exact .ite (.next h) (.next h.loadTake)
      · exact .next h
    · split
      · refine .ite (.next h.undoLoad.refuseAd) ?_
        refine .next ?_
        refine .ite (.completeOpRule (.updDesc (.upd (.ite h.writeRun h.writeRun.writeRun)))) ?_
        exact .completeOp (.updDesc (.upd (.ite h.writeRun h.writeRun.writeRun)))
      · exact .next h.undoLoad.accessOp

theorem Kept.swapTake (h : Kept s t) {o : Op} {ns : List Nat} : Kept s (Machine.swapTake t o ns) :=
  h.dropResv.assignPages.assignPages.ruleChange.writeRun.updDesc.updPart.dropOp.markSwaps

theorem Answers.execAdapterSwap (h : Kept s t) {i : Inst} {r : RingId} {q : W32} : Answers s (Machine.execAdapterSwap i r q t) := by
  refine .withOp h (fun _ => ?_)
  refine .ite ?_ (.ite h (.ite h.malformedOp (.ite h.refuseAd (.ite h.refuseAd (.ite h.refuseAd (.ite h.markRefused.refuseAd ?_))))))
  · split
    · exact .ite h (.ite h.dropResv.refuseAd h.swapTake)
    · exact h
  · split
    · refine .ite h.refuseAd (.ite h ?_)
      split
      · exact h.countRefusedAlloc.refuseAd
      · exact ((((AllocKept.allocate h).of_waits ‹_›)).ruleChange).setOp
      · exact (((AllocKept.allocate h).of_pages ‹_›)).swapTake
    · exact h.accessOp

theorem Kept.tagChecks (h : Kept s t) {o : Op} {usable : Bool} (hu : Kept s u) : Kept s (Machine.tagChecks t o usable u) :=
  .ite h.setOp (.ite h.malformedOp (.ite h.refuseOp (.ite h.refuseOp hu)))

theorem Answers.execAdapterPin (h : Kept s t) {i : Inst} {r : RingId} {q : W32} : Answers s (Machine.execAdapterPin i r q t) :=
  .withOp h (fun _ => h.tagChecks (.ite h.refuseOp h.updDesc.completeOp))

theorem Answers.execAdapterUnpin (h : Kept s t) {i : Inst} {r : RingId} {q : W32} : Answers s (Machine.execAdapterUnpin i r q t) :=
  .withOp h (fun _ => h.tagChecks h.updDesc.completeOp)

theorem Answers.execAdapterEvict (h : Kept s t) {i : Inst} {r : RingId} {q : W32} : Answers s (Machine.execAdapterEvict i r q t) :=
  .withOp h (fun _ => h.tagChecks (.ite h.refuseOp (.ite h h.evictOne.ruleChange.completeOpRule)))

theorem Kept.setKeyEnt (h : Kept s t) {id : KeyId} {f : KeyEnt → KeyEnt} : Kept s (Machine.setKeyEnt t id f) := by
  unfold Machine.setKeyEnt
  split <;> exact h.upd

theorem Kept.stopKey (h : Kept s t) {key : Nat} {st : Stop} : Kept s (Machine.stopKey t key st) := by
  unfold Machine.stopKey
  split; exacts [h.stopEntry, h]

theorem Kept.beginRetire (h : Kept s t) {id : KeyId} : Kept s (Machine.beginRetire t id) := by
  refine .ite h (.foldl ?_ fun _ hu _ _ => hu.stopKey)
  cases id
  case adapter g =>
    have h2 : Kept s (if ((Machine.setKeyEnt t (.adapter g) fun x => { x with st := .retiring }).desc g.toNat).st == AState.free then
        Machine.setKeyEnt t (.adapter g) fun x => { x with st := .retiring } else
        (Machine.setKeyEnt t (.adapter g) fun x => { x with st := .retiring }).updDesc g.toNat fun d => { d with st := .retiring }) :=
      .ite h.setKeyEnt h.setKeyEnt.updDesc
    refine Kept.endSwaps ?_ fun _ hu _ => hu.completeOp
    exact h2.same rfl rfl rfl rfl
  all_goals exact h.setKeyEnt.same rfl rfl rfl rfl

theorem Kept.releaseAdapter (h : Kept s t) {t' : Nat} : Kept s (Machine.releaseAdapter t t') :=
  h.upd.zeroingPages.dropSwaps.setDesc

theorem Answers.execAdapterFree (h : Kept s t) {i : Inst} {r : RingId} {q : W32} : Answers s (Machine.execAdapterFree i r q t) := by
  refine .withOp h (fun _ => ?_)
  refine h.tagChecks ?_
  exact .ite (.ite h.completeOp h.refuseOp) (.ite h.beginRetire.setOp (.ite h.setOp (.ite h h.releaseAdapter.ruleChange.completeOpRule)))

theorem Kept.baseArrives (h : Kept s t) {p : Nat} {c : BaseCopy} : Kept s (Machine.baseArrives t p c) :=
  .ite (h.updPart.setReg (by simp)) h.updPart

theorem Kept.partKey (h : Kept s t) {p : Nat} : Kept s (Machine.partKey t p) :=
  .ite h h.drawKey.updPart

theorem Answers.execBaseLoad (h : Kept s t) {i : Inst} {r : RingId} {q : W32} : Answers s (Machine.execBaseLoad i r q t) := by
  refine .withOp h (fun _ => ?_)
  refine .ite ?_ (.ite h.malformedOp (.ite h.refuseOp (.ite h.refuseOp (.ite h.refuseOp ?_))))
  · split
    · exact h
    · exact .ite h (.ite h.writeRun.baseArrives.completeBaseOp (.ite h.updPart.zeroingPages.ruleChangePart.completeOp h))
  · split
    · refine .ite h ?_
      refine .ite h.refuseOp ?_
      exact .ite h.assignPages.partKey.ruleChangePart.writeRun.baseArrives.completeBaseOp h.assignPages.partKey.ruleChangePart.updPart.setOp
    · exact h.accessOp

theorem Answers.execBaseSwap (h : Kept s t) {i : Inst} {r : RingId} {q : W32} : Answers s (Machine.execBaseSwap i r q t) :=
  .withOp h (fun _ => .ite h.malformedOp (.ite h.refuseOp (.ite h.refuseOp (.ite h h.updPart.dropOp.markSwaps))))

theorem Kept.setFrozen (h : Kept s t) {o : Op} {b : Bool} : Kept s (Machine.setFrozen t o b) :=
  .ite h.malformedOp (.ite h.refuseOp h.updPart.completeOp)

theorem Answers.execBaseFreeze (h : Kept s t) {i : Inst} {r : RingId} {q : W32} : Answers s (Machine.execBaseFreeze i r q t) :=
  .withOp h (fun _ => h.setFrozen)

theorem Answers.execBaseUnfreeze (h : Kept s t) {i : Inst} {r : RingId} {q : W32} : Answers s (Machine.execBaseUnfreeze i r q t) :=
  .withOp h (fun _ => h.setFrozen)

theorem Answers.execPeerOpen (h : Kept s t) {i : Inst} {r : RingId} {q : W32} : Answers s (Machine.execPeerOpen i r q t) :=
  .withOp h (fun _ => .ite h.malformedOp (.ite h.refuseOp (.ite h.refuseOp h.setPeer.askAgain.completeOp)))

theorem Answers.execPeerClose (h : Kept s t) {i : Inst} {r : RingId} {q : W32} : Answers s (Machine.execPeerClose i r q t) :=
  .withOp h (fun _ => .ite h.malformedOp (.ite h.refuseOp (.ite h.refuseOp (.ite h.dropAsmOf.setPeer.setOp h.dropAsmOf.setPeer.completeOp))))

end Sys2Proof.Proofs

end

section
/-! PROOFS. What dispatch, switches and boundaries keep. -/

namespace Sys2Proof.Proofs
open Sys2Proof.Machine

variable {s t u : State}

theorem Kept.wakeCore (h : Kept s t) {k : Nat} : Kept s (Machine.wakeCore t k) := by
  unfold Machine.wakeCore
  split; exacts [h.updCore.traceSync, h.updCore.traceSync, h]

theorem Kept.wakeDie (h : Kept s t) {d : Nat} : Kept s (Machine.wakeDie t d) :=
  .ite h.upd.tracePstate h

theorem Kept.traceItemStart (h : Kept s t) {k : Nat} {e : Led} : Kept s (Machine.traceItemStart t k e) :=
  .ite h.tracePut h

theorem Kept.displace (h : Kept s t) {k : Nat} : Kept s (Machine.displace t k) := by
  unfold Machine.displace
  split; exacts [h.setCore, h]

theorem Kept.startOn (h : Kept s t) {key l : Nat} {c0 : Core} : Kept s (Machine.startOn t key l c0) := by
  unfold Machine.startOn
  dsimp only; split; exacts [h.displace.wakeDie.wakeCore.updLed.setCore.traceItemStart, h.displace.wakeDie.wakeCore.updLed.setCore]

theorem Kept.takeLsn (h : Kept s t) {d : Nat} : Kept s (Machine.takeLsn t d).2.2 := .ite h.upd.upd h.upd

theorem Kept.restoreCtx (h : Kept s t) {slot l : Nat} : Kept s (Machine.restoreCtx t slot l) := by
  unfold Machine.restoreCtx
  split; exacts [h, by split; exacts [h, .commitItem (.foldl h.upd.updLed.startOn (fun _ hu _ _ => hu.feedRcv))]]

theorem Kept.placeItem (h : Kept s t) {x : Elig} {l : Nat} : Kept s (Machine.placeItem t x l) := by
  unfold Machine.placeItem
  split; exacts [h.restoreCtx, by dsimp only; split; exacts [h, .startOn (.upd (.ite h.takeLsn.updStep h.takeLsn))]]

theorem Kept.passOver (h : Kept s t) {items : List Elig} {pick : Elig} : Kept s (Machine.passOver t items pick) := h.same rfl rfl rfl rfl

theorem Kept.redispatch (h : Kept s t) {key l : Nat} : Kept s (Machine.redispatch t key l) :=
  (h.updLed.finc (by simp)).startOn

theorem Answers.execDispatch (h : Kept s t) {l : LCore} : Answers s (Machine.execDispatch l t) := by
  refine .ite (.next h) ?_
  split
  · exact .next h
  · refine .ite (.next h) ?_
    split
    · exact .next h.redispatch
    · dsimp only
      split
      · exact .next h
      · split
        · exact .next h
        · exact .ite (.next h) (.next h.passOver.placeItem)

theorem Answers.execLedgerRelease (h : Kept s t) {d : Die} {slot : Fin 8192} : Answers s (Machine.execLedgerRelease d slot t) := by
  unfold Machine.execLedgerRelease
  dsimp only; split; exacts [.next (by split; exacts [h.completeItem, h.commitItem, h]), .next h]

theorem Answers.execPreempt (h : Kept s t) {l : LCore} : Answers s (Machine.execPreempt l t) := by
  unfold Machine.execPreempt
  split; exacts [.next h, .ite (.next h) (by split; exacts [.next h, .next h.upd.updCore])]

theorem Answers.execSwitchOut (h : Kept s t) {k : PCore} : Answers s (Machine.execSwitchOut k t) := by
  unfold Machine.execSwitchOut
  split; exacts [.next h, .ite (.next h) (.ite (.next h.updCore) (by split; exacts [.next h, .next (h.updLed.updCore.upd.finc (by simp)).joinQueue]))]

theorem Answers.execContextRestore (h : Kept s t) {slot : Fin 128} {k : PCore} : Answers s (Machine.execContextRestore slot k t) := by
  unfold Machine.execContextRestore
  split; exacts [by split; exacts [.ite (.next h.restoreCtx) (.next h), .next h], .next h]

theorem Kept.completeSwap (h : Kept s t) {o : Op} {seq : Nat} : Kept s (Machine.completeSwap t o seq) :=
  .ite h.deferCompl h.writeCompl

theorem Kept.applySwap (h : Kept s t) {seq : W32} {t' : Nat} {o : Op} : Kept s (Machine.applySwap seq t t' o) :=
  .ite h.updDesc.completeSwap h.zeroingPages.updDesc.refuseAd

theorem Kept.refuseStep (h : Kept s t) {p : Nat} {n : W32} : Kept s (Machine.refuseStep t p n) :=
  .foldl (.foldl h.upd.updStep (fun _ hu _ _ => hu.writeCompl)) (fun _ hu _ _ => hu.finishJob)

theorem Kept.applyBase (h : Kept s t) {seq : W32} {p : Nat} {o : Op} : Kept s (Machine.applyBase seq t p o) := by
  unfold Machine.applyBase
  split
  · exact h.writeCompl
  · extract_lets trains s1 s2 s3
    have h1 : Kept s s1 := .ite (.foldl h fun _ hu _ _ => hu.refuseStep) h
    have h3 : Kept s s3 := h1.updPart.setReg (by simp)
    exact .ite h3.completeBaseOp h3.writeCompl

theorem Answers.execMicrobatchBoundary (h : Kept s t) {p : Part} : Answers s (Machine.execMicrobatchBoundary p t) :=
  .ite (.next h) (.next (.markSwaps (.foldl (h.updPart.fset (by simp)) (fun _ hu _ _ => by split; exacts [hu.applySwap, hu.applyBase]))))

theorem Answers.execPrevdirRelease (h : Kept s t) {p : Part} {tag : TagRec} : Answers s (Machine.execPrevdirRelease p tag t) := by
  unfold Machine.execPrevdirRelease
  split
  · exact .ite (.next h) (.next h.zeroingPages.updDesc.ruleChange)
  · split
    · exact .next h
    · exact .ite (.next h) (.next h.zeroingPages.updPart.ruleChangePart)

end Sys2Proof.Proofs

end

section
/-! PROOFS. What steps, updates and mirrors keep. -/

namespace Sys2Proof.Proofs
open Sys2Proof.Machine

variable {s t u : State}

theorem Kept.setExp (h : Kept s t) {p : Nat} {x : ℤ} : Kept s (Machine.setExp t p x) :=
  h.fset (by simp)

theorem Kept.publishScale (h : Kept s t) {p : Nat} {n v : W32} : Kept s (Machine.publishScale t p n v) :=
  .ite h.setLsc (h.setLsc.writes rfl rfl fun hm => ⟨Memory.wf_write _ _ hm.1, hm.2⟩)

theorem Kept.forgetSteps (h : Kept s t) {p : Nat} : Kept s (Machine.forgetSteps t p) :=
  h.setLsc

theorem Kept.writeLsCtl (h : Kept s t) {p v : Nat} : Kept s (Machine.writeLsCtl t p v) := by
  refine .ite (((h.regWritePlain.setExp.fset (by simp)).fset (by simp)).setReg (by simp)).forgetSteps.publishScale ?_
  exact .ite h.regWritePlain (h.regWritePlain.setExp.fset (by simp))

theorem Answers.execLsEnable (h : Kept s t) {p : Part} {v : W32} : Answers s (Machine.execLsEnable p v t) :=
  .hostCmd h h.writeLsCtl

theorem Answers.execOverflowNotify (h : Kept s t) {p : Part} {n : W32} {layer : BitVec 12} {train : Bool} :
    Answers s (Machine.execOverflowNotify p n layer train t) :=
  .next (.ite h.ovfTable.flagOverflow h.ovfTable)

theorem Kept.completeStep (h : Kept s t) {p : Nat} {n : W32} : Kept s (Machine.completeStep t p n) :=
  .foldl h (fun _ hu _ _ => hu.completeItem)

theorem Kept.publishCopy (h : Kept s t) {t' : Nat} {g : W32} : Kept s (Machine.publishCopy t t' g) :=
  .ite h h.upd

theorem Kept.passSkipped : ∀ {fuel : Nat} {t : State} {p g : Nat}, Kept s t → Kept s (Machine.passSkipped fuel t p g)
  | 0, _, _, _, h => h
  | _ + 1, _, _, _, h => .ite (passSkipped h.publishCopy) h

theorem Kept.advanceCopy (h : Kept s t) {t' : Nat} {g : W32} : Kept s (Machine.advanceCopy t t' g) :=
  h.publishCopy.passSkipped

theorem Kept.writeRunAt (h : Kept s t) {ns : List Nat} {off : Nat} {bs : List Byte} : Kept s (Machine.writeRunAt t ns off bs) :=
  .foldl h (fun _ hu _ _ => hu.devWrite)

theorem Kept.settleRefresh (h : Kept s t) {t' : Nat} : Kept s (Machine.settleRefresh t t') := by
  unfold Machine.settleRefresh
  split; exacts [h, .ite h (.advanceCopy (by split; exacts [h.upd.writeRunAt, h.upd]))]

theorem Kept.refreshCopy (h : Kept s t) {t' : Nat} {n : W32} {w : Option (List Byte)} : Kept s (Machine.refreshCopy t t' n w) :=
  h.upd.settleRefresh

theorem Kept.settleRefreshes (h : Kept s t) : Kept s (Machine.settleRefreshes t) :=
  .foldl h (fun _ hu _ _ => hu.settleRefresh)

theorem Kept.skipStep (h : Kept s t) {p : Nat} {n : W32} : Kept s (Machine.skipStep t p n) :=
  .completeStep (.foldl (.foldl h (fun _ hu _ _ => hu.finishJob)) (fun _ hu _ _ => .ite hu.publishCopy hu.passSkipped))

theorem Kept.applyStep (h : Kept s t) {p : Nat} {n : W32} : Kept s (Machine.applyStep t p n) :=
  .foldl (((h.setReg (by simp)).fset (by simp)).finc (by simp)).updStep.upd (fun _ hu _ _ => hu.publishCopy)

theorem Kept.scaleStep (h : Kept s t) {p : Nat} {ovf : Bool} : Kept s (Machine.scaleStep t p ovf) := by
  unfold Machine.scaleStep
  extract_lets x clean s1 s1'
  have h1 : Kept s s1 := .ite (h.fset (by simp)) h
  have h1' : Kept s s1' := .ite (h.fset (by simp)) h
  exact .ite h (.ite (h1.setExp.fset (by simp)) (.ite (h1'.setExp.fset (by simp)) (h.fset (by simp))))

theorem Kept.recordLast (h : Kept s t) {p : Nat} {r : StepRec} : Kept s (Machine.recordLast t p r) := by
  unfold Machine.recordLast
  dsimp only; split; exacts [.fset (by split; exacts [(h.fset (by simp)), h]) (by simp), by split; exacts [(h.fset (by simp)), h]]

theorem Kept.showHold (h : Kept s t) {p : Nat} {n : W32} : Kept s (Machine.showHold t p n) :=
  h.setReg (by simp)

theorem Kept.holdStep (h : Kept s t) {p : Nat} {n : W32} {c : Nat} : Kept s (Machine.holdStep t p n c) :=
  .ite (h.finc (by simp)).updStep (h.finc (by simp)).updStep.showHold

theorem Kept.nextHold (h : Kept s t) {p : Nat} : Kept s (Machine.nextHold t p) := by
  unfold Machine.nextHold
  split; exacts [h, h.showHold]

theorem Kept.teasel (h : Kept s t) {p : Nat} {n : W32} : Kept s (Machine.teasel t p n) := by
  unfold Machine.teasel
  extract_lets c s1 s2
  have h1 : Kept s s1 := .ite (h.finc (by simp)) h
  have h2 : Kept s s2 := .ite (h1.finc (by simp)) h1
  exact .ite h2.holdStep h2.applyStep

theorem Kept.dropOldSteps (h : Kept s t) {p : Nat} {n : W32} : Kept s (Machine.dropOldSteps t p n) :=
  h.setLsc.upd

theorem Kept.decideStep (h : Kept s t) {p : Nat} {n : W32} {ovf : Bool} : Kept s (Machine.decideStep t p n ovf) := by
  unfold Machine.decideStep
  extract_lets x s1 s2 s3 s4 s5
  have h3 : Kept s s3 := (h.recordLast.updStep.scaleStep.fset (by simp)).fset (by simp)
  have h5 : Kept s s5 := h3.publishScale.upd.dropOldSteps
  exact .ite (h5.finc (by simp)).updStep.skipStep (.ite h5.updStep.skipStep h5.teasel)

theorem Answers.execLsDecide (h : Kept s t) {p : Part} : Answers s (Machine.execLsDecide p t) := by
  unfold Machine.execLsDecide
  split; exacts [.next h, .ite (.next (h.setLsc.finc (by simp))) (.ite (.next h) (.next h.setLsc.decideStep))]

theorem Answers.execVerdictExchange (h : Kept s t) {p : Part} {others : List (Nat × W32)} : Answers s (Machine.execVerdictExchange p others t) :=
  .ite (.next h) (.next h.updStep.emit)

theorem Kept.writeHold (h : Kept s t) {p v : Nat} : Kept s (Machine.writeHold t p v) := by
  refine .ite h ?_
  refine .ite ((h.fset (by simp)).finc (by simp)).updStep.skipStep.nextHold ?_
  exact .ite (.ite (h.fset (by simp)).updStep.skipStep.nextHold (h.fset (by simp)).applyStep.nextHold) h

theorem Answers.execTnHoldApply (h : Kept s t) {p : Part} {v : W64} : Answers s (Machine.execTnHoldApply p v t) :=
  .hostWide h (fun _ hu => hu.writeHold)

theorem Answers.execTnHoldDiscard (h : Kept s t) {p : Part} {v : W64} : Answers s (Machine.execTnHoldDiscard p v t) :=
  .hostWide h (fun _ hu => hu.writeHold)

theorem Kept.stopJob (h : Kept s t) {j : UpdJob} {st : Stop} : Kept s (Machine.stopJob t j st) := by
  unfold Machine.stopJob
  dsimp only; split; exacts [h.upd.stopEntry, h.upd]

theorem Kept.lateOvf (h : Kept s t) {j : UpdJob} {n : Nat} : Kept s (Machine.lateOvf t j n) :=
  .ite h h.ovfTable.flagOverflow

theorem put_s (x : Eng) (j d : Nat) (nanin : Bool) (v : R32v) : (x.put j d nanin v).s = x.s := by
  unfold Eng.put
  split <;> rfl

/-- What a program's engine writes stays within what `Kept` says. -/
theorem Kept.ins {x : Eng} (h : Kept s x.s) {job : UpdJob} {s0 : State} {i j w : Nat} : Kept s (x.ins job s0 i j w).s := by
  have hp : ∀ {y : Eng}, y.s = x.s → Kept s y.s := fun hy => hy ▸ h
  unfold Eng.ins
  dsimp only
  split
  case h_1 => split <;> exact hp (put_s ..)
  case h_2 => split; exacts [h.streamWrite, by split <;> exact h.streamWrite]
  case h_18 => exact hp ((apply_ite Eng.s _ _ _).trans (ite_self _))
  case h_20 => exact h
  all_goals exact hp (put_s ..)

theorem Kept.element {x : Eng} (h : Kept s x.s) {job : UpdJob} {s0 : State} {lo hi i : Nat} : Kept s (x.element job s0 lo hi i).s := by
  unfold Eng.element
  split
  · exact h
  · dsimp only
    split
    · exact h
    · refine List.foldlRecOn (motive := fun y : Eng => Kept s y.s) _ _ h fun y hy p _ => ?_
      split; exacts [hy, hy.ins]

theorem Kept.pass {x : Eng} (h : Kept s x.s) {job : UpdJob} {s0 : State} {lo hi : Nat} : Kept s (x.pass job s0 lo hi).s :=
  List.foldlRecOn (motive := fun y : Eng => Kept s y.s) _ _ h fun _ hy _ _ => hy.element

theorem Kept.runProgram (h : Kept s t) {j : UpdJob} : Kept s (Machine.runProgram t j).s := by
  unfold Machine.runProgram
  have h0 : Kept s (Eng.init t).s := h
  dsimp only
  split
  · exact h0.pass
  · exact Kept.pass (x := Eng.finalise _) h0.pass

theorem Kept.runJob (h : Kept s t) {n : Nat} {j : UpdJob} : Kept s (Machine.runJob t n j) := by
  unfold Machine.runJob
  split
  · exact h.finishJob.completeStep
  split
  · exact h.stopJob
  split
  · exact h.upd.report
  have hx := h.runProgram (j := j)
  dsimp only
  split
  · exact .stopJob (.ite ((hx.lateOvf.charge (Fin.isLt _))) ((hx.lateOvf.charge (Fin.isLt _))).startRestore)
  · exact ((hx.lateOvf.charge (Fin.isLt _))).upd

theorem Answers.execUpdRun (h : Kept s t) {n : Quad} : Answers s (Machine.execUpdRun n t) :=
  .ite (.next h) (by dsimp only; split; exacts [.next h, by split; exacts [.next (.ite h h.runJob.notePeak), .next h]])

theorem Kept.rememberRan (h : Kept s t) {j : UpdJob} : Kept s (Machine.rememberRan t j) := h.same rfl rfl rfl rfl

theorem Answers.execUpdComplete (h : Kept s t) {n : Quad} : Answers s (Machine.execUpdComplete n t) := by
  unfold Machine.execUpdComplete
  split; exacts [.next h, .next h.addUpdNorms.lateOvf.upd.rememberRan.finishJob.completeStep]

theorem Kept.sendMirror (h : Kept s t) {t' : Tag} {m : Mirror} : Kept s (Machine.sendMirror t t' m) :=
  h.drawWord.emit

theorem Kept.setStage (h : Kept s t) {x : Stage12} : Kept s (Machine.setStage t x) := h.same rfl rfl rfl rfl

theorem Kept.takeMirror (h : Kept s t) {tag : Tag} {m : Mirror} : Kept s (Machine.takeMirror t tag m).2 :=
  Kept.same (h.foldl fun _ hu _ _ => hu.foldl fun _ hu _ _ => hu.normSet) rfl rfl rfl rfl

theorem Kept.takeKept (h : Kept s t) {tag : Tag} {m : Mirror} : Kept s (Machine.takeKept t tag m) :=
  .ite h.takeMirror.emit h

theorem Answers.execMirrorSend (h : Kept s t) {tag : Tag} {arrives : Option Mirror} : Answers s (Machine.execMirrorSend tag arrives t) := by
  refine .ite (.next h) ?_
  split
  · refine .next ?_
    split
    · exact h.takeKept
    · exact h
  · refine .ite (.next h) ?_
    split
    · exact .ite (.next h) (.next h.setStage.sendMirror.emit)
    · exact .ite (.next h) (.next h.takeMirror.upd.emit)
    · exact .next h

theorem Kept.digestEvent (h : Kept s t) {tag : Tag} {n : W32} {own peer : W64} {engine : Nat} :
    Kept s (Machine.digestEvent t tag n own peer engine) :=
  h.upd.report

theorem Answers.execDigestExchange (h : Kept s t) {tag : Tag} {peer : W64} : Answers s (Machine.execDigestExchange tag peer t) := by
  unfold Machine.execDigestExchange
  split
  · exact .next h
  · exact .ite (.next (.completeStep (.ite h.setStage.refreshCopy.emit h.setStage.refreshCopy))) (.next h.setStage.digestEvent.completeStep)

theorem Kept.writeMirror (h : Kept s t) {tag : Tag} {m : Mirror} : Kept s (Machine.writeMirror t tag m) := by
  refine .foldl h ?_
  refine fun _ hu _ _ => .foldl (.foldl hu (fun _ hu2 _ _ => .ite (by split; exacts [(hu2.hostWrite (Fin.isLt _)), .ite hu2.devWrite hu2,
    hu2]) hu2)) (fun _ hu2 _ _ => ?_)
  exact hu2.normSet

theorem Kept.takeRestore (h : Kept s t) {tag : Tag} {mir : Mirror} {peer : W64} : Kept s (Machine.takeRestore t tag mir peer) :=
  .ite h.writeMirror.emit.updDesc.refreshCopy.emit h.writeMirror.emit.digestEvent

theorem Kept.answerRestore (h : Kept s t) {tag : Tag} : Kept s (Machine.answerRestore t tag) := by
  unfold Machine.answerRestore
  split; exacts [h, h.upd.sendMirror]

theorem Kept.compareRestore (h : Kept s t) {tag : Tag} {own : W64} : Kept s (Machine.compareRestore t tag own) := by
  unfold Machine.compareRestore
  split; exacts [h, .ite h.emit.refreshCopy h.emit.digestEvent]

theorem Answers.execAdapterRestore (h : Kept s t) {tag : Tag} {ev : RestoreEv} : Answers s (Machine.execAdapterRestore tag ev t) :=
  .ite (.next h) (by split; exacts [.next (.ite h.takeRestore h), .next (.ite h.answerRestore h), .next (.ite h.compareRestore h)])

theorem Answers.execWorkingCopyRefresh (h : Kept s t) {tag : Tag} {n : W32} {w : Option (List Byte)} :
    Answers s (Machine.execWorkingCopyRefresh tag n w t) :=
  .ite (.next h) (.next h.refreshCopy)

end Sys2Proof.Proofs

end

section
/-! PROOFS. What the collective engines and their streams keep. -/

namespace Sys2Proof.Proofs
open Sys2Proof.Machine

variable {s t u : State}

theorem Kept.noteArrivals (h : Kept s t) {g : Nat} {heard : List (Nat × Nat × Nat)} : Kept s (Machine.noteArrivals t g heard) :=
  h.fset (by simp)

theorem Kept.sampleFlag (h : Kept s t) {h' : Nat} : Kept s (Machine.sampleFlag t h') :=
  .ite h (.ite h.setStream (.ite (h.setStream.fset (by simp)).updStep h.setStream))

theorem Kept.drawSeq (h : Kept s t) {n : Nat} : Kept s (Machine.drawSeq t n).2 := h.same rfl rfl rfl rfl

theorem Kept.engineSend (h : Kept s t) {x : Sent} : Kept s (Machine.engineSend t x) :=
  (h.drawWord.charge (Fin.isLt _)).transmit

theorem Kept.tickEngines (h : Kept s t) : Kept s (Machine.tickEngines t) := by
  unfold Machine.tickEngines
  split; exacts [h, by split; exacts [.ite h.engineSend.notePeak h, h]]

theorem Kept.sendEngine (h : Kept s t) {h' dst rtag tfmt ord : Nat} {data : List Byte} : Kept s (Machine.sendEngine t h' dst rtag tfmt ord data) :=
  .ite h.drawSeq.upd.engineSend h.drawSeq.raiseV.upd

theorem Kept.sendHeader (h : Kept s t) {h' : Nat} {f : Xfer} : Kept s (Machine.sendHeader t h' f) :=
  h.sampleFlag.setStream.sendEngine

theorem Kept.sendPart (h : Kept s t) {h' : Nat} {f : Xfer} {t' : Nat} {vs : List W32} : Kept s (Machine.sendPart t h' f t' vs) :=
  .sendEngine (.setStream (.ite h h.sendHeader))

theorem Kept.sendXfer (h : Kept s t) {h' n : Nat} {mine : List Nat} {out : List Xfer} {f : Xfer} : Kept s (Machine.sendXfer t h' n mine out f) :=
  .ite h (.ite (.ite h h.sendHeader) (.notePeak (.foldl h (fun _ hu _ _ => .ite hu (by split; exacts [hu.sendPart, hu])))))

theorem Kept.stopSenders (h : Kept s t) {h' : Nat} {st : Stop} : Kept s (Machine.stopSenders t h' st) :=
  .foldl h (fun _ hu _ _ => hu.stopKey)

theorem Kept.endStream (h : Kept s t) {x status : Nat} {st : Stop} : Kept s (Machine.endStream t x status st) := by
  refine .ite h ?_
  split; exacts [(h.setStream.finc (by simp)).stopSenders.completeOp, (h.setStream.finc (by simp)).stopSenders]

theorem Kept.abortStream (h : Kept s t) {h' status : Nat} {st : Stop} : Kept s (Machine.abortStream t h' status st) :=
  .ite h h.upd.endStream

theorem Kept.engineOvf (h : Kept s t) {x : Stream} {n : Nat} : Kept s (Machine.engineOvf t x n) :=
  .ite h h.ovfTable.flagOverflow

theorem Kept.advance (h : Kept s t) {h' : Nat} : Kept s (Machine.advance t h') :=
  .ite h (.ite h.setStream.engineOvf.abortStream (.foldl h.setStream.engineOvf (fun _ hu _ _ => hu.sendXfer)))

theorem Kept.cfgMismatch (h : Kept s t) {h' g : Nat} : Kept s (Machine.cfgMismatch t h' g) :=
  h.report

theorem Kept.mismatch (h : Kept s t) {h' : Nat} : Kept s (Machine.mismatch t h') :=
  (h.endStream.finc (by simp)).cfgMismatch

theorem Kept.takeHeader (h : Kept s t) {h' : Nat} {m : HeaderMsg} : Kept s (Machine.takeHeader t h' m) :=
  .ite h (.ite h.mismatch (.advance (.ite h.setStream.noteArrivals h.setStream)))

theorem Answers.execHeaderTile (h : Kept s t) {h' : Handle} {m : HeaderMsg} : Answers s (Machine.execHeaderTile h' m t) :=
  .next h.takeHeader

theorem Kept.takeShard (h : Kept s t) {h' : Nat} {m : ShardMsg} : Kept s (Machine.takeShard t h' m) :=
  .ite h (by split; exacts [h, h.setStream.advance])

theorem Answers.execEngineShardArrival (h : Kept s t) {h' : Handle} {m : ShardMsg} : Answers s (Machine.execEngineShardArrival h' m t) :=
  .next h.takeShard

theorem Kept.takeContribution (h : Kept s t) {x : Nat} {m : TileMsg} : Kept s (Machine.takeContribution t x m).1 := by
  unfold Machine.takeContribution
  dsimp only
  split_ifs
  all_goals first | exact h | exact h.setStream.advance

theorem Answers.execContributionArrival (h : Kept s t) {x : Handle} {m : TileMsg} : Answers s (Machine.execContributionArrival x m t) := by
  have hk := h.takeContribution (x := x) (m := m)
  unfold Machine.execContributionArrival
  split
  case h_1 hx => rw [hx] at hk; exact .next hk
  case h_2 hx => rw [hx] at hk; exact .next (.emit (.ite hk.noteRefusal hk))

theorem Kept.activate (h : Kept s t) {h' : Nat} : Kept s (Machine.activate t h') :=
  .advance (.setStream (.ite h.noteArrivals h))

theorem Answers.execStreamOpen (h : Kept s t) {i : Inst} {r : RingId} {q : W32} : Answers s (Machine.execStreamOpen i r q t) := by
  refine .withOp h (fun _ => ?_)
  refine .ite h (.ite h.malformedOp (.ite h.refuseOp (.ite h.refuseOp (.ite h.refuseOp ?_))))
  split
  · exact .ite h.setOp.setStream.activate h.setOp.setStream
  · exact h.accessOp

theorem Answers.execStreamClose (h : Kept s t) {i : Inst} {r : RingId} {q : W32} : Answers s (Machine.execStreamClose i r q t) :=
  .withOp h (fun _ => .ite h.malformedOp (.ite h.refuseOp (.ite h.refuseOp h.setStream.completeOp)))

theorem Answers.execCast (h : Kept s t) {h' : Handle} : Answers s (Machine.execCast h' t) :=
  .ite (.next h.activate) (.next h)

theorem actor_lt (x : Stream) : x.actor < 16 := by
  unfold Stream.actor
  split
  · exact x.inst.isLt
  · cases x.opener with
    | none => exact x.inst.isLt
    | some o => exact o.inst.isLt

theorem Kept.writeResult (h : Kept s t) {x : Stream} {bs : List Byte} : Kept s (Machine.writeResult t x bs) := by
  unfold Machine.writeResult
  split; exacts [h.hostWrite (actor_lt x), h.hostWrite (actor_lt x), h.devWrite, h]

theorem Kept.streamNorm (h : Kept s t) {x : Stream} : Kept s (Machine.streamNorm t x) := by
  unfold Machine.streamNorm
  dsimp only
  refine .ite h (.ite (.ite ?_ h) (h.foldl fun _ hu _ _ => ?_))
  · exact h.addGsq.engineOvf
  · exact hu.addGsq.engineOvf.addSlotGsq

theorem Kept.streamLoss (h : Kept s t) {x : Stream} : Kept s (Machine.streamLoss t x) :=
  .ite h.updStep h

theorem Kept.streamClose (h : Kept s t) {x : Stream} : Kept s (Machine.streamClose t x) :=
  .ite h.setLsc h

theorem Kept.streamClean (h : Kept s t) {x : Stream} : Kept s (Machine.streamClean t x) :=
  .ite h.updDesc h

theorem Kept.finishStream (h : Kept s t) {h' : Nat} {bs : List Byte} : Kept s (Machine.finishStream t h' bs) := by
  unfold Machine.finishStream
  dsimp only
  split
  · exact .completeOp (.finc (.setStream (.streamClose (.streamClean (.streamLoss (.streamNorm (.writeResult (.ite h.sampleFlag h))))))) (by simp))
  · exact .finc (.setStream (.streamClose (.streamClean (.streamLoss (.streamNorm (.writeResult (.ite h.sampleFlag h))))))) (by simp)

theorem Answers.execStreamDone (h : Kept s t) {h' : Handle} : Answers s (Machine.execStreamDone h' t) :=
  .ite (.next h) (.ite (.next h.abortStream) (by split; exacts [.next h.finishStream, .next h.countViol.abortStream, .next h.abortStream]))

end Sys2Proof.Proofs

end

section
/-! PROOFS. What groups and membership changes keep. -/

namespace Sys2Proof.Proofs
open Sys2Proof.Machine

variable {s t u : State}

theorem Kept.setGState (h : Kept s t) {g : Nat} {x : GState} : Kept s (Machine.setGState t g x) :=
  (h.setGrp.fset (by simp)).fset (by simp)

theorem Kept.writeGrpcfg (h : Kept s t) {g v : Nat} : Kept s (Machine.writeGrpcfg t g v) :=
  h.regWritePlain.fset (by simp)

theorem Kept.moveContexts (h : Kept s t) {g frm nxt : Nat} : Kept s (Machine.moveContexts t g frm nxt) := h.same rfl rfl rfl rfl

theorem Kept.resumeRcvs (h : Kept s t) {g : Nat} {began : W64} : Kept s (Machine.resumeRcvs t g began) := h.same rfl rfl rfl rfl

theorem Kept.restamp (h : Kept s t) {began : W64} {x : Sent} : Kept s (Machine.restamp began t x) :=
  .ite h (.foldl (h.setSent.finc (by simp)) (fun _ hu _ _ => hu.sendShard))

theorem Kept.noteAhead (h : Kept s t) {g e : Nat} : Kept s (Machine.noteAhead t g e) :=
  h.setGrp

theorem Kept.installEpoch (h : Kept s t) {g e : Nat} {st : Stop} : Kept s (Machine.installEpoch t g e st) := by
  unfold Machine.installEpoch
  extract_lets v ms mine stay gone live items s1 s2 s3 began mine' s4
  have h1 : Kept s s1 := .fset (.setGState (.foldl h fun _ hu _ _ => hu.abortStream)) (by simp)
  have h3 : Kept s s3 := .foldl h1.upd fun _ hu _ _ => hu.stopKey
  exact .foldl h3.resumeRcvs.dropAsmOf.setGrp fun _ hu _ _ => hu.restamp

theorem Kept.dropAsm (h : Kept s t) {g : Nat} : Kept s (Machine.dropAsm t g) := h.same rfl rfl rfl rfl

theorem Kept.barSend (h : Kept s t) {g op : Nat} {digest : Option W64} : Kept s (Machine.barSend t g op digest) :=
  .foldl h (fun _ hu _ _ => .ite hu hu.setGrp.emit)

theorem Kept.barStart (h : Kept s t) {g op : Nat} {digest : Option W64} : Kept s (Machine.barStart t g op digest) :=
  h.setGrp.noteArrivals.barSend

theorem Kept.barTake (h : Kept s t) {g op : Nat} {digest : Option W64} {ms : List HeaderMsg} : Kept s (Machine.barTake t g op digest ms) :=
  .foldl h (fun _ hu _ _ => hu.setGrp.noteArrivals.barSend)

theorem Kept.startReset (h : Kept s t) {g : Nat} : Kept s (Machine.startReset t g) :=
  h.setGState.moveContexts.setGrp.barStart

theorem Kept.formGroup (h : Kept s t) {g : Nat} : Kept s (Machine.formGroup t g) :=
  .ite h.installEpoch.startReset h.installEpoch

theorem Answers.execGroupForm (h : Kept s t) {g : Part} {v : W64} {heard : List HeaderMsg} : Answers s (Machine.execGroupForm g v heard t) := by
  refine .hostWide h (fun _ hu => ?_)
  refine .ite hu.writeGrpcfg ?_
  exact .ite hu.writeGrpcfg.barStart.setGState.cfgMismatch (.ite hu.writeGrpcfg.barStart.barTake.formGroup hu.writeGrpcfg.barStart.barTake)

theorem Kept.requestReset (h : Kept s t) {g v : Nat} : Kept s (Machine.requestReset t g v) := by
  unfold Machine.requestReset
  dsimp only; split; exacts [h.writeGrpcfg.startReset, h.writeGrpcfg.setGrp, h.writeGrpcfg.setGrp, h.writeGrpcfg]

theorem Answers.execGroupReset (h : Kept s t) {g : Part} {v : W64} : Answers s (Machine.execGroupReset g v t) :=
  .hostWide h (fun _ hu => hu.requestReset)

theorem Kept.applyReset (h : Kept s t) {g : Part} : Kept s (Machine.applyReset t g) :=
  .installEpoch (.dropAsm (.foldl (.foldl h (fun _ hu _ _ => hu.abortStream)) (fun _ hu _ _ => hu.stopKey)))

theorem Answers.execGroupResetApply (h : Kept s t) {g : Part} {heard : List HeaderMsg} : Answers s (Machine.execGroupResetApply g heard t) :=
  .ite (.next h) (.next (.ite (.applyReset (.barTake (.ite h.startReset h))) (.barTake (.ite h.startReset h))))

theorem Kept.addSuspects (h : Kept s t) {g a : Nat} {bs : List Nat} : Kept s (Machine.addSuspects t g a bs) :=
  h.setGrp

theorem Kept.writeMap (h : Kept s t) {g : Nat} {out : List Nat} : Kept s (Machine.writeMap t g out) :=
  h.writes rfl rfl fun hm => ⟨Memory.wf_write _ _ hm.1, hm.2⟩

theorem Kept.castMemb (h : Kept s t) {g typ coord : Nat} {out recs : List Nat} : Kept s (Machine.castMemb t g typ coord out recs) :=
  .foldl h (fun _ hu _ _ => hu.sendMemb)

theorem Kept.enterChanging (h : Kept s t) {g : Nat} : Kept s (Machine.enterChanging t g) :=
  .ite h h.setGState.moveContexts.setGrp

theorem Kept.setCoord (h : Kept s t) {g c : Nat} : Kept s (Machine.setCoord t g c) :=
  h.setGrp.fset (by simp)

theorem Kept.setPartner (h : Kept s t) {g t' m : Nat} : Kept s (Machine.setPartner t g t' m) := by
  unfold Machine.setPartner
  split; exacts [h.updDesc, h]

theorem Kept.rebuildStage (h : Kept s t) {g : Part} {t' : Nat} {n : W32} : Kept s (Machine.rebuildStage t g t' n) := h.same rfl rfl rfl rfl

theorem Kept.restoreLost (h : Kept s t) {t' : Nat} {n : W32} : Kept s (Machine.restoreLost t t' n) :=
  h.report

theorem Kept.logMirror (h : Kept s t) {g : Part} {t' : Nat} : Kept s (Machine.logMirror t g t') := by
  unfold Machine.logMirror
  split; exacts [h.upd, h]

theorem Kept.rebuildOwner (h : Kept s t) {g : Part} {t' : Nat} {promoted : Bool} : Kept s (Machine.rebuildOwner t g t' promoted) :=
  .ite h.logMirror.rebuildStage (.ite h.restoreLost h.rebuildStage)

theorem Kept.rewriteRole (h : Kept s t) {g : Part} {ms ns out : List Nat} {t' : Nat} : Kept s (Machine.rewriteRole t g ms ns out t') :=
  .ite h (.ite h.updDesc.setPartner.rebuildOwner (.ite h.setPartner.updDesc.rebuildStage h.setPartner))

theorem Kept.rewriteRoles (h : Kept s t) {g : Part} {ms ns out : List Nat} : Kept s (Machine.rewriteRoles t g ms ns out) :=
  .foldl h (fun _ hu _ _ => hu.rewriteRole)

theorem Kept.leaveGroup (h : Kept s t) {g : Part} : Kept s (Machine.leaveGroup t g) :=
  .report (.setGState (.foldl (.dropAsm (.foldl h.upd (fun _ hu _ _ => hu.stopKey))) (fun _ hu _ _ => hu.abortStream)))

theorem Kept.applyCommit (h : Kept s t) {g : Part} {coord : Nat} {out : List Nat} : Kept s (Machine.applyCommit t g coord out) := by
  unfold Machine.applyCommit
  extract_lets ms ns began reset s1 held s3 ms' s4
  have h1 : Kept s s1 := h.writeMap.setCoord
  have h4 : Kept s s4 := ((h1.installEpoch.finc (by simp)).fset (by simp)).rewriteRoles.askAgain
  exact .ite h1.leaveGroup (.ite h4.startReset h4)

theorem Kept.decideChange (h : Kept s t) {g : Part} : Kept s (Machine.decideChange t g) := by
  unfold Machine.decideChange
  dsimp only; split; exacts [h.setGState, h.castMemb.applyCommit]

theorem Kept.decideIfAll (h : Kept s t) {g : Part} : Kept s (Machine.decideIfAll t g) :=
  .ite h.decideChange h

theorem Kept.coordinate (h : Kept s t) {g : Part} : Kept s (Machine.coordinate t g) :=
  h.enterChanging.setCoord.setGrp.castMemb.decideIfAll

theorem Kept.openChange (h : Kept s t) {g : Part} : Kept s (Machine.openChange t g) :=
  .ite h.enterChanging.coordinate h.enterChanging.setCoord.sendNotice

theorem Kept.sendVote (h : Kept s t) {g : Part} {c : Nat} : Kept s (Machine.sendVote t g c) :=
  h.sendMemb

theorem Kept.declare (h : Kept s t) {g : Part} {m : Nat} : Kept s (Machine.declare t g m) := by
  unfold Machine.declare
  extract_lets s1 s2 s3 c
  have h3 : Kept s s3 := (((h.fset (by simp)).fset (by simp)).finc (by simp)).report.addSuspects
  exact .ite h (.ite (.ite h3.decideIfAll h3.sendVote) h3.openChange)

theorem Kept.lateSuspects (h : Kept s t) {m : Memb} : Kept s (Machine.lateSuspects t m) :=
  .ite h.addSuspects.coordinate h

theorem Kept.withMemb (h : Kept s t) {typ : Nat} {pl : List Byte} {f : Memb → State} (hf : ∀ m, Kept s (f m)) :
    Kept s (Machine.withMemb typ pl t f) := by
  unfold Machine.withMemb
  split
  · exact .ite h (.ite (hf _) (.ite h.noteAhead h.lateSuspects))
  · exact h

theorem Kept.takeNotice (h : Kept s t) {pl : List Byte} : Kept s (Machine.takeNotice pl t) := by
  refine h.withMemb (fun _ => ?_)
  dsimp only
  split
  · exact .ite h.addSuspects.decideIfAll h.addSuspects.coordinate
  · exact h.addSuspects
  · exact h.addSuspects.coordinate

theorem Kept.takeChange (h : Kept s t) {pl : List Byte} : Kept s (Machine.takeChange pl t) :=
  h.withMemb (fun _ => h.enterChanging.setCoord.castMemb.sendVote)

theorem Kept.takeVote (h : Kept s t) {pl : List Byte} : Kept s (Machine.takeVote pl t) :=
  h.withMemb (fun _ => .ite h h.addSuspects.setGrp.decideIfAll)

theorem Answers.execVoteWindowExpiry (h : Kept s t) {g : Part} : Answers s (Machine.execVoteWindowExpiry g t) :=
  .ite (.next h.decideChange) (.next h)

theorem Kept.takeCommit (h : Kept s t) {pl : List Byte} : Kept s (Machine.takeCommit pl t) :=
  h.withMemb (fun _ => .ite h.castMemb.applyCommit.openChange h.castMemb.applyCommit)

theorem Kept.takeTakeover (h : Kept s t) {pl : List Byte} : Kept s (Machine.takeTakeover pl t) :=
  h.withMemb (fun _ => h.enterChanging.addSuspects.setGrp.setCoord.castMemb)

theorem Answers.execTakeoverTimeout (h : Kept s t) {g : Part} : Answers s (Machine.execTakeoverTimeout g t) :=
  .ite (.next h) (.ite (.next h.addSuspects.setCoord.castMemb.coordinate) (.next h.addSuspects.setCoord))

end Sys2Proof.Proofs

end

section
/-! PROOFS. What FLP keeps. -/

namespace Sys2Proof.Proofs
open Sys2Proof.Machine

variable {s t u : State}

theorem Kept.attemptShard (h : Kept s t) {x : Sent} {i : Nat} : Kept s (Machine.attemptShard t x i) := by
  unfold Machine.attemptShard
  split; exacts [h, .ite h (.ite h.declare (h.setSent.finc (by simp)).sendShard)]

theorem Kept.attemptShards (h : Kept s t) {x : Sent} {is : List Nat} : Kept s (Machine.attemptShards t x is) :=
  .foldl h (fun _ hu _ _ => by split; exacts [hu.attemptShard, hu])

theorem Kept.refuseSent (h : Kept s t) {x : Sent} : Kept s (Machine.refuseSent t x) :=
  h.setSent

theorem Kept.endRetention (h : Kept s t) {x : Sent} : Kept s (Machine.endRetention t x) :=
  .ite h.upd h.acknowledge

theorem Kept.reportRecord (h : Kept s t) {r : Nat} : Kept s (Machine.reportRecord t r) := by
  unfold Machine.reportRecord
  obtain ⟨seq, home, engine, shard, all, code⟩ := recFields r
  dsimp only
  split
  · exact h
  · split; exacts [h.endRetention, h.endRetention, h.endRetention, h.attemptShards, h.attemptShards, h.refuseSent]

theorem Kept.reqRecord (h : Kept s t) {r : Nat} : Kept s (Machine.reqRecord t r) := by
  unfold Machine.reqRecord
  obtain ⟨seq, home, engine, shard, all, code⟩ := recFields r
  dsimp only
  split; exacts [h, h.attemptShards]

theorem Kept.signalAhead (h : Kept s t) {h' : FHdr} : Kept s (Machine.signalAhead t h') :=
  .ite h.noteAhead h

theorem Kept.countRefusal (h : Kept s t) {code : Nat} : Kept s (Machine.countRefusal t code) := by
  unfold Machine.countRefusal
  split; exacts [(h.finc (by simp)), (h.finc (by simp)), (h.finc (by simp)), h]

theorem Kept.answerData (h : Kept s t) {h' : FHdr} {shard : Nat} {all : Bool} {code : Nat} : Kept s (Machine.answerData t h' shard all code) :=
  h.countRefusal.answer

theorem Kept.offerTile {m : TileMsg} : ∀ {ks : List Nat} {t : State}, Kept s t → Kept s (Machine.offerTile m ks t).1
  | [], _, h => h
  | _ :: ks, _, h => by
    unfold Machine.offerTile
    dsimp only
    split_ifs
    exacts [h.offerTile, h.receive]

theorem Kept.noteCame (h : Kept s t) {h' : Nat} {m : TileMsg} {p : Option (Nat × Nat × Nat)} : Kept s (Machine.noteCame t h' m p) :=
  h.setStream

theorem Kept.takeEngine (h : Kept s t) {h' : Nat} {m : TileMsg} : Kept s (Machine.takeEngine t h' m) :=
  .ite (by dsimp only; split; exacts [.ite h.mismatch h, h.noteCame.takeHeader]) (by dsimp only; split; exacts [h, h.noteCame.takeShard])

theorem Kept.deliverTile (h : Kept s t) {x : FHdr} {data : List Byte} : Kept s (Machine.deliverTile t x data).1 := by
  unfold Machine.deliverTile
  dsimp only
  split
  · split; exacts [h, h.takeEngine]
  · exact h.offerTile

theorem Kept.completeTile (h : Kept s t) {h' : FHdr} {data sl : List Byte} : Kept s (Machine.completeTile t h' data sl) := by
  unfold Machine.completeTile
  split; exacts [h.answerData, by dsimp only; split; exacts [(h.finc (by simp)).answerData, h.deliverTile.answerData]]

theorem Kept.assemble (h : Kept s t) {quad : Nat} {h' : FHdr} {pl sl : List Byte} : Kept s (Machine.assemble t quad h' pl sl) := by
  refine .ite (h.finc (by simp)) ?_
  dsimp only
  split
  · exact .ite h.completeTile (.ite h.answerData h.upd)
  · split
    · exact h
    · exact .ite (h.finc (by simp)) (.ite h.upd h.upd.completeTile)

theorem Kept.dataIn (h : Kept s t) {quad : Nat} {h' : FHdr} {pl sl : List Byte} : Kept s (Machine.dataIn t quad h' pl sl) :=
  .ite h.answerData (.ite h.signalAhead.answerData (.ite h.answerData h.assemble))

theorem Kept.membIn (h : Kept s t) {pl : List Byte} : Kept s (Machine.membIn t pl) :=
  .ite (h.finc (by simp)) (by split; exacts [h.takeNotice, h.takeChange, h.takeVote, h.takeCommit, h.takeTakeover, (h.finc (by simp))])

theorem Kept.packetIn (h : Kept s t) {p : Nat} {pkt : List Byte} : Kept s (Machine.packetIn t p pkt) := by
  refine .ite h (.ite ?_ ?_)
  · dsimp only
    split
    · exact .ite (h.finc (by simp)).answerData (h.finc (by simp))
    · exact (h.finc (by simp))
  · split
    · exact (h.finc (by simp))
    · refine .ite h ?_
      split
      · exact h.dataIn
      · split
        · exact .foldl h (fun _ hu _ _ => hu.reportRecord)
        · exact (h.finc (by simp))
      · split
        · exact .ite (h.finc (by simp)) (.foldl h (fun _ hu _ _ => hu.reqRecord))
        · exact (h.finc (by simp))
      · exact h.membIn

theorem Kept.torusIn (h : Kept s t) {typ : Nat} {p : Port} {pkt : List Byte} : Kept s (Machine.torusIn typ p pkt t) :=
  .ite h.packetIn h

theorem Answers.execDataShard (h : Kept s t) {p : Port} {pkt : List Byte} : Answers s (Machine.execDataShard p pkt t) :=
  .next h.torusIn

theorem Answers.execReport (h : Kept s t) {p : Port} {pkt : List Byte} : Answers s (Machine.execReport p pkt t) :=
  .next h.torusIn

theorem Answers.execReq (h : Kept s t) {p : Port} {pkt : List Byte} : Answers s (Machine.execReq p pkt t) :=
  .next h.torusIn

theorem Kept.membCmd (h : Kept s t) {mt : Nat} {p : Port} {pkt : List Byte} : Kept s (Machine.membCmd mt p pkt t) :=
  .ite h.torusIn h

theorem Answers.execNotice (h : Kept s t) {p : Port} {pkt : List Byte} : Answers s (Machine.execNotice p pkt t) :=
  .next h.membCmd

theorem Answers.execChange (h : Kept s t) {p : Port} {pkt : List Byte} : Answers s (Machine.execChange p pkt t) :=
  .next h.membCmd

theorem Answers.execVote (h : Kept s t) {p : Port} {pkt : List Byte} : Answers s (Machine.execVote p pkt t) :=
  .next h.membCmd

theorem Answers.execCommit (h : Kept s t) {p : Port} {pkt : List Byte} : Answers s (Machine.execCommit p pkt t) :=
  .next h.membCmd

theorem Answers.execTakeover (h : Kept s t) {p : Port} {pkt : List Byte} : Answers s (Machine.execTakeover p pkt t) :=
  .next h.membCmd

theorem Answers.execShardResendTimeout (h : Kept s t) {home : BitVec 3} {engine : Bool} {seq : BitVec 48} {shard : BitVec 2} :
    Answers s (Machine.execShardResendTimeout home engine seq shard t) := by
  unfold Machine.execShardResendTimeout
  split; exacts [.next h, by split; exacts [.next h, .next (.ite h.attemptShard h)]]

theorem Kept.sendReq (h : Kept s t) {h' : FHdr} {missing : List Nat} : Kept s (Machine.sendReq t h' missing) :=
  h.sendPkt

theorem Answers.execReqTimeout (h : Kept s t) {srcMod : BitVec 19} {home : BitVec 3} {engine : Bool} {seq : BitVec 48} :
    Answers s (Machine.execReqTimeout srcMod home engine seq t) := by
  unfold Machine.execReqTimeout
  dsimp only; split; exacts [.next h, by split; exacts [.next h, .ite (.next h) (.ite (.next h.declare) (.next (h.upd.finc (by simp)).sendReq))]]

theorem Answers.execPacketForward (h : Kept s t) {p : Port} {pkt : List Byte} {fecBad : Bool} :
    Answers s (Machine.execPacketForward p pkt fecBad t) := by
  unfold Machine.execPacketForward
  dsimp only
  split
  · exact .next (.ite (h.finc (by simp)) h)
  · refine .ite (.next (.ite (h.finc (by simp)) h)) ?_
    split
    · exact .next (.sendOn (.ite (h.finc (by simp)) h))
    · exact .next (.ite (.answer (.ite (h.finc (by simp)) h)) (.ite (h.finc (by simp)) h))

theorem Kept.macsecIn (h : Kept s t) {r : Nat} {f : RailFrame} (hu : Machine.macsecIn t r f = some u) : Kept s u := by
  simp only [Machine.macsecIn] at hu
  split at hu
  · cases hu
  · split_ifs at hu
    cases hu
    exact h.upd

theorem Answers.execRailFrame (h : Kept s t) {r : Rail} {f : RailFrame} : Answers s (Machine.execRailFrame r f t) :=
  .ite (.next h) (by split; exacts [.next (h.finc (by simp)), .ite (.next (h.macsecIn ‹_›)) (.next ((h.macsecIn ‹_›).packetIn))])

theorem Kept.resendHistory (h : Kept s t) {pkts : List (List Byte)} {q : Nat} : Kept s (Machine.resendHistory t pkts q) :=
  .foldl h (fun _ hu _ _ => by split; exacts [hu.sendOn, hu])

theorem Kept.afterLoss (h : Kept s t) {p : Nat} {pkts : List (List Byte)} : Kept s (Machine.afterLoss t p pkts) :=
  .ite h.resendHistory (by split; exacts [h.upd.resendHistory, h])

theorem Answers.execLane (h : Kept s t) {p : Port} {l : Fin 4} : Answers s (Machine.execLane p l t) :=
  .ite (.next h) (.next (h.report.fset (by simp)).afterLoss)

theorem Answers.execPortLoss (h : Kept s t) {p : Port} : Answers s (Machine.execPortLoss p t) :=
  .ite (.next h) (.next h.report.portDown.afterLoss)

end Sys2Proof.Proofs

end

section
/-! PROOFS. What rules, keys and sessions keep. -/

namespace Sys2Proof.Proofs
open Sys2Proof.Machine

variable {s t u : State}

theorem Kept.applyStaged (h : Kept s t) {i : Nat} : Kept s (Machine.applyStaged t i) :=
  (h.upd.updInst.fset (by simp)).ruleChange

theorem Kept.writeXval (h : Kept s t) {i : Nat} {v : W64} : Kept s (Machine.writeXval t i v) :=
  .ite h (.ite (h.fset (by simp)) ((h.updInst.fset (by simp)).fset (by simp)))

theorem Answers.execXvalStage (h : Kept s t) {i : Inst} {v : W64} : Answers s (Machine.execXvalStage i v t) :=
  .hostWide h (fun _ hu => hu.writeXval)

theorem Kept.writeRulectl (h : Kept s t) {i v : Nat} : Kept s (Machine.writeRulectl t i v) :=
  .ite (.ite (h.fset (by simp)) h) (.ite (.updInst (.ite (h.fset (by simp)) h)) (.applyStaged (.ite (h.fset (by simp)) h)))

theorem Answers.execRulectlCommit (h : Kept s t) {i : Inst} {v : W32} : Answers s (Machine.execRulectlCommit i v t) :=
  .hostCmd h h.writeRulectl

theorem Answers.execRuleChangeComplete (h : Kept s t) {i : Inst} : Answers s (Machine.execRuleChangeComplete i t) := by
  unfold Machine.execRuleChangeComplete
  extract_lets cs s1 s2
  have h2 : Kept s s2 := .foldl (h.updInst.fset (by simp)) fun _ hu _ _ => hu.writeCompl
  exact .ite (.next h) (.next (.ite h2.applyStaged h2))

theorem Answers.execIsViolRearm (h : Kept s t) {i : Inst} {v : W64} : Answers s (Machine.execIsViolRearm i v t) :=
  .hostWide h (fun _ hu => hu.regWritePlain)

theorem Kept.endEvictions (h : Kept s t) : Kept s (Machine.endEvictions t) := h.same rfl rfl rfl rfl

theorem Answers.execKeyFetch (h : Kept s t) {n : Quad} {tag : Tag} {ok : Bool} : Answers s (Machine.execKeyFetch n tag ok t) :=
  .ite (.next h) (.ite (.next h.upd) (.next (h.finc (by simp)).report))

theorem Kept.keyAnswer (h : Kept s t) {fn : Fn} {cmd status : Nat} {k : Option KeyId} : Kept s (Machine.keyAnswer t fn cmd status k) :=
  h.emit

theorem Answers.withKey (h : Kept s t) {fn : Fn} {cmd : Nat} {m : KeyMsg} {resv : Bool} {f : KeyId → State} (hf : ∀ k, Kept s (f k)) :
    Answers s (Machine.withKey t fn cmd m resv f) := by
  refine .ite (.next h) (.ite (.next h.keyAnswer) ?_)
  split
  · exact .next h.keyAnswer
  · exact .next (.ite (hf _) h.keyAnswer)

theorem Answers.execSetkey (h : Kept s t) {fn : Fn} {m : KeyMsg} : Answers s (Machine.execSetkey fn m t) :=
  .withKey h (fun _ => .ite h.keyAnswer (.ite h.keyAnswer (.ite h.keyAnswer h.setKeyEnt.keyAnswer)))

theorem Answers.execQuery (h : Kept s t) {fn : Fn} {m : KeyMsg} : Answers s (Machine.execQuery fn m t) :=
  .withKey h (fun _ => h.keyAnswer)

theorem Kept.clearTrace (h : Kept s t) : Kept s (Machine.clearTrace t) :=
  .foldl (h.upd.fset (by simp)) (fun _ hu _ _ => (hu.fset (by simp)))

theorem Answers.execSealArm (h : Kept s t) {v : W32} : Answers s (Machine.execSealArm v t) :=
  .hostCmd h h.regWritePlain

/-- ARM and IDEUP of IS_SEALCTL are no fields that `Kept` speaks of. -/
theorem Kept.fset_sealctl (h : Kept s t) {b v : Nat} (hb : b = 29 ∨ b = 30) : Kept s (Machine.fset t Reg.isSealctl b b v) := by
  obtain ⟨h1, h2, h3⟩ := h.seals
  refine ⟨h.mem, ⟨?_, ?_, fun i hi => ?_⟩, h.unsealing⟩
  · rw [fget_fset_field _ _ _ (by omega) (by omega) (by omega) (by omega), h1]
  · rw [fget_fset_field _ _ _ (by omega) (by omega) (by omega) (by omega), h2]
  · rw [fget_fset_other _ _ _ _ _ _ (by unfold Reg.isRemove Reg.isSealctl; omega), h3 i hi]

theorem Answers.execIdeKm (h : Kept s t) {fn : Fn} {key : BitVec 256} : Answers s (Machine.execIdeKm fn key t) :=
  .next (.ite (h.upd.fset_sealctl (.inl rfl)) h.upd)

theorem Kept.spdmAnswer (h : Kept s t) {fn : Fn} {code : Nat} {bs : List Byte} : Kept s (Machine.spdmAnswer t fn code bs) :=
  h.emit

theorem Kept.spdmError (h : Kept s t) {fn : Fn} : Kept s (Machine.spdmError t fn) :=
  h.spdmAnswer

theorem Answers.execSpdmRequest (h : Kept s t) {fn : Fn} {q : SpdmReq} : Answers s (Machine.execSpdmRequest fn q t) := by
  refine .next ?_
  split
  · exact .ite h.spdmError h.spdmAnswer
  · exact .ite h.spdmAnswer h.spdmError
  · exact .ite h.spdmAnswer h.spdmError
  · split
    · exact .ite h.spdmAnswer h.spdmError
    · exact h.spdmError
  · split
    · exact .ite h.upd.spdmAnswer h.spdmError
    · exact h.spdmError
  · exact .ite h h.keyAnswer
  · split
    · exact h.upd.spdmAnswer
    · exact h.spdmError

theorem Answers.execInstanceQuiesced (h : Kept s t) {i : Inst} : Answers s (Machine.execInstanceQuiesced i t) :=
  .next (.ite (h.updInst.fset (by simp)) h)

end Sys2Proof.Proofs

end

section
/-! PROOFS. What instances and their migration keep. -/

namespace Sys2Proof.Proofs
open Sys2Proof.Machine

variable {s t u : State}

theorem Kept.instContexts (h : Kept s t) {i frm nxt : Nat} {ok : Nat → Bool} : Kept s (Machine.instContexts t i frm nxt ok) := h.same rfl rfl rfl rfl

theorem Kept.tryFreeze (h : Kept s t) {i : Nat} : Kept s (Machine.tryFreeze t i) :=
  .ite h (h.updInst.instContexts.fset (by simp)).notify

theorem Kept.beginFreeze (h : Kept s t) {i : Nat} : Kept s (Machine.beginFreeze t i) :=
  .ite h h.updInst.tryFreeze

theorem Kept.thaw (h : Kept s t) {i : Nat} : Kept s (Machine.thaw t i) :=
  .ite h ((h.fset (by simp)).fset (by simp)).updInst.instContexts.notify

theorem Kept.beginSave (h : Kept s t) {i : Nat} : Kept s (Machine.beginSave t i) :=
  .ite (h.fset (by simp)) (h.updInst.fset (by simp))

theorem Kept.saveImage (h : Kept s t) {a : Nat} {bs : List Byte} {im : Tab Image} {n : Nat} :
    Kept s { t with host := Memory.write t.host a bs, images := im, draws := n } :=
  h.writes rfl rfl fun hm => ⟨hm.1, Memory.wf_write _ _ hm.2⟩

theorem Answers.execSaved (h : Kept s t) {i : Inst} : Answers s (Machine.execSaved i t) := by
  unfold Machine.execSaved
  split
  · exact .next h
  split
  · exact .next (h.updInst.fset (by simp))
  obtain ⟨im, body⟩ := migImage t i
  dsimp only
  generalize imageSeal _ _ _ = bs
  exact .next (Kept.fset (.updInst h.saveImage) (by simp))

theorem Kept.placeRestored (h : Kept s t) {i p base : Nat} {im : Image} {kv : Nat × Led}
    (hu : Machine.placeRestored i p base im t kv = some u) : Kept s u := by
  unfold Machine.placeRestored at hu
  dsimp only at hu
  generalize freeEntry t kv.2.home = o at hu
  cases o with
  | none => cases hu
  | some key =>
    dsimp only at hu
    generalize im.ctxs.find? _ = x at hu
    cases x with
    | none => cases hu; exact h.upd
    | some x =>
      dsimp only at hu
      generalize freeSlot _ _ = sl at hu
      cases sl with
      | none => cases hu
      | some slot => cases hu; exact h.upd

theorem Kept.restoreImage (h : Kept s t) {i : Nat} {im : Image} (hu : Machine.restoreImage t i im = some u) : Kept s u := by
  unfold Machine.restoreImage at hu
  dsimp only at hu
  refine List.foldlRecOn (motive := fun o : Option State => ∀ u, o = some u → Kept s u) im.leds _ ?_ (fun o ho kv _ u hb => ?_) u hu
  · rintro u ⟨⟩
    refine h.writes rfl rfl fun hm => ⟨?_, hm.2⟩
    exact List.foldlRecOn (motive := fun m => Memory.wf m = true) _ _
      (List.foldlRecOn (motive := fun m => Memory.wf m = true) _ _ hm.1 fun _ hw _ _ => Memory.wf_zero _ _ hw)
      fun _ hw _ _ => Memory.wf_write _ _ hw
  · obtain ⟨v, hv, hp⟩ := Option.bind_eq_some_iff.mp hb
    exact (ho v hv).placeRestored hp

theorem Kept.doRestore (h : Kept s t) {i : Nat} : Kept s (Machine.doRestore t i) := by
  unfold Machine.doRestore
  dsimp only
  split
  · exact (h.fset (by simp))
  · refine .ite (h.fset (by simp)) ?_
    split
    · exact (((h.restoreImage ‹_›).ruleChange).fset (by simp))
    · exact (h.fset (by simp))

theorem Kept.resetWrite (h : Kept s t) {i : Nat} : Kept s (Machine.resetWrite t i) :=
  .ite (h.fset (by simp)) h.instanceReset

theorem Kept.quiesceInst (h : Kept s t) {i : Nat} : Kept s (Machine.quiesceInst t i) :=
  h.updInst

theorem Kept.resumeInst (h : Kept s t) {i : Nat} : Kept s (Machine.resumeInst t i) :=
  h.updInst.fset (by simp)

theorem Kept.writeInstctl (h : Kept s t) {i v : Nat} : Kept s (Machine.writeInstctl t i v) := by
  unfold Machine.writeInstctl
  extract_lets on
  have hon : ∀ b f u, Kept s u → (Kept s u → Kept s (f u i)) → Kept s (on b f u) := fun _ _ _ hu hf => .ite (hf hu) hu
  have h2 := hon 2 _ _ (hon 1 _ _ (hon 0 _ _ h (·.resetWrite)) (·.quiesceInst)) (·.resumeInst)
  exact hon 6 _ _ (hon 5 _ _ (hon 4 _ _ (hon 3 _ _ h2 (·.beginFreeze)) (·.beginSave)) (·.doRestore)) (·.thaw)

theorem Answers.instctl (h : Kept s t) {b : Nat} {i : Inst} {v : W32} : Answers s (Machine.instctl b i v t) :=
  .hostCmd h (.ite h.writeInstctl h)

theorem Answers.execInstctlReset (h : Kept s t) {i : Inst} {v : W32} : Answers s (Machine.execInstctlReset i v t) :=
  .instctl h

theorem Answers.execInstctlQuiesce (h : Kept s t) {i : Inst} {v : W32} : Answers s (Machine.execInstctlQuiesce i v t) :=
  .instctl h

theorem Answers.execInstctlResume (h : Kept s t) {i : Inst} {v : W32} : Answers s (Machine.execInstctlResume i v t) :=
  .instctl h

theorem Answers.execInstctlFreeze (h : Kept s t) {i : Inst} {v : W32} : Answers s (Machine.execInstctlFreeze i v t) :=
  .instctl h

theorem Answers.execInstctlSave (h : Kept s t) {i : Inst} {v : W32} : Answers s (Machine.execInstctlSave i v t) :=
  .instctl h

theorem Answers.execInstctlRestore (h : Kept s t) {i : Inst} {v : W32} : Answers s (Machine.execInstctlRestore i v t) :=
  .instctl h

theorem Answers.execInstctlThaw (h : Kept s t) {i : Inst} {v : W32} : Answers s (Machine.execInstctlThaw i v t) :=
  .instctl h

theorem Answers.execFlrVf (h : Kept s t) {i : Inst} : Answers s (Machine.execFlrVf i t) :=
  .next h.instanceReset

end Sys2Proof.Proofs

end

section
/-! PROOFS. What register writes keep. -/

namespace Sys2Proof.Proofs
open Sys2Proof.Machine

variable {s t u : State}

theorem Kept.writeRcfg (h : Kept s t) {mgr : Bool} {i r v : Nat} : Kept s (Machine.writeRcfg t mgr i r v) :=
  .ite h h.updRing

theorem Kept.writeRbase (h : Kept s t) {mgr : Bool} {i r : Nat} {cq : Bool} {v : Nat} : Kept s (Machine.writeRbase t mgr i r cq v) :=
  .ite h h.updRing

theorem Answers.execRingEnable (h : Kept s t) {fn : Fn} {i : Inst} {r : RingId} {v : W32} : Answers s (Machine.execRingEnable fn i r v t) :=
  .hostCmd h (.ite h.writeRcfg (.ite h.writeRcfg h))

theorem Kept.writeDirtyctl (h : Kept s t) {i v : Nat} (hi : i < 16) : Kept s (Machine.writeDirtyctl t i v) := by
  have hq := quietReg_qmDirtyctl hi
  unfold Machine.writeDirtyctl
  extract_lets off big turned s1 s2
  have h1 : Kept s s1 := h.regWritePlain
  have h2 : Kept s s2 := .ite (h1.fset hq) h1
  exact .ite ((h2.fset hq).fset hq) h2

theorem Answers.execDirtyEnable (h : Kept s t) {i : Inst} {v : W64} : Answers s (Machine.execDirtyEnable i v t) :=
  .hostWide h (fun _ hu => (hu.writeDirtyctl (Fin.isLt _)))

theorem Answers.execDirtySelect (h : Kept s t) {i : Inst} {v : W64} : Answers s (Machine.execDirtySelect i v t) :=
  .hostWide h (fun _ hu => (hu.writeDirtyctl (Fin.isLt _)))

theorem Answers.execFlipped (h : Kept s t) {i : Inst} : Answers s (Machine.execFlipped i t) :=
  .next (h.fset (by simp))

theorem Kept.rearm (h : Kept s t) {off v : Nat} (ho : quietReg off = true) : Kept s (Machine.rearm t off v) :=
  .ite ((h.fset ho).fset ho) (.ite (h.fset ho) h)

theorem Answers.execTnNanstatRearm (h : Kept s t) {i : Inst} {v : W32} : Answers s (Machine.execTnNanstatRearm i v t) :=
  .hostCmd h (h.rearm (by simp))

theorem Answers.execMrNanstatRearm (h : Kept s t) {i : Inst} {v : W32} : Answers s (Machine.execMrNanstatRearm i v t) :=
  .hostCmd h (h.rearm (by simp))

theorem Answers.execFcLstatRearm (h : Kept s t) {c : Fin 16} {v : W32} : Answers s (Machine.execFcLstatRearm c v t) :=
  .hostCmd h (h.rearm (by simp))

theorem Kept.ackKey (h : Kept s t) {c sc : Nat} : Kept s (Machine.ackKey t c sc).1 := by
  unfold Machine.ackKey
  split
  · split_ifs; exacts [Kept.pinAlert h.upd, h]
  · exact h

theorem Kept.writeAck (h : Kept s t) {v : Nat} : Kept s (Machine.writeAck t v) := by
  refine .ite ((h.fset (by simp)).fset (by simp)) ?_
  exact .ite ((h.fset (by simp)).fset (by simp)).ackKey (((h.fset (by simp)).fset (by simp)).ackKey.fset (by simp))

theorem Answers.execFcAck (h : Kept s t) {v : W32} : Answers s (Machine.execFcAck v t) :=
  .hostCmd h h.writeAck

theorem Kept.writeSdc (h : Kept s t) {v : Nat} : Kept s (Machine.writeSdc t v) :=
  (h.fset (by simp)).fset (by simp)

theorem Kept.sdcResult (h : Kept s t) {r : Nat} : Kept s (Machine.sdcResult t r) :=
  h.fset (by simp)

theorem Kept.releaseHold (h : Kept s t) {tag : Tag} {n : W32} : Kept s (Machine.releaseHold t tag n) :=
  .ite h.upd.updDesc.refreshCopy.emit.sdcResult h.upd.refreshCopy.emit.sdcResult

theorem Answers.sdcCmd (h : Kept s t) {v action : Nat} {f : State → Tag → W32 → W64 → W64 → State}
    (hf : ∀ u, Kept s u → ∀ g n x y, Kept s (f u g n x y)) : Answers s (Machine.sdcCmd t v action f) := by
  have h1 := (h.dropLow (fn := 0) (off := Reg.fcSdc)).writeSdc (v := v)
  refine .hostCmd h (.ite h1 ?_)
  split
  · exact .ite (hf _ h1 _ _ _ _) h1.sdcResult
  · exact h1.sdcResult

theorem Answers.execReverify (h : Kept s t) {v buddyReread : W64} : Answers s (Machine.execReverify v buddyReread t) :=
  .sdcCmd h (fun _ hu _ _ _ _ => .ite hu.releaseHold hu.sdcResult)

theorem Answers.execKeepowner (h : Kept s t) {v buddyDigest : W64} : Answers s (Machine.execKeepowner v buddyDigest t) :=
  .sdcCmd h (fun _ hu _ _ _ _ => .ite hu.sendMirror.releaseHold hu.sendMirror.sdcResult)

theorem Answers.execKeepbuddy (h : Kept s t) {v : W64} {mir : Mirror} {buddyDigest : W64} : Answers s (Machine.execKeepbuddy v mir buddyDigest t) :=
  .sdcCmd h (fun _ hu _ _ _ _ => .ite hu.writeMirror.releaseHold hu.writeMirror.sdcResult)

theorem Kept.writeAp (h : Kept s t) {i v : Nat} : Kept s (Machine.writeAp t i v) :=
  .ite h.regWritePlain h.regWritePlain.ruleChange

theorem Answers.execQmApWrite (h : Kept s t) {i : Inst} {v : W64} : Answers s (Machine.execQmApWrite i v t) :=
  .hostWide h (fun _ hu => hu.writeAp)

theorem Kept.noteClip (h : Kept s t) : Kept s (Machine.noteClip u t) := .ite h (.ite (h.trimScratch.fset (by simp)) h.trimScratch)

theorem Kept.cfgErr (h : Kept s t) {p : Nat} : Kept s (Machine.cfgErr t p) :=
  h.fset (by simp)

theorem Kept.claimPages (h : Kept s t) {ns : List Nat} : Kept s (Machine.claimPages t ns) := h.same rfl rfl rfl rfl

theorem Kept.releaseClaim (h : Kept s t) {old : List Nat} : Kept s (Machine.releaseClaim t old) :=
  h.zeroingPages

theorem Kept.writeInstcfg (h : Kept s t) {i v : Nat} (hi : i < 16) : Kept s (Machine.writeInstcfg t i v) := by
  have hq := quietReg_scInstcfg hi
  have hset : ∀ {u : State} (p b : Nat), Kept s u → Kept s (Machine.fset (Machine.fset u (Reg.scInstcfg i) 3 0 p) (Reg.scInstcfg i) 4 4 b) :=
    fun _ _ hu => (hu.fset hq).fset hq
  unfold Machine.writeInstcfg
  extract_lets off was p on set ns s1 s1'
  have hs : Kept s s1' := h.upd
  refine .ite h ?_
  exact .ite (h.foldl fun _ hu _ _ => hu.cfgErr) (.ite (.ite h.cfgErr (hset _ _ h.claimPages.upd)) (.ite (hset _ _ hs.releaseClaim) (hset _ _ h)))

theorem Answers.execInstcfgWrite (h : Kept s t) {i : Inst} {v : W32} : Answers s (Machine.execInstcfgWrite i v t) :=
  .hostCmd h (h.writeInstcfg (Fin.isLt _))

theorem Kept.writePcores (h : Kept s t) {p half v : Nat} : Kept s (Machine.writePcores t p half v) := by
  have hq : quietReg (if half = 0 then Reg.scPcores0 p else Reg.scPcores1 p) = true := by split <;> simp
  exact .ite h (.ite h.cfgErr (.noteClip (h.setReg hq)))

theorem Answers.execPcoresWrite (h : Kept s t) {p : Part} {half : Fin 2} {v : W64} : Answers s (Machine.execPcoresWrite p half v t) :=
  .hostWide h (fun _ hu => hu.writePcores)

theorem Kept.writeQuota (h : Kept s t) {off v : Nat} : Kept s (Machine.writeQuota t off v) := by
  unfold Machine.writeQuota
  dsimp only
  split; exacts [(h.fset (by simp)), h.regWritePlain]

theorem Answers.execQuotaWrite (h : Kept s t) {off : Nat} {v : W32} : Answers s (Machine.execQuotaWrite off v t) :=
  .hostCmd h (.ite h.writeQuota h)

theorem Kept.clearTable (h : Kept s t) {off : Nat} : Kept s (Machine.clearTable t off) :=
  .ite h.upd (.ite h.upd h)

theorem Kept.claimTable (h : Kept s t) {off v ext : Nat} : Kept s (Machine.claimTable t off v ext) :=
  .ite (h.fset (by simp)) (.releaseClaim (.ite h.regWritePlain.upd.claimPages h.regWritePlain.upd.claimPages.clearTable))

theorem Kept.writeBase (h : Kept s t) {off v ext : Nat} : Kept s (Machine.writeBase t off v ext) :=
  .ite h (.ite h.upd h.claimTable)

theorem Answers.execTableBaseWrite (h : Kept s t) {off : Nat} {v : W64} : Answers s (Machine.execTableBaseWrite off v t) := by
  unfold Machine.execTableBaseWrite
  split; exacts [.hostWide h (fun _ hu => hu.writeBase), .next h]

theorem Kept.portsDone (h : Kept s t) : Kept s (Machine.portsDone t) :=
  .ite (h.fset (by simp)) h

theorem Kept.writePortctl (h : Kept s t) {p : Port} {v : Nat} : Kept s (Machine.writePortctl t p v) :=
  .ite (.ite (h.fset (by simp)) (.ite (h.fset (by simp)) (h.fset (by simp)).upd)) ((h.fset (by simp)).fset (by simp)).upd.portsDone

theorem Answers.execPortEnable (h : Kept s t) {p : Port} {v : W32} : Answers s (Machine.execPortEnable p v t) :=
  .hostCmd h h.writePortctl

theorem Answers.execPortTraining (h : Kept s t) {p : Port} {up : Bool} : Answers s (Machine.execPortTraining p up t) :=
  .ite (.next h) (.next (.portsDone (.upd (.ite (((h.fset (by simp)).fset (by simp)).fset (by simp)) h))))

theorem Kept.startDump (h : Kept s t) : Kept s (Machine.startDump t) :=
  .ite (h.fset (by simp)) (.ite h ((h.fset (by simp)).fset (by simp)).upd)

theorem Kept.writeDump (h : Kept s t) {v : Nat} : Kept s (Machine.writeDump t v) :=
  h.regWritePlain.startDump

theorem Answers.execTrDump (h : Kept s t) {v : W64} : Answers s (Machine.execTrDump v t) :=
  .hostWide h (fun _ hu => hu.writeDump)

theorem Answers.execTrDumpDone (h : Kept s t) : Answers s (Machine.execTrDumpDone t) :=
  have hw : Kept s { t with host := Memory.write t.host t.trTo (t.trCopy.flatMap fun p => leBytes 16 p.toNat), trCopy := [] } :=
    h.writes rfl rfl fun hm => ⟨hm.1, Memory.wf_write _ _ hm.2⟩
  .next (.ite (hw.fset (by simp)).startDump h)

theorem Kept.writeWord (h : Kept s t) {tenant : Bool} {i slot w : Nat} {v : W64} : Kept s (Machine.writeWord t tenant i slot w v) :=
  .ite (.ite h.upd h.upd) (.ite h (.ite h.upd h.upd))

theorem Kept.mbPublish (h : Kept s t) {tenant : Bool} {i : Nat} {mask : W16} : Kept s (Machine.mbPublish t tenant i mask) :=
  .ite h (.ite h.upd.msix h.upd.msix)

theorem Kept.mbRelease (h : Kept s t) {tenant : Bool} {i : Nat} {mask : W16} : Kept s (Machine.mbRelease t tenant i mask) :=
  .ite h (.ite h.upd.msix.postNotice h.upd.msix)

theorem Answers.execMailboxWordWrite (h : Kept s t) {tenant : Bool} {i : Inst} {slot : Fin 16} {w : Fin 8} {v : W64} :
    Answers s (Machine.execMailboxWordWrite tenant i slot w v t) :=
  .hostWide h (fun _ hu => hu.writeWord)

theorem Answers.execMailboxPublish (h : Kept s t) {tenant : Bool} {i : Inst} {mask : W16} : Answers s (Machine.execMailboxPublish tenant i mask t) :=
  .hostCmd h h.mbPublish

theorem Answers.execMailboxRelease (h : Kept s t) {tenant : Bool} {i : Inst} {mask : W16} : Answers s (Machine.execMailboxRelease tenant i mask t) :=
  .hostCmd h h.mbRelease

theorem Answers.execDeviceNotice (h : Kept s t) {i : Inst} : Answers s (Machine.execDeviceNotice i t) :=
  .next h.postNotice

theorem Answers.execBar4Access (h : Kept s t) {fn : Fn} {off n : Nat} {wr : Option (List Byte)} :
    Answers s (Machine.execBar4Access fn off n wr t) := by
  refine .hostCmd h (.ite h (.ite ?_ ?_))
  · split
    · exact h.devWrite
    · exact h.emit
  · dsimp only
    split
    · exact .ite (h.finc (by simp)) h.countViol
    · exact .emit (.ite (h.finc (by simp)) h.countViol)

theorem Kept.writeLimit (h : Kept s t) {v : Nat} : Kept s (Machine.writeLimit t v) :=
  h.setReg (by simp)

theorem Kept.writeClk (h : Kept s t) {off v : Nat} (ho : quietReg off = true) : Kept s (Machine.writeClk t off v) :=
  h.fset ho

theorem Kept.writeMbox (h : Kept s t) {i o v : Nat} : Kept s (Machine.writeMbox t i o v) :=
  .ite h (.ite h.writeWord (.ite h.mbPublish.mbRelease (.ite h.upd h)))

/-- What an array of registers holds at an offset is one of its entries. -/
theorem idxOf_spec {base stride n off i : Nat} (h : idxOf base stride n off = some i) : i < n ∧ off = base + stride * i := by
  simp only [idxOf] at h
  split_ifs at h with hc
  cases h
  have := Nat.div_add_mod (off - base) stride
  omega

/-- What an array of registers between the two that R329 reads holds is neither of them. -/
theorem quietReg_of_idxOf {base stride n off i : Nat} (h : idxOf base stride n off = some i) (hb : base + stride * n < 0x400018 ∨ 0x402000 ≤ base) :
    quietReg off = true := by
  obtain ⟨hi, rfl⟩ := idxOf_spec h
  have : stride * i ≤ stride * n := Nat.mul_le_mul_left _ hi.le
  rw [quietReg_iff]
  unfold Reg.isSealctl Reg.isRemove
  constructor <;> intros <;> omega

theorem Kept.writeQm (h : Kept s t) {off v : Nat} : Kept s (Machine.writeQm t off v) := by
  refine .ite h.writeMbox (.ite h.writeRbase (.ite h.writeRcfg (.ite h.writeRbase ?_)))
  split
  case h_1 => exact h.writeInstctl
  case h_2 => exact h.writeDirtyctl (idxOf_spec ‹idxOf _ _ _ _ = some _›).1
  case h_3 => exact h.writeAp
  case h_4 => exact h.regWritePlain

theorem Kept.writeSc (h : Kept s t) {off v : Nat} : Kept s (Machine.writeSc t off v) := by
  unfold Machine.writeSc
  split
  case h_1 => exact h.writeInstcfg (idxOf_spec ‹idxOf _ _ _ _ = some _›).1
  case h_2 => exact h.writePcores
  case h_3 => exact h.writePcores
  case h_4 => exact .noteClip h.regWritePlain

theorem Kept.writeLstn (h : Kept s t) {off v : Nat} : Kept s (Machine.writeLstn t off v) := by
  unfold Machine.writeLstn
  split
  case h_1 => exact h.writeLsCtl
  case h_2 => exact h.writeHold
  case h_3 => exact h.rearm (quietReg_of_idxOf ‹idxOf _ _ _ _ = some _› (by decide))
  case h_4 => exact h.regWritePlain

theorem Kept.vfWrite (h : Kept s t) {i off v : Nat} : Kept s (Machine.vfWrite t i off v) := by
  refine .ite ?_ (.ite (h.rearm (by simp)) (.ite h.writeWord (.ite h.mbPublish.mbRelease (.ite h.upd h))))
  dsimp only
  split
  · exact h.writeRbase
  · exact h.writeRcfg
  · exact h.writeRbase
  · exact h

theorem Kept.readHalf (h : Kept s t) {fn : Fn} {off : Nat} : Kept s (Machine.readHalf t fn off) := by
  unfold Machine.readHalf
  dsimp only; split; exacts [h.upd.emit, h.emit, .ite (by split; exacts [h.upd.emit, h.emit]) h.emit]

theorem Kept.readWide (h : Kept s t) {fn : Fn} {off : Nat} : Kept s (Machine.readWide t fn off) :=
  h.emit

theorem Kept.bar0Read (h : Kept s t) {fn : Fn} {off size : Nat} : Kept s (Machine.bar0Read t fn off size) :=
  .ite h.readHalf (.ite h.readWide h.emit)

theorem Answers.execLowHalfRead (h : Kept s t) {fn : Fn} {off size : Nat} : Answers s (Machine.execLowHalfRead fn off size t) :=
  .next (.ite h.bar0Read h)

end Sys2Proof.Proofs

end

section
/-! PROOFS. What fault commands, power and start-up keep. -/

namespace Sys2Proof.Proofs
open Sys2Proof.Machine

variable {s t u : State}

theorem Kept.recordErr (h : Kept s t) {m : Nat} : Kept s (Machine.recordErr t m) := by
  unfold Machine.recordErr
  split; exacts [.ite h.upd.report h.upd, h]

theorem Answers.execFaultMessage (h : Kept s t) {m : W128} : Answers s (Machine.execFaultMessage m t) :=
  .next (.ite (.recordErr (.collect (.ite h.upd h))) h)

theorem Answers.execLogic (h : Kept s t) {k : PCore} : Answers s (Machine.execLogic k t) :=
  .next h.wakeDie.wakeCore.report

theorem Answers.execDieFence (h : Kept s t) {d : Die} : Answers s (Machine.execDieFence d t) :=
  .next h.report

theorem Answers.execPcretire (h : Kept s t) {m : Fin 12} {pc : Fin 64} : Answers s (Machine.execPcretire m pc t) :=
  .next h.upd.report

theorem Answers.execPcCopyDone (h : Kept s t) {m : Fin 12} {pc : Fin 64} : Answers s (Machine.execPcCopyDone m pc t) :=
  .next h.upd

theorem Answers.execStackfail (h : Kept s t) {m : Fin 12} : Answers s (Machine.execStackfail m t) :=
  .next h.report

theorem Answers.execRing (h : Kept s t) {l : Fin 4} : Answers s (Machine.execRing l t) :=
  .next h.report

theorem Answers.execFwWatchdog (h : Kept s t) : Answers s (Machine.execFwWatchdog t) :=
  .next h.report

theorem Answers.execHeartbeatMiss (h : Kept s t) : Answers s (Machine.execHeartbeatMiss t) :=
  .next (.ite h.report.upd h)

theorem Answers.execGlitch (h : Kept s t) {detector : BitVec 48} : Answers s (Machine.execGlitch detector t) :=
  .next h.report

theorem Answers.execThermwarn (h : Kept s t) {die : BitVec 5} {sensor : BitVec 48} : Answers s (Machine.execThermwarn die sensor t) :=
  .next h.report.upd.pinAlert

theorem Answers.execThermtrip (h : Kept s t) {die : BitVec 5} {sensor : BitVec 48} : Answers s (Machine.execThermtrip die sensor t) :=
  .next h.report

theorem Answers.execRail (h : Kept s t) {r : BitVec 48} : Answers s (Machine.execRail r t) :=
  .next h.report

theorem Answers.execRootblock (h : Kept s t) {unit : BitVec 11} : Answers s (Machine.execRootblock unit t) :=
  .next h.report

theorem Answers.execPowerSample (h : Kept s t) {input avg : W16} : Answers s (Machine.execPowerSample input avg t) :=
  .ite (.next h) (.next (.upd (.fset (.fset (.fset (.ite (h.finc (by simp)) h) (by simp)) (by simp)) (by simp))))

theorem Kept.syncDie (h : Kept s t) {d : Nat} : Kept s (Machine.syncDie t d) :=
  .foldl h (fun _ hu _ _ => hu.traceSync)

theorem Answers.execClockStep (h : Kept s t) {d : Die} {up : Bool} : Answers s (Machine.execClockStep d up t) :=
  .ite (.ite (.next h) (.next (h.fset (by simp)).upd.syncDie.pinAlert)) (.ite (.next (h.fset (by simp)).syncDie) (.next h))

theorem Answers.execDozeEntry (h : Kept s t) {k : PCore} {idle : Nat} : Answers s (Machine.execDozeEntry k idle t) :=
  .ite (.next h.updCore.tracePstate) (.next h)

theorem Answers.execNapEntry (h : Kept s t) {k : PCore} {us : Nat} {wake : Bool} : Answers s (Machine.execNapEntry k us wake t) :=
  .ite (.next h.tracePstate.drainFifo.updCore) (.next h)

theorem Answers.execDieNap (h : Kept s t) {d : Die} {us : Nat} : Answers s (Machine.execDieNap d us t) :=
  .ite (.next h.upd.tracePstate) (.next h)

theorem Answers.execWake (h : Kept s t) {d : Die} {c : Option (Fin 18)} : Answers s (Machine.execWake d c t) :=
  .ite (.next h) (.next (by split; exacts [h.wakeDie.wakeCore, h.wakeDie]))

theorem Answers.execTraceDrop (h : Kept s t) {k : PCore} : Answers s (Machine.execTraceDrop k t) :=
  .ite (.next (h.upd.finc (by simp))) (.next h)

theorem Kept.showJournal (h : Kept s t) : Kept s (Machine.showJournal t) := by
  unfold Machine.showJournal
  split; exacts [(((h.fset (by simp)).fset (by simp)).setReg (by simp)), h]

theorem Kept.drawKeys (h : Kept s t) : Kept s (Machine.drawKeys t) :=
  .foldl h.drawKey.drawKey.upd (fun _ hu _ _ => hu.drawKey.upd)

theorem Kept.logDefect (h : Kept s t) {die unit kind : Nat} : Kept s (Machine.logDefect t die unit kind) :=
  h.logMsg

theorem Kept.badCore (h : Kept s t) {k : PCore} : Kept s (Machine.badCore t k) :=
  h.logDefect.fenceCore (Fin.isLt _)

theorem Kept.badDie (h : Kept s t) {d : Die} : Kept s (Machine.badDie t d) :=
  h.logDefect.fenceDie (Fin.isLt _)

theorem Kept.napSpares (h : Kept s t) : Kept s (Machine.napSpares t) :=
  .foldl h (fun _ hu _ _ => .ite hu.updCore hu)

theorem Answers.execPerstRelease (h : Kept s t) {cfgMs : W32} {badCores : List PCore} {badDies : List Die} :
    Answers s (Machine.execPerstRelease cfgMs badCores badDies t) := by
  unfold Machine.execPerstRelease
  extract_lets s0 s1 s2
  have h0 : Kept s s0 := h.upd
  have h1 : Kept s s1 := h0.upd.fset (by simp)
  have h2 : Kept s s2 := .foldl (.foldl h1 fun _ hu _ _ => hu.badCore) fun _ hu _ _ => hu.badDie
  exact .ite (.next h0) (.next (h2.fset (by simp)).napSpares)

theorem Kept.badPc (h : Kept s t) {x : Fin 12 × Fin 64} : Kept s (Machine.badPc t x) := by
  unfold Machine.badPc
  dsimp only
  cases hx : Machine.retirePc (Machine.logDefect t (0x10 + x.1) x.2 0x33) x.1 x.2 with
  | none => exact h.logDefect
  | some u => exact h.logDefect.retirePc hx

theorem Kept.claimHeld (h : Kept s t) : Kept s (Machine.claimHeld t) :=
  .foldl h.upd (fun _ hu _ _ => by split; exacts [hu.claimTable, hu])

theorem Answers.execMemdone (h : Kept s t) {badPcs : List (Fin 12 × Fin 64)} {badStacks : List (Fin 12)} :
    Answers s (Machine.execMemdone badPcs badStacks t) := by
  unfold Machine.execMemdone
  split
  · exact .next h
  · have h0 : Kept s { t with dev := [], poison := [] } := h.writes rfl rfl fun hm => ⟨rfl, hm.2⟩
    dsimp only
    split
    · exact .next (Kept.fset ((h0.fset (by simp)).foldl fun _ hu _ _ => hu.report) (by simp))
    · exact .next (.portsDone (.claimHeld (((h0.fset (by simp)).fset (by simp)).foldl fun _ hu _ _ => hu.badPc)))

theorem Answers.execReady (h : Kept s t) {ms : W32} : Answers s (Machine.execReady ms t) :=
  .ite (.next h) (.next ((h.fset (by simp)).fset (by simp)).upd)

theorem Answers.execPlinthBoot (h : Kept s t) {stby v54 inletOk : Bool} : Answers s (Machine.execPlinthBoot stby v54 inletOk t) := by
  unfold Machine.execPlinthBoot
  split
  · exact .next h
  · extract_lets pl t0 u0 s1 s2
    have h1 : Kept s s1 := .ite h (.ite h.upd.drawKeys.showJournal.report h.upd.drawKeys.showJournal)
    have h2 : Kept s s2 := .ite h1.upd h1
    exact .next (.ite h2.upd h2)

theorem Kept.powerDown (h : Kept s t) : Kept s (Machine.powerDown t) :=
  h.upd.stopAll.noticeSelf.upd.cutRails

theorem Answers.execPwrWarn (h : Kept s t) : Answers s (Machine.execPwrWarn t) :=
  .next (.ite h.powerDown h)

theorem Answers.execUndervoltage (h : Kept s t) : Answers s (Machine.execUndervoltage t) :=
  .next (.ite h.powerDown h)

end Sys2Proof.Proofs

end

section
/-! PROOFS. What Ecneuz keeps. -/

namespace Sys2Proof.Proofs
open Sys2Proof.Machine

variable {s t u : State}

theorem Answers.execArmatureConnect (h : Kept s t) {t' : TlsHello} : Answers s (Machine.execArmatureConnect t' t) := by
  unfold Machine.execArmatureConnect
  split; exacts [.next h.upd, .next h.emit]

theorem Kept.respond (h : Kept s t) {h' : EcHdr} {cmd status : Nat} {payload : List Byte} : Kept s (Machine.respond t h' cmd status payload) :=
  h.emit

theorem Answers.ecCmd (h : Kept s t) {h' : EcHdr} {cmd len : Nat} {control g formOk : Bool} {f : State → State × Nat × List Byte}
    (hf : Kept s (f t).1) : Answers s (Machine.ecCmd t h' cmd control g len formOk f) := by
  unfold Machine.ecCmd
  split
  · exact .ite (.next h.respond) (.ite (.next h.respond) (.ite (.next h.respond) (.next hf.respond)))
  · exact .next h

theorem Answers.execIdent (h : Kept s t) {h' : EcHdr} : Answers s (Machine.execIdent h' t) :=
  .ecCmd h h

theorem Answers.execAttest (h : Kept s t) {h' : EcHdr} {nonce : BitVec 256} : Answers s (Machine.execAttest h' nonce t) :=
  .ecCmd h h

theorem Answers.execCerts (h : Kept s t) {h' : EcHdr} : Answers s (Machine.execCerts h' t) :=
  .ecCmd h h

theorem Answers.execLogread (h : Kept s t) {h' : EcHdr} {first : W32} {count : W16} : Answers s (Machine.execLogread h' first count t) :=
  .ecCmd h h

theorem Answers.execTelem (h : Kept s t) {h' : EcHdr} {mask : W32} : Answers s (Machine.execTelem h' mask t) :=
  .ecCmd h h

theorem Answers.execSubscribe (h : Kept s t) {h' : EcHdr} {level : Byte} {interval : W16} :
    Answers s (Machine.execSubscribe h' level interval t) :=
  .ecCmd h (by split; exacts [h.upd, h])

theorem Answers.execTelemetryEvent (h : Kept s t) {sess : Fin 4} {samples : List Sensor} : Answers s (Machine.execTelemetryEvent sess samples t) :=
  .ite (.next h) (.next (by split; exacts [.ite h.upd h.upd.sessEvent, h.upd]))

theorem Answers.execInstreset (h : Kept s t) {h' : EcHdr} {inst : Byte} {late : Bool} : Answers s (Machine.execInstreset h' inst late t) :=
  .ecCmd h (h.instanceReset.foldl fun _ hu _ _ => hu.updCore)

theorem Answers.execQuiesce (h : Kept s t) {h' : EcHdr} : Answers s (Machine.execQuiesce h' t) :=
  .ecCmd h h.quiesceDevice

theorem Answers.execHalt (h : Kept s t) {h' : EcHdr} : Answers s (Machine.execHalt h' t) :=
  .ecCmd h h.haltDevice

theorem Kept.toRecovery (h : Kept s t) : Kept s (Machine.toRecovery t) :=
  h.upd.abandonProcs

theorem Answers.execRailcut (h : Kept s t) {h' : EcHdr} : Answers s (Machine.execRailcut h' t) :=
  .ecCmd h h.stopAll.cutCompute.toRecovery

theorem Answers.execFaultack (h : Kept s t) {h' : EcHdr} {cls : Byte} {scope : W16} : Answers s (Machine.execFaultack h' cls scope t) :=
  .ecCmd h (.ite h.ackKey (h.ackKey.fset (by simp)))

theorem Answers.execSvcstate (h : Kept s t) {h' : EcHdr} {new : Byte} : Answers s (Machine.execSvcstate h' new t) := by
  refine .ecCmd h ?_
  dsimp only
  split
  · exact h.upd
  · exact h.upd
  · exact h.upd
  · split; exacts [h, h.upd]
  · exact h

theorem Kept.setImg (h : Kept s t) {t' slot : Nat} {x : Img} : Kept s (Machine.setImg t t' slot x) := h.same rfl rfl rfl rfl

theorem Answers.execImgwrite (h : Kept s t) {h' : EcHdr} {target : Byte} {off : W32} {data : List Byte} :
    Answers s (Machine.execImgwrite h' target off data t) := by
  unfold Machine.execImgwrite
  exact Answers.ecCmd (t := t) h (by split; exacts [h, h.setImg])

theorem Kept.startProc (h : Kept s t) {kind res arg : Nat} {finish : Option W64} : Kept s (Machine.startProc t kind res arg finish).1 :=
  h.upd.setProc

theorem Answers.execImgact (h : Kept s t) {h' : EcHdr} {target flags : Byte} : Answers s (Machine.execImgact h' target flags t) := by
  unfold Machine.execImgact
  exact Answers.ecCmd (t := t) h (by split; exacts [h, by split; exacts [h, h.setImg.startProc]])

theorem Kept.imageDone (h : Kept s t) {p : Proc} : Kept s (Machine.imageDone t p) :=
  h.upd.setProc

theorem Answers.execHandoverTimeout (h : Kept s t) : Answers s (Machine.execHandoverTimeout t) :=
  .next h.abandonProcs

theorem Kept.closeSessions (h : Kept s t) : Kept s (Machine.closeSessions t) :=
  .upd (.foldl h (fun _ hu _ _ => hu.emit))

theorem Answers.execPlinthReboot (h : Kept s t) : Answers s (Machine.execPlinthReboot t) := by
  unfold Machine.execPlinthReboot
  split; exacts [.next h.closeSessions.upd, .next h.upd.imageDone, .next h.upd, .next h]

theorem Answers.execJrnlupd (h : Kept s t) {h' : EcHdr} {mode : Byte} {readback : Bool} : Answers s (Machine.execJrnlupd h' mode readback t) := by
  have hs : ∀ u, Kept s u → Kept s (ok (Machine.showJournal u)).1 := fun _ hu => hu.showJournal
  refine .ecCmd h ?_
  split
  · exact h
  · extract_lets old put
    split
    · exact h.upd
    · refine hs _ ?_
      exact h.same rfl rfl rfl rfl

theorem Answers.execMacsec (h : Kept s t) {h' : EcHdr} {a : MacsecSa} : Answers s (Machine.execMacsec h' a t) := by
  unfold Machine.execMacsec
  exact Answers.ecCmd (t := t) h h.upd

theorem Answers.execAnchor (h : Kept s t) {h' : EcHdr} {slot : Byte} {cert : List Byte} : Answers s (Machine.execAnchor h' slot cert t) :=
  .ecCmd h h.upd

theorem Answers.execPctrain (h : Kept s t) {h' : EcHdr} {stack pc mode : Byte} : Answers s (Machine.execPctrain h' stack pc mode t) := by
  unfold Machine.execPctrain
  refine .ecCmd h ?_
  split
  · exact h
  split
  · exact h
  split
  · exact h.startProc
  split
  · exact (h.retirePc ‹_›).startProc
  · exact h

theorem Answers.execLaneeq (h : Kept s t) {h' : EcHdr} {port lane : Byte} : Answers s (Machine.execLaneeq h' port lane t) := by
  unfold Machine.execLaneeq
  refine .ecCmd h ?_
  dsimp only
  split
  · exact h
  split
  · exact h
  · exact (Kept.ite ((h.fset (by simp)).fset (by simp)) (h.fset (by simp))).afterLoss.startProc

theorem Answers.execCorerepl (h : Kept s t) {h' : EcHdr} {core flags : Byte} : Answers s (Machine.execCorerepl h' core flags t) := by
  unfold Machine.execCorerepl
  exact Answers.ecCmd (t := t) h (by split; exacts [h, by split; exacts [h, h.startProc]])

theorem Answers.execProcstat (h : Kept s t) {h' : EcHdr} {num : W16} : Answers s (Machine.execProcstat h' num t) :=
  .ecCmd h h

theorem Kept.rollStep (h : Kept s t) {p : Proc} {ready : Bool} {ns : Nat} : Kept s (Machine.rollStep t p ready ns) :=
  .ite (.ite h.setProc h) (.ite h (.ite h.imageDone h.setProc))

theorem Kept.endRetrain (h : Kept s t) {p : Proc} : Kept s (Machine.endRetrain t p) := by
  unfold Machine.endRetrain
  split; exacts [(h.upd.zeroingPages.fset (by simp)), h]

theorem Kept.endLaneeq (h : Kept s t) {p : Proc} : Kept s (Machine.endLaneeq t p) :=
  .ite (.ite ((h.fset (by simp)).fset (by simp)) h) ((h.fset (by simp)).fset (by simp))

theorem Answers.execMctpRequest (h : Kept s t) {q : MctpReq} : Answers s (Machine.execMctpRequest q t) := by
  refine .ite (.next h) ?_
  split
  · exact .next h.emit
  · exact .next h.emit
  · split <;> exact .next h.emit
  · exact .next h.emit
  · exact .next h.emit
  · exact .next h.emit
  · exact .next h.emit
  · exact .ite (.next h.emit) (.next h.emit)
  · exact .ite (.next h.emit) (.next h.emit)
  · split
    · exact .ite (.next h.emit) (.next h.emit)
    · exact .next h.emit
  · exact .next h.emit

theorem Answers.execPldmAnchorInstall (h : Kept s t) {slot : Byte} {cert : List Byte} : Answers s (Machine.execPldmAnchorInstall slot cert t) :=
  .ite (.next h) (.ite (.next h.upd.emit) (.next h.emit))

theorem Answers.execNeighbourDiscovery (h : Kept s t) {q : NdReq} : Answers s (Machine.execNeighbourDiscovery q t) :=
  .ite (.next h) (by split; exacts [.next (.ite h.emit h), .next h.emit, .next h.upd])

end Sys2Proof.Proofs

end

section
/-! PROOFS. What a step on an empty queue keeps, but for the procedures. -/

namespace Sys2Proof.Proofs
open Sys2Proof.Machine

variable {s t u : State}

theorem Kept.tickTime (h : Kept s t) : Kept s (Machine.tickTime t) :=
  .ite h.upd h

theorem Kept.tickTrace (h : Kept s t) : Kept s (Machine.tickTrace t) :=
  .foldl h (fun _ hu _ _ => hu.drainFifo)

/-- A waiting entry's retry runs its command: where the command answers, its next state is kept. -/
theorem Answers.getNext {r : Res} (hr : Answers s r) : Kept s (match (motive := Res → State) r with | .next u => u | _ => t) := by
  obtain ⟨u, rfl, hu⟩ := hr
  exact hu

theorem Kept.retryOp (h : Kept s t) {o : Op} : Kept s (Machine.retryOp t o) := by
  unfold Machine.retryOp
  dsimp only
  split
  · exact h
  split
  · exact (Answers.execMemAlloc h).getNext
  · exact (Answers.execMemFree h).getNext
  · exact (Answers.execAdapterLoad h).getNext
  · exact (Answers.execAdapterSwap h).getNext
  · exact (Answers.execAdapterPin h).getNext
  · exact (Answers.execAdapterUnpin h).getNext
  · exact (Answers.execAdapterEvict h).getNext
  · exact (Answers.execAdapterFree h).getNext
  · exact (Answers.execBaseLoad h).getNext
  · exact (Answers.execPeerClose h).getNext
  · exact h

theorem Kept.tickOps (h : Kept s t) : Kept s (Machine.tickOps t) :=
  .foldl h (fun _ hu _ _ => hu.retryOp)

theorem Kept.tickCharge (h : Kept s t) : Kept s (Machine.tickCharge t) :=
  .foldl h fun _ hu _ _ => by split; exacts [.ite (hu.charge (ledPart_lt _ _)) hu, hu]

theorem Kept.tickTails (h : Kept s t) : Kept s (Machine.tickTails t) :=
  .foldl h (fun _ hu _ _ => by split; exacts [.ite hu.updCore.settleCore.commitItem hu, hu])

end Sys2Proof.Proofs

end

section
/-! PROOFS. What may end sealed mode (R329), and what a device reset leaves. -/

namespace Sys2Proof.Proofs
open Sys2Proof.Machine

variable {s t u : State} {un : Prop}

/-! ### What may end sealed mode -/

/-- Sealed mode goes on: it holds as it did and over the instances it did, and an unsealing goes on only where `un` says one has begun. -/
def StillSealed (un : Prop) (s t : State) : Prop :=
  sealed s = true → fget t Reg.isSealctl 31 31 = 1 ∧ fget t Reg.isSealctl 15 0 = fget s Reg.isSealctl 15 0 ∧ (t.unsealing = true → un)

/-- Every instance that sealed mode bound in `s` has been removed in `t`. -/
def BoundRemoved (s t : State) : Prop := ∀ i < 16, bit (fget s Reg.isSealctl 15 0) i = true → fget t (Reg.isRemove i) 29 28 = 3

/-- Memory stays canonical and sealed mode goes on. -/
structure Sealing (un : Prop) (s t : State) : Prop where
  mem : memoryOk s → memoryOk t
  still : StillSealed un s t

/-- Memory stays canonical, and sealed mode goes on or has ended as R329 says. -/
structure Unseals (un : Prop) (s t : State) : Prop where
  mem : memoryOk s → memoryOk t
  seals : StillSealed un s t ∨ un ∧ BoundRemoved s t

theorem StillSealed.kept (h : StillSealed un s t) (k : Kept t u) : StillSealed un s u := fun hs => by
  obtain ⟨h1, h2, h3⟩ := h hs
  obtain ⟨k1, k2, -⟩ := k.seals
  exact ⟨k1.trans h1, k2.trans h2, fun hu => h3 (k.unsealing ▸ hu)⟩

theorem Sealing.kept (h : Sealing un s t) (k : Kept t u) : Sealing un s u := ⟨fun hm => k.mem (h.mem hm), h.still.kept k⟩

theorem Sealing.refl (hu : s.unsealing = true → un) : Sealing un s s := ⟨id, fun hs => ⟨by simpa [sealed, fbit_eq_fget] using hs, rfl, hu⟩⟩

theorem Sealing.of_kept (k : Kept s t) (hu : s.unsealing = true → un) : Sealing un s t := (Sealing.refl hu).kept k

/-- The phase of a removal is no part of sealed mode. -/
theorem StillSealed.fset_isRemove (h : StillSealed un s t) {i v : Nat} : StillSealed un s (fset t (Reg.isRemove i) 29 28 v) := fun hs => by
  have ho : Reg.isSealctl ≠ Reg.isRemove i := by unfold Reg.isSealctl Reg.isRemove; omega
  obtain ⟨h1, h2, h3⟩ := h hs
  exact ⟨(fget_fset_other _ _ _ _ _ _ ho).trans h1, (fget_fset_other _ _ _ _ _ _ ho).trans h2, h3⟩

theorem Sealing.fset_isRemove (h : Sealing un s t) {i v : Nat} : Sealing un s (fset t (Reg.isRemove i) 29 28 v) := ⟨h.mem, h.still.fset_isRemove⟩

theorem Sealing.unseals (h : Sealing un s t) : Unseals un s t := ⟨h.mem, .inl h.still⟩

theorem Unseals.of_kept (k : Kept s t) (hu : s.unsealing = true → un) : Unseals un s t := (Sealing.of_kept k hu).unseals

theorem Unseals.kept (h : Unseals un s t) (k : Kept t u) : Unseals un s u :=
  ⟨fun hm => k.mem (h.mem hm), h.seals.imp (·.kept k) fun ⟨hu, hb⟩ => ⟨hu, fun i hi hm => (k.seals.2.2 i hi).trans (hb i hi hm)⟩⟩

/-- A removal's phase moves on; one that is complete stays so. -/
theorem Unseals.fset_isRemove (h : Unseals un s t) {i v : Nat} (hv : fget t (Reg.isRemove i) 29 28 ≠ 3 ∨ v % 4 = 3) :
    Unseals un s (fset t (Reg.isRemove i) 29 28 v) := by
  refine ⟨h.mem, h.seals.imp (·.fset_isRemove) fun ⟨hu, hb⟩ => ⟨hu, fun j hj hm => ?_⟩⟩
  by_cases hji : j = i
  · subst hji
    rw [fget_fset_self _ _ _ (by decide) (by decide)]
    exact hv.resolve_left (not_not_intro (hb j hj hm))
  · rw [fget_fset_other _ _ _ _ _ _ (by unfold Reg.isRemove; omega)]
    exact hb j hj hm

theorem Unseals.endSeal (h : Unseals un s t) : Unseals un s (endSeal t) := by
  unfold Machine.endSeal
  dsimp only
  split
  case isFalse => exact h
  case isTrue hc =>
    rw [Bool.and_eq_true, List.all_eq_true] at hc
    obtain ⟨hun, hall⟩ := hc
    refine ⟨h.mem, ?_⟩
    generalize hv : ({ (fset (fset (fset t Reg.isSealctl 31 31 0) Reg.isSealctl 29 29 0) Reg.isSealctl 15 0 0) with
      unsealing := false, sealCert := 0#384, ideKeys := [] } : State) = v
    have hr : v.regs = (fset (fset (fset t Reg.isSealctl 31 31 0) Reg.isSealctl 29 29 0) Reg.isSealctl 15 0 0).regs := hv ▸ rfl
    have hp : ∀ i, fget v (Reg.isRemove i) 29 28 = fget t (Reg.isRemove i) 29 28 := fun i => by
      have ho : Reg.isRemove i ≠ Reg.isSealctl := by unfold Reg.isSealctl Reg.isRemove; omega
      rw [fget, rd, hr, ← rd, ← fget, fget_fset_other _ _ _ _ _ _ ho, fget_fset_other _ _ _ _ _ _ ho, fget_fset_other _ _ _ _ _ _ ho]
    rcases h.seals with hstill | ⟨hu, hb⟩
    · by_cases hs : sealed s = true
      · obtain ⟨-, hm, hu⟩ := hstill hs
        refine .inr ⟨hu hun, fun i hi hb => (hp i).trans ?_⟩
        have := hall i (List.mem_range.mpr hi)
        rw [hm, hb] at this
        simpa using this
      · exact .inl fun h' => absurd h' hs
    · exact .inr ⟨hu, fun i hi hm => (hp i).trans (hb i hi hm)⟩

/-- What a removal that is complete publishes, and the end of sealed mode that it may be. -/
theorem Unseals.removalDone (h : Unseals un s t) {i : Nat} :
    Unseals un s (Machine.endSeal (notify (fset (t.updInst i fun x => { x with removing := [] }) (Reg.isRemove i) 29 28 3) i 0xF3 0)) :=
  (((h.kept (Kept.refl t).updInst).fset_isRemove (.inr rfl)).kept (Kept.refl _).notify).endSeal

theorem Unseals.removalStep (h : Unseals un s t) {i : Nat} (hi : i < 16) : Unseals un s (removalStep t i) := by
  unfold Machine.removalStep
  extract_lets ph ns mine u w s1
  have h1 : Unseals un s s1 := by
    by_cases hc : ph = 1 ∧ (keysOf t i .retiring).isEmpty ∧ (t.ikey i).st ≠ .retiring
    · have hp : ∀ ns, fget (zeroingPages t ns) (Reg.isRemove i) 29 28 ≠ 3 := fun ns => by
        rw [((Kept.refl t).zeroingPages (ns := ns)).seals.2.2 i hi, show fget t (Reg.isRemove i) 29 28 = 1 from hc.1]; decide
      simp only [s1, if_pos hc]
      exact ((h.kept (Kept.refl t).zeroingPages).fset_isRemove (.inl (hp _))).kept (Kept.updInst (Kept.upd (Kept.refl _)))
    · simp only [s1, if_neg hc]; exact h
  split
  · exact h1.removalDone
  · exact h1

theorem Unseals.removalSteps (h : Unseals un s t) {l : List Nat} (hl : ∀ i ∈ l, i < 16) : Unseals un s (l.foldl Machine.removalStep t) :=
  List.foldlRecOn l _ h fun _ hu i hi => hu.removalStep (hl i hi)

theorem Sealing.startRemoval (h : Sealing un s t) {i : Inst} : Sealing un s (startRemoval t i) := by
  unfold Machine.startRemoval
  split
  · exact h
  · have h1 : Sealing un s (fset (instanceReset t i 0) (Reg.isRemove i) 29 28 1) := (h.kept (Kept.refl t).instanceReset).fset_isRemove
    exact h1.kept ((Kept.refl _).beginRetire.foldl fun _ hu _ _ => hu.beginRetire)

theorem Sealing.beginRemoval (h : Sealing un s t) {i : Inst} : Unseals un s (beginRemoval t i) := by
  unfold Machine.beginRemoval
  split
  · exact h.unseals
  · exact h.startRemoval.unseals.removalStep i.isLt

theorem Sealing.beginUnseal (h : Sealing un s t) (hu : un) : Unseals un s (beginUnseal t) := by
  unfold Machine.beginUnseal
  extract_lets bound
  have h1 : Sealing un s (bound.foldl (fun t i => Machine.startRemoval t (fin 15 i)) t) :=
    List.foldlRecOn _ _ h fun _ h _ _ => h.startRemoval
  have h2 : Sealing un s { (bound.foldl (fun t i => Machine.startRemoval t (fin 15 i)) t) with unsealing := true } :=
    ⟨h1.mem, fun hs => ⟨(h1.still hs).1, (h1.still hs).2.1, fun _ => hu⟩⟩
  exact (h2.unseals.removalSteps fun i hi => List.mem_range.mp (List.mem_filter.mp hi).1).endSeal

/-! ### The commands that may end sealed mode -/

/-- A command answers a next state that `Unseals` speaks of. -/
def Ends (un : Prop) (s : State) (r : Res) : Prop := ∃ t, r = .next t ∧ Unseals un s t

theorem Ends.next (h : Unseals un s t) : Ends un s (.next t) := ⟨t, rfl, h⟩

theorem Answers.ends {r : Res} (h : Answers s r) (hu : s.unsealing = true → un) : Ends un s r := by
  obtain ⟨t, rfl, hk⟩ := h
  exact .next (.of_kept hk hu)

theorem Ends.hostCmd (h : Unseals un s t) (hu : s.unsealing = true → un) : Ends un s (hostCmd s t) := by
  refine .next ?_
  split
  · exact h
  · exact .of_kept (.refl s) hu

theorem memoryOk_congr (hd : u.dev = t.dev) (hh : u.host = t.host) (h : memoryOk t) : memoryOk u := by
  simpa only [memoryOk, hd, hh] using h

theorem execTenantRemoval_ends (i : Inst) (v : W32) (hu : s.unsealing = true → un) : Ends un s (execTenantRemoval i v s) := by
  refine .hostCmd ?_ hu
  split
  · exact (Sealing.refl hu).beginRemoval
  · exact .of_kept (.refl s) hu

theorem execPageZeroed_ends (n : Fin 393216) (hu : s.unsealing = true → un) : Ends un s (execPageZeroed n s) := by
  unfold execPageZeroed
  dsimp only
  split
  · exact .next (.of_kept (.refl s) hu)
  · refine .next (Unseals.removalSteps (.of_kept ?_ hu) fun i hi => List.mem_range.mp hi)
    exact Kept.endEvictions ((Kept.refl s).setPage.writes rfl rfl fun hm => ⟨Memory.wf_zero _ _ hm.1, hm.2⟩)

theorem execRetireFinish_ends (k : KeyId) (hu : s.unsealing = true → un) : Ends un s (execRetireFinish k s) := by
  unfold execRetireFinish
  extract_lets e busy s1 s2
  split
  · exact .next (.of_kept (.refl s) hu)
  · refine .next (Unseals.removalSteps (.of_kept ?_ hu) fun i hi => List.mem_range.mp hi)
    have h1 : Kept s s1 := (Kept.refl s).setKeyEnt
    cases k
    case adapter => exact h1.zeroingPages.setDesc
    all_goals exact h1

theorem execRetire_ends (fn : Fn) (m : KeyMsg) (hu : s.unsealing = true → un) : Ends un s (execRetire fn m s) := by
  have hq : ∀ {t}, Kept s t → Ends un s (.next t) := fun k => .next (.of_kept k hu)
  unfold execRetire withKey
  split
  · exact hq (.refl s)
  split
  · exact hq (Kept.refl s).keyAnswer
  split
  · exact hq (Kept.refl s).keyAnswer
  split
  swap
  · exact hq (Kept.refl s).keyAnswer
  dsimp only
  split
  · exact hq (Kept.refl s).keyAnswer
  split
  · exact hq (Kept.refl s).keyAnswer
  split
  · exact .next ((Sealing.refl hu).beginRemoval.kept (Kept.refl _).beginRetire.keyAnswer)
  · exact hq (Kept.refl s).beginRetire.keyAnswer

theorem execUnseal_ends (fn : Fn) (m : KeyMsg) (hu : s.unsealing = true → un) (hc : sessionCert s fn m.sess = some s.sealCert → un) :
    Ends un s (execUnseal fn m s) := by
  have hq : ∀ {t}, Kept s t → Ends un s (.next t) := fun k => .next (.of_kept k hu)
  unfold execUnseal
  split
  · exact hq (.refl s)
  rename_i cert hs
  split
  · exact hq (Kept.refl s).keyAnswer
  split
  · exact hq (Kept.refl s).keyAnswer
  · rename_i hn
    have hcert : cert = s.sealCert := by by_contra h; exact hn (.inr (.inr h))
    exact .next (((Sealing.refl hu).beginUnseal (hc (hcert ▸ hs))).kept (Kept.refl _).keyAnswer)

/-- A SEAL that is granted finds no sealed mode. -/
theorem sealing_starts (fn : Fn) {mask : Nat} {cert : BitVec 384} (hs : sealed s = false) (hm : memoryOk s → memoryOk u) :
    Unseals un s (keyAnswer { (fset (fset (fset u Reg.isSealctl 30 30 0) Reg.isSealctl 31 31 1) Reg.isSealctl 15 0 mask) with sealCert := cert }
      fn 0x10 0 none) :=
  ⟨fun h => (Kept.refl _).keyAnswer.mem (memoryOk_congr rfl rfl (hm h)), .inl fun h => by rw [hs] at h; cases h⟩

theorem execSeal_ends (fn : Fn) (m : KeyMsg) (hu : s.unsealing = true → un) : Ends un s (execSeal fn m s) := by
  have hq : ∀ {t}, Kept s t → Ends un s (.next t) := fun k => .next (.of_kept k hu)
  unfold execSeal
  split
  · exact hq (.refl s)
  split
  · exact hq (Kept.refl s).keyAnswer
  split
  · exact hq (Kept.refl s).keyAnswer
  split
  · exact hq ((Kept.refl s).fset_sealctl (.inr rfl)).keyAnswer
  split
  · exact hq (Kept.refl s).keyAnswer
  · rename_i hn
    have hns : sealed s = false := by simp_all
    exact .next (sealing_starts fn hns (Kept.refl s).clearTrace.mem)

/-- A write that is no removal is kept. -/
theorem writeKsis_unseals (h : Sealing un s t) (off v : Nat) : Unseals un s (writeKsis t off v) := by
  unfold writeKsis
  split
  · exact (h.kept (Kept.refl t).writeRulectl).unseals
  · exact (h.kept (Kept.refl t).writeXval).unseals
  · split
    · exact h.beginRemoval
    · exact h.unseals
  · exact (h.kept (Kept.refl t).regWritePlain).unseals

theorem pfWrite_unseals (h : Sealing un s t) (off v : Nat) : Unseals un s (pfWrite t off v) := by
  have hq : ∀ {u}, Kept t u → Unseals un s u := fun k => (h.kept k).unseals
  have hx : ∀ {base stride n : Nat},
    (idxOf base stride n off).isSome = true → (base + stride * n < 0x400018 ∨ 0x402000 ≤ base) → quietReg off = true :=
    fun hi hb => quietReg_of_idxOf (Option.some_get hi).symm hb
  have r := Kept.refl t
  unfold pfWrite
  split
  · exact hq r.writeBase
  · split
    · exact hq r.writeQm
    · exact hq r.writeSc
    · refine hq (.ite r.writeAck (.ite r.writeSdc ?_))
      split
      · exact r.rearm (hx ‹_› (by decide))
      · exact r.regWritePlain
    · exact writeKsis_unseals h off v
    · exact hq (.ite r.writeQuota (.noteClip r.regWritePlain))
    · exact hq (.noteClip r.regWritePlain)
    · exact hq r.writeLstn
    · split
      · exact hq r.writePortctl
      · exact hq r.regWritePlain
    · split
      · exact hq r.requestReset
      · exact hq r.regWritePlain
    · refine hq (.ite r.writeLimit ?_)
      split
      · exact r.writeClk (hx ‹_› (by decide))
      · exact r.regWritePlain
    · exact hq (.ite r.writeDump (.noteClip r.regWritePlain))
    · exact hq r.regWritePlain

theorem writeWhole_unseals (h : Sealing un s t) (fn : Fn) (off v : Nat) : Unseals un s (writeWhole t fn off v) := by
  unfold writeWhole
  split
  · exact pfWrite_unseals h off v
  · exact (h.kept (Kept.refl t).vfWrite).unseals

theorem bar0Write_unseals (h : Sealing un s t) (fn : Fn) (off size : Nat) (v : W64) : Unseals un s (bar0Write t fn off size v) := by
  have hd : ∀ {o}, Sealing un s (t.dropLow fn o) := h.kept (Kept.refl t).dropLow
  unfold bar0Write
  split
  · split
    · exact writeWhole_unseals hd fn off _
    · exact h.unseals
  split
  · split
    · exact writeWhole_unseals h fn off _
    · exact (h.kept (.ite (Kept.refl t) (Kept.refl t).upd)).unseals
    · split
      · exact writeWhole_unseals hd fn _ _
      · exact h.unseals
  · exact h.unseals

theorem execRegisterWrite_ends (fn : Fn) (off size : Nat) (v : W64) (hu : s.unsealing = true → un) : Ends un s (execRegisterWrite fn off size v s) :=
  .hostCmd (bar0Write_unseals (.refl hu) fn off size v) hu

theorem execZeroise_ends (h' : EcHdr) (hu : un) : Ends un s (execZeroise h' s) := by
  have hq : ∀ {t}, Kept s t → Ends un s (.next t) := fun k => .next (.of_kept k fun _ => hu)
  unfold execZeroise ecCmd
  split
  swap
  · exact hq (.refl s)
  split
  · exact hq (Kept.refl s).respond
  split
  · exact hq (Kept.refl s).respond
  split
  · exact hq (Kept.refl s).respond
  · refine .next (Unseals.kept (t := if sealed (zeroiseKeys s) then beginUnseal (zeroiseKeys s) else zeroiseKeys s) ?_ (Kept.refl _).toRecovery.respond)
    have hz : Sealing un s (zeroiseKeys s) := .of_kept (Kept.refl s).zeroiseKeys fun _ => hu
    split
    · exact hz.beginUnseal hu
    · exact hz.unseals

/-! ### Device resets -/

/-- A reset keeps memory canonical and leaves no key of a tenant. -/
structure Wipes (s t : State) : Prop where
  mem : memoryOk s → memoryOk t
  ktab : t.ktab = []
  ikeys : t.ikeys = []

theorem Wipes.same (h : Wipes s t) (hd : u.dev = t.dev) (hh : u.host = t.host) (hk : u.ktab = t.ktab) (hi : u.ikeys = t.ikeys) : Wipes s u :=
  ⟨fun hm => by simpa only [memoryOk, hd, hh] using h.mem hm, hk.trans h.ktab, hi.trans h.ikeys⟩

theorem Wipes.pinAlert (h : Wipes s t) : Wipes s (pinAlert t) := by
  unfold Machine.pinAlert
  dsimp only
  split
  · exact h
  · exact h.same rfl rfl rfl rfl

theorem Wipes.showJournal (h : Wipes s t) : Wipes s (showJournal t) := by
  unfold Machine.showJournal
  split
  · exact h.same rfl rfl rfl rfl
  · exact h

theorem Wipes.drawKeys (h : Wipes s t) : Wipes s (drawKeys t) :=
  List.foldlRecOn _ _ (h.same rfl rfl rfl rfl) fun _ hu _ _ => hu.same rfl rfl rfl rfl

theorem deviceReset_wipes (h : s.host = t.host) : Wipes s (deviceReset t) := by
  have h0 : ∀ u : State, u.dev = [] → u.host = t.host → u.ktab = [] → u.ikeys = [] → Wipes s u :=
    fun u hd hh hk hi => ⟨fun hm => ⟨by rw [hd]; rfl, by rw [hh, ← h]; exact hm.2⟩, hk, hi⟩
  unfold deviceReset
  dsimp only
  refine Wipes.showJournal ?_
  split
  · refine .drawKeys (.pinAlert ?_)
    exact h0 _ rfl rfl rfl rfl
  · refine .pinAlert ?_
    exact h0 _ rfl rfl rfl rfl

end Sys2Proof.Proofs

end

section
/-! PROOFS. Every command and every step answers: O3, O4 and O59. -/

namespace Sys2Proof.Proofs
open Sys2Proof.Machine

variable {s t u : State}

/-- The end of sealed mode has begun: an unsealing runs, or the command begins one. -/
def Unsealed (c : Instr) (s : State) : Prop :=
  s.unsealing = true ∨ (∃ fn m, c = .unseal fn m ∧ sessionCert s fn m.sess = some s.sealCert) ∨ ∃ h, c = .zeroise h

/-- The commands that reset the device. -/
def Resets (c : Instr) : Prop := c = .flrPf ∨ c = .perstAssert ∨ (∃ h, c = .devreset h) ∨ ∃ us, c = .plinthRailLoss us

/-- What every command answers: a next state with both memories as they are kept, where sealed mode goes on, or ends as R329 says. -/
def Ran (c : Instr) (s : State) (r : Res) : Prop := ∃ t, r = .next t ∧ (Unseals (Unsealed c s) s t ∨ Resets c ∧ Wipes s t)

theorem Ran.of_ends {c : Instr} {r : Res} (h : Ends (Unsealed c s) s r) : Ran c s r := by
  obtain ⟨t, hr, ht⟩ := h
  exact ⟨t, hr, .inl ht⟩

theorem Ran.of_answers {c : Instr} {r : Res} (h : Answers s r) : Ran c s r := .of_ends (h.ends .inl)

theorem execFlrPf_ran (s : State) : Ran .flrPf s (execFlrPf s) := ⟨_, rfl, .inr ⟨.inl rfl, deviceReset_wipes rfl⟩⟩

theorem execPerstAssert_ran (s : State) : Ran .perstAssert s (execPerstAssert s) := ⟨_, rfl, .inr ⟨.inr (.inl rfl), deviceReset_wipes rfl⟩⟩

theorem execDevreset_ran (h' : EcHdr) (s : State) : Ran (.devreset h') s (execDevreset h' s) := by
  have hq : ∀ {t}, Kept s t → Ran (.devreset h') s (.next t) := fun k => .of_answers (.next k)
  have hw := deviceReset_wipes (rfl : s.host = s.host)
  unfold execDevreset ecCmd
  split
  swap
  · exact hq (.refl s)
  split
  · exact hq (Kept.refl s).respond
  split
  · exact hq (Kept.refl s).respond
  split
  · exact hq (Kept.refl s).respond
  · exact ⟨_, rfl, .inr ⟨.inr (.inr (.inl ⟨_, rfl⟩)), hw.same rfl rfl rfl rfl⟩⟩

theorem execPlinthRailLoss_ran (us : Nat) (s : State) : Ran (.plinthRailLoss us) s (execPlinthRailLoss us s) := by
  unfold execPlinthRailLoss
  split
  · exact .of_answers (.next (.refl s))
  · exact ⟨_, rfl, .inr ⟨.inr (.inr (.inr ⟨_, rfl⟩)), ⟨fun hm => ⟨rfl, hm.2⟩, rfl, rfl⟩⟩⟩

theorem exec_ran (c : Instr) (s : State) : Ran c s (exec c s) := by
  have r := Kept.refl s
  have hu : s.unsealing = true → Unsealed c s := .inl
  have q : ∀ {c : Instr} {x : Res}, Answers s x → Ran c s x := .of_answers
  unfold exec
  split
  exacts [q (.execTld r), q (.execTldAccld r), q (.execTst r), q (.execTcp r), q (.execMmz r), q (.execMma r), q (.execMmw r), q (.execMmq r),
    q (.execPro r), q (.execEpi r), q (.execChn r), q (.execSegLoad r), q (.execSegSelect r), q (.execSegClear r), q (.execSndSend r),
    q (.execSndAttach r), q (.execSndDetach r), q (.execRcvPlace r), q (.execRcvCombine r), q (.execSynWait r), q (.execSynSignal r),
    q (.execNrm r), q (.execUpd r), q (.execTrp r), q (.execEndItem r), q (.execStartGrant r), q (.execTransferTimeout r),
    q (.execTileArrival r), q (.execTileAck r), q (.execTileResendRetry r), q (.execDoorbell r), q (.execAdmitEntry r), q (.execWork r),
    q (.execOrder r), q (.execAdapterLoad r), q (.execAdapterSwap r), q (.execAdapterPin r), q (.execAdapterUnpin r), q (.execAdapterEvict r),
    q (.execAdapterFree r), q (.execBaseLoad r), q (.execBaseSwap r), q (.execBaseFreeze r), q (.execBaseUnfreeze r), q (.execMemAlloc r),
    q (.execMemFree r), q (.execCopy r), q (.execNormread r), q (.execPeerOpen r), q (.execPeerClose r), q (.execStreamOpen r),
    q (.execStreamClose r), q (.execNop r), q (.execGenerationSatisfied r), q (.execDispatch r), q (.execLedgerRelease r), q (.execPreempt r),
    q (.execSwitchOut r), q (.execContextRestore r), q (.execMicrobatchBoundary r), q (.execPrevdirRelease r), q (.execOverflowNotify r),
    q (.execVerdictExchange r), q (.execLsDecide r), q (.execTnHoldApply r), q (.execTnHoldDiscard r), q (.execLsEnable r), q (.execUpdRun r),
    q (.execUpdComplete r), q (.execMirrorSend r), q (.execDigestExchange r), q (.execAdapterRestore r), q (.execWorkingCopyRefresh r),
    q (.execCast r), q (.execContributionArrival r), q (.execEngineShardArrival r), q (.execHeaderTile r), q (.execStreamDone r),
    q (.execGroupForm r), q (.execGroupReset r), q (.execGroupResetApply r), q (.execDataShard r), q (.execReport r), q (.execReq r),
    q (.execPacketForward r), q (.execRailFrame r), q (.execShardResendTimeout r), q (.execReqTimeout r), q (.execLane r), q (.execPortLoss r),
    q (.execNotice r), q (.execChange r), q (.execVote r), q (.execVoteWindowExpiry r), q (.execCommit r), q (.execTakeover r),
    q (.execTakeoverTimeout r), q (.execKeyFetch r), .of_ends (execRetireFinish_ends _ hu), q (.execRuleChangeComplete r),
    .of_ends (execPageZeroed_ends _ hu), q (.execSetkey r), .of_ends (execRetire_ends _ _ hu), q (.execQuery r),
    .of_ends (execSeal_ends _ _ hu), .of_ends (execUnseal_ends _ _ hu fun hc => .inr (.inl ⟨_, _, rfl, hc⟩)), q (.execSpdmRequest r),
    q (.execIdeKm r), .of_ends (execTenantRemoval_ends _ _ hu), q (.execInstctlReset r), q (.execInstctlQuiesce r), q (.execInstanceQuiesced r),
    q (.execInstctlResume r), q (.execInstctlFreeze r), q (.execInstctlSave r), q (.execInstctlRestore r), q (.execInstctlThaw r),
    q (.execFlrVf r), execFlrPf_ran s, q (.execRingEnable r), q (.execDirtyEnable r), q (.execDirtySelect r), q (.execFlipped r),
    q (.execTnNanstatRearm r), q (.execMrNanstatRearm r), q (.execFcLstatRearm r), q (.execIsViolRearm r), q (.execFcAck r),
    q (.execReverify r), q (.execKeepowner r), q (.execKeepbuddy r), q (.execXvalStage r), q (.execRulectlCommit r), q (.execSealArm r),
    q (.execQmApWrite r), q (.execTableBaseWrite r), q (.execInstcfgWrite r), q (.execPcoresWrite r), q (.execQuotaWrite r),
    q (.execPortEnable r), q (.execPortTraining r), q (.execTrDump r), q (.execMailboxWordWrite r), q (.execMailboxPublish r),
    q (.execMailboxRelease r), q (.execDeviceNotice r), q (.execBar4Access r), .of_ends (execRegisterWrite_ends _ _ _ _ hu),
    q (.execFaultMessage r), q (.execLogic r), q (.execDieFence r), q (.execPcretire r), q (.execPcCopyDone r), q (.execStackfail r),
    q (.execRing r), q (.execFwWatchdog r), q (.execHeartbeatMiss r), q (.execGlitch r), q (.execThermwarn r), q (.execThermtrip r),
    q (.execRail r), q (.execPowerSample r), q (.execClockStep r), q (.execDozeEntry r), q (.execNapEntry r), q (.execDieNap r),
    q (.execWake r), q (.execTraceDrop r), execPerstAssert_ran s, q (.execPerstRelease r), q (.execMemdone r), q (.execReady r),
    q (.execPlinthBoot r), q (.execPwrWarn r), q (.execUndervoltage r), q (.execArmatureConnect r), q (.execIdent r), q (.execAttest r),
    q (.execCerts r), q (.execLogread r), q (.execTelem r), q (.execSubscribe r), q (.execTelemetryEvent r), q (.execInstreset r),
    q (.execQuiesce r), q (.execHalt r), q (.execRailcut r), .of_ends (execZeroise_ends _ (.inr (.inr ⟨_, rfl⟩))), execDevreset_ran _ s,
    q (.execFaultack r), q (.execSvcstate r), q (.execImgwrite r), q (.execImgact r), q (.execHandoverTimeout r), q (.execJrnlupd r),
    q (.execMacsec r), q (.execAnchor r), q (.execPctrain r), q (.execLaneeq r), q (.execCorerepl r), q (.execProcstat r),
    q (.execMctpRequest r), q (.execPldmAnchorInstall r), q (.execPlinthReboot r), q (.execRootblock r), execPlinthRailLoss_ran _ s,
    q (.execLowHalfRead r), q (.execNeighbourDiscovery r), q (.execOpcodeNotInTable r), q (.execSaved r), q (.execTrDumpDone r),
    q (.execLoadingDone r)]

/-! ### A step on an empty queue -/

/-- Fencing any core, of the device or not, leaves both memories canonical. -/
theorem memoryOk_fenceCore (k : Nat) (h : memoryOk t) : memoryOk (fenceCore t k) := by
  have hp : ∀ u l, memoryOk u → memoryOk (promoteSpare u l) := fun u l hu => by
    unfold promoteSpare
    split <;> exact hu
  unfold fenceCore
  split
  · exact h
  · dsimp only
    have hk : ∀ u, memoryOk u → memoryOk (vacate ((keysOnCore t k).foldl replayItem u) k) := fun u hu =>
      (Kept.vacate ((Kept.refl u).foldl fun _ hv _ _ => hv.replayItem)).mem hu
    split
    · exact hk _ (hp _ _ h)
    · exact hk _ h

theorem memoryOk_procStep (p : Proc) (h : memoryOk t) : memoryOk (procStep t p) := by
  have r := Kept.refl t
  unfold procStep
  split
  · exact h
  split
  · split
    · exact (Kept.ite r.imageDone r).mem h
    · exact r.rollStep.mem h
    · exact r.rollStep.mem h
    · exact h
  · exact (Kept.ite (.setProc (.ite r.endRetrain r)) r).mem h
  · exact (Kept.ite r.endLaneeq.setProc r).mem h
  · split
    · exact (Kept.refl _).setProc.mem (memoryOk_fenceCore _ h)
    · exact h

theorem memoryOk_tick (h : memoryOk t) : memoryOk (tick t) := by
  have h1 : memoryOk (procTick (retryRetire (firmwareAcks (tickTails (tickArrays (tickTrace (tickCharge (tickTime t)))))))) :=
    List.foldlRecOn _ _ ((Kept.refl t).tickTime.tickCharge.tickTrace.tickArrays.tickTails.firmwareAcks.retryRetire.mem h)
      fun _ hu p _ => memoryOk_procStep p hu
  exact (Kept.settleRefreshes (.tickEngines (.tickOps ((Kept.refl _).foldl fun _ hu _ _ => hu.tryFreeze)))).mem h1

/-! ### The statements -/

theorem exec_answers (c : Instr) (s : State) : ∃ t, exec c s = .next t ∧ (memoryOk s → memoryOk t) := by
  obtain ⟨t, ht, hu | ⟨-, hw⟩⟩ := exec_ran c s
  · exact ⟨t, ht, hu.mem⟩
  · exact ⟨t, ht, hw.mem⟩

theorem step_answers (s : State) : ∃ t, step s = .next t ∧ (memoryOk s → memoryOk t) := by
  unfold step
  split
  · exact ⟨_, rfl, memoryOk_tick⟩
  · exact exec_answers _ _

/-- Settles O3: every step answers a state whose memories are canonical. -/
theorem stepKeepsMemoryCanonical : Obligations.StepKeepsMemoryCanonical := by
  intro s t hm hs
  obtain ⟨u, hu, hk⟩ := step_answers s
  rw [hs] at hu
  cases hu
  exact hk hm

/-- Settles O4: no arm of a command refuses or faults. -/
theorem everyCommandAnswers : Obligations.EveryCommandAnswers :=
  ⟨fun c s => (exec_answers c s).imp fun _ h => h.1, fun s => (step_answers s).imp fun _ h => h.1⟩

/-- Settles O59: only a device reset and the end of an unsealing clear the sealed bit. -/
theorem sealedModeEnds : Obligations.SealedModeEnds := by
  intro c s t hs he ht
  obtain ⟨u, hu, ho⟩ := exec_ran c s
  rw [he] at hu
  cases hu
  rcases ho with ⟨-, hstill | ⟨hun, hb⟩⟩ | ⟨hr, hw⟩
  · obtain ⟨h1, -, -⟩ := hstill hs
    rw [sealed, fbit_eq_fget, h1] at ht
    cases ht
  · exact .inr ⟨hun, fun i hi => hb i i.isLt hi⟩
  · exact .inl ⟨hr, hw.ktab, hw.ikeys⟩

end Sys2Proof.Proofs

end

section
/-! PROOFS. The step's front and the reset state: O1, O2 and O5. -/

namespace Sys2Proof.Proofs
open Sys2Proof.Machine

/-- Settles O1: it is how a step is defined on a queue that is not empty. -/
theorem stepRunsFront : Obligations.StepRunsFront := by
  intro c rest s h
  simp only [step, h]

/-- Settles O2: both memories list nothing at reset. -/
theorem resetMemoryCanonical : Obligations.ResetMemoryCanonical := ⟨⟨rfl, rfl⟩, fun _ => ⟨rfl, rfl⟩⟩

/-- Settles O5: no table lists anything at reset, and the registers named read their reset fields. -/
theorem resetValues : Obligations.ResetValues := by
  have hmap : ∀ l : Fin 128, mapped State.reset l = true ∧ physOf State.reset l = 18 * (l.val / 16) + l.val % 16 := by decide +kernel
  exact ⟨rfl, rfl, rfl, rfl, rfl, by decide +kernel, hmap, fun _ => rfl, fun _ => rfl, fun _ => rfl, by decide +kernel⟩

end Sys2Proof.Proofs
end

section
/-! PROOFS. The tile command that a command word spells: O60. -/

namespace Sys2Proof.Proofs
open Sys2Proof.Machine

/-- A field of the operand bits is the word's. -/
theorem field_truncate (w : W128) {hi lo : Nat} (hh : hi < 120) : WellFormed.field (w.truncate 120) hi lo = bits w.toNat hi lo := by
  apply Nat.eq_of_testBit_eq
  intro j
  simp only [WellFormed.field, bits, BitVec.truncate_eq_setWidth, BitVec.toNat_setWidth, Nat.testBit_mod_two_pow, Nat.testBit_div_two_pow]
  by_cases hj : j < hi + 1 - lo
  · have : j + lo < 120 := by omega
    simp [hj, this]
  · simp [hj]

/-- An opcode before operand bits stands in the word's top byte, and the operand bits below it. -/
theorem opcode_append (n : Byte) (b : BitVec 120) : bits (n ++ b : BitVec (8 + 120)).toNat 127 120 = n.toNat := by
  have hn := n.isLt
  have hb := b.isLt
  rw [bits, BitVec.toNat_append, ← Nat.shiftLeft_add_eq_or_of_lt hb, Nat.shiftLeft_eq]
  omega

theorem truncate_append (n : Byte) (b : BitVec 120) : (n ++ b : BitVec (8 + 120)).truncate 120 = b := by
  have hn := n.isLt
  have hb := b.isLt
  apply BitVec.eq_of_toNat_eq
  rw [BitVec.truncate_eq_setWidth, BitVec.toNat_setWidth, BitVec.toNat_append, ← Nat.shiftLeft_add_eq_or_of_lt hb, Nat.shiftLeft_eq]
  omega

/-- The command that a word spells is well formed. -/
theorem wellFormed_tileCommand (k : PCore) (w : W128) : WellFormed (tileCommand k w) = true := by
  have hf : ∀ {hi lo : Nat}, hi < 120 → WellFormed.field (w.truncate 120) hi lo = bits w.toNat hi lo := field_truncate w
  have h1 := bits_lt w.toNat 103 103
  unfold tileCommand
  dsimp only
  split
  case h_1 => split <;> simp_all [WellFormed, WellFormed.accld] <;> tauto
  case h_11 => split_ifs <;> simp_all [WellFormed]; omega
  case h_12 => split_ifs <;> simp_all [WellFormed]; omega
  case h_13 => split_ifs <;> simp_all [WellFormed]; omega
  case h_14 => split_ifs <;> simp_all [WellFormed]; omega
  case h_19 => simp_all [WellFormed, WellFormed.opcodes]
  all_goals rfl

/-- An opcode outside the table spells the command that rejects it. -/
theorem tileCommand_of_notInTable (k : PCore) (w : W128) (h : WellFormed.opcodes.contains (bits w.toNat 127 120) = false) :
    tileCommand k w = .opcodeNotInTable k w := by
  unfold tileCommand
  dsimp only
  split
  case h_19 => rfl
  all_goals simp_all [WellFormed.opcodes]

/-- Settles O60: the opcode selects the arm, and the operand bits of a well-formed command the alternative of the arm. -/
theorem commandWordsDecode : Obligations.CommandWordsDecode := by
  intro k w
  refine ⟨wellFormed_tileCommand k w, tileCommand_of_notInTable k w, ?_⟩
  rintro n b i rfl hw hi
  have hop := opcode_append n b
  have hb := truncate_append n b
  have hf : ∀ {hi lo : Nat}, hi < 120 → bits (n ++ b : BitVec (8 + 120)).toNat hi lo = WellFormed.field b hi lo := fun h => by
    rw [← field_truncate _ h, hb]
  simp only [List.mem_cons, List.not_mem_nil, or_false, Prod.mk.injEq] at hi
  rcases hi with ⟨rfl, rfl⟩ | ⟨rfl, rfl⟩ | ⟨rfl, rfl⟩ | ⟨rfl, rfl⟩ | ⟨rfl, rfl⟩ | ⟨rfl, rfl⟩ | ⟨rfl, rfl⟩ | ⟨rfl, rfl⟩ | ⟨rfl, rfl⟩ | ⟨rfl, rfl⟩ |
    ⟨rfl, rfl⟩ | ⟨rfl, rfl⟩ | ⟨rfl, rfl⟩ | ⟨rfl, rfl⟩ | ⟨rfl, rfl⟩ | ⟨rfl, rfl⟩ | ⟨rfl, rfl⟩ | ⟨rfl, rfl⟩ | ⟨rfl, rfl⟩ | ⟨rfl, rfl⟩ | ⟨rfl, rfl⟩ |
    ⟨rfl, rfl⟩ | ⟨rfl, rfl⟩ | ⟨rfl, rfl⟩ | ⟨rfl, rfl⟩ <;>
  simp_all [tileCommand, WellFormed, WellFormed.accld]
  · tauto
  · rw [if_neg (by omega), if_neg (by omega)]
  · rw [if_neg (by omega), if_neg (by omega)]
  · omega

end Sys2Proof.Proofs
end

section
/-! PROOFS. Rounding to FP32 and to FP16, and what the residue of an accumulation and the stochastic cast rest on: O6 and O7. -/

namespace Sys2Proof.Proofs
open Sys2Proof.Machine

/-! ### The value of a dyadic number -/

/-- The rational that a dyadic number is. -/
def Dy.val (x : Dy) : ℚ := x.m * 2 ^ x.e

theorem Dy.mantAt_val (x : Dy) {e : Int} (h : e ≤ x.e) : (x.mantAt e : ℚ) * 2 ^ e = Dy.val x := by
  have h2 : (2 : ℚ) ≠ 0 := two_ne_zero
  rw [Dy.mantAt, Dy.val, Int.cast_mul, Int.cast_pow, mul_assoc, Int.cast_ofNat, ← zpow_natCast, ← zpow_add₀ h2]
  congr 2
  omega

theorem Dy.val_add (x y : Dy) : Dy.val (x.add y) = Dy.val x + Dy.val y := by
  rw [← Dy.mantAt_val x (min_le_left x.e y.e), ← Dy.mantAt_val y (min_le_right x.e y.e), ← add_mul, ← Int.cast_add]
  rfl

/-! ### Rounding -/

/-- Rounding to a multiple of 2^q moves the value by at most half of 2^q. -/
theorem rneAt_error (m : Nat) (e q : Int) : |(rneAt m e q : ℚ) * 2 ^ q - m * 2 ^ e| ≤ 2 ^ q / 2 := by
  have h2 : (2 : ℚ) ≠ 0 := two_ne_zero
  have hq : (0 : ℚ) < 2 ^ q := by positivity
  unfold rneAt
  split
  case isTrue h =>
    have : ((m * 2 ^ (e - q).toNat : Nat) : ℚ) * 2 ^ q = m * 2 ^ e := by
      rw [Nat.cast_mul, Nat.cast_pow, Nat.cast_ofNat, mul_assoc, ← zpow_natCast, ← zpow_add₀ h2]
      congr 2; omega
    rw [this, sub_self, abs_zero]; positivity
  case isFalse h =>
    dsimp only
    generalize hk : (q - e).toNat = k
    have he : (2 : ℚ) ^ q = 2 ^ k * 2 ^ e := by
      rw [← zpow_natCast, ← zpow_add₀ h2]; congr 1; omega
    have hm : (m : ℚ) = (m / 2 ^ k : Nat) * 2 ^ k + (m % 2 ^ k : Nat) := by
      exact_mod_cast (Nat.div_add_mod' m (2 ^ k)).symm
    have hr : ((m % 2 ^ k : Nat) : ℚ) < 2 ^ k := by exact_mod_cast Nat.mod_lt _ (by positivity)
    have he0 : (0 : ℚ) < 2 ^ e := by positivity
    generalize m / 2 ^ k = d at *
    generalize m % 2 ^ k = r at *
    rw [he, hm, show ∀ x : ℚ, x * (2 ^ k * 2 ^ e) - (d * 2 ^ k + r) * 2 ^ e = ((x - d) * 2 ^ k - r) * 2 ^ e from fun x => by ring,
      abs_mul, abs_of_pos he0, mul_div_right_comm]
    refine mul_le_mul_of_nonneg_right ?_ he0.le
    split
    case isTrue hc =>
      have hc' : (2 ^ k : ℚ) ≤ 2 * r := by
        have : 2 ^ k ≤ 2 * r := by simp at hc; omega
        exact_mod_cast this
      rw [abs_le]; push_cast; constructor <;> linarith
    case isFalse hc =>
      have hc' : 2 * (r : ℚ) ≤ 2 ^ k := by
        have : 2 * r ≤ 2 ^ k := by simp at hc; omega
        exact_mod_cast this
      rw [abs_le]; push_cast; constructor <;> linarith [show (0 : ℚ) ≤ r from Nat.cast_nonneg r]

/-- A value of at most `b` multiples of 2^q rounds to at most `b` of them. -/
theorem rneAt_le {m : Nat} {e q : Int} {b : Nat} (h : (m : ℚ) * 2 ^ e ≤ b * 2 ^ q) : rneAt m e q ≤ b := by
  have hq : (0 : ℚ) < 2 ^ q := by positivity
  have h1 := (abs_le.mp (rneAt_error m e q)).2
  have h2 : (rneAt m e q : ℚ) * 2 ^ q ≤ (b + 1 / 2) * 2 ^ q := by linarith
  have h3 : (rneAt m e q : ℚ) ≤ b + 1 / 2 := le_of_mul_le_mul_right h2 hq
  have h4 : (rneAt m e q : ℚ) < (b + 1 : Nat) := by push_cast; linarith
  exact Nat.lt_succ_iff.mp (by exact_mod_cast h4)

/-- A multiple of 2^q is what it rounds to. -/
theorem rneAt_exact {m n : Nat} {e q : Int} (h : (m : ℚ) * 2 ^ e = n * 2 ^ q) : rneAt m e q = n := by
  have hq : (0 : ℚ) < 2 ^ q := by positivity
  have h1 := rneAt_error m e q
  rw [h, ← sub_mul, abs_mul, abs_of_pos hq, div_eq_inv_mul] at h1
  have h3 : |(rneAt m e q : ℚ) - n| ≤ 2⁻¹ := le_of_mul_le_mul_right h1 hq
  have h4 : |((rneAt m e q : ℤ) - n : ℤ)| < 1 := by
    have : |(((rneAt m e q : ℤ) - n : ℤ) : ℚ)| < 1 := by push_cast; linarith
    exact_mod_cast this
  have := Int.abs_lt_one_iff.mp h4
  omega

theorem bitLen_spec {m : Nat} (h : m ≠ 0) : 2 ^ (bitLen m - 1) ≤ m ∧ m < 2 ^ bitLen m ∧ 0 < bitLen m := by
  rw [bitLen, if_neg h]
  exact ⟨Nat.log2_self_le h, Nat.lt_log2_self, Nat.succ_pos _⟩

theorem bitLen_eq {m k : Nat} (h1 : 2 ^ k ≤ m) (h2 : m < 2 ^ (k + 1)) : bitLen m = k + 1 := by
  have hm : m ≠ 0 := by have := Nat.two_pow_pos k; omega
  rw [bitLen, if_neg hm]
  congr 1
  exact (Nat.log2_eq_iff hm).mpr ⟨h1, h2⟩

theorem rneAt_ge {m : Nat} {e q : Int} {b : Nat} (h : (b : ℚ) * 2 ^ q ≤ m * 2 ^ e) : b ≤ rneAt m e q := by
  have hq : (0 : ℚ) < 2 ^ q := by positivity
  have h1 := (abs_le.mp (rneAt_error m e q)).1
  have h2 : (b - 1 / 2) * 2 ^ q ≤ (rneAt m e q : ℚ) * 2 ^ q := by linarith
  have h3 : (b : ℚ) - 1 / 2 ≤ rneAt m e q := le_of_mul_le_mul_right h2 hq
  have h4 : (b : ℚ) < (rneAt m e q + 1 : Nat) := by push_cast; linarith
  exact Nat.lt_succ_iff.mp (by exact_mod_cast h4)

/-- A number of `p` digits or more lies between 2^(p-1) and 2^p units of its last of `p` places. -/
theorem value_bounds {m : Nat} (hm : m ≠ 0) (e : Int) (p : Nat) :
    (2 : ℚ) ^ (p : Int) * 2 ^ ((bitLen m : Int) + e - p - 1) ≤ m * 2 ^ e ∧ (m : ℚ) * 2 ^ e ≤ 2 ^ (p : Int) * 2 ^ ((bitLen m : Int) + e - p) := by
  have h2 : (2 : ℚ) ≠ 0 := two_ne_zero
  have he : (0 : ℚ) < 2 ^ e := by positivity
  obtain ⟨hlo, hhi, hl⟩ := bitLen_spec hm
  have hlo' : (2 : ℚ) ^ ((bitLen m : Int) - 1) ≤ m := by
    rw [show (bitLen m : Int) - 1 = ((bitLen m - 1 : Nat) : Int) by omega, zpow_natCast]; exact_mod_cast hlo
  have hhi' : (m : ℚ) ≤ 2 ^ (bitLen m : Int) := by rw [zpow_natCast]; exact_mod_cast hhi.le
  constructor
  · calc (2 : ℚ) ^ (p : Int) * 2 ^ ((bitLen m : Int) + e - p - 1) = 2 ^ ((bitLen m : Int) - 1) * 2 ^ e := by
          rw [← zpow_add₀ h2, ← zpow_add₀ h2]; congr 1; ring
      _ ≤ m * 2 ^ e := mul_le_mul_of_nonneg_right hlo' he.le
  · calc (m : ℚ) * 2 ^ e ≤ 2 ^ (bitLen m : Int) * 2 ^ e := mul_le_mul_of_nonneg_right hhi' he.le
      _ = 2 ^ (p : Int) * 2 ^ ((bitLen m : Int) + e - p) := by
          rw [← zpow_add₀ h2, ← zpow_add₀ h2]; congr 1; ring

/-! ### FP32 -/

theorem bit_top {n : Bool} {k x : Nat} (h : x < 2 ^ k) : bit (b2n n * 2 ^ k + x) k = n := by
  rw [bit, Nat.mul_comm, Nat.mul_add_div (Nat.two_pow_pos k), Nat.div_eq_of_lt h]
  cases n <;> rfl

/-- What an FP32 word of a sign, an exponent field and a fraction decodes to. -/
theorem dec32_word (n : Bool) {x f : Nat} (hx : x < 255) (hf : f < 2 ^ 23) :
    dec32 (BitVec.ofNat 32 (b2n n * 2 ^ 31 + x * 2 ^ 23 + f)) = if x = 0 then .fin n f (-149) else .fin n (8388608 + f) ((x : Int) - 150) := by
  have hn : b2n n ≤ 1 := by cases n <;> decide
  have hw : (BitVec.ofNat 32 (b2n n * 2 ^ 31 + x * 2 ^ 23 + f)).toNat = b2n n * 2 ^ 31 + (x * 2 ^ 23 + f) := by
    rw [BitVec.toNat_ofNat]; omega
  have he : bits (b2n n * 2 ^ 31 + (x * 2 ^ 23 + f)) 30 23 = x := by unfold bits; omega
  have hfr : bits (b2n n * 2 ^ 31 + (x * 2 ^ 23 + f)) 22 0 = f := by unfold bits; omega
  simp only [dec32, hw, he, hfr, bit_top (show x * 2 ^ 23 + f < 2 ^ 31 by omega), if_neg hx.ne]

theorem ulpExp_word (n : Bool) {x f : Nat} (hx : x < 255) (hf : f < 2 ^ 23) :
    ulpExp (BitVec.ofNat 32 (b2n n * 2 ^ 31 + x * 2 ^ 23 + f)) = (max 1 x : Nat) - (150 : Int) := by
  have hn : b2n n ≤ 1 := by cases n <;> decide
  have he : bits (BitVec.ofNat 32 (b2n n * 2 ^ 31 + x * 2 ^ 23 + f)).toNat 30 23 = x := by
    rw [BitVec.toNat_ofNat]; unfold bits; omega
  rw [ulpExp, he]

theorem dec32_inf (n : Bool) : dec32 (BitVec.ofNat 32 (b2n n * 2 ^ 31 + 0x7F800000)) = .inf n := by cases n <;> decide

/-- The place of the last digit that FP32 keeps of m * 2^e. -/
def place32 (m : Nat) (e : Int) : Int := max ((bitLen m : Int) + e - 24) (-149)

/-- The FP32 word of k * 2^q, for k below 2^24: an infinity where its exponent is beyond the field. -/
def enc32 (n : Bool) (k : Nat) (q : Int) : W32 × Bool :=
  if k < 2 ^ 23 then (BitVec.ofNat 32 (b2n n * 2 ^ 31 + k), false)
  else if 255 ≤ (q + 150).toNat then (BitVec.ofNat 32 (b2n n * 2 ^ 31 + 0x7F800000), true)
  else (BitVec.ofNat 32 (b2n n * 2 ^ 31 + (q + 150).toNat * 2 ^ 23 + (k - 2 ^ 23)), false)

theorem rne32_fin (n : Bool) (m : Nat) (e : Int) : rne32 (.fin n m e) =
    if rneAt m e (place32 m e) = 2 ^ 24 then enc32 n (2 ^ 23) (place32 m e + 1) else enc32 n (rneAt m e (place32 m e)) (place32 m e) := by
  have hp : max ((bitLen m : Int) + e - ((24 : Nat) : Int)) (-149) = place32 m e := rfl
  simp only [rne32, rneP, hp, enc32]
  by_cases h : rneAt m e (place32 m e) = 2 ^ 24
  · simp only [if_pos h]
  · simp only [if_neg h]

theorem enc32_subnormal (n : Bool) {k : Nat} (q : Int) (h : k < 2 ^ 23) :
    dec32 (enc32 n k q).1 = .fin n k (-149) ∧ ulpExp (enc32 n k q).1 = -149 := by
  have h1 := dec32_word n (x := 0) (by decide) h
  have h2 := ulpExp_word n (x := 0) (by decide) h
  rw [Nat.zero_mul, Nat.add_zero] at h1 h2
  simp only [enc32, if_pos h]
  exact ⟨by rw [h1]; rfl, by rw [h2]; decide⟩

theorem enc32_finite (n : Bool) {k : Nat} {q : Int} (h1 : 2 ^ 23 ≤ k) (h2 : k < 2 ^ 24) (hq : -149 ≤ q) (hq2 : q < 105) :
    dec32 (enc32 n k q).1 = .fin n k q ∧ ulpExp (enc32 n k q).1 = q := by
  have hx : (q + 150).toNat < 255 := by omega
  have hf : k - 2 ^ 23 < 2 ^ 23 := by omega
  simp only [enc32, if_neg h1.not_gt, if_neg hx.not_ge]
  refine ⟨?_, ?_⟩
  · rw [dec32_word n hx hf, if_neg (by omega), show 8388608 + (k - 2 ^ 23) = k by omega, show (((q + 150).toNat : Nat) : Int) - 150 = q by omega]
  · rw [ulpExp_word n hx hf]; omega

theorem enc32_normal (n : Bool) {k : Nat} {q : Int} (h1 : 2 ^ 23 ≤ k) (h2 : k < 2 ^ 24) (hq : -149 ≤ q) :
    dec32 (enc32 n k q).1 = .inf n ∨ dec32 (enc32 n k q).1 = .fin n k q ∧ ulpExp (enc32 n k q).1 = q := by
  rcases lt_or_ge q 105 with hlt | hge
  · exact .inr (enc32_finite n h1 h2 hq hlt)
  · refine .inl ?_
    simp only [enc32, if_neg h1.not_gt, if_pos (show 255 ≤ (q + 150).toNat by omega)]
    exact dec32_inf n

theorem rneAt_place_le (m : Nat) (e : Int) : rneAt m e (place32 m e) ≤ 2 ^ 24 := by
  by_cases hm : m = 0
  · subst hm; exact (rneAt_le (b := 0) (by simp)).trans (by decide)
  · refine rneAt_le ((value_bounds hm e 24).2.trans ?_)
    have : (2 : ℚ) ^ ((bitLen m : Int) + e - (24 : Nat)) ≤ 2 ^ place32 m e := zpow_le_zpow_right₀ (by norm_num) (le_max_left _ _)
    push_cast at this ⊢
    exact mul_le_mul_of_nonneg_left this (by positivity)

/-- A number that is kept to fewer than 24 digits is a zero, or is cut at the last place of FP32. -/
theorem rneAt_place_lt {m : Nat} {e : Int} (h : rneAt m e (place32 m e) < 2 ^ 23) :
    rneAt m e (place32 m e) = 0 ∧ m = 0 ∨ place32 m e = -149 := by
  by_cases hm : m = 0
  · subst hm; exact .inl ⟨Nat.le_zero.mp (rneAt_le (by simp)), rfl⟩
  · refine .inr (by_contra fun hne => h.not_ge (rneAt_ge ?_))
    have hqe : place32 m e = (bitLen m : Int) + e - 24 := by unfold place32 at hne ⊢; omega
    refine le_trans (le_of_eq ?_) (value_bounds hm e 24).1
    rw [hqe, zpow_sub_one₀ two_ne_zero, zpow_natCast, Nat.cast_pow, Nat.cast_ofNat]
    push_cast
    ring

/-- RNE32 of a number: an infinity, or a number that moved by at most half of the word's ulp. -/
theorem rne32_error (n : Bool) (m : Nat) (e : Int) :
    dec32 (rne32 (.fin n m e)).1 = .inf n ∨
      ∃ k q, dec32 (rne32 (.fin n m e)).1 = .fin n k q ∧ |(k : ℚ) * 2 ^ q - m * 2 ^ e| ≤ 2 ^ ulpExp (rne32 (.fin n m e)).1 / 2 := by
  have hge : -149 ≤ place32 m e := le_max_right _ _
  have herr := rneAt_error m e (place32 m e)
  have hle := rneAt_place_le m e
  have hlow := @rneAt_place_lt m e
  rw [rne32_fin]
  generalize place32 m e = q at *
  generalize rneAt m e q = k at *
  split
  case isTrue hk =>
    refine (enc32_normal n le_rfl (by decide) (by omega : -149 ≤ q + 1)).imp id fun ⟨hd, hu⟩ => ⟨_, _, hd, ?_⟩
    have hp : (0 : ℚ) < 2 ^ q := by positivity
    rw [hk] at herr
    rw [hu, zpow_add_one₀ two_ne_zero, show ((2 ^ 23 : Nat) : ℚ) * (2 ^ q * 2) = ((2 ^ 24 : Nat) : ℚ) * 2 ^ q by push_cast; ring]
    linarith
  case isFalse hk =>
    rcases lt_or_ge k (2 ^ 23) with hlt | hlt
    · obtain ⟨hd, hu⟩ := enc32_subnormal n q hlt
      refine .inr ⟨_, _, hd, ?_⟩
      rw [hu]
      rcases hlow hlt with ⟨rfl, rfl⟩ | rfl
      · rw [Nat.cast_zero, zero_mul, zero_mul, sub_zero, abs_zero]; positivity
      · exact herr
    · exact (enc32_normal n hlt (by omega) hge).imp id fun ⟨hd, hu⟩ => ⟨_, _, hd, hu.symm ▸ herr⟩

/-! ### The residue -/

theorem Fv.dy_neg_val (n : Bool) (m : Nat) (e : Int) : Dy.val (Fv.fin n m e).neg.dy = -Dy.val (Fv.fin n m e).dy := by
  cases n <;> simp [Fv.neg, Fv.dy, Dy.val]

/-- A dyadic number's own sign and magnitude give it back. -/
theorem Fv.ofDy_eq (b : Bool) (x : Dy) : ∃ n, Fv.ofDy b x = .fin n x.m.natAbs x.e ∧ Dy.val (Fv.fin n x.m.natAbs x.e).dy = Dy.val x := by
  unfold Fv.ofDy
  split
  case isTrue h => exact ⟨b, by rw [h]; rfl, by cases b <;> simp [Fv.dy, Dy.val, h]⟩
  case isFalse h =>
    refine ⟨_, rfl, ?_⟩
    rcases lt_or_ge x.m 0 with hn | hn
    · simp only [Fv.dy, Dy.val, hn, decide_true, if_true]
      rw [Int.ofNat_natAbs_of_nonpos hn.le]; simp
    · simp only [Fv.dy, Dy.val, hn.not_gt, decide_false, Bool.false_eq_true, if_false, Int.natAbs_of_nonneg hn]

theorem Dy.natAbs_val (x : Dy) : (x.m.natAbs : ℚ) * 2 ^ x.e = |Dy.val x| := by
  rw [Dy.val, abs_mul, abs_of_pos (show (0 : ℚ) < 2 ^ x.e by positivity), Nat.cast_natAbs, Int.cast_abs]

theorem zero_residue : -16384 ≤ (0#16 : W16).toInt ∧ (0#16 : W16).toInt ≤ 16384 := by decide

theorem toInt_ofInt_le {x : Int} (h1 : -16384 ≤ x) (h2 : x ≤ 16384) : (BitVec.ofInt 16 x).toInt = x := by
  rw [BitVec.toInt_ofInt]
  exact Int.bmod_eq_of_le (by omega) (by omega)

/-- The residue that a rounding leaves is within 2^14: it is at most half an ulp, in units of 2^-15 ulp. -/
theorem pairOf_residue {b : Bool} {v : Dy} {q : Pair} {o : Bool} (h : pairOf b v = .ok q o) : -16384 ≤ q.t.toInt ∧ q.t.toInt ≤ 16384 := by
  obtain ⟨n, hv, hval⟩ := Fv.ofDy_eq b v
  unfold pairOf at h
  rw [hv] at h
  have herr := rne32_error n v.m.natAbs v.e
  generalize rne32 (.fin n v.m.natAbs v.e) = w at h herr
  obtain ⟨w, o'⟩ := w
  dsimp only at h herr
  rcases herr with hi | ⟨k, e, hd, herr⟩
  · rw [hi] at h
    cases h
    exact zero_residue
  · rw [hd] at h
    cases h
    have hd' : Dy.val (v.add (Fv.fin n k e).neg.dy) = Dy.val (Fv.fin n v.m.natAbs v.e).dy - Dy.val (Fv.fin n k e).dy := by
      rw [Dy.val_add, Fv.dy_neg_val, hval]; ring
    have hsign : |Dy.val (Fv.fin n v.m.natAbs v.e).dy - Dy.val (Fv.fin n k e).dy| = |(k : ℚ) * 2 ^ e - v.m.natAbs * 2 ^ v.e| := by
      cases n
      · rw [abs_sub_comm]; simp [Fv.dy, Dy.val]
      · simp [Fv.dy, Dy.val]; congr 1; ring
    have hle : rneAt (v.add (Fv.fin n k e).neg.dy).m.natAbs (v.add (Fv.fin n k e).neg.dy).e (ulpExp w - 15) ≤ 16384 := by
      refine rneAt_le ?_
      rw [Dy.natAbs_val, hd', hsign]
      refine herr.trans (le_of_eq ?_)
      rw [zpow_sub₀ two_ne_zero]; norm_num; ring
    dsimp only
    split <;> rw [toInt_ofInt_le (by omega) (by omega)] <;> omega

/-- Settles O6: what is not an infinity is a rounding, and a rounding leaves at most half an ulp. -/
theorem residueStaysInRange : Obligations.ResidueStaysInRange := by
  intro a q p o h
  have h0 : ∀ {s : W32} {o' : Bool}, Produced.ok { s := s, t := 0#16 } o' = Produced.ok q o → -16384 ≤ q.t.toInt ∧ q.t.toInt ≤ 16384 := by
    intro s o' h
    cases h
    exact zero_residue
  unfold accAdd at h
  split at h
  · cases h
  · cases h
  · split at h
    · exact h0 h
    · cases h
  · exact h0 h
  · exact h0 h
  · exact pairOf_residue h

/-! ### FP16 and the stochastic cast -/

/-- The place of the last digit that FP16 keeps of m * 2^e. -/
def place16 (m : Nat) (e : Int) : Int := max ((bitLen m : Int) + e - 11) (-24)

/-- The FP16 word of k * 2^q, for k below 2^11: an infinity where its exponent is beyond the field. -/
def enc16 (n : Bool) (k : Nat) (q : Int) : W16 × Bool :=
  if k < 2 ^ 10 then (BitVec.ofNat 16 (b2n n * 2 ^ 15 + k), false)
  else if 31 ≤ (q + 25).toNat then (BitVec.ofNat 16 (b2n n * 2 ^ 15 + 0x7C00), true)
  else (BitVec.ofNat 16 (b2n n * 2 ^ 15 + (q + 25).toNat * 2 ^ 10 + (k - 2 ^ 10)), false)

/-- A number of at most 11 digits at its place is encoded as it is. -/
theorem rne16_exact (n : Bool) {m k : Nat} {e q : Int} (hq : place16 m e = q) (hk : k < 2 ^ 11) (hv : (m : ℚ) * 2 ^ e = k * 2 ^ q) :
    rne16 (.fin n m e) = enc16 n k q := by
  have hp : max ((bitLen m : Int) + e - ((11 : Nat) : Int)) (-24) = q := hq
  simp only [rne16, rneP, hp, enc16, rneAt_exact hv, if_neg hk.ne]

/-- A finite FP16 word is the encoding of what it decodes to: 11 digits, or the last place of FP16. -/
theorem dec16_finite {h : W16} (hf : (dec16 h).isFinite = true) :
    ∃ n k q, dec16 h = .fin n k q ∧ enc16 n k q = (h, false) ∧ k < 2 ^ 11 ∧ -24 ≤ q ∧ q ≤ 5 ∧ (q = -24 ∨ 2 ^ 10 ≤ k) := by
  have hh := h.isLt
  have hx : bits h.toNat 14 10 ≤ 31 := by unfold bits; omega
  have hfr : bits h.toNat 9 0 < 2 ^ 10 := by unfold bits; omega
  have hw : h.toNat = b2n (bit h.toNat 15) * 2 ^ 15 + bits h.toNat 14 10 * 2 ^ 10 + bits h.toNat 9 0 := by
    have : b2n (bit h.toNat 15) = h.toNat / 2 ^ 15 := by
      unfold bit b2n
      rcases Nat.lt_or_ge h.toNat (2 ^ 15) with hlt | hge
      · rw [Nat.div_eq_of_lt hlt]; rfl
      · rw [show h.toNat / 2 ^ 15 = 1 by omega]; rfl
    rw [this]; unfold bits; omega
  have hback : BitVec.ofNat 16 h.toNat = h := by simp
  unfold dec16 at hf ⊢
  dsimp only at hf ⊢
  generalize bits h.toNat 14 10 = x at *
  generalize bits h.toNat 9 0 = f at *
  generalize bit h.toNat 15 = n at *
  by_cases h31 : x = 31
  · rw [if_pos h31] at hf; split at hf <;> cases hf
  rw [if_neg h31]
  by_cases h0 : x = 0
  · rw [if_pos h0]
    refine ⟨n, f, -24, rfl, ?_, by omega, by omega, by omega, .inl rfl⟩
    rw [enc16, if_pos hfr, ← hback, hw, h0, Nat.zero_mul, Nat.add_zero]
  · rw [if_neg h0]
    refine ⟨n, 1024 + f, (x : Int) - 25, rfl, ?_, by omega, by omega, by omega, .inr (by omega)⟩
    rw [enc16, if_neg (by omega), if_neg (by omega), show ((x : Int) - 25 + 25).toNat = x by omega, show 1024 + f - 2 ^ 10 = f by omega, ← hw, hback]

theorem bitLen_le {k p : Nat} (h : k < 2 ^ p) : bitLen k ≤ p := by
  by_cases hk : k = 0
  · subst hk; exact Nat.zero_le p
  · by_contra hc
    have : 2 ^ p ≤ 2 ^ (bitLen k - 1) := Nat.pow_le_pow_right (by decide) (by omega)
    have := (bitLen_spec hk).1
    omega

/-- A number of at most 11 digits, in 24 digits. -/
theorem widened_bounds {k : Nat} (hk : k < 2 ^ 11) (hk0 : k ≠ 0) : 2 ^ 23 ≤ k * 2 ^ (24 - bitLen k) ∧ k * 2 ^ (24 - bitLen k) < 2 ^ 24 := by
  obtain ⟨hlo, hhi, hl⟩ := bitLen_spec hk0
  have hl11 := bitLen_le hk
  constructor
  · calc 2 ^ 23 = 2 ^ (bitLen k - 1) * 2 ^ (24 - bitLen k) := by rw [← pow_add]; congr 1; omega
      _ ≤ k * 2 ^ (24 - bitLen k) := Nat.mul_le_mul_right _ hlo
  · calc k * 2 ^ (24 - bitLen k) < 2 ^ bitLen k * 2 ^ (24 - bitLen k) := Nat.mul_lt_mul_of_pos_right hhi (Nat.two_pow_pos _)
      _ = 2 ^ 24 := by rw [← pow_add]; congr 1; omega

theorem widened_value {k : Nat} (hk : k < 2 ^ 11) (q : Int) :
    ((k * 2 ^ (24 - bitLen k) : Nat) : ℚ) * 2 ^ ((bitLen k : Int) + q - 24) = k * 2 ^ q := by
  have hl11 := bitLen_le hk
  rw [Nat.cast_mul, Nat.cast_pow, Nat.cast_ofNat, mul_assoc, ← zpow_natCast, ← zpow_add₀ two_ne_zero]
  congr 2; omega

/-- Widening a number of at most 11 digits keeps it, in 24 digits. -/
theorem dec32_widen {h : W16} {n : Bool} {k : Nat} {q : Int} (hd : dec16 h = .fin n k q) (hk : k < 2 ^ 11) (hk0 : k ≠ 0) (h1 : -24 ≤ q) (h2 : q ≤ 5) :
    dec32 (widen h) = .fin n (k * 2 ^ (24 - bitLen k)) (bitLen k + q - 24) := by
  have hl11 := bitLen_le hk
  have hl := (bitLen_spec hk0).2.2
  have hp : place32 k q = bitLen k + q - 24 := by unfold place32; omega
  obtain ⟨hdn, hup⟩ := widened_bounds hk hk0
  rw [widen, hd, rne32_fin, hp, rneAt_exact (widened_value hk q).symm, if_neg hup.ne]
  exact (enc32_finite n hdn hup (by omega) (by omega)).1

/-- The stochastic cast finds the number itself below it. -/
theorem fp16Floor_widened {k : Nat} {q : Int} (hk : k < 2 ^ 11) (hk0 : k ≠ 0) (hp : place16 k q = q) :
    place16 (k * 2 ^ (24 - bitLen k)) (bitLen k + q - 24) = q ∧ fp16Floor (k * 2 ^ (24 - bitLen k)) (bitLen k + q - 24) = (k, q) := by
  have hl11 := bitLen_le hk
  obtain ⟨hdn, hup⟩ := widened_bounds hk hk0
  have hb : bitLen (k * 2 ^ (24 - bitLen k)) = 24 := bitLen_eq (k := 23) hdn hup
  have hq : max ((24 : Nat) + ((bitLen k : Int) + q - 24) - 11) (-24) = q := by
    rw [show ((24 : Nat) : Int) + ((bitLen k : Int) + q - 24) - 11 = bitLen k + q - 11 by omega]; exact hp
  refine ⟨by rw [place16, hb]; exact hq, ?_⟩
  simp only [fp16Floor, hb, hq]
  rw [if_neg (by omega), show (q - ((bitLen k : Int) + q - 24)).toNat = 24 - bitLen k by omega, Nat.mul_div_cancel _ (Nat.two_pow_pos _)]

/-- Settles O7: an exact FP16 number is a multiple of its own spacing, so nothing is left that could round it up. -/
theorem stochasticCastKeepsExact : Obligations.StochasticCastKeepsExact := by
  intro h u hf
  obtain ⟨n, k, q, hd, henc, hk, h1, h2, hq⟩ := dec16_finite hf
  unfold stochastic16
  by_cases hk0 : k = 0
  · subst hk0
    have hq : q = -24 := by omega
    have hw : dec32 (widen h) = .fin n 0 (-149) := by
      have hr : rneAt 0 q (place32 0 q) = 0 := Nat.le_zero.mp (rneAt_le (by simp))
      rw [widen, hd, rne32_fin, hr, if_neg (by decide)]
      exact (enc32_subnormal n (k := 0) _ (by decide)).1
    rw [hw]
    dsimp only
    rw [if_pos rfl, ← henc, hq]
    exact rne16_exact n (by decide) (by decide) (by simp)
  · rw [dec32_widen hd hk hk0 h1 h2]
    have hpl : place16 k q = q := by
      unfold place16
      rcases hq with hq | hq
      · have : bitLen k ≤ 11 := bitLen_le hk
        omega
      · have : bitLen k = 11 := bitLen_eq (k := 10) hq hk
        omega
    obtain ⟨hpm, hfl⟩ := fp16Floor_widened hk hk0 hpl
    have hm0 : k * 2 ^ (24 - bitLen k) ≠ 0 := by have := (widened_bounds hk hk0).1; omega
    have hv := widened_value hk q
    generalize k * 2 ^ (24 - bitLen k) = m at *
    generalize (bitLen k : Int) + q - 24 = e at *
    have hrem : (({ m := m, e := e } : Dy).add { m := -(k : Int), e := q }).m = 0 := by
      have h0 : Dy.val (({ m := m, e := e } : Dy).add { m := -(k : Int), e := q }) = 0 := by
        rw [Dy.val_add, Dy.val, Dy.val]; push_cast; linarith
      rw [Dy.val, mul_eq_zero] at h0
      exact_mod_cast h0.resolve_right (by positivity)
    dsimp only
    rw [if_neg hm0, hfl]
    dsimp only
    split
    · rw [rne16_exact n hpm hk hv, henc]
    · rw [if_neg, rne16_exact n hpl hk rfl, henc]
      rw [hrem]
      simp only [Dy.add, Dy.mantAt, Int.zero_mul, decide_eq_true_eq]
      rw [Int.zero_add, Int.neg_mul]
      exact not_lt.mpr (Int.neg_nonpos_of_nonneg (by positivity))

end Sys2Proof.Proofs
end

section
/-! PROOFS. Tile commands that change their core alone: O8. -/

namespace Sys2Proof.Proofs
open Sys2Proof.Machine

/-- A command that changes only its core, by an update that leaves the index alone, leaves the core stepped. -/
theorem tileCmd_stepped {s : State} {k opcode : Nat} {b : BitVec 120} {fmt : Led → Core → List Nat} {use : Led → Core → Use}
    {run : Nat → Led → Core → TileRes} {key : Nat} {e : Led} (h : issuing s k key e) (hf : fmt e (s.core k) = [])
    (hi : unheld s k e (use e (s.core k))) {f : Core → Core} (hr : run key e (s.core k) = .done (s.updCore k f) [])
    (hidx : (f (s.core k)).cmdIdx = (s.core k).cmdIdx) :
    ∃ t, (.next (tileCmd s k opcode b fmt use run) : Res) = .next t ∧ onlyCore s t k ∧ regsBut s t [] ∧ t.core k = stepped (f (s.core k)) := by
  obtain ⟨h1, h2, h3⟩ := tileCmd_core (b := b) (opcode := opcode) h hf hi hr
  exact ⟨_, rfl, h1, h2, by rw [h3, stepped, hidx]⟩

/-- A command whose effect is done leaves it beside the core's index, its flights and the trace unit. -/
theorem tileCmd_ran {s : State} {k opcode : Nat} {b : BitVec 120} {fmt : Led → Core → List Nat} {use : Led → Core → Use}
    {run : Nat → Led → Core → TileRes} {key : Nat} {e : Led} (h : issuing s k key e) (hf : fmt e (s.core k) = [])
    (hi : unheld s k e (use e (s.core k))) {t : State} {fl : List Flight} (hr : run key e (s.core k) = .done t fl) :
    ∃ u, (.next (tileCmd s k opcode b fmt use run) : Res) = .next u ∧ besideCores u = besideCores t ∧ (∀ j, j ≠ k → u.core j = t.core j) ∧
      u.core k = { t.core k with cmdIdx := (s.core k).cmdIdx + 1, wait := 0, flight := (t.core k).flight ++ fl } ∧
      ∀ off, (∀ d, off ≠ Reg.trPtr d) → rd u off = rd t off := by
  refine ⟨_, rfl, ?_⟩
  rw [tileCmd_done (b := b) (opcode := opcode) h hf hi hr]
  obtain ⟨h1, -, h3⟩ := traceCmd_frame (t.updCore k fun x =>
    { x with cmdIdx := (s.core k).cmdIdx + 1, wait := 0, flight := x.flight ++ fl }) k opcode (s.core k).cmdIdx (cmdArr b)
  refine ⟨h1, fun j hj => ?_, ?_, h3⟩
  · rw [traceCmd_core, State.core_updCore_other _ _ hj]
  · rw [traceCmd_core, State.core_updCore]

/-- A command whose effect is done answers a state of which holds what follows from `tileCmd_ran`. -/
theorem tileCmd_next {s : State} {k opcode : Nat} {b : BitVec 120} {fmt : Led → Core → List Nat} {use : Led → Core → Use}
    {run : Nat → Led → Core → TileRes} {key : Nat} {e : Led} (h : issuing s k key e) (hf : fmt e (s.core k) = [])
    (hi : unheld s k e (use e (s.core k))) {t : State} {fl : List Flight} (hr : run key e (s.core k) = .done t fl) {Q : State → Prop}
    (hQ : ∀ u, besideCores u = besideCores t → (∀ j, j ≠ k → u.core j = t.core j) →
      u.core k = { t.core k with cmdIdx := (s.core k).cmdIdx + 1, wait := 0, flight := (t.core k).flight ++ fl } →
      (∀ off, (∀ d, off ≠ Reg.trPtr d) → rd u off = rd t off) → Q u) :
    ∃ u, (.next (tileCmd s k opcode b fmt use run) : Res) = .next u ∧ Q u := by
  obtain ⟨u, hu, h1, h2, h3, h4⟩ := tileCmd_ran (b := b) (opcode := opcode) h hf hi hr
  exact ⟨u, hu, hQ u h1 h2 h3 h4⟩

/-- Two states alike beside their cores have the same memories. -/
theorem sameMemory_of_beside {s t : State} (h : besideCores t = besideCores s) : sameMemory s t :=
  ⟨show (besideCores t).dev = (besideCores s).dev from h ▸ rfl, show (besideCores t).host = (besideCores s).host from h ▸ rfl⟩

@[simp] theorem countOvf_zero (s : State) (e : Led) (layer : Nat) : countOvf s e layer 0 = s := by simp [countOvf]

/-- Settles O8: each of the four commands runs to an update of its core. -/
theorem coreStateCommandsComplete : Obligations.CoreStateCommandsComplete := by
  intro s k b key e h
  have hnil : interlock e (s.core k) {} = false ∧ xferFits s k e.inst 0 = true := unheld_nil s k e
  refine ⟨fun h1 h2 hu => ?_, fun h1 h2 => ?_, fun h1 h2 h3 h4 => ?_, fun h1 h2 h3 => ?_⟩
  · refine tileCmd_stepped (f := fun c => c.updArr (cmdArr b) fun a => a.setSet (f120 b 103 103) { st := .zeroed }) h ?_ hu rfl rfl
    simp [chk, h1, h2]
  · by_cases hfn : f120 b 102 99 = 0
    · simp only [if_pos hfn]
      refine tileCmd_stepped (f := fun c => c.updArr (cmdArr b) fun a => { a with pro := none }) h h1 ?_ ?_ rfl
      · simpa only [h2, if_true] using hnil
      · simp only [h2, hfn, and_self, if_true]
    · simp only [if_neg hfn]
      refine tileCmd_stepped (f := fun c => c.updArr (cmdArr b) fun a => { a with pro := some _ }) h h1 ?_ ?_ rfl
      · simpa only [h2, if_true] using hnil
      · simp only [h2, hfn, false_and, if_false, if_true, show ({} : Rep).count = 0 from rfl, countOvf_zero]
  · refine tileCmd_stepped (f := fun c => { c with sel := some _ }) h ?_ ?_ ?_ rfl
    · simp [segFaults, chk, h1, h2, h3, show f120 b 101 96 < segCount (s.core k) from h4]
    · simpa [h1] using hnil
    · simp [h1]
  · refine tileCmd_stepped (f := fun c => { c with sel := none }) h ?_ ?_ ?_ rfl
    · simp [segFaults, chk, h1, h2, h3]
    · simpa [h1] using hnil
    · simp [h1]

end Sys2Proof.Proofs
end

section
/-! PROOFS. TLD, TST and TCP: O11. -/

namespace Sys2Proof.Proofs
open Sys2Proof.Machine

/-! ### What a store writes -/

/-- From `s` to `t` no core changes, nor any byte of device memory that `P` holds of. -/
structure StoreFrame (P : Nat → Prop) (s t : State) : Prop where
  cores : t.cores = s.cores
  bytes : ∀ a, P a → Memory.get t.dev a = Memory.get s.dev a

variable {P : Nat → Prop} {s t u : State}

theorem StoreFrame.refl : StoreFrame P s s := ⟨rfl, fun _ _ => rfl⟩

theorem StoreFrame.of_eq (h : StoreFrame P s t) (hc : u.cores = t.cores) (hd : u.dev = t.dev) : StoreFrame P s u :=
  ⟨hc.trans h.cores, fun a ha => by rw [hd]; exact h.bytes a ha⟩

theorem StoreFrame.foldl {α : Type} {f : State → α → State} {l : List α} (h : StoreFrame P s t)
    (hf : ∀ u, StoreFrame P s u → ∀ x ∈ l, StoreFrame P s (f u x)) : StoreFrame P s (l.foldl f t) :=
  List.foldlRecOn l f h hf

theorem StoreFrame.dirtyBit (h : StoreFrame P s t) (i b : Nat) : StoreFrame P s (dirtyBit t i b) := by
  unfold Machine.dirtyBit
  dsimp only
  split
  · exact h
  split
  · exact h.of_eq rfl rfl
  · exact h.of_eq rfl rfl

theorem StoreFrame.hostWrite (h : StoreFrame P s t) (i a : Nat) (bs : List Byte) : StoreFrame P s (hostWrite t i a bs) :=
  .foldl (h.of_eq rfl rfl) fun _ hu b _ => hu.dirtyBit i b

theorem StoreFrame.devWrite (h : StoreFrame P s t) {a : Nat} {bs : List Byte} (hp : ∀ x, P x → x < a ∨ a + bs.length ≤ x) :
    StoreFrame P s (devWrite t a bs) :=
  ⟨h.cores, fun x hx => (Memory.get_write_out _ _ _ (hp x hx)).trans (h.bytes x hx)⟩

/-- The pieces of a range of a tile store lie within the range. -/
theorem TileStore.cut_within {st : TileStore} {a n : Nat} {p : Nat × List Byte × TagRec} (h : p ∈ st.cut a n) : p.1 + p.2.1.length ≤ n := by
  obtain ⟨g, hg, rfl⟩ := List.mem_map.mp h
  have hstart : g * Config.granule ≤ a + n := by
    unfold granules span at hg
    split at hg
    · cases hg
    · obtain ⟨i, hi, rfl⟩ := List.mem_map.mp hg
      have hi := List.mem_range.mp hi
      have hmono : a / Config.granule ≤ (a + n - 1) / Config.granule := Nat.div_le_div_right (by omega)
      calc (a / Config.granule + i) * Config.granule ≤ (a + n - 1) / Config.granule * Config.granule := Nat.mul_le_mul_right _ (by omega)
        _ ≤ a + n := (Nat.div_mul_le_self _ _).trans (by omega)
  simp only [TileStore.read, Memory.length_read]
  omega

/-- A write that passes its checks changes no byte outside its range of device memory. -/
theorem StoreFrame.memWrite (h : StoreFrame P s t) {e : Led} {train : Bool} {a n : Nat} {ps : List (Nat × List Byte × TagRec)}
    (ha : a < 2 ^ 48) (hn : ∀ p ∈ ps, p.1 + p.2.1.length ≤ n) (hp : ∀ x, P x → ¬ (bit a 47 = false ∧ a ≤ x ∧ x < a + n))
    (hu : memWrite t e train a ps = .ok u) : StoreFrame P s u := by
  unfold Machine.memWrite at hu
  split at hu
  case h_1 => cases hu
  case h_2 =>
    dsimp only at hu
    split at hu
    · cases hu
    · split at hu
      · cases hu
      · cases hu
        exact h.foldl fun _ hv p _ => hv.hostWrite _ _ _
  case h_3 x hx =>
    have hdev : bit a 47 = false ∧ x = a := by
      unfold addrOf at hx
      split at hx
      · cases hx
      · rename_i hb
        split at hx
        · rename_i hc
          cases hx
          refine ⟨by simpa using hb, ?_⟩
          have hb' : a / 2 ^ 47 % 2 = 0 := by simpa [bit] using hb
          have h1 := hc.1
          unfold bits at h1 ⊢
          omega
        · cases hx
    obtain ⟨hb, rfl⟩ := hdev
    split at hu
    · cases hu
    · split at hu
      · cases hu
      · cases hu
        refine h.foldl fun v hv p hm => ?_
        have hw : StoreFrame P s (Machine.devWrite v (x + p.1) p.2.1) := hv.devWrite fun y hy => by
          have h1 := hp y hy
          have h2 := hn p hm
          by_contra hc
          exact h1 ⟨hb, by omega, by omega⟩
        dsimp only
        split
        · exact hw.of_eq rfl rfl
        · exact hw

/-- What a TST writes: the runs of its tiles, each with the pieces that lie in it. -/
theorem mem_storeRuns {st : TileStore} {x : XferCmd} {w : Nat × List (Nat × List Byte × TagRec)} (h : w ∈ storeRuns st x) :
    ∃ n < x.nt, ∃ r ∈ x.runs n, w.1 = r.1 ∧ ∀ p ∈ w.2, p.1 + p.2.1.length ≤ r.2 := by
  obtain ⟨n, hn, hw⟩ := List.mem_flatMap.mp h
  refine ⟨n, List.mem_range.mp hn, ?_⟩
  have := List.foldlRecOn (motive := fun acc : List (Nat × List (Nat × List Byte × TagRec)) × Nat =>
    ∀ w ∈ acc.1, ∃ r ∈ x.runs n, w.1 = r.1 ∧ ∀ p ∈ w.2, p.1 + p.2.1.length ≤ r.2) (x.runs n)
    (fun acc r => (acc.1 ++ [(r.1, st.cut acc.2 r.2)], acc.2 + r.2)) (b := ([], x.taddr + n * tfmtSlot x.tfmt)) (by simp)
    (fun acc ha r hr w hw => by
      rcases List.mem_append.mp hw with hw | hw
      · exact ha w hw
      · obtain rfl := List.mem_singleton.mp hw
        exact ⟨r, hr, rfl, fun p hp => TileStore.cut_within hp⟩)
  exact this w hw

/-- Pieces that all bear one record: the first bears it, and none another. -/
theorem one_tag {ps : List (List Byte × TagRec)} {tag : TagRec} (hne : ps ≠ []) (ht : ∀ p ∈ ps, p.2 = tag) :
    (ps.head?.map (·.2)).getD none = tag ∧ ps.find? (fun p => decide (p.2 ≠ tag)) = none := by
  constructor
  · cases ps with
    | nil => exact absurd rfl hne
    | cons p ps' => exact ht p (List.mem_cons_self ..)
  · rw [List.find?_eq_none]; intro p hp; simp [ht p hp]

/-- A TLD of a set whose pieces all bear one record loads the set. -/
theorem runTld_accld {s : State} {k : Nat} {b : BitVec 120} {e : Led} {r : Except Stop (List (List Byte × TagRec))} {ps : List (List Byte × TagRec)}
    {tag : TagRec} (ha : (xferCmd b).accld = true) (hm : memRead s e (xferCmd b).maddr 24576 = r) (hp : r = .ok ps) (hne : ps ≠ [])
    (ht : ∀ p ∈ ps, p.2 = tag) : runTld s k b e = .done (s.updCore k fun c => c.updArr (cmdArr b) fun a => a.setSet (f120 b 6 6)
      (setOfImage (ps.flatMap (·.1)) (f120 b 5 5 = 1) (f120 b 4 3) tag)) [] := by
  unfold runTld
  simp only [ha, if_true]
  rw [hm]
  clear hm
  subst hp
  have h := one_tag hne ht
  simp only [h.1, h.2]
/-- A TLD into the tile store, or into a set, changes its core alone. -/
theorem tldCompletes {s : State} {k : PCore} {b : BitVec 120} {key : Nat} {e : Led} (h : issuing s k key e)
    (hf : xferFaults b true (s.core k) = []) (hu : unheld s k e (tldUse b)) :
    ((xferCmd b).accld = false → ∀ ps, loadTiles s e (xferCmd b) = .ok ps →
      ∃ t, exec (.tld k b) s = .next t ∧ onlyCore s t k ∧ regsBut s t [] ∧
        t.core k = stepped (ps.foldl (fun c p => c.write p.1 p.2.1 p.2.2) (s.core k))) ∧
    ((xferCmd b).accld = true → ∀ ps tag, memRead s e (xferCmd b).maddr 24576 = .ok ps → ps ≠ [] → (∀ p ∈ ps, p.2 = tag) →
      ∃ t, exec (.tldAccld k b) s = .next t ∧ onlyCore s t k ∧ regsBut s t [] ∧
        t.core k = stepped ((s.core k).updArr (cmdArr b) fun a => a.setSet (f120 b 6 6)
          (setOfImage (ps.flatMap (·.1)) (f120 b 5 5 = 1) (f120 b 4 3) tag))) := by
  refine ⟨fun ha ps hp => ?_, fun ha ps tag hp hne ht => ?_⟩
  · refine tileCmd_stepped (use := fun _ _ => tldUse b) (f := fun c => ps.foldl (fun c p => c.write p.1 p.2.1 p.2.2) c) h ?_ ?_ ?_ ?_
    · exact hf
    · exact hu
    · simp only [runTld, ha, Bool.false_eq_true, if_false, hp]
    · exact List.foldlRecOn (motive := fun c : Core => c.cmdIdx = (s.core k).cmdIdx) _ _ rfl fun _ hc _ _ => hc
  · exact tileCmd_stepped (use := fun _ _ => tldUse b) h hf hu (f := fun c => c.updArr (cmdArr b) _) (runTld_accld ha rfl hp hne ht) rfl

/-- The runs of a TST that passes its format checks lie below 2^48. -/
theorem run_lt_of_faults {b : BitVec 120} {load : Bool} {c : Core} (h : xferFaults b load c = []) {n : Nat} (hn : n < (xferCmd b).nt)
    {r : Nat × Nat} (hr : r ∈ (xferCmd b).runs n) : r.1 < 2 ^ 48 := by
  have hlast : chk ((List.range (xferCmd b).nt).any fun t => ((xferCmd b).runs t).any badRun) 0x39 = [] := (List.append_eq_nil_iff.mp h).2
  have hany : ((List.range (xferCmd b).nt).any fun t => ((xferCmd b).runs t).any badRun) = false := by
    unfold chk at hlast
    by_contra hc
    rw [if_pos (by simpa using hc)] at hlast
    cases hlast
  rw [List.any_eq_false] at hany
  have hrun := hany n (List.mem_range.mpr hn)
  rw [Bool.not_eq_true, List.any_eq_false] at hrun
  have hbad := hrun r hr
  have hpos : 0 < r.2 := by
    unfold XferCmd.runs at hr
    have hs : 0 < tfmtSlot (xferCmd b).tfmt := by unfold tfmtSlot; split <;> decide
    split at hr
    · rename_i hc
      have hstride : 0 < (xferCmd b).stride := by
        have hc : (xferCmd b).tfmt = 3 ∨ (xferCmd b).tfmt = 4 := by simpa [XferCmd.coded] using hc
        have : (xferCmd b).stride = if (xferCmd b).tfmt = 3 then 4096 else 2048 := if_pos hc
        rw [this]; split <;> decide
      simp only [List.mem_cons, List.not_mem_nil, or_false] at hr
      rcases hr with rfl | rfl
      · exact hstride
      · exact Nat.succ_pos 65
    · obtain rfl := List.mem_singleton.mp hr
      exact hs
  simp only [badRun, Bool.or_eq_true, decide_eq_true_eq, not_or] at hbad
  omega

/-- A TST writes its runs alone. -/
theorem tstCompletes {s : State} {k : PCore} {b : BitVec 120} {key : Nat} {e : Led} (h : issuing s k key e)
    (hf : xferFaults b false (s.core k) = [])
    (hu : unheld s k e { rd := [((xferCmd b).taddr, (xferCmd b).nt * tfmtSlot (xferCmd b).tfmt)], xfer := 1 })
    (hw : ∀ r ∈ storeRuns (s.core k).store (xferCmd b), ∃ u, memWrite s e (((s.core k).seg.map (·.train)).getD false) r.1 r.2 = .ok u) :
    ∃ t, exec (.tst k b) s = .next t ∧ t.core k = stepped (s.core k) ∧ (∀ j, j ≠ k.val → t.core j = s.core j) ∧
      ∀ a, (∀ n, n < (xferCmd b).nt → ∀ r ∈ (xferCmd b).runs n, ¬ (bit r.1 47 = false ∧ r.1 ≤ a ∧ a < r.1 + r.2)) →
        Memory.get t.dev a = Memory.get s.dev a := by
  have hrun : runTst s b e (s.core k) = .done ((storeRuns (s.core k).store (xferCmd b)).foldl (fun t r =>
      match memWrite t e (((s.core k).seg.map (·.train)).getD false) r.1 r.2 with
      | .ok u => u
      | .error _ => t) s) [] := by
    simp only [runTst]
    rw [List.findSome?_eq_none_iff.mpr fun r hr => by obtain ⟨v, hv⟩ := hw r hr; rw [hv]] <;> rfl
  have hframe : ∀ P : Nat → Prop,
      (∀ a, P a → ∀ n, n < (xferCmd b).nt → ∀ r ∈ (xferCmd b).runs n, ¬ (bit r.1 47 = false ∧ r.1 ≤ a ∧ a < r.1 + r.2)) →
      StoreFrame P s ((storeRuns (s.core k).store (xferCmd b)).foldl (fun t r =>
        match memWrite t e (((s.core k).seg.map (·.train)).getD false) r.1 r.2 with
        | .ok u => u
        | .error _ => t) s) := fun P hP => by
    refine StoreFrame.refl.foldl fun v hv w hw => ?_
    obtain ⟨n, hn, r, hr, hw1, hw2⟩ := mem_storeRuns hw
    cases hm : memWrite v e (((s.core k).seg.map (·.train)).getD false) w.1 w.2 with
    | ok u => exact hv.memWrite (hw1 ▸ run_lt_of_faults hf hn hr) hw2 (fun a ha => hw1 ▸ hP a ha n hn r hr) hm
    | error => exact hv
  generalize (storeRuns (s.core k).store (xferCmd b)).foldl _ s = v at hrun hframe
  have hcores : ∀ j, v.core j = s.core j := fun j => by
    simp only [State.core, (hframe (fun _ => False) fun _ h => h.elim).cores]
  refine tileCmd_next h hf hu hrun fun u hbeside hother hcore _ => ⟨?_, fun j hj => (hother j hj).trans (hcores j), fun a ha => ?_⟩
  · rw [hcore, hcores, List.append_nil]
  · rw [(sameMemory_of_beside hbeside).1]
    exact (hframe (· = a) fun _ h => h ▸ ha).bytes a rfl

/-- A TCP writes the scratch, or its own core's tile store. -/
theorem tcpCompletes {s : State} {k : PCore} {b : BitVec 120} {key : Nat} {e : Led} (h : issuing s k key e) (hf : tcpFaults s k b e = [])
    (hu : unheld s k e (if f120 b 103 103 = 1 then { rd := [(64 * f120 b 91 74, f120 b 99 92 * tfmtSlot (f120 b 102 100))], xfer := 1 }
      else { wr := [(64 * f120 b 91 74, f120 b 99 92 * tfmtSlot (f120 b 102 100))], xfer := 1 })) :
    ∃ t, exec (.tcp k b) s = .next t ∧ sameMemory s t ∧ (t.core k).cmdIdx = (s.core k).cmdIdx + 1 ∧
      (f120 b 103 103 = 1 → t.core k = stepped (s.core k)) ∧ (f120 b 103 103 = 0 → t.scratch = s.scratch) := by
  by_cases hst : f120 b 103 103 = 1
  · refine tileCmd_next (use := fun _ _ => _) h hf hu (by dsimp only; rw [if_pos hst]) fun u hbeside _ hcore _ => ?_
    refine ⟨⟨(sameMemory_of_beside hbeside).1, (sameMemory_of_beside hbeside).2⟩, by rw [hcore], fun _ => ?_, fun h0 => ?_⟩
    · rw [hcore, List.append_nil]; rfl
    · omega
  · refine tileCmd_next (use := fun _ _ => _) h hf hu (by dsimp only; rw [if_neg hst]) fun u hbeside _ hcore _ => ?_
    have hbeside : besideCores u = besideCores s := hbeside
    exact ⟨sameMemory_of_beside hbeside, by rw [hcore], fun h1 => absurd h1 hst,
      fun _ => show (besideCores u).scratch = (besideCores s).scratch from hbeside ▸ rfl⟩

/-- Settles O11: a TLD changes its core alone, a TST its runs, a TCP its tile store or the scratch. -/
theorem tileMovesComplete : Obligations.TileMovesComplete :=
  ⟨fun _ _ _ _ _ h hf hu => tldCompletes h hf hu, fun _ _ _ _ _ h => ⟨fun hf hu hw => tstCompletes h hf hu hw, fun hf hu => tcpCompletes h hf hu⟩⟩

end Sys2Proof.Proofs
end

section
/-! PROOFS. What follows an issue of SYN, SND and RCV: O12. -/

namespace Sys2Proof.Proofs
open Sys2Proof.Machine

/-! ### The core after an issue -/

theorem itemOf_congr {s t : State} {k : Nat} (hc : (t.core k).item = (s.core k).item) (hl : t.led = s.led) : itemOf t k = itemOf s k := by
  unfold itemOf State.ledAt
  rw [hc, hl]

theorem itemOf_updCore {s : State} {k : Nat} {f : Core → Core} (hf : (f (s.core k)).item = (s.core k).item) :
    itemOf (s.updCore k f) k = itemOf s k :=
  itemOf_congr (by rw [State.core_updCore, hf]) rfl

/-- The core without the flights of the sends that the entry's acknowledgements end (R101). -/
def sendsEnded (e : Led) (c : Core) : Core :=
  { c with flight := c.flight.filter fun f => match f.kind with
    | .send n0 ts | .epiSend n0 ts => !sendDone e n0 ts.length
    | _ => true }

theorem besideCores_fset (s : State) (off hi lo v : Nat) : besideCores (fset s off hi lo v) = besideCores s := rfl

/-- What follows an issue changes the core and registers alone. -/
theorem afterIssue_eq {s : State} {k key : Nat} {e : Led} (h : itemOf s k = some (key, e)) :
    besideCores (afterIssue s k) = besideCores s ∧ (∀ j, j ≠ k → (afterIssue s k).core j = s.core j) ∧
      (afterIssue s k).core k = (sendsEnded e (s.core k)).settle unitBusy 33 := by
  have heq : afterIssue s k = notePeak (finishSends s k e) := by
    unfold afterIssue
    rw [h]
  rw [heq]
  refine ⟨(besideCores_fset _ _ _ _ _).trans rfl, fun j hj => ?_, ?_⟩
  · change ((s.updCore k (sendsEnded e)).updCore k fun c => c.settle unitBusy 33).core j = _
    rw [State.core_updCore_other _ _ hj, State.core_updCore_other _ _ hj]
  · change ((s.updCore k (sendsEnded e)).updCore k fun c => c.settle unitBusy 33).core k = _
    rw [State.core_updCore, State.core_updCore]

/-- A core without its semaphores and its flights. -/
def besideSems (c : Core) : Core := { c with sems := [], flight := [] }

/-- Settling a core's SIGNALs changes its semaphores and its flights alone. -/
theorem besideSems_settle (busy : Core → Flight → Bool) (n : Nat) (c : Core) : besideSems (c.settle busy n) = besideSems c := by
  induction n generalizing c with
  | zero => rfl
  | succ n ih =>
    unfold Core.settle
    split
    · split
      · exact ih _
      · rfl
    · rfl

/-- With no flight there is nothing to settle. -/
theorem settle_of_flight_nil (busy : Core → Flight → Bool) (n : Nat) {c : Core} (h : c.flight = []) : c.settle busy n = c := by
  cases n with
  | zero => rfl
  | succ n =>
    unfold Core.settle
    rw [h]
    rfl

/-- A SIGNAL that is alone in flight settles at once. -/
theorem settle_signal (n : Nat) {c : Core} {f : Flight} {sem m : Nat} (hk : f.kind = .signal sem m) (h : c.flight = [f]) :
    c.settle unitBusy (n + 1) = { c with sems := Tab.upd 0 c.sems sem (· + m), flight := [] } := by
  have hfree : unitBusy c f = false := by simp [unitBusy, h]
  unfold Core.settle
  have hfind : c.flight.find? (fun f => match f.kind with
      | .signal _ _ => !unitBusy c f
      | _ => false) = some f := by
    rw [h, List.find?_cons]
    simp [hk, hfree]
  have hflt : c.flight.filter (fun g => g ≠ f) = [] := by simp [h]
  split
  · rename_i g hg
    obtain rfl : f = g := Option.some.inj (hfind.symm.trans hg)
    simp only [hk, hflt]
    exact settle_of_flight_nil _ _ rfl
  · rename_i hg
    exact absurd (hfind.symm.trans hg) (by simp)

/-- A tile command that holds leaves its core where it is, showing what it waits for. -/
theorem tileCmd_hold {s : State} {k opcode : Nat} {b : BitVec 120} {fmt : Led → Core → List Nat} {use : Led → Core → Use}
    {run : Nat → Led → Core → TileRes} {key : Nat} {e : Led} (h : issuing s k key e) (hf : fmt e (s.core k) = [])
    (hi : unheld s k e (use e (s.core k))) {w : Nat} (hr : run key e (s.core k) = .hold w) :
    tileCmd s k opcode b fmt use run = s.updCore k fun x => { x with wait := w } := by
  obtain ⟨hitem, hst, hsw, hidx, hinc, hfetch⟩ := h
  unfold tileCmd
  rw [hitem]
  dsimp only
  rw [hfetch, hf, hr, hi.1, hi.2, hsw]
  simp [hst, Nat.not_le.mpr hidx, Config.maxInFlight, Nat.not_le.mpr hinc, lowest]

/-- A tile command whose effect leaves its core's item and the ledger: the state after its issue. -/
theorem tileCmd_issue {s : State} {k opcode : Nat} {b : BitVec 120} {fmt : Led → Core → List Nat} {use : Led → Core → Use}
    {run : Nat → Led → Core → TileRes} {key : Nat} {e : Led} (h : issuing s k key e) (hf : fmt e (s.core k) = [])
    (hi : unheld s k e (use e (s.core k))) {t : State} {fl : List Flight} (hr : run key e (s.core k) = .done t fl)
    {key' : Nat} {e' : Led} (hitem : itemOf t k = some (key', e')) {Q : State → Prop}
    (hQ : ∀ u, besideCores u = besideCores t → (∀ j, j ≠ k → u.core j = t.core j) →
      u.core k = (sendsEnded e' { t.core k with cmdIdx := (s.core k).cmdIdx + 1, wait := 0, flight := (t.core k).flight ++ fl }).settle
        unitBusy 33 → Q u) :
    ∃ u, (.next (afterIssue (tileCmd s k opcode b fmt use run) k) : Res) = .next u ∧ Q u := by
  refine ⟨_, rfl, ?_⟩
  obtain ⟨u, hu, h1, h2, h3, -⟩ := tileCmd_ran (b := b) (opcode := opcode) h hf hi hr
  cases hu
  have hled : (tileCmd s k opcode b fmt use run).led = t.led := show (besideCores _).led = (besideCores t).led from h1 ▸ rfl
  have hu' : itemOf (tileCmd s k opcode b fmt use run) k = some (key', e') := by rw [itemOf_congr (by rw [h3]) hled, hitem]
  obtain ⟨g1, g2, g3⟩ := afterIssue_eq hu'
  exact hQ _ (g1.trans h1) (fun j hj => (g2 j hj).trans (h2 j hj)) (g3.trans (by rw [h3]))

/-- Settles O12: a SIGNAL alone in flight is settled at its issue, a WAIT subtracts or holds. -/
theorem semaphoresComplete : Obligations.SemaphoresComplete := by
  intro s k b key e h c sem hf
  have hnil : unheld s k e {} := unheld_nil s k e
  refine ⟨fun hop hfl => ?_, fun hop hle hfl => ?_, fun hop hlt => ?_⟩
  · refine tileCmd_issue (use := fun _ _ => {}) h hf hnil (if_pos hop) h.1 fun u h1 _ h3 => ?_
    refine ⟨sameMemory_of_beside h1, ?_⟩
    have hfl' : (s.core k).flight = [] := hfl
    rw [h3]
    have : ∀ x : Core, x.flight = [mkFlight c (f120 b 98 96) (.signal sem (f120 b 95 80)) [] []] →
        x.settle unitBusy 33 = { x with sems := Tab.upd 0 x.sems sem (· + f120 b 95 80), flight := [] } :=
      fun x hx => settle_signal 32 rfl hx
    rw [this _ (by simp [sendsEnded, hfl', mkFlight, c, sem])]
    simp [sendsEnded, stepped, c, hfl']
  · refine tileCmd_issue (use := fun _ _ => {}) h hf hnil (by rw [if_neg (by omega), if_neg (Nat.not_lt.mpr hle)])
      ((itemOf_updCore rfl).trans h.1) fun u h1 _ h3 => ?_
    have hfl' : (s.core k).flight = [] := hfl
    refine ⟨⟨(sameMemory_of_beside h1).1, (sameMemory_of_beside h1).2⟩, ?_⟩
    rw [h3, settle_of_flight_nil]
    · simp [sendsEnded, stepped, c, hfl', sem]
    · simp [sendsEnded, hfl']
  · have hhold : synCmd k b s = afterIssue (s.updCore k fun x => { x with wait := 3 }) k :=
      congrArg (afterIssue · k) (tileCmd_hold (use := fun _ _ => {}) h hf hnil (by rw [if_neg (by omega), if_pos hlt]))
    obtain ⟨h1, -, h3⟩ := afterIssue_eq (s := s.updCore k fun x => { x with wait := 3 }) ((itemOf_updCore rfl).trans h.1)
    refine ⟨_, rfl, ?_⟩
    rw [hhold]
    have hb := besideSems_settle unitBusy 33 (sendsEnded e ((s.updCore k fun x => { x with wait := 3 }).core k))
    rw [← h3, State.core_updCore] at hb
    exact ⟨show (besideSems _).cmdIdx = _ from hb ▸ rfl, show (besideSems _).wait = _ from hb ▸ rfl,
      show (besideCores _).led = (besideCores s).led from h1 ▸ rfl⟩

end Sys2Proof.Proofs
end

section
/-! PROOFS. SND, RCV and SEG LOAD: O13, O14. -/

namespace Sys2Proof.Proofs
open Sys2Proof.Machine

/-! ### What leaves the device -/

/-- From `s` to `t` neither the cores nor the memories nor the ledger change. -/
structure Still (s t : State) : Prop where
  cores : t.cores = s.cores
  dev : t.dev = s.dev
  host : t.host = s.host
  led : t.led = s.led

section
variable {s t u : State}

theorem Still.refl : Still s s := ⟨rfl, rfl, rfl, rfl⟩

theorem Still.same (h : Still s t) (hc : u.cores = t.cores) (hd : u.dev = t.dev) (hh : u.host = t.host) (hl : u.led = t.led) : Still s u :=
  ⟨hc.trans h.cores, hd.trans h.dev, hh.trans h.host, hl.trans h.led⟩

theorem Still.trans (h : Still s t) (g : Still t u) : Still s u := h.same g.cores g.dev g.host g.led

theorem Still.foldl {α : Type} {f : State → α → State} {l : List α} (h : Still s t) (hf : ∀ u x, Still s u → Still s (f u x)) :
    Still s (l.foldl f t) :=
  List.foldlRecOn (motive := Still s) l f h fun u hu x _ => hf u x hu

theorem Still.core (h : Still s t) (k : Nat) : t.core k = s.core k := by unfold State.core; rw [h.cores]

theorem Still.memory (h : Still s t) : sameMemory s t := ⟨h.dev, h.host⟩

theorem Still.itemOf (h : Still s t) (k : Nat) : Machine.itemOf t k = Machine.itemOf s k := itemOf_congr (by rw [h.core]) h.led

theorem Still.sendPkt (h : Still s t) (x : FHdr) (payload sl : List Byte) : Still s (sendPkt t x payload sl) := by
  unfold Machine.sendPkt
  dsimp only
  split
  · unfold sendOn
    dsimp only
    split
    · exact h.same rfl rfl rfl rfl
    · split
      · exact h.same rfl rfl rfl rfl
      · exact h.same rfl rfl rfl rfl
  · exact h

theorem Still.netTile (h : Still s t) (x : Sent) : Still s (netTile t x) := by
  unfold Machine.netTile
  split
  · exact h.same rfl rfl rfl rfl
  · exact h.same rfl rfl rfl rfl

theorem Still.transmit (h : Still s t) (x : Sent) : Still s (transmit t x) := by
  have hset : ∀ y, Still s (setSent t y) := fun y => h.same rfl rfl rfl rfl
  unfold Machine.transmit
  dsimp only
  split
  · split
    · exact hset _
    · exact (hset _).foldl fun u n hu => hu.sendPkt _ _ _
  · exact (hset _).netTile _

end

/-! ### SND -/

theorem updLed_still (s : State) (key : Nat) (f : Led → Led) :
    (s.updLed key f).cores = s.cores ∧ (s.updLed key f).dev = s.dev ∧ (s.updLed key f).host = s.host := by
  unfold State.updLed
  split
  · exact ⟨rfl, rfl, rfl⟩
  · exact ⟨rfl, rfl, rfl⟩

theorem ledAt_updLed (s : State) (key j : Nat) (f : Led → Led) : (s.updLed key f).ledAt j = if j = key then (s.ledAt j).map f else s.ledAt j := by
  unfold State.updLed State.ledAt
  split
  · rename_i e he
    split_ifs with hj
    · subst hj
      simp [he]
    · simp only [Tab.find_insert_other _ _ hj]
  · rename_i he
    split_ifs with hj
    · subst hj
      simp [he]
    · rfl

/-- What a send leaves: cores, memories, and an entry at its key. -/
structure Sends (key : Nat) (s t : State) : Prop where
  cores : t.cores = s.cores
  dev : t.dev = s.dev
  host : t.host = s.host
  listed : (t.ledAt key).isSome = true

theorem Sends.still {key : Nat} {s t u : State} (h : Sends key s t) (g : Still t u) : Sends key s u :=
  ⟨g.cores.trans h.cores, g.dev.trans h.dev, g.host.trans h.host, by unfold State.ledAt; rw [g.led]; exact h.listed⟩

theorem Sends.sendTile {key : Nat} {s t : State} (h : Sends key s t) (k : Nat) (d : SendTo) (ord n a : Nat) :
    Sends key s (sendTile t key k d ord n a) := by
  have hu : ∀ f, Sends key s (t.updLed key f) := fun f => by
    obtain ⟨h1, h2, h3⟩ := updLed_still t key f
    refine ⟨h1.trans h.cores, h2.trans h.dev, h3.trans h.host, ?_⟩
    rw [ledAt_updLed, if_pos rfl, Option.isSome_map]
    exact h.listed
  unfold Machine.sendTile
  split
  · exact h
  · dsimp only
    split
    · exact hu _
    · split
      · exact (hu _).still (Still.refl.same rfl rfl rfl rfl)
      · refine Sends.still ?_ (Still.refl.transmit _)
        exact (hu _).still (Still.refl.same rfl rfl rfl rfl)

theorem sendTiles_sends (s : State) (key k : Nat) (d : SendTo) (ord n0 : Nat) (addrs : List Nat) (h : (s.ledAt key).isSome = true) :
    Sends key (s.updCore k fun c => { c with sendN := c.sendN + addrs.length }) (sendTiles s key k d ord n0 addrs) :=
  List.foldlRecOn (motive := Sends key (s.updCore k fun c => { c with sendN := c.sendN + addrs.length })) addrs.zipIdx _
    ⟨rfl, rfl, rfl, h⟩ fun _ hu _ _ => hu.sendTile _ _ _ _ _

theorem itemOf_spec {s : State} {k key : Nat} {e : Led} (h : itemOf s k = some (key, e)) :
    (s.core k).item = some key ∧ s.ledAt key = some e := by
  unfold itemOf at h
  split at h
  · rename_i key' hk
    obtain ⟨e', he, heq⟩ := Option.map_eq_some_iff.mp h
    cases heq
    exact ⟨hk, he⟩
  · cases h

/-- A SND that sets or clears its array's attachment. -/
theorem sndAttachment {s : State} {k : PCore} {b : BitVec 120} {key : Nat} {e : Led} (h : issuing s k key e) {att : Option Attach}
    (hf : sndFaults s b e (s.core k) = []) (hne : f120 b 103 102 ≠ 0)
    (hr : runSnd s key k b e (s.core k) = .done (s.updCore k fun c => c.updArr (cmdArr b) fun a => { a with att := att }) []) :
    ∃ t, (.next (sndCmd k b s) : Res) = .next t ∧ sameMemory s t ∧ (t.core k).cmdIdx = (s.core k).cmdIdx + 1 ∧
      ((t.core k).arr (cmdArr b)).att = att := by
  have hu : unheld s k e (sndUse b) := by
    unfold sndUse
    rw [if_neg hne]
    exact unheld_nil s k e
  refine tileCmd_issue (use := fun _ _ => sndUse b) h hf hu hr ((itemOf_updCore (f := fun c => c.updArr (cmdArr b) _) rfl).trans h.1) fun u h1 _ h3 => ?_
  rw [State.core_updCore] at h3
  have hb := (congrArg besideSems h3).trans (besideSems_settle _ _ _)
  refine ⟨⟨(sameMemory_of_beside h1).1, (sameMemory_of_beside h1).2⟩, by have := congrArg Core.cmdIdx hb; exact this, ?_⟩
  have harrs : (u.core k).arrs = ((s.core k).updArr (cmdArr b) fun a => { a with att := att }).arrs := by
    have := congrArg Core.arrs hb
    exact this
  rw [Core.arr, harrs, Core.updArr, Core.setArr, Tab.get_put_self]

/-- A SND that sends: its tiles are counted, and the tile store stays. -/
theorem sndSends {s : State} {k : PCore} {b : BitVec 120} {key : Nat} {e : Led} (h : issuing s k key e)
    (hf : sndFaults s b e (s.core k) = []) (hu : unheld s k e (sndUse b)) {d : SendTo} {ord : Nat} {addrs : List Nat} {fl : List Flight}
    (hr : runSnd s key k b e (s.core k) = .done (sendTiles s key k d ord (s.core k).sendN addrs) fl) :
    ∃ t, (.next (sndCmd k b s) : Res) = .next t ∧ sameMemory s t ∧ (t.core k).cmdIdx = (s.core k).cmdIdx + 1 ∧
      (t.core k).sendN = (s.core k).sendN + addrs.length ∧ (t.core k).store = (s.core k).store := by
  obtain ⟨hitem, hled⟩ := itemOf_spec h.1
  have hs := sendTiles_sends s key k d ord (s.core k).sendN addrs (by rw [hled]; rfl)
  generalize sendTiles s key k d ord (s.core k).sendN addrs = v at hr hs
  have hcore : v.core k = { s.core k with sendN := (s.core k).sendN + addrs.length } := by
    unfold State.core
    rw [hs.cores]
    exact State.core_updCore s k _
  obtain ⟨e', he'⟩ := Option.isSome_iff_exists.mp hs.listed
  have hi : itemOf v k = some (key, e') := by
    unfold itemOf
    rw [hcore]
    simp only [hitem, he', Option.map_some]
  refine tileCmd_issue (use := fun _ _ => sndUse b) h hf hu hr hi fun u h1 _ h3 => ?_
  have hb := (congrArg besideSems h3).trans (besideSems_settle _ _ _)
  rw [hcore] at hb
  obtain ⟨hdev, hhost⟩ := sameMemory_of_beside h1
  refine ⟨⟨hdev.trans hs.dev, hhost.trans hs.host⟩, ?_, ?_, ?_⟩
  · have := congrArg Core.cmdIdx hb; exact this
  · have := congrArg Core.sendN hb; exact this
  · have := congrArg Core.store hb; exact this

/-- A RCV that posts, on a core with no receive posted and nothing journalled. -/
theorem rcvPosts {s : State} {k : PCore} {b : BitVec 120} {key : Nat} {e : Led} (h : issuing s k key e) (hf : rcvFaults b (s.core k) = [])
    (hr : (s.core k).rcvs = []) (hj : s.journal = []) (hu : unheld s k e (rcvUse b)) :
    ∃ t, (.next (rcvCmd k b s) : Res) = .next t ∧ sameMemory s t ∧ (t.core k).cmdIdx = (s.core k).cmdIdx + 1 ∧
      (t.core k).posts = (s.core k).posts + 1 ∧
      ∃ r, (t.core k).rcvs = [r] ∧ r.rtag = f120 b 98 87 ∧ r.ord = f120 b 86 71 ∧ r.nt = f120 b 70 63 ∧
        r.addr = 64 * f120 b 62 45 ∧ r.combine = decide (f120 b 103 102 = 1) ∧ r.got = [] := by
  obtain ⟨u, hu1, hbeside, -, hcore, -⟩ := tileCmd_ran (b := b) (opcode := 0x31) (use := fun _ _ => rcvUse b) (fmt := fun _ c => rcvFaults b c)
    (run := fun _ _ c =>
      if Config.maxRcv ≤ c.rcvs.length then .hold 2
      else
        let nt := f120 b 70 63
        let r : Rcv := { id := (s.core k).posts, idx := c.cmdIdx, combine := f120 b 103 102 = 1, tfmt := f120 b 101 99,
                         rtag := f120 b 98 87, ord := f120 b 86 71, nt := nt, addr := 64 * f120 b 62 45, baddr := 64 * f120 b 44 27,
                         layer := cmdLayer b, time := s.time }
        .done (s.updCore k fun c => { c with rcvs := c.rcvs ++ [r], posts := (s.core k).posts + 1 })
          [mkFlight c 6 (.rcv (s.core k).posts) [] (rcvUse b).wr]) h hf hu (by
      simp only [hr, List.length_nil, Config.maxRcv]
      rfl)
  rw [State.core_updCore] at hcore
  have hjournal : u.journal = [] := by
    have := congrArg State.journal hbeside
    exact this.trans hj
  have hled : u.led = s.led := by
    have := congrArg State.led hbeside
    exact this
  have hitem : itemOf u k = some (key, e) := (itemOf_congr (by rw [hcore]) hled).trans h.1
  have hposted : rcvCmd k b s = u := by
    injection hu1 with hu1
    unfold rcvCmd
    dsimp only at hu1 ⊢
    rw [hu1, hitem, hcore]
    simp only [hr, List.nil_append, List.find?_cons, BEq.rfl, if_true, journalled, hjournal, List.find?_nil, Option.map_none,
      List.filterMap_none, feedRcv]
  refine ⟨u, by rw [hposted], ⟨?_, ?_⟩, by rw [hcore], by rw [hcore], ?_⟩
  · have := (sameMemory_of_beside hbeside).1; exact this
  · have := (sameMemory_of_beside hbeside).2; exact this
  · have hrcvs := congrArg Core.rcvs hcore
    dsimp only at hrcvs
    rw [hr, List.nil_append] at hrcvs
    exact ⟨_, hrcvs, rfl, rfl, rfl, rfl, rfl, rfl⟩

/-- Settles O13: an attachment is set or cleared, a SEND counts its tiles, a RCV is posted. -/
theorem sendAndReceiveComplete : Obligations.SendAndReceiveComplete := by
  intro s k b key e h
  refine ⟨fun hf => ⟨fun h1 => ?_, fun h2 => ?_, fun h0 hu => ?_⟩, fun i hi hf _ hr hj hu => ?_⟩
  · exact sndAttachment h hf (by omega) (by unfold runSnd; simp only [h1]; rfl)
  · exact sndAttachment h hf (by omega) (by unfold runSnd; simp only [h2])
  · intro d addrs hfence hret
    have := sndSends h hf hu (d := d) (ord := f120 b 42 27) (addrs := addrs) (by
      unfold runSnd
      simp only [h0]
      dsimp only [d, addrs] at hfence hret ⊢
      rw [hfence]
      dsimp only
      rw [hret]
      rfl)
    rw [show addrs.length = f120 b 71 64 by simp [addrs]] at this
    exact this
  · obtain ⟨rfl, -⟩ | ⟨rfl, -⟩ := hi
    · exact rcvPosts h hf hr hj hu
    · exact rcvPosts h hf hr hj hu

/-! ### SEG LOAD -/

/-- The descriptors after LASTSTEP of every listed adapter is written: those listed bear the step, the others stay. -/
theorem lastSteps_spec (s : State) (step : W32) (es : List (Tag × Nat × Nat)) :
    Still s (es.foldl (fun t x => t.updDesc x.1.toNat fun d => { d with lastStep := step }) s) ∧
      (∀ x ∈ es, ((es.foldl (fun t x => t.updDesc x.1.toNat fun d => { d with lastStep := step }) s).desc x.1.toNat).lastStep = step) ∧
      ∀ j, (∀ x ∈ es, x.1.toNat ≠ j) → (es.foldl (fun t x => t.updDesc x.1.toNat fun d => { d with lastStep := step }) s).desc j = s.desc j := by
  induction es using List.reverseRecOn with
  | nil => exact ⟨.refl, by simp, fun _ _ => rfl⟩
  | append_singleton es x ih =>
    obtain ⟨h1, h2, h3⟩ := ih
    rw [List.foldl_append, List.foldl_cons, List.foldl_nil]
    refine ⟨h1.same rfl rfl rfl rfl, fun y hy => ?_, fun j hj => ?_⟩
    · by_cases hxy : y.1.toNat = x.1.toNat
      · rw [hxy, State.desc_updDesc]
      · rw [State.desc_updDesc_other _ _ hxy]
        refine h2 y ((List.mem_append.mp hy).resolve_right fun hm => hxy ?_)
        rw [List.mem_singleton.mp hm]
    · rw [State.desc_updDesc_other _ _ (hj x (by simp)).symm]
      exact h3 j fun y hy => hj y (by simp [hy])

/-- Settles O14: the descriptors of the table's adapters take the step, the core its table. -/
theorem segmentLoadCompletes : Obligations.SegmentLoadCompletes := by
  intro s k b key e h hop c n a hhdr hres hu hchk
  have hf : segFaults b (s.core k) = [] := by
    unfold segFaults
    simp [hop, chk, hhdr, hres]
  have hrun : runSegLoad s key k b e (s.core k) = .done (((((segEntries c.store a n).foldl
      (fun t x => t.updDesc x.1.toNat fun d => { d with lastStep := e.step }) s).updLed key fun l =>
        { l with latched := l.latched ++ ((segEntries c.store a n).map (·.1)).filter fun t => !l.latched.contains t }).updCore k fun c' =>
        { c' with seg := some { train := f120 b 101 101 = 1, ents := (segEntries c.store a n).map (segLatch s e) }, sel := none })) [] := by
    unfold runSegLoad
    dsimp only [c, a, n] at hchk ⊢
    rw [hchk]
  obtain ⟨h1, h2, h3⟩ := lastSteps_spec s e.step (segEntries c.store a n)
  generalize (segEntries c.store a n).foldl _ s = v at hrun h1 h2 h3
  refine tileCmd_next h hf (by rw [if_pos hop]; exact hu) (by simp only [hop]; exact hrun) fun u hbeside _ hcore _ => ?_
  have hv := updLed_still v key fun l =>
    { l with latched := l.latched ++ ((segEntries c.store a n).map (·.1)).filter fun t => !l.latched.contains t }
  obtain ⟨hdev, hhost⟩ := sameMemory_of_beside hbeside
  have hdescs : u.descs = v.descs := by
    have := congrArg State.descs hbeside
    refine (this.trans ?_ :)
    change (v.updLed _ _).descs = _
    unfold State.updLed
    split
    · rfl
    · rfl
  have hdesc : ∀ j, u.desc j = v.desc j := fun j => by unfold State.desc; rw [hdescs]
  refine ⟨⟨(hdev.trans hv.2.1).trans h1.dev, (hhost.trans hv.2.2).trans h1.host⟩, ?_, fun x hx => (hdesc _).symm ▸ h2 x hx,
    fun j hj => (hdesc j).trans (h3 j hj)⟩
  have hvc : (v.updLed key fun l => { l with
      latched := l.latched ++ ((segEntries c.store a n).map (·.1)).filter fun t => !l.latched.contains t }).core k = s.core k := by
    unfold State.core
    rw [hv.1, h1.cores]
  rw [hcore, State.core_updCore, hvc]
  simp [stepped, c]

end Sys2Proof.Proofs
end

section
/-! PROOFS. NRM and UPD: O15. -/

namespace Sys2Proof.Proofs
open Sys2Proof.Machine

/-- A count of overflows changes device memory and registers alone. -/
theorem countOvf_eq (s : State) (e : Led) (layer n : Nat) : ∃ dev regs, countOvf s e layer n = { s with dev := dev, regs := regs } := by
  have htable : ∀ p train, ∃ dev, ovfTable s p layer n train = { s with dev := dev } := fun p train => by
    unfold ovfTable
    split
    · exact ⟨s.dev, rfl⟩
    · exact ⟨_, rfl⟩
  unfold countOvf
  dsimp only
  split
  · exact ⟨s.dev, s.regs, rfl⟩
  · obtain ⟨dev, hd⟩ := htable (ledPart s e) (e.cls == 0)
    rw [hd]
    split
    · unfold flagOverflow
      split
      · exact ⟨dev, _, rfl⟩
      · exact ⟨dev, _, rfl⟩
    · exact ⟨dev, s.regs, rfl⟩

theorem countOvf_frame (s : State) (e : Led) (layer n : Nat) :
    (countOvf s e layer n).host = s.host ∧ ∀ k, (countOvf s e layer n).core k = s.core k := by
  obtain ⟨dev, regs, h⟩ := countOvf_eq s e layer n
  rw [h]
  exact ⟨rfl, fun _ => rfl⟩

/-- A job that joins an engine's queue may raise the virtual times of its partition. -/
theorem raiseV_eq (s : State) (eng p c : Nat) (hs : List (Nat × Nat)) :
    ∃ vc vp, raiseV s eng p c hs = { s with vtClass := vc, vtPart := vp } := by
  unfold raiseV
  dsimp only
  split_ifs
  all_goals exact ⟨_, _, rfl⟩

/-- An NRM over values without a NaN: what it adds to its core. -/
theorem runNrm_done {s : State} {k : Nat} {b : BitVec 120} {e : Led} {c : Core} {xs : List W32} {want : TagRec}
    (hwant : want = if f120 b 103 103 = 1 then none else some (BitVec.ofNat 16 (f120 b 75 60)))
    (hxs : xs = if f120 b 102 102 = 1 then fp32s (c.store.read (64 * f120 b 93 76) (f120 b 101 94 * 16384))
      else (fp16Line (c.store.read (64 * f120 b 93 76) (f120 b 101 94 * 8192))).map widen)
    (htag : ∀ g ∈ granules (64 * f120 b 93 76) (f120 b 101 94 * fmtSize (f120 b 102 102 = 1)), c.store.tag g = want)
    (hnan : ∀ x ∈ xs, isNan32 x = false) :
    ∃ n, runNrm s k b e c = .done (countOvf (s.updCore k fun c => { c with gsq := c.gsq ++ [{
      base := f120 b 103 103 = 1, who := if f120 b 103 103 = 1 then ledPart s e else f120 b 75 60, layer := cmdLayer b,
      step := BitVec.ofNat 32 (f120 b 59 28),
      v := (scaleGsq s (ledPart s e) (BitVec.ofNat 32 (f120 b 59 28)) (sumSquares xs).1).1 }] }) e (cmdLayer b) n) [] := by
  have hfind : (granules (64 * f120 b 93 76) (f120 b 101 94 * fmtSize (f120 b 102 102 = 1))).find?
      (fun g => decide (c.store.tag g ≠ want)) = none := by
    rw [List.find?_eq_none]
    intro g hg
    simp [htag g hg]
  have hnone : (xs.zipIdx.find? fun x => isNan32 x.1) = none := by
    rw [List.find?_eq_none]
    rintro ⟨x, i⟩ hx
    simp [hnan x (List.fst_mem_of_mem_zipIdx hx)]
  have hwho : (BitVec.ofNat 16 (f120 b 75 60)).toNat = f120 b 75 60 := by
    rw [BitVec.toNat_ofNat]
    refine Nat.mod_eq_of_lt ?_
    unfold f120 bits
    exact Nat.mod_lt _ (by decide)
  subst hwant hxs
  unfold runNrm
  dsimp only
  rw [hfind]
  dsimp only
  rw [hnone]
  exact ⟨_, by rw [hwho]⟩

/-- A job that a UPD queues bears the command's step and layer, and waits. -/
theorem acceptUpd_queue {s : State} {key k : Nat} {b : BitVec 120} {e : Led} {c : Core} {j : UpdJob} (h : acceptUpd s key k b e c = .queue j) :
    j.step = BitVec.ofNat 32 (f120 b 50 19) ∧ j.layer = cmdLayer b ∧ j.stage = .waiting := by
  unfold acceptUpd at h
  dsimp only at h
  repeat' split at h
  all_goals cases h
  exact ⟨rfl, rfl, rfl⟩

/-- Settles O15: an NRM adds its contribution to its core, a UPD its job to the queue. -/
theorem normAndUpdateComplete : Obligations.NormAndUpdateComplete := by
  intro s k b key e h
  refine ⟨fun hf hu htag hnan => ?_, fun hhdr hres hbase ha1 ha2 hu j hj => ?_⟩
  · obtain ⟨n, hrun⟩ := runNrm_done (k := k) rfl rfl htag hnan
    refine tileCmd_next (fmt := fun e _ => nrmFaults s b e) h hf hu hrun fun u hbeside hother hcore _ => ?_
    obtain ⟨hhost, hcores⟩ := countOvf_frame (s.updCore k fun c => { c with gsq := c.gsq ++ [{
      base := f120 b 103 103 = 1, who := if f120 b 103 103 = 1 then ledPart s e else f120 b 75 60, layer := cmdLayer b,
      step := BitVec.ofNat 32 (f120 b 59 28),
      v := (scaleGsq s (ledPart s e) (BitVec.ofNat 32 (f120 b 59 28)) (sumSquares _).1).1 }] }) e (cmdLayer b) n
    refine ⟨(sameMemory_of_beside hbeside).2.trans hhost, fun j hj => ?_, ?_⟩
    · rw [hother j hj, hcores, State.core_updCore_other _ _ hj]
    · rw [hcore, hcores, State.core_updCore, List.append_nil]
  · obtain ⟨hstep, hlayer, hstage⟩ := acceptUpd_queue hj
    refine tileCmd_next (use := fun _ _ => { rd := [(64 * f120 b 86 69, 64), (64 * f120 b 68 51, 64)] }) h ?_ hu
      (by rw [hj]) fun u hbeside _ hcore _ => ?_
    · simpa [chk, hhdr, hres, ha1, ha2] using hbase
    · obtain ⟨vc, vp, hv⟩ := raiseV_eq s 1 j.part 0 ((s.jobs.filter fun (x : UpdJob) => x.stage == .waiting).map fun x => (x.part.val, 0))
      have hq : queueUpd s j = { s with vtClass := vc, vtPart := vp, jobs := s.jobs ++ [j], jobNum := s.jobNum + 1 } := by
        unfold queueUpd
        dsimp only
        rw [hv]
      rw [hq] at hbeside hcore
      refine ⟨⟨(sameMemory_of_beside hbeside).1, (sameMemory_of_beside hbeside).2⟩, congrArg State.jobs hbeside, hstep, hlayer, hstage,
        by rw [hcore], mkFlight (s.core k) 6 (.upd j.id) [] [], ?_, rfl⟩
      rw [hcore]
      rfl

end Sys2Proof.Proofs
end

section
/-! PROOFS. What the device's bookkeeping leaves alone: completions, counts, notices, records and the trace. -/

namespace Sys2Proof.Proofs
open Sys2Proof.Machine

/-- From `s` to `t` only the device's bookkeeping changes: registers, memories, rings, notices, trace and output. -/
def Duty (s t : State) : Prop :=
  ∃ regs dev host poison rings insts mbDown mbDownOwn trFifo trDrop draws out, t = { s with
    regs := regs, dev := dev, host := host, poison := poison, rings := rings, insts := insts, mbDown := mbDown,
    mbDownOwn := mbDownOwn, trFifo := trFifo, trDrop := trDrop, draws := draws, out := out }

section
variable {s t u : State}

theorem Duty.refl : Duty s s := ⟨_, _, _, _, _, _, _, _, _, _, _, _, rfl⟩

theorem Duty.trans (h : Duty s t) (g : Duty t u) : Duty s u := by
  obtain ⟨_, _, _, _, _, _, _, _, _, _, _, _, rfl⟩ := h
  obtain ⟨_, _, _, _, _, _, _, _, _, _, _, _, rfl⟩ := g
  exact ⟨_, _, _, _, _, _, _, _, _, _, _, _, rfl⟩

theorem Duty.cores (h : Duty s t) : t.cores = s.cores := by
  obtain ⟨_, _, _, _, _, _, _, _, _, _, _, _, rfl⟩ := h
  rfl

theorem Duty.led (h : Duty s t) : t.led = s.led := by
  obtain ⟨_, _, _, _, _, _, _, _, _, _, _, _, rfl⟩ := h
  rfl

theorem Duty.core (h : Duty s t) (k : Nat) : t.core k = s.core k := by unfold State.core; rw [h.cores]

theorem Duty.ledAt (h : Duty s t) (key : Nat) : t.ledAt key = s.ledAt key := by unfold State.ledAt; rw [h.led]

theorem Duty.ite {c : Prop} [Decidable c] (ht : Duty s t) (hu : Duty s u) : Duty s (if c then t else u) := by
  split
  · exact ht
  · exact hu

theorem Duty.foldl {α : Type} {f : State → α → State} {l : List α} (h : Duty s t) (hf : ∀ u x, Duty s u → Duty s (f u x)) :
    Duty s (l.foldl f t) :=
  List.foldlRecOn (motive := Duty s) l f h fun u hu x _ => hf u x hu

theorem Duty.setReg (h : Duty s t) (off v : Nat) : Duty s (t.setReg off v) :=
  h.trans ⟨_, _, _, _, _, _, _, _, _, _, _, _, rfl⟩

theorem Duty.fset (h : Duty s t) (off hi lo v : Nat) : Duty s (fset t off hi lo v) := h.setReg _ _

theorem Duty.finc (h : Duty s t) (off hi lo n : Nat) : Duty s (finc t off hi lo n) := h.fset _ _ _ _

theorem Duty.emit (h : Duty s t) (o : Out) : Duty s (t.emit o) :=
  h.trans ⟨_, _, _, _, _, _, _, _, _, _, _, _, rfl⟩

theorem Duty.msix (h : Duty s t) (fn vec : Nat) : Duty s (msix t fn vec) := h.emit _

theorem Duty.updRing (h : Duty s t) (i r : Nat) (f : Ring → Ring) : Duty s (t.updRing i r f) :=
  h.trans ⟨_, _, _, _, _, _, _, _, _, _, _, _, rfl⟩

theorem Duty.updInst (h : Duty s t) (i : Nat) (f : InstX → InstX) : Duty s (t.updInst i f) :=
  h.trans ⟨_, _, _, _, _, _, _, _, _, _, _, _, rfl⟩

theorem Duty.devWrite (h : Duty s t) (a : Nat) (bs : List Byte) : Duty s (devWrite t a bs) :=
  h.trans ⟨_, _, _, _, _, _, _, _, _, _, _, _, rfl⟩

theorem Duty.dirtyBit (h : Duty s t) (i b : Nat) : Duty s (dirtyBit t i b) := by
  unfold Machine.dirtyBit
  dsimp only
  split
  · exact h
  split
  · exact h.fset _ _ _ _
  · exact h.trans ⟨_, _, _, _, _, _, _, _, _, _, _, _, rfl⟩

theorem Duty.hostWrite (h : Duty s t) (i a : Nat) (bs : List Byte) : Duty s (hostWrite t i a bs) :=
  .foldl (h.trans ⟨_, _, _, _, _, _, _, _, _, _, _, _, rfl⟩) fun _ _ hu => hu.dirtyBit _ _

theorem Duty.countViol (h : Duty s t) (i cause addr : Nat) : Duty s (countViol t i cause addr) := by
  unfold Machine.countViol
  dsimp only
  split
  · exact (h.finc _ _ _ _).fset _ _ _ _
  · exact (h.finc _ _ _ _).setReg _ _

theorem Duty.writeCompl (h : Duty s t) (c : Compl) : Duty s (writeCompl t c) := by
  have hring := h.updRing c.inst c.ring fun x => x.complete c.order
  unfold Machine.writeCompl
  dsimp only
  split
  · exact hring
  · have hentry : ∀ bs a, Duty s (match ioCheck t c.inst true a 16 with
        | .ok => Machine.hostWrite (((t.updRing c.inst c.ring fun x => x.complete c.order)).updRing c.inst c.ring fun x =>
            { x with written := x.written + 1#32 }) c.inst a bs
        | .viol k x => Machine.countViol (((t.updRing c.inst c.ring fun x => x.complete c.order)).updRing c.inst c.ring fun x =>
            { x with written := x.written + 1#32 }) c.inst k x
        | .fence _ _ => (((t.updRing c.inst c.ring fun x => x.complete c.order)).updRing c.inst c.ring fun x =>
            { x with written := x.written + 1#32 })) := fun bs a => by
      split
      · exact (hring.updRing _ _ _).hostWrite _ _ _
      · exact (hring.updRing _ _ _).countViol _ _ _
      · exact hring.updRing _ _ _
    split
    · exact (hentry _ _).msix _ _
    · exact hentry _ _

theorem Duty.writeRecord (h : Duty s t) (e : Led) (rec : BitVec 256) : Duty s (writeRecord t e rec).1 := by
  unfold Machine.writeRecord
  dsimp only
  split
  · exact h
  · split
    · split
      · exact h.hostWrite _ _ _
      · exact h.devWrite _ _
      · exact h
    · exact h.countViol _ _ _
    · exact h

theorem Duty.tracePut (h : Duty s t) (src body typ : Nat) : Duty s (tracePut t src body typ) := by
  have hupd : ∀ fifo drop, Duty s { t with trFifo := fifo, trDrop := drop } := fun fifo drop =>
    h.trans ⟨_, _, _, _, _, _, _, _, _, _, _, _, rfl⟩
  unfold Machine.tracePut
  dsimp only
  exact .ite h (.ite (.finc (h.trans ⟨_, _, _, _, _, _, _, _, _, _, _, _, rfl⟩) _ _ _ _) (.ite (hupd _ _)
    (.ite ((hupd _ _).finc _ _ _ _) (hupd _ _))))

theorem Duty.traceItemEnd (h : Duty s t) (k : Nat) (e : Led) (status : Nat) : Duty s (traceItemEnd t k e status) := by
  unfold Machine.traceItemEnd
  split
  · exact h.tracePut _ _ _
  · exact h

theorem Duty.queueNotice (h : Duty s t) (i kind arg : Nat) : Duty s (queueNotice t i kind arg) := h.updInst _ _

theorem Duty.postNotice (h : Duty s t) (i : Nat) : Duty s (postNotice t i) := by
  unfold Machine.postNotice
  dsimp only
  split
  · exact h
  · split
    · exact h
    · exact .msix ((h.updInst _ _).trans ⟨_, _, _, _, _, _, _, _, _, _, _, _, rfl⟩) _ _

theorem Duty.notify (h : Duty s t) (i kind arg : Nat) : Duty s (notify t i kind arg) := (h.queueNotice _ _ _).postNotice _

end

end Sys2Proof.Proofs
end

section
/-! PROOFS. How an item stops, ends and starts: O16. -/

namespace Sys2Proof.Proofs
open Sys2Proof.Machine

/-! ### Stops -/

/-- An item that stands on its core leaves it idle. -/
theorem leaveCore_eq {s : State} {k : PCore} {key : Nat} {e : Led} (status : Nat) (hp : e.pcore = some k) (hc : (s.core k).item = some key) :
    leaveCore s key e status = (traceItemEnd s e.coreNo e status).updCore k Core.idle := by
  unfold leaveCore seatOf
  simp [hp, hc]

theorem idle_item (c : Core) : c.idle.item = none := rfl

/-- A release erases the entry and leaves its core idle. -/
theorem releaseItem_frees {s : State} {k : PCore} {key : Nat} {e : Led} (status : Nat) (hl : s.ledAt key = some e) (hp : e.pcore = some k)
    (hc : (s.core k).item = some key) :
    (releaseItem s key status).ledAt key = none ∧ ((releaseItem s key status).core k).item = none := by
  unfold releaseItem
  rw [hl]
  dsimp only
  rw [leaveCore_eq status hp hc]
  refine ⟨Tab.find_erase_self _ _, ?_⟩
  change (((traceItemEnd s e.coreNo e status).updCore k Core.idle).core k).item = none
  rw [State.core_updCore, idle_item]

/-- A stop without a fault to report ends the item without replay: its entry goes, its core is free (R77, R78). -/
theorem stopItem_frees {s : State} {k : PCore} {key : Nat} {e : Led} (h : itemOf s k = some (key, e)) (hp : e.pcore = some k) {st : Stop}
    (hst : (∃ r, st = .format r) ∨ (∃ n, st = .trap n) ∨ st = .timeout) (opcode layer : Nat) :
    (stopItem s k opcode layer st).ledAt key = none ∧ ((stopItem s k opcode layer st).core k).item = none := by
  obtain ⟨hitem, hled⟩ := itemOf_spec h
  have hrel : ∀ (u : State) (c : Compl), Duty s u →
      (writeCompl (releaseItem u key st.status) c).ledAt key = none ∧
        ((writeCompl (releaseItem u key st.status) c).core k).item = none := fun u c hu => by
    have hw := (Duty.refl (s := releaseItem u key st.status)).writeCompl c
    rw [hw.ledAt, hw.core]
    exact releaseItem_frees _ ((hu.ledAt key).trans hled) hp (by rw [hu.core]; exact hitem)
  have heq : ∃ u c, Duty s u ∧ stopItem s k opcode layer st = writeCompl (releaseItem u key st.status) c := by
    unfold stopItem
    rw [h]
    obtain ⟨r, rfl⟩ | ⟨n, rfl⟩ | rfl := hst
    · exact ⟨_, _, Duty.refl.writeRecord e _, rfl⟩
    · exact ⟨_, _, Duty.refl.writeRecord e _, rfl⟩
    · exact ⟨_, _, Duty.refl, rfl⟩
  obtain ⟨u, c, hu, heq⟩ := heq
  rw [heq]
  exact hrel u c hu

/-- A tile command whose format is at fault stops its item. -/
theorem tileCmd_fault {s : State} {k opcode : Nat} {b : BitVec 120} {fmt : Led → Core → List Nat} {use : Led → Core → Use}
    {run : Nat → Led → Core → TileRes} {key : Nat} {e : Led} (h : issuing s k key e) {r : Nat} (hf : lowest (fmt e (s.core k)) = some r) :
    tileCmd s k opcode b fmt use run = stopItem s k opcode (cmdLayer b) (.format r) := by
  obtain ⟨hitem, hst, hsw, hidx, hinc, hfetch⟩ := h
  unfold tileCmd
  rw [hitem]
  dsimp only
  rw [hfetch, hf, hsw]
  simp [hst, Nat.not_le.mpr hidx, Config.maxInFlight, Nat.not_le.mpr hinc]

/-- A tile command whose run stops stops its item. -/
theorem tileCmd_stop {s : State} {k opcode : Nat} {b : BitVec 120} {fmt : Led → Core → List Nat} {use : Led → Core → Use}
    {run : Nat → Led → Core → TileRes} {key : Nat} {e : Led} (h : issuing s k key e) (hf : fmt e (s.core k) = [])
    (hi : unheld s k e (use e (s.core k))) {t : State} {st : Stop} (hr : run key e (s.core k) = .stop t st) :
    tileCmd s k opcode b fmt use run = stopItem t k opcode (cmdLayer b) st := by
  obtain ⟨hitem, hst, hsw, hidx, hinc, hfetch⟩ := h
  unfold tileCmd
  rw [hitem]
  dsimp only
  rw [hfetch, hf, hr, hi.1, hi.2, hsw]
  simp [hst, Nat.not_le.mpr hidx, Config.maxInFlight, Nat.not_le.mpr hinc, lowest]

theorem lowest_single (r : Nat) : lowest [r] = some r := rfl

/-- A core without an item commits none. -/
theorem commitItem_none {s : State} {k : Nat} (h : (s.core k).item = none) : commitItem s k = s := by
  unfold commitItem itemOf
  rw [h]

/-! ### END -/

/-- From `s` to `t` no core and no ledger entry changes. -/
structure Seats (s t : State) : Prop where
  cores : t.cores = s.cores
  led : t.led = s.led

theorem Duty.seats {s t : State} (h : Duty s t) : Seats s t := ⟨h.cores, h.led⟩

theorem Seats.trans {s t u : State} (h : Seats s t) (g : Seats t u) : Seats s u := ⟨g.cores.trans h.cores, g.led.trans h.led⟩

theorem Seats.core {s t : State} (h : Seats s t) (k : Nat) : t.core k = s.core k := by unfold State.core; rw [h.cores]

theorem Seats.ledAt {s t : State} (h : Seats s t) (key : Nat) : t.ledAt key = s.ledAt key := by unfold State.ledAt; rw [h.led]

theorem countOvf_seats (s : State) (e : Led) (layer n : Nat) : Seats s (countOvf s e layer n) := by
  obtain ⟨dev, regs, h⟩ := countOvf_eq s e layer n
  rw [h]
  exact ⟨rfl, rfl⟩

theorem commitGsq_seats (e : Led) (s : State) (x : GsqPart) : Seats s (commitGsq e s x) := by
  have hnorm : ∀ (u : State) base who layer n, Seats u (normSet u base who layer n) := fun u base who layer n => by
    unfold normSet
    split
    · exact ⟨rfl, rfl⟩
    · exact ⟨rfl, rfl⟩
  unfold commitGsq
  refine .trans ?_ (countOvf_seats _ _ _ _)
  dsimp only [addGsq]
  split
  · exact (hnorm _ _ _ _ _).trans ⟨rfl, rfl⟩
  · exact hnorm _ _ _ _ _

/-- Completing an item leaves the cores; its entry stays as it stood, or goes. -/
theorem completeItem_spec (s : State) (key : Nat) :
    (completeItem s key).cores = s.cores ∧ ((completeItem s key).ledAt key = none ∨ (completeItem s key).ledAt key = s.ledAt key) := by
  have hdone : ∀ c, (writeCompl { s with led := Tab.erase s.led key } c).cores = s.cores ∧
      (writeCompl { s with led := Tab.erase s.led key } c).ledAt key = none := fun c => by
    have h := (Duty.refl (s := { s with led := Tab.erase s.led key })).writeCompl c
    exact ⟨h.cores, (h.ledAt key).trans (Tab.find_erase_self _ _)⟩
  unfold completeItem
  split
  · exact ⟨rfl, .inr rfl⟩
  · dsimp only
    split
    · exact ⟨rfl, .inr rfl⟩
    split
    · split
      · split
        · exact ⟨(hdone _).1, .inl (hdone _).2⟩
        · exact ⟨(hdone _).1, .inl (hdone _).2⟩
      · exact ⟨rfl, .inr rfl⟩
    · exact ⟨(hdone _).1, .inl (hdone _).2⟩

/-- An item that finishes on its core with nothing in flight leaves the core idle, and waits off it where its entry stays (R79). -/
theorem commitItem_commits {s : State} {k : PCore} {key : Nat} {e : Led} (h : itemOf s k = some (key, e)) (hst : e.st = .finishing)
    (hfl : (s.core k).flight = []) (hp : e.pcore = some k) :
    (commitItem s k).core k = (s.core k).idle ∧ ∀ x, (commitItem s k).ledAt key = some x → x.st = .finishing ∧ x.pcore = none := by
  obtain ⟨hitem, hled⟩ := itemOf_spec h
  have hgsq : Seats s ((s.core k).gsq.foldl (commitGsq e) s) :=
    List.foldlRecOn (motive := Seats s) _ _ ⟨rfl, rfl⟩ fun u hu x _ => hu.trans (commitGsq_seats e u x)
  unfold commitItem
  rw [h]
  dsimp only
  rw [hst, hfl]
  simp only [bne_self_eq_false, List.isEmpty_nil, Bool.not_true, Bool.or_self, Bool.false_eq_true, if_false]
  generalize (s.core k).gsq.foldl (commitGsq e) s = s0 at hgsq
  have hgen : Seats s (if entNum e.desc 48 4 = 0 then s0 else
      { s0 with gens := Tab.put 0#32 s0.gens (e.inst * 65536 + entNum e.desc 48 4 % 65536) (BitVec.ofNat 32 (entNum e.desc 52 4)) }) := by
    split
    · exact hgsq
    · exact hgsq.trans ⟨rfl, rfl⟩
  generalize (if entNum e.desc 48 4 = 0 then s0 else _) = s1 at hgen
  rw [leaveCore_eq 0 hp (by rw [hgen.core]; exact hitem)]
  have htr := (Duty.refl (s := s1)).traceItemEnd e.coreNo e 0
  generalize traceItemEnd s1 e.coreNo e 0 = s2 at htr
  obtain ⟨h1, h2⟩ := completeItem_spec { ((s2.updCore k Core.idle).updLed key fun x =>
    { x with pcore := none, ran := runNs (s2.updCore k Core.idle) e }) with
      journal := (s2.updCore k Core.idle).journal.filter fun t => t.led ≠ key,
      sent := (s2.updCore k Core.idle).sent.filter fun t => t.led ≠ key } key
  refine ⟨?_, fun x hx => ?_⟩
  · unfold State.core at *
    rw [h1]
    change Tab.get {} ((s2.updCore k Core.idle).updLed key _).cores k = _
    rw [(updLed_still _ _ _).1]
    change (s2.updCore k Core.idle).core k = _
    rw [State.core_updCore, htr.core, hgen.core]
    rfl
  · rcases h2 with h2 | h2
    · rw [h2] at hx; cases hx
    · rw [h2] at hx
      change ((s2.updCore k Core.idle).updLed key _).ledAt key = some x at hx
      rw [ledAt_updLed, if_pos rfl] at hx
      change (s2.ledAt key).map _ = some x at hx
      rw [htr.ledAt, hgen.ledAt, hled] at hx
      cases hx
      exact ⟨hst, rfl⟩

/-! ### Start grants -/

/-- One array of a granted core: the first is admitted, the later ones wait their turn. -/
def grantOne (x : Core) (y : Nat × Nat) : Core :=
  x.updArr y.1 fun a => if y.2 = 0 then { a with level := 1, credit := 1 } else { a with turn := some y.2 }

theorem grant_eq (c : Core) : c.grant = ((List.range 4).filter (asksStart c)).zipIdx.foldl grantOne c := rfl

theorem grantOne_arr_other (x : Core) (y : Nat × Nat) {n : Nat} (h : n ≠ y.1) : (grantOne x y).arr n = x.arr n := by
  unfold grantOne Core.updArr Core.setArr Core.arr
  rw [Tab.get_put_other _ _ _ h]

theorem foldl_grantOne_arr_other (l : List (Nat × Nat)) (x : Core) {n : Nat} (h : ∀ y ∈ l, n ≠ y.1) : (l.foldl grantOne x).arr n = x.arr n :=
  List.foldlRecOn (motive := fun u : Core => u.arr n = x.arr n) l _ rfl fun u hu y hy => (grantOne_arr_other u y (h y hy)).trans hu

theorem grant_flight (c : Core) : c.grant.flight = c.flight := by
  rw [grant_eq]
  exact List.foldlRecOn (motive := fun u : Core => u.flight = c.flight) _ _ rfl fun _ hu _ _ => hu

theorem grant_arr_of_not {c : Core} {n : Nat} (h : asksStart c n = false) : c.grant.arr n = c.arr n := by
  rw [grant_eq]
  refine foldl_grantOne_arr_other _ _ fun y hy hn => ?_
  have hm := List.fst_mem_of_mem_zipIdx hy
  rw [← hn, List.mem_filter, h] at hm
  exact absurd hm.2 (by decide)

/-- An asking array takes its place among those that ask. -/
theorem grant_arr_of_asks {c : Core} {n : Nat} (hn : n < 4) (h : asksStart c n = true) :
    c.grant.arr n = if ((List.range n).filter (asksStart c)).length = 0 then { c.arr n with level := 1, credit := 1 }
      else { c.arr n with turn := some ((List.range n).filter (asksStart c)).length } := by
  have hsplit : List.range 4 = List.range n ++ n :: List.range' (n + 1) (3 - n) := by
    interval_cases n <;> rfl
  have hbefore : ∀ y ∈ ((List.range n).filter (asksStart c)).zipIdx, n ≠ y.1 := fun y hy => by
    have hm := List.mem_range.mp (List.mem_filter.mp (List.fst_mem_of_mem_zipIdx hy)).1
    omega
  have hafter : ∀ m, ∀ y ∈ ((List.range' (n + 1) (3 - n)).filter (asksStart c)).zipIdx m, n ≠ y.1 := fun m y hy => by
    have hm := (List.mem_range'_1.mp (List.mem_filter.mp (List.fst_mem_of_mem_zipIdx hy)).1).1
    omega
  rw [grant_eq, hsplit, List.filter_append, List.filter_cons_of_pos h, List.zipIdx_append, List.zipIdx_cons, List.foldl_append,
    List.foldl_cons, foldl_grantOne_arr_other _ _ (hafter _)]
  have hkeep := foldl_grantOne_arr_other _ c hbefore
  rw [grantOne, Core.updArr, Core.setArr]
  unfold Core.arr at hkeep ⊢
  rw [Tab.get_put_self, hkeep, Nat.zero_add]

/-- A due grant admits the core that asks. -/
theorem startGrant_eq {s : State} {d : Die} {l : Nat} (hl : startCore s d = some l) (hdue : grantDue s d (physOf s l) = true)
    (hrel : dieStill s d = true → releases s d = true) :
    ∃ grants released, exec (.startGrant d) s =
      .next (({ s with grants := grants, released := released } : State).updCore (physOf s l) Core.grant) := by
  have hno : (!grantDue s d (physOf s l) || (dieStill s d && !releases s d)) = false := by
    rw [hdue]
    cases hs : dieStill s d
    · rfl
    · rw [hrel hs]
      rfl
  change ∃ grants released, execStartGrant d s = _
  unfold execStartGrant
  rw [hl]
  dsimp only
  rw [hno]
  exact ⟨_, _, rfl⟩

/-- Settles O16: stops release the item, END commits it, a grant admits the arrays that ask in their order. -/
theorem stopsEndAndStart : Obligations.StopsEndAndStart := by
  refine ⟨fun s k b w key e h hp => ⟨fun hhdr hres => ?_, fun hop => ?_, fun hb => ?_, fun hb hfl => ?_⟩, fun s d l hl hdue hrel => ?_⟩
  · refine ⟨_, rfl, ?_⟩
    rw [tileCmd_stop h (by simp [chk, hhdr, hres]) (unheld_nil s k e) rfl]
    exact stopItem_frees h.1 hp (.inr (.inl ⟨_, rfl⟩)) _ _
  · refine ⟨stopItem s k (bits w.toNat 127 120) (cmdLayer (w.truncate 120)) (.format 1), ?_, stopItem_frees h.1 hp (.inl ⟨_, rfl⟩) _ _⟩
    change execOpcodeNotInTable k w s = _
    unfold execOpcodeNotInTable
    dsimp only
    rw [hop, tileCmd_fault h (lowest_single 1)]
    rfl
  · have hstop := stopItem_frees (st := .format 2) h.1 hp (.inl ⟨_, rfl⟩) 0xFF (cmdLayer b)
    refine ⟨stopItem s k 0xFF (cmdLayer b) (.format 2), ?_, hstop⟩
    change execEndItem k b s = _
    unfold execEndItem
    rw [tileCmd_fault h (r := 2) (by simp [chk, hb, lowest]), commitItem_none hstop.2]
  · obtain ⟨hitem, hled⟩ := itemOf_spec h.1
    obtain ⟨u, hu, hbeside, -, hcore, -⟩ := tileCmd_ran (s := s) (k := k) (opcode := 0xFF) (b := b) (fmt := fun _ _ => chk (b ≠ 0#120) 0x02)
      (use := fun _ _ => {}) (run := fun key _ _ => .done (s.updLed key fun e => { e with st := .finishing }) []) h
      (by simp [chk, hb]) (unheld_nil s k e) rfl
    have hseat := updLed_still s key fun e => { e with st := .finishing }
    have hk : (s.updLed key fun e => { e with st := .finishing }).core k = s.core k := by unfold State.core; rw [hseat.1]
    rw [hk, hfl] at hcore
    have hled' : u.ledAt key = some { e with st := .finishing } := by
      have := congrArg State.led hbeside
      change u.led = _ at this
      unfold State.ledAt
      rw [this]
      change (s.updLed key _).ledAt key = _
      rw [ledAt_updLed, if_pos rfl, hled, Option.map_some]
    have hu' : itemOf u k = some (key, { e with st := .finishing }) := by
      unfold itemOf
      rw [hcore]
      simp only [hitem, hled', Option.map_some]
    obtain ⟨h1, h2⟩ := commitItem_commits hu' rfl (by rw [hcore]; rfl) hp
    injection hu with hu
    refine ⟨commitItem u k, ?_, ?_, ?_, ?_, h2⟩
    · change execEndItem k b s = _
      unfold execEndItem
      rw [hu]
    · rw [h1, idle_item]
    · rw [h1]; rfl
    · rw [h1, hcore]; rfl
  · obtain ⟨grants, released, heq⟩ := startGrant_eq hl hdue hrel
    refine ⟨_, heq, fun k hk => State.core_updCore_other _ _ hk, ⟨rfl, rfl⟩, rfl, ?_, fun n hn => ⟨fun h => ?_, fun h h0 => ?_, fun h h0 => ?_⟩⟩
    · rw [State.core_updCore]; exact grant_flight _
    · rw [State.core_updCore]; exact grant_arr_of_not h
    · rw [State.core_updCore]; exact (grant_arr_of_asks hn h).trans (if_pos h0)
    · rw [State.core_updCore]; exact (grant_arr_of_asks hn h).trans (if_neg (by omega))

end Sys2Proof.Proofs
end

section
/-! PROOFS. Tiles that arrive, are acknowledged, refused or overdue: O17. -/

namespace Sys2Proof.Proofs
open Sys2Proof.Machine

/-! ### The acknowledged prefix -/

theorem le_ackSlide (fuel p : Nat) (w : W64) : p ≤ (ackSlide fuel p w).1 := by
  induction fuel generalizing p w with
  | zero => exact le_rfl
  | succ fuel ih =>
    unfold ackSlide
    split
    · exact (Nat.le_succ p).trans (ih _ _)
    · exact le_rfl

/-- Sliding the window past its acknowledged tiles loses none of them. -/
theorem ackSlide_acked (fuel p n : Nat) (w : W64) (hn : p ≤ n) (hw : w.getLsbD (n - p) = true) :
    n < (ackSlide fuel p w).1 ∨ (n < (ackSlide fuel p w).1 + 64 ∧ (ackSlide fuel p w).2.getLsbD (n - (ackSlide fuel p w).1) = true) := by
  induction fuel generalizing p w with
  | zero =>
    have : n - p < 64 := BitVec.lt_of_getLsbD hw
    exact .inr ⟨by simp only [ackSlide]; omega, hw⟩
  | succ fuel ih =>
    have hlt : n - p < 64 := BitVec.lt_of_getLsbD hw
    unfold ackSlide
    split
    · by_cases hnp : n = p
      · exact .inl (by have := le_ackSlide fuel (p + 1) (w >>> 1); omega)
      · refine ih (p + 1) (w >>> 1) (by omega) ?_
        rw [BitVec.getLsbD_ushiftRight, show 1 + (n - (p + 1)) = n - p by omega]
        exact hw
    · exact .inr ⟨by omega, hw⟩

/-- An acknowledged tile of the window is acknowledged (R101). -/
theorem acked_ackTile {e : Led} {n : Nat} (hno : acked e n = false) (hlt : n < e.ackPfx + 64) : acked (ackTile e n) n = true := by
  have hle : e.ackPfx ≤ n := by
    unfold acked at hno
    simp only [Bool.or_eq_false_iff, decide_eq_false_iff_not] at hno
    omega
  have hbit : (e.ackWin ||| BitVec.ofNat 64 (2 ^ (n - e.ackPfx))).getLsbD (n - e.ackPfx) = true := by
    rw [BitVec.getLsbD_or, BitVec.getLsbD_ofNat, Nat.testBit_two_pow_self]
    simp only [show n - e.ackPfx < 64 by omega, decide_true, Bool.and_true, Bool.or_true]
  have h := ackSlide_acked 65 e.ackPfx n _ hle hbit
  unfold ackTile
  rw [if_neg (by simp only [hno, Bool.false_eq_true, false_or]; omega)]
  dsimp only
  unfold acked
  simp only [Bool.or_eq_true, Bool.and_eq_true, decide_eq_true_eq]
  exact h

/-! ### Arrivals -/

/-- A tile that no posted receive covers, on a core or switched out, and that was not taken before, is refused. -/
theorem receive_uncovered {s : State} {k : Nat} {m : TileMsg} (hi : itemOf s k = none) (ht : tailsOf s k = []) (hc : s.ctx = [])
    (hno : (Tab.get [] s.accepted (dieOf k)).any (fun a => a.source == tileSource m) = false) : receive s k m = (s, 2) := by
  have hsw : switchedRcv s (dieOf k) m = none := by
    unfold switchedRcv
    rw [hc]
    rfl
  unfold receive
  dsimp only
  rw [ht, hsw]
  simp only [List.findSome?_cons, List.findSome?_nil, hi, Option.bind_none, hno]
  rfl

/-- The receive that a core's own posts find for a tile. -/
theorem receive_onCore {s : State} {k key : Nat} {m : TileMsg} {e : Led} {r : Rcv} (hi : itemOf s k = some (key, e))
    (hr : (s.core k).rcvs.find? (fun (r : Rcv) => r.covers e m) = some r) :
    receive s k m = if (Tab.find r.got (m.ord.toNat - r.ord)).isSome then (finc s (Reg.coDupCount k) 15 0 1, 1)
      else if tableYoung s (dieOf k) then (finc s (Reg.scDuptab (dieOf k)) 31 16 1, 2)
      else match acceptTile s k key r.id m with
        | some t => (commitItem (fillRcv t key k e r m) k, 0)
        | none => (s, 2) := by
  unfold receive
  simp only [List.findSome?_cons, hi, Option.bind_some, hr, Option.map_some] <;> rfl

theorem acceptTile_still {s t : State} {k key post : Nat} {m : TileMsg} (h : acceptTile s k key post m = some t) : Still s t := by
  unfold acceptTile at h
  dsimp only at h
  split at h
  · cases h
  · cases h
    exact ⟨rfl, rfl, rfl, rfl⟩

/-- An item that does not finish is not committed. -/
theorem commitItem_running {s : State} {k key : Nat} {e : Led} (h : itemOf s k = some (key, e)) (hst : e.st ≠ .finishing) :
    commitItem s k = s := by
  unfold commitItem
  rw [h]
  simp [hst]

/-- A receive that ends, or does not yet, leaves the ledger, and its core's item and tile store. -/
theorem finishRcv_spec (s : State) (k : Nat) (r : Rcv) :
    (finishRcv s k r).led = s.led ∧ ((finishRcv s k r).core k).item = (s.core k).item ∧ ((finishRcv s k r).core k).store = (s.core k).store := by
  by_cases hd : (if r.combine then decide (r.nt ≤ r.done) else decide (r.nt ≤ r.got.length)) = true
  · have heq : finishRcv s k r = settleCore (s.updCore k fun c => { c with
        rcvs := c.rcvs.filter fun x => x.id ≠ r.id, flight := c.flight.filter fun f => f.kind ≠ .rcv r.id }) k := by
      unfold finishRcv
      rw [if_pos hd]
    have hb := besideSems_settle unitBusy 33 { s.core k with
      rcvs := (s.core k).rcvs.filter fun x => x.id ≠ r.id, flight := (s.core k).flight.filter fun f => f.kind ≠ .rcv r.id }
    rw [heq]
    refine ⟨rfl, ?_, ?_⟩
    · rw [settleCore, State.core_updCore, State.core_updCore]
      have := congrArg Core.item hb; exact this
    · rw [settleCore, State.core_updCore, State.core_updCore]
      have := congrArg Core.store hb; exact this
  · have heq : finishRcv s k r = s := by
      unfold finishRcv
      rw [if_neg hd]
    rw [heq]
    exact ⟨rfl, rfl, rfl⟩

/-- A tile of a PLACE receive is placed in its slot. -/
theorem fillRcv_place {s : State} {k key : Nat} {m : TileMsg} {e : Led} {r : Rcv} (hc : r.combine = false) :
    (fillRcv s key k e r m).led = s.led ∧ ((fillRcv s key k e r m).core k).item = (s.core k).item ∧
      ((fillRcv s key k e r m).core k).store =
        ((s.core k).write (r.addr + (m.ord.toNat - r.ord) * tfmtSlot r.tfmt) m.data m.tag).store := by
  unfold fillRcv
  dsimp only
  rw [if_pos (by rw [hc]; rfl)]
  obtain ⟨h1, h2, h3⟩ := finishRcv_spec (s.updCore k fun c => (c.write (r.addr + (m.ord.toNat - r.ord) * tfmtSlot r.tfmt) m.data m.tag).setRcv
    { r with got := Tab.insert r.got (m.ord.toNat - r.ord) m.tag }) k { r with got := Tab.insert r.got (m.ord.toNat - r.ord) m.tag }
  rw [State.core_updCore] at h2 h3
  exact ⟨h1.trans rfl, h2.trans rfl, h3.trans rfl⟩

/-- Settles O17: what each transfer command leaves. -/
theorem tileTransferCompletes : Obligations.TileTransferCompletes := by
  refine ⟨fun s k m hi ht hc hno => ⟨?_, fun x hx hsrc hd hm => ?_⟩, fun s k m key e r hi hr hgot => ?_,
    fun s k m key e r hi hr hgot hy ha hc hst => ?_, fun s home seq key e hk hl hno hlt hp hw => ?_,
    fun s home seq x at_ hs hh hseq hd hw hr ht => ?_, fun s k key e hi hp ho => ?_⟩
  · change execTileArrival k m s = _
    unfold execTileArrival
    rw [receive_uncovered hi ht hc hno]
    rfl
  · refine List.mem_map.mpr ⟨x, hx, ?_⟩
    rw [if_pos ⟨hsrc, by omega, by omega, hm⟩]
  · refine ⟨(finc s (Reg.coDupCount k) 15 0 1).emit (.tileAck (tileSource m) 1), ?_, rfl, rfl, rfl, rfl⟩
    change execTileArrival k m s = _
    unfold execTileArrival
    rw [receive_onCore hi hr, if_pos hgot]
    rfl
  · obtain ⟨t, ht⟩ := Option.isSome_iff_exists.mp ha
    have hstill := acceptTile_still ht
    obtain ⟨h1, h2, h3⟩ := fillRcv_place (s := t) (k := k) (key := key) (m := m) (e := e) hc
    have hitem : itemOf (fillRcv t key k e r m) k = some (key, e) := (itemOf_congr (h2.trans (by rw [hstill.core])) (h1.trans hstill.led)).trans hi
    refine ⟨(fillRcv t key k e r m).emit (.tileAck (tileSource m) 0), ?_, ⟨_, rfl⟩, ?_⟩
    · change execTileArrival k m s = _
      unfold execTileArrival
      rw [receive_onCore hi hr, hgot, hy, ht]
      dsimp only
      rw [commitItem_running hitem hst]
      rfl
    · refine h3.trans ?_
      rw [hstill.core]
  · have hready : ({ (s.updLed key fun _ => ackTile e (seq.toNat % 2 ^ 20)) with
        sent := s.sent.filter fun x => !(x.led == key && x.n == seq.toNat % 2 ^ 20) } : State).sent.filter
          (fun x => x.led == key && x.waits && decide (x.n < (ackTile e (seq.toNat % 2 ^ 20)).ackPfx + 64)) = [] := by
      rw [List.filter_eq_nil_iff]
      intro x hx
      have hx' := List.any_eq_false.mp hw x (List.mem_filter.mp hx).1
      simp only [Bool.not_eq_true] at hx'
      rw [hx']
      simp
    refine ⟨{ (s.updLed key fun _ => ackTile e (seq.toNat % 2 ^ 20)) with
        sent := s.sent.filter fun x => !(x.led == key && x.n == seq.toNat % 2 ^ 20) }, ?_, fun x hx hxn => ?_, ackTile e (seq.toNat % 2 ^ 20), ?_,
        acked_ackTile hno hlt⟩
    · change execTileAck home seq s = _
      unfold execTileAck
      rw [hk]
      dsimp only
      unfold acknowledge
      rw [hl]
      dsimp only at hready ⊢
      rw [hready]
      have hp' : (ackTile e (seq.toNat % 2 ^ 20)).pcore = none := by
        unfold ackTile
        split
        · exact hp
        · exact hp
      unfold seatOf
      rw [hp']
      rfl
    · have := (List.mem_filter.mp hx).2
      simp [hxn.1, hxn.2] at this
    · change (s.updLed key _).ledAt key = _
      rw [ledAt_updLed, if_pos rfl, hl]
      rfl
  · have hretry : x.retries s = true := by
      unfold Sent.retries
      rw [hw, hr]
      simpa using ht
    have heq : exec (.tileResendRetry home seq) s = .next (netTile (setSent s { x with refused := none }) x) := by
      change execTileResendRetry home seq s = _
      unfold execTileResendRetry
      have hfilter : s.sent.filter (fun (x : Sent) => x.msg.home.toNat == home.val && x.msg.seq == seq) = [x] := by
        rw [hs]
        simp [hh, hseq]
      rw [hfilter, List.foldl_cons, List.foldl_nil]
      unfold resendTile
      simp [hretry, hd]
    have hstill := (Still.refl (s := s)).same (u := setSent s { x with refused := none }) rfl rfl rfl rfl |>.netTile x
    refine ⟨_, heq, rfl, ?_⟩
    have hout : ∃ o, (netTile (setSent s { x with refused := none }) x).out = s.out ++ [o] := by
      unfold netTile
      split
      · exact ⟨_, rfl⟩
      · exact ⟨_, rfl⟩
    obtain ⟨o, ho⟩ := hout
    exact ⟨o, ho, hstill.cores, hstill.memory⟩
  · refine ⟨stopItem s k 0 0 .timeout, ?_, stopItem_frees hi hp (.inr (.inr rfl)) _ _⟩
    change execTransferTimeout k s = _
    unfold execTransferTimeout
    dsimp only
    rw [List.find?_cons, hi]
    simp only [Option.any_some, ho]

end Sys2Proof.Proofs
end

section
/-! PROOFS. Rings: doorbells, admission and completions: O18, O19. -/

namespace Sys2Proof.Proofs
open Sys2Proof.Machine

/-! ### Doorbells -/

/-- A doorbell write of another size is discarded. -/
theorem bar2Write_size {s : State} {fn : Fn} {off size : Nat} {v : W64} (h : size ≠ 8) : bar2Write s fn off size v = s := by
  unfold bar2Write
  rw [if_pos (.inl h)]

/-- A doorbell of the VF of an instance, or of the manager, reaches its ring. -/
theorem bar2Write_ring {s : State} {fn : Fn} {off : Nat} {v : W64} {i : Inst} {r : RingId} {mgr : Bool} (hp : s.pwrWarnN = true)
    (h : mgr = false ∧ fn.val = i.val + 1 ∧ off = 8 * r.val ∨ mgr = true ∧ fn.val = 0 ∧ off = 0x20000 * i.val + 8 * r.val) :
    bar2Write s fn off 8 v = ringBell s mgr i r v := by
  have hi := i.isLt
  have hr := r.isLt
  have hno : ∀ off, off % 8 = 0 → ¬ (8 ≠ 8 ∨ off % 8 ≠ 0 ∨ (!s.pwrWarnN) = true) := fun off ho => by simp [hp, ho]
  unfold bar2Write
  obtain ⟨rfl, hf, rfl⟩ | ⟨rfl, hf, rfl⟩ := h
  · rw [if_neg (hno _ (by omega)), if_neg (by omega), if_pos (by omega), hf, show i.val + 1 - 1 = i.val by omega,
      show 8 * r.val / 8 = r.val by omega]
  · rw [if_neg (hno _ (by omega)), if_pos hf, if_pos (by omega), show (0x20000 * i.val + 8 * r.val) / 0x20000 = i.val by omega,
      show (0x20000 * i.val + 8 * r.val) % 0x20000 / 8 = r.val by omega]

theorem ringBell_owner {s : State} {mgr : Bool} {i r : Nat} {v : W64} (hm : ringMgr (s.ring i r) = mgr) (he : ringEn (s.ring i r) = true)
    (hr : (s.ring i r).err = false) : ringBell s mgr i r v =
      if badDoorbell (s.ring i r) (v.truncate 32) ((v >>> 32).truncate 32) then s.updRing i r fun y => { y with err := true }
      else s.updRing i r fun y => { y with tail := v.truncate 32, head := (v >>> 32).truncate 32 } := by
  unfold ringBell
  simp [hm, he, hr]

/-! ### Admission -/

/-- A ring after it admits an entry. -/
def ringAdmitted (y : Ring) : Ring := { y with next := y.next + 1#32, outst := y.outst + 1 }

theorem admitEntry_next {s : State} {i : Inst} {r : RingId} (h : mayAdmit s i r = true) {o : Op} {a : Nat}
    (ha : a = bits (s.ring i r).rsq.toNat 46 12 * 4096 + (s.ring i r).next.toNat % 2 ^ sqLog (s.ring i r) * 64)
    (ho : o = { inst := i, ring := r, subseq := (s.ring i r).next, desc := BitVec.ofNat 512 (ofLe (hostRead s i a 64)),
                rsq := (s.ring i r).rsq, rcq := (s.ring i r).rcq, mgr := ringMgr (s.ring i r), order := s.orders })
    (hio : ioCheck s i false a 64 = .ok) (hk : knownType o.desc = true) (hs : sealed s = false) :
    ∃ vc vp, exec (.admitEntry i r) s = .next { s.updRing i r ringAdmitted with
      vtClass := vc, vtPart := vp, ops := s.ops ++ [o], orders := s.orders + 1 } := by
  have hseal : ∀ u : State, u.regs = s.regs → sealRefused u o = false := fun u hu => by
    unfold sealRefused sealed fbit rd
    unfold sealed fbit rd at hs
    rw [hu, hs]
    rfl
  obtain ⟨vc, vp, hv⟩ : ∃ vc vp, (if entByte o.desc 0 = 0x21 then raiseV (s.updRing i r ringAdmitted) 3 ((partOf s i).getD 0) 3
      (copyHolders (s.updRing i r ringAdmitted)) else s.updRing i r ringAdmitted) =
      { s.updRing i r ringAdmitted with vtClass := vc, vtPart := vp } := by
    split
    · exact raiseV_eq _ _ _ _ _
    · exact ⟨_, _, rfl⟩
  refine ⟨vc, vp, ?_⟩
  subst ha
  change execAdmitEntry i r s = _
  unfold execAdmitEntry
  dsimp only
  rw [hio, h, ← ho]
  dsimp only
  rw [show BitVec.ofNat 512 (ofLe (hostRead s i (bits (s.ring i r).rsq.toNat 46 12 * 4096 +
    (s.ring i r).next.toNat % 2 ^ sqLog (s.ring i r) * 64) 64)) = o.desc by rw [ho], hk]
  simp only [Bool.not_true, Bool.false_eq_true, if_false]
  rw [hseal]
  · simp only [Bool.false_eq_true, if_false]
    exact congrArg (fun u : State => (Host.Outcome.next { u with ops := s.ops ++ [o], orders := s.orders + 1 } : Res)) hv
  · rfl

/-- Settles O18: a doorbell moves its ring's TAIL and HEAD, an admission takes the next entry. -/
theorem doorbellAndAdmission : Obligations.DoorbellAndAdmission := by
  refine ⟨fun s fn off v i r mgr hr hp hown hm he herr => ?_, fun s fn off size v hs => ?_, fun s fn off size hr => ?_,
    fun s i r h => ?_⟩
  · change hostCmd s (bar2Write s fn off 8 v) = _
    rw [hostCmd_up hr, bar2Write_ring hp hown, ringBell_owner hm he herr]
  · change hostCmd s (bar2Write s fn off size v) = _
    rw [bar2Write_size hs]
    unfold hostCmd
    rw [ite_self]
  · exact hostCmd_up hr _
  · intro x a e o hio hk hs
    obtain ⟨vc, vp, ht⟩ := admitEntry_next h rfl (o := o) rfl hio hk hs
    refine ⟨_, ht, rfl, rfl, ⟨rfl, rfl⟩, State.ring_updRing s i r ringAdmitted, fun j q hjq hq => State.ring_updRing_other s ringAdmitted ?_⟩
    have hi := i.isLt
    have hr := r.isLt
    rintro heq
    exact hjq (Prod.ext (by omega) (by omega))

/-! ### Completions -/

/-- Where a page of the host's dirty log is not kept, a write sets no bit of it. -/
theorem dirtyBit_off {s : State} {i : Nat} (h : fbit s (Reg.qmDirtyctl i) 0 = false) (b : Nat) : dirtyBit s i b = s := by
  unfold dirtyBit
  dsimp only
  rw [if_pos (by rw [h]; rfl)]

/-- A write that stays within one IO page, without a dirty log, writes its bytes alone. -/
theorem hostWrite_page {s : State} {i a : Nat} {bs : List Byte} (h : fbit s (Reg.qmDirtyctl i) 0 = false) (hn : bs ≠ [])
    (ha : a % 65536 + bs.length ≤ 65536) : hostWrite s i a bs = { s with host := Memory.write s.host (hostAddr s i a) bs } := by
  have hlen : bs.length ≠ 0 := fun hc => hn (List.eq_nil_of_length_eq_zero hc)
  have hpieces : pieces a bs.length = [(a, bs.length)] := by
    unfold pieces
    rw [show bs.length / 65536 + 2 = (bs.length / 65536 + 1) + 1 by rfl]
    unfold ioPieces
    rw [if_neg hlen]
    dsimp only
    rw [Nat.min_eq_left (by omega), Nat.sub_self]
    unfold ioPieces
    rw [if_pos rfl]
  unfold hostWrite
  dsimp only
  rw [hpieces, List.foldl_cons, List.foldl_nil, Nat.sub_self, List.drop_zero, List.take_length]
  refine List.foldlRecOn (motive := fun u => u = { s with host := Memory.write s.host (hostAddr s i a) bs }) _ _ rfl fun u hu b _ => ?_
  subst hu
  exact dirtyBit_off (s := { s with host := Memory.write s.host (hostAddr s i a) bs }) h b

/-- Settles O19: the completion entry of an enabled ring, and what one of another enable counts. -/
theorem completionEntryWritten : Obligations.CompletionEntryWritten := by
  intro s c r a
  refine ⟨fun hen hsq hcq hio hdirty => ?_, fun hno => ?_⟩
  · let u := (s.updRing c.inst c.ring fun x => x.complete c.order).updRing c.inst c.ring fun x => { x with written := x.written + 1#32 }
    let bs := complBytes c (1 - r.written.toNat / 2 ^ cqLog r % 2)
    have hlen : bs.length = 16 := length_leBytes _ _
    have hpage : a % 65536 + bs.length ≤ 65536 := by
      have h16 : a % 16 = 0 := by omega
      omega
    have hwrite : hostWrite u c.inst a bs = { u with host := Memory.write s.host (hostAddr s c.inst a) bs } :=
      hostWrite_page (s := u) hdirty (by intro h; rw [h] at hlen; cases hlen) hpage
    have heq : ∃ out, writeCompl s c = { u with host := Memory.write s.host (hostAddr s c.inst a) bs, out := out } := by
      have hcond : ¬ (!(ringEn r && r.rsq == c.rsq && r.rcq == c.rcq)) = true := by simp [hen, hsq, hcq]
      unfold writeCompl
      dsimp only
      rw [if_neg hcond, hio]
      dsimp only
      rw [hwrite]
      split
      · exact ⟨_, rfl⟩
      · exact ⟨_, rfl⟩
    obtain ⟨out, heq⟩ := heq
    have hring : (writeCompl s c).ring c.inst c.ring = { r.complete c.order with written := r.written + 1#32 } := by
      rw [heq]
      change u.ring c.inst c.ring = _
      rw [State.ring_updRing, State.ring_updRing]
      unfold Ring.complete
      split
      · rfl
      · rfl
    rw [hring]
    have hhost : (writeCompl s c).host = Memory.write s.host (hostAddr s c.inst a) bs := by rw [heq]
    rw [hhost]
    refine ⟨?_, rfl, ?_, ?_, by rw [heq]; rfl, fun b hb => ?_⟩
    · have := Memory.read_write s.host (hostAddr s c.inst a) bs
      rwa [hlen] at this
    · unfold Ring.complete
      split
      · rfl
      · rfl
    · unfold Ring.complete
      split
      · rfl
      · rfl
    · exact Memory.get_write_out _ _ _ (by rw [hlen]; exact hb)
  · have heq : writeCompl s c = s.updRing c.inst c.ring fun x => x.complete c.order := by
      have hcond : (!(ringEn r && r.rsq == c.rsq && r.rcq == c.rcq)) = true := by
        rcases hno with h | h | h
        · simp [h]
        · simp [h]
        · simp [h]
      unfold writeCompl
      dsimp only
      rw [if_pos hcond]
    rw [heq]
    exact ⟨⟨rfl, rfl⟩, rfl⟩

end Sys2Proof.Proofs
end

section
/-! PROOFS. What a completion leaves alone: everything but its ring, host memory, counts of violations and the output. -/

namespace Sys2Proof.Proofs
open Sys2Proof.Machine

/-- A register that no completion changes: neither the counts and latches of violations nor the dirty log's control. -/
def postFixed (off : Nat) : Prop := ∀ i : Inst, off ≠ Reg.mtEvents i ∧ off ≠ Reg.isViol i ∧ off ≠ Reg.qmDirtyctl i

/-- From `s` to `t` only completions are posted. -/
def Posted (s t : State) : Prop :=
  ∃ regs host rings out, t = { s with regs := regs, host := host, rings := rings, out := out } ∧ ∀ off, postFixed off → rd t off = rd s off

section
variable {s t u : State}

theorem Posted.refl : Posted s s := ⟨_, _, _, _, rfl, fun _ _ => rfl⟩

theorem Posted.trans (h : Posted s t) (g : Posted t u) : Posted s u := by
  obtain ⟨_, _, _, _, rfl, h⟩ := h
  obtain ⟨_, _, _, _, rfl, g⟩ := g
  exact ⟨_, _, _, _, rfl, fun off ho => (g off ho).trans (h off ho)⟩

/-- What ignores registers, host memory, rings and output is as it was. -/
theorem Posted.proj (h : Posted s t) {α : Type} (π : State → α)
    (hπ : ∀ (u : State) regs host rings out, π { u with regs := regs, host := host, rings := rings, out := out } = π u) : π t = π s := by
  obtain ⟨_, _, _, _, rfl, _⟩ := h
  exact hπ _ _ _ _ _

theorem Posted.dev (h : Posted s t) : t.dev = s.dev := h.proj State.dev fun _ _ _ _ _ => rfl

theorem Posted.page (h : Posted s t) (n : Nat) : t.page n = s.page n := h.proj (State.page · n) fun _ _ _ _ _ => rfl

theorem Posted.desc (h : Posted s t) (n : Nat) : t.desc n = s.desc n := h.proj (State.desc · n) fun _ _ _ _ _ => rfl

theorem Posted.part (h : Posted s t) (n : Nat) : t.part n = s.part n := h.proj (State.part · n) fun _ _ _ _ _ => rfl

theorem Posted.rd (h : Posted s t) {off : Nat} (ho : postFixed off) : rd t off = rd s off := by
  obtain ⟨_, _, _, _, -, h⟩ := h
  exact h off ho

theorem Posted.fget (h : Posted s t) {off : Nat} (ho : postFixed off) (hi lo : Nat) : fget t off hi lo = fget s off hi lo := by
  unfold Machine.fget
  rw [h.rd ho]

theorem Posted.fbit (h : Posted s t) {off : Nat} (ho : postFixed off) (b : Nat) : fbit t off b = fbit s off b := by
  unfold Machine.fbit
  rw [h.rd ho]

theorem Posted.setReg (h : Posted s t) {off v : Nat} (ho : ¬ postFixed off) : Posted s (t.setReg off v) :=
  h.trans ⟨_, _, _, _, rfl, fun off' ho' => rd_setReg_other _ _ fun he => ho (he ▸ ho')⟩

theorem Posted.fset (h : Posted s t) {off hi lo v : Nat} (ho : ¬ postFixed off) : Posted s (fset t off hi lo v) := h.setReg ho

theorem Posted.updRing (h : Posted s t) (i r : Nat) (f : Ring → Ring) : Posted s (t.updRing i r f) :=
  h.trans ⟨_, _, _, _, rfl, fun _ _ => rfl⟩

theorem Posted.emit (h : Posted s t) (o : Out) : Posted s (t.emit o) :=
  h.trans ⟨_, _, _, _, rfl, fun _ _ => rfl⟩

theorem Posted.foldl {α : Type} {f : State → α → State} {l : List α} (h : Posted s t) (hf : ∀ u x, Posted s u → Posted s (f u x)) :
    Posted s (l.foldl f t) :=
  List.foldlRecOn (motive := Posted s) l f h fun u hu x _ => hf u x hu

theorem Posted.dirtyBit (h : Posted s t) (i : Inst) (b : Nat) : Posted s (dirtyBit t i b) := by
  unfold Machine.dirtyBit
  dsimp only
  split
  · exact h
  split
  · exact h.fset fun hp => (hp i).2.2 rfl
  · exact h.trans ⟨_, _, _, _, rfl, fun _ _ => rfl⟩

theorem Posted.hostWrite (h : Posted s t) (i : Inst) (a : Nat) (bs : List Byte) : Posted s (hostWrite t i a bs) :=
  .foldl (h.trans ⟨_, _, _, _, rfl, fun _ _ => rfl⟩) fun _ _ hu => hu.dirtyBit _ _

theorem Posted.countViol (h : Posted s t) (i : Inst) (cause addr : Nat) : Posted s (countViol t i cause addr) := by
  have hevents : Posted s (finc t (Reg.mtEvents i) 15 0 1) := h.fset fun hp => (hp i).1 rfl
  unfold Machine.countViol
  dsimp only
  split
  · exact hevents.fset fun hp => (hp i).2.1 rfl
  · exact hevents.setReg fun hp => (hp i).2.1 rfl

theorem Posted.writeCompl (h : Posted s t) (c : Compl) : Posted s (writeCompl t c) := by
  have hring := h.updRing c.inst c.ring fun x => x.complete c.order
  have hentry : ∀ (v : Verdict) (u : State) (a : Nat) (bs : List Byte), Posted s u → Posted s (match v with
      | .ok => Machine.hostWrite u c.inst a bs
      | .viol k x => Machine.countViol u c.inst k x
      | .fence _ _ => u) := fun v u a bs hu => by
    cases v with
    | ok => exact hu.hostWrite _ _ _
    | viol k x => exact hu.countViol _ _ _
    | fence => exact hu
  unfold Machine.writeCompl
  dsimp only
  split
  · exact hring
  · split
    · exact (hentry _ _ _ _ (hring.updRing _ _ _)).emit _
    · exact hentry _ _ _ _ (hring.updRing _ _ _)

/-- An operation that completes leaves the queue of operations and posts its completion. -/
theorem completeOp_posted (s : State) (o : Op) (status value : Nat) : Posted (dropOp s o) (completeOp s o status value) :=
  Posted.refl.writeCompl _

end

end Sys2Proof.Proofs
end

section
/-! PROOFS. COPY and NORMREAD: O21. -/

namespace Sys2Proof.Proofs
open Sys2Proof.Machine

/-- An entry that is admitted once runs. -/
theorem withOp_eq {s : State} {i : Inst} {r : RingId} {typ : Nat} {q : W32} {sub : Option Nat} {o : Op} (h : opsAt s i r q typ sub = [o])
    (f : Op → State) : withOp s i r q typ sub f = .next (f o) := by
  unfold withOp
  rw [h]

/-- An entry that an operation finds is of the queue, of its ring and of its type. -/
theorem of_opsAt {s : State} {i : Inst} {r : RingId} {typ : Nat} {q : W32} {sub : Option Nat} {o : Op} (h : opsAt s i r q typ sub = [o]) :
    o ∈ s.ops ∧ o.inst = i ∧ o.ring = r ∧ o.subseq = q ∧ entByte o.desc 0 = typ ∧ ∀ n, sub = some n → entByte o.desc 2 = n := by
  have hm : o ∈ opsAt s i r q typ sub := by rw [h]; exact List.mem_singleton_self o
  obtain ⟨h1, h2⟩ := List.mem_filter.mp hm
  simp only [Bool.and_eq_true, beq_iff_eq] at h2
  obtain ⟨⟨⟨⟨hi, hr⟩, hq⟩, ht⟩, hs⟩ := h2
  refine ⟨h1, Fin.ext hi, Fin.ext hr, hq, ht, fun n hn => ?_⟩
  subst hn
  simpa using hs

/-- A write of the bytes of a device range copies it. -/
theorem get_write_read (m : Memory) (x y n a : Nat) :
    Memory.get (Memory.write m y (Memory.read m x n)) a = if y ≤ a ∧ a < y + n then Memory.get m (x + (a - y)) else Memory.get m a := by
  split
  · rename_i h
    rw [Memory.get_write_in _ _ _ h.1 (by rw [Memory.length_read]; exact h.2)]
    rw [Memory.read, List.getD_eq_getElem?_getD, List.getElem?_map, List.getElem?_range (by omega)]
    rfl
  · rename_i h
    exact Memory.get_write_out _ _ _ (by rw [Memory.length_read]; omega)

/-- Between device ranges a write of what is read moves the bytes. -/
theorem opWrite_opRead_dev {s u : State} {i src dst n x y : Nat} (hu : u.dev = s.dev) (hx : addrOf src = .dev x) (hy : addrOf dst = .dev y) :
    (opWrite u i dst (opRead u i src n)).dev = Memory.write s.dev y (Memory.read s.dev x n) := by
  unfold opWrite opRead
  rw [hx, hy]
  dsimp only [devWrite]
  rw [hu]

theorem charge_frame (s : State) (eng p cls n : Nat) : (charge s eng p cls n).dev = s.dev ∧ (charge s eng p cls n).gens = s.gens := by
  unfold charge
  dsimp only
  split
  · exact ⟨rfl, rfl⟩
  · exact ⟨rfl, rfl⟩

theorem publish_dev (s : State) (i h g : Nat) : (publish s i h g).dev = s.dev := by
  unfold publish
  split
  · rfl
  · rfl

/-- Settles O21: a COPY moves its bytes and publishes its generation, a NORMREAD writes what it reads. -/
theorem copyAndNormReadComplete : Obligations.CopyAndNormReadComplete := by
  refine ⟨fun s i r q o h => ?_, fun s i r q o h => ?_⟩
  · intro n src dst hturn hhead h64 hgen hz hrd hwr hpois
    let u := publish (charge (opWrite s.drawWord.2 i dst (opRead s.drawWord.2 i src n)) 3 (opPart s o) 3 s.drawWord.1.toNat) i
      (entNum o.desc 48 4) (entNum o.desc 52 4)
    have hrun : exec (.copy i r q) s = .next (completeOp u o 0 n) := by
      change execCopy i r q s = _
      unfold execCopy
      rw [withOp_eq h]
      have hform : (!headOk o.desc || decide (n % 64 ≠ 0) || decide (0x10000 ≤ entNum o.desc 48 4) ||
          !zeroAt o.desc [(2, 1), (14, 2), (22, 26), (56, 8)]) = false := by
        simp [hhead, hz, h64, Nat.not_le.mpr hgen]
      dsimp only [n, src, dst] at hform hrd hwr hpois ⊢
      rw [hform, hturn, hrd, hwr]
      simp only [Verdict.first]
      cases ha : addrOf (entNum o.desc 8 6) with
      | dev x =>
        dsimp only
        rw [hpois x ha]
        rfl
      | io x => rfl
      | bad => rfl
    have hpost := completeOp_posted u o 0 n
    refine ⟨_, u, hrun, rfl, fun hne => ?_, fun x y hx hy a => ?_⟩
    · rw [hpost.proj State.gens fun _ _ _ _ _ => rfl]
      change Tab.get 0#32 (publish _ _ _ _).gens _ = _
      unfold publish
      rw [if_neg hne]
      rw [Nat.mod_eq_of_lt hgen]
      exact Tab.get_put_self _ _ _ _
    · rw [hpost.dev]
      change Memory.get (publish _ _ _ _).dev a = _
      rw [publish_dev, (charge_frame _ _ _ _ _).1, opWrite_opRead_dev (s := s) (u := s.drawWord.2) rfl hx hy, get_write_read]
  · intro n fl t dst hhead hb1 hbt hn hfl hd hd47 hz hwr hmgr hdesc bs
    change execNormread i r q s = _
    unfold execNormread
    rw [withOp_eq h]
    obtain ⟨-, hi, -⟩ := of_opsAt h
    have hlen : ¬ 4096 < n := by omega
    have hend : ¬ 4096 < fl + n := by omega
    dsimp only [n, fl, t, dst, bs] at *
    obtain hbase | hbase : entByte o.desc 6 = 0 ∨ entByte o.desc 6 = 1 := by omega
    · obtain ⟨hst, hinst, hkey⟩ := hdesc hbase
      simp [hbase, hhead, hz, hd, hd47, hwr, hlen, hend, hst, hinst, hkey, Nat.pos_iff_ne_zero.mp hn, show bit 0 0 = false from rfl]
    · simp [hbase, hhead, hz, hd, hd47, hwr, hlen, hend, hmgr hbase, hbt hbase, Nat.pos_iff_ne_zero.mp hn, show bit 1 0 = true from rfl, opPart]

end Sys2Proof.Proofs
end

section
/-! PROOFS. Pages taken, given back and zeroed: O22. -/

namespace Sys2Proof.Proofs
open Sys2Proof.Machine

theorem fin_val (n : Nat) (x : Fin (n + 1)) : fin n x.val = x := Fin.ext (Nat.mod_eq_of_lt x.isLt)

/-! ### The queue of operations -/

/-- An operation that leaves the queue is not found again. -/
theorem opsAt_drop {s t : State} {i r typ : Nat} {q : W32} {sub : Option Nat} {o : Op} (h : opsAt s i r q typ sub = [o])
    (ht : t.ops = (dropOp s o).ops) : opsAt t i r q typ sub = [] := by
  have hsame : o.same o = true := by simp [Op.same]
  unfold opsAt at h ⊢
  rw [ht, List.filter_eq_nil_iff]
  intro x hx hp
  have hm := List.mem_filter.mp hx
  have hx' : x ∈ [o] := by
    rw [← h]
    exact List.mem_filter.mpr ⟨hm.1, hp⟩
  have hxo := List.mem_singleton.mp hx'
  rw [hxo] at hm
  simp [hsame] at hm

/-! ### Rule changes -/

theorem ruleBusy_ruleChange (s : State) (i : Nat) : ruleBusy (ruleChange s i) i = true := by
  unfold ruleBusy ruleChange
  rw [fbit_fset_self _ _ _ (by decide)]
  rfl

theorem postFixed_isRulectl (i : Nat) : postFixed (Reg.isRulectl i) := by
  intro j
  unfold Reg.isRulectl Reg.mtEvents Reg.isViol Reg.qmDirtyctl
  omega

/-! ### Pages -/

/-- A fold that puts the value `f` of a page's old one at each listed page. -/
theorem get_foldl_put {f : Page → Page} (ns : List Nat) (t : Tab Page) (p : Nat) :
    (p ∉ ns → Tab.get {} (ns.foldl (fun t n => Tab.put {} t n (f (Tab.get {} t n))) t) p = Tab.get {} t p) ∧
      (p ∈ ns → ∃ x, Tab.get {} (ns.foldl (fun t n => Tab.put {} t n (f (Tab.get {} t n))) t) p = f x) := by
  induction ns using List.reverseRecOn with
  | nil => exact ⟨fun _ => rfl, fun h => absurd h (by simp)⟩
  | append_singleton ns n ih =>
    rw [List.foldl_append, List.foldl_cons, List.foldl_nil]
    by_cases hp : p = n
    · subst hp
      exact ⟨fun h => absurd (by simp) h, fun _ => ⟨_, Tab.get_put_self _ _ _ _⟩⟩
    · rw [Tab.get_put_other _ _ _ hp]
      exact ⟨fun h => ih.1 fun hm => h (by simp [hm]), fun h => ih.2 (by simpa [hp] using h)⟩

/-- The pages an assignment takes bear its kind and instance; the others stay. -/
theorem page_assignPages (s : State) (ns : List Nat) (kind : Kind) (i p : Nat) (tag : Tag) (n : Nat) :
    (n ∉ ns → (assignPages s ns kind i p tag).page n = s.page n) ∧
      (n ∈ ns → ((assignPages s ns kind i p tag).page n).kind = kind ∧ ((assignPages s ns kind i p tag).page n).inst = fin 15 i) := by
  obtain ⟨h1, h2⟩ := get_foldl_put (f := fun old => { kind := kind, inst := fin 15 i, part := fin 15 p, tag := tag, owngen := old.owngen + 1#32 })
    ns s.pages n
  refine ⟨h1, fun h => ?_⟩
  obtain ⟨x, hx⟩ := h2 h
  have : (assignPages s ns kind i p tag).page n = { kind := kind, inst := fin 15 i, part := fin 15 p, tag := tag, owngen := x.owngen + 1#32 } := hx
  rw [this]
  exact ⟨rfl, rfl⟩

/-- The pages given back are ZEROING; the others stay. -/
theorem page_zeroingPages (s : State) (ns : List Nat) (n : Nat) :
    (n ∉ ns → (zeroingPages s ns).page n = s.page n) ∧ (n ∈ ns → ((zeroingPages s ns).page n).kind = .zeroing) := by
  obtain ⟨h1, h2⟩ := get_foldl_put (f := fun old => { kind := .zeroing, owngen := old.owngen }) ns s.pages n
  refine ⟨h1, fun h => ?_⟩
  obtain ⟨x, hx⟩ := h2 h
  have : (zeroingPages s ns).page n = { kind := .zeroing, owngen := x.owngen } := hx
  rw [this]

/-! ### Allocation -/

theorem length_pickUp_le (ok : Nat → Bool) (hi fuel cur n : Nat) : (pickUp ok hi fuel cur n).length ≤ n := by
  induction fuel generalizing cur n with
  | zero => exact Nat.zero_le _
  | succ fuel ih =>
    unfold pickUp
    split
    · exact Nat.zero_le _
    split
    · have := ih (cur + 1) (n - 1)
      simp only [List.length_cons]
      omega
    · exact ih _ _

/-- What an allocation finds at once is no more than was asked. -/
theorem length_allocate_le {s : State} {o : Op} {n w : Nat} {u : State} {ns : List Nat} (h : allocate s o n w = .pages u ns) : ns.length ≤ n := by
  have htake : ∀ v : State, (takeFree v w n).length ≤ n := fun v => length_pickUp_le _ _ _ _ _
  unfold allocate at h
  dsimp only at h
  split at h
  · cases h
    exact htake _
  · split at h
    · cases h
    · split at h
      · cases h
        exact htake _
      · cases h

/-- A check of a list of verdicts passes where each does. -/
theorem first_eq_ok_iff (vs : List Verdict) : Verdict.first vs = .ok ↔ ∀ v ∈ vs, v = .ok := by
  induction vs with
  | nil => simp [Verdict.first]
  | cons v vs ih =>
    cases v with
    | ok => simp [Verdict.first, ih]
    | viol => simp [Verdict.first]
    | fence => simp [Verdict.first]

theorem span_sub {size a m n x : Nat} (h : m ≤ n) (hx : x ∈ span size a m) : x ∈ span size a n := by
  unfold span at hx ⊢
  split at hx
  · cases hx
  · obtain ⟨k, hk, rfl⟩ := List.mem_map.mp hx
    have hk := List.mem_range.mp hk
    rw [if_neg (by omega)]
    refine List.mem_map.mpr ⟨k, List.mem_range.mpr ?_, rfl⟩
    have : (a + m - 1) / size ≤ (a + n - 1) / size := Nat.div_le_div_right (by omega)
    omega

/-- A range of host memory that passes passes in each shorter range, whatever else changed. -/
theorem opAccess_io {s t : State} {i a m n : Nat} {wr : Bool} (hx : t.xlat = s.xlat) (ha : bit a 47 = true) (hm : m ≤ n)
    (h : opAccess s i wr a n = .ok) : opAccess t i wr a m = .ok := by
  have hio : addrOf a = .io (bits a 46 0) := by
    unfold addrOf
    rw [if_pos ha]
  unfold opAccess opAccessBy at h ⊢
  rw [hio] at h ⊢
  dsimp only at h ⊢
  unfold ioCheck at h ⊢
  rw [first_eq_ok_iff] at h ⊢
  intro v hv
  obtain ⟨y, hy, rfl⟩ := List.mem_map.mp hv
  have hsame : ioCheckAt t i wr y = ioCheckAt s i wr y := by
    unfold ioCheckAt leaf
    rw [hx]
  rw [hsame]
  exact h _ (List.mem_map.mpr ⟨y, span_sub hm hy, rfl⟩)

/-- A write to a host address posts. -/
theorem opWrite_io (s : State) (i : Inst) {a : Nat} (bs : List Byte) (ha : bit a 47 = true) : Posted s (opWrite s i a bs) := by
  unfold opWrite addrOf
  rw [if_pos ha]
  exact Posted.refl.hostWrite _ _ _

/-- The pages of a MEM ALLOC whose list may be written: what taking them leaves. -/
theorem memTake_spec {s : State} {i : Inst} {r : RingId} {q : W32} {o : Op} {ns : List Nat} {n : Nat} (ho : opsAt s i r q 0x20 (some 0) = [o])
    (hn : ns.length ≤ n) (hl : bit (entNum o.desc 16 6) 47 = true) (ha : opAccess s i true (entNum o.desc 16 6) (4 * n) = .ok) :
    (∀ p ∈ ns, ((memTake s o ns).page p).kind = (if entByte o.desc 4 = 3 then Kind.act else Kind.stage) ∧ ((memTake s o ns).page p).inst = i) ∧
      (∀ p, p ∉ ns → (memTake s o ns).page p = s.page p) ∧ opsAt (memTake s o ns) i r q 0x20 (some 0) = [] ∧
      ruleBusy (memTake s o ns) i = true ∧ (memTake s o ns).dev = s.dev := by
  obtain ⟨-, hi, -⟩ := of_opsAt ho
  let s1 := ruleChange (assignPages (dropResv s o) ns (if entByte o.desc 4 = 3 then Kind.act else Kind.stage) o.inst (opPart s o) 0#16) o.inst
  have hpages := page_assignPages (dropResv s o) ns (if entByte o.desc 4 = 3 then Kind.act else Kind.stage) o.inst (opPart s o) 0#16
  have hok : opAccess s1 o.inst true (entNum o.desc 16 6) (4 * ns.length) = .ok := by
    rw [hi]
    exact opAccess_io (s := s) (n := 4 * n) rfl hl (by omega) ha
  have hpost := opWrite_io s1 o.inst (((ns.foldr insertAsc []).map (leBytes 4)).flatten) hl
  have heq : memTake s o ns = completeOpRule (opWrite s1 o.inst (entNum o.desc 16 6) (((ns.foldr insertAsc []).map (leBytes 4)).flatten)) o 0
      ns.length := by
    unfold memTake
    dsimp only [s1] at hok ⊢
    rw [hok]
  generalize opWrite s1 o.inst (entNum o.desc 16 6) (((ns.foldr insertAsc []).map (leBytes 4)).flatten) = u at heq hpost
  rw [heq]
  have hpage : ∀ p, (completeOpRule u o 0 ns.length).page p = (assignPages (dropResv s o) ns (if entByte o.desc 4 = 3 then Kind.act else Kind.stage)
    o.inst (opPart s o) 0#16).page p := fun p => (hpost.page p).trans rfl
  refine ⟨fun p hp => ?_, fun p hp => ?_, ?_, ?_, hpost.dev⟩
  · rw [hpage, ((hpages p).2 hp).1, ((hpages p).2 hp).2, fin_val, hi]
    exact ⟨rfl, rfl⟩
  · rw [hpage, (hpages p).1 hp]
    rfl
  · refine opsAt_drop ho ?_
    have hops : u.ops = s1.ops := hpost.proj State.ops fun _ _ _ _ _ => rfl
    change (u.ops.filter _) = s.ops.filter _
    rw [hops]
    rfl
  · have hb : ruleBusy s1 i = true := by rw [← hi]; exact ruleBusy_ruleChange _ _
    exact (hpost.fbit (postFixed_isRulectl _) 30).trans hb

/-! ### Pages given back -/

/-- Rising numbers rise from each to the next. -/
theorem zip_drop_lt_of_pairwise {ns : List Nat} (h : ns.Pairwise (· < ·)) : (ns.zip (ns.drop 1)).all (fun x => decide (x.1 < x.2)) = true := by
  induction ns with
  | nil => rfl
  | cons a ns ih =>
    cases ns with
    | nil => rfl
    | cons b ns =>
      have hab : a < b := (List.pairwise_cons.mp h).1 b (by simp)
      simpa [hab] using ih (List.pairwise_cons.mp h).2

/-! ### Zeroing -/

/-- What the removals' steps leave where no removal waits for its keys: memories and pages. -/
structure Cleaned (s t : State) : Prop where
  dev : t.dev = s.dev
  host : t.host = s.host
  pages : t.pages = s.pages
  phase : ∀ j : Inst, fget s (Reg.isRemove j) 29 28 ≠ 1 → fget t (Reg.isRemove j) 29 28 ≠ 1

theorem Cleaned.trans {s t u : State} (h : Cleaned s t) (g : Cleaned t u) : Cleaned s u :=
  ⟨g.dev.trans h.dev, g.host.trans h.host, g.pages.trans h.pages, fun j hj => g.phase j (h.phase j hj)⟩

/-- What changes neither memory nor pages nor registers cleans nothing. -/
theorem Cleaned.of_regs {s t : State} (hd : t.dev = s.dev) (hh : t.host = s.host) (hp : t.pages = s.pages) (hr : t.regs = s.regs) : Cleaned s t :=
  ⟨hd, hh, hp, fun j hj => by unfold fget rd at hj ⊢; rwa [hr]⟩

theorem cleaned_postNotice (s : State) (i : Nat) : Cleaned s (postNotice s i) := by
  unfold postNotice
  dsimp only
  split
  · exact .of_regs rfl rfl rfl rfl
  · split
    · exact .of_regs rfl rfl rfl rfl
    · exact .of_regs rfl rfl rfl rfl

theorem cleaned_notify (s : State) (i kind arg : Nat) : Cleaned s (notify s i kind arg) :=
  Cleaned.trans (t := queueNotice s i kind arg) (.of_regs rfl rfl rfl rfl) (cleaned_postNotice _ _)

theorem cleaned_fset {s : State} {off hi lo v : Nat} (h : ∀ j : Inst, Reg.isRemove j ≠ off) : Cleaned s (fset s off hi lo v) :=
  ⟨rfl, rfl, rfl, fun j hj => by rwa [fget_fset_other _ _ _ _ _ _ (h j)]⟩

theorem cleaned_endSeal (s : State) : Cleaned s (endSeal s) := by
  have hno : ∀ j : Inst, Reg.isRemove j ≠ Reg.isSealctl := fun j => by
    unfold Reg.isRemove Reg.isSealctl
    omega
  unfold endSeal
  dsimp only
  split
  · refine Cleaned.trans (t := fset (fset (fset s Reg.isSealctl 31 31 0) Reg.isSealctl 29 29 0) Reg.isSealctl 15 0 0) ?_ (.of_regs rfl rfl rfl rfl)
    exact Cleaned.trans (t := fset (fset s Reg.isSealctl 31 31 0) Reg.isSealctl 29 29 0)
      (Cleaned.trans (t := fset s Reg.isSealctl 31 31 0) (cleaned_fset hno) (cleaned_fset hno)) (cleaned_fset hno)
  · exact .of_regs rfl rfl rfl rfl

theorem cleaned_removalStep {s : State} {i : Inst} (h : fget s (Reg.isRemove i) 29 28 ≠ 1) : Cleaned s (removalStep s i) := by
  unfold removalStep
  simp only [h, false_and, if_false]
  split
  · refine Cleaned.trans ?_ (cleaned_endSeal _)
    refine Cleaned.trans ?_ (cleaned_notify _ _ _ _)
    refine ⟨rfl, rfl, rfl, fun j hj => ?_⟩
    by_cases hji : j = i
    · rw [hji, fget_fset_self _ _ _ (by decide) (by decide)]
      decide
    · rw [fget_fset_other _ _ _ _ _ _ (by unfold Reg.isRemove; have := Fin.val_ne_of_ne hji; omega)]
      exact hj
  · exact .of_regs rfl rfl rfl rfl

/-- The removals' steps leave memory and pages where none waits for its keys. -/
theorem cleaned_removalSteps {s : State} (h : ∀ i : Inst, fget s (Reg.isRemove i) 29 28 ≠ 1) : Cleaned s ((List.range 16).foldl removalStep s) :=
  List.foldlRecOn (motive := Cleaned s) _ _ (.of_regs rfl rfl rfl rfl) fun _ hu n hn =>
    hu.trans (cleaned_removalStep (i := ⟨n, List.mem_range.mp hn⟩) (hu.phase _ (h _)))

/-- Settles O22: pages are taken, given back and zeroed. -/
theorem memoryOperationsComplete : Obligations.MemoryOperationsComplete := by
  refine ⟨fun s i r q o => ?_, fun s n hk hrem => ?_⟩
  · intro n list
    refine ⟨fun ho hp hh hkind hw hn0 hn hz hacc hl hb _ ns hns _ => ?_, fun ho hh hn0 hn hz hacc hb ns hns hpair hmine => ?_⟩
    · have hkind' : (entByte o.desc 4 == 3 || entByte o.desc 4 == 6) = true := by simpa using hkind
      have heq : exec (.memAlloc i r q) s = .next (memTake s o ns) := by
        change execMemAlloc i r q s = _
        unfold execMemAlloc
        rw [withOp_eq ho]
        dsimp only [n, list] at *
        simp only [hp, hh, hkind', hz, hacc, hb, hns, Nat.not_lt.mpr hw, Nat.not_lt.mpr hn, Nat.pos_iff_ne_zero.mp hn0, decide_false, Bool.not_true,
          Bool.or_self, Bool.false_eq_true, if_false]
      exact ⟨_, heq, memTake_spec ho (length_allocate_le hns) hl hacc⟩
    · have hall : (ns.all fun p => ((s.page p).kind == .act || (s.page p).kind == .stage) && (s.page p).inst == i) = true := by
        rw [List.all_eq_true]
        intro p hp
        obtain ⟨h1, h2, -⟩ := hmine p hp
        simpa [h2] using h1
      have husers : (ns.any fun p => !(pageUsers s p).isEmpty) = false := by
        rw [List.any_eq_false]
        intro p hp
        simp [(hmine p hp).2.2]
      have heq : exec (.memFree i r q) s = .next (completeOpRule (ruleChange (zeroingPages s ns) i) o 0 0) := by
        change execMemFree i r q s = _
        unfold execMemFree
        rw [withOp_eq ho]
        dsimp only [n, list] at *
        rw [← hns]
        simp only [hh, hz, hacc, hb, hall, husers, zip_drop_lt_of_pairwise hpair, Nat.not_lt.mpr hn, Nat.pos_iff_ne_zero.mp hn0, decide_false,
          Bool.not_true, Bool.or_self, Bool.false_eq_true, if_false]
      refine ⟨_, heq, fun p hp => (page_zeroingPages s ns p).2 hp, fun p hp => (page_zeroingPages s ns p).1 hp, ruleBusy_ruleChange _ _, rfl, rfl⟩
  · let u := endEvictions { s.setPage n { s.page n with kind := .free, freeing := false } with
      dev := Memory.zero s.dev (n * Config.pageBytes) Config.pageBytes
      poison := s.poison.filter fun u => u * 64 / Config.pageBytes ≠ n }
    have heq : exec (.pageZeroed n) s = .next ((List.range 16).foldl removalStep u) := by
      change execPageZeroed n s = _
      unfold execPageZeroed
      dsimp only
      rw [hk]
      rfl
    have hclean : Cleaned u ((List.range 16).foldl removalStep u) := cleaned_removalSteps hrem
    refine ⟨_, heq, ?_, hclean.host, fun a => ?_⟩
    · unfold State.page
      rw [hclean.pages]
      change (((s.setPage n { s.page n with kind := .free, freeing := false }).page n)).kind = _
      rw [State.page_setPage]
    · rw [hclean.dev]
      change Memory.get (Memory.zero s.dev (n * Config.pageBytes) Config.pageBytes) a = _
      split
      · rename_i ha
        exact Memory.get_zero_in _ ha.1 ha.2
      · rename_i ha
        exact Memory.get_zero_out _ (by omega)

end Sys2Proof.Proofs
end

section
/-! PROOFS. Adapters and bases: O23, O24, O25. -/

namespace Sys2Proof.Proofs
open Sys2Proof.Machine

theorem desc_congr {s t : State} (h : t.descs = s.descs) (j : Nat) : t.desc j = s.desc j := by
  unfold State.desc
  rw [h]

/-! ### Loads -/

/-- What a load's pages leave in the descriptors: the loaded tag's own fields stay but for its directories. -/
theorem loadTake_desc (s : State) (o : Op) (ns : List Nat) :
    (∃ pages stPages dir grad state, (loadTake s o ns).desc (opTag o) =
      { s.desc (opTag o) with pages := pages, stPages := stPages, dir := dir, grad := grad, state := state }) ∧
    ∀ j, j ≠ opTag o → (loadTake s o ns).desc j = s.desc j := by
  unfold loadTake
  dsimp only
  generalize loadPages o.desc = sizes
  obtain ⟨ni, ng, nst⟩ := sizes
  dsimp only
  generalize hv : ruleChange _ _ = v
  have hd : ∀ j, v.desc j = s.desc j := fun j => by
    rw [← hv]
    rfl
  refine ⟨?_, fun j hj => (State.desc_updDesc_other _ _ hj).trans (hd j)⟩
  rw [State.desc_updDesc, hd]
  exact ⟨_, _, _, _, _, rfl⟩

theorem foldl_devWrite_eq (s : State) (g : Nat → Nat) (l : List (Nat × List Byte)) :
    ∃ dev poison, l.foldl (fun t x => devWrite t (g x.1) x.2) s = { s with dev := dev, poison := poison } :=
  List.foldlRecOn (motive := fun u : State => ∃ dev poison, u = { s with dev := dev, poison := poison }) _ _ ⟨_, _, rfl⟩ fun u hu x _ => by
    obtain ⟨dev, poison, rfl⟩ := hu
    exact ⟨_, _, rfl⟩

/-- A run of pages is written to device memory. -/
theorem writeRun_eq (s : State) (ns : List Nat) (bs : List Byte) : ∃ dev poison, writeRun s ns bs = { s with dev := dev, poison := poison } :=
  foldl_devWrite_eq s (· * Config.pageBytes) _

/-- A LOAD that passes its checks and finds its pages. -/
theorem adapterLoad_eq {s : State} {i : Inst} {r : RingId} {q : W32} {o : Op} (h : entrySub s i r q o 0x10 0) (hp : o.parked = false)
    (hst : (s.desc (opTag o)).st = .free) (hok : loadOk o.desc = true) (hpriv : tagPriv s o = true) (hkey : keyUsable s (opTag o) = true)
    (hgen : (s.key (opTag o)).keygen.toNat = entByte o.desc 7) (hpart : (partOf s i).isSome = true)
    (hfp : entNum o.desc 16 8 = (baseFp s (opPart s o)).toNat) (hlim : loadLimit s (opPart s o) (bit (entByte o.desc 6) 2) = false)
    (hacc : loadAccess s o = .ok) (himg : imageOk (imageOf s o) (entNum o.desc 10 2) (entNum o.desc 32 5) = true) (hb : ruleBusy s i = false)
    (hx : 0 < xferFree s 0 i) {u : State} {ns : List Nat}
    (hal : allocate s o ((loadPages o.desc).1 + (loadPages o.desc).2.1 + (loadPages o.desc).2.2) (entByte o.desc 9) = .pages u ns) :
    exec (.adapterLoad i r q) s = .next (setOp (loadTake (u.setDesc (opTag o) (loadDesc s o)) o ns) { o with parked := true }) := by
  have htr : inTransit (s.desc (opTag o)) = false := by simp [inTransit, hst]
  have hpart' := Option.isNone_eq_false_iff.mpr hpart
  have hx' := Nat.pos_iff_ne_zero.mp hx
  change execAdapterLoad i r q s = _
  unfold execAdapterLoad
  rw [withOp_eq h]
  refine congrArg Host.Outcome.next ?_
  refine (if_neg ?_).trans ?_
  · rw [hp]; decide
  refine (if_neg ?_).trans ?_
  · rw [htr]; decide
  refine (if_neg ?_).trans ?_
  · rw [hok]; decide
  refine (if_neg ?_).trans ?_
  · rw [hpriv]; decide
  refine (if_neg ?_).trans ?_
  · rw [hst]; decide
  refine (if_neg ?_).trans ?_
  · rw [hkey, hgen]; simp
  refine (if_neg ?_).trans ?_
  · rw [hpart', hfp]; simp
  refine (if_neg ?_).trans ?_
  · rw [hlim]; decide
  rw [hacc]
  refine (if_neg ?_).trans ?_
  · rw [himg]; decide
  refine (if_neg ?_).trans ?_
  · rw [hb]; simpa using hx'
  generalize loadPages o.desc = sizes at hal ⊢
  obtain ⟨ni, ng, nst⟩ := sizes
  dsimp only at hal ⊢
  rw [hal]

/-- The end of a load whose source still passes: its bytes stand in their pages, its state is the one asked. -/
theorem loadingDone_eq {s : State} {tag : Tag} {o : Op} (ho : loadOpOf s tag.toNat = some o) (hst : (s.desc tag.toNat).st = .loading)
    (hres : reservedOf s o = []) (hacc : loadAccess s o = .ok)
    (himg : imageOk (imageOf s o) (entNum o.desc 10 2) (entNum o.desc 32 5) = true) :
    ∃ s2 : State, (∀ j, s2.desc j = s.desc j) ∧ exec (.loadingDone tag) s = .next (
      if ruleBusy (s2.updDesc tag.toNat fun x => { x with st := x.target }) o.inst then
        completeOpRule (s2.updDesc tag.toNat fun x => { x with st := x.target }) o 0 0
      else completeOp (s2.updDesc tag.toNat fun x => { x with st := x.target }) o 0 0) := by
  have hrun : ∀ (u : State) ns bs, (∀ j, u.desc j = s.desc j) → ∀ j, (writeRun u ns bs).desc j = s.desc j := fun u ns bs hu j => by
    obtain ⟨dev, poison, h⟩ := writeRun_eq u ns bs
    rw [h]
    exact hu j
  have hno : ¬ ((s.desc tag.toNat).st != .loading) = true := by rw [hst]; decide
  have hnone : ¬ (!(reservedOf s o).isEmpty) = true := by rw [hres]; decide
  have hgood : ¬ (!imageOk (imageOf s o) (entNum o.desc 10 2) (entNum o.desc 32 5)) = true := by rw [himg]; decide
  change ∃ s2 : State, _ ∧ execLoadingDone tag s = _
  unfold execLoadingDone
  extract_lets t d im
  rw [ho]
  refine ⟨?_, ?_, (if_neg hno).trans ((if_neg hnone).trans ?_)⟩
  rotate_left 2
  · rw [hacc]
    exact if_neg hgood
  · intro j
    have him := hrun s im (placeImage (imageOf s o) d.nproj im) fun _ => rfl
    generalize writeRun s im (placeImage (imageOf s o) d.nproj im) = u at him ⊢
    have hst2 := hrun u d.stPages (unxts (s.key t).key (entNum o.desc 48 6) (opRead s o.inst (entNum o.desc 48 6) (entNum o.desc 56 5))) him
    generalize writeRun u d.stPages (unxts (s.key t).key (entNum o.desc 48 6) (opRead s o.inst (entNum o.desc 48 6) (entNum o.desc 56 5))) = v
      at hst2 ⊢
    have hboth : ∀ j, (if d.stPages.isEmpty = true then u else v).desc j = s.desc j := fun j => by
      split
      · exact him j
      · exact hst2 j
    generalize (if d.stPages.isEmpty = true then u else v) = w at hboth ⊢
    exact (desc_congr rfl j).trans (hboth j)

/-- Settles O23: a LOAD leaves its tag LOADING, its end leaves it in the state asked. -/
theorem adapterLoadCompletes : Obligations.AdapterLoadCompletes := by
  refine ⟨fun s i r q o h hp => ?_, fun s tag o ho hst hres hacc himg => ?_⟩
  · intro t hst hok hpriv hkey hgen hpart hfp hlim hacc himg hb hx u ns hal
    refine ⟨_, adapterLoad_eq h hp hst hok hpriv hkey hgen hpart hfp hlim hacc himg hb hx hal, ?_⟩
    obtain ⟨⟨pages, stPages, dir, grad, state, hd⟩, hother⟩ := loadTake_desc (u.setDesc t (loadDesc s o)) o ns
    have hdesc : ∀ j, (setOp (loadTake (u.setDesc t (loadDesc s o)) o ns) { o with parked := true }).desc j =
      (loadTake (u.setDesc t (loadDesc s o)) o ns).desc j := fun _ => rfl
    rw [State.desc_setDesc] at hd
    rw [hdesc, hd]
    exact ⟨rfl, rfl, rfl, rfl, rfl, rfl, rfl, fun j hj => (hother j hj).trans (State.desc_setDesc_other _ _ hj)⟩
  · obtain ⟨s2, hs2, heq⟩ := loadingDone_eq ho hst hres hacc himg
    refine ⟨_, heq, ?_⟩
    have hdesc : ∀ j, (if ruleBusy (s2.updDesc tag.toNat fun x => { x with st := x.target }) o.inst then
          completeOpRule (s2.updDesc tag.toNat fun x => { x with st := x.target }) o 0 0
        else completeOp (s2.updDesc tag.toNat fun x => { x with st := x.target }) o 0 0).desc j =
        (s2.updDesc tag.toNat fun x => { x with st := x.target }).desc j := fun j => by
      split
      · rfl
      · exact ((completeOp_posted _ o 0 0).desc j).trans rfl
    refine ⟨?_, fun j hj => ?_⟩
    · rw [hdesc, State.desc_updDesc, hs2]
    · rw [hdesc, State.desc_updDesc_other _ _ hj, hs2]

end Sys2Proof.Proofs
end

section
/-! PROOFS. PIN, UNPIN, EVICT, FREE and SWAP of an adapter, and the BASE operations: O24, O25. -/

namespace Sys2Proof.Proofs
open Sys2Proof.Machine

/-! ### The checks of an adapter's operations -/

/-- The operation of an adapter that is not in transit, in good form, of its own instance and in a usable state runs. -/
theorem tagChecks_eq {s : State} {o : Op} {usable : Bool} {f : State} (htr : inTransit (s.desc (opTag o)) = false)
    (hform : tagOnlyOk o.desc = true) (hpriv : tagPriv s o = true)
    (huse : usable = true → (s.desc (opTag o)).st = .resident ∨ (s.desc (opTag o)).st = .trainable) : tagChecks s o usable f = f := by
  have hno : (usable && !((s.desc (opTag o)).st == .resident || (s.desc (opTag o)).st == .trainable)) = false := by
    cases usable with
    | false => rfl
    | true =>
      rcases huse rfl with h | h
      · rw [h]; rfl
      · rw [h]; rfl
  unfold tagChecks
  dsimp only
  rw [htr, hform, hpriv, hno]
  rfl

/-! ### Pending swaps that end -/

theorem refuseAd_frame (s : State) (o : Op) (n : Nat) : (refuseAd s o n).pages = s.pages ∧ (refuseAd s o n).descs = s.descs := by
  have h := completeOp_posted (finc s (Reg.adEvents (opPart s o)) 31 16 1) o 8 n
  exact ⟨h.proj State.pages fun _ _ _ _ _ => rfl, h.proj State.descs fun _ _ _ _ _ => rfl⟩

/-- Dropping a tag's pending swaps leaves pages and descriptors. -/
theorem dropSwaps_frame (s : State) (p t : Nat) : (dropSwaps s p t).pages = s.pages ∧ (dropSwaps s p t).descs = s.descs := by
  unfold dropSwaps endSwaps
  dsimp only
  exact List.foldlRecOn (motive := fun u : State => u.pages = s.pages ∧ u.descs = s.descs) _ _ ⟨rfl, rfl⟩ fun u hu x _ =>
    ⟨(refuseAd_frame u x.2 4).1.trans hu.1, (refuseAd_frame u x.2 4).2.trans hu.2⟩

theorem page_congr {s t : State} (h : t.pages = s.pages) (n : Nat) : t.page n = s.page n := by
  unfold State.page
  rw [h]

theorem finc_pages (s : State) (off hi lo n : Nat) : (finc s off hi lo n).pages = s.pages := rfl

theorem finc_descs (s : State) (off hi lo n : Nat) : (finc s off hi lo n).descs = s.descs := rfl

/-- An eviction leaves the tag EVICTING and its pages ZEROING. -/
theorem evictOne_spec (s : State) (t : Nat) :
    ((evictOne s t).desc t).st = .evicting ∧ (∀ p ∈ (s.desc t).allPages, ((evictOne s t).page p).kind = .zeroing) ∧
      ∀ p, p ∉ (s.desc t).allPages → (evictOne s t).page p = s.page p := by
  have hz := page_zeroingPages s (s.desc t).allPages
  have hpages : (evictOne s t).pages = (zeroingPages s (s.desc t).allPages).pages := by
    unfold evictOne
    rw [finc_pages, State.updDesc, State.setDesc_pages, (dropSwaps_frame _ _ _).1]
  refine ⟨?_, fun p hm => ?_, fun p hm => ?_⟩
  · unfold evictOne
    rw [desc_congr (finc_descs _ _ _ _ _), State.desc_updDesc]
  · rw [page_congr hpages]
    exact (hz p).2 hm
  · rw [page_congr hpages]
    exact (hz p).1 hm

/-- A release leaves the tag FREE and its pages ZEROING. -/
theorem releaseAdapter_spec (s : State) (t : Nat) :
    (releaseAdapter s t).desc t = {} ∧ ∀ p ∈ (s.desc t).allPages, ((releaseAdapter s t).page p).kind = .zeroing := by
  refine ⟨State.desc_setDesc _ _ _, fun p hm => ?_⟩
  have hpages : (releaseAdapter s t).pages =
      (zeroingPages { s with held := s.held.filter fun x => x.1.toNat ≠ t } (s.desc t).allPages).pages := by
    unfold releaseAdapter
    rw [State.setDesc_pages, (dropSwaps_frame _ _ _).1]
  rw [page_congr hpages]
  exact (page_zeroingPages _ _ p).2 hm

/-! ### SWAP -/

theorem swapped_bit {s : State} {p : Nat} (h : (s.part p).swaps ≠ []) : fbit (markSwaps s p) (Reg.adSwapstat p) 31 = true := by
  unfold markSwaps
  rw [fbit_fset_self _ _ _ (by decide)]
  cases hs : (s.part p).swaps with
  | nil => exact absurd hs h
  | cons => rfl

theorem writeRun_frame (s : State) (ns : List Nat) (bs : List Byte) :
    (writeRun s ns bs).descs = s.descs ∧ (writeRun s ns bs).parts = s.parts := by
  obtain ⟨dev, poison, h⟩ := writeRun_eq s ns bs
  rw [h]
  exact ⟨rfl, rfl⟩

theorem assigned_frame (s : State) (o : Op) (ns : List Nat) (kind : Kind) (i p : Nat) (tag : Tag) :
    (assignPages (dropResv s o) ns kind i p tag).descs = s.descs ∧ (assignPages (dropResv s o) ns kind i p tag).parts = s.parts := ⟨rfl, rfl⟩

theorem taken_frame (s : State) (ns : List Nat) (kind : Kind) (i p j : Nat) (tag : Tag) :
    (ruleChange (assignPages s ns kind i p tag) j).descs = s.descs ∧ (ruleChange (assignPages s ns kind i p tag) j).parts = s.parts := ⟨rfl, rfl⟩

theorem marked_frame (s : State) (o : Op) (p : Nat) :
    (markSwaps (dropOp s o) p).descs = s.descs ∧ (markSwaps (dropOp s o) p).parts = s.parts := ⟨rfl, rfl⟩

theorem dropOp_part (s : State) (o : Op) (p : Nat) : (dropOp s o).part p = s.part p := rfl

/-- A SWAP with its pages joins the pending swaps of its partition. -/
theorem swapTake_spec (s : State) (o : Op) (ns : List Nat) :
    ((swapTake s o ns).desc (opTag o)).newPages = ns ∧ ((swapTake s o ns).desc (opTag o)).dir = (s.desc (opTag o)).dir ∧
      ((swapTake s o ns).desc (opTag o)).st = (s.desc (opTag o)).st ∧
      ((swapTake s o ns).part (opPart s o)).swaps = (s.part (opPart s o)).swaps ++ [(some (BitVec.ofNat 16 (opTag o)), o)] ∧
      fbit (swapTake s o ns) (Reg.adSwapstat (opPart s o)) 31 = true := by
  unfold swapTake
  extract_lets e t d p ni im gr s1 s2 s3 s4 s5
  have hdesc2 : ∀ j, s2.desc j = s.desc j := fun j =>
    (desc_congr (taken_frame s1 gr .adgrad _ _ _ _).1 j).trans (desc_congr (assigned_frame s o im .adstate _ _ _).1 j)
  have hparts2 : s2.parts = s.parts := (taken_frame s1 gr .adgrad _ _ _ _).2.trans (assigned_frame s o im .adstate _ _ _).2
  clear_value s2
  have h3 : (∀ j, s3.desc j = s.desc j) ∧ s3.parts = s.parts :=
    ⟨fun j => (desc_congr (writeRun_frame s2 im _).1 j).trans (hdesc2 j), (writeRun_frame s2 im _).2.trans hparts2⟩
  clear_value s3
  obtain ⟨hdesc3, hparts3⟩ := h3
  have hdesc : (markSwaps (dropOp s5 o) p).desc t = s4.desc t :=
    (desc_congr (marked_frame s5 o p).1 t).trans (desc_congr (State.updPart_descs _ _ _) t)
  have hpart : (markSwaps (dropOp s5 o) p).part p = s5.part p := by
    unfold State.part
    rw [(marked_frame s5 o p).2]
  obtain ⟨nd, ng, nl, hs4⟩ : ∃ nd ng nl, s4.desc t = { s3.desc t with newDir := nd, newGrad := ng, newPages := ns, newLen := nl } :=
    ⟨_, _, _, State.desc_updDesc _ _ _⟩
  have hs4' : s4.part p = s.part p := by
    have h4 : s4.parts = s3.parts := State.setDesc_parts _ _ _
    unfold State.part
    rw [h4, hparts3]
  have hs5 : (s5.part p).swaps = (s.part p).swaps ++ [(some (BitVec.ofNat 16 t), o)] := by
    change ((s4.updPart p _).part p).swaps = _
    rw [State.part_updPart, hs4']
  rw [hdesc, hpart, hs5]
  refine ⟨?_, ?_, ?_, rfl, swapped_bit ?_⟩
  · rw [hs4]
  · rw [hs4, hdesc3]
  · rw [hs4, hdesc3]
  · rw [dropOp_part, hs5]
    simp

/-- An operation that completes at the end of its rule change leaves descriptors, pages and registers. -/
theorem ruled_frame (s : State) (i : Nat) (o : Op) :
    (completeOpRule (ruleChange s i) o 0 0).descs = s.descs ∧ (completeOpRule (ruleChange s i) o 0 0).pages = s.pages ∧
      (completeOpRule (ruleChange s i) o 0 0).regs = (ruleChange s i).regs := ⟨rfl, rfl, rfl⟩

theorem fbit_congr {s t : State} (h : t.regs = s.regs) (off b : Nat) : fbit t off b = fbit s off b := by
  unfold fbit rd
  rw [h]

/-- Settles O24: each operation of an adapter, and what it leaves in the descriptor and its pages. -/
theorem adapterOperationsComplete : Obligations.AdapterOperationsComplete := by
  intro s i r q o n h t d hpriv htr
  refine ⟨fun hform hst => ⟨fun hn hcap => ?_, fun hn => ?_, fun hn hev hb => ?_⟩, fun hform hn hst hkey hb => ?_,
    fun hn hp hok hst hkey hgen hfp hacc himg hprev hnew hpark hb ns hal => ?_⟩
  · subst hn
    have hno : (!d.pin && (partDies s (opPart s o)).any fun die => decide (fget s Reg.adHotcap 6 0 * 1048576 < hotUsed s die + hotBytes d)) =
        false := by
      rw [Bool.and_eq_false_iff]
      refine .inr (List.any_eq_false.mpr fun die hdie => ?_)
      simpa using hcap die hdie
    change execAdapterPin i r q s = _
    unfold execAdapterPin
    rw [withOp_eq h]
    refine congrArg Host.Outcome.next ?_
    refine (tagChecks_eq htr hform hpriv fun _ => hst).trans ?_
    exact if_neg (by rw [hno]; decide)
  · subst hn
    change execAdapterUnpin i r q s = _
    unfold execAdapterUnpin
    rw [withOp_eq h, tagChecks_eq htr hform hpriv fun _ => hst]
  · subst hn
    have heq : exec (.adapterEvict i r q) s = .next (completeOpRule (ruleChange (evictOne s t) i) o 0 0) := by
      change execAdapterEvict i r q s = _
      unfold execAdapterEvict
      rw [withOp_eq h, tagChecks_eq htr hform hpriv fun _ => hst, if_neg (by rw [hev]; decide), if_neg (by rw [hb]; decide)]
    obtain ⟨h1, h2, h3⟩ := evictOne_spec s t
    generalize evictOne s t = u at heq h1 h2 h3
    obtain ⟨hd, hp, hr⟩ := ruled_frame u i o
    refine ⟨_, heq, by rw [desc_congr hd]; exact h1, fun p hm => by rw [page_congr hp]; exact h2 p hm, fun p hm => by
      rw [page_congr hp]; exact h3 p hm, ?_⟩
    exact (fbit_congr hr _ _).trans (ruleBusy_ruleChange u i)
  · subst hn
    have hfree : ¬ ((s.desc t).st == .free) = true := by simpa using hst
    have hact : ¬ ((s.key t).st == .active && (s.key t).keygen == (s.desc t).keygen) = true := by
      rcases hkey with h | h
      · rw [h]; simp
      · rw [h]; simp
    have hret : ¬ ((s.key t).st == .retiring && (s.key t).keygen == (s.desc t).keygen) = true := by
      rcases hkey with h | h
      · rw [h]; simp
      · rw [h]; simp
    have heq : exec (.adapterFree i r q) s = .next (completeOpRule (ruleChange (releaseAdapter s t) i) o 0 0) := by
      change execAdapterFree i r q s = _
      unfold execAdapterFree
      rw [withOp_eq h]
      refine congrArg Host.Outcome.next ?_
      refine (tagChecks_eq htr hform hpriv fun h => absurd h (by decide)).trans ?_
      refine (if_neg hfree).trans ((if_neg hact).trans ((if_neg hret).trans ?_))
      exact if_neg (by rw [hb]; decide)
    obtain ⟨h1, h2⟩ := releaseAdapter_spec s t
    generalize releaseAdapter s t = u at heq h1 h2
    obtain ⟨hd, hp, hr⟩ := ruled_frame u i o
    refine ⟨_, heq, by rw [desc_congr hd]; exact h1, fun p hm => by rw [page_congr hp]; exact h2 p hm, ?_⟩
    exact (fbit_congr hr _ _).trans (ruleBusy_ruleChange u i)
  · subst hn
    have huse : ((s.desc t).st == .resident || (s.desc t).st == .trainable) = true := by
      rcases hst with h | h
      · rw [show (s.desc t).st = _ from h]; rfl
      · rw [show (s.desc t).st = _ from h]; rfl
    have hwait : ¬ (decide (d.prevDir ≠ 0) || decide (d.newDir ≠ 0) || swapParked s o || ruleBusy s i) = true := by simp [hprev, hnew, hpark, hb]
    have heq : exec (.adapterSwap i r q) s = .next (swapTake s o ns) := by
      change execAdapterSwap i r q s = _
      unfold execAdapterSwap
      rw [withOp_eq h]
      refine congrArg Host.Outcome.next ?_
      refine (if_neg (by rw [hp]; decide)).trans ((if_neg ?_).trans ((if_neg ?_).trans ((if_neg ?_).trans ((if_neg ?_).trans ((if_neg ?_).trans
        ((if_neg ?_).trans ?_))))))
      · rw [show inTransit (s.desc (opTag o)) = false from htr]; decide
      · rw [hok]; decide
      · rw [hpriv]; decide
      · rw [huse]; decide
      · rw [hkey]; simpa using hgen
      · simpa using hfp
      · rw [hacc]
        refine (if_neg (by rw [himg]; decide)).trans ((if_neg hwait).trans ?_)
        rw [hal]
    have hs := swapTake_spec s o ns
    generalize swapTake s o ns = u at heq hs
    exact ⟨_, heq, hs⟩

/-! ### BASE operations -/

theorem setFrozen_eq {s : State} {o : Op} {v : Bool} (hform : basePartOk o.desc = true) (hm : o.mgr = true) :
    setFrozen s o v = completeOp (s.updPart (basePart o) fun x => { x with frozen := v }) o 0 0 := by
  unfold setFrozen
  rw [hform, hm]
  rfl

theorem postFixed_adBasefp (p : Nat) : postFixed (Reg.adBasefp p) := by
  intro j
  unfold Reg.adBasefp Reg.mtEvents Reg.isViol Reg.qmDirtyctl
  omega

theorem part_congr {s t : State} (h : t.parts = s.parts) (p : Nat) : t.part p = s.part p := by
  unfold State.part
  rw [h]

/-- A base key drawn for a partition leaves its copies and its freeze. -/
theorem partKey_spec (s : State) (p : Nat) :
    ((partKey s p).part p).key.isSome = true ∧ ((partKey s p).part p).cur = (s.part p).cur ∧ ((partKey s p).part p).frozen = (s.part p).frozen := by
  unfold partKey
  split
  · rename_i h
    exact ⟨h, rfl, rfl⟩
  · dsimp only
    rw [State.part_updPart]
    exact ⟨rfl, rfl, rfl⟩

/-- A fold of steps that each keep a projection keeps it. -/
theorem foldl_proj {α β : Type} (π : State → β) {f : State → α → State} (hf : ∀ u x, π (f u x) = π u) (l : List α) (s : State) :
    π (l.foldl f s) = π s :=
  List.foldlRecOn (motive := fun u => π u = π s) l f rfl fun u hu x _ => (hf u x).trans hu

theorem ruleChangePart_parts (s : State) (p : Nat) : (ruleChangePart s p).parts = s.parts := by
  unfold ruleChangePart
  exact foldl_proj State.parts (f := ruleChange) (fun _ _ => rfl) _ _

/-- A base operation completes to an instance of its partition, or at once. -/
theorem completeBaseOp_spec (s : State) (o : Op) (p value : Nat) :
    (completeBaseOp s o p value).parts = s.parts ∧ ∀ off, postFixed off → rd (completeBaseOp s o p value) off = rd s off := by
  unfold completeBaseOp
  dsimp only
  split
  · exact ⟨rfl, fun _ _ => rfl⟩
  · have h := completeOp_posted s o 0 value
    exact ⟨h.proj State.parts fun _ _ _ _ _ => rfl, fun off ho => h.rd ho⟩

/-- The copy that reaches a partition without a base is its current one. -/
theorem baseArrives_first {s : State} {p : Nat} {c : BaseCopy} (h : (s.part p).cur = none) :
    (baseArrives s p c).part p = { s.part p with cur := some c, coming := none } ∧ rd (baseArrives s p c) (Reg.adBasefp p) = c.fp.toNat := by
  unfold baseArrives
  rw [if_pos (by rw [h]; rfl)]
  refine ⟨(part_congr (State.setReg_parts _ _ _) p).trans (State.part_updPart _ _ _), ?_⟩
  rw [rd_setReg_self, Nat.mod_eq_of_lt c.fp.isLt]

theorem assignPages_parts (s : State) (ns : List Nat) (kind : Kind) (i p : Nat) (tag : Tag) :
    (assignPages s ns kind i p tag).parts = s.parts := rfl

/-- The state in which a LOAD of the base has its pages and its key keeps the partition's copy and its freeze. -/
theorem baseTaken_spec (s : State) (p : Nat) (ns : List Nat) (bs : List Byte) :
    let u := writeRun (ruleChangePart (partKey (assignPages s ns .base 0 p 0#16) p) p) ns bs
    (u.part p).key.isSome = true ∧ (u.part p).cur = (s.part p).cur ∧ (u.part p).frozen = (s.part p).frozen := by
  intro u
  have hu : u.part p = (partKey (assignPages s ns .base 0 p 0#16) p).part p :=
    part_congr ((writeRun_frame _ ns bs).2.trans (ruleChangePart_parts _ p)) p
  have ha : (assignPages s ns .base 0 p 0#16).part p = s.part p := part_congr (assignPages_parts s ns .base 0 p 0#16) p
  obtain ⟨hkey, hcur, hfrozen⟩ := partKey_spec (assignPages s ns .base 0 p 0#16) p
  rw [hu, hcur, hfrozen, ha]
  exact ⟨hkey, rfl, rfl⟩

/-- The state in which a LOAD of the base has its pages `ns`, its key and its bytes. -/
def baseLoaded (s : State) (i : Inst) (o : Op) (ns : List Nat) : State :=
  let taken := ruleChangePart (partKey (assignPages s ns .base 0 (basePart o) 0#16) (basePart o)) (basePart o)
  writeRun taken ns (opRead taken i (entNum o.desc 16 6) (entNum o.desc 24 5))

/-- A LOAD of the base that passes its checks arrives at once. -/
theorem baseLoad_eq {s : State} {i : Inst} {r : RingId} {q : W32} {o : Op} (h : entrySub s i r q o 0x11 0) (hm : o.mgr = true)
    (hp : o.parked = false) (hok : baseLoadOk o.desc = true) (hst : entNum o.desc 6 2 = 0) (hbuilt : (s.part (basePart o)).built = none)
    (hcom : (s.part (basePart o)).coming = none) (hacc : opAccess s i false (entNum o.desc 16 6) (entNum o.desc 24 5) = .ok)
    (hb : ruleBusyPart s (basePart o) = false)
    (hq : basePages s (basePart o) + pagesFor (entNum o.desc 24 5) ≤ fget s (Reg.mtPquota (basePart o)) 18 0)
    (hfr : pagesFor (entNum o.desc 24 5) ≤ freePages s (entByte o.desc 5)) :
    ∃ (u : State) (c : BaseCopy), exec (.baseLoad i r q) s = .next (completeBaseOp (baseArrives u (basePart o) c) o (basePart o) 0) ∧
      c.fp = BitVec.ofNat 64 (entNum o.desc 8 8) ∧ (u.part (basePart o)).key.isSome = true ∧
      (u.part (basePart o)).cur = (s.part (basePart o)).cur ∧ (u.part (basePart o)).frozen = (s.part (basePart o)).frozen := by
  have hfull : ¬ (fget s (Reg.mtPquota (basePart o)) 18 0 < basePages s (basePart o) + pagesFor (entNum o.desc 24 5) ∨
      freePages s (entByte o.desc 5) < pagesFor (entNum o.desc 24 5)) := by omega
  have hfree : ¬ ((s.part (basePart o)).built.isSome || (s.part (basePart o)).coming.isSome) = true := by rw [hbuilt, hcom]; decide
  have hstream : ∀ x : Stream, ¬ (decide (entNum o.desc 6 2 ≠ 0) && !(x.op == 1 && !x.cls && x.group.val == basePart o &&
      (x.st == .open_ || x.st == .active || x.st == .done))) = true := fun x => by simp [hst]
  change ∃ (u : State) (c : BaseCopy), execBaseLoad i r q s = _ ∧ _
  unfold execBaseLoad
  rw [withOp_eq h]
  have hspec := baseTaken_spec s (basePart o) (takeFree s (entByte o.desc 5) (pagesFor (entNum o.desc 24 5)))
  generalize hn : pagesFor (entNum o.desc 24 5) = n at hfull hspec
  refine ⟨baseLoaded s i o (takeFree s (entByte o.desc 5) n),
    { fp := BitVec.ofNat 64 (entNum o.desc 8 8), pages := takeFree s (entByte o.desc 5) n, len := entNum o.desc 24 5 },
    congrArg Host.Outcome.next ?_, rfl, hspec _⟩
  refine (if_neg ?_).trans ((if_neg ?_).trans ((if_neg ?_).trans ((if_neg hfree).trans ((if_neg (hstream _)).trans ?_))))
  · rw [hp]; decide
  · rw [hok]; decide
  · rw [hm]; decide
  · rw [if_pos hst, hacc]
    refine (if_neg ?_).trans ((if_neg ?_).trans ?_)
    · rw [hb]; decide
    · rw [hn]; exact hfull
    · subst hn
      exact if_pos hst

/-- Settles O25: what each BASE operation leaves in its partition. -/
theorem baseOperationsComplete : Obligations.BaseOperationsComplete := by
  intro s i r q o n h hm p
  refine ⟨fun hn hp hok hst hbuilt hcom hcur hacc hb hq hfr => ?_, fun hform => ⟨fun hn hbuilt hsw hprev => ?_, fun hn => ?_, fun hn => ?_⟩⟩
  · subst hn
    obtain ⟨u, c, heq, hfp, hkey, hc, hfz⟩ := baseLoad_eq h hm hp hok hst hbuilt hcom hacc hb hq hfr
    obtain ⟨hpart, hreg⟩ := baseArrives_first (c := c) (hc.trans hcur)
    obtain ⟨hparts, hrd⟩ := completeBaseOp_spec (baseArrives u (basePart o) c) o (basePart o) 0
    have hw := (part_congr hparts (basePart o)).trans hpart
    have hnum : entNum o.desc 8 8 < 2 ^ 64 := Nat.mod_lt _ (by decide)
    refine ⟨_, heq, ?_, ?_, ?_, ?_⟩
    · unfold baseFp
      rw [hw]
      simpa using hfp
    · rw [hw]
      exact hkey
    · rw [hw]
      exact hfz
    · rw [hrd _ (postFixed_adBasefp _), hreg, hfp, BitVec.toNat_ofNat, Nat.mod_eq_of_lt hnum]
  · subst hn
    have hnone : ((s.part p).swaps.any fun (x : TagRec × Op) => x.1.isNone) = false := by
      rw [List.any_eq_false]
      intro x hx
      simpa using Option.isSome_iff_ne_none.mp (hsw x hx)
    have heq : exec (.baseSwap i r q) s = .next (markSwaps (dropOp (s.updPart p fun x => { x with swaps := x.swaps ++ [(none, o)] }) o) p) := by
      change execBaseSwap i r q s = _
      unfold execBaseSwap
      rw [withOp_eq h]
      refine congrArg Host.Outcome.next ?_
      refine (if_neg (by rw [hform]; decide)).trans ((if_neg (by rw [hm]; decide)).trans ((if_neg ?_).trans ((if_neg ?_).trans rfl)))
      · rw [hnone, Bool.or_false, Option.isNone_eq_false_iff.mpr hbuilt]; decide
      · rw [hprev]; decide
    have hsw' := State.part_updPart s p fun x => { x with swaps := x.swaps ++ [(none, o)] }
    obtain ⟨-, hparts⟩ := marked_frame (s.updPart p fun x => { x with swaps := x.swaps ++ [(none, o)] }) o p
    refine ⟨_, heq, ?_, ?_, swapped_bit ?_, ?_⟩
    · rw [part_congr hparts, hsw']
    · rw [part_congr hparts, hsw']
    · rw [dropOp_part, hsw']
      simp
    · exact opsAt_drop h rfl
  · subst hn
    change execBaseFreeze i r q s = _
    unfold execBaseFreeze
    rw [withOp_eq h, setFrozen_eq hform hm]
  · subst hn
    change execBaseUnfreeze i r q s = _
    unfold execBaseUnfreeze
    rw [withOp_eq h, setFrozen_eq hform hm]

end Sys2Proof.Proofs
end

section
/-! PROOFS. What the fabric and the exchange of a stream leave alone. -/

namespace Sys2Proof.Proofs
open Sys2Proof.Machine

/-! ### The fabric -/

/-- From `s` to `t` only the fabric sends: its history, its retained tiles, its packet numbers, free words and the output. -/
def Carried (s t : State) : Prop :=
  ∃ sent history plinth draws out, t = { s with sent := sent, history := history, plinth := plinth, draws := draws, out := out }

section
variable {s t u : State}

theorem Carried.refl : Carried s s := ⟨_, _, _, _, _, rfl⟩

theorem Carried.trans (h : Carried s t) (g : Carried t u) : Carried s u := by
  obtain ⟨_, _, _, _, _, rfl⟩ := h
  obtain ⟨_, _, _, _, _, rfl⟩ := g
  exact ⟨_, _, _, _, _, rfl⟩

/-- What ignores what the fabric changes is as it was. -/
theorem Carried.proj (h : Carried s t) {α : Type} (π : State → α)
    (hπ : ∀ (u : State) sent history plinth draws out,
      π { u with sent := sent, history := history, plinth := plinth, draws := draws, out := out } = π u) : π t = π s := by
  obtain ⟨_, _, _, _, _, rfl⟩ := h
  exact hπ _ _ _ _ _ _

theorem Carried.foldl {α : Type} {f : State → α → State} {l : List α} (h : Carried s t) (hf : ∀ u x, Carried s u → Carried s (f u x)) :
    Carried s (l.foldl f t) :=
  List.foldlRecOn (motive := Carried s) l f h fun u hu x _ => hf u x hu

theorem Carried.emit (h : Carried s t) (o : Out) : Carried s (t.emit o) := h.trans ⟨_, _, _, _, _, rfl⟩

theorem Carried.setSent (h : Carried s t) (x : Sent) : Carried s (setSent t x) := h.trans ⟨_, _, _, _, _, rfl⟩

theorem Carried.sendOn (h : Carried s t) (p dst route : Nat) (pkt : List Byte) : Carried s (sendOn t p dst route pkt) := by
  unfold Machine.sendOn
  dsimp only
  split
  · exact h.trans ⟨_, _, _, _, _, rfl⟩
  · split
    · exact h.trans ⟨_, _, _, _, _, rfl⟩
    · exact h.trans ⟨_, _, _, _, _, rfl⟩

theorem Carried.sendPkt (h : Carried s t) (x : FHdr) (payload sl : List Byte) : Carried s (sendPkt t x payload sl) := by
  unfold Machine.sendPkt
  dsimp only
  split
  · exact h.sendOn _ _ _ _
  · exact h

theorem Carried.sendShard (h : Carried s t) (x : Sent) (sh route : Nat) (resent : Bool) : Carried s (sendShard t x sh route resent) :=
  h.sendPkt _ _ _

theorem Carried.netTile (h : Carried s t) (x : Sent) : Carried s (netTile t x) := by
  unfold Machine.netTile
  split
  · exact h.emit _
  · exact h.trans ⟨_, _, _, _, _, rfl⟩

theorem Carried.transmit (h : Carried s t) (x : Sent) : Carried s (transmit t x) := by
  unfold Machine.transmit
  dsimp only
  split
  · split
    · exact h.setSent _
    · exact (h.setSent _).foldl fun u n hu => hu.sendShard _ _ _ _
  · exact (h.setSent _).netTile _

theorem Carried.stream (h : Carried s t) (n : Nat) : t.stream n = s.stream n := h.proj (State.stream · n) fun _ _ _ _ _ _ => rfl

end

/-! ### A stream -/

/-- What an exchange leaves of a stream: all that is posted for it and heard of it; an overflow flag stays set. -/
structure StreamKept (x y : Stream) : Prop where
  st : y.st = x.st
  op : y.op = x.op
  seals : y.seals = x.seals
  epoch : y.epoch = x.epoch
  opener : y.opener = x.opener
  contrib : y.contrib = x.contrib
  kids : y.kids = x.kids
  heard : y.heard = x.heard
  ovf : x.ovf = true → y.ovf = true
  vals : x.reduces = false → y.vals = x.vals

theorem StreamKept.refl (x : Stream) : StreamKept x x := ⟨rfl, rfl, rfl, rfl, rfl, rfl, rfl, rfl, id, fun _ => rfl⟩

theorem StreamKept.trans {x y z : Stream} (h : StreamKept x y) (g : StreamKept y z) : StreamKept x z where
  st := g.st.trans h.st
  op := g.op.trans h.op
  seals := g.seals.trans h.seals
  epoch := g.epoch.trans h.epoch
  opener := g.opener.trans h.opener
  contrib := g.contrib.trans h.contrib
  kids := g.kids.trans h.kids
  heard := g.heard.trans h.heard
  ovf := fun ho => g.ovf (h.ovf ho)
  vals := fun hr => (g.vals (by unfold Stream.reduces; rw [h.op]; exact hr)).trans (h.vals hr)

/-- Forming nodes changes a stream's nodes alone. -/
def Formed (x y : Stream) : Prop := ∃ nodes, y = { x with nodes := nodes }

theorem Formed.trans {x y z : Stream} (h : Formed x y) (g : Formed y z) : Formed x z := by
  obtain ⟨_, rfl⟩ := h
  obtain ⟨_, rfl⟩ := g
  exact ⟨_, rfl⟩

theorem formSlot_formed (x : Stream) (r q t : Nat) : Formed x (x.formSlot r q t).1 := by
  unfold Stream.formSlot
  dsimp only
  split
  · exact ⟨_, rfl⟩
  · refine List.foldlRecOn (motive := fun (y : Stream × Nat) => Formed x y.1) _ _ ⟨_, rfl⟩ fun y hy i _ => hy.trans ⟨_, rfl⟩

theorem formNode_formed (x : Stream) (n : Nat) (mine : List Nat) (l j e : Nat) : Formed x (x.formNode n mine l j e).1 := by
  unfold Stream.formNode
  split
  · exact ⟨_, rfl⟩
  · split
    · exact ⟨_, rfl⟩
    · exact ⟨_, rfl⟩

theorem form_kept (x : Stream) (n : Nat) (mine : List Nat) : StreamKept x (x.form n mine).1 := by
  unfold Stream.form
  split
  · exact .refl x
  · rename_i hred
    dsimp only
    generalize hy0 : List.foldl (fun (y : Stream × Nat) (k : Nat × Nat × Nat) =>
      ((y.1.formSlot k.1 k.2.1 k.2.2).1, y.2 + (y.1.formSlot k.1 k.2.1 k.2.2).2)) (x, 0) _ = y0
    have h0 : Formed x y0.1 := by
      rw [← hy0]
      exact List.foldlRecOn (motive := fun (y : Stream × Nat) => Formed x y.1) _ _ ⟨_, rfl⟩
        fun y hy k _ => hy.trans (formSlot_formed _ _ _ _)
    generalize hy1 : List.foldl _ y0 (List.range (log8 n)) = y1
    have h1 : Formed x y1.1 := by
      rw [← hy1]
      refine List.foldlRecOn (motive := fun (y : Stream × Nat) => Formed x y.1) _ _ h0 fun y hy l _ => ?_
      refine List.foldlRecOn (motive := fun (y : Stream × Nat) => Formed x y.1) _ _ hy fun z hz k _ => ?_
      split
      · exact hz.trans (formNode_formed _ _ _ _ _ _)
      · exact hz
    obtain ⟨nodes, h1⟩ := h1
    rw [h1]
    exact ⟨rfl, rfl, rfl, rfl, rfl, rfl, rfl, rfl, id, fun hr => absurd (by simp [hr]) hred⟩

/-! ### The exchange of a stream -/

/-- From `s` to `t` the exchange of stream `h` goes on: registers, device memory, the training contexts, the engines' times, the fabric and
that stream alone change, which keeps what it has. -/
structure Exchanged (h : Nat) (s t : State) : Prop where
  frame : ∃ regs dev ls vtClass vtPart streams sent history plinth draws out, t = { s with
    regs := regs, dev := dev, ls := ls, vtClass := vtClass, vtPart := vtPart, streams := streams, sent := sent, history := history,
    plinth := plinth, draws := draws, out := out }
  kept : StreamKept (s.stream h) (t.stream h)

section
variable {h : Nat} {s t u : State}

theorem Exchanged.refl : Exchanged h s s := ⟨⟨_, _, _, _, _, _, _, _, _, _, _, rfl⟩, .refl _⟩

theorem Exchanged.trans (p : Exchanged h s t) (q : Exchanged h t u) : Exchanged h s u := by
  obtain ⟨⟨_, _, _, _, _, _, _, _, _, _, _, rfl⟩, hp⟩ := p
  obtain ⟨⟨_, _, _, _, _, _, _, _, _, _, _, rfl⟩, hq⟩ := q
  exact ⟨⟨_, _, _, _, _, _, _, _, _, _, _, rfl⟩, hp.trans hq⟩

/-- What ignores what an exchange changes is as it was. -/
theorem Exchanged.proj (p : Exchanged h s t) {α : Type} (π : State → α)
    (hπ : ∀ (u : State) regs dev ls vtClass vtPart streams sent history plinth draws out, π { u with
      regs := regs, dev := dev, ls := ls, vtClass := vtClass, vtPart := vtPart, streams := streams, sent := sent, history := history,
      plinth := plinth, draws := draws, out := out } = π u) : π t = π s := by
  obtain ⟨⟨_, _, _, _, _, _, _, _, _, _, _, rfl⟩, -⟩ := p
  exact hπ _ _ _ _ _ _ _ _ _ _ _ _

theorem Exchanged.foldl {α : Type} {f : State → α → State} {l : List α} (p : Exchanged h s t)
    (hf : ∀ u x, Exchanged h s u → Exchanged h s (f u x)) : Exchanged h s (l.foldl f t) :=
  List.foldlRecOn (motive := Exchanged h s) l f p fun u hu x _ => hf u x hu

/-- A change beside the streams. -/
theorem Exchanged.beside (p : Exchanged h s t)
    (hf : ∃ regs dev ls vtClass vtPart sent history plinth draws out, u = { t with
      regs := regs, dev := dev, ls := ls, vtClass := vtClass, vtPart := vtPart, sent := sent, history := history, plinth := plinth,
      draws := draws, out := out }) : Exchanged h s u := by
  obtain ⟨_, _, _, _, _, _, _, _, _, _, rfl⟩ := hf
  exact p.trans ⟨⟨_, _, _, _, _, _, _, _, _, _, _, rfl⟩, .refl _⟩

theorem Exchanged.carried (p : Exchanged h s t) (q : Carried t u) : Exchanged h s u := by
  obtain ⟨_, _, _, _, _, rfl⟩ := q
  exact p.beside ⟨_, _, _, _, _, _, _, _, _, _, rfl⟩

theorem State.stream_setStream (s : State) (h : Nat) (x : Stream) : (s.setStream h x).stream h = x := Tab.get_put_self _ _ _ _

theorem Exchanged.setStream (p : Exchanged h s t) {x : Stream} (hx : StreamKept (t.stream h) x) : Exchanged h s (t.setStream h x) :=
  p.trans ⟨⟨_, _, _, _, _, _, _, _, _, _, _, rfl⟩, by rw [State.stream_setStream]; exact hx⟩

theorem Exchanged.fset (p : Exchanged h s t) (off hi lo v : Nat) : Exchanged h s (fset t off hi lo v) :=
  p.beside ⟨_, _, _, _, _, _, _, _, _, _, rfl⟩

theorem Exchanged.updStep (p : Exchanged h s t) (q : Nat) (n : W32) (f : StepRec → StepRec) : Exchanged h s (updStep t q n f) :=
  p.beside ⟨_, _, _, _, _, _, _, _, _, _, rfl⟩

theorem Exchanged.sampleFlag (p : Exchanged h s t) : Exchanged h s (sampleFlag t h) := by
  have hset : ∀ b, Exchanged h s (t.setStream h { t.stream h with headerOut := true, ovf := (t.stream h).ovf || b }) := fun b =>
    p.setStream ⟨rfl, rfl, rfl, rfl, rfl, rfl, rfl, rfl, fun ho => by simp [ho], fun _ => rfl⟩
  unfold Machine.sampleFlag
  dsimp only
  split
  · exact p
  · split
    · exact hset _
    · rw [Bool.or_assoc]
      split
      · exact ((hset _).fset _ _ _ _).updStep _ _ _
      · exact hset _

theorem Exchanged.raiseV (p : Exchanged h s t) (eng q c : Nat) (hs : List (Nat × Nat)) : Exchanged h s (raiseV t eng q c hs) := by
  obtain ⟨vc, vp, hv⟩ := raiseV_eq t eng q c hs
  rw [hv]
  exact p.beside ⟨_, _, _, _, _, _, _, _, _, _, rfl⟩

theorem Exchanged.charge (p : Exchanged h s t) (eng q cls n : Nat) : Exchanged h s (charge t eng q cls n) := by
  unfold Machine.charge
  dsimp only
  split
  · exact p.beside ⟨_, _, _, _, _, _, _, _, _, _, rfl⟩
  · exact p.beside ⟨_, _, _, _, _, _, _, _, _, _, rfl⟩

theorem Exchanged.engineSend (p : Exchanged h s t) (x : Sent) : Exchanged h s (engineSend t x) := by
  have hdraw : Exchanged h s t.drawWord.2 := p.beside ⟨_, _, _, _, _, _, _, _, _, _, rfl⟩
  exact (hdraw.charge _ _ _ _).carried (Carried.refl.transmit _)

theorem Exchanged.sendEngine (p : Exchanged h s t) (k dst rtag tfmt ord : Nat) (data : List Byte) :
    Exchanged h s (sendEngine t k dst rtag tfmt ord data) := by
  have hdraw : Exchanged h s (drawSeq t (k / 1024)).2 := p.beside ⟨_, _, _, _, _, _, _, _, _, _, rfl⟩
  have hsent : ∀ {u : State} l, Exchanged h s u → Exchanged h s { u with sent := l } := fun l hu =>
    hu.beside ⟨_, _, _, _, _, _, _, _, _, _, rfl⟩
  unfold Machine.sendEngine
  extract_lets x n
  exact iteInduction (motive := Exchanged h s) (fun _ => (hsent _ hdraw).engineSend _) fun _ => hsent _ (hdraw.raiseV _ _ _ _)

theorem streamKept_sentTo (x : Stream) (l : List ((Nat × Nat × Nat × Nat) × Nat)) : StreamKept x { x with sentTo := l } :=
  ⟨rfl, rfl, rfl, rfl, rfl, rfl, rfl, rfl, id, fun _ => rfl⟩

theorem Exchanged.sendHeader (p : Exchanged h s t) (f : Xfer) : Exchanged h s (sendHeader t h f) :=
  (p.sampleFlag.setStream (streamKept_sentTo _ _)).sendEngine _ _ _ _ _ _

theorem Exchanged.sendPart (p : Exchanged h s t) (f : Xfer) (n : Nat) (vs : List W32) : Exchanged h s (sendPart t h f n vs) := by
  have hhead : Exchanged h s (if (t.stream h).wasSent f 0 then t else Machine.sendHeader t h f) := by
    split
    · exact p
    · exact p.sendHeader f
  exact (hhead.setStream (streamKept_sentTo _ _)).sendEngine _ _ _ _ _ _

theorem Exchanged.sendXfer (p : Exchanged h s t) (n : Nat) (mine : List Nat) (out : List Xfer) (f : Xfer) :
    Exchanged h s (sendXfer t h n mine out f) := by
  unfold Machine.sendXfer
  dsimp only
  split
  · exact p
  split
  · split
    · exact p
    · exact p.sendHeader f
  · refine Exchanged.fset ?_ _ _ _ _
    refine p.foldl fun u es hu => ?_
    split
    · exact hu
    · split
      · exact hu.sendPart _ _ _
      · exact hu

theorem Exchanged.engineOvf (p : Exchanged h s t) (x : Stream) (n : Nat) : Exchanged h s (engineOvf t x n) := by
  have htable : Exchanged h s (ovfTable t x.group x.layer n true) := by
    unfold ovfTable
    split
    · exact p
    · exact p.beside ⟨_, _, _, _, _, _, _, _, _, _, rfl⟩
  unfold Machine.engineOvf
  split
  · exact p
  · unfold flagOverflow
    dsimp only
    split
    · exact htable.fset _ _ _ _
    · exact htable.fset _ _ _ _

/-- A stream whose key serves sends what it can and keeps what it has. -/
theorem Exchanged.advance (p : Exchanged h s t) (hkey : (t.stream h).seals = false ∨ streamKeyOk t (t.stream h) = true) :
    Exchanged h s (advance t h) := by
  unfold Machine.advance
  dsimp only
  split
  · exact p
  · have hform := form_kept (t.stream h) ((t.stream h).slots t).1 ((t.stream h).slots t).2
    rw [hform.seals, if_neg]
    · exact ((p.setStream hform).engineOvf _ _).foldl fun u f hu => hu.sendXfer _ _ _ _
    · rcases hkey with hk | hk
      · simp [hk]
      · simp [hk]

end

end Sys2Proof.Proofs
end

section
/-! PROOFS. Peer contexts and the opening and closing of streams: O26. -/

namespace Sys2Proof.Proofs
open Sys2Proof.Machine

theorem peerOpen_eq {s : State} {i : Inst} {r : RingId} {q : W32} {o : Op} (h : entrySub s i r q o 0x30 0) (hhead : headOk o.desc = true)
    (hmod : entNum o.desc 8 4 < 2 ^ 19) (hgrp : entByte o.desc 12 < 32) (hzero : zeroAt o.desc [(13, 51)] = true)
    (hmgr : bit (entByte o.desc 12) 4 = false → o.mgr = true) (hst : (s.peer (entNum o.desc 4 2)).st = 0) :
    exec (.peerOpen i r q) s = .next (completeOp (askAgain (s.setPeer (entNum o.desc 4 2) {
      remmod := BitVec.ofNat 19 (entNum o.desc 8 4), st := if fbit s (Reg.fbGroup (entByte o.desc 12 % 16)) 31 then 2 else 1, inst := i,
      group := fin 15 (entByte o.desc 12 % 16), cls := bit (entByte o.desc 12) 4, remctx := BitVec.ofNat 16 (entNum o.desc 6 2),
      epoch := BitVec.ofNat 32 (grpEpoch s (entByte o.desc 12 % 16)) }) (· == entNum o.desc 4 2)) o 0 0) := by
  change execPeerOpen i r q s = _
  unfold execPeerOpen
  rw [withOp_eq h]
  refine congrArg Host.Outcome.next ((if_neg ?_).trans ((if_neg ?_).trans ((if_neg ?_).trans rfl)))
  · rw [hhead, hzero, decide_eq_false (Nat.not_le.mpr hmod), decide_eq_false (Nat.not_le.mpr hgrp)]
    decide
  · cases hc : bit (entByte o.desc 12) 4 with
    | true => simp
    | false => simp [hmgr hc]
  · simp [hst]

theorem peerClose_eq {s : State} {i : Inst} {r : RingId} {q : W32} {o : Op} (h : entrySub s i r q o 0x30 1) (hhead : headOk o.desc = true)
    (hzero : zeroAt o.desc [(6, 58)] = true) (hst : (s.peer (entNum o.desc 4 2)).st ≠ 0) (hinst : (s.peer (entNum o.desc 4 2)).inst = i)
    (hmgr : (s.peer (entNum o.desc 4 2)).cls = true ∨ o.mgr = true) (hack : ctxUnacked s (entNum o.desc 4 2) = false) :
    exec (.peerClose i r q) s =
      .next (completeOp ((dropAsmOf s (· == entNum o.desc 4 2)).setPeer (entNum o.desc 4 2) {}) o 0 0) := by
  change execPeerClose i r q s = _
  unfold execPeerClose
  rw [withOp_eq h]
  refine congrArg Host.Outcome.next ((if_neg ?_).trans ((if_neg hst).trans ((if_neg ?_).trans (if_neg ?_))))
  · simp [hhead, hzero]
  · rcases hmgr with hm | hm <;> simp [hinst, hm]
  · simp [hack]

theorem streamClose_eq {s : State} {i : Inst} {r : RingId} {q : W32} {o : Op} (h : entrySub s i r q o 0x31 1) (hhead : headOk o.desc = true)
    (hh : entNum o.desc 4 2 < 4096) (hzero : zeroAt o.desc [(6, 58)] = true)
    (hst : (s.stream (entNum o.desc 4 2)).st = .done ∨ (s.stream (entNum o.desc 4 2)).st = .aborted)
    (hop : (s.stream (entNum o.desc 4 2)).cls = false → o.mgr = true)
    (hten : (s.stream (entNum o.desc 4 2)).cls = true → (s.stream (entNum o.desc 4 2)).inst = i) :
    exec (.streamClose i r q) s = .next (completeOp (s.setStream (entNum o.desc 4 2) {}) o 0 0) := by
  change execStreamClose i r q s = _
  unfold execStreamClose
  rw [withOp_eq h]
  refine congrArg Host.Outcome.next ((if_neg ?_).trans ((if_neg ?_).trans ((if_neg ?_).trans rfl)))
  · simp [hhead, hzero, hh]
  · cases hc : (s.stream (entNum o.desc 4 2)).cls with
    | true => simp [hten hc]
    | false => simp [hop hc]
  · rcases hst with hd | hd <;> simp [hd]

/-- A stream that is opened is recorded, its operation waits, and over a STABLE group it starts. -/
theorem streamOpen_eq {s : State} {i : Inst} {r : RingId} {q : W32} {o : Op} (h : entrySub s i r q o 0x31 0) (hhead : headOk o.desc = true)
    (hh : entNum o.desc 4 2 < 4096) (hp : o.parked = false) (hroll : rolling s 2 ≠ some (entNum o.desc 4 2 / 1024))
    (hzero : zeroAt o.desc [(6, 18)] = true) (hent : streamEntOk s o.desc = true) (hop : (streamOf s o).op ≤ 5)
    (hmgr : (streamOf s o).cls = false → o.mgr = true)
    (hten : (streamOf s o).cls = true → (streamOf s o).inst = i ∧ partOf s i = some (streamOf s o).group.val)
    (hst : (s.stream (entNum o.desc 4 2)).st = .free) (hformed : formed s (streamOf s o).group = true)
    (hloc : ((streamOf s o).slots s).2.length * (streamOf s o).nlocal ≤ 4096)
    (hacc : streamAccess s (entNum o.desc 4 2) (streamOf s o) false (streamOf s o).src
      (4 * ((streamOf s o).srcEls ((streamOf s o).slots s).1 ((streamOf s o).slots s).2).length) = .ok) :
    exec (.streamOpen i r q) s = .next (
      if (s.grp (streamOf s o).group).st == .stable && (streamOf s o).op ≠ 5
        then activate ((setOp s { o with parked := true }).setStream (entNum o.desc 4 2) (streamOf s o)) (entNum o.desc 4 2)
        else (setOp s { o with parked := true }).setStream (entNum o.desc 4 2) (streamOf s o)) := by
  change execStreamOpen i r q s = _
  simp only [Stream.slots] at hacc hloc
  unfold execStreamOpen
  rw [withOp_eq h]
  refine congrArg Host.Outcome.next
    ((if_neg ?_).trans ((if_neg ?_).trans ((if_neg ?_).trans ((if_neg ?_).trans ((if_neg ?_).trans ?_)))))
  · simp [hp, hroll]
  · simp [hhead, hh, hzero, hent]
  · exact Nat.not_lt.mpr hop
  · cases hc : (streamOf s o).cls with
    | true => simp [hten hc]
    | false => simp [hmgr hc]
  · simp [hst, hformed, Nat.not_lt.mpr hloc]
  · rw [hacc]

/-- A stream at the start of its exchange: ACTIVE at an epoch, with the values that SRC holds. -/
def activated (s : State) (epoch : Nat) (x : Stream) : Stream :=
  let es := x.srcEls (x.slots s).1 (x.slots s).2
  { x with
    st := .active, epoch := BitVec.ofNat 32 epoch,
    vals := (es.zip (tileWords (srcBytes s x (4 * es.length)))).foldl (fun t k => Tab.insert t k.1 k.2) x.vals }

/-- The arrivals at a stream's barrier start from none. -/
def barrierNoted (s : State) (x : Stream) : State := if x.barrier then noteArrivals s x.group [] else s

theorem barrierNoted_exchanged (s : State) (x : Stream) (h : Nat) : Exchanged h s (barrierNoted s x) := by
  unfold barrierNoted
  split
  · exact Exchanged.refl.fset _ _ _ _
  · exact .refl

theorem grpEpoch_barrierNoted (s : State) (x : Stream) (g : Nat) : grpEpoch (barrierNoted s x) g = grpEpoch s g := by
  have hoff : Reg.fbGroup g ≠ Reg.ceGrpstat x.group := by
    unfold Reg.fbGroup Reg.ceGrpstat
    omega
  unfold barrierNoted
  split
  · exact fget_fset_other _ _ _ _ _ _ hoff
  · rfl

theorem streamKeyOk_congr {s t : State} (hk : t.ktab = s.ktab) (hi : t.ikeys = s.ikeys) (x : Stream) : streamKeyOk t x = streamKeyOk s x := by
  have hkey : ∀ n, t.key n = s.key n := fun n => by unfold State.key; rw [hk]
  have hikey : ∀ n, t.ikey n = s.ikey n := fun n => by unfold State.ikey; rw [hi]
  simp only [streamKeyOk, tileKey, hkey, hikey]

/-- A stream that becomes ACTIVE while its key serves starts its exchange. -/
theorem activate_exchanged {s : State} {h : Nat} (hkey : (s.stream h).seals = false ∨ streamKeyOk s (s.stream h) = true) :
    Exchanged h ((barrierNoted s (s.stream h)).setStream h (activated s (grpEpoch s (s.stream h).group) (s.stream h))) (activate s h) := by
  have hnote := barrierNoted_exchanged s (s.stream h) h
  rw [← grpEpoch_barrierNoted s (s.stream h)]
  refine Exchanged.refl.advance ?_
  rw [State.stream_setStream]
  refine hkey.imp id fun hk => ?_
  rw [← hk]
  exact streamKeyOk_congr (t := (barrierNoted s (s.stream h)).setStream h _)
    (hnote.proj State.ktab fun _ _ _ _ _ _ _ _ _ _ _ _ => rfl) (hnote.proj State.ikeys fun _ _ _ _ _ _ _ _ _ _ _ _ => rfl) (s.stream h)

/-- It stays ACTIVE at the group's epoch, and nothing changes beside the exchange. -/
theorem activate_spec {s : State} {h : Nat} (hkey : (s.stream h).seals = false ∨ streamKeyOk s (s.stream h) = true) :
    ((activate s h).stream h).st = .active ∧ ((activate s h).stream h).epoch = BitVec.ofNat 32 (grpEpoch s (s.stream h).group) ∧
      ((activate s h).stream h).opener = (s.stream h).opener ∧ (activate s h).ops = s.ops ∧ (activate s h).led = s.led ∧
      (activate s h).cores = s.cores ∧ (activate s h).host = s.host := by
  have hact := activate_exchanged hkey
  have hkept := hact.kept
  rw [State.stream_setStream] at hkept
  have hnote := barrierNoted_exchanged s (s.stream h) h
  have hproj : ∀ {α : Type} (π : State → α),
      (∀ (u : State) regs dev ls vtClass vtPart streams sent history plinth draws out, π { u with
        regs := regs, dev := dev, ls := ls, vtClass := vtClass, vtPart := vtPart, streams := streams, sent := sent, history := history,
        plinth := plinth, draws := draws, out := out } = π u) → π (activate s h) = π s := fun π hπ =>
    (hact.proj π hπ).trans ((hπ (barrierNoted s (s.stream h)) _ _ _ _ _ _ _ _ _ _ _).trans (hnote.proj π hπ))
  exact ⟨hkept.st, hkept.epoch, hkept.opener, hproj State.ops fun _ _ _ _ _ _ _ _ _ _ _ _ => rfl,
    hproj State.led fun _ _ _ _ _ _ _ _ _ _ _ _ => rfl, hproj State.cores fun _ _ _ _ _ _ _ _ _ _ _ _ => rfl,
    hproj State.host fun _ _ _ _ _ _ _ _ _ _ _ _ => rfl⟩

/-- Settles O26: how peer contexts and streams open and close. -/
theorem peersAndStreamsOpen : Obligations.PeersAndStreamsOpen := by
  refine ⟨fun s i r q o n h hhead => ⟨fun hn hmod hgrp hzero hmgr hst => ?_, fun hn hzero hst hinst hmgr hack => ?_⟩,
    fun s i r q o n h hhead => fun hh => ⟨fun hn hp hroll hzero hent => ?_, fun hn hzero hst hop hten => ?_⟩⟩
  · subst hn
    exact peerOpen_eq h hhead hmod hgrp hzero hmgr hst
  · subst hn
    exact peerClose_eq h hhead hzero hst hinst hmgr hack
  · subst hn
    intro x hop hmgr hten hst hformed hloc hacc
    have heq := streamOpen_eq h hhead hh hp hroll hzero hent hop hmgr hten hst hformed hloc hacc
    refine ⟨fun hw => ?_, fun hstable hcast hkey => ?_⟩
    · rw [heq, if_neg]
      rcases hw with hw | hw
      · simp [show (s.grp (streamOf s o).group).st ≠ .stable from hw]
      · simp [show (streamOf s o).op = 5 from hw]
    · rw [heq, if_pos (by simp [show (s.grp (streamOf s o).group).st = .stable from hstable, show (streamOf s o).op ≠ 5 from hcast])]
      have hset := State.stream_setStream (setOp s { o with parked := true }) (entNum o.desc 4 2) (streamOf s o)
      generalize hu : (setOp s { o with parked := true }).setStream (entNum o.desc 4 2) (streamOf s o) = u at hset ⊢
      obtain ⟨hst', -, hopener, hops, hled, hcores, hhost⟩ := activate_spec (s := u) (h := entNum o.desc 4 2) (by rw [hset, ← hu]; exact hkey)
      subst hu
      exact ⟨_, rfl, hst', hopener.trans (congrArg Stream.opener hset), hops, hled, hcores, hhost⟩
  · subst hn
    exact streamClose_eq h hhead hh hzero hst hop hten

end Sys2Proof.Proofs
end

section
/-! PROOFS. What a stream takes and how it ends: O32. -/

namespace Sys2Proof.Proofs
open Sys2Proof.Machine

/-- A stream that takes something while its key serves goes on with it. -/
theorem advance_setStream {s : State} {h : Nat} {y : Stream} (hk : y.seals = (s.stream h).seals)
    (hsame : streamKeyOk s y = streamKeyOk s (s.stream h)) (hkey : (s.stream h).seals = false ∨ streamKeyOk s (s.stream h) = true) :
    Exchanged h (s.setStream h y) (advance (s.setStream h y) h) := by
  refine Exchanged.refl.advance ?_
  rw [State.stream_setStream, hk]
  exact hkey.imp id fun ho => (streamKeyOk_congr rfl rfl y).trans (hsame.trans ho)

theorem cast_spec {s : State} {h : Handle} (hkey : (s.stream h).seals = false ∨ streamKeyOk s (s.stream h) = true)
    (hop : (s.stream h).op = 5) (hst : (s.stream h).st = .open_) (hg : (s.grp (s.stream h).group).st = .stable)
    (hstage : stage12Done s (s.stream h).group (s.stream h).step = true) :
    ∃ t, exec (.cast h) s = .next t ∧ (t.stream h).st = .active ∧
      (t.stream h).epoch = BitVec.ofNat 32 (grpEpoch s (s.stream h).group) := by
  obtain ⟨hst', hepoch, -⟩ := activate_spec hkey
  refine ⟨activate s h, ?_, hst', hepoch⟩
  change execCast h s = _
  unfold execCast
  exact if_pos ⟨hop, hst, hg, hstage⟩

/-- A stream with a contribution posted. -/
def contribTaken (x : Stream) (m : TileMsg) : Stream :=
  { x with contrib := Tab.insert x.contrib (m.rtag.toNat * 65536 + m.ord.toNat) (tileWords m.data) }

theorem contributionArrival_spec {s : State} {h : Handle} {m : TileMsg}
    (hkey : (s.stream h).seals = false ∨ streamKeyOk s (s.stream h) = true) (hst : (s.stream h).st = .active)
    (hred : (s.stream h).reduces = true) (htag : m.tag = (s.stream h).tagRec)
    (hrtag : m.rtag.toNat < ((s.stream h).slots s).2.length * (s.stream h).nlocal)
    (hfmt : m.tfmt.toNat = if (s.stream h).e ≤ 128 then 5 else 1) (hord : m.ord.toNat < ceilDiv (s.stream h).e (s.stream h).per)
    (hnew : Tab.find (s.stream h).contrib (m.rtag.toNat * 65536 + m.ord.toNat) = none) :
    ∃ t, exec (.contributionArrival h m) s = .next t ∧ (t.stream h).st = .active ∧
      Tab.find (t.stream h).contrib (m.rtag.toNat * 65536 + m.ord.toNat) = some (tileWords m.data) ∧
      ∃ o, t.out = o ++ [.tileAck (m.srcMod, m.home, m.engine, m.seq) 0] := by
  have hx := (advance_setStream (y := contribTaken (s.stream h) m) rfl rfl hkey).kept
  have htake : takeContribution s h m = (advance (s.setStream h (contribTaken (s.stream h) m)) h, some 0) := by
    unfold takeContribution
    refine (if_neg ?_).trans ((if_neg ?_).trans ((if_neg ?_).trans ((if_neg ?_).trans ((if_neg ?_).trans rfl))))
    · rw [hst]; decide
    · rw [hst]; decide
    · rw [hst]; decide
    · simp only [Stream.slots] at hrtag
      simp [hred, htag, hfmt, hrtag, hord]
    · rw [hnew]; decide
  rw [State.stream_setStream] at hx
  generalize advance (s.setStream h (contribTaken (s.stream h) m)) h = u at hx htake
  refine ⟨u.emit (.tileAck (m.srcMod, m.home, m.engine, m.seq) 0), ?_, hx.st.trans hst, ?_, _, rfl⟩
  · change execContributionArrival h m s = _
    unfold execContributionArrival
    rw [htake]
    rfl
  · exact (congrArg (Tab.find · _) hx.contrib).trans (Tab.find_insert_self _ _ _)

/-- A stream with a shard's elements in their place. -/
def shardTaken (x : Stream) (f : Xfer) (m : ShardMsg) : Stream :=
  let es := ((f.els.drop (4096 * m.ord)).take 4096).zip m.words
  if f.phase = 0 ∧ x.reduces then
    { x with kids := x.kids ++ ((es.filter fun k => (x.kid f.lvl (f.dst / 8 ^ f.lvl) f.child k.1).isNone).map fun k =>
        ((f.lvl, f.dst / 8 ^ f.lvl, f.child, k.1), k.2)) }
  else { x with vals := es.foldl (fun t k => Tab.insert t k.1 k.2) x.vals }

/-- A shard of the exchange is taken. -/
theorem takeShard_eq {s : State} {h : Nat} {m : ShardMsg} {f : Xfer} (hst : (s.stream h).st = .active)
    (hdst : ((s.stream h).slots s).2.contains m.dst = true) (hsrc : ((s.stream h).slots s).2.contains m.src = false)
    (hf : (s.stream h).xferOf ((s.stream h).slots s).1 m = some f) :
    takeShard s h m = advance (s.setStream h { shardTaken (s.stream h) f m with
      took := (shardTaken (s.stream h) f m).took ++ [((f.phase, f.lvl, f.src, f.dst), m.ord)] }) h := by
  unfold takeShard
  refine (if_neg ?_).trans ?_
  · simp only [Stream.slots] at hdst hsrc
    rw [hst, hdst, hsrc]
    decide
  · simp only [Stream.slots] at hf
    rw [hf]
    rfl

theorem engineShardArrival_spec {s : State} {h : Handle} {m : ShardMsg} {f : Xfer}
    (hkey : (s.stream h).seals = false ∨ streamKeyOk s (s.stream h) = true) (hst : (s.stream h).st = .active)
    (hdst : ((s.stream h).slots s).2.contains m.dst = true) (hsrc : ((s.stream h).slots s).2.contains m.src = false)
    (hf : (s.stream h).xferOf ((s.stream h).slots s).1 m = some f) :
    let x := s.stream h
    let es := ((f.els.drop (4096 * m.ord)).take 4096).zip m.words
    ∃ t, exec (.engineShardArrival h m) s = .next t ∧ (t.stream h).st = .active ∧
      (f.phase = 0 → x.reduces = true → (t.stream h).kids = x.kids ++
        ((es.filter fun k => (x.kid f.lvl (f.dst / 8 ^ f.lvl) f.child k.1).isNone).map fun k =>
          ((f.lvl, f.dst / 8 ^ f.lvl, f.child, k.1), k.2))) ∧
      (x.reduces = false → (t.stream h).vals = es.foldl (fun t k => Tab.insert t k.1 k.2) x.vals) := by
  intro x es
  have hy : (shardTaken x f m).seals = x.seals ∧ streamKeyOk s (shardTaken x f m) = streamKeyOk s x ∧ (shardTaken x f m).st = x.st ∧
      (shardTaken x f m).reduces = x.reduces := by
    unfold shardTaken
    dsimp only
    split
    · exact ⟨rfl, rfl, rfl, rfl⟩
    · exact ⟨rfl, rfl, rfl, rfl⟩
  obtain ⟨hseals, hok, hst', hred⟩ := hy
  have hx := (advance_setStream (y := { shardTaken x f m with
    took := (shardTaken x f m).took ++ [((f.phase, f.lvl, f.src, f.dst), m.ord)] }) hseals hok hkey).kept
  rw [State.stream_setStream] at hx
  refine ⟨_, congrArg Host.Outcome.next (takeShard_eq hst hdst hsrc hf), (hx.st.trans hst').trans hst, fun hp hr => ?_, fun hr => ?_⟩
  · refine hx.kids.trans ?_
    change (shardTaken x f m).kids = _
    unfold shardTaken
    rw [if_pos ⟨hp, hr⟩]
  · refine (hx.vals (hred.trans hr)).trans ?_
    change (shardTaken x f m).vals = _
    unfold shardTaken
    rw [if_neg (by simp [hr])]

/-- A stream that has heard a header. -/
def headerTaken (x : Stream) (m : HeaderMsg) : Stream :=
  { x with ovf := x.ovf || m.ovf, heard := x.heard ++ [(m.lvl, m.src, m.dst)] }

theorem Exchanged.noteArrivals {h : Nat} {s t : State} (p : Exchanged h s t) (g : Nat) (heard : List (Nat × Nat × Nat)) :
    Exchanged h s (noteArrivals t g heard) := p.fset _ _ _ _

/-- The state in which a stream has heard a header. -/
def heardState (s : State) (h : Nat) (m : HeaderMsg) : State :=
  if (s.stream h).barrier then
    noteArrivals (s.setStream h (headerTaken (s.stream h) m)) (s.stream h).group (headerTaken (s.stream h) m).heard
  else s.setStream h (headerTaken (s.stream h) m)

theorem heardState_exchanged (s : State) (h : Nat) (m : HeaderMsg) :
    Exchanged h (s.setStream h (headerTaken (s.stream h) m)) (heardState s h m) := by
  unfold heardState
  split
  · exact Exchanged.refl.noteArrivals _ _
  · exact .refl

theorem headerTile_spec {s : State} {h : Handle} {m : HeaderMsg}
    (hkey : (s.stream h).seals = false ∨ streamKeyOk s (s.stream h) = true) (hst : (s.stream h).st = .active)
    (hop : m.op.toNat = (s.stream h).op) (hstep : m.step = (s.stream h).step) :
    ∃ t, exec (.headerTile h m) s = .next t ∧ (t.stream h).st = .active ∧
      (t.stream h).heard = (s.stream h).heard ++ [(m.lvl, m.src, m.dst)] ∧ (m.ovf = true → (t.stream h).ovf = true) := by
  have htake : takeHeader s h m = advance (heardState s h m) h := by
    unfold takeHeader
    exact (if_neg (by rw [hst]; decide)).trans (if_neg (by simp [hop, hstep]))
  have hx : Exchanged h (s.setStream h (headerTaken (s.stream h) m)) (takeHeader s h m) := by
    have hheard := heardState_exchanged s h m
    have hstream : (heardState s h m).stream h = headerTaken (s.stream h) m := by
      unfold heardState
      split
      · exact State.stream_setStream _ _ _
      · exact State.stream_setStream _ _ _
    rw [htake]
    refine hheard.advance ?_
    rw [hstream]
    exact hkey.imp id fun ho => (streamKeyOk_congr (hheard.proj State.ktab fun _ _ _ _ _ _ _ _ _ _ _ _ => rfl)
      (hheard.proj State.ikeys fun _ _ _ _ _ _ _ _ _ _ _ _ => rfl) _).trans ((streamKeyOk_congr rfl rfl _).trans ho)
  have hkept := hx.kept
  rw [State.stream_setStream] at hkept
  exact ⟨_, rfl, hkept.st.trans hst, hkept.heard, fun ho => hkept.ovf (by simp [headerTaken, ho])⟩

/-! ### The end of a stream -/

theorem ceStat_ne_lsState {k : Nat} (hk : k < 4) (p : Part) : Reg.ceStat k ≠ Reg.lsState p := by
  unfold Reg.ceStat Reg.lsState
  omega

theorem postFixed_ceStat {k : Nat} (hk : k < 4) : postFixed (Reg.ceStat k) := by
  intro j
  unfold Reg.ceStat Reg.mtEvents Reg.isViol Reg.qmDirtyctl
  omega

theorem sampleFlag_spec (s : State) (h : Nat) :
    (∃ headerOut ovf, (sampleFlag s h).stream h = { s.stream h with headerOut := headerOut, ovf := ovf }) ∧
      (sampleFlag s h).dev = s.dev ∧ ∀ k, k < 4 → rd (sampleFlag s h) (Reg.ceStat k) = rd s (Reg.ceStat k) := by
  unfold sampleFlag
  dsimp only
  split
  · exact ⟨⟨_, _, rfl⟩, rfl, fun _ _ => rfl⟩
  · split
    · exact ⟨⟨_, _, State.stream_setStream _ _ _⟩, rfl, fun _ _ => rfl⟩
    · split
      · exact ⟨⟨_, _, State.stream_setStream _ _ _⟩, rfl, fun k hk => rd_fset_other _ _ _ _ (ceStat_ne_lsState hk _)⟩
      · exact ⟨⟨_, _, State.stream_setStream _ _ _⟩, rfl, fun _ _ => rfl⟩

/-- From `s` to `t` the streams and the engines' counts stay. -/
structure StatKept (s t : State) : Prop where
  streams : t.streams = s.streams
  stat : ∀ k, k < 4 → rd t (Reg.ceStat k) = rd s (Reg.ceStat k)

theorem StatKept.refl (s : State) : StatKept s s := ⟨rfl, fun _ _ => rfl⟩

theorem StatKept.trans {s t u : State} (h : StatKept s t) (g : StatKept t u) : StatKept s u :=
  ⟨g.streams.trans h.streams, fun k hk => (g.stat k hk).trans (h.stat k hk)⟩

theorem StatKept.posted {s t : State} (h : Posted s t) : StatKept s t :=
  ⟨h.proj State.streams fun _ _ _ _ _ => rfl, fun _ hk => h.rd (postFixed_ceStat hk)⟩

theorem engineOvf_statKept (s : State) (x : Stream) (n : Nat) : StatKept s (engineOvf s x n) := by
  have htable : StatKept s (ovfTable s x.group x.layer n true) := by
    unfold ovfTable
    split
    · exact .refl s
    · exact ⟨rfl, fun _ _ => rfl⟩
  have hflag : ∀ b, StatKept s (fset (ovfTable s x.group x.layer n true) (Reg.lsState x.group) b b 1) := fun b =>
    htable.trans ⟨rfl, fun k hk => rd_fset_other _ _ _ _ (ceStat_ne_lsState hk _)⟩
  unfold engineOvf
  split
  · exact .refl s
  · unfold flagOverflow
    dsimp only
    split
    · exact hflag 19
    · exact hflag _

theorem writeResult_statKept (s : State) (x : Stream) (bs : List Byte) : StatKept s (writeResult s x bs) := by
  have hhost : ∀ y b, StatKept s (hostWrite s x.actor y b) := fun y b => by
    unfold Stream.actor
    split
    · exact .posted (Posted.refl.hostWrite _ _ _)
    · cases x.opener with
      | none => exact .posted (Posted.refl.hostWrite _ _ _)
      | some o => exact .posted (Posted.refl.hostWrite _ _ _)
  unfold writeResult
  split
  · exact hhost _ _
  · exact hhost _ _
  · exact ⟨rfl, fun _ _ => rfl⟩
  · exact .refl s

theorem streamNorm_statKept (s : State) (x : Stream) : StatKept s (streamNorm s x) := by
  have hset : ∀ (t : State) base who layer n v, StatKept t (addGsq t base who layer n v).1 := fun t base who layer n v => by
    unfold addGsq normSet
    dsimp only
    split
    · exact ⟨rfl, fun _ _ => rfl⟩
    · exact ⟨rfl, fun _ _ => rfl⟩
  unfold streamNorm
  dsimp only
  split
  · exact .refl s
  split
  · split
    · exact (hset _ _ _ _ _ _).trans (engineOvf_statKept _ _ _)
    · exact .refl s
  · refine List.foldlRecOn (motive := StatKept s) _ _ (.refl s) fun u hu q _ => ?_
    exact hu.trans (((hset _ _ _ _ _ _).trans (engineOvf_statKept _ _ _)).trans ⟨rfl, fun _ _ => rfl⟩)

theorem hostWrite_dev (s : State) (i a : Nat) (bs : List Byte) : (hostWrite s i a bs).dev = s.dev := by
  unfold hostWrite
  refine foldl_proj State.dev (fun t b => ?_) _ _
  unfold dirtyBit
  dsimp only
  split
  · rfl
  split
  · rfl
  · rfl

/-- What a result leaves in device memory hangs on that memory and on RESULT alone. -/
theorem writeResult_dev {s t : State} {x y : Stream} (bs : List Byte) (hd : t.dev = s.dev) (hr : y.result = x.result) :
    (writeResult t y bs).dev = (writeResult s x bs).dev := by
  have hout : ∀ (u : State) (z : Stream), (writeResult u z bs).dev = match addrOf z.result with
      | .dev a => Memory.write u.dev a bs
      | _ => u.dev := fun u z => by
    unfold writeResult
    cases addrOf z.result with
    | io a => cases (z.tagv && !z.barrier) with
      | true => exact hostWrite_dev _ _ _ _
      | false => exact hostWrite_dev _ _ _ _
    | dev a => rfl
    | bad => rfl
  rw [hout, hout, hr, hd]

/-- What a finished stream delivers to the LSU and to its adapter. -/
def delivered (s : State) (x : Stream) : State := streamClose (streamClean (streamLoss s x) x) x

theorem delivered_spec (s : State) (x : Stream) : StatKept s (delivered s x) ∧ (delivered s x).dev = s.dev := by
  have hloss : StatKept s (streamLoss s x) ∧ (streamLoss s x).dev = s.dev := by
    unfold streamLoss
    split
    · exact ⟨⟨rfl, fun _ _ => rfl⟩, rfl⟩
    · exact ⟨.refl s, rfl⟩
  have hclean : StatKept (streamLoss s x) (streamClean (streamLoss s x) x) ∧ (streamClean (streamLoss s x) x).dev = (streamLoss s x).dev := by
    unfold streamClean
    split
    · exact ⟨⟨rfl, fun _ _ => rfl⟩, rfl⟩
    · exact ⟨.refl _, rfl⟩
  have hclose : StatKept (streamClean (streamLoss s x) x) (delivered s x) ∧ (delivered s x).dev = (streamClean (streamLoss s x) x).dev := by
    unfold delivered streamClose
    split
    · exact ⟨⟨rfl, fun _ _ => rfl⟩, rfl⟩
    · exact ⟨.refl _, rfl⟩
  exact ⟨hloss.1.trans (hclean.1.trans hclose.1), hclose.2.trans (hclean.2.trans hloss.2)⟩

/-- A stream that is DONE keeps of its exchange what a BROADCAST passes on. -/
def doneStream (x : Stream) : Stream :=
  { x with
    st := .done, opener := none, contrib := [], kids := [], nodes := [], heard := [], sentTo := [],
    vals := if x.op = 1 then x.vals else [] }

/-- The state in which a stream is DONE, before its operation completes. -/
def doneState (s : State) (h : Nat) (x : Stream) : State := finc (s.setStream h (doneStream x)) (Reg.ceStat (h / 1024)) 31 0 1

/-- The operation that opened a stream completes. -/
def completeOpener (s : State) (opener : Option Op) (status value : Nat) : State :=
  match opener with
  | some o => completeOp s o status value
  | none => s

theorem completeOpener_spec (s : State) (opener : Option Op) (status value : Nat) :
    StatKept s (completeOpener s opener status value) ∧ (completeOpener s opener status value).dev = s.dev := by
  cases opener with
  | none => exact ⟨.refl s, rfl⟩
  | some o =>
    have h := completeOp_posted s o status value
    have hdrop : StatKept s (dropOp s o) := ⟨rfl, fun _ _ => rfl⟩
    exact ⟨hdrop.trans (.posted h), h.dev⟩

theorem finishStream_eq (s : State) (h : Nat) (bs : List Byte) : ∃ s0, s0 = (if (s.stream h).close then sampleFlag s h else s) ∧
    finishStream s h bs = completeOpener (doneState (delivered (streamNorm (writeResult s0 (s0.stream h) bs) (s0.stream h)) (s0.stream h)) h
      (s0.stream h)) (s0.stream h).opener 0 (s0.stream h).epoch.toNat := by
  refine ⟨_, rfl, ?_⟩
  unfold finishStream completeOpener
  rfl

/-- A stream that is finished is DONE and counted, and only its result is written to device memory. -/
theorem finishStream_spec (s : State) (h : Handle) (bs : List Byte) :
    ((finishStream s h bs).stream h).st = .done ∧ ((finishStream s h bs).stream h).opener = none ∧
      fget (finishStream s h bs) (Reg.ceStat (h.val / 1024)) 31 0 = satAdd 32 (fget s (Reg.ceStat (h.val / 1024)) 31 0) 1 ∧
      ((s.stream h).norm = false → (finishStream s h bs).dev = (writeResult s (s.stream h) bs).dev) := by
  have hk : h.val / 1024 < 4 := by omega
  obtain ⟨s0, hs0, heq⟩ := finishStream_eq s h bs
  obtain ⟨⟨ho, ov, hx⟩, hdev, hstat⟩ : (∃ headerOut ovf, s0.stream h = { s.stream h with headerOut := headerOut, ovf := ovf }) ∧
      s0.dev = s.dev ∧ ∀ k, k < 4 → rd s0 (Reg.ceStat k) = rd s (Reg.ceStat k) := by
    rw [hs0]
    split
    · exact sampleFlag_spec s h
    · exact ⟨⟨_, _, rfl⟩, rfl, fun _ _ => rfl⟩
  have hres : (s0.stream h).result = (s.stream h).result := by rw [hx]
  have hnorm : (s0.stream h).norm = (s.stream h).norm := by rw [hx]
  generalize s0.stream h = x at heq hres hnorm
  have hwrote := (writeResult_statKept s0 x bs).trans (streamNorm_statKept _ x)
  obtain ⟨hgave, hgavedev⟩ := delivered_spec (streamNorm (writeResult s0 x bs) x) x
  generalize hu : delivered (streamNorm (writeResult s0 x bs) x) x = u at heq hgave hgavedev
  obtain ⟨hend, henddev⟩ := completeOpener_spec (doneState u h x) x.opener 0 x.epoch.toNat
  rw [← heq] at hend henddev
  have hstream : (finishStream s h bs).stream h = doneStream x := by
    unfold State.stream
    rw [hend.streams]
    exact State.stream_setStream u h (doneStream x)
  refine ⟨by rw [hstream]; rfl, by rw [hstream]; rfl, ?_, fun hn => ?_⟩
  · have hbefore : fget (u.setStream h (doneStream x)) (Reg.ceStat (h.val / 1024)) 31 0 = fget s (Reg.ceStat (h.val / 1024)) 31 0 := by
      unfold fget
      rw [← hstat _ hk, ← (hwrote.trans hgave).stat _ hk]
      rfl
    have hinc : fget (doneState u h x) (Reg.ceStat (h.val / 1024)) 31 0 = satAdd 32 (fget s (Reg.ceStat (h.val / 1024)) 31 0) 1 := by
      unfold doneState finc
      rw [fget_fset_self _ _ _ (by decide) (by decide), hbefore, Nat.mod_eq_of_lt]
      unfold satAdd
      omega
    rw [← hinc]
    unfold fget
    rw [hend.stat _ hk]
  · have hsame : streamNorm (writeResult s0 x bs) x = writeResult s0 x bs := if_pos (by rw [hnorm, hn]; rfl)
    rw [henddev]
    change u.dev = _
    rw [hgavedev, hsame]
    exact writeResult_dev bs hdev hres

/-- Settles O32: what a stream takes and how it ends. -/
theorem streamArrivalsAndEnd : Obligations.StreamArrivalsAndEnd := by
  refine ⟨fun s h hkey => ⟨fun hop hst hg hstage => cast_spec hkey hop hst hg hstage, fun m hst hred htag hrtag hfmt hord hnew =>
    contributionArrival_spec hkey hst hred htag hrtag hfmt hord hnew, fun m f hst hdst hsrc hf =>
    engineShardArrival_spec hkey hst hdst hsrc hf, fun m hst hop hstep => headerTile_spec hkey hst hop hstep⟩, ?_⟩
  intro s h x bs hst hready hcap hacc
  obtain ⟨hdone, hopener, hcount, hdev⟩ := finishStream_spec s h bs
  refine ⟨finishStream s h bs, ?_, hdone, hopener, hcount, fun hn _ => hdev hn⟩
  change execStreamDone h s = _
  unfold execStreamDone
  refine (if_neg ?_).trans ((if_neg ?_).trans ?_)
  · change ¬ (x.st != .active || !streamReady s h) = true
    rw [hst, hready]
    decide
  · exact fun hc => absurd (hcap hc.1) (Nat.not_le.mpr hc.2)
  · have hok : (if bs.isEmpty then Verdict.ok else streamAccess s h x true x.result bs.length) = .ok := by
      split
      · rfl
      · rename_i he
        exact hacc (by simpa using he)
    rw [show (if List.isEmpty (if (s.stream h).op = 5 then castExport s (s.stream h) else
      (streamResult s (s.stream h)).flatMap fun v => leBytes 4 v.toNat) then Verdict.ok else _) = .ok from hok]

end Sys2Proof.Proofs
end

section
/-! PROOFS. Dispatch onto a core that stands where an ended item's tail is kept: O27.

What an ended item leaves is kept at core 144 plus its ledger key (log 163). A core map register has five bits for the core of its die, so on
die 7 it can name 18 to 31, which is a tail's place. A dispatch there overwrites the core's arrays before it reads their activity. -/

namespace Sys2Proof.Proofs
open Sys2Proof.Machine

/-- An item of partition 0 for logical core 112 alone. -/
def tailItem : Elig :=
  { op := { inst := 0, ring := 0, subseq := 0#32, desc := BitVec.ofNat 512 (112 * 2 ^ 128), rsq := 0#64, rcq := 0#64, mgr := false, order := 0 },
    part := 0, cls := 0 }

/-- The entry of the item that ended. -/
def tailLed : Led :=
  { desc := 0#512, lsn := 0, st := .finishing, home := 0, inst := 0, cls := 0, swapSeq := 0#32, step := 0#32, ingen := [], pcore := none,
    lcore := 0, ring := 0, subseq := 0#32, rsq := 0#64, rcq := 0#64, mgr := false, order := 0 }

/-- Logical core 112 is mapped to core 18 of die 7, which is core 144, the place of the tail of ledger key 0: an array stands there at L = 1. -/
def tailState : State :=
  { ((({} : State).setReg (Reg.scRemap 112) 146).setReg (Reg.scPcores0 0) 0).setReg (Reg.scPcores1 0) (2 ^ 48) with
    cores := [(144, { item := some 0, arrs := [(0, { level := 1 })] })], led := [(0, tailLed)], elig := [tailItem] }

/-- The level of an array in the state that a command answers. -/
def levelAfter (r : Res) (k n : Nat) : Nat :=
  match r with
  | .next t => ((t.core k).arr n).level
  | _ => 0

/-- The array's activity is lost. -/
theorem levelAfter_dispatch : levelAfter (exec (.dispatch 112) tailState) 144 0 = 0 := by decide +kernel

theorem physOf_tailState : physOf tailState 112 = 144 := by decide +kernel

/-- Refutes O27: where the core map names core 144, which also keeps the tail of ledger key 0, the dispatch of the next item clears the level of
that core's array. -/
theorem not_dispatchCommands : ¬ Obligations.DispatchCommands := by
  intro hall
  have hlow : (lowestFree tailState tailItem.op.desc).getD (112 : LCore).val = 112 := by decide +kernel
  have hkey : freeEntry tailState ((lowestFree tailState tailItem.op.desc).getD (112 : LCore).val / 16) = some 57344 := by decide +kernel
  obtain ⟨t, e, hexec, -, -, -, -, -, -, -, -, harr, -⟩ := hall.1 tailState 112 0 0 57344 tailItem (by decide +kernel) (by decide +kernel)
    (by decide +kernel) (by decide +kernel) (by decide +kernel) (by decide +kernel) (by decide +kernel) rfl hkey
  rw [hlow, physOf_tailState] at harr
  have hlevel : ((t.core 144).arr 0).level = 1 := by
    rw [harr 0 (by decide)]
    decide +kernel
  have hlost := levelAfter_dispatch
  rw [hexec] at hlost
  change ((t.core 144).arr 0).level = 0 at hlost
  omega

end Sys2Proof.Proofs
end

section
/-! PROOFS. What the commit of an item and the end of a job leave alone. -/

namespace Sys2Proof.Proofs
open Sys2Proof.Machine

/-- A register that no commit changes: none of the training and trace blocks' counts, no context's state, and none that a completion changes. -/
def commitFixed (off : Nat) : Prop := postFixed off ∧ (∀ j : Part, off ≠ Reg.lsState j ∧ off ≠ Reg.lsOutcomes j) ∧ off < 0xB00000

/-- A field of LS_STATE apart from the overflow flags. -/
def besideFlags (hi lo : Nat) : Prop := hi < 64 ∧ lo ≤ hi + 1 ∧ (hi < 19 ∨ (19 < lo ∧ hi < 24) ∨ 25 < lo)

/-- What commits leave of the registers: all but the overflow flags, the counts of outcomes, and those of completions and of the trace. -/
structure RegsKept (s t : State) : Prop where
  fixed : ∀ off, commitFixed off → rd t off = rd s off
  state : ∀ (p : Part) hi lo, besideFlags hi lo → fget t (Reg.lsState p) hi lo = fget s (Reg.lsState p) hi lo
  outcomes : ∀ p : Part, fget t (Reg.lsOutcomes p) 31 0 = fget s (Reg.lsOutcomes p) 31 0

theorem RegsKept.trans {s t u : State} (h : RegsKept s t) (g : RegsKept t u) : RegsKept s u :=
  ⟨fun off ho => (g.fixed off ho).trans (h.fixed off ho), fun p hi lo hb => (g.state p hi lo hb).trans (h.state p hi lo hb),
    fun p => (g.outcomes p).trans (h.outcomes p)⟩

theorem RegsKept.of_regs {s t : State} (h : t.regs = s.regs) : RegsKept s t := by
  have hrd : ∀ off, rd t off = rd s off := fun off => by unfold rd; rw [h]
  exact ⟨fun off _ => hrd off, fun p hi lo _ => by unfold fget; rw [hrd], fun p => by unfold fget; rw [hrd]⟩

/-- From `s` to `t` items and jobs end: cores and ledger, norms and flags, memories, rings, trace and output may change. -/
def Commits (s t : State) : Prop :=
  (∃ regs dev host rings out norms bnorms slotGsq cores led gens journal sent ctx jobs trFifo trDrop, t = { s with
    regs := regs, dev := dev, host := host, rings := rings, out := out, norms := norms, bnorms := bnorms, slotGsq := slotGsq,
    cores := cores, led := led, gens := gens, journal := journal, sent := sent, ctx := ctx, jobs := jobs, trFifo := trFifo,
    trDrop := trDrop }) ∧ RegsKept s t

section
variable {s t u : State}

theorem Commits.refl : Commits s s := ⟨⟨_, _, _, _, _, _, _, _, _, _, _, _, _, _, _, _, _, rfl⟩, .of_regs rfl⟩

theorem Commits.trans (h : Commits s t) (g : Commits t u) : Commits s u := by
  obtain ⟨⟨_, _, _, _, _, _, _, _, _, _, _, _, _, _, _, _, _, rfl⟩, h⟩ := h
  obtain ⟨⟨_, _, _, _, _, _, _, _, _, _, _, _, _, _, _, _, _, rfl⟩, g⟩ := g
  exact ⟨⟨_, _, _, _, _, _, _, _, _, _, _, _, _, _, _, _, _, rfl⟩, h.trans g⟩

theorem Commits.regs (h : Commits s t) : RegsKept s t := h.2

theorem Commits.rd (h : Commits s t) {off : Nat} (ho : commitFixed off) : rd t off = rd s off := h.2.fixed off ho

/-- What ignores what a commit changes is as it was. -/
theorem Commits.proj (h : Commits s t) {α : Type} (π : State → α)
    (hπ : ∀ (u : State) regs dev host rings out norms bnorms slotGsq cores led gens journal sent ctx jobs trFifo trDrop, π { u with
      regs := regs, dev := dev, host := host, rings := rings, out := out, norms := norms, bnorms := bnorms, slotGsq := slotGsq,
      cores := cores, led := led, gens := gens, journal := journal, sent := sent, ctx := ctx, jobs := jobs, trFifo := trFifo,
      trDrop := trDrop } = π u) : π t = π s := by
  obtain ⟨⟨_, _, _, _, _, _, _, _, _, _, _, _, _, _, _, _, _, rfl⟩, -⟩ := h
  exact hπ _ _ _ _ _ _ _ _ _ _ _ _ _ _ _ _ _ _

theorem Commits.parts (h : Commits s t) : t.parts = s.parts := h.proj State.parts fun _ _ _ _ _ _ _ _ _ _ _ _ _ _ _ _ _ _ => rfl

theorem Commits.descs (h : Commits s t) : t.descs = s.descs := h.proj State.descs fun _ _ _ _ _ _ _ _ _ _ _ _ _ _ _ _ _ _ => rfl

theorem Commits.ls (h : Commits s t) : t.ls = s.ls := h.proj State.ls fun _ _ _ _ _ _ _ _ _ _ _ _ _ _ _ _ _ _ => rfl

theorem Commits.foldl {α : Type} {f : State → α → State} {l : List α} (h : Commits s t) (hf : ∀ u x, Commits s u → Commits s (f u x)) :
    Commits s (l.foldl f t) :=
  List.foldlRecOn (motive := Commits s) l f h fun u hu x _ => hf u x hu

/-- A change that leaves every register. -/
theorem Commits.still (h : Commits s t) (g : ∃ dev host rings out norms bnorms slotGsq cores led gens journal sent ctx jobs trFifo trDrop,
    u = { t with
      dev := dev, host := host, rings := rings, out := out, norms := norms, bnorms := bnorms, slotGsq := slotGsq, cores := cores, led := led,
      gens := gens, journal := journal, sent := sent, ctx := ctx, jobs := jobs, trFifo := trFifo, trDrop := trDrop }) : Commits s u := by
  obtain ⟨_, _, _, _, _, _, _, _, _, _, _, _, _, _, _, _, rfl⟩ := g
  exact h.trans ⟨⟨_, _, _, _, _, _, _, _, _, _, _, _, _, _, _, _, _, rfl⟩, .of_regs rfl⟩

theorem postFixed_lsState (p : Part) : postFixed (Reg.lsState p) := by
  intro j
  unfold Reg.lsState Reg.mtEvents Reg.isViol Reg.qmDirtyctl
  omega

theorem postFixed_lsOutcomes (p : Part) : postFixed (Reg.lsOutcomes p) := by
  intro j
  unfold Reg.lsOutcomes Reg.mtEvents Reg.isViol Reg.qmDirtyctl
  omega

theorem RegsKept.of_posted (g : Posted s t) : RegsKept s t :=
  ⟨fun _ ho => g.rd ho.1, fun p _ _ _ => g.fget (postFixed_lsState p) _ _, fun p => g.fget (postFixed_lsOutcomes p) _ _⟩

theorem Commits.posted (h : Commits s t) (g : Posted t u) : Commits s u := by
  have hk := RegsKept.of_posted g
  obtain ⟨_, _, _, _, rfl, -⟩ := g
  exact h.trans ⟨⟨_, _, _, _, _, _, _, _, _, _, _, _, _, _, _, _, _, rfl⟩, hk⟩

theorem Commits.writeCompl (h : Commits s t) (c : Compl) : Commits s (writeCompl t c) := h.posted (Posted.refl.writeCompl c)

theorem Commits.regChange (h : Commits s t) {off hi lo v : Nat} (g : RegsKept t (fset t off hi lo v)) : Commits s (fset t off hi lo v) :=
  h.trans ⟨⟨_, _, _, _, _, _, _, _, _, _, _, _, _, _, _, _, _, rfl⟩, g⟩

/-- The trace's counts. -/
theorem Commits.fsetTrace (h : Commits s t) (d hi lo v : Nat) : Commits s (Machine.fset t (Reg.trPtr d) hi lo v) := by
  refine h.regChange ⟨fun off ho => rd_fset_other _ _ _ _ ?_, fun p _ _ _ => fget_fset_other _ _ _ _ _ _ ?_,
    fun p => fget_fset_other _ _ _ _ _ _ ?_⟩
  · have := ho.2.2
    unfold Reg.trPtr
    omega
  · unfold Reg.lsState Reg.trPtr
    omega
  · unfold Reg.lsOutcomes Reg.trPtr
    omega

/-- A flag of the loss-scale context. -/
theorem Commits.fsetFlag (h : Commits s t) (q : Part) {b : Nat} (hb : b = 19 ∨ b = 24 ∨ b = 25) (v : Nat) :
    Commits s (Machine.fset t (Reg.lsState q) b b v) := by
  refine h.regChange ⟨fun off ho => rd_fset_other _ _ _ _ (ho.2.1 q).1, fun p hi lo hf => ?_, fun p => fget_fset_other _ _ _ _ _ _ ?_⟩
  · obtain ⟨h1, h2, h3⟩ := hf
    by_cases hpq : Reg.lsState p = Reg.lsState q
    · rw [hpq]
      exact fget_fset_field _ _ _ (by omega) h2 h1 (by omega)
    · exact fget_fset_other _ _ _ _ _ _ hpq
  · unfold Reg.lsOutcomes Reg.lsState
    omega

/-- The count of mismatches. -/
theorem Commits.fincOutcomes (h : Commits s t) (q : Part) (n : Nat) : Commits s (finc t (Reg.lsOutcomes q) 63 32 n) := by
  refine h.regChange ⟨fun off ho => rd_fset_other _ _ _ _ (ho.2.1 q).2, fun p _ _ _ => fget_fset_other _ _ _ _ _ _ ?_, fun p => ?_⟩
  · unfold Reg.lsOutcomes Reg.lsState
    omega
  · by_cases hpq : Reg.lsOutcomes p = Reg.lsOutcomes q
    · rw [hpq]
      exact fget_fset_field _ _ _ (by decide) (by decide) (by decide) (by decide)
    · exact fget_fset_other _ _ _ _ _ _ hpq

theorem Commits.flagOverflow (h : Commits s t) (q : Part) (n : W32) : Commits s (flagOverflow t q n) := by
  unfold Machine.flagOverflow
  dsimp only
  split
  · exact h.fsetFlag q (.inl rfl) 1
  · exact h.fsetFlag q (by omega) 1

theorem Commits.countOvf (h : Commits s t) (e : Led) (layer n : Nat) : Commits s (countOvf t e layer n) := by
  have htable : ∀ p train, Commits s (ovfTable t p layer n train) := fun p train => by
    unfold ovfTable
    split
    · exact h
    · exact h.still ⟨_, _, _, _, _, _, _, _, _, _, _, _, _, _, _, _, rfl⟩
  unfold Machine.countOvf
  dsimp only
  split
  · exact h
  split
  · exact (htable _ _).flagOverflow ⟨ledPart t e, ledPart_lt t e⟩ _
  · exact htable _ _

theorem Commits.commitGsq (h : Commits s t) (e : Led) (x : GsqPart) : Commits s (commitGsq e t x) := by
  have hnorm : Commits s (addGsq t x.base x.who x.layer x.step x.v).1 := by
    unfold addGsq normSet
    dsimp only
    split
    · exact h.still ⟨_, _, _, _, _, _, _, _, _, _, _, _, _, _, _, _, rfl⟩
    · exact h.still ⟨_, _, _, _, _, _, _, _, _, _, _, _, _, _, _, _, rfl⟩
  unfold Machine.commitGsq
  dsimp only
  split
  · exact Commits.countOvf (hnorm.still ⟨_, _, _, _, _, _, _, _, _, _, _, _, _, _, _, _, rfl⟩) _ _ _
  · exact hnorm.countOvf _ _ _

theorem Commits.tracePut (h : Commits s t) (src body typ : Nat) : Commits s (tracePut t src body typ) := by
  have hput : ∀ fifo drop, Commits s { t with trFifo := fifo, trDrop := drop } := fun fifo drop =>
    h.still ⟨_, _, _, _, _, _, _, _, _, _, _, _, _, _, _, _, rfl⟩
  unfold Machine.tracePut
  dsimp only
  split
  · exact h
  split
  · exact (hput _ _).fsetTrace _ _ _ _
  split
  · exact hput _ _
  split
  · exact (hput _ _).fsetTrace _ _ _ _
  · exact hput _ _

theorem Commits.traceItemEnd (h : Commits s t) (k : Nat) (e : Led) (status : Nat) : Commits s (traceItemEnd t k e status) := by
  unfold Machine.traceItemEnd
  split
  · exact h.tracePut _ _ _
  · exact h

theorem Commits.setCore (h : Commits s t) (k : Nat) (c : Core) : Commits s (t.setCore k c) :=
  h.still ⟨_, _, _, _, _, _, _, _, _, _, _, _, _, _, _, _, rfl⟩

theorem Commits.updLed (h : Commits s t) (key : Nat) (f : Led → Led) : Commits s (t.updLed key f) := by
  unfold State.updLed
  split
  · exact h.still ⟨_, _, _, _, _, _, _, _, _, _, _, _, _, _, _, _, rfl⟩
  · exact h

theorem Commits.leaveCore (h : Commits s t) (key : Nat) (e : Led) (status : Nat) : Commits s (leaveCore t key e status) := by
  unfold Machine.leaveCore
  split
  · exact h
  · exact (h.traceItemEnd _ _ _).setCore _ _

theorem Commits.completeItem (h : Commits s t) (key : Nat) : Commits s (completeItem t key) := by
  have hdone : ∀ c, Commits s (Machine.writeCompl { t with led := Tab.erase t.led key } c) := fun c =>
    Commits.writeCompl (h.still ⟨_, _, _, _, _, _, _, _, _, _, _, _, _, _, _, _, rfl⟩) c
  unfold Machine.completeItem
  split
  · exact h
  · dsimp only
    split
    · exact h
    split
    · split
      · split
        · exact (hdone _).fincOutcomes ⟨ledPart t _, ledPart_lt t _⟩ _
        · exact hdone _
      · exact h
    · exact hdone _

theorem Commits.commitItem (h : Commits s t) (k : Nat) : Commits s (commitItem t k) := by
  unfold Machine.commitItem
  split
  · exact h
  · rename_i key e _
    dsimp only
    split
    · exact h
    · have hgsq : Commits s ((t.core k).gsq.foldl (Machine.commitGsq e) t) := h.foldl fun u x hu => hu.commitGsq e x
      have hpub : Commits s (if entNum e.desc 48 4 = 0 then (t.core k).gsq.foldl (Machine.commitGsq e) t else
          { (t.core k).gsq.foldl (Machine.commitGsq e) t with
            gens := Tab.put 0#32 ((t.core k).gsq.foldl (Machine.commitGsq e) t).gens (e.inst * 65536 + entNum e.desc 48 4 % 65536)
              (BitVec.ofNat 32 (entNum e.desc 52 4)) }) := by
        split
        · exact hgsq
        · exact hgsq.still ⟨_, _, _, _, _, _, _, _, _, _, _, _, _, _, _, _, rfl⟩
      exact Commits.completeItem (((hpub.leaveCore key e 0).updLed key _).still
        ⟨_, _, _, _, _, _, _, _, _, _, _, _, _, _, _, _, rfl⟩) key

theorem Commits.updItemCore (h : Commits s t) (key : Nat) (f : Core → Core) : Commits s (updItemCore t key f) := by
  unfold Machine.updItemCore
  split
  · exact h
  · split
    · exact (h.setCore _ _).commitItem _
    · exact h.still ⟨_, _, _, _, _, _, _, _, _, _, _, _, _, _, _, _, rfl⟩

theorem Commits.finishJob (h : Commits s t) (j : UpdJob) : Commits s (finishJob t j) :=
  Commits.updItemCore (h.still ⟨_, _, _, _, _, _, _, _, _, _, _, _, _, _, _, _, rfl⟩) _ _

end

/-- From `s` to `t` neither the partitions nor the registers that no commit changes do. -/
structure PartsKept (s t : State) : Prop where
  parts : t.parts = s.parts
  regs : RegsKept s t

theorem PartsKept.trans {s t u : State} (h : PartsKept s t) (g : PartsKept t u) : PartsKept s u :=
  ⟨g.parts.trans h.parts, h.regs.trans g.regs⟩

theorem PartsKept.of_commits {s t : State} (h : Commits s t) : PartsKept s t := ⟨h.parts, h.regs⟩

theorem refuseStep_kept (s : State) (p : Nat) (n : W32) : PartsKept s (refuseStep s p n) := by
  unfold refuseStep
  extract_lets isIt ops els s1 s2
  have hs1 : PartsKept s (updStep s1 p n fun r => { r with refused := true }) := ⟨rfl, .of_regs rfl⟩
  have hs2 : Commits (updStep s1 p n fun r => { r with refused := true }) s2 := Commits.refl.foldl fun u x hu => hu.writeCompl _
  have hend : Commits s2 ((s2.jobs.filter fun (j : UpdJob) => j.part.val == p && j.step == n && j.stage == .waiting).foldl finishJob s2) :=
    Commits.refl.foldl fun u x hu => hu.finishJob _
  exact hs1.trans ((PartsKept.of_commits hs2).trans (.of_commits hend))

end Sys2Proof.Proofs
end

section
/-! PROOFS. Preemption, the context switch and the swaps at a boundary: O28. -/

namespace Sys2Proof.Proofs
open Sys2Proof.Machine

/-! ### Projections -/

theorem core_congr {s t : State} (h : t.cores = s.cores) (k : Nat) : t.core k = s.core k := by
  unfold State.core
  rw [h]

theorem fget_congr {s t : State} (h : t.regs = s.regs) (off hi lo : Nat) : fget t off hi lo = fget s off hi lo := by
  unfold fget rd
  rw [h]

theorem physOf_congr {s t : State} (h : t.regs = s.regs) (l : Nat) : physOf t l = physOf s l := by
  unfold physOf
  rw [fget_congr h]

/-- A field that counts takes what is added, up to its width. -/
theorem fget_finc_self (s : State) (off n : Nat) {hi lo : Nat} (h : hi < 64) (h' : lo ≤ hi + 1) :
    fget (finc s off hi lo n) off hi lo = satAdd (hi + 1 - lo) (fget s off hi lo) n := by
  unfold finc
  rw [fget_fset_self _ _ _ h h', Nat.mod_eq_of_lt]
  unfold satAdd
  have := Nat.two_pow_pos (hi + 1 - lo)
  omega

/-! ### Preemption and switch-out -/

theorem preempt_spec {s : State} {l : LCore} {p : Nat} {x : Elig} (hp : (List.range 16).find? (fun p => inPart s p l) = some p)
    (hm : mapped s l = true) (hx : ((s.elig.filter (preempts s p l)).foldr insertOrder []).head? = some x) :
    ∃ t, exec (.preempt l) s = .next t ∧ (t.core (physOf s l)).switching = true ∧ (∀ k, k ≠ physOf s l → t.core k = s.core k) ∧
      (∀ y ∈ t.elig, y.same x = true → y.claim = true) ∧ t.elig.length = s.elig.length ∧ t.led = s.led ∧ t.regs = s.regs ∧ sameMemory s t := by
  let s1 : State := { s with elig := s.elig.map fun (y : Elig) => if y.same x then { y with claim := true } else y }
  have heq : exec (.preempt l) s = .next (s1.updCore (physOf s l) fun c => { c with switching := true }) := by
    change execPreempt l s = _
    unfold execPreempt
    rw [hp]
    dsimp only
    rw [hm, hx]
    rfl
  refine ⟨_, heq, ?_, fun k hk => State.core_updCore_other _ _ hk, fun y hy hs => ?_, List.length_map _, rfl, rfl, rfl, rfl⟩
  · rw [State.core_updCore]
  · obtain ⟨y0, -, rfl⟩ := List.mem_map.mp hy
    split at hs
    · rename_i h0
      rw [if_pos h0]
    · rename_i h0
      exact absurd hs h0

/-- The item's entry that returns to its queue. -/
def returned (s : State) (e : Led) (key slot : Nat) : Elig :=
  { op := { inst := e.inst, ring := e.ring, subseq := e.subseq, desc := e.desc, rsq := e.rsq, rcq := e.rcq, mgr := e.mgr, order := e.order }
    part := fin 15 (ledPart s e), cls := e.cls, passed := e.passed, slot := some slot, ledKey := some key }

theorem joinQueue_eq (s : State) (x : Elig) : ∃ vc vp, joinQueue s x = { s with vtClass := vc, vtPart := vp, elig := s.elig ++ [x] } := by
  unfold joinQueue
  obtain ⟨vc, vp, h⟩ := raiseV_eq s 0 x.part x.cls ((s.elig.filter fun y => y.part == x.part).map fun y => (y.part.val, y.cls))
  dsimp only
  rw [h]
  exact ⟨vc, vp, rfl⟩

theorem switchOut_spec {s : State} {k : PCore} {key slot : Nat} {e : Led} (hitem : itemOf s k = some (key, e)) (hst : e.st = .running)
    (hsw : (s.core k).switching = true) (hdrain : draining (s.core k) = false) (hsent : s.sent.any (fun x => x.led == key) = false)
    (hslot : freeSlot s (dieOf k) = some slot) :
    ∃ t, exec (.switchOut k) s = .next t ∧ (t.core k).item = none ∧
      Tab.find t.ctx slot = some { core := imageCore (s.core k), led := key, lsn := e.lsn, home := e.home } ∧
      (∃ e', t.ledAt key = some e' ∧ e'.st = .dispatched ∧ e'.pcore = none ∧ e'.desc = e.desc) ∧
      (∃ x ∈ t.elig, x.ledKey = some key ∧ x.slot = some slot) ∧
      fget t Reg.scCtxstat 63 32 = satAdd 32 (fget s Reg.scCtxstat 63 32) 1 ∧ (∀ j, j ≠ k.val → t.core j = s.core j) ∧ sameMemory s t := by
  obtain ⟨-, hled⟩ := itemOf_spec hitem
  let s1 := s.updLed key fun x => { x with st := .dispatched, pcore := none, ran := runNs s e }
  let s2 := s1.updCore k Core.idle
  let s3 : State := { s2 with ctx := Tab.insert s2.ctx slot { core := imageCore (s.core k), led := key, lsn := e.lsn, home := e.home } }
  have heq : exec (.switchOut k) s = .next (joinQueue (finc s3 Reg.scCtxstat 63 32 1) (returned s e key slot)) := by
    change execSwitchOut k s = _
    unfold execSwitchOut
    rw [hitem]
    refine (if_neg ?_).trans ((if_neg ?_).trans ?_)
    · rw [hst, hsw]
      simp
    · rw [hdrain, hsent]
      decide
    · rw [hslot]
      rfl
  obtain ⟨hcores, hdev, hhost⟩ := updLed_still s key fun x => { x with st := .dispatched, pcore := none, ran := runNs s e }
  have hregs : s1.regs = s.regs := updLed_regs _ _ _
  have hcore : ∀ j, s1.core j = s.core j := core_congr hcores
  have hat : s1.ledAt key = some { e with st := .dispatched, pcore := none, ran := runNs s e } := by
    rw [ledAt_updLed, if_pos rfl, hled]
    rfl
  obtain ⟨vc, vp, hq⟩ := joinQueue_eq (finc s3 Reg.scCtxstat 63 32 1) (returned s e key slot)
  rw [hq] at heq
  refine ⟨_, heq, ?_, Tab.find_insert_self _ _ _, ⟨_, hat, rfl, rfl, rfl⟩, ⟨_, List.mem_append_right _ (List.mem_singleton_self _), rfl, rfl⟩, ?_, ?_, ?_⟩
  · exact congrArg Core.item (State.core_updCore s1 k Core.idle)
  · exact (fget_finc_self s3 _ _ (by decide) (by decide)).trans (congrArg (satAdd 32 · 1) (fget_congr (t := s3) hregs _ _ _))
  · exact fun j hj => (State.core_updCore_other _ _ hj).trans (hcore j)
  · exact ⟨hdev, hhost⟩

/-! ### Restore -/

theorem arr_updArr_self (c : Core) (n : Nat) (f : Arr → Arr) : (c.updArr n f).arr n = f (c.arr n) := Tab.get_put_self _ _ _ _

theorem arr_updArr_other (c : Core) {n m : Nat} (f : Arr → Arr) (h : m ≠ n) : (c.updArr n f).arr m = c.arr m := Tab.get_put_other _ _ _ h

/-- A core that is warmed changes in the activity of its arrays alone. -/
theorem warm_spec (old c : Core) :
    (∀ n, n < 4 → (Core.warm old c).arr n = { c.arr n with level := (old.arr n).level, credit := (old.arr n).credit }) ∧
      ∃ arrs, Core.warm old c = { c with arrs := arrs } := by
  refine ⟨fun n hn => ?_, ?_⟩
  · have hcases : n = 0 ∨ n = 1 ∨ n = 2 ∨ n = 3 := by omega
    simp only [Core.warm, show List.range 4 = [0, 1, 2, 3] from rfl, List.foldl_cons, List.foldl_nil]
    rcases hcases with rfl | rfl | rfl | rfl <;> simp [arr_updArr_self, arr_updArr_other]
  · exact List.foldlRecOn (motive := fun u : Core => ∃ arrs, u = { c with arrs := arrs }) _ _ ⟨_, rfl⟩ fun u hu n _ => by
      obtain ⟨arrs, rfl⟩ := hu
      exact ⟨_, rfl⟩

/-- From `s` to `t` only cores, the die states and the trace change. -/
def Woken (s t : State) : Prop :=
  ∃ cores dieNap regs trFifo trDrop, t = { s with cores := cores, dieNap := dieNap, regs := regs, trFifo := trFifo, trDrop := trDrop }

theorem Woken.trans {s t u : State} (h : Woken s t) (g : Woken t u) : Woken s u := by
  obtain ⟨_, _, _, _, _, rfl⟩ := h
  obtain ⟨_, _, _, _, _, rfl⟩ := g
  exact ⟨_, _, _, _, _, rfl⟩

theorem Woken.led {s t : State} (h : Woken s t) : t.led = s.led := by
  obtain ⟨_, _, _, _, _, rfl⟩ := h
  rfl

theorem tracePut_woken (s : State) (src body typ : Nat) : Woken s (tracePut s src body typ) ∧ (tracePut s src body typ).cores = s.cores := by
  unfold tracePut
  dsimp only
  split
  · exact ⟨⟨_, _, _, _, _, rfl⟩, rfl⟩
  split
  · exact ⟨⟨_, _, _, _, _, rfl⟩, rfl⟩
  split
  · exact ⟨⟨_, _, _, _, _, rfl⟩, rfl⟩
  split
  · exact ⟨⟨_, _, _, _, _, rfl⟩, rfl⟩
  · exact ⟨⟨_, _, _, _, _, rfl⟩, rfl⟩

theorem wakeDie_woken (s : State) (d : Nat) : Woken s (wakeDie s d) ∧ (wakeDie s d).cores = s.cores := by
  unfold wakeDie
  split
  · obtain ⟨h, hc⟩ := tracePut_woken { s with dieNap := s.dieNap.filter fun x => x.val ≠ d } (144 + d)
      (3 * 2 ^ 108 + 0 * 2 ^ 104 + 1 * 2 ^ 100 + s.time.toNat) 2
    exact ⟨Woken.trans ⟨_, _, _, _, _, rfl⟩ h, hc⟩
  · exact ⟨⟨_, _, _, _, _, rfl⟩, rfl⟩

theorem wakeCore_woken (s : State) (k : Nat) : Woken s (wakeCore s k) ∧ ((wakeCore s k).core k).arrs = (s.core k).arrs := by
  have hsync : Woken s (traceSync (s.updCore k fun c => { c with power := .active }) k) ∧
      ((traceSync (s.updCore k fun c => { c with power := .active }) k).core k).arrs = (s.core k).arrs := by
    obtain ⟨h, hc⟩ := tracePut_woken (s.updCore k fun c => { c with power := .active }) k
      (fget (s.updCore k fun c => { c with power := .active }) (Reg.ckDie (if k < 144 then k / 18 else k - 144)) 31 16 * 2 ^ 96 + s.time.toNat) 1
    refine ⟨Woken.trans ⟨_, _, _, _, _, rfl⟩ h, ?_⟩
    rw [show (traceSync (s.updCore k fun c => { c with power := .active }) k).core k = _ from core_congr hc k, State.core_updCore]
  unfold wakeCore
  split
  · exact hsync
  · exact hsync
  · exact ⟨⟨_, _, _, _, _, rfl⟩, rfl⟩

/-- A core of the device is not the place of a tail. -/
theorem displace_woken (s : State) {k : Nat} (hk : k < 144) : Woken s (displace s k) ∧ (displace s k).core k = s.core k := by
  unfold displace
  split
  · exact ⟨⟨_, _, _, _, _, rfl⟩, State.core_setCore_other _ _ (by unfold tailSeat; omega)⟩
  · exact ⟨⟨_, _, _, _, _, rfl⟩, rfl⟩

/-- The ledger entry of an item that starts. -/
def running (s : State) (l : Nat) (e : Led) : Led :=
  { e with st := .running, pcore := some (fin 143 (physOf s l)), lcore := fin 127 l, start := s.time }

/-- The core's state for an item that starts, where `u` is the state in which the core has woken. -/
def seatedCore (s u : State) (key l : Nat) (c0 : Core) : Core :=
  { Core.warm (u.core (physOf s l)) { c0 with flight := (s.core (physOf s l)).flight.filterMap leftOver ++ c0.flight } with
    item := some key, power := (u.core (physOf s l)).power, switching := false }

theorem seatedCore_spec (s u : State) (key l : Nat) (c0 : Core) (harrs : (u.core (physOf s l)).arrs = (s.core (physOf s l)).arrs) :
    let c := seatedCore s u key l c0
    c.item = some key ∧ c.cmdIdx = c0.cmdIdx ∧ c.store = c0.store ∧ c.sems = c0.sems ∧ ∀ n, n < 4 → c.arr n = { c0.arr n with
      level := ((s.core (physOf s l)).arr n).level, credit := ((s.core (physOf s l)).arr n).credit } := by
  unfold seatedCore
  generalize u.core (physOf s l) = old at harrs ⊢
  generalize s.core (physOf s l) = c at harrs ⊢
  generalize hc1 : ({ c0 with flight := c.flight.filterMap leftOver ++ c0.flight } : Core) = c1
  obtain ⟨hwarm, arrs, hsame⟩ := warm_spec old c1
  have harr : ∀ n, n < 4 → (Core.warm old c1).arr n = { c0.arr n with level := (c.arr n).level, credit := (c.arr n).credit } := fun n hn => by
    rw [hwarm n hn, ← hc1]
    unfold Core.arr
    rw [harrs]
  have hrest : (Core.warm old c1).cmdIdx = c0.cmdIdx ∧ (Core.warm old c1).store = c0.store ∧ (Core.warm old c1).sems = c0.sems := by
    rw [hsame, ← hc1]
    exact ⟨rfl, rfl, rfl⟩
  generalize Core.warm old c1 = w at harr hrest ⊢
  obtain ⟨hidx, hstore, hsems⟩ := hrest
  exact ⟨rfl, hidx, hstore, hsems, harr⟩

/-- The state in which the item has started. -/
def seated (s u : State) (key l : Nat) (c0 : Core) : State :=
  (u.updLed key (running s l)).setCore (physOf s l) (seatedCore s u key l c0)

theorem seated_spec {s u : State} {key l : Nat} {c0 : Core} {e : Led} (he : u.ledAt key = some e) :
    (seated s u key l c0).ledAt key = some (running s l e) ∧ (seated s u key l c0).core (physOf s l) = seatedCore s u key l c0 := by
  refine ⟨?_, State.core_setCore _ _ _⟩
  change (u.updLed key (running s l)).ledAt key = _
  rw [ledAt_updLed, if_pos rfl, he]
  rfl

theorem seated_frame (s u : State) (key l : Nat) (c0 : Core) : ∃ led cores, seated s u key l c0 = { u with led := led, cores := cores } := by
  unfold seated State.updLed
  split
  · exact ⟨_, _, rfl⟩
  · exact ⟨_, _, rfl⟩

theorem traceItemStart_woken (s : State) (k : Nat) (e : Led) :
    Woken s (traceItemStart s k e) ∧ (traceItemStart s k e).cores = s.cores := by
  unfold traceItemStart
  split
  · exact tracePut_woken _ _ _ _
  · exact ⟨⟨_, _, _, _, _, rfl⟩, rfl⟩

/-- A start leaves the image on the core, whose arrays keep their activity, and the entry RUNNING there. -/
theorem startOn_spec {s : State} {key l : Nat} {e : Led} (c0 : Core) (he : s.ledAt key = some e) (hk : physOf s l < 144) :
    let t := startOn s key l c0
    (∃ led cores dieNap regs trFifo trDrop, t = { s with
      led := led, cores := cores, dieNap := dieNap, regs := regs, trFifo := trFifo, trDrop := trDrop }) ∧
    t.ledAt key = some (running s l e) ∧ (t.core (physOf s l)).item = some key ∧ (t.core (physOf s l)).cmdIdx = c0.cmdIdx ∧
    (t.core (physOf s l)).store = c0.store ∧ (t.core (physOf s l)).sems = c0.sems ∧
    ∀ n, n < 4 → (t.core (physOf s l)).arr n = { c0.arr n with
      level := ((s.core (physOf s l)).arr n).level, credit := ((s.core (physOf s l)).arr n).credit } := by
  obtain ⟨hd, hdc⟩ := displace_woken s hk
  obtain ⟨hw, hwc⟩ := wakeDie_woken (displace s (physOf s l)) (dieOf (physOf s l))
  obtain ⟨hv, hva⟩ := wakeCore_woken (wakeDie (displace s (physOf s l)) (dieOf (physOf s l))) (physOf s l)
  generalize hu : wakeCore (wakeDie (displace s (physOf s l)) (dieOf (physOf s l))) (physOf s l) = u at hv hva
  have hwoken : Woken s u := hd.trans (hw.trans hv)
  have harrs : (u.core (physOf s l)).arrs = (s.core (physOf s l)).arrs := by rw [hva, core_congr hwc, hdc]
  obtain ⟨hled, hcore⟩ := seated_spec (c0 := c0) (u := u) (l := l) (key := key) (e := e) (by rw [State.ledAt, hwoken.led]; exact he)
  have heq : startOn s key l c0 = traceItemStart (seated s u key l c0) (physOf s l) (running s l e) := by
    unfold startOn
    dsimp only
    rw [hu]
    change (match (seated s u key l c0).ledAt key with
      | some e => traceItemStart (seated s u key l c0) (physOf s l) e
      | none => seated s u key l c0) = _
    rw [hled]
  obtain ⟨ht, htc⟩ := traceItemStart_woken (seated s u key l c0) (physOf s l) (running s l e)
  have hframe : ∃ led cores, seated s u key l c0 = { u with led := led, cores := cores } := seated_frame s u key l c0
  rw [← heq] at ht htc
  clear heq
  generalize seated s u key l c0 = v at hled hcore ht htc hframe
  generalize startOn s key l c0 = t at ht htc
  have hat : t.core (physOf s l) = seatedCore s u key l c0 := (core_congr htc _).trans hcore
  obtain ⟨hitem, hidx, hstore, hsems, harr⟩ := seatedCore_spec s u key l c0 harrs
  generalize seatedCore s u key l c0 = c at hat hitem hidx hstore hsems harr
  generalize physOf s l = k at hat harr ⊢
  refine ⟨?_, ?_, hat ▸ hitem, hat ▸ hidx, hat ▸ hstore, hat ▸ hsems, hat ▸ harr⟩
  · obtain ⟨_, _, rfl⟩ := hframe
    obtain ⟨_, _, _, _, _, rfl⟩ := hwoken
    obtain ⟨_, _, _, _, _, rfl⟩ := ht
    exact ⟨_, _, _, _, _, _, rfl⟩
  · unfold State.ledAt
    rw [ht.led]
    exact hled

/-- No journalled tile of another item is fed. -/
theorem journalled_nil {s : State} {key : Nat} (h : ∀ j ∈ s.journal, j.led ≠ key) (e : Led) (r : Rcv) : journalled s key e r = [] := by
  unfold journalled
  refine List.filterMap_eq_nil_iff.mpr fun n _ => ?_
  rw [Option.map_eq_none_iff, List.find?_eq_none]
  intro j hj
  simp [h j hj]

/-- The state in which an image leaves its slot for a core. -/
def unsaved (s : State) (slot : Nat) (x : Ctx) : State :=
  ({ s with ctx := Tab.erase s.ctx slot, elig := s.elig.filter fun y => y.ledKey ≠ some x.led } : State).updLed x.led fun y => { y with
    passed := ((s.elig.find? fun y => y.ledKey == some x.led).map (·.passed)).getD y.passed }

theorem unsaved_spec {s : State} (slot : Nat) {x : Ctx} {e : Led} (he : s.ledAt x.led = some e) :
    (∃ passed, (unsaved s slot x).ledAt x.led = some { e with passed := passed }) ∧ (∀ l, physOf (unsaved s slot x) l = physOf s l) ∧
      ∃ led elig, unsaved s slot x = { s with ctx := Tab.erase s.ctx slot, elig := elig, led := led } := by
  refine ⟨⟨((s.elig.find? fun y => y.ledKey == some x.led).map (·.passed)).getD e.passed, ?_⟩,
    fun l => physOf_congr (updLed_regs _ _ _) l, ?_⟩
  · unfold unsaved
    rw [ledAt_updLed, if_pos rfl]
    exact congrArg (Option.map _) he
  · unfold unsaved State.updLed
    split
    · exact ⟨_, _, rfl⟩
    · exact ⟨_, _, rfl⟩

/-- With no tile journalled for the item, a restore is a start on its core. -/
theorem restoreCtx_eq {s : State} {slot l : Nat} {x : Ctx} {e : Led} (hx : Tab.find s.ctx slot = some x) (he : s.ledAt x.led = some e)
    (hk : physOf s l < 144) (hj : ∀ j ∈ s.journal, j.led ≠ x.led) :
    restoreCtx s slot l = startOn (unsaved s slot x) x.led l x.core := by
  obtain ⟨⟨passed, hs1⟩, hphys1, ⟨_, _, hframe1⟩⟩ := unsaved_spec slot he
  have hspec := startOn_spec (l := l) x.core hs1 (by rw [hphys1]; exact hk)
  have hjournal : (unsaved s slot x).journal = s.journal := by rw [hframe1]
  rw [hphys1] at hspec
  have heq : restoreCtx s slot l = commitItem (x.core.rcvs.foldl (fun t r => feedRcv x.led (physOf s l) r.id t (journalled t x.led e r))
      (startOn (unsaved s slot x) x.led l x.core)) (physOf s l) := by
    unfold restoreCtx
    rw [hx]
    dsimp only
    rw [he]
    rfl
  rw [heq]
  clear heq hs1 hphys1 hframe1
  generalize startOn (unsaved s slot x) x.led l x.core = t at hspec ⊢
  generalize unsaved s slot x = u at hspec hjournal
  obtain ⟨⟨_, _, _, _, _, _, hframe⟩, hled, hitem, -⟩ := hspec
  have htj : ∀ j ∈ t.journal, j.led ≠ x.led := by
    rw [hframe]
    exact hjournal ▸ hj
  have hfed : x.core.rcvs.foldl (fun t r => feedRcv x.led (physOf s l) r.id t (journalled t x.led e r)) t = t :=
    List.foldlRecOn (motive := fun u => u = t) _ _ rfl fun u hu r _ => by
      rw [hu, journalled_nil htj]
      rfl
  rw [hfed]
  refine commitItem_running (key := x.led) (e := running u l { e with passed := passed }) ?_ (by unfold running; simp)
  unfold itemOf
  rw [hitem]
  simp [hled]

theorem contextRestore_spec {s : State} {slot : Fin 128} {k : PCore} {l : Nat} {x : Ctx} {e : Led} (hx : Tab.find s.ctx slot.val = some x)
    (hl : logOf s k = some l) (he : s.ledAt x.led = some e) (hfree : coreFree s l = true) (hset : (workSet e.desc).contains l = true)
    (hrun : mayRun s e.inst = true) (hj : ∀ j ∈ s.journal, j.led ≠ x.led) :
    ∃ t, exec (.contextRestore slot k) s = .next t ∧ (t.core k).item = some x.led ∧ (t.core k).cmdIdx = x.core.cmdIdx ∧
      (t.core k).store = x.core.store ∧
      (∀ n, n < 4 → (t.core k).arr n = { x.core.arr n with level := ((s.core k).arr n).level, credit := ((s.core k).arr n).credit }) ∧
      (t.core k).sems = x.core.sems ∧ Tab.find t.ctx slot.val = none ∧
      (∃ e', t.ledAt x.led = some e' ∧ e'.st = .running ∧ e'.pcore = some k) ∧ sameMemory s t := by
  have hphys : physOf s l = k := by
    have h := List.find?_some hl
    rw [Bool.and_eq_true] at h
    exact beq_iff_eq.mp h.2
  obtain ⟨⟨passed, hs1⟩, hphys1, ⟨_, _, hframe1⟩⟩ := unsaved_spec slot.val he
  have heq : exec (.contextRestore slot k) s = .next (restoreCtx s slot.val l) := by
    change execContextRestore slot k s = _
    unfold execContextRestore
    rw [hx, hl]
    dsimp only
    rw [he]
    exact if_pos (by rw [hfree, hset, hrun]; rfl)
  have hk : physOf s l < 144 := by rw [hphys]; exact k.isLt
  have hspec := startOn_spec (l := l) x.core hs1 (by rw [hphys1]; exact hk)
  rw [hphys1, hphys] at hspec
  rw [restoreCtx_eq hx he hk hj] at heq
  generalize startOn (unsaved s slot.val x) x.led l x.core = t at hspec heq
  have hcore : ∀ j, (unsaved s slot.val x).core j = s.core j := by
    rw [hframe1]
    exact fun _ => rfl
  rw [hcore] at hspec
  obtain ⟨⟨_, _, _, _, _, _, hframe⟩, hled, hitem, hidx, hstore, hsems, harr⟩ := hspec
  rw [hframe1] at hframe
  refine ⟨t, heq, hitem, hidx, hstore, harr, hsems, ?_, ⟨_, hled, rfl, ?_⟩, ?_⟩
  · rw [hframe]
    exact Tab.find_erase_self _ _
  · unfold running
    rw [hphys1, hphys, fin_val]
  · rw [hframe]
    exact ⟨rfl, rfl⟩

/-! ### Boundaries -/

/-- The sequence of the next boundary. -/
def boundarySeq (s : State) (p : Part) : W32 := BitVec.ofNat 32 (fget s (Reg.adSwapstat p) 63 32 + 1)

theorem commitFixed_adSwapstat (p : Part) : commitFixed (Reg.adSwapstat p) := by
  refine ⟨fun j => ?_, fun j => ?_, ?_⟩
  · unfold Reg.adSwapstat Reg.mtEvents Reg.isViol Reg.qmDirtyctl
    omega
  · unfold Reg.adSwapstat Reg.lsState Reg.lsOutcomes
    omega
  · unfold Reg.adSwapstat
    omega

/-- Completing a swap leaves descriptors, partitions and every register that no completion changes. -/
theorem completeSwap_spec (s : State) (o : Op) (seq : Nat) :
    (completeSwap s o seq).descs = s.descs ∧ (completeSwap s o seq).parts = s.parts ∧
      ∀ off, postFixed off → rd (completeSwap s o seq) off = rd s off := by
  unfold completeSwap
  split
  · exact ⟨rfl, rfl, fun _ _ => rfl⟩
  · have h := (Posted.refl (s := s)).writeCompl (complOf o 0 seq)
    exact ⟨h.proj State.descs fun _ _ _ _ _ => rfl, h.proj State.parts fun _ _ _ _ _ => rfl, fun _ ho => h.rd ho⟩

/-- What a swap at a boundary leaves of its partition: the pending swaps and the sequence. -/
structure BoundaryKept (p : Part) (s t : State) : Prop where
  swaps : (t.part p).swaps = (s.part p).swaps
  seq : fget t (Reg.adSwapstat p) 63 32 = fget s (Reg.adSwapstat p) 63 32

theorem BoundaryKept.trans {p : Part} {s t u : State} (h : BoundaryKept p s t) (g : BoundaryKept p t u) : BoundaryKept p s u :=
  ⟨g.swaps.trans h.swaps, g.seq.trans h.seq⟩

/-- What keeps the partitions and the register keeps both. -/
theorem BoundaryKept.of {p : Part} {s t : State} (hp : t.parts = s.parts) (hr : rd t (Reg.adSwapstat p) = rd s (Reg.adSwapstat p)) :
    BoundaryKept p s t := by
  refine ⟨congrArg PartX.swaps (part_congr hp p), ?_⟩
  unfold fget
  rw [hr]

theorem applySwap_kept (p : Part) (seq : W32) (s : State) (t : Nat) (o : Op) : BoundaryKept p s (applySwap seq s t o) := by
  have hp := (commitFixed_adSwapstat p).1
  unfold applySwap
  dsimp only
  split
  · obtain ⟨-, hparts, hrd⟩ := completeSwap_spec (s.updDesc t fun x => { x with
      prevDir := (s.desc t).dir, prevPages := (s.desc t).pages, dir := (s.desc t).newDir, pages := (s.desc t).newPages,
      grad := (s.desc t).newGrad, len := (s.desc t).newLen, swapSeq := seq, newDir := 0, newGrad := 0, newPages := [], newLen := 0,
      gradDirty := false }) o seq.toNat
    exact .of hparts (hrd _ hp)
  · generalize hu : (zeroingPages s (s.desc t).newPages).updDesc t
      (fun x => { x with newDir := 0, newGrad := 0, newPages := [], newLen := 0 }) = u
    have h := completeOp_posted (finc u (Reg.adEvents (opPart u o)) 31 16 1) o 8 4
    have hpu : u.parts = s.parts := hu ▸ rfl
    have hru : rd u (Reg.adSwapstat p) = rd s (Reg.adSwapstat p) := hu ▸ rfl
    refine .of ((h.proj State.parts fun _ _ _ _ _ => rfl).trans hpu) ((h.rd hp).trans (.trans ?_ hru))
    exact rd_finc_other _ _ _ _ (by unfold Reg.adSwapstat Reg.adEvents; omega)

/-- An adapter's swap makes the new copy current and keeps the one before it. -/
theorem applySwap_desc {s : State} {t : Nat} (seq : W32) (o : Op) (hnew : (s.desc t).newDir ≠ 0)
    (hst : (s.desc t).st = .resident ∨ (s.desc t).st = .trainable) :
    (applySwap seq s t o).desc t = { s.desc t with
      prevDir := (s.desc t).dir, prevPages := (s.desc t).pages, dir := (s.desc t).newDir, pages := (s.desc t).newPages,
      grad := (s.desc t).newGrad, len := (s.desc t).newLen, swapSeq := seq, newDir := 0, newGrad := 0, newPages := [], newLen := 0,
      gradDirty := false } ∧ ∀ j, j ≠ t → (applySwap seq s t o).desc j = s.desc j := by
  unfold applySwap
  dsimp only
  rw [if_pos ⟨hnew, by rcases hst with h | h <;> simp [h]⟩]
  obtain ⟨hdescs, -⟩ := completeSwap_spec (s.updDesc t fun x => { x with
    prevDir := (s.desc t).dir, prevPages := (s.desc t).pages, dir := (s.desc t).newDir, pages := (s.desc t).newPages,
    grad := (s.desc t).newGrad, len := (s.desc t).newLen, swapSeq := seq, newDir := 0, newGrad := 0, newPages := [], newLen := 0,
    gradDirty := false }) o seq.toNat
  exact ⟨(desc_congr hdescs t).trans (State.desc_setDesc _ _ _), fun j hj =>
    (desc_congr hdescs j).trans (State.desc_setDesc_other _ _ hj)⟩

/-- A base swap makes the built copy current, beside the one before it. -/
theorem applyBase_spec {s : State} {p : Part} {c : BaseCopy} (hb : (s.part p).built = some c) (seq : W32) (o : Op) :
    (applyBase seq s p o).part p = { s.part p with prev := (s.part p).cur, cur := some c, built := none, curSeq := seq } ∧
      rd (applyBase seq s p o) (Reg.adBasefp p) = c.fp.toNat ∧
      rd (applyBase seq s p o) (Reg.adSwapstat p) = rd s (Reg.adSwapstat p) := by
  have hne : Reg.adSwapstat p ≠ Reg.adBasefp p := by unfold Reg.adSwapstat Reg.adBasefp; omega
  have hcut : PartsKept s (if (s.descs.any fun kv => kv.2.st == .trainable && partOf s kv.2.inst == some p.val) then
      (openSteps s p).foldl (fun t n => refuseStep t p n) s else s) := by
    split
    · exact List.foldlRecOn (motive := PartsKept s) _ _ ⟨rfl, .of_regs rfl⟩ fun u hu n _ => hu.trans (refuseStep_kept u p n)
    · exact ⟨rfl, .of_regs rfl⟩
  unfold applyBase
  rw [hb]
  dsimp only
  generalize (if (s.descs.any fun kv => kv.2.st == .trainable && partOf s kv.2.inst == some p.val) then
      (openSteps s p).foldl (fun t n => refuseStep t p n) s else s) = s1 at hcut ⊢
  generalize hs3 : (s1.updPart p fun x => { x with prev := x.cur, cur := some c, built := none, curSeq := seq }).setReg
    (Reg.adBasefp p) c.fp.toNat = s3
  have hpart : s3.part p = { s.part p with prev := (s.part p).cur, cur := some c, built := none, curSeq := seq } := by
    rw [← hs3, part_congr (State.setReg_parts _ _ _), State.part_updPart, part_congr hcut.parts]
  have hfp : rd s3 (Reg.adBasefp p) = c.fp.toNat := by
    rw [← hs3, rd_setReg_self, Nat.mod_eq_of_lt c.fp.isLt]
  have hstat : rd s3 (Reg.adSwapstat p) = rd s (Reg.adSwapstat p) := by
    rw [← hs3, rd_setReg_other _ _ hne]
    exact hcut.regs.fixed _ (commitFixed_adSwapstat p)
  split
  · obtain ⟨hparts, hrd⟩ := completeBaseOp_spec s3 o p seq.toNat
    exact ⟨(part_congr hparts p).trans hpart, (hrd _ (postFixed_adBasefp p)).trans hfp, (hrd _ (commitFixed_adSwapstat p).1).trans hstat⟩
  · have h := (Posted.refl (s := s3)).writeCompl (complOf o 0 seq.toNat)
    exact ⟨(h.part p).trans hpart, (h.rd (postFixed_adBasefp p)).trans hfp, (h.rd (commitFixed_adSwapstat p).1).trans hstat⟩

theorem applyBase_kept (p : Part) (seq : W32) (s : State) (o : Op) : BoundaryKept p s (applyBase seq s p o) := by
  cases hb : (s.part p).built with
  | none =>
    have h := (Posted.refl (s := s)).writeCompl (complOf o 8 4)
    have heq : applyBase seq s p o = writeCompl s (complOf o 8 4) := by
      unfold applyBase
      rw [hb]
    rw [heq]
    exact .of (h.proj State.parts fun _ _ _ _ _ => rfl) (h.rd (commitFixed_adSwapstat p).1)
  | some c =>
    obtain ⟨hpart, -, hstat⟩ := applyBase_spec hb seq o
    refine ⟨by rw [hpart], ?_⟩
    unfold fget
    rw [hstat]

/-- One pending swap of a boundary. -/
def applyPending (seq : W32) (p : Part) (t : State) (x : TagRec × Op) : State :=
  match x.1 with
  | some g => applySwap seq t g.toNat x.2
  | none => applyBase seq t p x.2

/-- The state in which a boundary's swaps apply: none is pending and the sequence has counted. -/
def atBoundary (s : State) (p : Part) : State :=
  fset (s.updPart p fun x => { x with swaps := [] }) (Reg.adSwapstat p) 63 32 (boundarySeq s p).toNat

theorem microbatchBoundary_eq {s : State} {p : Part} (h : (s.part p).swaps ≠ []) :
    exec (.microbatchBoundary p) s =
      .next (markSwaps ((s.part p).swaps.foldl (applyPending (boundarySeq s p) p) (atBoundary s p)) p) := by
  change execMicrobatchBoundary p s = _
  unfold execMicrobatchBoundary
  refine (if_neg (by simpa using h)).trans ?_
  rfl

theorem atBoundary_spec (s : State) (p : Part) :
    (atBoundary s p).part p = { s.part p with swaps := [] } ∧ (atBoundary s p).descs = s.descs ∧
      fget (atBoundary s p) (Reg.adSwapstat p) 63 32 = (fget s (Reg.adSwapstat p) 63 32 + 1) % 2 ^ 32 := by
  refine ⟨(part_congr (State.setReg_parts _ _ _) p).trans (State.part_updPart _ _ _), rfl, ?_⟩
  unfold atBoundary boundarySeq
  rw [fget_fset_self _ _ _ (by decide) (by decide), BitVec.toNat_ofNat, Nat.mod_mod]

theorem fbit_markSwaps {s : State} {p : Nat} (h : (s.part p).swaps = []) : fbit (markSwaps s p) (Reg.adSwapstat p) 31 = false := by
  unfold markSwaps
  rw [fbit_fset_self _ _ _ (by decide), h]
  rfl

theorem fget_markSwaps (s : State) (p : Nat) : fget (markSwaps s p) (Reg.adSwapstat p) 63 32 = fget s (Reg.adSwapstat p) 63 32 :=
  fget_fset_field _ _ _ (by decide) (by decide) (by decide) (by decide)

theorem microbatchBoundary_spec {s : State} {p : Part} (h : (s.part p).swaps ≠ []) :
    ∃ t, exec (.microbatchBoundary p) s = .next t ∧ (t.part p).swaps = [] ∧
      fget t (Reg.adSwapstat p) 63 32 = (fget s (Reg.adSwapstat p) 63 32 + 1) % 2 ^ 32 ∧ fbit t (Reg.adSwapstat p) 31 = false := by
  obtain ⟨hpart, -, hseq⟩ := atBoundary_spec s p
  have hkept : BoundaryKept p (atBoundary s p) ((s.part p).swaps.foldl (applyPending (boundarySeq s p) p) (atBoundary s p)) :=
    List.foldlRecOn (motive := BoundaryKept p (atBoundary s p)) _ _ ⟨rfl, rfl⟩ fun u hu x _ => hu.trans (by
      unfold applyPending
      split
      · exact applySwap_kept _ _ _ _ _
      · exact applyBase_kept _ _ _ _)
  rw [microbatchBoundary_eq h]
  generalize (s.part p).swaps.foldl (applyPending (boundarySeq s p) p) (atBoundary s p) = u at hkept
  have hnone : (u.part p).swaps = [] := hkept.swaps.trans (congrArg PartX.swaps hpart)
  exact ⟨_, rfl, hnone, (fget_markSwaps u p).trans (hkept.seq.trans hseq), fbit_markSwaps hnone⟩

theorem boundaryAdapter_spec {s : State} {p : Part} {g : Tag} {o : Op} (hs : (s.part p).swaps = [(some g, o)])
    (hnew : (s.desc g.toNat).newDir ≠ 0) (hst : (s.desc g.toNat).st = .resident ∨ (s.desc g.toNat).st = .trainable) :
    ∃ t, exec (.microbatchBoundary p) s = .next t ∧
      t.desc g.toNat = { s.desc g.toNat with
        prevDir := (s.desc g.toNat).dir, prevPages := (s.desc g.toNat).pages, dir := (s.desc g.toNat).newDir,
        pages := (s.desc g.toNat).newPages, grad := (s.desc g.toNat).newGrad, len := (s.desc g.toNat).newLen,
        swapSeq := boundarySeq s p, newDir := 0, newGrad := 0, newPages := [], newLen := 0, gradDirty := false } ∧
      ∀ j, j ≠ g.toNat → t.desc j = s.desc j := by
  have hdesc : ∀ j, (atBoundary s p).desc j = s.desc j := fun j => desc_congr (atBoundary_spec s p).2.1 j
  have heq : exec (.microbatchBoundary p) s = .next (markSwaps (applySwap (boundarySeq s p) (atBoundary s p) g.toNat o) p) := by
    rw [microbatchBoundary_eq (by rw [hs]; simp), hs]
    rfl
  obtain ⟨hself, hother⟩ := applySwap_desc (boundarySeq s p) o (by rw [hdesc]; exact hnew) (by rw [hdesc]; exact hst)
  rw [hdesc] at hself
  generalize applySwap (boundarySeq s p) (atBoundary s p) g.toNat o = u at heq hself hother
  refine ⟨_, heq, hself, fun j hj => (hother j hj).trans (hdesc j)⟩

theorem boundaryBase_spec {s : State} {p : Part} {c : BaseCopy} {o : Op} (hs : (s.part p).swaps = [(none, o)])
    (hb : (s.part p).built = some c) :
    ∃ t, exec (.microbatchBoundary p) s = .next t ∧ (t.part p).cur = some c ∧ (t.part p).prev = (s.part p).cur ∧
      (t.part p).built = none ∧ rd t (Reg.adBasefp p) = c.fp.toNat := by
  have hpart : (atBoundary s p).part p = { s.part p with swaps := [] } := (atBoundary_spec s p).1
  have heq : exec (.microbatchBoundary p) s = .next (markSwaps (applyBase (boundarySeq s p) (atBoundary s p) p o) p) := by
    rw [microbatchBoundary_eq (by rw [hs]; simp), hs]
    rfl
  obtain ⟨hself, hfp, -⟩ := applyBase_spec (s := atBoundary s p) (by rw [hpart]; exact hb) (boundarySeq s p) o
  rw [hpart] at hself
  generalize applyBase (boundarySeq s p) (atBoundary s p) p o = u at heq hself hfp
  have hmark : (markSwaps u p).part p = u.part p := part_congr (State.setReg_parts _ _ _) p
  rw [hself] at hmark
  refine ⟨_, heq, by rw [hmark], by rw [hmark], by rw [hmark], ?_⟩
  rw [← hfp]
  exact rd_fset_other _ _ _ _ (by unfold Reg.adSwapstat Reg.adBasefp; omega)

/-! ### Old copies -/

theorem ruleChange_frame (s : State) (i : Nat) :
    (ruleChange s i).descs = s.descs ∧ (ruleChange s i).pages = s.pages ∧ sameMemory s (ruleChange s i) := ⟨rfl, rfl, rfl, rfl⟩

theorem ruleChangePart_frame (s : State) (p : Nat) : (ruleChangePart s p).pages = s.pages ∧ sameMemory s (ruleChangePart s p) := by
  unfold ruleChangePart
  exact ⟨foldl_proj State.pages (f := ruleChange) (fun _ _ => rfl) _ _, foldl_proj State.dev (f := ruleChange) (fun _ _ => rfl) _ _,
    foldl_proj State.host (f := ruleChange) (fun _ _ => rfl) _ _⟩

theorem prevdirRelease_spec {s : State} {p : Part} {g : Tag} (hd : (s.desc g.toNat).prevDir ≠ 0)
    (hp : partOf s (s.desc g.toNat).inst = some p.val) (hheld : heldBefore s p (s.desc g.toNat).swapSeq = false)
    (hb : ruleBusy s (s.desc g.toNat).inst = false) :
    ∃ t, exec (.prevdirRelease p (some g)) s = .next t ∧ (t.desc g.toNat).prevDir = 0 ∧ (t.desc g.toNat).prevPages = [] ∧
      (t.desc g.toNat).dir = (s.desc g.toNat).dir ∧ (∀ n ∈ (s.desc g.toNat).prevPages, (t.page n).kind = .zeroing) ∧
      (∀ n, n ∉ (s.desc g.toNat).prevPages → t.page n = s.page n) ∧ ruleBusy t (s.desc g.toNat).inst = true ∧ sameMemory s t := by
  have hz := page_zeroingPages s (s.desc g.toNat).prevPages
  generalize hu : (zeroingPages s (s.desc g.toNat).prevPages).updDesc g.toNat (fun x => { x with prevDir := 0, prevPages := [] }) = u
  have heq : exec (.prevdirRelease p (some g)) s = .next (ruleChange u (s.desc g.toNat).inst) := by
    change execPrevdirRelease p (some g) s = _
    unfold execPrevdirRelease
    dsimp only
    rw [hu]
    exact if_neg (by simp [hd, hp, hheld, hb])
  have hpages : u.pages = (zeroingPages s (s.desc g.toNat).prevPages).pages := hu ▸ rfl
  have hdesc : u.desc g.toNat = { s.desc g.toNat with prevDir := 0, prevPages := [] } := hu ▸ State.desc_setDesc _ _ _
  have hmem : sameMemory s u := hu ▸ ⟨rfl, rfl⟩
  obtain ⟨hrd, hrp, hrm⟩ := ruleChange_frame u (s.desc g.toNat).inst
  refine ⟨_, heq, ?_, ?_, ?_, fun n hn => ?_, fun n hn => ?_, ruleBusy_ruleChange _ _, hmem.1.symm ▸ hrm.1, hmem.2.symm ▸ hrm.2⟩
  · rw [desc_congr hrd, hdesc]
  · rw [desc_congr hrd, hdesc]
  · rw [desc_congr hrd, hdesc]
  · rw [page_congr (hrp.trans hpages)]
    exact (hz n).2 hn
  · rw [page_congr (hrp.trans hpages)]
    exact (hz n).1 hn

theorem prevBaseRelease_spec {s : State} {p : Part} {c : BaseCopy} (hc : (s.part p).prev = some c)
    (hheld : heldBefore s p (s.part p).curSeq = false) (hb : ruleBusyPart s p = false) :
    ∃ t, exec (.prevdirRelease p none) s = .next t ∧ (t.part p).prev = none ∧ (t.part p).cur = (s.part p).cur ∧
      (∀ n ∈ c.pages, (t.page n).kind = .zeroing) ∧ (∀ n, n ∉ c.pages → t.page n = s.page n) ∧ sameMemory s t := by
  have hz := page_zeroingPages s c.pages
  generalize hu : (zeroingPages s c.pages).updPart p (fun x => { x with prev := none }) = u
  have heq : exec (.prevdirRelease p none) s = .next (ruleChangePart u p) := by
    change execPrevdirRelease p none s = _
    unfold execPrevdirRelease
    dsimp only
    rw [hc]
    dsimp only
    rw [hu]
    exact if_neg (by simp [hheld, hb])
  have hpages : u.pages = (zeroingPages s c.pages).pages := hu ▸ rfl
  have hpart : u.part p = { s.part p with prev := none } := hu ▸ State.part_updPart _ _ _
  have hmem : sameMemory s u := hu ▸ ⟨rfl, rfl⟩
  obtain ⟨hrp, hrm⟩ := ruleChangePart_frame u p
  have hpart' := (part_congr (ruleChangePart_parts u p) p).trans hpart
  refine ⟨_, heq, by rw [hpart'], by rw [hpart'], fun n hn => ?_, fun n hn => ?_, hmem.1.symm ▸ hrm.1, hmem.2.symm ▸ hrm.2⟩
  · rw [page_congr (hrp.trans hpages)]
    exact (hz n).2 hn
  · rw [page_congr (hrp.trans hpages)]
    exact (hz n).1 hn

/-- Settles O28: preemption, the context switch, the boundary's swaps and the release of old copies. -/
theorem switchAndBoundary : Obligations.SwitchAndBoundary :=
  ⟨⟨fun _ _ _ _ hp hm hx => preempt_spec hp hm hx,
    fun _ _ _ _ _ hitem hst hsw hdrain hsent hslot => switchOut_spec hitem hst hsw hdrain hsent hslot,
    fun _ _ _ _ _ _ hx hl he hfree hset hrun hj => contextRestore_spec hx hl he hfree hset hrun hj⟩,
   fun _ _ => ⟨microbatchBoundary_spec, fun _ _ hs hnew hst => boundaryAdapter_spec hs hnew hst, fun _ _ hs hb => boundaryBase_spec hs hb,
    fun _ hd hp hheld hb => prevdirRelease_spec hd hp hheld hb, fun _ hc hheld hb => prevBaseRelease_spec hc hheld hb⟩⟩

end Sys2Proof.Proofs
end

section
/-! PROOFS. Plain register writes by software: what a writable field takes, and what a write leaves (R9 to R13). -/

namespace Sys2Proof.Proofs
open Sys2Proof.Machine

/-! ### Bits -/

theorem bit_eq_testBit (w b : Nat) : bit w b = w.testBit b := by
  rw [bit, Nat.testBit_eq_decide_div_mod_eq]
  rfl

theorem bit_toNat {n : Nat} (v : BitVec n) (b : Nat) : bit v.toNat b = v.getLsbD b := bit_eq_testBit _ _

/-! ### What a write leaves -/

theorem rd_congr {s t : State} (h : t.regs = s.regs) (off : Nat) : rd t off = rd s off := by
  unfold rd
  rw [h]

theorem written_congr {s t : State} (h : t.regs = s.regs) (off : Nat) : written t off = written s off := by
  unfold written
  rw [h]

theorem written_setReg_other (s : State) {off off' : Nat} (v : Nat) (h : off' ≠ off) : written (s.setReg off v) off' = written s off' := by
  unfold written State.setReg
  rw [Tab.find_insert_other _ _ h]

theorem written_fset_other (s : State) {off off' : Nat} (hi lo v : Nat) (h : off' ≠ off) : written (fset s off hi lo v) off' = written s off' :=
  written_setReg_other s _ h

theorem regWritePlain_eq (s : State) (off v : Nat) : regWritePlain s off v = s ∨ ∃ w, regWritePlain s off v = s.setReg off w := by
  unfold regWritePlain
  split
  · exact .inr ⟨_, rfl⟩
  · exact .inl rfl

theorem regWritePlain_frame (s : State) (off v : Nat) : ∃ regs, regWritePlain s off v = { s with regs := regs } := by
  rcases regWritePlain_eq s off v with h | ⟨w, h⟩
  · exact ⟨s.regs, h⟩
  · exact ⟨_, h⟩

theorem rd_regWritePlain_other (s : State) {off off' : Nat} (v : Nat) (h : off' ≠ off) : rd (regWritePlain s off v) off' = rd s off' := by
  rcases regWritePlain_eq s off v with he | ⟨w, he⟩
  · rw [he]
  · rw [he, rd_setReg_other _ _ h]

theorem fget_regWritePlain_other (s : State) {off off' : Nat} (v hi lo : Nat) (h : off' ≠ off) :
    fget (regWritePlain s off v) off' hi lo = fget s off' hi lo := by
  unfold fget
  rw [rd_regWritePlain_other s v h]

theorem fbit_regWritePlain_other (s : State) {off off' : Nat} (v b : Nat) (h : off' ≠ off) :
    fbit (regWritePlain s off v) off' b = fbit s off' b := by
  unfold fbit
  rw [rd_regWritePlain_other s v h]

theorem written_regWritePlain_other (s : State) {off off' : Nat} (v : Nat) (h : off' ≠ off) :
    written (regWritePlain s off v) off' = written s off' := by
  rcases regWritePlain_eq s off v with he | ⟨w, he⟩
  · rw [he]
  · rw [he, written_setReg_other _ _ h]

/-! ### What a field takes -/

/-- A field that a write does not touch: read-only, or apart from hi to lo. -/
def apart (hi lo : Nat) (f : Fld) : Bool := f.acc == .ro || decide (f.lo ≤ f.hi + 1 ∧ (f.hi < lo ∨ hi < f.lo))

/-- The fields hold one of access `acc` at hi to lo, and none after it that overlaps. -/
def holdsField (acc : Acc9) (hi lo : Nat) : List Fld → Bool
  | [] => false
  | f :: fs => holdsField acc hi lo fs || (f.acc == acc && f.hi == hi && f.lo == lo && fs.all (apart hi lo))

/-- The register at an offset has a field of access `acc` at hi to lo. -/
def hasField (acc : Acc9) (off hi lo : Nat) : Bool := (regRow off).any fun r => holdsField acc hi lo r.1.flds

theorem bits_fieldWrites_apart (se wr : Bool) (v : Nat) {hi lo : Nat} (ho : lo ≤ hi + 1) {l : List Fld} (h : l.all (apart hi lo) = true)
    (w : Nat) : bits (l.foldl (fun w f => fieldWrite se wr w v f) w) hi lo = bits w hi lo :=
  bits_fieldWrites se wr v ho l w fun f hf => by simpa [apart] using List.all_eq_true.mp h f hf

/-- A field that software writes takes what is written. -/
theorem bits_fieldWrites_rw (se wr : Bool) (v : Nat) {hi lo : Nat} (ho : lo ≤ hi + 1) : ∀ (l : List Fld) (w : Nat),
    holdsField .rw hi lo l = true → bits (l.foldl (fun w f => fieldWrite se wr w v f) w) hi lo = bits v hi lo
  | [], _, h => by simp [holdsField] at h
  | f :: l, w, h => by
    rw [List.foldl_cons]
    simp only [holdsField, Bool.or_eq_true, Bool.and_eq_true, beq_iff_eq] at h
    rcases h with h | ⟨⟨⟨hacc, hhi⟩, hlo⟩, hrest⟩
    · exact bits_fieldWrites_rw se wr v ho l _ h
    · rw [bits_fieldWrites_apart se wr v ho hrest, fieldWrite, hacc]
      dsimp only
      rw [hhi, hlo, bits_setBits_self, Nat.mod_eq_of_lt (bits_lt _ _ _)]

theorem fget_regWritePlain_rw {off hi lo : Nat} (h : hasField .rw off hi lo = true) (hh : hi < 64) (ho : lo ≤ hi + 1) (s : State) (v : Nat) :
    fget (regWritePlain s off v) off hi lo = bits v hi lo := by
  unfold hasField at h
  unfold regWritePlain
  cases hr : regRow off with
  | none => simp [hr] at h
  | some r =>
    rw [hr] at h
    obtain ⟨r, i⟩ := r
    dsimp only
    rw [fget_setReg_self _ _ _ hh ho]
    exact bits_fieldWrites_rw _ _ v ho _ _ h

theorem fbit_regWritePlain_rw {off b : Nat} (h : hasField .rw off b b = true) (hb : b < 64) (s : State) (v : Nat) :
    fbit (regWritePlain s off v) off b = bit v b := by
  rw [fbit_eq_fget, fget_regWritePlain_rw h hb (by omega), bit_eq_bits]

end Sys2Proof.Proofs
end

section
/-! PROOFS. The loss-scale context and its overflow flags: O29. -/

namespace Sys2Proof.Proofs
open Sys2Proof.Machine

/-! ### LS_CTL -/

theorem hasField_lsEn (p : Part) : hasField .rw (Reg.lsCtl p) 31 31 = true := by
  decide +kernel +revert

theorem hasField_lsInitexp (p : Part) : hasField .rw (Reg.lsCtl p) 21 16 = true := by
  decide +kernel +revert

theorem lsState_ne_lsCtl (p : Part) : Reg.lsState p ≠ Reg.lsCtl p := by
  unfold Reg.lsState Reg.lsCtl
  omega

/-- EXP as it is stored reads back. -/
theorem ofNat_ofInt6 {x : Int} (h : -24 ≤ x) (h' : x ≤ 24) : (BitVec.ofNat 6 ((BitVec.ofInt 6 x).toNat % 2 ^ 6)).toInt = x := by
  rw [Nat.mod_eq_of_lt (BitVec.isLt _), BitVec.ofNat_toNat, BitVec.setWidth_eq, BitVec.toInt_ofInt]
  exact Int.bmod_eq_of_le (by omega) (by omega)

/-- EXP is set to a value within its clamp, and the rest of LS_STATE stays. -/
theorem setExp_spec (s : State) (p : Nat) {x : Int} (h : -24 ≤ x) (h' : x ≤ 24) :
    ctxExp (setExp s p x) p = x ∧ fget (setExp s p x) (Reg.lsState p) 63 32 = fget s (Reg.lsState p) 63 32 := by
  refine ⟨?_, fget_fset_field _ _ _ (by decide) (by decide) (by decide) (by decide)⟩
  unfold ctxExp setExp
  rw [fget_fset_self _ _ _ (by decide) (by decide)]
  exact ofNat_ofInt6 h h'

theorem ctxExp_fset {s : State} {p hi lo v : Nat} (h1 : lo ≤ hi + 1) (h2 : hi < 64) (hd : hi < 26 ∨ 31 < lo) :
    ctxExp (fset s (Reg.lsState p) hi lo v) p = ctxExp s p := by
  unfold ctxExp
  rw [fget_fset_field _ _ _ h1 (by decide) (by decide) (by omega)]

/-- The scale block of step n is published where it is placed, and nowhere else. -/
theorem publishScale_spec (s : State) (p : Nat) (n v : W32) :
    (publishScale s p n v).regs = s.regs ∧ (publishScale s p n v).host = s.host ∧ ((publishScale s p n v).lsc p).gen = n ∧
      (written s (Reg.lsBlock p) = false → (publishScale s p n v).dev = s.dev) ∧
      (written s (Reg.lsBlock p) = true → (publishScale s p n v).dev =
        Memory.write s.dev (fget s (Reg.lsBlock p) 47 7 * 128 + 64 * (n.toNat % 2)) (leBytes 64 v.toNat)) := by
  have hwr : written (s.setLsc p { s.lsc p with gen := n }) (Reg.lsBlock p) = written s (Reg.lsBlock p) := rfl
  have hgen : ((s.setLsc p { s.lsc p with gen := n }).lsc p).gen = n := congrArg LsCtx.gen (State.lsc_setLsc _ _ _)
  unfold publishScale
  dsimp only
  rw [hwr]
  cases written s (Reg.lsBlock p) with
  | true => exact ⟨rfl, rfl, hgen, fun h => absurd h (by decide), fun _ => rfl⟩
  | false => exact ⟨rfl, rfl, hgen, fun _ => rfl, fun h => absurd h (by decide)⟩

/-- The context at its start (R141): EXP the clamped INITEXP, CLEAN 0, STEP the one before FIRST, TN_WARM 0. -/
def startedLs (s : State) (p : Nat) (first : W32) : State :=
  let u := fset (fset (setExp s p (initExp s p)) (Reg.lsState p) 15 0 0) (Reg.lsState p) 63 32 (first - 1#32).toNat
  forgetSteps (u.setReg (Reg.tnWarm p) 0) p

theorem initExp_clamped (s : State) (p : Nat) : -24 ≤ initExp s p ∧ initExp s p ≤ 24 := by
  unfold initExp
  omega

theorem startedLs_spec (s : State) (p : Part) (first : W32) :
    ctxExp (startedLs s p first) p = initExp s p ∧ fget (startedLs s p first) (Reg.lsState p) 15 0 = 0 ∧
      ctxStep (startedLs s p first) p = first - 1#32 ∧ rd (startedLs s p first) (Reg.tnWarm p) = 0 ∧
      (∀ off, off ≠ Reg.lsState p → off ≠ Reg.tnWarm p →
        rd (startedLs s p first) off = rd s off ∧ written (startedLs s p first) off = written s off) ∧ sameMemory s (startedLs s p first) := by
  obtain ⟨hlo, hhi⟩ := initExp_clamped s p
  obtain ⟨hexp, -⟩ := setExp_spec s p hlo hhi
  have hwarm : Reg.lsState p ≠ Reg.tnWarm p := by unfold Reg.lsState Reg.tnWarm; omega
  generalize hu1 : setExp s p (initExp s p) = u1 at hexp
  generalize hu2 : fset u1 (Reg.lsState p) 15 0 0 = u2
  generalize hu3 : fset u2 (Reg.lsState p) 63 32 (first - 1#32).toNat = u3
  have hst : startedLs s p first = forgetSteps (u3.setReg (Reg.tnWarm p) 0) p := by
    rw [← hu3, ← hu2, ← hu1]
    rfl
  have hregs : (startedLs s p first).regs = (u3.setReg (Reg.tnWarm p) 0).regs := by rw [hst]; rfl
  have hstate : ∀ hi lo, fget (startedLs s p first) (Reg.lsState p) hi lo = fget u3 (Reg.lsState p) hi lo := fun hi lo =>
    (fget_congr hregs _ _ _).trans (fget_setReg_other _ _ _ _ hwarm)
  have hexp3 : ctxExp u3 p = initExp s p := by
    rw [← hu3, ctxExp_fset (by decide) (by decide) (by decide), ← hu2, ctxExp_fset (by decide) (by decide) (by decide), hexp]
  refine ⟨?_, ?_, ?_, ?_, fun off h1 h2 => ⟨?_, ?_⟩, ?_⟩
  · rw [← hexp3]
    unfold ctxExp
    rw [hstate]
  · rw [hstate, ← hu3, fget_fset_field _ _ _ (by decide) (by decide) (by decide) (by decide), ← hu2,
      fget_fset_self _ _ _ (by decide) (by decide)]
    rfl
  · unfold ctxStep
    rw [hstate, ← hu3, fget_fset_self _ _ _ (by decide) (by decide), Nat.mod_eq_of_lt (BitVec.isLt _), BitVec.ofNat_toNat,
      BitVec.setWidth_eq]
  · rw [rd_congr hregs, rd_setReg_self]
    rfl
  · rw [rd_congr hregs, rd_setReg_other _ _ h2, ← hu3, rd_fset_other _ _ _ _ h1, ← hu2, rd_fset_other _ _ _ _ h1, ← hu1]
    exact rd_fset_other _ _ _ _ h1
  · rw [written_congr hregs, written_setReg_other _ _ h2, ← hu3, written_fset_other _ _ _ _ h1, ← hu2, written_fset_other _ _ _ _ h1, ← hu1]
    exact written_fset_other _ _ _ _ h1
  · rw [hst, ← hu3, ← hu2, ← hu1]
    exact ⟨rfl, rfl⟩

theorem writeLsCtl_on {s : State} {p : Part} {v : Nat} (hoff : lsOn s p = false) (hv : bit v 31 = true) :
    writeLsCtl s p v =
      let s1 := regWritePlain s (Reg.lsCtl p) v
      let first : W32 := BitVec.ofNat 32 (fget s1 (Reg.lsStart p) 31 0)
      publishScale (startedLs s1 p first) p first (pow2F (initExp s1 p)) := by
  have hon : lsOn (regWritePlain s (Reg.lsCtl p) v) p = true := (fbit_regWritePlain_rw (hasField_lsEn p) (by decide) s v).trans hv
  unfold writeLsCtl
  exact if_pos (by rw [hon, hoff]; rfl)

theorem writeLsCtl_off {s : State} {p : Part} {v : Nat} (hv : bit v 31 = false) :
    writeLsCtl s p v = fset (setExp (regWritePlain s (Reg.lsCtl p) v) p 0) (Reg.lsState p) 15 0 0 := by
  have hoff : lsOn (regWritePlain s (Reg.lsCtl p) v) p = false := (fbit_regWritePlain_rw (hasField_lsEn p) (by decide) s v).trans hv
  unfold writeLsCtl
  exact (if_neg (by rw [hoff]; simp)).trans (if_neg (by rw [hoff]; decide))

theorem lsEnable_starts {s : State} {p : Part} {v : W32} (hr : reachable s = true) (hoff : lsOn s p = false) (hv : v.getLsbD 31 = true) :
    let x : Int := max (-24) (min 24 (BitVec.ofNat 6 (bits v.toNat 21 16)).toInt)
    let first := fget s (Reg.lsStart p) 31 0
    let a := fget s (Reg.lsBlock p) 47 7 * 128 + 64 * (first % 2)
    ∃ t, exec (.lsEnable p v) s = .next t ∧ lsOn t p = true ∧ ctxExp t p = x ∧ fget t (Reg.lsState p) 15 0 = 0 ∧
      ctxStep t p = BitVec.ofNat 32 first - 1#32 ∧ rd t (Reg.tnWarm p) = 0 ∧ (t.lsc p).gen = BitVec.ofNat 32 first ∧ t.host = s.host ∧
      (written s (Reg.lsBlock p) = false → t.dev = s.dev) ∧
      (written s (Reg.lsBlock p) = true → Memory.read t.dev a 64 = leBytes 64 (pow2F x).toNat ∧
        ∀ b, (b < a ∨ a + 64 ≤ b) → Memory.get t.dev b = Memory.get s.dev b) := by
  intro x first a
  have hne : Reg.lsCtl p ≠ Reg.lsState p ∧ Reg.lsCtl p ≠ Reg.tnWarm p ∧ Reg.lsBlock p ≠ Reg.lsState p ∧ Reg.lsBlock p ≠ Reg.tnWarm p ∧
      Reg.lsBlock p ≠ Reg.lsCtl p ∧ Reg.lsStart p ≠ Reg.lsCtl p := by
    unfold Reg.lsCtl Reg.lsState Reg.tnWarm Reg.lsBlock Reg.lsStart
    omega
  obtain ⟨h1, h2, h3, h4, h5, h6⟩ := hne
  have hbit : bit v.toNat 31 = true := (bit_toNat v 31).trans hv
  have hon : fbit (regWritePlain s (Reg.lsCtl p) v.toNat) (Reg.lsCtl p) 31 = true :=
    (fbit_regWritePlain_rw (hasField_lsEn p) (by decide) s v.toNat).trans hbit
  have hx : initExp (regWritePlain s (Reg.lsCtl p) v.toNat) p = x := by
    unfold initExp
    rw [fget_regWritePlain_rw (hasField_lsInitexp p) (by decide) (by decide)]
  have hfirst : fget (regWritePlain s (Reg.lsCtl p) v.toNat) (Reg.lsStart p) 31 0 = first := fget_regWritePlain_other _ _ _ _ h6
  have hblock : fget (regWritePlain s (Reg.lsCtl p) v.toNat) (Reg.lsBlock p) 47 7 = fget s (Reg.lsBlock p) 47 7 :=
    fget_regWritePlain_other _ _ _ _ h5
  have hwr : written (regWritePlain s (Reg.lsCtl p) v.toNat) (Reg.lsBlock p) = written s (Reg.lsBlock p) := written_regWritePlain_other _ _ h5
  obtain ⟨regs, hframe⟩ := regWritePlain_frame s (Reg.lsCtl p) v.toNat
  have hmem : sameMemory s (regWritePlain s (Reg.lsCtl p) v.toNat) := by rw [hframe]; exact ⟨rfl, rfl⟩
  have heq : exec (.lsEnable p v) s = .next (writeLsCtl s p v.toNat) := hostCmd_up hr _
  rw [writeLsCtl_on hoff hbit] at heq
  dsimp only at heq
  rw [hx, hfirst] at heq
  generalize regWritePlain s (Reg.lsCtl p) v.toNat = s1 at hon hx hfirst hblock hwr hmem heq
  clear hframe
  obtain ⟨hexp, hclean, hstep, hwarm, hother, hmem2⟩ := startedLs_spec s1 p (BitVec.ofNat 32 first)
  obtain ⟨hctl, -⟩ := hother (Reg.lsCtl p) h1 h2
  obtain ⟨hblk, hblkw⟩ := hother (Reg.lsBlock p) h3 h4
  generalize startedLs s1 p (BitVec.ofNat 32 first) = s2 at *
  obtain ⟨hregs, hhost, hgen, hstill, hput⟩ := publishScale_spec s2 p (BitVec.ofNat 32 first) (pow2F x)
  generalize publishScale s2 p (BitVec.ofNat 32 first) (pow2F x) = t at *
  refine ⟨t, heq, ?_, ?_, ?_, ?_, ?_, hgen, ?_, fun hw => ?_, fun hw => ?_⟩
  · rw [← hon]
    unfold lsOn fbit
    rw [rd_congr hregs, hctl]
  · rw [← hx, ← hexp]
    unfold ctxExp
    rw [fget_congr hregs]
  · rw [fget_congr hregs, hclean]
  · rw [← hstep]
    unfold ctxStep
    rw [fget_congr hregs]
  · rw [rd_congr hregs, hwarm]
  · rw [hhost, hmem2.2, hmem.2]
  · rw [hstill (by rw [hblkw, hwr, hw]), hmem2.1, hmem.1]
  · have ha : fget s2 (Reg.lsBlock p) 47 7 * 128 + 64 * ((BitVec.ofNat 32 first).toNat % 2) = a := by
      have hb2 : fget s2 (Reg.lsBlock p) 47 7 = fget s (Reg.lsBlock p) 47 7 := by
        rw [← hblock]
        unfold fget
        rw [hblk]
      have hlt : first < 2 ^ 32 := bits_lt _ _ _
      rw [hb2, BitVec.toNat_ofNat, Nat.mod_eq_of_lt hlt]
    rw [hput (by rw [hblkw, hwr, hw]), ha, hmem2.1, hmem.1]
    refine ⟨?_, fun b hb => Memory.get_write_out _ _ _ (by rw [length_leBytes]; exact hb)⟩
    have h := Memory.read_write s.dev a (leBytes 64 (pow2F x).toNat)
    rwa [length_leBytes] at h

theorem lsEnable_stops {s : State} {p : Part} {v : W32} (hr : reachable s = true) (hv : v.getLsbD 31 = false) :
    ∃ t, exec (.lsEnable p v) s = .next t ∧ lsOn t p = false ∧ ctxExp t p = 0 ∧
      fget t (Reg.lsState p) 15 0 = 0 ∧ fget t (Reg.lsState p) 63 32 = fget s (Reg.lsState p) 63 32 ∧ sameMemory s t := by
  have hbit : bit v.toNat 31 = false := (bit_toNat v 31).trans hv
  have hoff : fbit (regWritePlain s (Reg.lsCtl p) v.toNat) (Reg.lsCtl p) 31 = false :=
    (fbit_regWritePlain_rw (hasField_lsEn p) (by decide) s v.toNat).trans hbit
  have hstep := fget_regWritePlain_other s v.toNat 63 32 (lsState_ne_lsCtl p)
  obtain ⟨regs, hframe⟩ := regWritePlain_frame s (Reg.lsCtl p) v.toNat
  have hmem : sameMemory s (regWritePlain s (Reg.lsCtl p) v.toNat) := by rw [hframe]; exact ⟨rfl, rfl⟩
  have heq : exec (.lsEnable p v) s = .next (writeLsCtl s p v.toNat) := hostCmd_up hr _
  rw [writeLsCtl_off hbit] at heq
  clear hframe
  generalize regWritePlain s (Reg.lsCtl p) v.toNat = s1 at *
  obtain ⟨hexp, hkeep⟩ := setExp_spec s1 p (x := 0) (by decide) (by decide)
  refine ⟨_, heq, ?_, ?_, ?_, ?_, hmem⟩
  · rw [← hoff]
    unfold lsOn
    rw [fbit_fset_other _ _ _ _ _ (lsState_ne_lsCtl p).symm]
    exact fbit_fset_other _ _ _ _ _ (lsState_ne_lsCtl p).symm
  · rw [ctxExp_fset (by decide) (by decide) (by decide), hexp]
  · rw [fget_fset_self _ _ _ (by decide) (by decide)]
    rfl
  · rw [fget_fset_field _ _ _ (by decide) (by decide) (by decide) (by decide), hkeep, hstep]

/-! ### Overflows -/

theorem ovfTable_spec (s : State) (p layer : Nat) (train : Bool) :
    let a := rd s (Reg.lsOvftab p) + 8 * layer + (if train then 0 else 4)
    (ovfTable s p layer 1 train).host = s.host ∧ (ovfTable s p layer 1 train).regs = s.regs ∧ (ovfTable s p layer 1 train).ls = s.ls ∧
      (written s (Reg.lsOvftab p) = false → (ovfTable s p layer 1 train).dev = s.dev) ∧
      (written s (Reg.lsOvftab p) = true → Memory.num (ovfTable s p layer 1 train).dev a 4 = satAdd 32 (Memory.num s.dev a 4) 1 ∧
        ∀ b, (b < a ∨ a + 4 ≤ b) → Memory.get (ovfTable s p layer 1 train).dev b = Memory.get s.dev b) := by
  intro a
  unfold ovfTable
  cases written s (Reg.lsOvftab p) with
  | false => exact ⟨rfl, rfl, rfl, fun _ => rfl, fun h => absurd h (by decide)⟩
  | true =>
    refine ⟨rfl, rfl, rfl, fun h => absurd h (by decide), fun _ => ⟨?_, fun b hb => ?_⟩⟩
    · have hlt : satAdd 32 (Memory.num s.dev a 4) 1 < 256 ^ 4 := by
        unfold satAdd
        omega
      have h := Memory.read_write s.dev a (leBytes 4 (satAdd 32 (Memory.num s.dev a 4) 1))
      rw [length_leBytes] at h
      change ofLe (Memory.read (Memory.write s.dev a _) a 4) = _
      rw [h, ofLe_leBytes, Nat.mod_eq_of_lt hlt]
    · exact Memory.get_write_out _ _ _ (by rw [length_leBytes]; exact hb)

/-- Settles O29: the start and the end of the loss-scale context, and what an overflow sets and counts. -/
theorem lossScaleAndOverflow : Obligations.LossScaleAndOverflow := by
  refine ⟨fun s p v hr => ⟨fun hoff hv => lsEnable_starts hr hoff hv, fun hv => lsEnable_stops hr hv⟩, fun s p n layer train => ?_⟩
  intro a
  obtain ⟨hhost, hregs, hls, hstill, hcount⟩ := ovfTable_spec s p layer.toNat train
  have hrec : stepRec (ovfTable s p layer.toNat 1 train) p n = stepRec s p n := by
    unfold stepRec State.lsc
    rw [hls]
  have heq : exec (.overflowNotify p n layer train) s = .next (if train then flagOverflow (ovfTable s p layer.toNat 1 train) p n
    else ovfTable s p layer.toNat 1 train) := rfl
  generalize ovfTable s p layer.toNat 1 train = u at *
  cases train with
  | false => exact ⟨u, heq, hhost, fun _ => hregs, fun h => absurd h (by decide), fun off _ => rd_congr hregs off, hstill, hcount⟩
  | true =>
    refine ⟨_, heq, ?_⟩
    unfold flagOverflow
    rw [hrec]
    cases (stepRec s p n).sampled with
    | true =>
      exact ⟨hhost, fun h => absurd h (by decide), fun _ => fbit_fset_self _ _ _ (by decide),
        fun off ho => (rd_fset_other _ _ _ _ ho).trans (rd_congr hregs off), hstill, hcount⟩
    | false =>
      have hb : 24 + n.toNat % 2 < 64 := by omega
      exact ⟨hhost, fun h => absurd h (by decide), fun _ => fbit_fset_self _ _ _ hb,
        fun off ho => (rd_fset_other _ _ _ _ ho).trans (rd_congr hregs off), hstill, hcount⟩

end Sys2Proof.Proofs
end

section
/-! PROOFS. The verdict exchange, the decision and the release of a held step: O30. -/

namespace Sys2Proof.Proofs
open Sys2Proof.Machine

/-! ### Records of steps -/

theorem stepRec_congr {s t : State} (h : t.ls = s.ls) (p : Nat) (n : W32) : stepRec t p n = stepRec s p n := by
  unfold stepRec State.lsc
  rw [h]

theorem lsc_congr {s t : State} (h : t.ls = s.ls) (p : Nat) : t.lsc p = s.lsc p := by
  unfold State.lsc
  rw [h]

theorem lsc_updStep (s : State) (p : Nat) (n : W32) (f : StepRec → StepRec) :
    (updStep s p n f).lsc p = (s.lsc p).setStep n (f (stepRec s p n)) := State.lsc_setLsc _ _ _

theorem stepOf_setStep (x : LsCtx) (n : W32) (r : StepRec) : (x.setStep n r).stepOf n = { r with step := n } := by
  unfold LsCtx.stepOf LsCtx.setStep
  rw [List.find?_append, List.find?_eq_none.mpr fun y hy => by simpa using (List.mem_filter.mp hy).2]
  simp

theorem stepRec_updStep (s : State) (p : Nat) (n : W32) (f : StepRec → StepRec) :
    stepRec (updStep s p n f) p n = { f (stepRec s p n) with step := n } := by
  unfold stepRec
  rw [lsc_updStep]
  exact stepOf_setStep _ _ _

/-- Some step other than n is held. -/
def heldBeside (s : State) (p : Nat) (n : W32) : Bool := (s.lsc p).recs.any fun r => r.outcome == .held && r.step ≠ n

theorem heldBeside_congr {s t : State} (h : t.ls = s.ls) (p : Nat) (n : W32) : heldBeside t p n = heldBeside s p n := by
  unfold heldBeside
  rw [lsc_congr h]

/-- Once step n has another outcome, what is held is held beside it. -/
theorem held_updStep {s : State} {p : Nat} {n : W32} {f : StepRec → StepRec} (hf : (f (stepRec s p n)).outcome ≠ .held) :
    (((updStep s p n f).lsc p).recs.filter fun r => r.outcome == .held).isEmpty = !heldBeside s p n := by
  rw [lsc_updStep]
  unfold LsCtx.setStep heldBeside
  dsimp only
  rw [List.filter_append, List.filter_filter]
  have hlast : ([{ f (stepRec s p n) with step := n }] : List StepRec).filter (fun r => r.outcome == .held) = [] := by
    simp [hf]
  rw [hlast, List.append_nil]
  generalize (s.lsc p).recs = l
  induction l with
  | nil => rfl
  | cons r l ih =>
    rw [List.filter_cons, List.any_cons]
    by_cases h : (r.outcome == .held && decide (r.step ≠ n)) = true
    · rw [if_pos h, h]
      rfl
    · rw [if_neg h, ih, Bool.eq_false_iff.mpr h, Bool.false_or]

/-! ### The verdict exchange -/

theorem gsum_exchanged (s : State) (p : Nat) (n w : W32) (o : Out) :
    (stepRec ((updStep s p n fun r => { r with gsum := some w }).emit o) p n).gsum = some w := by
  rw [stepRec_congr (State.emit_ls _ _), stepRec_updStep]

theorem verdictExchange_spec {s : State} {p : Part} {others : List (Nat × W32)} (h : verdictDue s p = true) :
    let n := ctxStep s p + 1#32
    let mine : List (Nat × W32) := ownGsq s p n
    ∃ t, exec (.verdictExchange p others) s = .next t ∧ t.out = s.out ++ [.verdict p n mine] ∧ t.regs = s.regs ∧ sameMemory s t ∧
      (stepRec t p n).gsum = some (canonicalSlots ((List.range (slotsOf s p)).map fun q =>
        match (mine ++ others).find? fun x => x.1 == q with
        | some x => x.2
        | none => 0#32)) := by
  intro n mine
  have hexec : exec (.verdictExchange p others) s = execVerdictExchange p others s := rfl
  rw [hexec]
  unfold execVerdictExchange
  refine ⟨_, if_neg (by rw [h]; decide), rfl, rfl, ⟨rfl, rfl⟩, ?_⟩
  exact gsum_exchanged s p n _ _

/-! ### Skipped and applied steps -/

/-- From `s` to `t` neither the training contexts nor the registers that no commit changes do. -/
structure LsKept (s t : State) : Prop where
  ls : t.ls = s.ls
  regs : RegsKept s t

theorem LsKept.refl (s : State) : LsKept s s := ⟨rfl, .of_regs rfl⟩

theorem LsKept.trans {s t u : State} (h : LsKept s t) (g : LsKept t u) : LsKept s u := ⟨g.ls.trans h.ls, h.regs.trans g.regs⟩

theorem LsKept.of_commits {s t : State} (h : Commits s t) : LsKept s t := ⟨h.ls, h.regs⟩

theorem publishCopy_frame (s : State) (t : Nat) (g : W32) : ∃ wcGen, publishCopy s t g = { s with wcGen := wcGen } := by
  unfold publishCopy
  split
  · exact ⟨_, rfl⟩
  · exact ⟨_, rfl⟩

theorem passSkipped_frame (fuel : Nat) (s : State) (p t : Nat) : ∃ wcGen, passSkipped fuel s p t = { s with wcGen := wcGen } := by
  induction fuel generalizing s with
  | zero => exact ⟨_, rfl⟩
  | succ fuel ih =>
    unfold passSkipped
    dsimp only
    split
    · obtain ⟨_, hp⟩ := publishCopy_frame s t (Tab.get 0#32 s.wcGen t + 1#32)
      obtain ⟨_, hq⟩ := ih (publishCopy s t (Tab.get 0#32 s.wcGen t + 1#32))
      rw [hq, hp]
      exact ⟨_, rfl⟩
    · exact ⟨_, rfl⟩

theorem skipStep_kept (s : State) (p : Nat) (n : W32) : LsKept s (skipStep s p n) := by
  unfold skipStep
  extract_lets s1 s2
  have h1 : LsKept s s1 := .of_commits (Commits.refl.foldl fun u x hu => hu.finishJob _)
  have h2 : LsKept s1 s2 := List.foldlRecOn (motive := LsKept s1) _ _ (.refl s1) fun u hu t _ => hu.trans (by
    split
    · obtain ⟨_, h⟩ := publishCopy_frame u t (n + 1#32)
      rw [h]
      exact ⟨rfl, .of_regs rfl⟩
    · obtain ⟨_, h⟩ := passSkipped_frame (u.lsc p).recs.length u p t
      rw [h]
      exact ⟨rfl, .of_regs rfl⟩)
  have h3 : LsKept s2 (completeStep s2 p n) := .of_commits (Commits.refl.foldl fun u x hu => hu.completeItem _)
  exact h1.trans (h2.trans h3)

/-- What an applied step changes: its averages and counts, its outcome, the adapters that stage 12 waits for, and their generations. -/
theorem applyStep_spec (s : State) (p : Part) (n : W32) :
    (stepRec (applyStep s p n) p n).outcome = .applied ∧
      ((applyStep s p n).lsc p) = (s.lsc p).setStep n { stepRec s p n with outcome := .applied } ∧
      fget (applyStep s p n) (Reg.lsCounts p) 31 0 = satAdd 32 (fget s (Reg.lsCounts p) 31 0) 1 ∧
      (∀ off, off ≠ Reg.tnEma p → off ≠ Reg.tnWarm p → off ≠ Reg.lsCounts p → rd (applyStep s p n) off = rd s off) ∧
      sameMemory s (applyStep s p n) := by
  have hne : Reg.lsCounts p ≠ Reg.tnEma p ∧ Reg.lsCounts p ≠ Reg.tnWarm p := by
    unfold Reg.lsCounts Reg.tnEma Reg.tnWarm
    omega
  unfold applyStep
  extract_lets r warm lema gema newL newG s1 s2 s3 mine s4
  have hpub : ∃ wcGen, (tagsOf s4 p fun d => d.role == .serve || (d.role == .owner && d.st == .resident)).foldl
      (fun t g => publishCopy t g (n + 1#32)) s4 = { s4 with wcGen := wcGen } :=
    List.foldlRecOn (motive := fun u => ∃ wcGen, u = { s4 with wcGen := wcGen }) _ _ ⟨_, rfl⟩ fun u hu g _ => by
      obtain ⟨_, rfl⟩ := hu
      obtain ⟨_, h⟩ := publishCopy_frame { s4 with wcGen := _ } g (n + 1#32)
      exact ⟨_, h⟩
  obtain ⟨wcGen, hpub⟩ := hpub
  rw [hpub]
  have hls : s2.ls = s.ls := rfl
  have hlsc : s4.lsc p = (s2.lsc p).setStep n { stepRec s2 p n with outcome := .applied } :=
    (lsc_congr (t := s4) (s := s3) rfl p).trans (lsc_updStep s2 p n fun x => { x with outcome := .applied })
  rw [lsc_congr hls, stepRec_congr hls] at hlsc
  have hregs : s4.regs = s2.regs := rfl
  have hcount : fget s2 (Reg.lsCounts p) 31 0 = satAdd 32 (fget s (Reg.lsCounts p) 31 0) 1 := by
    have h := fget_finc_self (fset s1 (Reg.tnWarm p) 15 0 (min 0xFFFF (warm + 1))) (Reg.lsCounts p) 1 (hi := 31) (lo := 0) (by decide) (by decide)
    rw [fget_fset_other _ _ _ _ _ _ hne.2] at h
    rw [show fget s1 (Reg.lsCounts p) 31 0 = fget s (Reg.lsCounts p) 31 0 from fget_setReg_other _ _ _ _ hne.1] at h
    exact h
  have hother : ∀ off, off ≠ Reg.tnEma p → off ≠ Reg.tnWarm p → off ≠ Reg.lsCounts p → rd s2 off = rd s off := fun off h1 h2 h3 =>
    (rd_finc_other _ _ _ _ h3).trans ((rd_fset_other _ _ _ _ h2).trans (rd_setReg_other _ _ h1))
  have hmem : sameMemory s s4 := ⟨rfl, rfl⟩
  clear_value s4 s2
  refine ⟨?_, hlsc, ?_, fun off h1 h2 h3 => ?_, hmem⟩
  · have hout : (s4.lsc p).stepOf n = _ := (congrArg (LsCtx.stepOf · n) hlsc).trans (stepOf_setStep _ _ _)
    exact congrArg StepRec.outcome hout
  · exact (fget_congr (t := { s4 with wcGen := wcGen }) hregs _ _ _).trans hcount
  · exact (rd_congr (t := { s4 with wcGen := wcGen }) hregs off).trans (hother off h1 h2 h3)

/-! ### TN_HOLD -/

theorem commitFixed_tn {off : Nat} (p : Part) (h : off = Reg.tnHold p ∨ off = Reg.lsCounts p ∨ off = Reg.tnEvents p ∨ off = Reg.lsCtl p) :
    commitFixed off := by
  unfold Reg.tnHold Reg.lsCounts Reg.tnEvents Reg.lsCtl at h
  refine ⟨fun j => ?_, fun j => ?_, ?_⟩
  · unfold Reg.mtEvents Reg.isViol Reg.qmDirtyctl
    omega
  · unfold Reg.lsState Reg.lsOutcomes
    omega
  · omega

theorem fbit_congr_rd {s t : State} {off : Nat} (h : rd t off = rd s off) (b : Nat) : fbit t off b = fbit s off b := by
  unfold fbit
  rw [h]

theorem fget_congr_rd {s t : State} {off : Nat} (h : rd t off = rd s off) (hi lo : Nat) : fget t off hi lo = fget s off hi lo := by
  unfold fget
  rw [h]

/-- TN_HOLD shows the step that is held. -/
theorem showHold_spec (s : State) (p : Nat) (n : W32) :
    fbit (showHold s p n) (Reg.tnHold p) 31 = true ∧ fget (showHold s p n) (Reg.tnHold p) 63 32 = n.toNat := by
  have hc : (stepRec s p n).cause % 8 < 8 := Nat.mod_lt _ (by decide)
  have hn := n.isLt
  unfold showHold
  generalize (stepRec s p n).cause % 8 = c at hc
  refine ⟨?_, ?_⟩
  · rw [fbit_eq_fget, fget_setReg_self _ _ _ (by decide) (by decide)]
    unfold bits
    rw [beq_iff_eq]
    omega
  · rw [fget_setReg_self _ _ _ (by decide) (by decide)]
    unfold bits
    omega

/-- After a release TN_HOLD is held by what is still held. -/
theorem nextHold_spec {s : State} {p : Nat} (h : fbit s (Reg.tnHold p) 31 = false) :
    fbit (nextHold s p) (Reg.tnHold p) 31 = !((s.lsc p).recs.filter fun r => r.outcome == .held).isEmpty ∧ (nextHold s p).ls = s.ls ∧
      (∀ off, off ≠ Reg.tnHold p → rd (nextHold s p) off = rd s off) ∧ sameMemory s (nextHold s p) := by
  unfold nextHold
  split
  · rename_i hnil
    rw [hnil]
    exact ⟨h, rfl, fun _ _ => rfl, rfl, rfl⟩
  · rename_i r rs hcons
    rw [hcons]
    exact ⟨(showHold_spec _ _ _).1, rfl, fun off ho => rd_setReg_other _ _ ho, rfl, rfl⟩

theorem dropLow_frame (s : State) (fn off : Nat) : ∃ low, s.dropLow fn off = { s with lowPend := low } := by
  unfold State.dropLow
  split
  · exact ⟨_, rfl⟩
  · exact ⟨_, rfl⟩

theorem holdDiscard_spec {s : State} {p : Part} {v : Nat} (hheld : fbit s (Reg.tnHold p) 31 = true) (hv : bit v 1 = true) :
    let n : W32 := BitVec.ofNat 32 (fget s (Reg.tnHold p) 63 32)
    fbit (writeHold s p v) (Reg.tnHold p) 31 = heldBeside s p n ∧ (stepRec (writeHold s p v) p n).outcome = .discarded ∧
      fget (writeHold s p v) (Reg.lsOutcomes p) 31 0 = satAdd 32 (fget s (Reg.lsOutcomes p) 31 0) 1 := by
  intro n
  have hne : Reg.tnHold p ≠ Reg.lsOutcomes p := by unfold Reg.tnHold Reg.lsOutcomes; omega
  have heq : writeHold s p v = nextHold (skipStep (updStep (finc (fset s (Reg.tnHold p) 31 31 0) (Reg.lsOutcomes p) 31 0 1) p n fun r =>
      { r with outcome := .discarded }) p n) p := by
    unfold writeHold
    exact (if_neg (by rw [hheld]; decide)).trans (if_pos hv)
  clear_value n
  have hs2 : fbit (finc (fset s (Reg.tnHold p) 31 31 0) (Reg.lsOutcomes p) 31 0 1) (Reg.tnHold p) 31 = false :=
    (fbit_congr_rd (rd_finc_other _ _ _ _ hne) _).trans (fbit_fset_self _ _ _ (by decide))
  have hcount := fget_finc_self (fset s (Reg.tnHold p) 31 31 0) (Reg.lsOutcomes p) 1 (hi := 31) (lo := 0) (by decide) (by decide)
  rw [fget_fset_other _ _ _ _ _ _ hne.symm] at hcount
  have hls1 : (finc (fset s (Reg.tnHold p) 31 31 0) (Reg.lsOutcomes p) 31 0 1).ls = s.ls := rfl
  generalize finc (fset s (Reg.tnHold p) 31 31 0) (Reg.lsOutcomes p) 31 0 1 = s2 at *
  have hregs3 : (updStep s2 p n fun r => { r with outcome := .discarded }).regs = s2.regs := rfl
  have hrec3 := stepRec_updStep s2 p n fun r => { r with outcome := .discarded }
  have hheldrec := held_updStep (s := s2) (p := p) (n := n) (f := fun r => { r with outcome := .discarded }) (by simp)
  generalize (updStep s2 p n fun r => { r with outcome := .discarded }) = s3 at *
  have hskip := skipStep_kept s3 p n
  have hclear : fbit (skipStep s3 p n) (Reg.tnHold p) 31 = false := by
    rw [fbit_congr_rd (hskip.regs.fixed _ (commitFixed_tn p (.inl rfl)))]
    rw [fbit_congr_rd (rd_congr hregs3 _), hs2]
  obtain ⟨hhold, hls, hrd, -⟩ := nextHold_spec hclear
  rw [heq]
  refine ⟨?_, ?_, ?_⟩
  · rw [hhold, lsc_congr hskip.ls, hheldrec, Bool.not_not]
    exact heldBeside_congr hls1 p n
  · rw [stepRec_congr hls, stepRec_congr hskip.ls, hrec3]
  · rw [fget_congr_rd (hrd _ hne.symm), hskip.regs.outcomes, fget_congr hregs3, hcount]

theorem holdApply_spec {s : State} {p : Part} {v : Nat} (hheld : fbit s (Reg.tnHold p) 31 = true) (hv1 : bit v 1 = false) (hv0 : bit v 0 = true)
    (href : (stepRec s p (BitVec.ofNat 32 (fget s (Reg.tnHold p) 63 32))).refused = false) :
    let n : W32 := BitVec.ofNat 32 (fget s (Reg.tnHold p) 63 32)
    fbit (writeHold s p v) (Reg.tnHold p) 31 = heldBeside s p n ∧ (stepRec (writeHold s p v) p n).outcome = .applied ∧
      fget (writeHold s p v) (Reg.lsCounts p) 31 0 = satAdd 32 (fget s (Reg.lsCounts p) 31 0) 1 ∧ sameMemory s (writeHold s p v) := by
  intro n
  have hne : Reg.tnHold p ≠ Reg.tnEma p ∧ Reg.tnHold p ≠ Reg.tnWarm p ∧ Reg.tnHold p ≠ Reg.lsCounts p := by
    unfold Reg.tnHold Reg.tnEma Reg.tnWarm Reg.lsCounts
    omega
  have heq : writeHold s p v = nextHold (applyStep (fset s (Reg.tnHold p) 31 31 0) p n) p := by
    unfold writeHold
    exact (if_neg (by rw [hheld]; decide)).trans ((if_neg (by rw [hv1]; decide)).trans ((if_pos hv0).trans (if_neg (by rw [href]; decide))))
  clear_value n
  have hbit : fbit (fset s (Reg.tnHold p) 31 31 0) (Reg.tnHold p) 31 = false := fbit_fset_self _ _ _ (by decide)
  have hcount1 := fget_fset_other s 31 31 0 31 0 hne.2.2.symm
  have hls1 : (fset s (Reg.tnHold p) 31 31 0).ls = s.ls := rfl
  have hmem1 : sameMemory s (fset s (Reg.tnHold p) 31 31 0) := ⟨rfl, rfl⟩
  generalize fset s (Reg.tnHold p) 31 31 0 = s1 at *
  obtain ⟨hout, hlsc, hcount, hother, hmem⟩ := applyStep_spec s1 p n
  have hclear : fbit (applyStep s1 p n) (Reg.tnHold p) 31 = false := by
    rw [fbit_congr_rd (hother _ hne.1 hne.2.1 hne.2.2), hbit]
  obtain ⟨hhold, hls, hrd, hmem2⟩ := nextHold_spec hclear
  have hheldrec := held_updStep (s := s1) (p := p) (n := n) (f := fun r => { r with outcome := .applied }) (by simp)
  rw [lsc_updStep] at hheldrec
  rw [heq]
  refine ⟨?_, ?_, ?_, hmem2.1.trans (hmem.1.trans hmem1.1), hmem2.2.trans (hmem.2.trans hmem1.2)⟩
  · rw [hhold, hlsc, hheldrec, Bool.not_not]
    exact heldBeside_congr hls1 p n
  · rw [stepRec_congr hls, hout]
  · rw [fget_congr_rd (hrd _ hne.2.2.symm), hcount, hcount1]

/-! ### The decision -/

/-- EXP is set to a value of its field, and the rest of LS_STATE stays. -/
theorem ctxExp_setExp (s : State) (p : Nat) {x : Int} (h : -32 ≤ x) (h' : x < 32) : ctxExp (setExp s p x) p = x := by
  unfold ctxExp setExp
  rw [fget_fset_self _ _ _ (by decide) (by decide), Nat.mod_eq_of_lt (BitVec.isLt _), BitVec.ofNat_toNat, BitVec.setWidth_eq,
    BitVec.toInt_ofInt]
  exact Int.bmod_eq_of_le (by omega) (by omega)

theorem ctxExp_range (s : State) (p : Nat) : -32 ≤ ctxExp s p ∧ ctxExp s p < 32 := by
  unfold ctxExp
  have h := BitVec.le_toInt (BitVec.ofNat 6 (fget s (Reg.lsState p) 31 26))
  have h' := BitVec.toInt_lt (x := BitVec.ofNat 6 (fget s (Reg.lsState p) 31 26))
  omega

/-- From `s` to `t` one register alone changes. -/
def OneReg (off : Nat) (s t : State) : Prop := ∃ regs, t = { s with regs := regs } ∧ ∀ off', off' ≠ off → rd t off' = rd s off'

theorem OneReg.refl (off : Nat) (s : State) : OneReg off s s := ⟨_, rfl, fun _ _ => rfl⟩

theorem OneReg.trans {off : Nat} {s t u : State} (h : OneReg off s t) (g : OneReg off t u) : OneReg off s u := by
  obtain ⟨_, rfl, h⟩ := h
  obtain ⟨_, rfl, g⟩ := g
  exact ⟨_, rfl, fun o ho => (g o ho).trans (h o ho)⟩

theorem OneReg.ls {off : Nat} {s t : State} (h : OneReg off s t) : t.ls = s.ls := by
  obtain ⟨_, rfl, -⟩ := h
  rfl

theorem OneReg.fset {off : Nat} {s t : State} (h : OneReg off s t) (hi lo v : Nat) : OneReg off s (fset t off hi lo v) :=
  h.trans ⟨_, rfl, fun _ ho => rd_fset_other _ _ _ _ ho⟩

theorem recordLast_oneReg (s : State) (p : Nat) (r : StepRec) : OneReg (Reg.tnLast p) s (recordLast s p r) := by
  unfold recordLast
  dsimp only
  cases r.loss with
  | none => cases r.gsum with
    | none => exact .refl _ _
    | some q => exact (OneReg.refl _ _).fset _ _ _
  | some l => cases r.gsum with
    | none => exact (OneReg.refl _ _).fset _ _ _
    | some q => exact ((OneReg.refl _ _).fset _ _ _).fset _ _ _

/-- The loss scale's transition (R141). -/
theorem scaleStep_spec (s : State) (p : Nat) (ovf : Bool) :
    OneReg (Reg.lsState p) s (scaleStep s p ovf) ∧
      (lsOn s p = true → ovf = true → ctxExp (scaleStep s p ovf) p = max (ctxExp s p - 1) (-24) ∧
        fget (scaleStep s p ovf) (Reg.lsState p) 15 0 = 0) ∧
      (lsOn s p = true → ovf = false → max 1 (fget s (Reg.lsCtl p) 15 0) ≤ fget s (Reg.lsState p) 15 0 + 1 →
        ctxExp (scaleStep s p ovf) p = min (ctxExp s p + 1) 24 ∧ fget (scaleStep s p ovf) (Reg.lsState p) 15 0 = 0) ∧
      (lsOn s p = true → ovf = false → fget s (Reg.lsState p) 15 0 + 1 < max 1 (fget s (Reg.lsCtl p) 15 0) →
        ctxExp (scaleStep s p ovf) p = ctxExp s p ∧
          fget (scaleStep s p ovf) (Reg.lsState p) 15 0 = fget s (Reg.lsState p) 15 0 + 1) := by
  obtain ⟨hlo, hhi⟩ := ctxExp_range s p
  have hset : ∀ (u : State) x, -32 ≤ x → x < 32 → OneReg (Reg.lsState p) s u →
      OneReg (Reg.lsState p) s (fset (setExp u p x) (Reg.lsState p) 15 0 0) ∧
        ctxExp (fset (setExp u p x) (Reg.lsState p) 15 0 0) p = x ∧
        fget (fset (setExp u p x) (Reg.lsState p) 15 0 0) (Reg.lsState p) 15 0 = 0 := fun u x h1 h2 hu => by
    refine ⟨(hu.fset 31 26 (BitVec.ofInt 6 x).toNat).fset 15 0 0, ?_, ?_⟩
    · rw [ctxExp_fset (by decide) (by decide) (by decide), ctxExp_setExp _ _ h1 h2]
    · rw [fget_fset_self _ _ _ (by decide) (by decide)]
      rfl
  have hmark : ∀ (c : Prop) [Decidable c] b, OneReg (Reg.lsState p) s (if c then fset s (Reg.lsState p) b b 1 else s) := fun c _ b => by
    split
    · exact (OneReg.refl _ _).fset _ _ _
    · exact .refl _ _
  have hctl : fget s (Reg.lsCtl p) 15 0 < 2 ^ 16 := bits_lt _ _ _
  unfold scaleStep
  dsimp only
  cases hon : lsOn s p with
  | false => exact ⟨.refl _ _, fun h => absurd h (by decide), fun h => absurd h (by decide), fun h => absurd h (by decide)⟩
  | true =>
    rw [if_neg (by decide)]
    cases ovf with
    | true =>
      rw [if_pos rfl]
      obtain ⟨h1, h2, h3⟩ := hset _ (max (ctxExp s p - 1) (-24)) (by omega) (by omega) (hmark (ctxExp s p = -24) 17)
      exact ⟨h1, fun _ _ => ⟨h2, h3⟩, fun _ h => absurd h (by decide), fun _ h => absurd h (by decide)⟩
    | false =>
      rw [if_neg (by decide)]
      by_cases hc : max 1 (fget s (Reg.lsCtl p) 15 0) ≤ fget s (Reg.lsState p) 15 0 + 1
      · rw [if_pos hc]
        obtain ⟨h1, h2, h3⟩ := hset _ (min (ctxExp s p + 1) 24) (by omega) (by omega) (hmark (ctxExp s p = 24) 18)
        exact ⟨h1, fun _ h => absurd h (by decide), fun _ _ _ => ⟨h2, h3⟩, fun _ _ h => absurd hc (Nat.not_le.mpr h)⟩
      · rw [if_neg hc]
        refine ⟨(OneReg.refl _ _).fset _ _ _, fun _ h => absurd h (by decide), fun _ _ h => absurd h hc, fun _ _ h => ⟨?_, ?_⟩⟩
        · exact ctxExp_fset (by decide) (by decide) (by decide)
        · rw [fget_fset_self _ _ _ (by decide) (by decide), Nat.mod_eq_of_lt (by omega)]

/-- What the decision of step n records, before the step has its outcome. -/
def decided (s : State) (p : Nat) (n : W32) (ovf : Bool) : State :=
  let s1 := updStep (recordLast s p (stepRec s p n)) p n fun r =>
    { r with reduced := ovf, exp := ctxExp s p, sampled := true, ctl := rd s (Reg.tnCtl p) }
  let s2 := fset (scaleStep s1 p ovf) (Reg.lsState p) 63 32 n.toNat
  let s3 := fset s2 (Reg.lsState p) (24 + n.toNat % 2) (24 + n.toNat % 2) 0
  let s4 := publishScale s3 p (n + 1#32) (if lsOn s3 p then pow2F (ctxExp s3 p) else f32One)
  dropOldSteps { s4 with updLog := s4.updLog.filter fun l => !(l.1 == p && l.2.1 == (n.toNat + 1) % 2) } p n

theorem decideStep_eq (s : State) (p : Nat) (n : W32) (ovf : Bool) :
    decideStep s p n ovf =
      if ovf then skipStep (updStep (finc (decided s p n ovf) (Reg.lsCounts p) 63 32 1) p n fun r => { r with outcome := .suppressed }) p n
      else if (stepRec (decided s p n ovf) p n).refused then
        skipStep (updStep (decided s p n ovf) p n fun r => { r with outcome := .discarded }) p n
      else teasel (decided s p n ovf) p n := rfl

/-- A decision keeps the record of its own step. -/
theorem dropOldSteps_spec (s : State) (p : Nat) (n : W32) :
    (dropOldSteps s p n).regs = s.regs ∧ stepRec (dropOldSteps s p n) p n = stepRec s p n ∧
      ((dropOldSteps s p n).lsc p).closed = (s.lsc p).closed := by
  have hlsc : (dropOldSteps s p n).lsc p = { s.lsc p with
      recs := (s.lsc p).recs.filter fun r => decide (-1 ≤ sdiff32 r.step n) || stepInUse s p r } :=
    (lsc_congr (s := s.setLsc p _) rfl p).trans (State.lsc_setLsc _ _ _)
  refine ⟨rfl, ?_, by rw [hlsc]⟩
  unfold stepRec
  rw [hlsc]
  unfold LsCtx.stepOf
  dsimp only
  rw [List.find?_filter]
  congr 2
  funext r
  by_cases h : r.step = n
  · rw [h]
    simp [sdiff32]
  · simp [h]

theorem publishScale_lsc (s : State) (p : Nat) (n m v : W32) :
    (publishScale s p m v).regs = s.regs ∧ stepRec (publishScale s p m v) p n = stepRec s p n ∧
      ((publishScale s p m v).lsc p).closed = (s.lsc p).closed := by
  have hlsc : (publishScale s p m v).lsc p = { s.lsc p with gen := m } := by
    unfold publishScale
    dsimp only
    split
    · exact State.lsc_setLsc _ _ _
    · exact (lsc_congr (s := s.setLsc p _) rfl p).trans (State.lsc_setLsc _ _ _)
  refine ⟨(publishScale_spec s p m v).1, ?_, by rw [hlsc]⟩
  unfold stepRec
  rw [hlsc]
  rfl

theorem decided_spec (s : State) (p : Part) (n : W32) (ovf : Bool) :
    stepRec (decided s p n ovf) p n = { stepRec s p n with
        reduced := ovf, exp := ctxExp s p, sampled := true, ctl := rd s (Reg.tnCtl p), step := n } ∧
      ((decided s p n ovf).lsc p).closed = (s.lsc p).closed ∧ fget (decided s p n ovf) (Reg.lsState p) 63 32 = n.toNat ∧
      (∀ off, off ≠ Reg.lsState p → off ≠ Reg.tnLast p → rd (decided s p n ovf) off = rd s off) ∧
      (lsOn s p = true → ovf = true → ctxExp (decided s p n ovf) p = max (ctxExp s p - 1) (-24) ∧
        fget (decided s p n ovf) (Reg.lsState p) 15 0 = 0) ∧
      (lsOn s p = true → ovf = false → max 1 (fget s (Reg.lsCtl p) 15 0) ≤ fget s (Reg.lsState p) 15 0 + 1 →
        ctxExp (decided s p n ovf) p = min (ctxExp s p + 1) 24 ∧ fget (decided s p n ovf) (Reg.lsState p) 15 0 = 0) ∧
      (lsOn s p = true → ovf = false → fget s (Reg.lsState p) 15 0 + 1 < max 1 (fget s (Reg.lsCtl p) 15 0) →
        ctxExp (decided s p n ovf) p = ctxExp s p ∧
          fget (decided s p n ovf) (Reg.lsState p) 15 0 = fget s (Reg.lsState p) 15 0 + 1) := by
  have hlast := recordLast_oneReg s p (stepRec s p n)
  unfold decided
  extract_lets s1 s2 s3 s4
  have hr1 : ∀ off, off ≠ Reg.tnLast p → rd s1 off = rd s off := hlast.choose_spec.2
  have hrec1 : stepRec s1 p n = { stepRec s p n with
      reduced := ovf, exp := ctxExp s p, sampled := true, ctl := rd s (Reg.tnCtl p), step := n } := by
    refine (stepRec_updStep _ _ _ _).trans ?_
    rw [stepRec_congr hlast.ls]
  have hclosed1 : (s1.lsc p).closed = (s.lsc p).closed := by
    refine (congrArg LsCtx.closed (lsc_updStep _ _ _ _)).trans ?_
    rw [← lsc_congr hlast.ls p]
    rfl
  obtain ⟨hscale, hov, hup, hcl⟩ := scaleStep_spec s1 p ovf
  clear_value s1
  have hne : Reg.lsState p ≠ Reg.tnLast p ∧ Reg.lsCtl p ≠ Reg.tnLast p := by
    unfold Reg.lsState Reg.tnLast Reg.lsCtl
    omega
  have hx1 : ctxExp s1 p = ctxExp s p := by
    unfold ctxExp
    rw [fget_congr_rd (hr1 _ hne.1)]
  have hon1 : lsOn s1 p = lsOn s p := fbit_congr_rd (hr1 _ hne.2) 31
  rw [hx1, hon1] at hov
  rw [hx1, hon1, fget_congr_rd (hr1 _ hne.1), fget_congr_rd (hr1 _ hne.2)] at hup hcl
  have h3 : OneReg (Reg.lsState p) s1 s3 := (hscale.fset _ _ _).fset _ _ _
  have hx3 : ctxExp s3 p = ctxExp (scaleStep s1 p ovf) p :=
    (ctxExp_fset (by omega) (by omega) (by omega)).trans (ctxExp_fset (by decide) (by decide) (by decide))
  have hclean3 : fget s3 (Reg.lsState p) 15 0 = fget (scaleStep s1 p ovf) (Reg.lsState p) 15 0 :=
    (fget_fset_field _ _ _ (by omega) (by decide) (by decide) (by omega)).trans
      (fget_fset_field _ _ _ (by decide) (by decide) (by decide) (by decide))
  have hstep3 : fget s3 (Reg.lsState p) 63 32 = n.toNat := by
    refine (fget_fset_field _ _ _ (by omega) (by decide) (by decide) (by omega)).trans ?_
    refine (fget_fset_self _ _ _ (by decide) (by decide)).trans ?_
    exact Nat.mod_eq_of_lt n.isLt
  clear_value s3
  have hpub : s4.regs = s3.regs ∧ stepRec s4 p n = stepRec s3 p n ∧ (s4.lsc p).closed = (s3.lsc p).closed :=
    publishScale_lsc s3 p n _ _
  clear_value s4
  obtain ⟨hregs4, hrec4, hclosed4⟩ := hpub
  generalize hs5 : ({ s4 with updLog := s4.updLog.filter fun l => !(l.1 == p.val && l.2.1 == (n.toNat + 1) % 2) } : State) = s5
  have hregs5 : s5.regs = s4.regs := hs5 ▸ rfl
  have hls5 : s5.ls = s4.ls := hs5 ▸ rfl
  clear hs5
  obtain ⟨hregs6, hrec6, hclosed6⟩ := dropOldSteps_spec s5 p n
  generalize dropOldSteps s5 p n = t at *
  have hregs : t.regs = s3.regs := hregs6.trans (hregs5.trans hregs4)
  have hx : ctxExp t p = ctxExp s3 p := by
    unfold ctxExp
    rw [fget_congr hregs]
  rw [← hx3, ← hclean3, ← hx, ← fget_congr hregs] at hov hup hcl
  refine ⟨?_, ?_, (fget_congr hregs _ _ _).trans hstep3, fun off h1 h2 => ?_, hov, hup, hcl⟩
  · rw [hrec6, stepRec_congr hls5, hrec4, stepRec_congr h3.ls, hrec1]
  · rw [hclosed6, lsc_congr hls5, hclosed4, lsc_congr h3.ls, hclosed1]
  · rw [rd_congr hregs, h3.choose_spec.2 off h1, hr1 off h2]

/-! ### Teasel -/

theorem teaselCause_congr {s t : State} {p : Nat} {n : W32}
    (hrd : ∀ off, off = Reg.tnCtl p ∨ off = Reg.tnRatio p ∨ off = Reg.tnEma p ∨ off = Reg.tnWarm p → rd t off = rd s off)
    (hl : (stepRec t p n).loss = (stepRec s p n).loss) (hg : (stepRec t p n).gsum = (stepRec s p n).gsum)
    (hn : (stepRec t p n).nf = (stepRec s p n).nf) : teaselCause t p n = teaselCause s p n := by
  have hctl := hrd (Reg.tnCtl p) (.inl rfl)
  have hratio := hrd (Reg.tnRatio p) (.inr (.inl rfl))
  have hema := hrd (Reg.tnEma p) (.inr (.inr (.inl rfl)))
  have hwarm := hrd (Reg.tnWarm p) (.inr (.inr (.inr rfl)))
  unfold teaselCause fbit fget
  dsimp only
  rw [hl, hg, hn, hctl, hratio, hema, hwarm]

/-- The step has its outcome, and the decision's record and scale stay. -/
structure Concluded (p : Part) (n : W32) (o : Outcome3) (s t : State) : Prop where
  closed : (t.lsc p).closed = (s.lsc p).closed
  outcome : (stepRec t p n).outcome = o
  exp : (stepRec t p n).exp = (stepRec s p n).exp
  reduced : (stepRec t p n).reduced = (stepRec s p n).reduced
  state : ∀ hi lo, besideFlags hi lo → fget t (Reg.lsState p) hi lo = fget s (Reg.lsState p) hi lo

/-- A step that is skipped. -/
theorem skipped_concluded (s : State) (p : Part) (n : W32) (o : Outcome3) :
    Concluded p n o s (skipStep (updStep s p n fun r => { r with outcome := o }) p n) := by
  obtain ⟨hls, hregs⟩ := skipStep_kept (updStep s p n fun r => { r with outcome := o }) p n
  have hrec := stepRec_updStep s p n fun r => { r with outcome := o }
  have hlsc := lsc_updStep s p n fun r => { r with outcome := o }
  have hr : (updStep s p n fun r => { r with outcome := o }).regs = s.regs := rfl
  generalize (updStep s p n fun r => { r with outcome := o }) = u at *
  refine ⟨?_, ?_, ?_, ?_, fun hi lo hb => (hregs.state p hi lo hb).trans (fget_congr hr _ _ _)⟩
  · rw [lsc_congr hls, hlsc]
    rfl
  · rw [stepRec_congr hls, hrec]
  · rw [stepRec_congr hls, hrec]
  · rw [stepRec_congr hls, hrec]

/-- A conclusion from a state whose contexts and LS_STATE are as they were. -/
theorem Concluded.of {p : Part} {n : W32} {o : Outcome3} {s u t : State} (h : Concluded p n o u t) (hls : u.ls = s.ls)
    (hrd : rd u (Reg.lsState p) = rd s (Reg.lsState p)) : Concluded p n o s t :=
  ⟨h.closed.trans (by rw [lsc_congr hls]), h.outcome, h.exp.trans (by rw [stepRec_congr hls]),
    h.reduced.trans (by rw [stepRec_congr hls]), fun hi lo hb => (h.state hi lo hb).trans (fget_congr_rd hrd _ _)⟩

theorem holdStep_spec (s : State) (p : Part) (n : W32) (c : Nat) :
    Concluded p n .held s (holdStep s p n c) ∧ (fbit s (Reg.tnHold p) 31 = false →
      fbit (holdStep s p n c) (Reg.tnHold p) 31 = true ∧ fget (holdStep s p n c) (Reg.tnHold p) 63 32 = n.toNat) := by
  have hne : Reg.lsState p ≠ Reg.tnEvents p ∧ Reg.lsState p ≠ Reg.tnHold p := by
    unfold Reg.lsState Reg.tnEvents Reg.tnHold
    omega
  generalize hu : finc s (Reg.tnEvents p) 15 8 1 = u
  have hls : u.ls = s.ls := hu ▸ rfl
  have hrd : rd u (Reg.lsState p) = rd s (Reg.lsState p) := hu ▸ rd_finc_other _ _ _ _ hne.1
  have hrec := stepRec_updStep u p n fun r => { r with outcome := .held, cause := c }
  have hlsc := lsc_updStep u p n fun r => { r with outcome := .held, cause := c }
  have heq : holdStep s p n c = if fbit s (Reg.tnHold p) 31 then updStep u p n (fun r => { r with outcome := .held, cause := c })
      else showHold (updStep u p n fun r => { r with outcome := .held, cause := c }) p n := hu ▸ rfl
  have hr : (updStep u p n fun r => { r with outcome := .held, cause := c }).regs = u.regs := rfl
  rw [heq]
  generalize (updStep u p n fun r => { r with outcome := .held, cause := c }) = w at *
  have hw : Concluded p n .held u w := by
    refine ⟨?_, ?_, ?_, ?_, fun hi lo _ => fget_congr hr _ _ _⟩
    · rw [hlsc]
      rfl
    · rw [hrec]
    · rw [hrec]
    · rw [hrec]
  cases hh : fbit s (Reg.tnHold p) 31 with
  | true => exact ⟨hw.of hls hrd, fun h => absurd h (by decide)⟩
  | false =>
    have hshow : rd (showHold w p n) (Reg.lsState p) = rd w (Reg.lsState p) := rd_setReg_other _ _ hne.2
    have hlsw : (showHold w p n).ls = w.ls := rfl
    refine ⟨Concluded.of (u := u) ⟨?_, ?_, ?_, ?_, fun hi lo hb => (fget_congr_rd hshow _ _).trans (hw.state hi lo hb)⟩ hls hrd, fun _ =>
      showHold_spec w p n⟩
    · exact (congrArg LsCtx.closed (lsc_congr hlsw p)).trans hw.closed
    · exact (congrArg StepRec.outcome (stepRec_congr hlsw p n)).trans hw.outcome
    · exact (congrArg StepRec.exp (stepRec_congr hlsw p n)).trans hw.exp
    · exact (congrArg StepRec.reduced (stepRec_congr hlsw p n)).trans hw.reduced

theorem applyStep_concluded (s : State) (p : Part) (n : W32) : Concluded p n .applied s (applyStep s p n) := by
  obtain ⟨hout, hlsc, -, hother, -⟩ := applyStep_spec s p n
  have hne : Reg.lsState p ≠ Reg.tnEma p ∧ Reg.lsState p ≠ Reg.tnWarm p ∧ Reg.lsState p ≠ Reg.lsCounts p := by
    unfold Reg.lsState Reg.tnEma Reg.tnWarm Reg.lsCounts
    omega
  have hrec : stepRec (applyStep s p n) p n = { stepRec s p n with outcome := .applied, step := n } :=
    (congrArg (LsCtx.stepOf · n) hlsc).trans (stepOf_setStep _ _ _)
  refine ⟨by rw [hlsc]; rfl, hout, by rw [hrec], by rw [hrec], fun hi lo _ => fget_congr_rd (hother _ hne.1 hne.2.1 hne.2.2) _ _⟩

theorem teasel_spec (s : State) (p : Part) (n : W32) :
    Concluded p n (if wouldHold s p n then .held else .applied) s (teasel s p n) ∧
      (wouldHold s p n = true → fbit s (Reg.tnHold p) 31 = false →
        fbit (teasel s p n) (Reg.tnHold p) 31 = true ∧ fget (teasel s p n) (Reg.tnHold p) 63 32 = n.toNat) := by
  have hne : Reg.lsState p ≠ Reg.tnEvents p ∧ Reg.tnHold p ≠ Reg.tnEvents p := by
    unfold Reg.lsState Reg.tnEvents Reg.tnHold
    omega
  unfold teasel
  extract_lets c s1 s2
  have hcount : ∀ (b : Prop) [Decidable b] (u : State) hi lo, OneReg (Reg.tnEvents p) s u →
      OneReg (Reg.tnEvents p) s (if b then finc u (Reg.tnEvents p) hi lo 1 else u) := fun b _ u hi lo hu => by
    split
    · exact hu.fset _ _ _
    · exact hu
  have h2 : OneReg (Reg.tnEvents p) s s2 := hcount _ _ _ _ (hcount _ _ _ _ (.refl _ _))
  have hhold : wouldHold s p n = true ↔ 4 ≤ c ∨ (c % 4 ≠ 0 ∧ fbit s (Reg.tnCtl p) 28 = true) := by
    unfold wouldHold
    simp [c]
  clear_value s2
  have hrd := h2.choose_spec.2 _ hne.1
  cases hw : wouldHold s p n with
  | true =>
    rw [if_pos (hhold.mp hw), if_pos rfl]
    obtain ⟨hcon, hshow⟩ := holdStep_spec s2 p n c
    exact ⟨hcon.of h2.ls hrd, fun _ hb => hshow ((fbit_congr_rd (h2.choose_spec.2 _ hne.2) 31).trans hb)⟩
  | false =>
    rw [if_neg (fun h => absurd (hhold.mpr h) (by rw [hw]; decide)), if_neg (by decide)]
    exact ⟨(applyStep_concluded s2 p n).of h2.ls hrd, fun h => absurd h (by decide)⟩

theorem lsDecide_spec {s : State} {p : Part} {n : W32} {ovf : Bool} {rest : List (W32 × Bool)} (hc : (s.lsc p).closed = (n, ovf) :: rest)
    (hn : n = ctxStep s p + 1#32) (hgen : fbit s (Reg.tnCtl p) 30 = true → (stepRec s p n).gsum.isSome = true) :
    exec (.lsDecide p) s = .next (decideStep (s.setLsc p { s.lsc p with closed := rest }) p n ovf) := by
  change execLsDecide p s = _
  unfold execLsDecide
  rw [hc]
  refine (if_neg (fun h => h hn)).trans (if_neg ?_)
  cases hb : fbit s (Reg.tnCtl p) 30 with
  | false => simp
  | true => simp [Option.isNone_eq_false_iff.mpr (hgen hb)]

theorem decideStep_concluded {s : State} {p : Part} {n : W32} {ovf : Bool} (href : ovf = false → (stepRec s p n).refused = false) :
    Concluded p n (if ovf then .suppressed else if wouldHold s p n then .held else .applied) (decided s p n ovf) (decideStep s p n ovf) ∧
      (ovf = false → wouldHold s p n = true → fbit s (Reg.tnHold p) 31 = false →
        fbit (decideStep s p n ovf) (Reg.tnHold p) 31 = true ∧ fget (decideStep s p n ovf) (Reg.tnHold p) 63 32 = n.toNat) := by
  obtain ⟨hrec, -, -, hrd, -⟩ := decided_spec s p n ovf
  have hkeep : ∀ off, off = Reg.tnCtl p ∨ off = Reg.tnRatio p ∨ off = Reg.tnEma p ∨ off = Reg.tnWarm p ∨ off = Reg.tnHold p →
      rd (decided s p n ovf) off = rd s off := fun off ho => by
    unfold Reg.tnCtl Reg.tnRatio Reg.tnEma Reg.tnWarm Reg.tnHold at ho
    refine hrd off ?_ ?_
    · unfold Reg.lsState
      omega
    · unfold Reg.tnLast
      omega
  have hcause : teaselCause (decided s p n ovf) p n = teaselCause s p n :=
    teaselCause_congr (fun off ho => hkeep off (ho.imp_right fun h => h.imp_right fun h => h.imp_right .inl)) (by rw [hrec]) (by rw [hrec])
      (by rw [hrec])
  have hhold : wouldHold (decided s p n ovf) p n = wouldHold s p n := by
    unfold wouldHold
    rw [hcause, fbit_congr_rd (hkeep _ (.inl rfl))]
  have hthold : fbit (decided s p n ovf) (Reg.tnHold p) 31 = fbit s (Reg.tnHold p) 31 :=
    fbit_congr_rd (hkeep _ (.inr (.inr (.inr (.inr rfl))))) 31
  have hlsc : Reg.lsState p ≠ Reg.lsCounts p := by unfold Reg.lsState Reg.lsCounts; omega
  rw [decideStep_eq]
  generalize decided s p n ovf = d at *
  cases ovf with
  | true =>
    have hls : (finc d (Reg.lsCounts p) 63 32 1).ls = d.ls := rfl
    have hstate : rd (finc d (Reg.lsCounts p) 63 32 1) (Reg.lsState p) = rd d (Reg.lsState p) := rd_finc_other _ _ _ _ hlsc
    rw [if_pos rfl, if_pos rfl]
    generalize finc d (Reg.lsCounts p) 63 32 1 = u at hls hstate ⊢
    exact ⟨(skipped_concluded u p n .suppressed).of hls hstate, fun h => absurd h (by decide)⟩
  | false =>
    have hno : ¬ (stepRec d p n).refused = true := by
      rw [hrec]
      simp [href rfl]
    have hff : ¬ (false = true) := by decide
    rw [if_neg hff, if_neg hff, if_neg hno, ← hhold, ← hthold]
    obtain ⟨hcon, hshow⟩ := teasel_spec d p n
    exact ⟨hcon, fun _ => hshow⟩

/-- Settles O30: the verdict exchange, the decision, APPLY and DISCARD. -/
theorem stepDecisions : Obligations.StepDecisions := by
  refine ⟨fun s p others h => verdictExchange_spec h, fun s p n ovf rest hc hn => ?_, fun s p n ovf rest hc hn hgen href => ?_,
    fun s p v hr hheld => ?_⟩
  · change execLsDecide p s = _
    unfold execLsDecide
    rw [hc]
    exact if_pos hn
  · have hexec := lsDecide_spec hc hn hgen
    have hls : (s.setLsc p { s.lsc p with closed := rest }).lsc p = { s.lsc p with closed := rest } := State.lsc_setLsc _ _ _
    have hrec : stepRec (s.setLsc p { s.lsc p with closed := rest }) p n = stepRec s p n := by
      unfold stepRec
      rw [hls]
      rfl
    have hregs : (s.setLsc p { s.lsc p with closed := rest }).regs = s.regs := rfl
    generalize s.setLsc p { s.lsc p with closed := rest } = s1 at *
    have hcause : teaselCause s1 p n = teaselCause s p n :=
      teaselCause_congr (fun off _ => rd_congr hregs off) (by rw [hrec]) (by rw [hrec]) (by rw [hrec])
    have hhold : wouldHold s1 p n = wouldHold s p n := by
      unfold wouldHold
      rw [hcause, fbit_congr hregs]
    have hx : ctxExp s1 p = ctxExp s p := by
      unfold ctxExp
      rw [fget_congr hregs]
    have hon : lsOn s1 p = lsOn s p := fbit_congr hregs _ _
    obtain ⟨hdrec, hdclosed, hdstep, -, hov, hup, hcl⟩ := decided_spec s1 p n ovf
    obtain ⟨hcon, hshow⟩ := decideStep_concluded (s := s1) (p := p) (n := n) (ovf := ovf) (by rw [hrec]; exact href)
    rw [hhold] at hcon hshow
    rw [fbit_congr hregs] at hshow
    rw [hx, hon] at hov
    rw [hx, hon, fget_congr hregs, fget_congr hregs] at hup hcl
    generalize decided s1 p n ovf = d at *
    generalize decideStep s1 p n ovf = t at *
    have hclean : fget t (Reg.lsState p) 15 0 = fget d (Reg.lsState p) 15 0 := hcon.state _ _ (by unfold besideFlags; omega)
    have hexp : ctxExp t p = ctxExp d p := by
      unfold ctxExp
      rw [hcon.state 31 26 (by unfold besideFlags; omega)]
    refine ⟨t, hexec, ?_, ?_, ?_, ?_, hcon.outcome, hshow, ?_, ?_, ?_⟩
    · rw [hcon.state _ _ (by unfold besideFlags; omega), hdstep]
    · rw [hcon.exp, hdrec, hx]
    · rw [hcon.closed, hdclosed, hls]
    · rw [hcon.reduced, hdrec]
    · rw [hexp, hclean]
      exact hov
    · rw [hexp, hclean]
      exact hup
    · rw [hexp, hclean]
      exact hcl
  · intro n other
    obtain ⟨low, hlow⟩ := dropLow_frame s 0 (Reg.tnHold p)
    have hregs : (s.dropLow 0 (Reg.tnHold p)).regs = s.regs := by rw [hlow]
    have hls : (s.dropLow 0 (Reg.tnHold p)).ls = s.ls := by rw [hlow]
    have hmem : sameMemory s (s.dropLow 0 (Reg.tnHold p)) := by rw [hlow]; exact ⟨rfl, rfl⟩
    have hother : heldBeside (s.dropLow 0 (Reg.tnHold p)) p n = other := heldBeside_congr hls p n
    have hb : fbit (s.dropLow 0 (Reg.tnHold p)) (Reg.tnHold p) 31 = true := (fbit_congr hregs _ _).trans hheld
    have hn : BitVec.ofNat 32 (fget (s.dropLow 0 (Reg.tnHold p)) (Reg.tnHold p) 63 32) = n := by rw [fget_congr hregs]
    refine ⟨fun h1 => ?_, fun h1 h0 href => ?_⟩
    · obtain ⟨hbit, hout, hcount⟩ := holdDiscard_spec (v := v.toNat) hb ((bit_toNat v 1).trans h1)
      rw [hn] at hbit hout
      refine ⟨_, hostCmd_up hr _, hbit.trans hother, hout, hcount.trans (by rw [fget_congr hregs])⟩
    · obtain ⟨hbit, hout, hcount, hmem2⟩ := holdApply_spec (v := v.toNat) hb ((bit_toNat v 1).trans h1) ((bit_toNat v 0).trans h0)
        (by rw [hn, stepRec_congr hls]; exact href)
      rw [hn] at hbit hout
      exact ⟨_, hostCmd_up hr _, hbit.trans hother, hout, hcount.trans (by rw [fget_congr hregs]), hmem2.1.trans hmem.1, hmem2.2.trans hmem.2⟩

end Sys2Proof.Proofs
end

section
/-! PROOFS. Mailbox words, OWN bits and device notices: O45. -/

namespace Sys2Proof.Proofs
open Sys2Proof.Machine

/-! ### What each write of the mailbox leaves -/

/-- A run of keys put to zero reads zero at each of them. -/
theorem get_foldl_put_zero (tab : Tab W64) (base : Nat) {n w : Nat} (hw : w < n) :
    Tab.get 0#64 ((List.range n).foldl (fun t k => Tab.put 0#64 t (base + k) 0#64) tab) (base + w) = 0#64 := by
  induction n with
  | zero => omega
  | succ n ih =>
    rw [List.range_succ, List.foldl_concat]
    by_cases h : w = n
    · rw [h, Tab.get_put_self]
    · rw [Tab.get_put_other _ _ _ (by omega), ih (by omega)]

theorem mailboxWordWrite_up {s : State} (hr : reachable s = true) (tenant : Bool) (i : Inst) (slot : Fin 16) (w : Fin 8) (v : W64) :
    ∃ low, exec (.mailboxWordWrite tenant i slot w v) s = .next (writeWord { s with lowPend := low } tenant i slot w v) := by
  obtain ⟨low, hlow⟩ := dropLow_frame s (if tenant then i.val + 1 else 0)
    (if tenant then 0x81000 + 0x40 * slot.val + 8 * w.val else 0x108000 + 0x1000 * i.val + 0x400 + 0x40 * slot.val + 8 * w.val)
  refine ⟨low, ?_⟩
  rw [← hlow]
  exact hostCmd_up hr _

/-- The tenant publishes: its OWN bits gain the mask, and the PF's vector 0 is raised where one of them was clear. -/
theorem mbPublish_up (s : State) (i : Nat) (mask : W16) :
    let own := Tab.get 0#16 s.mbUpOwn i
    let t := mbPublish s true i mask
    Tab.get 0#16 t.mbUpOwn i = (own ||| mask) ∧ t.mbUp = s.mbUp ∧ sameMemory s t ∧
      (¬ (own ||| mask) = own → t.out = s.out ++ [.msix 0 0]) := by
  intro own t
  by_cases h : (own ||| mask) = own
  · have ht : t = s := if_pos h
    rw [ht]
    exact ⟨h.symm, rfl, ⟨rfl, rfl⟩, fun hn => absurd h hn⟩
  · have ht : t = msix { s with mbUpOwn := Tab.put 0#16 s.mbUpOwn i (own ||| mask) } 0 0 := if_neg h
    rw [ht]
    exact ⟨Tab.get_put_self _ _ _ _, rfl, ⟨rfl, rfl⟩, fun _ => rfl⟩

/-- The manager releases: the OWN bits of the mask clear, and the VF's vector 0 is raised where one of them was set. -/
theorem mbRelease_up (s : State) (i : Inst) (mask : W16) :
    let own := Tab.get 0#16 s.mbUpOwn i
    let t := mbRelease s false i mask
    Tab.get 0#16 t.mbUpOwn i = (own &&& ~~~mask) ∧ t.mbUp = s.mbUp ∧ sameMemory s t ∧
      (¬ (own &&& ~~~mask) = own → t.out = s.out ++ [.msix i.succ 0]) := by
  intro own t
  by_cases h : (own &&& ~~~mask) = own
  · have ht : t = s := if_pos h
    rw [ht]
    exact ⟨h.symm, rfl, ⟨rfl, rfl⟩, fun hn => absurd h hn⟩
  · have ht : t = msix { s with mbUpOwn := Tab.put 0#16 s.mbUpOwn i (own &&& ~~~mask) } (i + 1) 0 := if_neg h
    have hi : fin 16 (i.val + 1) = i.succ := Fin.ext (Nat.mod_eq_of_lt (by omega))
    rw [ht]
    exact ⟨Tab.get_put_self _ _ _ _, rfl, ⟨rfl, rfl⟩, fun _ => by rw [← hi]; rfl⟩

/-- The tenant releases with no notice waiting: the OWN bits of the mask clear. -/
theorem mbRelease_down {s : State} (i : Inst) (mask : W16) (hn : (s.inst i).notices = []) :
    Tab.get 0#16 (mbRelease s true i mask).mbDownOwn i = (Tab.get 0#16 s.mbDownOwn i &&& ~~~mask) ∧
      sameMemory s (mbRelease s true i mask) := by
  by_cases h : (Tab.get 0#16 s.mbDownOwn i &&& ~~~mask) = Tab.get 0#16 s.mbDownOwn i
  · have ht : mbRelease s true i mask = s := if_pos h
    rw [ht]
    exact ⟨h.symm, rfl, rfl⟩
  · have ht : mbRelease s true i mask =
        postNotice (msix { s with mbDownOwn := Tab.put 0#16 s.mbDownOwn i (Tab.get 0#16 s.mbDownOwn i &&& ~~~mask) } 0 0) i := if_neg h
    have hn' : ((msix { s with mbDownOwn := Tab.put 0#16 s.mbDownOwn i (Tab.get 0#16 s.mbDownOwn i &&& ~~~mask) } 0 0).inst i).notices = [] := hn
    have hp (u : State) (hu : (u.inst i).notices = []) : postNotice u i = u := by unfold postNotice; rw [hu]
    rw [ht, hp _ hn']
    exact ⟨Tab.get_put_self _ _ _ _, rfl, rfl⟩

/-- The front notice goes to the clear slot 15: kind and argument in its first word, the rest zero. -/
theorem postNotice_spec {s : State} {i : Inst} {k : BitVec 8} {a : W32} {rest : List (BitVec 8 × W32)}
    (hn : (s.inst i).notices = (k, a) :: rest) (hown : (Tab.get 0#16 s.mbDownOwn i).getLsbD 15 = false) :
    let t := postNotice s i
    (t.inst i).notices = rest ∧ (Tab.get 0#16 t.mbDownOwn i).getLsbD 15 = true ∧
      Tab.get 0#64 t.mbDown (i.val * 128 + 120) = BitVec.ofNat 64 (k.toNat + a.toNat * 2 ^ 32) ∧
      (∀ w, 1 ≤ w → w < 8 → Tab.get 0#64 t.mbDown (i.val * 128 + 120 + w) = 0#64) ∧
      t.out = s.out ++ [.msix i.succ 0] ∧ sameMemory s t := by
  intro t
  have hi : fin 16 (i.val + 1) = i.succ := Fin.ext (Nat.mod_eq_of_lt (by omega))
  have ht : t = msix { s with
      insts := Tab.upd {} s.insts i fun x => { x with notices := rest }
      mbDown := Tab.put 0#64 ((List.range 8).foldl (fun t w => Tab.put 0#64 t (i.val * 128 + 120 + w) 0#64) s.mbDown) (i.val * 128 + 120)
        (BitVec.ofNat 64 (k.toNat + a.toNat * 2 ^ 32))
      mbDownOwn := Tab.put 0#16 s.mbDownOwn i (Tab.get 0#16 s.mbDownOwn i ||| 0x8000#16) } (i + 1) 0 := by
    show postNotice s i = _
    unfold postNotice
    rw [hn]
    exact if_neg (by rw [hown]; exact Bool.false_ne_true)
  rw [ht]
  refine ⟨?_, ?_, Tab.get_put_self _ _ _ _, fun w h1 h8 => ?_, by rw [← hi]; rfl, rfl, rfl⟩
  · simp [State.inst, msix, State.emit]
  · show (Tab.get 0#16 (Tab.put 0#16 s.mbDownOwn i _) i).getLsbD 15 = true
    rw [Tab.get_put_self, BitVec.getLsbD_or, hown]
    decide
  · show Tab.get 0#64 (Tab.put 0#64 _ _ _) _ = 0#64
    rw [Tab.get_put_other _ _ _ (by omega), get_foldl_put_zero _ _ h8]

/-- Settles O45: each command's write of the words, the OWN bits and the notices. -/
theorem mailboxCommands : Obligations.MailboxCommands := by
  unfold Obligations.MailboxCommands
  intro s i
  refine ⟨fun hr => ⟨fun slot w v => ⟨fun hown => ?_, fun hown => ?_, fun h15 hown => ?_⟩, fun mask => ⟨?_, ?_, fun hn => ?_⟩⟩,
    fun k a rest hn hown => ⟨_, rfl, postNotice_spec hn hown⟩⟩
  · obtain ⟨low, he⟩ := mailboxWordWrite_up hr true i slot w v
    refine ⟨{ s with lowPend := low, mbUp := Tab.put 0#64 s.mbUp (i.val * 128 + slot.val * 8 + w.val) v },
      he.trans (congrArg _ (if_neg ?_)), Tab.get_put_self _ _ _ _, rfl, ⟨rfl, rfl⟩, rfl⟩
    rw [Bool.not_eq_true]
    exact hown
  · obtain ⟨low, he⟩ := mailboxWordWrite_up hr true i slot w v
    refine ⟨{ s with lowPend := low, mbUpDrop := Tab.upd 0 s.mbUpDrop i fun n => satAdd 16 n 1 },
      he.trans (congrArg _ (if_pos hown)), rfl, ?_, rfl, rfl⟩
    simp [satAdd]
  · obtain ⟨low, he⟩ := mailboxWordWrite_up hr false i slot w v
    refine ⟨{ s with lowPend := low, mbDown := Tab.put 0#64 s.mbDown (i.val * 128 + slot.val * 8 + w.val) v },
      he.trans (congrArg _ ((if_neg h15).trans (if_neg ?_))), Tab.get_put_self _ _ _ _, rfl, ⟨rfl, rfl⟩, rfl⟩
    rw [Bool.not_eq_true]
    exact hown
  · exact ⟨_, hostCmd_up hr _, mbPublish_up s i mask⟩
  · exact ⟨_, hostCmd_up hr _, mbRelease_up s i mask⟩
  · exact ⟨_, hostCmd_up hr _, mbRelease_down i mask hn⟩

end Sys2Proof.Proofs
end

section
/-! PROOFS. Staged rule pairs, their commit and the end of a rule change: O38. -/

namespace Sys2Proof.Proofs
open Sys2Proof.Machine

/-- A whole write of a reachable function runs on the state but for the half writes it waits for. -/
theorem hostWide_up {s : State} (hr : reachable s = true) (fn off : Nat) (f : State → State) :
    ∃ low, hostWide s fn off f = .next (f { s with lowPend := low }) := by
  obtain ⟨low, hlow⟩ := dropLow_frame s fn off
  refine ⟨low, ?_⟩
  rw [← hlow]
  exact hostCmd_up hr _

theorem inst_fset (s : State) (off hi lo v i : Nat) : (fset s off hi lo v).inst i = s.inst i := rfl

/-! ### Rule pairs (R312 to R314) -/

theorem isRulectl_ne_isXidx (i j : Nat) (hi : i < 16) (hj : j < 16) : Reg.isRulectl i ≠ Reg.isXidx j := by
  unfold Reg.isRulectl Reg.isXidx
  omega

theorem isRulectl_ne_isEpoch (i j : Nat) (hi : i < 16) (hj : j < 16) : Reg.isRulectl i ≠ Reg.isEpoch j := by
  unfold Reg.isRulectl Reg.isEpoch
  omega

/-- A pair that is taken joins the staged ones at IS_XIDX, which counts on. -/
theorem writeXval_spec {s : State} (i : Inst) (v : W64) (hs : sealed s = false) (hroom : (s.inst i).staged.length < 64) :
    let t := writeXval s i v
    (t.inst i).staged = (s.inst i).staged ++ [(fget s (Reg.isXidx i) 23 0, v)] ∧
      fget t (Reg.isXidx i) 23 0 = (fget s (Reg.isXidx i) 23 0 + 1) % 2 ^ 24 ∧ fget t (Reg.isRulectl i) 6 0 = (s.inst i).staged.length + 1 ∧
      t.xlat = s.xlat ∧ sameMemory s t ∧ ∀ off, off ≠ Reg.isXidx i → off ≠ Reg.isRulectl i → rd t off = rd s off := by
  intro t
  have ht : t = fset (fset (s.updInst i fun x => { x with staged := x.staged ++ [(fget s (Reg.isXidx i) 23 0, v)] })
      (Reg.isRulectl i) 6 0 ((s.inst i).staged.length + 1)) (Reg.isXidx i) 23 0 (fget s (Reg.isXidx i) 23 0 + 1) :=
    (if_neg (by simp [hs])).trans (if_neg (by omega))
  have hne := isRulectl_ne_isXidx i i i.isLt i.isLt
  rw [ht]
  refine ⟨?_, fget_fset_self _ _ _ (by omega) (by omega), ?_, rfl, ⟨rfl, rfl⟩, fun off hx hc => ?_⟩
  · rw [inst_fset, inst_fset, State.inst_updInst]
  · rw [fget_fset_other _ _ _ _ _ _ hne, fget_fset_self _ _ _ (by omega) (by omega)]
    omega
  · rw [rd_fset_other _ _ _ _ hx, rd_fset_other _ _ _ _ hc]
    rfl

/-- The staged pairs are applied at once, as one rule change. -/
theorem applyStaged_spec (s : State) (i : Inst) :
    let t := applyStaged s i
    (t.inst i).staged = [] ∧ ruleBusy t i = true ∧
      t.xlat = (s.inst i).staged.foldl (fun x (k : Nat × W64) => Tab.put 0#64 x (i.val * 2 ^ 24 + k.1) k.2) s.xlat ∧
      fget t (Reg.isEpoch i) 15 0 = (fget s (Reg.isEpoch i) 15 0 + 1) % 2 ^ 16 ∧ fget t (Reg.isRulectl i) 6 0 = 0 ∧ sameMemory s t := by
  intro t
  have hne := isRulectl_ne_isEpoch i i i.isLt i.isLt
  have he (u : State) : fget (ruleChange u i) (Reg.isEpoch i) 15 0 = (fget u (Reg.isEpoch i) 15 0 + 1) % 2 ^ 16 := by
    unfold ruleChange
    rw [fget_fset_other _ _ _ _ _ _ hne.symm, fget_fset_self _ _ _ (by omega) (by omega)]
  have hc (u : State) : fget (ruleChange u i) (Reg.isRulectl i) 6 0 = fget u (Reg.isRulectl i) 6 0 := by
    unfold ruleChange
    rw [fget_fset_field _ _ _ (by omega) (by omega) (by omega) (Or.inr (by omega)), fget_fset_other _ _ _ _ _ _ hne]
  refine ⟨?_, ruleBusy_ruleChange _ _, rfl, ?_, ?_, rfl, rfl⟩
  · show ((ruleChange _ i).inst i).staged = []
    unfold ruleChange
    rw [inst_fset, inst_fset, inst_fset, State.inst_updInst]
  · exact (he _).trans (congrArg (fun n => (n + 1) % 2 ^ 16) (fget_fset_other _ _ _ _ _ _ hne.symm))
  · exact (hc _).trans (fget_fset_self _ _ _ (by omega) (by omega))

/-- What a COMMIT runs on: the state, its error bit cleared where the write asks it. -/
theorem writeRulectl_commit {s : State} (i : Inst) {v : Nat} (hv : bit v 31 = true) (hs : sealed s = false) :
    ∃ u, (u.insts = s.insts ∧ u.xlat = s.xlat ∧ sameMemory s u ∧ ∀ off, off ≠ Reg.isRulectl i → rd u off = rd s off) ∧
      writeRulectl s i v = if ruleBusy s i then u.updInst i fun x => { x with commitQ := true } else applyStaged u i := by
  refine ⟨if bit v 29 then fset s (Reg.isRulectl i) 29 29 0 else s, ?_, if_neg (by simp [hv, hs])⟩
  split
  · exact ⟨rfl, rfl, ⟨rfl, rfl⟩, fun _ => rd_fset_other _ _ _ _⟩
  · exact ⟨rfl, rfl, ⟨rfl, rfl⟩, fun _ _ => rfl⟩

/-- The end of a rule change clears BUSY and writes the completions that waited for it. -/
theorem ruleChangeComplete_spec {s : State} (i : Inst) (hb : ruleBusy s i = true) (hq : (s.inst i).commitQ = false) :
    ∃ t, exec (.ruleChangeComplete i) s = .next t ∧ ruleBusy t i = false ∧ (t.inst i).deferred = [] ∧ t.dev = s.dev ∧ t.xlat = s.xlat := by
  let u := fset (s.updInst i fun x => { x with deferred := [] }) (Reg.isRulectl i) 30 30 0
  have hp : Posted u ((s.inst i).deferred.foldl writeCompl u) := Posted.foldl Posted.refl fun _ c h => h.writeCompl c
  have hinst : ((s.inst i).deferred.foldl writeCompl u).inst i = { s.inst i with deferred := [] } :=
    
    (hp.proj (fun w => w.inst i) fun _ _ _ _ _ => rfl).trans ((inst_fset _ _ _ _ _ i).trans (State.inst_updInst s i _))
  refine ⟨(s.inst i).deferred.foldl writeCompl u, ?_, ?_, ?_, hp.dev, hp.proj State.xlat fun _ _ _ _ _ => rfl⟩
  · refine (if_neg (by simp [hb])).trans (congrArg Host.Outcome.next (if_neg ?_))
    rw [show ((List.foldl writeCompl u (s.inst i).deferred).inst i).commitQ = false by rw [hinst]; exact hq]
    exact Bool.false_ne_true
  · exact (hp.fbit (postFixed_isRulectl i) 30).trans ((fbit_fset_self _ _ _ (by omega)).trans rfl)
  · rw [hinst]

/-- Settles O38: staging, COMMIT and the end of a rule change. -/
theorem ruleChangesComplete : Obligations.RuleChangesComplete := by
  unfold Obligations.RuleChangesComplete
  intro s i
  refine ⟨fun v hr hs hroom => ?_, fun v hr hs hv => ⟨fun hb => ?_, fun hb => ?_⟩, ruleChangeComplete_spec i⟩
  · obtain ⟨low, he⟩ := hostWide_up hr 0 (Reg.isXval i) fun t => writeXval t i v
    exact ⟨_, he, writeXval_spec (s := { s with lowPend := low }) i v hs hroom⟩
  · obtain ⟨u, ⟨hi, hx, hm, hrd⟩, hu⟩ := writeRulectl_commit (s := s) i (v := v.toNat) ((bit_toNat v 31).trans hv) hs
    rw [if_neg (by simp [hb])] at hu
    obtain ⟨hst, hbusy, hxl, hep, hcnt, hdev, hhost⟩ := applyStaged_spec u i
    have hinst : u.inst i = s.inst i := by unfold State.inst; rw [hi]
    refine ⟨_, hostCmd_up hr _, ?_⟩
    rw [hu]
    refine ⟨hst, hbusy, ?_, ?_, hcnt, hdev.trans hm.1, hhost.trans hm.2⟩
    · rw [hxl, hinst, hx]
    · rw [hep, fget_congr_rd (hrd _ (isRulectl_ne_isEpoch i i i.isLt i.isLt).symm)]
  · obtain ⟨u, ⟨hi, hx, hm, hrd⟩, hu⟩ := writeRulectl_commit (s := s) i (v := v.toNat) ((bit_toNat v 31).trans hv) hs
    rw [if_pos hb] at hu
    refine ⟨_, hostCmd_up hr _, ?_⟩
    rw [hu]
    exact ⟨congrArg InstX.commitQ (State.inst_updInst u i _), hx, hm⟩

end Sys2Proof.Proofs
end

section
/-! PROOFS. What the release of items, and the stop of an item without a record, leave alone: for O40 to O42 and the resets. -/

namespace Sys2Proof.Proofs
open Sys2Proof.Machine

/-- Items were released: cores, the ledger, what waits for them and the trace may have changed, no register but the trace's; nothing
joined the queue of eligible items. -/
def Frees (s t : State) : Prop :=
  (∃ regs cores led sent jobs journal elig ctx trFifo trDrop, t = { s with
    regs := regs, cores := cores, led := led, sent := sent, jobs := jobs, journal := journal, elig := elig, ctx := ctx, trFifo := trFifo,
    trDrop := trDrop }) ∧ (∀ off, off < 0xB00000 → rd t off = rd s off) ∧ ∀ x ∈ t.elig, x ∈ s.elig

section
variable {s t u : State}

theorem Frees.refl : Frees s s := ⟨⟨_, _, _, _, _, _, _, _, _, _, rfl⟩, fun _ _ => rfl, fun _ hx => hx⟩

theorem Frees.trans (h : Frees s t) (g : Frees t u) : Frees s u := by
  obtain ⟨⟨_, _, _, _, _, _, _, _, _, _, rfl⟩, h, he⟩ := h
  obtain ⟨⟨_, _, _, _, _, _, _, _, _, _, rfl⟩, g, ge⟩ := g
  exact ⟨⟨_, _, _, _, _, _, _, _, _, _, rfl⟩, fun off ho => (g off ho).trans (h off ho), fun x hx => he x (ge x hx)⟩

theorem Frees.rd (h : Frees s t) {off : Nat} (ho : off < 0xB00000) : rd t off = rd s off := h.2.1 off ho

theorem Frees.elig (h : Frees s t) : ∀ x ∈ t.elig, x ∈ s.elig := h.2.2

/-- What ignores what a release changes is as it was. -/
theorem Frees.proj (h : Frees s t) {α : Type} (π : State → α)
    (hπ : ∀ (u : State) regs cores led sent jobs journal elig ctx trFifo trDrop, π { u with
      regs := regs, cores := cores, led := led, sent := sent, jobs := jobs, journal := journal, elig := elig, ctx := ctx, trFifo := trFifo,
      trDrop := trDrop } = π u) : π t = π s := by
  obtain ⟨⟨_, _, _, _, _, _, _, _, _, _, rfl⟩, -⟩ := h
  exact hπ _ _ _ _ _ _ _ _ _ _ _

/-- A change that leaves every register and adds no eligible item. -/
theorem Frees.still (h : Frees s t) (g : ∃ cores led sent jobs journal elig ctx trFifo trDrop, u = { t with
    cores := cores, led := led, sent := sent, jobs := jobs, journal := journal, elig := elig, ctx := ctx, trFifo := trFifo,
    trDrop := trDrop }) (he : ∀ x ∈ u.elig, x ∈ t.elig) : Frees s u := by
  obtain ⟨_, _, _, _, _, _, _, _, _, rfl⟩ := g
  exact h.trans ⟨⟨_, _, _, _, _, _, _, _, _, _, rfl⟩, fun _ _ => rfl, he⟩

theorem Frees.foldl {α : Type} {f : State → α → State} {l : List α} (h : Frees s t) (hf : ∀ u x, Frees s u → Frees s (f u x)) :
    Frees s (l.foldl f t) :=
  List.foldlRecOn (motive := Frees s) l f h fun u hu x _ => hf u x hu

theorem Frees.fsetTrace (h : Frees s t) (d hi lo v : Nat) : Frees s (Machine.fset t (Reg.trPtr d) hi lo v) :=
  h.trans ⟨⟨_, _, _, _, _, _, _, _, _, _, rfl⟩, fun off ho => rd_fset_other _ _ _ _ (by unfold Reg.trPtr; omega),
    fun _ hx => hx⟩

theorem Frees.tracePut (h : Frees s t) (src body typ : Nat) : Frees s (tracePut t src body typ) := by
  have hput : ∀ fifo drop, Frees s { t with trFifo := fifo, trDrop := drop } := fun fifo drop =>
    h.still ⟨_, _, _, _, _, _, _, _, _, rfl⟩ fun _ hx => hx
  unfold Machine.tracePut
  dsimp only
  split
  · exact h
  split
  · exact (hput _ _).fsetTrace _ _ _ _
  split
  · exact hput _ _
  split
  · exact (hput _ _).fsetTrace _ _ _ _
  · exact hput _ _

theorem Frees.leaveCore (h : Frees s t) (key : Nat) (e : Led) (status : Nat) : Frees s (leaveCore t key e status) := by
  unfold Machine.leaveCore
  split
  · exact h
  · refine Frees.still (t := traceItemEnd t e.coreNo e status) ?_ ⟨_, _, _, _, _, _, _, _, _, rfl⟩ fun _ hx => hx
    unfold traceItemEnd
    split
    · exact h.tracePut _ _ _
    · exact h

theorem Frees.releaseItem (h : Frees s t) (key status : Nat) : Frees s (releaseItem t key status) := by
  unfold Machine.releaseItem
  split
  · exact h
  · exact (h.leaveCore _ _ _).still ⟨_, _, _, _, _, _, _, _, _, rfl⟩ fun _ hx => (List.mem_filter.mp hx).1

end

/-- Unlisting a key keeps the entries of the other keys. -/
theorem Tab.erase_eq_filter {α : Type} (tab : Tab α) (k : Nat) : Tab.erase tab k = tab.filter fun kv => kv.1 ≠ k := by
  induction tab with
  | nil => rfl
  | cons kv tab ih =>
    obtain ⟨j, v⟩ := kv
    by_cases h : j = k
    · rw [List.filter_cons_of_neg (by simp [h]), ← ih]
      exact if_pos h
    · rw [List.filter_cons_of_pos (by simp [h]), ← ih]
      exact if_neg h

theorem Tab.ne_of_find_none {α : Type} {tab : Tab α} {k : Nat} (h : Tab.find tab k = none) : ∀ kv ∈ tab, kv.1 ≠ k := by
  induction tab with
  | nil => exact fun _ hx => absurd hx List.not_mem_nil
  | cons kv tab ih =>
    obtain ⟨j, v⟩ := kv
    have hj : j ≠ k := fun hj => absurd ((if_pos hj).symm.trans h) (by simp)
    exact List.forall_mem_cons.mpr ⟨hj, ih ((if_neg hj).symm.trans h)⟩

theorem leaveCore_led (s : State) (key : Nat) (e : Led) (status : Nat) : (leaveCore s key e status).led = s.led := by
  unfold leaveCore
  split
  · rfl
  · exact ((Duty.refl (s := s)).traceItemEnd _ _ _).led

/-- A release erases the key from the ledger and leaves every other entry. -/
theorem releaseItem_led (s : State) (key status : Nat) : (releaseItem s key status).led = Tab.erase s.led key := by
  unfold releaseItem
  split
  next h =>
    rw [Tab.erase_eq_filter]
    exact (List.filter_eq_self.mpr fun kv hkv => decide_eq_true (Tab.ne_of_find_none h kv hkv)).symm
  next e h => exact congrArg (Tab.erase · key) (leaveCore_led s key e status)

end Sys2Proof.Proofs
end

section
/-! PROOFS. Reset, quiesce and resume of an instance: O41. -/

namespace Sys2Proof.Proofs
open Sys2Proof.Machine

/-! ### What the clearing of an instance leaves (R287) -/

/-- Work was cut: no register but the trace's and the swaps' status changed, no memory and no key; nothing joined what is admitted,
eligible or in the ledger. -/
def Cut (s t : State) : Prop :=
  (∃ regs cores led sent jobs journal elig ctx trFifo trDrop ops resv pages descs parts stage12 streams asm peers accepted rings gens lowPend hiLatch out,
    t = { s with
      regs := regs, cores := cores, led := led, sent := sent, jobs := jobs, journal := journal, elig := elig, ctx := ctx, trFifo := trFifo,
      trDrop := trDrop, ops := ops, resv := resv, pages := pages, descs := descs, parts := parts, stage12 := stage12, streams := streams,
      asm := asm, peers := peers, accepted := accepted, rings := rings, gens := gens, lowPend := lowPend, hiLatch := hiLatch, out := out }) ∧
  (∀ off, off < 0xB00000 → (∀ p, off ≠ Reg.adSwapstat p) → rd t off = rd s off) ∧
  (∀ o ∈ t.ops, o ∈ s.ops) ∧ (∀ x ∈ t.elig, x ∈ s.elig) ∧ ∀ kv ∈ t.led, kv ∈ s.led

section
variable {s t u : State}

theorem Cut.refl : Cut s s :=
  ⟨⟨_, _, _, _, _, _, _, _, _, _, _, _, _, _, _, _, _, _, _, _, _, _, _, _, _, rfl⟩, fun _ _ _ => rfl, fun _ h => h, fun _ h => h, fun _ h => h⟩

theorem Cut.trans (h : Cut s t) (g : Cut t u) : Cut s u := by
  obtain ⟨⟨_, _, _, _, _, _, _, _, _, _, _, _, _, _, _, _, _, _, _, _, _, _, _, _, _, rfl⟩, hr, ho, he, hl⟩ := h
  obtain ⟨⟨_, _, _, _, _, _, _, _, _, _, _, _, _, _, _, _, _, _, _, _, _, _, _, _, _, rfl⟩, gr, go, ge, gl⟩ := g
  exact ⟨⟨_, _, _, _, _, _, _, _, _, _, _, _, _, _, _, _, _, _, _, _, _, _, _, _, _, rfl⟩,
    fun off hoff hs => (gr off hoff hs).trans (hr off hoff hs), fun x hx => ho x (go x hx), fun x hx => he x (ge x hx),
    fun x hx => hl x (gl x hx)⟩

/-- What ignores what a cut changes is as it was. -/
theorem Cut.proj (h : Cut s t) {α : Type} (π : State → α)
    (hπ : ∀ (u : State) regs cores led sent jobs journal elig ctx trFifo trDrop ops resv pages descs parts stage12 streams asm peers accepted rings gens lowPend hiLatch out,
      π { u with
        regs := regs, cores := cores, led := led, sent := sent, jobs := jobs, journal := journal, elig := elig, ctx := ctx,
        trFifo := trFifo, trDrop := trDrop, ops := ops, resv := resv, pages := pages, descs := descs, parts := parts, stage12 := stage12,
        streams := streams, asm := asm, peers := peers, accepted := accepted, rings := rings, gens := gens, lowPend := lowPend,
        hiLatch := hiLatch, out := out } = π u) : π t = π s := by
  obtain ⟨⟨_, _, _, _, _, _, _, _, _, _, _, _, _, _, _, _, _, _, _, _, _, _, _, _, _, rfl⟩, -⟩ := h
  exact hπ _ _ _ _ _ _ _ _ _ _ _ _ _ _ _ _ _ _ _ _ _ _ _ _ _ _

theorem Cut.dev (h : Cut s t) : t.dev = s.dev := h.proj State.dev fun _ _ _ _ _ _ _ _ _ _ _ _ _ _ _ _ _ _ _ _ _ _ _ _ _ _ => rfl

theorem Cut.host (h : Cut s t) : t.host = s.host := h.proj State.host fun _ _ _ _ _ _ _ _ _ _ _ _ _ _ _ _ _ _ _ _ _ _ _ _ _ _ => rfl

theorem Cut.ktab (h : Cut s t) : t.ktab = s.ktab := h.proj State.ktab fun _ _ _ _ _ _ _ _ _ _ _ _ _ _ _ _ _ _ _ _ _ _ _ _ _ _ => rfl

theorem Cut.ikeys (h : Cut s t) : t.ikeys = s.ikeys := h.proj State.ikeys fun _ _ _ _ _ _ _ _ _ _ _ _ _ _ _ _ _ _ _ _ _ _ _ _ _ _ => rfl

theorem Cut.insts (h : Cut s t) : t.insts = s.insts := h.proj State.insts fun _ _ _ _ _ _ _ _ _ _ _ _ _ _ _ _ _ _ _ _ _ _ _ _ _ _ => rfl

/-- A change that leaves the registers and the work. -/
theorem Cut.still (h : Cut s t) (g : ∃ sent jobs resv pages descs parts stage12 streams asm peers accepted rings gens lowPend hiLatch out,
    u = { t with
      sent := sent, jobs := jobs, resv := resv, pages := pages, descs := descs, parts := parts, stage12 := stage12, streams := streams,
      asm := asm, peers := peers, accepted := accepted, rings := rings, gens := gens, lowPend := lowPend, hiLatch := hiLatch,
      out := out }) : Cut s u := by
  obtain ⟨_, _, _, _, _, _, _, _, _, _, _, _, _, _, _, _, rfl⟩ := g
  exact h.trans ⟨⟨_, _, _, _, _, _, _, _, _, _, _, _, _, _, _, _, _, _, _, _, _, _, _, _, _, rfl⟩, fun _ _ _ => rfl, fun _ h => h, fun _ h => h,
    fun _ h => h⟩

/-- Entries of the ledger, admitted and eligible ones are left out. -/
theorem Cut.drop (h : Cut s t) (p : Op → Bool) (q : Elig → Bool) (resv : List Resv) :
    Cut s { t with ops := t.ops.filter p, elig := t.elig.filter q, resv := resv } :=
  h.trans ⟨⟨_, _, _, _, _, _, _, _, _, _, _, _, _, _, _, _, _, _, _, _, _, _, _, _, _, rfl⟩, fun _ _ _ => rfl,
    fun _ hx => (List.mem_filter.mp hx).1, fun _ hx => (List.mem_filter.mp hx).1, fun _ hx => hx⟩

theorem Cut.foldl {α : Type} {f : State → α → State} {l : List α} (h : Cut s t) (hf : ∀ u x, Cut s u → Cut s (f u x)) :
    Cut s (l.foldl f t) :=
  List.foldlRecOn (motive := Cut s) l f h fun u hu x _ => hf u x hu

theorem Cut.fsetSwapstat (h : Cut s t) (p hi lo v : Nat) : Cut s (fset t (Reg.adSwapstat p) hi lo v) :=
  h.trans ⟨⟨_, _, _, _, _, _, _, _, _, _, _, _, _, _, _, _, _, _, _, _, _, _, _, _, _, rfl⟩,
    fun _ _ hs => rd_fset_other _ _ _ _ (hs p), fun _ h => h, fun _ h => h, fun _ h => h⟩

theorem Cut.releaseItem (h : Cut s t) (key status : Nat) : Cut s (releaseItem t key status) := by
  have hf : Frees t (Machine.releaseItem t key status) := Frees.refl.releaseItem key status
  have hled : ∀ kv ∈ (Machine.releaseItem t key status).led, kv ∈ t.led := fun kv hkv => by
    rw [releaseItem_led, Tab.erase_eq_filter] at hkv
    exact (List.mem_filter.mp hkv).1
  refine h.trans ?_
  obtain ⟨⟨_, _, _, _, _, _, _, _, _, _, he⟩, hrd, helig⟩ := hf
  generalize Machine.releaseItem t key status = u at *
  subst he
  exact ⟨⟨_, _, _, _, _, _, _, _, _, _, _, _, _, _, _, _, _, _, _, _, _, _, _, _, _, rfl⟩, fun off ho _ => hrd off ho, fun _ h => h, helig, hled⟩

theorem Cut.startRestore (h : Cut s t) (p : Part) (n : W32) (g : Tag) : Cut s (startRestore t p n g) := by
  unfold Machine.startRestore askBuddy
  split
  · exact h.still ⟨_, _, _, _, _, _, _, _, _, _, _, _, _, _, _, _, rfl⟩
  · exact h.still ⟨_, _, _, _, _, _, _, _, _, _, _, _, _, _, _, _, rfl⟩

theorem Cut.stopUpdates (h : Cut s t) (keep : UpdJob → Bool) : Cut s (stopUpdates t keep) := by
  have hfold : Cut s ((t.jobs.filter fun j => !keep j).foldl (fun t j =>
      if j.stage != .waiting && !j.base then Machine.startRestore t j.part j.step j.tag else t) t) :=
    h.foldl fun u j hu => by
      split
      · exact hu.startRestore _ _ _
      · exact hu
  exact hfold.still ⟨_, _, _, _, _, _, _, _, _, _, _, _, _, _, _, _, rfl⟩

theorem Cut.abortStreamsOf (h : Cut s t) (i : Nat) : Cut s (abortStreamsOf t i) :=
  h.still ⟨_, _, _, _, _, _, _, _, _, _, _, _, _, _, _, _, rfl⟩

theorem Cut.dropSwapsOf (h : Cut s t) (i : Nat) : Cut s (dropSwapsOf t i) := by
  unfold Machine.dropSwapsOf
  extract_lets mine tags s1 s2
  have h1 : Cut s s1 := h.foldl fun u g hu =>
    Cut.still hu ⟨_, _, _, _, _, _, _, _, _, _, _, _, _, _, _, _, rfl⟩
  have h2 : Cut s s2 := h1.still ⟨_, _, _, _, _, _, _, _, _, _, _, _, _, _, _, _, rfl⟩
  exact h2.foldl fun u p hu => hu.fsetSwapstat p _ _ _

end

/-- Nothing of an instance is admitted, queued or in the ledger. -/
structure Emptied (s : State) (i : Nat) : Prop where
  ops : ∀ o ∈ s.ops, o.inst.val ≠ i
  elig : ∀ x ∈ s.elig, x.op.inst.val ≠ i
  led : ∀ kv ∈ s.led, kv.2.inst.val ≠ i

theorem Emptied.cut {s t : State} {i : Nat} (h : Emptied s i) (g : Cut s t) : Emptied t i := by
  obtain ⟨-, -, ho, he, hl⟩ := g
  exact ⟨fun o hx => h.ops o (ho o hx), fun x hx => h.elig x (he x hx), fun kv hx => h.led kv (hl kv hx)⟩

/-- The entries of the ledger that stand after the release of a list of keys. -/
theorem releases_led (keys : List Nat) (s : State) (status : Nat) :
    ∀ kv ∈ (keys.foldl (fun t key => releaseItem t key status) s).led, kv ∈ s.led ∧ kv.1 ∉ keys := by
  induction keys generalizing s with
  | nil => exact fun kv h => ⟨h, List.not_mem_nil⟩
  | cons k keys ih =>
    intro kv h
    obtain ⟨hled, hkeys⟩ := ih (releaseItem s k status) kv h
    rw [releaseItem_led, Tab.erase_eq_filter] at hled
    obtain ⟨hmem, hne⟩ := List.mem_filter.mp hled
    exact ⟨hmem, fun h => (List.mem_cons.mp h).elim (by simpa using hne) hkeys⟩

/-- The instance's work leaves first: what is admitted, what is eligible, what stands in the ledger. -/
def workDropped (s : State) (i : Nat) : State :=
  ((s.led.filter fun kv => kv.2.inst.val == i).map (·.1)).foldl (fun t key => releaseItem t key 0) { s with
    ops := s.ops.filter fun o => o.inst.val ≠ i
    elig := s.elig.filter fun x => x.op.inst.val ≠ i
    resv := s.resv.filter fun r => r.inst.val ≠ i }

theorem workDropped_cut (s : State) (i : Nat) : Cut s (workDropped s i) :=
  Cut.foldl (Cut.drop Cut.refl _ _ _) fun _ key h => h.releaseItem key 0

theorem workDropped_emptied (s : State) (i : Nat) : Emptied (workDropped s i) i := by
  have hc : Cut { s with
      ops := s.ops.filter fun o => o.inst.val ≠ i
      elig := s.elig.filter fun x => x.op.inst.val ≠ i
      resv := s.resv.filter fun r => r.inst.val ≠ i } (workDropped s i) := Cut.refl.foldl fun _ key h => h.releaseItem key 0
  obtain ⟨-, -, ho, he, -⟩ := hc
  refine ⟨fun o hx => of_decide_eq_true (List.mem_filter.mp (ho o hx)).2, fun x hx => of_decide_eq_true (List.mem_filter.mp (he x hx)).2,
    fun kv hkv hi => ?_⟩
  obtain ⟨hmem, hno⟩ := releases_led _ _ _ kv hkv
  exact hno (List.mem_map_of_mem (List.mem_filter.mpr ⟨hmem, beq_iff_eq.mpr hi⟩))

/-- The last part of the clearing: rings, generations, contexts and what waits at the ports of the instance. -/
def portsCleared (s4 : State) (i : Nat) : State :=
  { dropAsmOf s4 (fun c => (s4.peer c).inst.val == i && (s4.peer c).cls) with
    peers := s4.peers.map fun kv => (kv.1, if kv.2.inst.val == i && kv.2.cls && kv.2.st ≠ 0 then { kv.2 with st := 3 } else kv.2)
    accepted := s4.accepted.map fun kv => (kv.1, kv.2.filter fun a => a.inst.val ≠ i)
    rings := s4.rings.filter fun kv => kv.1 / 16384 ≠ i
    gens := s4.gens.filter fun kv => kv.1 / 65536 ≠ i
    lowPend := s4.lowPend.filter fun kv => !(kv.1 / 2 ^ 32 == i + 1 && decide (kv.1 % 2 ^ 32 < 0x80000))
    hiLatch := s4.hiLatch.filter fun kv => !(kv.1 / 2 ^ 32 == i + 1 && decide (kv.1 % 2 ^ 32 < 0x80000)) }

theorem Cut.portsCleared {s t : State} (h : Cut s t) (i : Nat) : Cut s (portsCleared t i) :=
  h.still ⟨_, _, _, _, _, _, _, _, _, _, _, _, _, _, _, _, rfl⟩

theorem clearInstance_eq (s : State) (i : Nat) :
    clearInstance s i = portsCleared (dropSwapsOf (abortStreamsOf (stopUpdates (workDropped s i) fun j => j.inst.val ≠ i) i) i) i := by
  unfold clearInstance
  extract_lets keys s1 s2 s3 s4 closed
  have hs4 : dropSwapsOf (abortStreamsOf (stopUpdates (workDropped s i) fun j => j.inst.val ≠ i) i) i = s4 := rfl
  rw [hs4]
  clear_value s4
  rfl

theorem clearInstance_spec (s : State) (i : Nat) :
    Emptied (clearInstance s i) i ∧ Cut s (clearInstance s i) ∧
      (∀ kv ∈ (clearInstance s i).rings, kv.1 / 16384 ≠ i) ∧ ∀ kv ∈ (clearInstance s i).gens, kv.1 / 65536 ≠ i := by
  have hcut : Cut (workDropped s i) (dropSwapsOf (abortStreamsOf (stopUpdates (workDropped s i) fun j => j.inst.val ≠ i) i) i) :=
    ((Cut.refl.stopUpdates _).abortStreamsOf i).dropSwapsOf i
  rw [clearInstance_eq]
  generalize dropSwapsOf (abortStreamsOf (stopUpdates (workDropped s i) fun j => j.inst.val ≠ i) i) i = w at *
  exact ⟨(workDropped_emptied s i).cut (hcut.portsCleared i), (workDropped_cut s i).trans (hcut.portsCleared i),
    fun kv hkv => of_decide_eq_true (List.mem_filter.mp hkv).2, fun kv hkv => of_decide_eq_true (List.mem_filter.mp hkv).2⟩

/-- A key that a table does not list reads the default. -/
theorem Tab.get_of_not_listed {α : Type} {d : α} {tab : Tab α} {k : Nat} (h : ∀ kv ∈ tab, kv.1 ≠ k) : Tab.get d tab k = d := by
  have hfind : Tab.find tab k = none := by
    induction tab with
    | nil => rfl
    | cons kv tab ih =>
      obtain ⟨hkv, htab⟩ := List.forall_mem_cons.mp h
      exact (if_neg hkv).trans (ih htab)
  unfold Tab.get
  rw [hfind]
  rfl

/-! ### Notices -/

/-- Only notices were queued or posted. -/
def Noticed (s t : State) : Prop :=
  ∃ insts mbDown mbDownOwn out, t = { s with insts := insts, mbDown := mbDown, mbDownOwn := mbDownOwn, out := out }

theorem noticed_postNotice (s : State) (i : Nat) : Noticed s (postNotice s i) := by
  unfold postNotice
  dsimp only
  split
  · exact ⟨_, _, _, _, rfl⟩
  · split
    · exact ⟨_, _, _, _, rfl⟩
    · exact ⟨_, _, _, _, rfl⟩

theorem noticed_notify (s : State) (i kind arg : Nat) : Noticed s (notify s i kind arg) := by
  obtain ⟨_, _, _, _, h⟩ := noticed_postNotice (queueNotice s i kind arg) i
  exact ⟨_, _, _, _, h⟩

theorem Noticed.proj {s t : State} (h : Noticed s t) {α : Type} (π : State → α)
    (hπ : ∀ (u : State) insts mbDown mbDownOwn out,
      π { u with insts := insts, mbDown := mbDown, mbDownOwn := mbDownOwn, out := out } = π u) : π t = π s := by
  obtain ⟨_, _, _, _, rfl⟩ := h
  exact hπ _ _ _ _ _

/-! ### The reset, and what it leaves -/

/-- The marks of a reset but for its notice: no freeze and no save goes on, RESETDONE is set. -/
def resetMarked (u : State) (i : Nat) : State :=
  fset (fset (fset (u.updInst i fun x => { x with freezing := false, behind := none, saving := false, deferred := [] })
    (Reg.qmInststat i) 4 4 0) (Reg.qmInststat i) 5 5 0) (Reg.qmInststat i) 2 2 1

/-- A reset of an instance, in the order of what it does. -/
theorem instanceReset_noticed (s : State) (i cause : Nat) :
    ∃ u, Noticed (resetMarked u i) (instanceReset s i cause) ∧ Emptied u i ∧ Cut s u ∧ (∀ kv ∈ u.rings, kv.1 / 16384 ≠ i) ∧
      ∀ kv ∈ u.gens, kv.1 / 65536 ≠ i :=
  ⟨clearInstance s i, noticed_notify (resetMarked (clearInstance s i) i) i 0xF0 cause, clearInstance_spec s i⟩

theorem rd_resetMarked (u : State) (i : Nat) {off : Nat} (h : off ≠ Reg.qmInststat i) : rd (resetMarked u i) off = rd u off := by
  unfold resetMarked
  rw [rd_fset_other _ _ _ _ h, rd_fset_other _ _ _ _ h, rd_fset_other _ _ _ _ h]
  rfl

/-- What an instance reset leaves of everything but the instance. -/
theorem instanceReset_kept {s t : State} {i cause : Nat} (ht : t = instanceReset s i cause) :
    t.dev = s.dev ∧ t.host = s.host ∧ t.ktab = s.ktab ∧ t.ikeys = s.ikeys ∧
      ∀ off, off < 0xB00000 → (∀ p, off ≠ Reg.adSwapstat p) → off ≠ Reg.qmInststat i → rd t off = rd s off := by
  obtain ⟨u, hn, -, hc, -⟩ := instanceReset_noticed s i cause
  rw [← ht] at hn
  refine ⟨(hn.proj State.dev fun _ _ _ _ _ => rfl).trans hc.dev, (hn.proj State.host fun _ _ _ _ _ => rfl).trans hc.host,
    (hn.proj State.ktab fun _ _ _ _ _ => rfl).trans hc.ktab, (hn.proj State.ikeys fun _ _ _ _ _ => rfl).trans hc.ikeys,
    fun off ho hs hi => ?_⟩
  exact (hn.proj (rd · off) fun _ _ _ _ _ => rfl).trans ((rd_resetMarked u i hi).trans (hc.2.1 off ho hs))

/-- An instance reset empties the instance and sets RESETDONE (R287). -/
theorem instanceReset_empties {s t : State} {i : Inst} {cause : Nat} (ht : t = instanceReset s i cause) :
    Emptied t i ∧ (∀ r : RingId, t.ring i r = {}) ∧ (∀ n, n < 65536 → Tab.get 0#32 t.gens (i.val * 65536 + n) = 0#32) ∧
      fbit t (Reg.qmInststat i) 2 = true ∧ fbit t (Reg.qmInststat i) 4 = false := by
  obtain ⟨u, hn, hempty, -, hrings, hgens⟩ := instanceReset_noticed s i cause
  rw [← ht] at hn
  have hops : t.ops = u.ops := hn.proj State.ops fun _ _ _ _ _ => rfl
  have helig : t.elig = u.elig := hn.proj State.elig fun _ _ _ _ _ => rfl
  have hled : t.led = u.led := hn.proj State.led fun _ _ _ _ _ => rfl
  have hring : t.rings = u.rings := hn.proj State.rings fun _ _ _ _ _ => rfl
  have hgen : t.gens = u.gens := hn.proj State.gens fun _ _ _ _ _ => rfl
  have hbit : ∀ b, fbit t (Reg.qmInststat i) b = fbit (resetMarked u i) (Reg.qmInststat i) b := fun b =>
    hn.proj (fbit · (Reg.qmInststat i) b) fun _ _ _ _ _ => rfl
  clear ht hn
  refine ⟨⟨hops ▸ hempty.ops, helig ▸ hempty.elig, hled ▸ hempty.led⟩, fun r => ?_, fun n hn => ?_, ?_, ?_⟩
  · unfold State.ring
    rw [hring]
    exact Tab.get_of_not_listed fun kv hkv he => hrings kv hkv (by rw [he]; omega)
  · rw [hgen]
    exact Tab.get_of_not_listed fun kv hkv he => hgens kv hkv (by rw [he]; omega)
  · exact (hbit 2).trans (fbit_fset_self _ _ _ (by omega))
  · exact (hbit 4).trans ((fbit_fset_field _ _ _ (by omega) (by omega) (by omega)).trans
      ((fbit_fset_field _ _ _ (by omega) (by omega) (by omega)).trans (fbit_fset_self _ _ _ (by omega))))

theorem exec_instctlReset {s : State} (i : Inst) (hr : reachable s = true) (hsvc : s.plinth.svc = .normal) :
    exec (.instctlReset i 1#32) s = .next (instanceReset s i 0) := by
  have hw : resetWrite s i = instanceReset s i 0 := if_neg (by simp [hsvc])
  exact (hostCmd_up hr _).trans (congrArg _ hw)

/-- Settles O41: a reset empties the instance; quiesce, its end, and resume. -/
theorem instanceStops : Obligations.InstanceStops := by
  unfold Obligations.InstanceStops
  refine ⟨fun s i c hc => ?_, fun s i => ⟨fun hr => ⟨?_, ?_⟩, fun hq hn => ?_⟩⟩
  · have hrun : ∃ cause, exec c s = .next (instanceReset s i cause) := by
      obtain rfl | ⟨rfl, hr, hsvc⟩ := hc
      · exact ⟨1, rfl⟩
      · exact ⟨0, exec_instctlReset i hr hsvc⟩
    obtain ⟨cause, hrun⟩ := hrun
    obtain ⟨hempty, hring, hgen, h2, h4⟩ := instanceReset_empties (i := i) (cause := cause) (s := s) rfl
    obtain ⟨hdev, hhost, hktab, hikeys, -⟩ := instanceReset_kept (i := i) (cause := cause) (s := s) rfl
    exact ⟨_, hrun, fun o ho he => hempty.ops o ho (congrArg Fin.val he), fun x hx he => hempty.elig x hx (congrArg Fin.val he),
      fun e hx he => hempty.led e hx (congrArg Fin.val he), hring, hgen, h2, h4, hktab, hikeys, hdev, hhost⟩
  · have hst : ((quiesceInst s i).inst i).stopped = true := congrArg InstX.stopped (State.inst_updInst s i _)
    refine ⟨quiesceInst s i, hostCmd_up hr _, hst, fun r => ?_, rfl, rfl, rfl, rfl⟩
    unfold mayAdmit
    simp [hst]
  · have hi : (resumeInst s i).inst i = { s.inst i with stopped := false, quiescing := false } :=
      (inst_fset _ _ _ _ _ _).trans (State.inst_updInst s i _)
    refine ⟨resumeInst s i, hostCmd_up hr _, congrArg InstX.stopped hi, congrArg InstX.quiescing hi,
      fbit_fset_self _ _ _ (by omega), rfl, ⟨rfl, rfl⟩, fun off ho => rd_fset_other _ _ _ _ ho⟩
  · refine ⟨fset (s.updInst i fun x => { x with quiescing := false }) (Reg.qmInststat i) 1 1 1, congrArg _ (if_pos (by simp [hq, hn])),
      fbit_fset_self _ _ _ (by omega), ?_, rfl, rfl⟩
    rw [inst_fset, State.inst_updInst]

end Sys2Proof.Proofs
end

section
/-! PROOFS. Removal of an instance and the latch of violations: O40. -/

namespace Sys2Proof.Proofs
open Sys2Proof.Machine

/-! ### Keys -/

/-- The keys of adapters, instances and migration are as they were. -/
def SameKeys (s t : State) : Prop := t.ktab = s.ktab ∧ t.ikeys = s.ikeys ∧ t.migKey = s.migKey

theorem SameKeys.trans {s t u : State} (h : SameKeys s t) (g : SameKeys t u) : SameKeys s u :=
  ⟨g.1.trans h.1, g.2.1.trans h.2.1, g.2.2.trans h.2.2⟩

theorem SameKeys.keyEnt {s t : State} (h : SameKeys s t) (id : KeyId) : keyEnt t id = keyEnt s id := by
  obtain ⟨hk, hi, hm⟩ := h
  cases id with
  | adapter g => simp only [Machine.keyEnt, State.key, hk]
  | instance_ i => simp only [Machine.keyEnt, State.ikey, hi]
  | migration => exact hm

theorem Cut.sameKeys {s t : State} (h : Cut s t) : SameKeys s t :=
  ⟨h.ktab, h.ikeys, h.proj State.migKey fun _ _ _ _ _ _ _ _ _ _ _ _ _ _ _ _ _ _ _ _ _ _ _ _ _ _ => rfl⟩

theorem keyEnt_setKeyEnt_self (s : State) (id : KeyId) (f : KeyEnt → KeyEnt) : keyEnt (setKeyEnt s id f) id = f (keyEnt s id) := by
  cases id with
  | adapter g => simp [setKeyEnt, keyEnt, State.key]
  | instance_ i => simp [setKeyEnt, keyEnt, State.ikey]
  | migration => rfl

theorem keyEnt_setKeyEnt_other (s : State) {id other : KeyId} (f : KeyEnt → KeyEnt) (h : other ≠ id) :
    keyEnt (setKeyEnt s id f) other = keyEnt s other := by
  cases id with
  | adapter g =>
    cases other with
    | adapter g' =>
      have hne : g'.toNat ≠ g.toNat := fun he => h (congrArg KeyId.adapter (BitVec.eq_of_toNat_eq he))
      simp [setKeyEnt, keyEnt, State.key, Tab.get_upd_other _ _ _ hne]
    | instance_ j => rfl
    | migration => rfl
  | instance_ i =>
    cases other with
    | adapter g => rfl
    | instance_ j =>
      have hne : j.val ≠ i.val := fun he => h (congrArg KeyId.instance_ (Fin.ext he))
      simp [setKeyEnt, keyEnt, State.ikey, Tab.get_upd_other _ _ _ hne]
    | migration => rfl
  | migration =>
    cases other with
    | adapter g => rfl
    | instance_ j => rfl
    | migration => exact absurd rfl h

/-! ### What a retirement leaves (R317, R320) -/

/-- Keys began to retire: device memory stays, nothing was admitted, no key changed but active ones, and no register but the completions',
the trace's and the swaps' status. -/
structure Retires (s t : State) : Prop where
  dev : t.dev = s.dev
  ops : ∀ o ∈ t.ops, o ∈ s.ops
  keys : ∀ id, (keyEnt s id).st ≠ .active → keyEnt t id = keyEnt s id
  regs : ∀ off, postFixed off → off < 0xB00000 → (∀ p, off ≠ Reg.adSwapstat p) → rd t off = rd s off

section
variable {s t u : State}

theorem Retires.refl : Retires s s := ⟨rfl, fun _ h => h, fun _ _ => rfl, fun _ _ _ _ => rfl⟩

theorem Retires.trans (h : Retires s t) (g : Retires t u) : Retires s u :=
  ⟨g.dev.trans h.dev, fun o ho => h.ops o (g.ops o ho), fun id hn => (g.keys id (by rwa [h.keys id hn])).trans (h.keys id hn),
    fun off ho hb hs => (g.regs off ho hb hs).trans (h.regs off ho hb hs)⟩

theorem Retires.of_cut (h : Cut s t) : Retires s t :=
  ⟨h.dev, h.2.2.1, fun id _ => h.sameKeys.keyEnt id, fun off _ hb hs => h.2.1 off hb hs⟩

theorem Retires.of_posted (h : Posted s t) : Retires s t :=
  ⟨h.dev, fun o ho => h.proj State.ops (fun _ _ _ _ _ => rfl) ▸ ho,
    fun id _ => h.proj (keyEnt · id) (fun _ _ _ _ _ => by cases id <;> rfl), fun off ho _ _ => h.rd ho⟩

theorem Retires.of_frame (hd : t.dev = s.dev) (ho : t.ops = s.ops) (hk : SameKeys s t) (hr : t.regs = s.regs) : Retires s t :=
  ⟨hd, fun o h => ho ▸ h, fun id _ => hk.keyEnt id, fun _ _ _ _ => by unfold rd; rw [hr]⟩

theorem Retires.foldl {α : Type} {f : State → α → State} {l : List α} (h : Retires s t) (hf : ∀ u x, Retires u (f u x)) :
    Retires s (l.foldl f t) :=
  List.foldlRecOn (motive := Retires s) l f h fun u hu x _ => hu.trans (hf u x)

end

theorem dropOp_retires (s : State) (o : Op) : Retires s (dropOp s o) :=
  ⟨rfl, fun _ h => (List.mem_filter.mp h).1, fun id _ => by cases id <;> rfl, fun _ _ _ _ => rfl⟩

theorem stopKey_keyRetired (s : State) (key : Nat) : Retires s (stopKey s key .keyRetired) := by
  unfold stopKey
  split
  next e _ =>
    have hrel : Retires s (releaseItem s key 11) := .of_cut (Cut.refl.releaseItem key 11)
    exact hrel.trans (.of_posted (Posted.refl.writeCompl _))
  · exact .refl

theorem endSwaps_retires (s : State) (p t : Nat) : Retires s (endSwaps s p t fun u o => completeOp u o 0x0B 0) := by
  unfold endSwaps
  extract_lets tag gone s1
  have h1 : Retires s s1 := .of_frame rfl rfl ⟨rfl, rfl, rfl⟩ rfl
  have h2 : Retires s (gone.foldl (fun u x => completeOp u x.2 0x0B 0) s1) :=
    h1.foldl fun u x => (dropOp_retires u x.2).trans (.of_posted (completeOp_posted u x.2 0x0B 0))
  exact h2.trans (.of_cut (Cut.refl.fsetSwapstat _ _ _ _))

theorem setKeyEnt_retires {s : State} {id : KeyId} (ha : (keyEnt s id).st = .active) :
    Retires s (setKeyEnt s id fun x => { x with st := .retiring }) := by
  refine ⟨by unfold setKeyEnt; split <;> rfl, fun o ho => ?_, fun other hn => ?_, fun off _ _ _ => by unfold setKeyEnt; split <;> rfl⟩
  · have : (setKeyEnt s id fun x => { x with st := .retiring }).ops = s.ops := by unfold setKeyEnt; split <;> rfl
    rwa [this] at ho
  · exact keyEnt_setKeyEnt_other s _ fun he => hn (he ▸ ha)

/-- What follows the change of the key's own entry. -/
theorem beginRetire_retires (s : State) (id : KeyId) (ha : (keyEnt s id).st = .active) :
    Retires (setKeyEnt s id fun x => { x with st := .retiring }) (beginRetire s id) := by
  unfold beginRetire
  rw [if_neg (by simp [ha])]
  extract_lets s1 s2 items s3 s4
  have h2 : Retires s1 s2 := by
    cases id with
    | adapter t =>
      refine .of_frame ?_ ?_ ⟨?_, ?_, ?_⟩ ?_ <;>
      · simp only [s2]
        split <;> rfl
    | instance_ i => exact .refl
    | migration => exact .refl
  have h3 : Retires s1 s3 := h2.trans (.of_frame rfl rfl ⟨rfl, rfl, rfl⟩ rfl)
  have h4 : Retires s1 s4 := by
    cases id with
    | adapter t => exact h3.trans (endSwaps_retires _ _ _)
    | instance_ i => exact h3
    | migration => exact h3
  exact h4.foldl fun u key => stopKey_keyRetired u key

theorem beginRetire_spec (s : State) (id : KeyId) : Retires s (beginRetire s id) := by
  by_cases ha : (keyEnt s id).st = .active
  · exact (setKeyEnt_retires ha).trans (beginRetire_retires s id ha)
  · have hs : beginRetire s id = s := if_pos (by simpa using ha)
    rw [hs]
    exact .refl

/-- An active key becomes retiring and changes in nothing else. -/
theorem keyEnt_beginRetire {s : State} {id : KeyId} (ha : (keyEnt s id).st = .active) :
    keyEnt (beginRetire s id) id = { keyEnt s id with st := .retiring } := by
  rw [(beginRetire_retires s id ha).keys id (by rw [keyEnt_setKeyEnt_self]; simp), keyEnt_setKeyEnt_self]

/-! ### The steps of a removal (R328) -/

theorem isRemove_lt (i : Inst) : Reg.isRemove i < 0xB00000 := by
  unfold Reg.isRemove
  omega

theorem postFixed_isRemove (i : Inst) : postFixed (Reg.isRemove i) := by
  intro j
  unfold Reg.isRemove Reg.mtEvents Reg.isViol Reg.qmDirtyctl
  omega

theorem postFixed_qmInststat (i : Inst) : postFixed (Reg.qmInststat i) := by
  intro j
  unfold Reg.qmInststat Reg.mtEvents Reg.isViol Reg.qmDirtyctl
  omega

theorem qmInststat_lt (i : Inst) : Reg.qmInststat i < 0xB00000 := by
  unfold Reg.qmInststat
  omega

theorem qmInststat_ne_adSwapstat (i : Inst) (p : Nat) : Reg.qmInststat i ≠ Reg.adSwapstat p := by
  unfold Reg.qmInststat Reg.adSwapstat
  omega

theorem isRemove_ne_adSwapstat (i : Inst) (p : Nat) : Reg.isRemove i ≠ Reg.adSwapstat p := by
  unfold Reg.isRemove Reg.adSwapstat
  omega

/-- What a step of a removal leaves. -/
structure RemovalKept (s t : State) (i : Inst) : Prop where
  dev : t.dev = s.dev
  ops : ∀ o ∈ t.ops, o ∈ s.ops
  keys : SameKeys s t
  regs : ∀ off, off ≠ Reg.isRemove i → off ≠ Reg.isSealctl → rd t off = rd s off
  phase : fget s (Reg.isRemove i) 29 28 ≠ 0 → fget t (Reg.isRemove i) 29 28 ≠ 0

section
variable {s t u : State} {i : Inst}

theorem RemovalKept.trans (h : RemovalKept s t i) (g : RemovalKept t u i) : RemovalKept s u i :=
  ⟨g.dev.trans h.dev, fun o ho => h.ops o (g.ops o ho), h.keys.trans g.keys,
    fun off ho hs => (g.regs off ho hs).trans (h.regs off ho hs), fun hp => g.phase (h.phase hp)⟩

theorem RemovalKept.of_regs (hd : t.dev = s.dev) (ho : t.ops = s.ops) (hk : SameKeys s t) (hr : t.regs = s.regs) : RemovalKept s t i :=
  ⟨hd, fun o h => ho ▸ h, hk, fun _ _ _ => by unfold rd; rw [hr], fun hp => by rwa [fget_congr hr]⟩

/-- A phase that is marked. -/
theorem RemovalKept.mark (s : State) (i : Inst) {v : Nat} (hv : v % 4 ≠ 0) : RemovalKept s (fset s (Reg.isRemove i) 29 28 v) i :=
  ⟨rfl, fun _ h => h, ⟨rfl, rfl, rfl⟩, fun _ ho _ => rd_fset_other _ _ _ _ ho, fun _ => by
    rw [fget_fset_self _ _ _ (by omega) (by omega)]
    exact hv⟩

end

theorem fsetSealctl_kept (s : State) (i : Inst) (hi lo v : Nat) : RemovalKept s (fset s Reg.isSealctl hi lo v) i := by
  have hne : Reg.isRemove i ≠ Reg.isSealctl := by
    unfold Reg.isRemove Reg.isSealctl
    omega
  exact ⟨rfl, fun _ h => h, ⟨rfl, rfl, rfl⟩, fun _ _ hs => rd_fset_other _ _ _ _ hs, fun hp => by rwa [fget_fset_other _ _ _ _ _ _ hne]⟩

theorem endSeal_kept (s : State) (i : Inst) : RemovalKept s (endSeal s) i := by
  have hf := ((fsetSealctl_kept s i 31 31 0).trans (fsetSealctl_kept _ i 29 29 0)).trans (fsetSealctl_kept _ i 15 0 0)
  unfold endSeal
  dsimp only
  generalize fset (fset (fset s Reg.isSealctl 31 31 0) Reg.isSealctl 29 29 0) Reg.isSealctl 15 0 0 = u at *
  split
  · exact hf.trans (.of_regs rfl rfl ⟨rfl, rfl, rfl⟩ rfl)
  · exact .of_regs rfl rfl ⟨rfl, rfl, rfl⟩ rfl

theorem notify_kept (s : State) (i : Inst) (j kind arg : Nat) : RemovalKept s (notify s j kind arg) i := by
  have h := noticed_notify s j kind arg
  exact .of_regs (h.proj State.dev fun _ _ _ _ _ => rfl) (h.proj State.ops fun _ _ _ _ _ => rfl) 
    ⟨h.proj State.ktab fun _ _ _ _ _ => rfl, h.proj State.ikeys fun _ _ _ _ _ => rfl, h.proj State.migKey fun _ _ _ _ _ => rfl⟩
    (h.proj State.regs fun _ _ _ _ _ => rfl)

/-- The tables of an instance empty. -/
def tablesEmptied (u s : State) (i : Nat) : State :=
  let mine := fun (t : Nat) => (s.desc t).inst.val == i && (s.desc t).st != .free
  { u with
    norms := u.norms.filter fun kv => !mine (kv.1 / 4096)
    descs := u.descs.filter fun kv => kv.2.inst.val ≠ i
    ran := u.ran.filter fun r => r.base || (s.desc r.tag.toNat).inst.val ≠ i
    mirrors := u.mirrors.filter fun kv => !mine kv.1
    held := u.held.filter fun x => !mine x.1.toNat
    mbUp := u.mbUp.filter fun kv => kv.1 / 128 ≠ i
    mbDown := u.mbDown.filter fun kv => kv.1 / 128 ≠ i
    mbUpOwn := Tab.erase u.mbUpOwn i
    mbDownOwn := Tab.erase u.mbDownOwn i
    mbUpDrop := Tab.erase u.mbUpDrop i
    mbDownDrop := Tab.erase u.mbDownDrop i
    gens := u.gens.filter fun kv => kv.1 / 65536 ≠ i }

theorem tablesEmptied_frame (u s : State) (i : Nat) :
    ∃ norms descs ran mirrors held mbUp mbDown mbUpOwn mbDownOwn mbUpDrop mbDownDrop gens, tablesEmptied u s i = { u with
      norms := norms, descs := descs, ran := ran, mirrors := mirrors, held := held, mbUp := mbUp, mbDown := mbDown, mbUpOwn := mbUpOwn,
      mbDownOwn := mbDownOwn, mbUpDrop := mbUpDrop, mbDownDrop := mbDownDrop, gens := gens } :=
  ⟨_, _, _, _, _, _, _, _, _, _, _, _, rfl⟩

theorem tablesEmptied_kept (u s : State) (i : Inst) : RemovalKept u (tablesEmptied u s i) i := by
  obtain ⟨_, _, _, _, _, _, _, _, _, _, _, _, h⟩ := tablesEmptied_frame u s i
  rw [h]
  exact .of_regs rfl rfl ⟨rfl, rfl, rfl⟩ rfl

/-- The first half of a step: the pages of an instance whose keys have retired pass to ZEROING, and its tables empty. -/
def pagesGiven (s : State) (i : Nat) : State :=
  (tablesEmptied (fset (zeroingPages s (tenantPages s i)) (Reg.isRemove i) 29 28 2) s i).updInst i fun x =>
    { x with removing := tenantPages s i }

theorem pagesGiven_kept (s : State) (i : Inst) : RemovalKept s (pagesGiven s i) i := by
  have h1 : RemovalKept s (zeroingPages s (tenantPages s i)) i := .of_regs rfl rfl ⟨rfl, rfl, rfl⟩ rfl
  have h2 := h1.trans (.mark _ i (v := 2) (by decide))
  have h3 := h2.trans (tablesEmptied_kept _ s i)
  unfold pagesGiven
  generalize tablesEmptied (fset (zeroingPages s (tenantPages s i)) (Reg.isRemove i) 29 28 2) s i = w at *
  exact h3.trans (.of_regs rfl rfl ⟨rfl, rfl, rfl⟩ rfl)

/-- The second half: with every page zeroed the phase is DONE, the manager is told, and a sealing may end. -/
def removalClosed (s : State) (i : Nat) : State :=
  endSeal (notify (fset (s.updInst i fun x => { x with removing := [] }) (Reg.isRemove i) 29 28 3) i 0xF3 0)

theorem removalClosed_kept (s : State) (i : Inst) : RemovalKept s (removalClosed s i) i :=
  have h1 : RemovalKept s (s.updInst i fun x => { x with removing := [] }) i := .of_regs rfl rfl ⟨rfl, rfl, rfl⟩ rfl
  (h1.trans (.mark _ i (v := 3) (by decide))).trans ((notify_kept _ i _ _ _).trans (endSeal_kept _ i))

theorem removalStep_cases (s : State) (i : Nat) : ∃ u, (u = s ∨ u = pagesGiven s i) ∧ (removalStep s i = u ∨ removalStep s i = removalClosed u i) := by
  unfold removalStep
  extract_lets ph ns mine v w s1
  have hw : w.updInst i (fun x => { x with removing := ns }) = pagesGiven s i := rfl
  clear_value w
  refine ⟨s1, ?_, ?_⟩
  · simp only [s1]
    split
    · exact .inr hw
    · exact .inl rfl
  · clear_value s1
    split
    · exact .inr rfl
    · exact .inl rfl

theorem removalStep_kept (s : State) (i : Inst) : RemovalKept s (removalStep s i) i := by
  obtain ⟨u, hu, hstep⟩ := removalStep_cases s i
  have h1 : RemovalKept s u i := by
    obtain rfl | rfl := hu
    · exact .of_regs rfl rfl ⟨rfl, rfl, rfl⟩ rfl
    · exact pagesGiven_kept s i
  obtain h | h := hstep
  · exact h ▸ h1
  · exact h ▸ h1.trans (removalClosed_kept u i)

/-- A removal's start resets the instance, retires its keys and marks the first phase. -/
theorem startRemoval_spec {s : State} {i : Inst} (h : inRemoval s i = false) :
    (startRemoval s i).dev = s.dev ∧ (∀ o ∈ (startRemoval s i).ops, o.inst.val ≠ i) ∧
      ((s.ikey i).st = .active → (startRemoval s i).ikey i = { s.ikey i with st := .retiring }) ∧
      fbit (startRemoval s i) (Reg.qmInststat i) 2 = true ∧ fget (startRemoval s i) (Reg.isRemove i) 29 28 ≠ 0 := by
  have hne : Reg.isRemove i ≠ Reg.qmInststat i := by
    unfold Reg.isRemove Reg.qmInststat
    omega
  obtain ⟨hempty, -, -, h2, -⟩ := instanceReset_empties (s := s) (i := i) (cause := 0) rfl
  obtain ⟨hdev, -, -, hikeys, -⟩ := instanceReset_kept (s := s) (i := i) (cause := 0) rfl
  unfold startRemoval
  rw [if_neg (by simp [h])]
  generalize instanceReset s i 0 = u at *
  have hk : (fset u (Reg.isRemove i) 29 28 1).ikey i = s.ikey i := by
    show Tab.get _ u.ikeys i.val = _
    rw [hikeys]
    rfl
  have hr : ∀ v w : State, Retires v w → fbit w (Reg.qmInststat i) 2 = fbit v (Reg.qmInststat i) 2 ∧
      fget w (Reg.isRemove i) 29 28 = fget v (Reg.isRemove i) 29 28 := fun v w hvw =>
    ⟨fbit_congr_rd (hvw.regs _ (postFixed_qmInststat i) (qmInststat_lt i) (qmInststat_ne_adSwapstat i)) 2,
      fget_congr_rd (hvw.regs _ (postFixed_isRemove i) (isRemove_lt i) (isRemove_ne_adSwapstat i)) 29 28⟩
  have hb : (fset u (Reg.isRemove i) 29 28 1).dev = s.dev ∧ (∀ o ∈ (fset u (Reg.isRemove i) 29 28 1).ops, o.inst.val ≠ i) ∧
      fbit (fset u (Reg.isRemove i) 29 28 1) (Reg.qmInststat i) 2 = true ∧ fget (fset u (Reg.isRemove i) 29 28 1) (Reg.isRemove i) 29 28 ≠ 0 := by
    refine ⟨hdev, hempty.ops, (fbit_fset_other _ _ _ _ _ hne.symm).trans h2, ?_⟩
    rw [fget_fset_self _ _ _ (by omega) (by omega)]
    decide
  generalize fset u (Reg.isRemove i) 29 28 1 = v at *
  obtain ⟨hvdev, hvops, hv2, hvp⟩ := hb
  have h1 := beginRetire_spec v (.instance_ i)
  have hi := fun ha => keyEnt_beginRetire (s := v) (id := .instance_ i) ha
  generalize beginRetire v (.instance_ i) = w at *
  dsimp only
  have h3 : Retires w ((keysOf w i .active).foldl (fun t g => beginRetire t (.adapter (BitVec.ofNat 16 g))) w) :=
    Retires.refl.foldl fun x g => beginRetire_spec x _
  generalize (keysOf w i .active).foldl (fun t g => beginRetire t (.adapter (BitVec.ofNat 16 g))) w = x at *
  have hall := h1.trans h3
  obtain ⟨hb2, hph⟩ := hr v x hall
  refine ⟨hall.dev.trans hvdev, fun o ho => hvops o (hall.ops o ho), fun ha => ?_, hb2.trans hv2, hph ▸ hvp⟩
  have hw := hi (show (v.ikey i).st = .active by rw [hk]; exact ha)
  refine (h3.keys (.instance_ i) (by rw [hw]; simp)).trans (hw.trans ?_)
  show { v.ikey i with st := .retiring } = _
  rw [hk]

/-! ### Fields that clear where a 1 is written -/

/-- The fields hold one of access `acc` at hi to lo, and no other that overlaps and can change. -/
def ownsField (acc : Acc9) (hi lo : Nat) : List Fld → Bool
  | [] => false
  | f :: fs => (apart hi lo f && ownsField acc hi lo fs) || (f.acc == acc && f.hi == hi && f.lo == lo && fs.all (apart hi lo))

/-- A bit that a 1 clears. -/
theorem bits_fieldWrites_w1c (se wr : Bool) (v b : Nat) : ∀ (l : List Fld) (w : Nat), ownsField .w1c b b l = true →
    bits (l.foldl (fun w f => fieldWrite se wr w v f) w) b b = bits w b b &&& (1 - bits v b b)
  | [], _, h => by simp [ownsField] at h
  | f :: l, w, h => by
    rw [List.foldl_cons]
    simp only [ownsField, Bool.or_eq_true, Bool.and_eq_true, beq_iff_eq] at h
    rcases h with ⟨hf, hl⟩ | ⟨⟨⟨hacc, hhi⟩, hlo⟩, hrest⟩
    · have hone := bits_fieldWrites_apart se wr v (hi := b) (lo := b) (by omega) (l := [f]) (by simp [hf]) w
      rw [List.foldl_cons, List.foldl_nil] at hone
      rw [bits_fieldWrites_w1c se wr v b l _ hl, hone]
    · rw [bits_fieldWrites_apart se wr v (by omega) hrest, fieldWrite, hacc]
      dsimp only
      rw [hhi, hlo, bits_setBits_self, show b + 1 - b = 1 by omega]
      exact Nat.mod_eq_of_lt (lt_of_le_of_lt Nat.and_le_left ((bits_lt w b b).trans_eq (by rw [Nat.add_sub_cancel_left])))

/-- The register at an offset has one field of access `acc` at hi to lo, apart from its others. -/
def ownField (acc : Acc9) (off hi lo : Nat) : Bool := (regRow off).any fun r => ownsField acc hi lo r.1.flds

/-- No field of the register at an offset that software may change overlaps hi to lo. -/
def fieldsApart (off hi lo : Nat) : Bool := (regRow off).all fun r => r.1.flds.all (apart hi lo)

theorem fbit_regWritePlain_w1c {off b : Nat} (h : ownField .w1c off b b = true) (hb : b < 64) (s : State) (v : Nat) :
    fbit (regWritePlain s off v) off b = (fbit s off b && !bit v b) := by
  have hbits : fget (regWritePlain s off v) off b b = fget s off b b &&& (1 - bits v b b) := by
    unfold ownField at h
    unfold regWritePlain
    cases hr : regRow off with
    | none => simp [hr] at h
    | some r =>
      rw [hr] at h
      dsimp only
      rw [fget_setReg_self _ _ _ hb (by omega)]
      exact bits_fieldWrites_w1c _ _ v b _ _ h
  rw [fbit_eq_fget, fbit_eq_fget, bit_eq_bits, hbits]
  have h1 : fget s off b b < 2 := (bits_lt _ _ _).trans_eq (by rw [show b + 1 - b = 1 by omega]; rfl)
  have h2 : bits v b b < 2 := (bits_lt _ _ _).trans_eq (by rw [show b + 1 - b = 1 by omega]; rfl)
  generalize fget s off b b = x at *
  generalize bits v b b = y at *
  interval_cases x <;> interval_cases y <;> rfl

theorem fget_regWritePlain_apart {off hi lo : Nat} (h : fieldsApart off hi lo = true) (hh : hi < 64) (ho : lo ≤ hi + 1) (s : State) (v : Nat) :
    fget (regWritePlain s off v) off hi lo = fget s off hi lo := by
  unfold fieldsApart at h
  unfold regWritePlain
  cases hr : regRow off with
  | none => rfl
  | some r =>
    rw [hr] at h
    dsimp only
    rw [fget_setReg_self _ _ _ hh ho]
    exact bits_fieldWrites_apart _ _ v ho h _

/-! ### The latch of violations (R311) -/

theorem isViol_fields (i : Inst) :
    ownField .w1c (Reg.isViol i) 63 63 = true ∧ ownField .w1c (Reg.isViol i) 62 62 = true ∧ fieldsApart (Reg.isViol i) 47 0 = true := by
  decide +kernel +revert

/-- Settles O40: a removal, and the latch that clears on a 1. -/
theorem removalAndViolations : Obligations.RemovalAndViolations := by
  unfold Obligations.RemovalAndViolations
  intro s i hr
  refine ⟨fun v hv h1 h2 => ?_, fun v => ?_⟩
  · have hno : inRemoval s i = false := by simp [inRemoval, h1, h2]
    have hrun : exec (.tenantRemoval i v) s = .next (removalStep (startRemoval s i) i) :=
      (hostCmd_up hr _).trans (congrArg _ ((if_pos ((bit_toNat v 31).trans hv)).trans (if_neg (by simp [hno]))))
    obtain ⟨hdev, hops, hkey, hdone, hphase⟩ := startRemoval_spec hno
    have hk := removalStep_kept (startRemoval s i) i
    refine ⟨_, hrun, hk.phase hphase, ?_, fun o ho he => hops o (hk.ops o ho) (congrArg Fin.val he), fun ha => ?_, hk.dev.trans hdev⟩
    · rw [fbit_congr_rd (hk.regs _ (by unfold Reg.qmInststat Reg.isRemove; omega) (by unfold Reg.qmInststat Reg.isSealctl; omega))]
      exact hdone
    · rw [show (removalStep (startRemoval s i) i).ikey i = (startRemoval s i).ikey i from hk.keys.keyEnt (.instance_ i), hkey ha]
  · obtain ⟨low, he⟩ := hostWide_up hr 0 (Reg.isViol i) fun t => regWritePlain t (Reg.isViol i) v.toNat
    obtain ⟨hf63, hf62, hf47⟩ := isViol_fields i
    generalize hs' : ({ s with lowPend := low } : State) = s' at he
    have hregs : s'.regs = s.regs := by rw [← hs']
    have hdev : s'.dev = s.dev := by rw [← hs']
    have hhost : s'.host = s.host := by rw [← hs']
    have hw63 := fbit_regWritePlain_w1c hf63 (by omega) s' v.toNat
    have hw62 := fbit_regWritePlain_w1c hf62 (by omega) s' v.toNat
    rw [bit_toNat] at hw63 hw62
    obtain ⟨regs, hframe⟩ := regWritePlain_frame s' (Reg.isViol i) v.toNat
    refine ⟨_, he, fun hv => ?_, fun hv => ?_, fun hv => ?_, ?_, ⟨?_, ?_⟩, fun off ho => ?_⟩
    · rw [hw63, hv, Bool.not_true, Bool.and_false]
    · rw [hw62, hv, Bool.not_true, Bool.and_false]
    · rw [hw63, hv, Bool.not_false, Bool.and_true, fbit_congr hregs]
    · rw [fget_regWritePlain_apart hf47 (by omega) (by omega), fget_congr hregs]
    · rw [hframe]; exact hdev
    · rw [hframe]; exact hhost
    · rw [rd_regWritePlain_other _ _ ho, rd_congr hregs]

end Sys2Proof.Proofs
end

section
/-! PROOFS. Ring enables and dirty logging: O43. -/

namespace Sys2Proof.Proofs
open Sys2Proof.Machine

/-! ### QM_RCFG (R272, R275) -/

/-- The fields that a write of QM_RCFG leaves. -/
theorem rcfgWrite_fields (old v : Nat) (mgr : Bool) :
    bits (rcfgWrite old v mgr) 31 31 = bits v 31 31 ∧ bits (rcfgWrite old v mgr) 28 24 = bits v 28 24 ∧
      bits (rcfgWrite old v mgr) 23 19 = bits v 23 19 ∧ bits (rcfgWrite old v mgr) 10 0 = bits v 10 0 ∧
      bits (rcfgWrite old v mgr) 30 30 = if mgr then bits v 30 30 else bits old 30 30 := by
  have hb (hi lo : Nat) : bits v hi lo % 2 ^ (hi + 1 - lo) = bits v hi lo := Nat.mod_eq_of_lt (bits_lt _ _ _)
  unfold rcfgWrite
  cases mgr
  · simp only [Bool.false_eq_true, if_false]
    refine ⟨?_, ?_, ?_, ?_, ?_⟩
    · rw [bits_setBits_above _ _ _ _ _ _ (by omega) (by omega), bits_setBits_above _ _ _ _ _ _ (by omega) (by omega),
        bits_setBits_above _ _ _ _ _ _ (by omega) (by omega), bits_setBits_self, hb]
    · rw [bits_setBits_above _ _ _ _ _ _ (by omega) (by omega), bits_setBits_above _ _ _ _ _ _ (by omega) (by omega), bits_setBits_self, hb]
    · rw [bits_setBits_above _ _ _ _ _ _ (by omega) (by omega), bits_setBits_self, hb]
    · rw [bits_setBits_self, hb]
    · rw [bits_setBits_above _ _ _ _ _ _ (by omega) (by omega), bits_setBits_above _ _ _ _ _ _ (by omega) (by omega),
        bits_setBits_above _ _ _ _ _ _ (by omega) (by omega), bits_setBits_below _ _ _ _ _ _ (by omega) (by omega)]
  · simp only [if_true]
    refine ⟨?_, ?_, ?_, ?_, ?_⟩
    · rw [bits_setBits_above _ _ _ _ _ _ (by omega) (by omega), bits_setBits_above _ _ _ _ _ _ (by omega) (by omega),
        bits_setBits_above _ _ _ _ _ _ (by omega) (by omega), bits_setBits_above _ _ _ _ _ _ (by omega) (by omega), bits_setBits_self, hb]
    · rw [bits_setBits_below _ _ _ _ _ _ (by omega) (by omega), bits_setBits_above _ _ _ _ _ _ (by omega) (by omega),
        bits_setBits_above _ _ _ _ _ _ (by omega) (by omega), bits_setBits_self, hb]
    · rw [bits_setBits_below _ _ _ _ _ _ (by omega) (by omega), bits_setBits_above _ _ _ _ _ _ (by omega) (by omega), bits_setBits_self, hb]
    · rw [bits_setBits_below _ _ _ _ _ _ (by omega) (by omega), bits_setBits_self, hb]
    · rw [bits_setBits_self, hb]

/-- A field of a 32-bit word. -/
theorem bits_ofNat32 (w : Nat) {hi lo : Nat} (h : hi < 32) (ho : lo ≤ hi + 1) : bits (BitVec.ofNat 32 w).toNat hi lo = bits w hi lo := by
  rw [BitVec.toNat_ofNat, bits_eq_mod_div _ _ _ ho, bits_eq_mod_div _ _ _ ho, Nat.mod_mod_of_dvd]
  exact pow_dvd_pow 2 (by omega)

theorem getLsbD_of_bits {n : Nat} (v : BitVec n) (b : Nat) : v.getLsbD b = (bits v.toNat b b == 1) := by
  rw [← bit_toNat, bit_eq_bits]

/-- A ring with the fields a write of QM_RCFG leaves. -/
def ringWritten (x : Ring) (v : W32) (mgr : Bool) : Ring := { x with rcfg := BitVec.ofNat 32 (rcfgWrite x.rcfg.toNat v.toNat mgr) }

theorem ringWritten_spec (x : Ring) (v : W32) (mgr : Bool) :
    ringEn (ringWritten x v mgr) = v.getLsbD 31 ∧ sqLog (ringWritten x v mgr) = bits v.toNat 28 24 ∧
      cqLog (ringWritten x v mgr) = bits v.toNat 23 19 ∧ ringVec (ringWritten x v mgr) = bits v.toNat 10 0 ∧
      ringMgr (ringWritten x v mgr) = if mgr then v.getLsbD 30 else ringMgr x := by
  obtain ⟨h31, hsq, hcq, hvec, h30⟩ := rcfgWrite_fields x.rcfg.toNat v.toNat mgr
  unfold ringEn sqLog cqLog ringVec ringMgr ringWritten
  refine ⟨?_, ?_, ?_, ?_, ?_⟩
  · rw [getLsbD_of_bits, getLsbD_of_bits, bits_ofNat32 _ (by omega) (by omega), h31]
  · rw [bits_ofNat32 _ (by omega) (by omega), hsq]
  · rw [bits_ofNat32 _ (by omega) (by omega), hcq]
  · rw [bits_ofNat32 _ (by omega) (by omega), hvec]
  · rw [getLsbD_of_bits, getLsbD_of_bits, getLsbD_of_bits, bits_ofNat32 _ (by omega) (by omega), h30]
    cases mgr <;> rfl

/-- A ring that is enabled: its counts are zero, and its earlier entries are counted apart. -/
def ringStarted (s : State) (y : Ring) : Ring :=
  { y with tail := 0#32, head := 0#32, err := false, written := 0#32, next := 0#32, outst := 0, first := s.orders, older := y.older + y.outst }

theorem writeRcfg_enables {s : State} {mgr : Bool} {i : Inst} {r : RingId} {v : W32} (hm : mgr = true ∨ ringMgr (s.ring i r) = false)
    (hoff : ringEn (s.ring i r) = false) (hon : v.getLsbD 31 = true) :
    writeRcfg s mgr i r v.toNat = s.updRing i r fun _ => ringStarted s (ringWritten (s.ring i r) v mgr) := by
  have hen := (ringWritten_spec (s.ring i r) v mgr).1
  unfold writeRcfg
  refine (if_neg ?_).trans (congrArg (s.updRing i r) (funext fun _ => if_pos ?_))
  · rcases hm with hm | hm
    · simp [hm]
    · simp [hm]
  · rw [hoff]
    exact hen.trans hon

theorem ring_updRing (s : State) (i r : Nat) (f : Ring → Ring) : (s.updRing i r f).ring i r = f (s.ring i r) := by
  simp [State.updRing, State.ring]

theorem ring_updRing_other (s : State) {i r j q : Nat} (f : Ring → Ring) (hr : r < 16384) (hq : q < 16384) (h : (j, q) ≠ (i, r)) :
    (s.updRing i r f).ring j q = s.ring j q := by
  have hk : j * 16384 + q ≠ i * 16384 + r := fun he => h (Prod.ext (by simp only; omega) (by simp only; omega))
  simp [State.updRing, State.ring, Tab.get_upd_other _ _ _ hk]

/-! ### QM_DIRTYCTL (R290, R292) -/

theorem OneReg.write (s : State) (off v : Nat) : OneReg off s (regWritePlain s off v) := by
  obtain ⟨regs, h⟩ := regWritePlain_frame s off v
  exact ⟨regs, h, fun o ho => rd_regWritePlain_other s v ho⟩

theorem OneReg.mem {off : Nat} {s t : State} (h : OneReg off s t) : sameMemory s t := by
  obtain ⟨_, rfl, -⟩ := h
  exact ⟨rfl, rfl⟩

theorem OneReg.rd {off : Nat} {s t : State} (h : OneReg off s t) {o : Nat} (ho : o ≠ off) : rd t o = rd s o := by
  obtain ⟨_, -, h⟩ := h
  exact h o ho

theorem qmDirtyctl_fields (i : Inst) :
    hasField .rw (Reg.qmDirtyctl i) 63 16 = true ∧ hasField .rw (Reg.qmDirtyctl i) 1 1 = true ∧ hasField .rw (Reg.qmDirtyctl i) 0 0 = true := by
  decide +kernel +revert

/-- A write of QM_DIRTYCTL: its fields, and FLIPPED where SEL changed. -/
theorem writeDirtyctl_spec (s : State) (i : Inst) (v : W64) :
    let t := writeDirtyctl s i v.toNat
    fget t (Reg.qmDirtyctl i) 63 16 = bits v.toNat 63 16 ∧ fget t (Reg.qmDirtyctl i) 1 1 = bits v.toNat 1 1 ∧
      ((∀ p, partOf s i = some p → slotsOf s p ≤ 16) → fget t (Reg.qmDirtyctl i) 0 0 = bits v.toNat 0 0) ∧
      (bits v.toNat 1 1 ≠ fget s (Reg.qmDirtyctl i) 1 1 → fbit t (Reg.qmDirtyctl i) 2 = false) ∧ sameMemory s t ∧
      ∀ off, off ≠ Reg.qmDirtyctl i → rd t off = rd s off := by
  obtain ⟨hf63, hf1, hf0⟩ := qmDirtyctl_fields i
  unfold writeDirtyctl
  extract_lets off big turned s1 s2 t
  have hw63 := fget_regWritePlain_rw hf63 (by omega) (by omega) s v.toNat
  have hw1 := fget_regWritePlain_rw hf1 (by omega) (by omega) s v.toNat
  have hw0 := fget_regWritePlain_rw hf0 (by omega) (by omega) s v.toNat
  have hone : OneReg off s s1 := OneReg.write s off v.toNat
  have h2 : fget s2 off 63 16 = bits v.toNat 63 16 ∧ fget s2 off 1 1 = bits v.toNat 1 1 ∧ fget s2 off 0 0 = bits v.toNat 0 0 ∧
      (turned → fbit s2 off 2 = false) ∧ OneReg off s s2 := by
    simp only [s2]
    split
    · exact ⟨(fget_fset_field _ _ _ (by omega) (by omega) (by omega) (by omega)).trans hw63,
        (fget_fset_field _ _ _ (by omega) (by omega) (by omega) (by omega)).trans hw1,
        (fget_fset_field _ _ _ (by omega) (by omega) (by omega) (by omega)).trans hw0, fun _ => fbit_fset_self _ _ _ (by omega), hone.fset _ _ _⟩
    next h => exact ⟨hw63, hw1, hw0, fun ht => absurd ht h, hone⟩
  clear_value s2
  obtain ⟨g63, g1, g0, g2, hone2⟩ := h2
  have ht : t = if bit v.toNat 0 && big then fset (fset s2 off 0 0 (fget s off 0 0)) off 4 4 1 else s2 := rfl
  clear_value t
  subst ht
  split
  next hb =>
    have hone3 : OneReg off s (fset (fset s2 off 0 0 (fget s off 0 0)) off 4 4 1) := (hone2.fset _ _ _).fset _ _ _
    refine ⟨?_, ?_, fun hp => ?_, fun hn => ?_, hone3.mem, fun o ho => hone3.rd ho⟩
    · exact (fget_fset_field _ _ _ (by omega) (by omega) (by omega) (by omega)).trans
        ((fget_fset_field _ _ _ (by omega) (by omega) (by omega) (by omega)).trans g63)
    · exact (fget_fset_field _ _ _ (by omega) (by omega) (by omega) (by omega)).trans
        ((fget_fset_field _ _ _ (by omega) (by omega) (by omega) (by omega)).trans g1)
    · exfalso
      have hbig : big = true := (Bool.and_eq_true_iff.mp hb).2
      simp only [big] at hbig
      split at hbig
      next p hpart => exact absurd (of_decide_eq_true hbig) (Nat.not_lt.mpr (hp p hpart))
      · exact absurd hbig Bool.false_ne_true
    · exact (fbit_fset_field _ _ _ (by omega) (by omega) (by omega)).trans
        ((fbit_fset_field _ _ _ (by omega) (by omega) (by omega)).trans (g2 hn))
  · exact ⟨g63, g1, fun _ => g0, g2, hone2.mem, fun o ho => hone2.rd ho⟩

/-- Settles O43: an enable starts its ring, and dirty logging takes its fields. -/
theorem ringEnableAndDirtyLogging : Obligations.RingEnableAndDirtyLogging := by
  unfold Obligations.RingEnableAndDirtyLogging
  intro s i
  refine ⟨fun fn r v hr hfn hoff hon => ?_, fun v hr c hc => ?_, ?_⟩
  · have hrun : exec (.ringEnable fn i r v) s = .next (writeRcfg s (decide (fn.val = 0)) i r v.toNat) := by
      refine (hostCmd_up hr _).trans (congrArg _ ?_)
      rcases hfn with h | ⟨h, -⟩
      · rw [if_pos h, decide_eq_true h]
      · rw [if_neg (by omega), if_pos h, decide_eq_false (by omega)]
    rw [writeRcfg_enables (hfn.imp decide_eq_true And.right) hoff hon] at hrun
    obtain ⟨h31, hsq, hcq, hvec, hmgr⟩ := ringWritten_spec (s.ring i r) v (decide (fn.val = 0))
    refine ⟨_, _, hrun, rfl, ?_⟩
    rw [ring_updRing]
    refine ⟨h31.trans hon, hsq, hcq, hvec, hmgr.trans ?_, rfl, rfl, rfl, rfl, rfl, rfl, rfl, rfl, rfl, rfl,
      fun j q hq hne => ring_updRing_other s _ r.isLt hq hne, rfl, rfl, rfl⟩
    rcases hfn with h | ⟨h, hm⟩
    · simp [h]
    · simp [hm, show fn.val ≠ 0 by omega]
  · have hrun : exec c s = hostWide s 0 (Reg.qmDirtyctl i) fun t => writeDirtyctl t i v.toNat := by
      rcases hc with rfl | rfl
      · rfl
      · rfl
    obtain ⟨low, he⟩ := hostWide_up hr 0 (Reg.qmDirtyctl i) fun t => writeDirtyctl t i v.toNat
    exact ⟨_, hrun.trans he, writeDirtyctl_spec { s with lowPend := low } i v⟩
  · exact ⟨_, rfl, fbit_fset_self _ _ _ (by omega), ⟨rfl, rfl⟩, fun off ho => rd_fset_other _ _ _ _ ho⟩

end Sys2Proof.Proofs
end

section
/-! PROOFS. Writes of configuration registers: O44. -/

namespace Sys2Proof.Proofs
open Sys2Proof.Machine

/-! ### Locked fields, outside sealed mode -/

theorem bits_fieldWrites_lck (wr : Bool) (v : Nat) {hi lo : Nat} (ho : lo ≤ hi + 1) : ∀ (l : List Fld) (w : Nat),
    holdsField .lck hi lo l = true → bits (l.foldl (fun w f => fieldWrite false wr w v f) w) hi lo = bits v hi lo
  | [], _, h => by simp [holdsField] at h
  | f :: l, w, h => by
    rw [List.foldl_cons]
    simp only [holdsField, Bool.or_eq_true, Bool.and_eq_true, beq_iff_eq] at h
    rcases h with h | ⟨⟨⟨hacc, hhi⟩, hlo⟩, hrest⟩
    · exact bits_fieldWrites_lck wr v ho l _ h
    · rw [bits_fieldWrites_apart false wr v ho hrest, fieldWrite, hacc]
      dsimp only
      rw [if_neg Bool.false_ne_true, hhi, hlo, bits_setBits_self, Nat.mod_eq_of_lt (bits_lt _ _ _)]

theorem fget_regWritePlain_lck {off hi lo : Nat} (h : hasField .lck off hi lo = true) (hh : hi < 64) (ho : lo ≤ hi + 1) {s : State}
    (hs : sealed s = false) (v : Nat) : fget (regWritePlain s off v) off hi lo = bits v hi lo := by
  unfold hasField at h
  unfold regWritePlain
  cases hr : regRow off with
  | none => simp [hr] at h
  | some r =>
    rw [hr] at h
    dsimp only
    rw [fget_setReg_self _ _ _ hh ho, hs]
    exact bits_fieldWrites_lck _ v ho _ _ h

/-! ### The aperture (R271, R312) -/

theorem qmAp_field (i : Inst) : hasField .lck (Reg.qmAp i) 39 21 = true := by
  decide +kernel +revert

theorem writeAp_spec {s : State} (i : Inst) (v : W64) (hs : sealed s = false) :
    let t := writeAp s i v.toNat
    fget t (Reg.qmAp i) 39 21 = bits v.toNat 39 21 ∧ sameMemory s t ∧
      (bits v.toNat 39 21 ≠ fget s (Reg.qmAp i) 39 21 →
        ruleBusy t i = true ∧ fget t (Reg.isEpoch i) 15 0 = (fget s (Reg.isEpoch i) 15 0 + 1) % 2 ^ 16) := by
  have hap := fget_regWritePlain_lck (qmAp_field i) (by omega) (by omega) hs v.toNat
  have hone := OneReg.write s (Reg.qmAp i) v.toNat
  have hne : Reg.qmAp i ≠ Reg.isEpoch i := by unfold Reg.qmAp Reg.isEpoch; omega
  have hnr : Reg.qmAp i ≠ Reg.isRulectl i := by unfold Reg.qmAp Reg.isRulectl; omega
  unfold writeAp
  extract_lets s1 t
  change fget s1 _ 39 21 = _ at hap
  change OneReg _ s s1 at hone
  have ht : t = if rd s1 (Reg.qmAp i) = rd s (Reg.qmAp i) then s1 else ruleChange s1 i := rfl
  clear_value s1 t
  subst ht
  split
  next heq =>
    refine ⟨hap, hone.mem, fun hn => absurd ?_ hn⟩
    rw [← hap]
    exact fget_congr_rd heq 39 21
  · have hf : fget (ruleChange s1 i) (Reg.qmAp i) 39 21 = fget s1 (Reg.qmAp i) 39 21 := by
      unfold ruleChange
      rw [fget_fset_other _ _ _ _ _ _ hnr, fget_fset_other _ _ _ _ _ _ hne]
    have he : fget (ruleChange s1 i) (Reg.isEpoch i) 15 0 = (fget s1 (Reg.isEpoch i) 15 0 + 1) % 2 ^ 16 := by
      unfold ruleChange
      rw [fget_fset_other _ _ _ _ _ _ (isRulectl_ne_isEpoch i i i.isLt i.isLt).symm, fget_fset_self _ _ _ (by omega) (by omega)]
    exact ⟨hf.trans hap, hone.mem, fun _ => ⟨ruleBusy_ruleChange _ _, he.trans (by rw [fget_congr_rd (hone.rd hne.symm)])⟩⟩

/-! ### Instances of partitions (R293, R414) -/

/-- The fields of SC_INSTCFG that a write which passes leaves. -/
def instcfgSet (t : State) (i v : Nat) : State := fset (fset t (Reg.scInstcfg i) 3 0 (bits v 3 0)) (Reg.scInstcfg i) 4 4 (b2n (bit v 4))

theorem partOf_instcfgSet (t : State) (i v : Nat) : partOf (instcfgSet t i v) i = if bit v 4 then some (bits v 3 0) else none := by
  have hon : fbit (instcfgSet t i v) (Reg.scInstcfg i) 4 = bit v 4 := by
    refine (fbit_fset_self _ _ _ (by omega)).trans ?_
    cases bit v 4 <;> rfl
  have hp : fget (instcfgSet t i v) (Reg.scInstcfg i) 3 0 = bits v 3 0 := by
    refine (fget_fset_field _ _ _ (by omega) (by omega) (by omega) (by omega)).trans ?_
    rw [fget_fset_self _ _ _ (by omega) (by omega)]
    exact Nat.mod_eq_of_lt (bits_lt _ _ _)
  unfold partOf
  rw [hon, hp]

/-- The state of an instance that joined with its table pages. -/
def instJoined (s : State) (i v : Nat) : State :=
  instcfgSet { claimPages s (instTables s) with claims := Tab.insert (claimPages s (instTables s)).claims (2 ^ 32 + i) (instTables s) } i v

/-- The state of an instance that left its partition. -/
def instLeft (s : State) (i v : Nat) : State :=
  instcfgSet (releaseClaim { s with
    claims := Tab.erase s.claims (2 ^ 32 + i)
    xlat := s.xlat.filter fun kv => kv.1 / 2 ^ 24 ≠ i
    gens := s.gens.filter fun kv => kv.1 / 65536 ≠ i } (Tab.get [] s.claims (2 ^ 32 + i))) i v

section
variable {s : State} {i v : Nat}

/-- No partition that a write of SC_INSTCFG touches has an admitted entry. -/
def instcfgFree (s : State) (i v : Nat) : Prop := ((partOf s i).any (partBusy s) || partBusy s (bits v 3 0)) = false

theorem instcfgFree_of (hwas : ∀ p, partOf s i = some p → partBusy s p = false) (hp : partBusy s (bits v 3 0) = false) : instcfgFree s i v := by
  unfold instcfgFree
  rw [hp, Bool.or_false]
  cases hw : partOf s i with
  | none => rfl
  | some p => exact hwas p hw

theorem writeInstcfg_joins (hs : sealed s = false) (hf : instcfgFree s i v) (hon : bit v 4 = true) (hw : partOf s i = none)
    (hdone : memDone s = true) (hlen : (instTables s).length = 65) : writeInstcfg s i v = instJoined s i v := by
  unfold instcfgFree at hf
  unfold writeInstcfg
  dsimp only
  rw [if_neg (by simp [hs]), if_neg (by rw [hf]; exact Bool.false_ne_true), if_pos (by rw [hon, hw]; rfl), if_pos hdone, if_neg (by omega)]
  rfl

theorem writeInstcfg_moves (hs : sealed s = false) (hf : instcfgFree s i v) (hon : bit v 4 = true) {p : Nat} (hw : partOf s i = some p) :
    writeInstcfg s i v = instcfgSet s i v := by
  unfold instcfgFree at hf
  unfold writeInstcfg
  dsimp only
  rw [if_neg (by simp [hs]), if_neg (by rw [hf]; exact Bool.false_ne_true), if_neg (by rw [hon, hw]; exact Bool.false_ne_true),
    if_neg (by rw [hon]; exact Bool.false_ne_true)]
  rfl

theorem writeInstcfg_leaves (hs : sealed s = false) (hf : instcfgFree s i v) (hon : bit v 4 = false) {p : Nat} (hw : partOf s i = some p) :
    writeInstcfg s i v = instLeft s i v := by
  unfold instcfgFree at hf
  unfold writeInstcfg
  dsimp only
  rw [if_neg (by simp [hs]), if_neg (by rw [hf]; exact Bool.false_ne_true), if_neg (by rw [hon]; exact Bool.false_ne_true),
    if_pos (by rw [hon, hw]; rfl)]
  rfl

end

/-- Claimed pages are SYSTEM. -/
theorem get_claimed {ns : List Nat} {n : Nat} (tab : Tab Page) (h : n ∈ ns) :
    (Tab.get {} (ns.foldl (fun t n =>
      let old := Tab.get {} t n
      if old.kind == .system then t else Tab.put {} t n { kind := .system, owngen := old.owngen + 1#32 }) tab) n).kind = .system := by
  induction ns using List.reverseRecOn with
  | nil => exact absurd h List.not_mem_nil
  | append_singleton ns m ih =>
    rw [List.foldl_concat]
    by_cases hm : n = m
    · subst hm
      dsimp only
      split
      next hk => exact beq_iff_eq.mp hk
      · rw [Tab.get_put_self]
    · have hn : n ∈ ns := by simpa [hm] using h
      dsimp only
      split
      · exact ih hn
      · rw [Tab.get_put_other _ _ _ hm]
        exact ih hn

theorem page_claimPages (s : State) {ns : List Nat} {n : Nat} (h : n ∈ ns) : ((claimPages s ns).page n).kind = .system :=
  get_claimed s.pages h

theorem instcfg_joins {s : State} {i : Inst} {v : W32} (hr : reachable s = true) (hs : sealed s = false) (hf : instcfgFree s i v.toNat)
    (hv : v.getLsbD 4 = true) (hdone : memDone s = true) (hroom : partOf s i = none → (instTables s).length = 65) :
    ∃ t, exec (.instcfgWrite i v) s = .next t ∧ partOf t i = some (bits v.toNat 3 0) ∧ sameMemory s t ∧
      (partOf s i = none → Tab.find t.claims (2 ^ 32 + i.val) = some (instTables s) ∧ ∀ n ∈ instTables s, (t.page n).kind = .system) := by
  have hon : bit v.toNat 4 = true := (bit_toNat v 4).trans hv
  have hset (u : State) : partOf (instcfgSet u i v.toNat) i = some (bits v.toNat 3 0) := by rw [partOf_instcfgSet, hon]; rfl
  refine ⟨_, hostCmd_up hr _, ?_⟩
  cases hw : partOf s i with
  | none =>
    rw [writeInstcfg_joins hs hf hon hw hdone (hroom hw)]
    exact ⟨hset _, ⟨rfl, rfl⟩, fun _ => ⟨Tab.find_insert_self (claimPages s (instTables s)).claims _ _, fun n hn => page_claimPages s hn⟩⟩
  | some p =>
    rw [writeInstcfg_moves hs hf hon hw]
    exact ⟨hset _, ⟨rfl, rfl⟩, fun h => absurd h (by simp)⟩

theorem instcfg_leaves {s : State} {i : Inst} {v : W32} (hr : reachable s = true) (hs : sealed s = false) (hf : instcfgFree s i v.toNat)
    (hv : v.getLsbD 4 = false) (hin : partOf s i ≠ none) :
    ∃ t, exec (.instcfgWrite i v) s = .next t ∧ partOf t i = none ∧ Tab.find t.claims (2 ^ 32 + i.val) = none ∧
      (∀ a, a < 2 ^ 24 → leaf t i a = 0) ∧ sameMemory s t := by
  have hon : bit v.toNat 4 = false := (bit_toNat v 4).trans hv
  obtain ⟨p, hw⟩ := Option.ne_none_iff_exists'.mp hin
  refine ⟨_, hostCmd_up hr _, ?_⟩
  rw [writeInstcfg_leaves hs hf hon hw]
  refine ⟨?_, Tab.find_erase_self s.claims _, fun a ha => ?_, rfl, rfl⟩
  · exact (partOf_instcfgSet _ _ _).trans (by rw [hon]; rfl)
  · have hx : Tab.get 0#64 (s.xlat.filter fun kv => kv.1 / 2 ^ 24 ≠ i.val) (i.val * 2 ^ 24 + a) = 0#64 :=
      Tab.get_of_not_listed fun kv hkv he => of_decide_eq_true (List.mem_filter.mp hkv).2 (by rw [he]; omega)
    exact congrArg BitVec.toNat hx

/-! ### Cores of partitions (R293) -/

theorem noteClip_oneReg (s t : State) : sameMemory t (noteClip s t) ∧ ∀ off, off ≠ Reg.mtPoolstat → rd (noteClip s t) off = rd t off := by
  unfold noteClip
  dsimp only
  split
  · exact ⟨⟨rfl, rfl⟩, fun _ _ => rfl⟩
  · split
    · exact ⟨⟨rfl, rfl⟩, fun _ ho => (rd_fset_other _ _ _ _ ho).trans rfl⟩
    · exact ⟨⟨rfl, rfl⟩, fun _ _ => rfl⟩

/-- The register of a partition's cores that a write names. -/
def pcoresAt (half : Fin 2) (q : Nat) : Nat := if half.val = 0 then Reg.scPcores0 q else Reg.scPcores1 q

theorem writePcores_takes {s : State} {p : Part} {half : Fin 2} {v : W64} (hs : sealed s = false)
    (hfree : ∀ q : Part, q ≠ p → rd s (pcoresAt half q) &&& v.toNat = 0) (hp : partBusy s p = false) :
    writePcores s p half v.toNat = noteClip s (s.setReg (pcoresAt half p) v.toNat) := by
  refine (if_neg (by simp [hs])).trans (if_neg ?_)
  rw [Bool.not_eq_true, hp, Bool.or_false, List.any_eq_false]
  intro q hq h
  obtain ⟨hne, hbad⟩ := Bool.and_eq_true_iff.mp h
  have hq16 : q < 16 := List.mem_range.mp hq
  exact of_decide_eq_true hbad (hfree ⟨q, hq16⟩ fun he => of_decide_eq_true hne (congrArg Fin.val he))

theorem writePcores_refuses {s : State} {p q : Part} {half : Fin 2} {v : W64} (hs : sealed s = false) (hq : q ≠ p)
    (hbad : rd s (pcoresAt half q) &&& v.toNat ≠ 0) : writePcores s p half v.toNat = cfgErr s p := by
  refine (if_neg (by simp [hs])).trans (if_pos ?_)
  refine Bool.or_eq_true_iff.mpr (.inl (List.any_eq_true.mpr ⟨q.val, List.mem_range.mpr q.isLt, ?_⟩))
  exact Bool.and_eq_true_iff.mpr ⟨decide_eq_true (Fin.val_ne_of_ne hq), decide_eq_true hbad⟩

theorem pcores_write {s : State} (hr : reachable s = true) (hs : sealed s = false) (p : Part) (half : Fin 2) (v : W64) :
    ((∀ q : Part, q ≠ p → rd s (pcoresAt half q) &&& v.toNat = 0) → partBusy s p = false →
      ∃ t, exec (.pcoresWrite p half v) s = .next t ∧ rd t (pcoresAt half p) = v.toNat ∧ sameMemory s t ∧
        ∀ o, o ≠ pcoresAt half p → o ≠ Reg.mtPoolstat → rd t o = rd s o) ∧
    (∀ q : Part, q ≠ p → rd s (pcoresAt half q) &&& v.toNat ≠ 0 →
      ∃ t, exec (.pcoresWrite p half v) s = .next t ∧ fbit t (Reg.scPstat p) 30 = true ∧ sameMemory s t ∧
        ∀ o, o ≠ Reg.scPstat p → rd t o = rd s o) := by
  obtain ⟨low, he⟩ := hostWide_up hr 0 (if half.val = 0 then Reg.scPcores0 p else Reg.scPcores1 p) fun t => writePcores t p half v.toNat
  have hrun : exec (.pcoresWrite p half v) s = .next (writePcores { s with lowPend := low } p half v.toNat) := he
  have hne : pcoresAt half p ≠ Reg.mtPoolstat := by
    unfold pcoresAt Reg.scPcores0 Reg.scPcores1 Reg.mtPoolstat
    split <;> omega
  refine ⟨fun hfree hp => ⟨_, hrun, ?_⟩, fun q hq hbad => ⟨_, hrun, ?_⟩⟩
  · rw [writePcores_takes (s := { s with lowPend := low }) hs hfree hp]
    obtain ⟨hm, hrd⟩ := noteClip_oneReg { s with lowPend := low } (State.setReg { s with lowPend := low } (pcoresAt half p) v.toNat)
    refine ⟨(hrd _ hne).trans ((rd_setReg_self _ _ _).trans (Nat.mod_eq_of_lt v.isLt)), ⟨hm.1, hm.2⟩,
      fun o ho hpool => (hrd o hpool).trans (rd_setReg_other _ _ ho)⟩
  · rw [writePcores_refuses (s := { s with lowPend := low }) hs hq hbad]
    exact ⟨fbit_fset_self _ _ _ (by omega), ⟨rfl, rfl⟩, fun o ho => rd_fset_other _ _ _ _ ho⟩

/-! ### Quotas (R202) -/

theorem quota_field (i : Fin 16) : hasField .lck (Reg.mtQuota i) 18 0 = true ∧ hasField .lck (Reg.mtPquota i) 18 0 = true := by
  decide +kernel +revert

/-- One term of a sum changes. -/
theorem sum_map_changed {f g : Nat → Nat} {l : List Nat} {k : Nat} (hl : l.Nodup) (hk : k ∈ l) (hfg : ∀ j ∈ l, j ≠ k → f j = g j) :
    (l.map g).sum + f k = (l.map f).sum + g k := by
  induction l with
  | nil => exact absurd hk List.not_mem_nil
  | cons x l ih =>
    obtain ⟨hx, hl⟩ := List.nodup_cons.mp hl
    rw [List.map_cons, List.map_cons, List.sum_cons, List.sum_cons]
    by_cases h : k = x
    · subst h
      have : l.map g = l.map f := List.map_congr_left fun j hj => (hfg j (by simp [hj]) fun he => hx (he ▸ hj)).symm
      rw [this]
      omega
    · have := ih hl (by simpa [h] using hk) fun j hj => hfg j (by simp [hj])
      rw [hfg x (by simp) (Ne.symm h)]
      omega

theorem isQuota_spec {off : Nat} (h : isQuota off = true) : ∃ i : Fin 16, off = Reg.mtQuota i ∨ off = Reg.mtPquota i := by
  obtain ⟨i, hi, ho⟩ := List.any_eq_true.mp h
  exact ⟨⟨i, List.mem_range.mp hi⟩, (Bool.or_eq_true_iff.mp ho).imp beq_iff_eq.mp beq_iff_eq.mp⟩

/-- What an instance's and a partition's quota of one number come to. -/
def quotaOf (s : State) (i : Nat) : Nat := fget s (Reg.mtQuota i) 18 0 + fget s (Reg.mtPquota i) 18 0

theorem quotaSum_eq (s : State) : quotaSum s = ((List.range 16).map (quotaOf s)).sum := rfl

/-- A write of a quota changes the sum by what its field changes. -/
theorem quotaSum_write {s : State} {off : Nat} (v : Nat) (hs : sealed s = false) (h : isQuota off = true) :
    fget (regWritePlain s off v) off 18 0 = bits v 18 0 ∧ quotaSum (regWritePlain s off v) + fget s off 18 0 = quotaSum s + bits v 18 0 := by
  obtain ⟨i, hi⟩ := isQuota_spec h
  have hf : fget (regWritePlain s off v) off 18 0 = bits v 18 0 := by
    refine fget_regWritePlain_lck ?_ (by omega) (by omega) hs v
    rcases hi with rfl | rfl
    · exact (quota_field i).1
    · exact (quota_field i).2
  have ho (o : Nat) (hne : o ≠ off) : fget (regWritePlain s off v) o 18 0 = fget s o 18 0 := fget_regWritePlain_other s v 18 0 hne
  refine ⟨hf, ?_⟩
  have hother : ∀ j ∈ List.range 16, j ≠ i.val → quotaOf s j = quotaOf (regWritePlain s off v) j := fun j hj hne => by
    have hj16 : j < 16 := List.mem_range.mp hj
    unfold quotaOf
    rw [ho (Reg.mtQuota j) (by rcases hi with rfl | rfl <;> simp only [Reg.mtQuota, Reg.mtPquota] <;> omega),
      ho (Reg.mtPquota j) (by rcases hi with rfl | rfl <;> simp only [Reg.mtQuota, Reg.mtPquota] <;> omega)]
  have hone : quotaOf (regWritePlain s off v) i + fget s off 18 0 = quotaOf s i + bits v 18 0 := by
    unfold quotaOf
    rcases hi with rfl | rfl
    · rw [hf, ho (Reg.mtPquota i) (by unfold Reg.mtPquota Reg.mtQuota; omega)]
      omega
    · rw [hf, ho (Reg.mtQuota i) (by unfold Reg.mtPquota Reg.mtQuota; omega)]
      omega
  have hsum := sum_map_changed List.nodup_range (List.mem_range.mpr i.isLt) hother
  rw [quotaSum_eq, quotaSum_eq]
  omega

theorem writeQuota_eq (s : State) (off v : Nat) :
    writeQuota s off v =
      if quotaSum s < quotaSum (regWritePlain s off v) ∧
        fget s Reg.mtPoolstat 56 38 < quotaSum (regWritePlain s off v) + systemPages (regWritePlain s off v) then fset s Reg.mtPoolstat 63 63 1
      else regWritePlain s off v := rfl

theorem exec_quotaWrite {s : State} (hr : reachable s = true) {off : Nat} (v : W32) (h : isQuota off = true) :
    exec (.quotaWrite off v) s = .next (writeQuota s off v.toNat) := by
  show hostCmd s (if isQuota off then writeQuota s off v.toNat else s) = _
  rw [if_pos h, hostCmd_up hr]

theorem quota_write {s : State} (hr : reachable s = true) (hs : sealed s = false) (off : Nat) (v : W32) (h : isQuota off = true) :
    (quotaSum s + bits v.toNat 18 0 + systemPages s ≤ fget s Reg.mtPoolstat 56 38 →
      ∃ t, exec (.quotaWrite off v) s = .next t ∧ fget t off 18 0 = bits v.toNat 18 0 ∧ sameMemory s t ∧ ∀ o, o ≠ off → rd t o = rd s o) ∧
    (fget s off 18 0 < bits v.toNat 18 0 → fget s Reg.mtPoolstat 56 38 + fget s off 18 0 < quotaSum s + bits v.toNat 18 0 + systemPages s →
      ∃ t, exec (.quotaWrite off v) s = .next t ∧ fget t off 18 0 = fget s off 18 0 ∧ fbit t Reg.mtPoolstat 63 = true ∧ sameMemory s t) := by
  obtain ⟨hf, hsum⟩ := quotaSum_write v.toNat hs h
  have hone := OneReg.write s off v.toNat
  have hpages : systemPages (regWritePlain s off v.toNat) = systemPages s := by
    obtain ⟨regs, he⟩ := regWritePlain_frame s off v.toNat
    rw [he]
    rfl
  have hne : off ≠ Reg.mtPoolstat := by
    obtain ⟨i, rfl | rfl⟩ := isQuota_spec h
    · unfold Reg.mtQuota Reg.mtPoolstat; omega
    · unfold Reg.mtPquota Reg.mtPoolstat; omega
  rw [exec_quotaWrite hr v h, writeQuota_eq, hpages]
  generalize regWritePlain s off v.toNat = w at *
  refine ⟨fun hle => ⟨w, congrArg _ (if_neg (by omega)), hf, hone.mem, fun o ho => hone.rd ho⟩,
    fun hlt hover => ⟨fset s Reg.mtPoolstat 63 63 1, congrArg _ (if_pos (by omega)), fget_fset_other _ _ _ _ _ _ hne,
      fbit_fset_self _ _ _ (by omega), rfl, rfl⟩⟩

/-! ### Table bases (R414) -/

theorem claimTable_refuses {s : State} {off v ext n : Nat} (hn : n ∈ span Config.pageBytes (rd (regWritePlain s off v) off) ext)
    (hfree : pageFree s n = false) (hk : (s.page n).kind ≠ .system) : claimTable s off v ext = fset s Reg.mtPoolstat 61 61 1 := by
  refine if_pos (Bool.or_eq_true_iff.mpr (.inr (List.any_eq_true.mpr ⟨n, hn, ?_⟩)))
  simp [hfree, hk]

theorem page_clearTable (s : State) (off : Nat) : (clearTable s off).pages = s.pages ∧ (clearTable s off).claims = s.claims ∧
    (clearTable s off).regs = s.regs ∧ sameMemory s (clearTable s off) := by
  unfold clearTable
  dsimp only
  split
  · exact ⟨rfl, rfl, rfl, rfl, rfl⟩
  · split
    · exact ⟨rfl, rfl, rfl, rfl, rfl⟩
    · exact ⟨rfl, rfl, rfl, rfl, rfl⟩

/-- A table whose pages are all FREE or SYSTEM is claimed, and its base is written. -/
theorem claimTable_claims {s : State} {off v ext : Nat} (hend : rd (regWritePlain s off v) off + ext ≤ Config.devMemEnd)
    (hall : ∀ n ∈ span Config.pageBytes (rd (regWritePlain s off v) off) ext, pageFree s n = true ∨ (s.page n).kind = .system) :
    let t := claimTable s off v ext
    rd t off = rd (regWritePlain s off v) off ∧ sameMemory s t ∧
      ∀ n ∈ span Config.pageBytes (rd (regWritePlain s off v) off) ext, (t.page n).kind = .system := by
  have hone := OneReg.write s off v
  unfold claimTable
  extract_lets t a ns old s1 s2 r
  have hno : ¬ (decide (Config.devMemEnd < a + ext) || ns.any (fun n => !(pageFree s n || (s.page n).kind == .system))) = true := by
    rw [Bool.not_eq_true, Bool.or_eq_false_iff, List.any_eq_false]
    refine ⟨decide_eq_false (Nat.not_lt.mpr hend), fun n hn hbad => ?_⟩
    rcases hall n hn with h | h
    · simp [h] at hbad
    · simp [h] at hbad
  have hrs : r = releaseClaim s2 (old.filter fun n => !(ns.contains n)) := if_neg hno
  have h1 : s1.regs = t.regs ∧ sameMemory t s1 ∧ ∀ n ∈ ns, (s1.page n).kind = .system :=
    ⟨rfl, ⟨rfl, rfl⟩, fun n hn => page_claimPages _ hn⟩
  clear_value s1
  have h2 : s2.regs = s1.regs ∧ sameMemory s1 s2 ∧ s2.pages = s1.pages := by
    simp only [s2]
    split
    · exact ⟨rfl, ⟨rfl, rfl⟩, rfl⟩
    · obtain ⟨hp, -, hr, hm⟩ := page_clearTable s1 off
      exact ⟨hr, hm, hp⟩
  clear_value s2 r
  subst hrs
  obtain ⟨hr1, hm1, hp1⟩ := h1
  obtain ⟨hr2, hm2, hp2⟩ := h2
  refine ⟨rd_congr (hr2.trans hr1) off, ⟨hm2.1.trans (hm1.1.trans hone.mem.1), hm2.2.trans (hm1.2.trans hone.mem.2)⟩, fun n hn => ?_⟩
  have hnot : n ∉ (old.filter fun n => !(ns.contains n)).filter fun n => !(s2.claims.any fun c => c.2.contains n) := fun hm => by
    have := (List.mem_filter.mp (List.mem_filter.mp hm).1).2
    exact absurd hn (by simpa using this)
  have hz : (releaseClaim s2 (old.filter fun n => !(ns.contains n))).page n = s2.page n := (page_zeroingPages s2 _ n).1 hnot
  rw [hz]
  have hpg : s2.page n = s1.page n := page_congr hp2 n
  rw [hpg]
  exact hp1 n hn

theorem rd_regWritePlain_low (s : State) (low : Tab W32) (off v : Nat) :
    rd (regWritePlain { s with lowPend := low } off v) off = rd (regWritePlain s off v) off := by
  unfold regWritePlain
  split
  · rw [rd_setReg_self, rd_setReg_self]
    rfl
  · rfl

theorem tableBase_write {s : State} (hr : reachable s = true) (off : Nat) (v : W64) (ext : Nat) (hext : tableExtent off = some ext)
    (hrwo : isRwo off = true → written s off = false ∧ Tab.find s.heldBase off = none) :
    (memDone s = false →
      ∃ t, exec (.tableBaseWrite off v) s = .next t ∧ Tab.find t.heldBase off = some v ∧ t.pages = s.pages ∧ t.regs = s.regs ∧ sameMemory s t) ∧
    (memDone s = true →
      let a := rd (regWritePlain s off v.toNat) off
      (a + ext ≤ Config.devMemEnd → (∀ n ∈ span Config.pageBytes a ext, pageFree s n = true ∨ (s.page n).kind = .system) →
        ∃ t, exec (.tableBaseWrite off v) s = .next t ∧ rd t off = a ∧ sameMemory s t ∧ ∀ n ∈ span Config.pageBytes a ext, (t.page n).kind = .system) ∧
      (∀ n ∈ span Config.pageBytes a ext, pageFree s n = false → (s.page n).kind ≠ .system →
        ∃ t, exec (.tableBaseWrite off v) s = .next t ∧ t.pages = s.pages ∧ fbit t Reg.mtPoolstat 61 = true ∧ sameMemory s t)) := by
  obtain ⟨low, he⟩ := hostWide_up hr 0 off fun t => writeBase t off v.toNat ext
  have hrun : exec (.tableBaseWrite off v) s = .next (writeBase { s with lowPend := low } off v.toNat ext) := by
    refine Eq.trans ?_ he
    show (match tableExtent off with
      | some ext => hostWide s 0 off fun t => writeBase t off v.toNat ext
      | none => .next s) = _
    rw [hext]
  have hfirst : ¬ (isRwo off && (written { s with lowPend := low } off || (Tab.find s.heldBase off).isSome)) = true := by
    rw [Bool.not_eq_true, Bool.and_eq_false_iff]
    cases hw : isRwo off with
    | false => exact .inl rfl
    | true =>
      obtain ⟨h1, h2⟩ := hrwo hw
      have h1' : written { s with lowPend := low } off = false := h1
      exact .inr (by rw [h1', h2]; rfl)
  have hsame : rd (regWritePlain { s with lowPend := low } off v.toNat) off = rd (regWritePlain s off v.toNat) off := rd_regWritePlain_low s low off _
  refine ⟨fun hm => ?_, fun hm => ?_⟩
  · refine ⟨_, hrun.trans (congrArg _ ((if_neg hfirst).trans (if_pos ?_))), ?_, rfl, rfl, rfl, rfl⟩
    · show (!memDone s) = true
      rw [hm]
      rfl
    · refine (Tab.find_insert_self s.heldBase _ _).trans (congrArg some ?_)
      exact BitVec.eq_of_toNat_eq (by rw [BitVec.toNat_ofNat, Nat.mod_eq_of_lt v.isLt])
  · have hclaim : exec (.tableBaseWrite off v) s = .next (claimTable { s with lowPend := low } off v.toNat ext) := by
      refine hrun.trans (congrArg _ ((if_neg hfirst).trans (if_neg ?_)))
      show ¬ (!memDone s) = true
      rw [hm]
      exact Bool.false_ne_true
    intro a
    refine ⟨fun hend hall => ⟨_, hclaim, ?_⟩, fun n hn hfree hk => ⟨_, hclaim, ?_⟩⟩
    · have := claimTable_claims (s := { s with lowPend := low }) (off := off) (v := v.toNat) (ext := ext) (by rw [hsame]; exact hend)
        (by rw [hsame]; exact hall)
      rw [hsame] at this
      exact this
    · rw [claimTable_refuses (s := { s with lowPend := low }) (n := n) (by rw [hsame]; exact hn) hfree hk]
      exact ⟨rfl, fbit_fset_self _ _ _ (by omega), rfl, rfl⟩

/-- Settles O44: what each configuration write takes, and what it refuses. -/
theorem configurationWrites : Obligations.ConfigurationWrites := by
  unfold Obligations.ConfigurationWrites
  intro s hr hs
  refine ⟨fun i v => ?_, fun i v hwas hp => ⟨fun hv hdone hroom => ?_, fun hv hin => ?_⟩, fun p half v => pcores_write hr hs p half v,
    fun off v h => quota_write hr hs off v h, fun off v ext hext => ⟨fun hm hrwo => ?_, fun hm hrwo => ?_⟩⟩
  · obtain ⟨low, he⟩ := hostWide_up hr 0 (Reg.qmAp i) fun t => writeAp t i v.toNat
    exact ⟨_, he, writeAp_spec (s := { s with lowPend := low }) i v hs⟩
  · exact instcfg_joins hr hs (instcfgFree_of hwas hp) hv hdone hroom
  · exact instcfg_leaves hr hs (instcfgFree_of hwas hp) hv hin
  · exact (tableBase_write hr off v ext hext hrwo).1 hm
  · exact (tableBase_write hr off v ext hext hrwo).2 hm

end Sys2Proof.Proofs
end

section
/-! PROOFS. Register and BAR4 accesses of a function: O46. -/

namespace Sys2Proof.Proofs
open Sys2Proof.Machine

/-! ### Register writes by width and alignment (R12) -/

theorem dropLow_barUp (s : State) (fn off : Nat) : (s.dropLow fn off).barUp = s.barUp := by
  obtain ⟨low, h⟩ := dropLow_frame s fn off
  rw [h]

section
variable {s : State} {fn : Fn} {off : Nat}

theorem bar0Write_wide (hw : regWidth fn off = some true) (ha : off % 8 = 0) (v : W64) :
    bar0Write s fn off 8 v = writeWhole (s.dropLow fn off) fn off v.toNat := by
  unfold bar0Write
  rw [if_pos ⟨rfl, ha⟩, hw]

theorem bar0Write_low (hw : regWidth fn off = some true) (ha : off % 8 = 0) (v : W64) :
    bar0Write s fn off 4 v =
      if locked s fn off then s else { s with lowPend := Tab.insert s.lowPend (halfKey fn off) (v.truncate 32) } := by
  unfold bar0Write
  rw [if_neg (by omega), if_pos ⟨rfl, by omega⟩, hw]

theorem bar0Write_high (hw : regWidth fn off = some true) (hn : regWidth fn (off + 4) = none) (ha : off % 8 = 0) (hl : locked s fn off = false)
    {x : W32} (hx : Tab.find s.lowPend (halfKey fn off) = some x) (v : W64) :
    bar0Write s fn (off + 4) 4 v = writeWhole (s.dropLow fn off) fn off (v.toNat % 2 ^ 32 * 2 ^ 32 + x.toNat) := by
  unfold bar0Write
  rw [if_neg (by omega), if_pos ⟨rfl, by omega⟩, hn]
  dsimp only
  rw [Nat.add_sub_cancel, if_pos ⟨by omega, hw, by simp [hl]⟩, hx]

theorem bar0Write_none {size : Nat} (h8 : size ≠ 8 ∨ off % 8 ≠ 0) (h4 : size ≠ 4 ∨ off % 4 ≠ 0) (v : W64) : bar0Write s fn off size v = s := by
  unfold bar0Write
  rw [if_neg (by tauto), if_neg (by tauto)]

end

/-! ### An example of a plain register: QM_MIGADDR -/

theorem qmMigaddr_plain (i : Inst) :
    pfWidth (Reg.qmMigaddr i) = some true ∧ Reg.qmMigaddr i % 8 = 0 ∧ tableExtent (Reg.qmMigaddr i) = none ∧
      Reg.qmMigaddr i / 0x100000 = 1 ∧ hasField .rw (Reg.qmMigaddr i) 46 12 = true ∧ ¬ (0x108000 ≤ Reg.qmMigaddr i ∧ Reg.qmMigaddr i < 0x118000) ∧
      Reg.qmMigaddr i ≠ 0x100020 ∧ Reg.qmMigaddr i ≠ 0x100028 ∧ Reg.qmMigaddr i ≠ 0x100030 ∧ idxOf 0x101000 0x40 16 (Reg.qmMigaddr i) = none ∧
      idxOf 0x101018 0x40 16 (Reg.qmMigaddr i) = none ∧ idxOf 0x101028 0x40 16 (Reg.qmMigaddr i) = none := by
  decide +kernel +revert

theorem pfWrite_qmMigaddr (s : State) (i : Inst) (v : Nat) : pfWrite s (Reg.qmMigaddr i) v = regWritePlain s (Reg.qmMigaddr i) v := by
  obtain ⟨-, -, hext, hblock, -, hbox, h20, h28, h30, hctl, hdirty, hap⟩ := qmMigaddr_plain i
  simp only [pfWrite, writeQm, hext, hblock, hbox, h20, h28, h30, hctl, hdirty, hap, if_false]

/-! ### Register reads -/

theorem readable_of_reachable {s : State} (hr : reachable s = true) (fn : Fn) (off : Nat) : readable s fn off = true := by
  unfold reachable at hr
  unfold readable
  obtain ⟨hup, hh⟩ := Bool.and_eq_true_iff.mp hr
  rw [hup, hh]
  rfl

theorem exec_lowHalfRead {s : State} (hr : reachable s = true) (fn : Fn) (off size : Nat) :
    exec (.lowHalfRead fn off size) s = .next (bar0Read s fn off size) :=
  congrArg _ (if_pos (readable_of_reachable hr fn off))

section
variable {s : State} {fn : Fn} {off : Nat}

theorem bar0Read_low (hw : regWidth fn off = some true) (ha : off % 4 = 0) :
    bar0Read s fn off 4 = State.emit { s with
      hiLatch := Tab.insert s.hiLatch (halfKey fn off) (BitVec.ofNat 32 (readWhole s fn off / 2 ^ 32)) }
      (.readData fn (leBytes 4 (readWhole s fn off % 2 ^ 32))) := by
  unfold bar0Read readHalf
  rw [if_pos ⟨rfl, ha⟩, hw]

theorem bar0Read_wide (ha : off % 8 = 0) : bar0Read s fn off 8 = readWide s fn off := by
  unfold bar0Read
  rw [if_neg (by omega), if_pos ⟨rfl, ha⟩]

theorem bar0Read_none {size : Nat} (h8 : size ≠ 8 ∨ off % 8 ≠ 0) (h4 : size ≠ 4 ∨ off % 4 ≠ 0) :
    bar0Read s fn off size = s.emit (.readData fn (List.replicate size 0xFF#8)) := by
  unfold bar0Read
  rw [if_neg (by tauto), if_neg (by tauto)]

end

/-! ### BAR4 (R267, R271) -/

theorem countViol_frame (s : State) (i cause addr : Nat) : (countViol s i cause addr).out = s.out ∧ sameMemory s (countViol s i cause addr) := by
  unfold countViol
  dsimp only
  split
  · exact ⟨rfl, rfl, rfl⟩
  · exact ⟨rfl, rfl, rfl⟩

/-- The device address that a BAR4 offset of a function names. -/
def bar4Addr (s : State) (fn : Fn) (off : Nat) : Nat := if fn.val = 0 then off else rd s (Reg.qmAp (fn.val - 1)) + off

/-- The checks that an access of BAR4 passes. -/
def bar4Ok (s : State) (fn : Fn) (wr : Bool) (off len : Nat) : Bool :=
  decide (bar4Addr s fn off + len ≤ Config.devMemEnd) &&
    (span Config.pageBytes (bar4Addr s fn off) len).all (bar4Page s fn wr (bar4Addr s fn off) len)

/-- An access that the pages refuse is counted. -/
def bar4Counted (s : State) (fn : Fn) (off : Nat) : State :=
  if fn.val = 0 then finc s Reg.mtPfviol 15 0 1 else countViol s (fn.val - 1) 6 (bar4Addr s fn off)

theorem bar4Counted_frame (s : State) (fn : Fn) (off : Nat) :
    (bar4Counted s fn off).out = s.out ∧ sameMemory s (bar4Counted s fn off) := by
  unfold bar4Counted
  split
  · exact ⟨rfl, rfl, rfl⟩
  · exact countViol_frame _ _ _ _

section
variable {s : State} {fn : Fn} {off : Nat}

theorem bar4_write (hr : reachable s = true) (hs : sealed s = false) (n : Nat) {bs : List Byte} (hsize : off + bs.length ≤ bar4Size s fn)
    (hok : bar4Ok s fn true off bs.length = true) : exec (.bar4Access fn off n (some bs)) s = .next (devWrite s (bar4Addr s fn off) bs) := by
  refine (hostCmd_up hr _).trans (congrArg _ ((if_neg ?_).trans (if_pos hok)))
  rw [hs, Bool.false_or]
  simpa using hsize

theorem bar4_read (hr : reachable s = true) (hs : sealed s = false) {n : Nat} (hsize : off + n ≤ bar4Size s fn) :
    exec (.bar4Access fn off n none) s = .next (if bar4Ok s fn false off n then s.emit (.readData fn (Memory.read s.dev (bar4Addr s fn off) n))
      else (bar4Counted s fn off).emit (.readData fn (List.replicate n 0xFF#8))) := by
  refine (hostCmd_up hr _).trans (congrArg _ (if_neg ?_))
  rw [hs, Bool.false_or]
  simpa using hsize

theorem bar4_beyond (hr : reachable s = true) {n : Nat} (hsize : bar4Size s fn < off + n) : exec (.bar4Access fn off n none) s = .next s :=
  (hostCmd_up hr _).trans (congrArg _ (if_pos (Bool.or_eq_true_iff.mpr (.inr (decide_eq_true hsize)))))

theorem bar4Ok_of {wr : Bool} {len : Nat} (hend : bar4Addr s fn off + len ≤ Config.devMemEnd)
    (hpages : ∀ pg ∈ span Config.pageBytes (bar4Addr s fn off) len, bar4Page s fn wr (bar4Addr s fn off) len pg = true) :
    bar4Ok s fn wr off len = true :=
  Bool.and_eq_true_iff.mpr ⟨decide_eq_true hend, List.all_eq_true.mpr hpages⟩

theorem bar4Ok_refused {wr : Bool} {len pg : Nat} (hpg : pg ∈ span Config.pageBytes (bar4Addr s fn off) len)
    (hbad : bar4Page s fn wr (bar4Addr s fn off) len pg = false) : bar4Ok s fn wr off len = false :=
  Bool.and_eq_false_iff.mpr (.inr (List.all_eq_false.mpr ⟨pg, hpg, by simp [hbad]⟩))

end

/-- Settles O46: registers by width and alignment, QM_MIGADDR, and BAR4. -/
theorem functionAccesses : Obligations.FunctionAccesses := by
  unfold Obligations.FunctionAccesses
  intro s fn hr
  refine ⟨fun off v hw ha => ⟨?_, fun hl => ?_, fun hl => ⟨_, ?_, rfl, fun hn w => ?_⟩⟩, fun off size v h8 h4 => ?_, fun i v hfn => ?_,
    fun off hw ha => ?_, fun off ha => ⟨fun hw => ?_, fun hw => ?_⟩, fun off size h8 h4 => ?_, fun hs off n => ?_⟩
  · exact (hostCmd_up hr _).trans (congrArg _ (bar0Write_wide hw ha v))
  · exact (hostCmd_up hr _).trans (congrArg _ ((bar0Write_low hw ha v).trans (if_pos hl)))
  · exact (hostCmd_up hr _).trans (congrArg _ ((bar0Write_low hw ha v).trans (if_neg (by simp [hl]))))
  · refine (hostCmd_up (s := { s with lowPend := Tab.insert s.lowPend (halfKey fn off) (v.truncate 32) }) hr _).trans (congrArg _ ?_)
    refine (bar0Write_high (s := { s with lowPend := Tab.insert s.lowPend (halfKey fn off) (v.truncate 32) }) hw hn ha hl
      (Tab.find_insert_self s.lowPend _ _) w).trans ?_
    rw [BitVec.truncate_eq_setWidth, BitVec.toNat_setWidth]
  · exact (hostCmd_up hr _).trans (congrArg _ (bar0Write_none h8 h4 v))
  · obtain ⟨hwide, halign, -, -, hfield, -⟩ := qmMigaddr_plain i
    have hw : regWidth fn (Reg.qmMigaddr i) = some true := (if_pos hfn).trans hwide
    obtain ⟨low, hlow⟩ := dropLow_frame s fn (Reg.qmMigaddr i)
    have hone : OneReg (Reg.qmMigaddr i) { s with lowPend := low } (regWritePlain { s with lowPend := low } (Reg.qmMigaddr i) v.toNat) :=
      OneReg.write _ _ _
    refine ⟨regWritePlain { s with lowPend := low } (Reg.qmMigaddr i) v.toNat, ?_,
      fget_regWritePlain_rw hfield (by omega) (by omega) _ _, hone.mem, fun o ho => hone.rd ho⟩
    refine (hostCmd_up hr _).trans (congrArg _ ((bar0Write_wide hw halign v).trans ?_))
    rw [hlow]
    exact (if_pos hfn).trans (pfWrite_qmMigaddr _ i _)
  · exact ⟨_, (exec_lowHalfRead hr fn off 4).trans (congrArg _ (bar0Read_low hw ha)), rfl, Tab.find_insert_self s.hiLatch _ _, rfl, rfl, rfl⟩
  · refine (exec_lowHalfRead hr fn off 8).trans (congrArg _ ((bar0Read_wide ha).trans ?_))
    unfold readWide
    rw [hw]
  · refine (exec_lowHalfRead hr fn off 8).trans (congrArg _ ((bar0Read_wide ha).trans ?_))
    unfold readWide
    rw [hw]
  · exact (exec_lowHalfRead hr fn off size).trans (congrArg _ (bar0Read_none h8 h4))
  · refine ⟨fun bs hsize hend hpages => ⟨_, bar4_write hr hs n hsize (bar4Ok_of hend hpages), rfl, rfl, rfl, rfl⟩, fun hsize hend hpages => ?_,
      fun hsize => bar4_beyond hr hsize, fun hsize pg hpg hbad => ⟨_, bar4_read hr hs hsize, ?_⟩⟩
    · rw [bar4_read hr hs hsize, if_pos (bar4Ok_of hend hpages)]
      rfl
    · obtain ⟨hout, hmem⟩ := bar4Counted_frame s fn off
      rw [bar4Ok_refused hpg hbad, if_neg Bool.false_ne_true]
      exact ⟨congrArg (· ++ _) hout, hmem⟩

end Sys2Proof.Proofs
end

section
/-! PROOFS. Ports and trace: O47. -/

namespace Sys2Proof.Proofs
open Sys2Proof.Machine

/-! ### Ports (R235, R410) -/

theorem portsDone_frame (s : State) : OneReg Reg.glStatus s (portsDone s) := by
  unfold portsDone
  split
  · exact (OneReg.refl _ _).fset _ _ _
  · exact .refl _ _

theorem portctl_ne_portstat (p q : Port) : Reg.fbPortctl p ≠ Reg.fbPortstat q := by
  unfold Reg.fbPortctl Reg.fbPortstat
  omega

theorem portctl_ne_glStatus (p : Port) : Reg.fbPortctl p ≠ Reg.glStatus := by
  unfold Reg.fbPortctl Reg.glStatus
  omega

theorem portstat_ne_glStatus (p : Port) : Reg.fbPortstat p ≠ Reg.glStatus := by
  unfold Reg.fbPortstat Reg.glStatus
  omega

theorem portEnable_on {s : State} (hr : reachable s = true) (p : Port) {v : W32} (hv : v.getLsbD 31 = true) (hid : written s Reg.fbModid = true) :
    ∃ t, exec (.portEnable p v) s = .next t ∧ fbit t (Reg.fbPortctl p) 31 = true ∧ sameMemory s t ∧
      ∀ o, o ≠ Reg.fbPortctl p → rd t o = rd s o := by
  refine ⟨_, hostCmd_up hr _, ?_⟩
  have hw : writePortctl s p v.toNat = if memDone s || fbit s (Reg.fbPortctl p) 31 then fset s (Reg.fbPortctl p) 31 31 1
      else { fset s (Reg.fbPortctl p) 31 31 1 with portWait := s.portWait ++ [p] } :=
    (if_pos ((bit_toNat v 31).trans hv)).trans (if_neg (by simp [hid]))
  have hon : fbit (fset s (Reg.fbPortctl p) 31 31 1) (Reg.fbPortctl p) 31 = true := fbit_fset_self _ _ _ (by omega)
  rw [hw]
  split
  · exact ⟨hon, ⟨rfl, rfl⟩, fun o ho => rd_fset_other _ _ _ _ ho⟩
  · exact ⟨hon, ⟨rfl, rfl⟩, fun o ho => rd_fset_other _ _ _ _ ho⟩

theorem portEnable_unnamed {s : State} (hr : reachable s = true) (p : Port) {v : W32} (hv : v.getLsbD 31 = true)
    (hid : written s Reg.fbModid = false) :
    ∃ t, exec (.portEnable p v) s = .next t ∧ fbit t Reg.glStatus 29 = true ∧ sameMemory s t ∧ ∀ o, o ≠ Reg.glStatus → rd t o = rd s o :=
  ⟨fset s Reg.glStatus 29 29 1,
    (hostCmd_up hr _).trans (congrArg _ ((if_pos ((bit_toNat v 31).trans hv)).trans (if_pos (by simp [hid])))),
    fbit_fset_self _ _ _ (by omega), ⟨rfl, rfl⟩, fun _ ho => rd_fset_other _ _ _ _ ho⟩

/-- A port that is disabled: its control and its state are clear. -/
def portCleared (s : State) (p : Port) : State := fset (fset s (Reg.fbPortctl p) 31 31 0) (Reg.fbPortstat p) 31 28 0

theorem portCleared_spec (s : State) (p : Port) :
    fbit (portCleared s p) (Reg.fbPortctl p) 31 = false ∧ fget (portCleared s p) (Reg.fbPortstat p) 31 28 = 0 ∧ sameMemory s (portCleared s p) :=
  ⟨(fbit_fset_other _ _ _ _ _ (portctl_ne_portstat p p)).trans (fbit_fset_self _ _ _ (by omega)),
    (fget_fset_self _ _ _ (by omega) (by omega)).trans rfl, rfl, rfl⟩

theorem writePortctl_off (s : State) (p : Port) {v : W32} (hv : v.getLsbD 31 = false) :
    writePortctl s p v.toNat = portsDone { portCleared s p with portWait := s.portWait.filter (· ≠ p) } :=
  if_neg (by rw [bit_toNat, hv]; exact Bool.false_ne_true)

/-- Once no port is waited for, only GL_STATUS has changed. -/
theorem portsDone_kept (u : State) (wait : List Port) :
    (∀ off b, off ≠ Reg.glStatus → fbit (portsDone { u with portWait := wait }) off b = fbit u off b) ∧
      (∀ off hi lo, off ≠ Reg.glStatus → fget (portsDone { u with portWait := wait }) off hi lo = fget u off hi lo) ∧
      sameMemory u (portsDone { u with portWait := wait }) ∧ (portsDone { u with portWait := wait }).portWait = wait := by
  have hone := portsDone_frame { u with portWait := wait }
  refine ⟨fun off b ho => fbit_congr_rd (hone.rd ho) b, fun off hi lo ho => fget_congr_rd (hone.rd ho) hi lo, hone.mem, ?_⟩
  unfold portsDone
  split <;> rfl

theorem portEnable_off {s : State} (hr : reachable s = true) (p : Port) {v : W32} (hv : v.getLsbD 31 = false) :
    ∃ t, exec (.portEnable p v) s = .next t ∧ fbit t (Reg.fbPortctl p) 31 = false ∧ fget t (Reg.fbPortstat p) 31 28 = 0 ∧ sameMemory s t := by
  obtain ⟨hctl, hstat, hmem⟩ := portCleared_spec s p
  obtain ⟨hbit, hget, hsame, -⟩ := portsDone_kept (portCleared s p) (s.portWait.filter (· ≠ p))
  exact ⟨_, (hostCmd_up hr _).trans (congrArg _ (writePortctl_off s p hv)), (hbit _ _ (portctl_ne_glStatus p)).trans hctl,
    (hget _ _ _ (portstat_ne_glStatus p)).trans hstat, hsame.1.trans hmem.1, hsame.2.trans hmem.2⟩

/-- A port's status once it has trained: up, on four lanes, all of them good. -/
def trained (s : State) (p : Port) : State :=
  fset (fset (fset s (Reg.fbPortstat p) 31 31 1) (Reg.fbPortstat p) 30 28 4) (Reg.fbPortstat p) 27 24 15

theorem trained_spec (s : State) (p : Port) :
    portUp (trained s p) p = true ∧ fget (trained s p) (Reg.fbPortstat p) 30 28 = 4 ∧ fget (trained s p) (Reg.fbPortstat p) 27 24 = 15 ∧
      fbit (trained s p) Reg.glStatus 15 = fbit s Reg.glStatus 15 ∧ (trained s p).portWait = s.portWait ∧ sameMemory s (trained s p) := by
  have hne := (portstat_ne_glStatus p).symm
  unfold trained
  refine ⟨?_, ?_, ?_, ?_, rfl, rfl, rfl⟩
  · exact (fbit_fset_field _ _ _ (by omega) (by omega) (by omega)).trans
      ((fbit_fset_field _ _ _ (by omega) (by omega) (by omega)).trans (fbit_fset_self _ _ _ (by omega)))
  · exact (fget_fset_field _ _ _ (by omega) (by omega) (by omega) (by omega)).trans (fget_fset_self _ _ _ (by omega) (by omega))
  · exact fget_fset_self _ _ _ (by omega) (by omega)
  · rw [fbit_fset_other _ _ _ _ _ hne, fbit_fset_other _ _ _ _ _ hne, fbit_fset_other _ _ _ _ _ hne]

theorem exec_portTraining {s : State} {p : Port} (hon : fbit s (Reg.fbPortctl p) 31 = true) :
    exec (.portTraining p true) s = .next (portsDone { trained s p with portWait := (trained s p).portWait.filter (· ≠ p) }) := by
  show execPortTraining p true s = _
  unfold execPortTraining
  rw [hon]
  rfl

/-- The last port that was waited for ends the wait, with memory done. -/
theorem portsDone_last (u : State) (hm : memDone u = true) : fbit (portsDone { u with portWait := [] }) Reg.glStatus 12 = true := by
  have hd : portsDone { u with portWait := [] } = fset { u with portWait := [] } Reg.glStatus 12 12 1 :=
    if_pos (Bool.and_eq_true_iff.mpr ⟨hm, rfl⟩)
  rw [hd]
  exact fbit_fset_self _ _ _ (by omega)

theorem portTraining_up {s : State} {p : Port} (hon : fbit s (Reg.fbPortctl p) 31 = true) :
    ∃ t, exec (.portTraining p true) s = .next t ∧ portUp t p = true ∧ fget t (Reg.fbPortstat p) 30 28 = 4 ∧
      fget t (Reg.fbPortstat p) 27 24 = 15 ∧ p ∉ t.portWait ∧ sameMemory s t ∧
      (memDone s = true → s.portWait = [p] → fbit t Reg.glStatus 12 = true) := by
  obtain ⟨hup, hlanes, hgood, hmd, hwait, hmem⟩ := trained_spec s p
  obtain ⟨hbit, hget, hsame, hw⟩ := portsDone_kept (trained s p) ((trained s p).portWait.filter (· ≠ p))
  have hne := portstat_ne_glStatus p
  refine ⟨_, exec_portTraining hon, (hbit _ _ hne).trans hup, (hget _ _ _ hne).trans hlanes, (hget _ _ _ hne).trans hgood, ?_,
    ⟨hsame.1.trans hmem.1, hsame.2.trans hmem.2⟩, fun hm hp => ?_⟩
  · rw [hw]
    exact fun h => of_decide_eq_true (List.mem_filter.mp h).2 rfl
  · have hnone : (trained s p).portWait.filter (· ≠ p) = [] := by
      rw [hwait, hp]
      simp
    rw [hnone]
    exact portsDone_last _ (hmd.trans hm)

/-! ### Fields that a 1 sets -/

theorem bits_fieldWrites_w1s (se wr : Bool) (v b : Nat) : ∀ (l : List Fld) (w : Nat), ownsField .w1s b b l = true →
    bits (l.foldl (fun w f => fieldWrite se wr w v f) w) b b = (bits w b b ||| bits v b b) % 2 ^ (b + 1 - b)
  | [], _, h => by simp [ownsField] at h
  | f :: l, w, h => by
    rw [List.foldl_cons]
    simp only [ownsField, Bool.or_eq_true, Bool.and_eq_true, beq_iff_eq] at h
    rcases h with ⟨hf, hl⟩ | ⟨⟨⟨hacc, hhi⟩, hlo⟩, hrest⟩
    · have hone := bits_fieldWrites_apart se wr v (hi := b) (lo := b) (by omega) (l := [f]) (by simp [hf]) w
      rw [List.foldl_cons, List.foldl_nil] at hone
      rw [bits_fieldWrites_w1s se wr v b l _ hl, hone]
    · rw [bits_fieldWrites_apart se wr v (by omega) hrest, fieldWrite, hacc]
      dsimp only
      rw [hhi, hlo, bits_setBits_self]

theorem fbit_regWritePlain_w1s {off b : Nat} (h : ownField .w1s off b b = true) (hb : b < 64) {v : Nat} (hv : bit v b = true) (s : State) :
    fbit (regWritePlain s off v) off b = true := by
  have hbits : fget (regWritePlain s off v) off b b = (fget s off b b ||| bits v b b) % 2 ^ (b + 1 - b) := by
    unfold ownField at h
    unfold regWritePlain
    cases hr : regRow off with
    | none => simp [hr] at h
    | some r =>
      rw [hr] at h
      dsimp only
      rw [fget_setReg_self _ _ _ hb (by omega)]
      exact bits_fieldWrites_w1s _ _ v b _ _ h
  have hv1 : bits v b b = 1 := by simpa [bit_eq_bits] using hv
  have h1 : fget s off b b < 2 := (bits_lt _ _ _).trans_eq (by rw [show b + 1 - b = 1 by omega]; rfl)
  rw [fbit_eq_fget, hbits, hv1, show b + 1 - b = 1 by omega]
  generalize fget s off b b = x at *
  interval_cases x <;> rfl

/-! ### Trace dumps (R397) -/

theorem trDump_fields :
    hasField .rw Reg.trDump 63 12 = true ∧ hasField .rw Reg.trDump 2 0 = true ∧ ownField .w1s Reg.trDump 11 11 = true ∧
      fieldsApart Reg.trDump 10 10 = true := by
  decide +kernel

theorem startDump_starts {s : State} (hs : sealed s = false) (hgo : fbit s Reg.trDump 11 = true) (hbusy : fbit s Reg.trDump 10 = false) :
    let t := startDump s
    fbit t Reg.trDump 10 = true ∧ fget t Reg.trDump 63 12 = fget s Reg.trDump 63 12 ∧ fbit t Reg.trDump 11 = false ∧
      t.trTo = fget s Reg.trDump 63 12 * 4096 ∧ t.trCopy = Tab.get [] s.trBuf (fget s Reg.trDump 2 0) ∧ t.trBuf = s.trBuf ∧ sameMemory s t := by
  intro t
  have ht : t = { fset (fset s Reg.trDump 11 11 0) Reg.trDump 10 10 1 with
      trCopy := Tab.get [] s.trBuf (fget s Reg.trDump 2 0), trTo := fget s Reg.trDump 63 12 * 4096 } :=
    (if_neg (by simp [hs])).trans (if_neg (by simp [hgo, hbusy]))
  rw [ht]
  refine ⟨?_, ?_, ?_, rfl, rfl, rfl, rfl, rfl⟩
  · exact fbit_fset_self _ _ _ (by omega)
  · exact (fget_fset_field _ _ _ (by omega) (by omega) (by omega) (by omega)).trans
      (fget_fset_field _ _ _ (by omega) (by omega) (by omega) (by omega))
  · exact (fbit_fset_field _ _ _ (by omega) (by omega) (by omega)).trans (fbit_fset_self _ _ _ (by omega))

theorem startDump_waits {s : State} (h : sealed s = false) (hn : fbit s Reg.trDump 11 = false ∨ fbit s Reg.trDump 10 = true) : startDump s = s :=
  (if_neg (by simp [h])).trans (if_pos (by rcases hn with hn | hn <;> simp [hn]))

/-- What a write of TR_DUMP stores before a copy may start. -/
theorem trDump_written (s : State) {v : W64} (hv : v.getLsbD 11 = true) :
    let u := regWritePlain s Reg.trDump v.toNat
    fget u Reg.trDump 63 12 = bits v.toNat 63 12 ∧ fget u Reg.trDump 2 0 = bits v.toNat 2 0 ∧ fbit u Reg.trDump 11 = true ∧
      fbit u Reg.trDump 10 = fbit s Reg.trDump 10 := by
  obtain ⟨hto, hdie, hgo, hbusy⟩ := trDump_fields
  refine ⟨fget_regWritePlain_rw hto (by omega) (by omega) _ _, fget_regWritePlain_rw hdie (by omega) (by omega) _ _,
    fbit_regWritePlain_w1s hgo (by omega) ((bit_toNat v 11).trans hv) _, ?_⟩
  rw [fbit_eq_fget, fbit_eq_fget, fget_regWritePlain_apart hbusy (by omega) (by omega)]

theorem trDump_starts {s : State} (hs : sealed s = false) (hbusy : fbit s Reg.trDump 10 = false) {v : W64} (hv : v.getLsbD 11 = true) :
    let t := writeDump s v.toNat
    fbit t Reg.trDump 10 = true ∧ fget t Reg.trDump 63 12 = bits v.toNat 63 12 ∧ fbit t Reg.trDump 11 = false ∧
      t.trTo = 4096 * bits v.toNat 63 12 ∧ t.trCopy = Tab.get [] s.trBuf (bits v.toNat 2 0) ∧ t.trBuf = s.trBuf ∧ sameMemory s t := by
  obtain ⟨hto, hdie, hgo, hb⟩ := trDump_written s hv
  obtain ⟨regs, hf, hrd⟩ := OneReg.write s Reg.trDump v.toNat
  have hsealed : sealed (regWritePlain s Reg.trDump v.toNat) = false := (fbit_congr_rd (hrd _ (by decide)) 31).trans hs
  have hbuf : (regWritePlain s Reg.trDump v.toNat).trBuf = s.trBuf := by rw [hf]
  have hmem : sameMemory s (regWritePlain s Reg.trDump v.toNat) := by rw [hf]; exact ⟨rfl, rfl⟩
  unfold writeDump
  generalize regWritePlain s Reg.trDump v.toNat = u at *
  obtain ⟨h10, h63, h11, htrto, hcopy, hbuf', hmem'⟩ := startDump_starts hsealed hgo (hb.trans hbusy)
  refine ⟨h10, h63.trans hto, h11, ?_, ?_, hbuf'.trans hbuf, hmem'.1.trans hmem.1, hmem'.2.trans hmem.2⟩
  · rw [htrto, hto, Nat.mul_comm]
  · rw [hcopy, hdie, hbuf]

theorem trDump_waits {s : State} (hs : sealed s = false) (hbusy : fbit s Reg.trDump 10 = true) {v : W64} (hv : v.getLsbD 11 = true) :
    let t := writeDump s v.toNat
    fbit t Reg.trDump 11 = true ∧ t.trCopy = s.trCopy ∧ t.trTo = s.trTo ∧ sameMemory s t := by
  obtain ⟨-, -, hgo, hb⟩ := trDump_written s hv
  obtain ⟨regs, hf, hrd⟩ := OneReg.write s Reg.trDump v.toNat
  have hsealed : sealed (regWritePlain s Reg.trDump v.toNat) = false := (fbit_congr_rd (hrd _ (by decide)) 31).trans hs
  have hkept : (regWritePlain s Reg.trDump v.toNat).trCopy = s.trCopy ∧ (regWritePlain s Reg.trDump v.toNat).trTo = s.trTo ∧
      sameMemory s (regWritePlain s Reg.trDump v.toNat) := by rw [hf]; exact ⟨rfl, rfl, rfl, rfl⟩
  unfold writeDump
  rw [startDump_waits hsealed (.inr (hb.trans hbusy))]
  exact ⟨hgo, hkept⟩

/-- The state in which a copy has ended, before the next may start. -/
def dumpDone (s : State) : State :=
  fset { s with host := Memory.write s.host s.trTo (s.trCopy.flatMap fun p => leBytes 16 p.toNat), trCopy := [] } Reg.trDump 10 10 0

theorem length_packets (ps : List W128) : (ps.flatMap fun p => leBytes 16 p.toNat).length = 16 * ps.length := by
  induction ps with
  | nil => rfl
  | cons p ps ih =>
    rw [List.flatMap_cons, List.length_append, ih, length_leBytes, List.length_cons]
    omega

theorem dumpDone_spec (s : State) :
    (dumpDone s).dev = s.dev ∧ (dumpDone s).host = Memory.write s.host s.trTo (s.trCopy.flatMap fun p => leBytes 16 p.toNat) ∧
      (dumpDone s).trCopy = [] ∧ (dumpDone s).trBuf = s.trBuf ∧ fbit (dumpDone s) Reg.trDump 10 = false ∧
      fbit (dumpDone s) Reg.trDump 11 = fbit s Reg.trDump 11 ∧ (∀ hi lo, hi < 64 → lo ≤ hi + 1 → 10 < lo ∨ hi < 10 →
        fget (dumpDone s) Reg.trDump hi lo = fget s Reg.trDump hi lo) ∧ sealed (dumpDone s) = sealed s := by
  unfold dumpDone
  refine ⟨rfl, rfl, rfl, rfl, fbit_fset_self _ _ _ (by omega), fbit_fset_field _ _ _ (by omega) (by omega) (by omega), fun hi lo h1 h2 h3 => ?_,
    fbit_fset_other _ _ _ _ _ (by decide)⟩
  exact fget_fset_field _ _ _ (by omega) h2 h1 h3

theorem exec_trDumpDone {s : State} (hbusy : fbit s Reg.trDump 10 = true) : exec .trDumpDone s = .next (startDump (dumpDone s)) :=
  congrArg Host.Outcome.next (if_pos hbusy)

theorem startDump_mem (s : State) : sameMemory s (startDump s) := by
  unfold startDump
  split
  · exact ⟨rfl, rfl⟩
  · split
    · exact ⟨rfl, rfl⟩
    · exact ⟨rfl, rfl⟩

theorem startDump_idle {s : State} (hgo : fbit s Reg.trDump 11 = false) (hbusy : fbit s Reg.trDump 10 = false) :
    fbit (startDump s) Reg.trDump 10 = false ∧ (startDump s).trCopy = s.trCopy := by
  cases hs : sealed s with
  | false => rw [startDump_waits hs (.inl hgo)]; exact ⟨hbusy, rfl⟩
  | true =>
    have ht : startDump s = fset s Reg.trDump 11 11 0 := if_pos hs
    rw [ht]
    exact ⟨(fbit_fset_field _ _ _ (by omega) (by omega) (by omega)).trans hbusy, rfl⟩

theorem trDumpDone_spec {s : State} (hbusy : fbit s Reg.trDump 10 = true) :
    ∃ t, exec .trDumpDone s = .next t ∧ t.dev = s.dev ∧
      Memory.read t.host s.trTo (16 * s.trCopy.length) = (s.trCopy.flatMap fun p => leBytes 16 p.toNat) ∧
      (fbit s Reg.trDump 11 = false → fbit t Reg.trDump 10 = false ∧ t.trCopy = []) ∧
      (fbit s Reg.trDump 11 = true → sealed s = false → fbit t Reg.trDump 10 = true ∧ fbit t Reg.trDump 11 = false ∧
        t.trCopy = Tab.get [] s.trBuf (fget s Reg.trDump 2 0) ∧ t.trTo = 4096 * fget s Reg.trDump 63 12) := by
  obtain ⟨hdev, hhost, hcopy, hbuf, h10, h11, hget, hsealed⟩ := dumpDone_spec s
  refine ⟨_, exec_trDumpDone hbusy, ?_⟩
  generalize dumpDone s = u at *
  have hm := startDump_mem u
  refine ⟨hm.1.trans hdev, ?_, fun hgo => ?_, fun hgo hs => ?_⟩
  · rw [hm.2, hhost, ← length_packets, Memory.read_write]
  · obtain ⟨hidle, hc⟩ := startDump_idle (h11.trans hgo) h10
    exact ⟨hidle, hc.trans hcopy⟩
  · obtain ⟨g10, -, g11, hto, hc, -, -⟩ := startDump_starts (hsealed.trans hs) (h11.trans hgo) h10
    refine ⟨g10, g11, ?_, ?_⟩
    · rw [hc, hbuf, hget 2 0 (by omega) (by omega) (by omega)]
    · rw [hto, hget 63 12 (by omega) (by omega) (by omega), Nat.mul_comm]

/-! ### Packets that meet a full FIFO (R393) -/

theorem traceDrop_counts {s : State} {k : PCore} (hon : traceOn s = true) (hfull : 32 ≤ (Tab.get [] s.trFifo k).length) :
    ∃ t, exec (.traceDrop k) s = .next t ∧ t.trFifo = s.trFifo ∧ sameMemory s t ∧
      fget t (Reg.trPtr (dieOf k)) 63 32 = min (2 ^ 32 - 1) (fget s (Reg.trPtr (dieOf k)) 63 32 + 1) := by
  refine ⟨finc { s with trDrop := Tab.upd 0 s.trDrop k fun n => satAdd 32 n 1 } (Reg.trPtr (dieOf k)) 63 32 1,
    if_pos (Bool.and_eq_true_iff.mpr ⟨hon, decide_eq_true hfull⟩), rfl, ⟨rfl, rfl⟩, ?_⟩
  refine (fget_fset_self _ _ _ (by omega) (by omega)).trans ?_
  show satAdd 32 (fget s (Reg.trPtr (dieOf k)) 63 32) 1 % 2 ^ 32 = _
  unfold satAdd
  omega

/-- Settles O47: ports, trace dumps and drops. -/
theorem portsAndTrace : Obligations.PortsAndTrace := by
  unfold Obligations.PortsAndTrace
  intro s
  refine ⟨fun p v hr => ⟨portEnable_on hr p, portEnable_unnamed hr p, portEnable_off hr p⟩, fun p hon => portTraining_up hon,
    fun v hr hs hbusy hv => ?_, fun v hr hs hbusy hv => ?_, trDumpDone_spec, fun k => traceDrop_counts⟩
  · obtain ⟨low, he⟩ := hostWide_up hr 0 Reg.trDump fun t => writeDump t v.toNat
    exact ⟨_, he, trDump_starts (s := { s with lowPend := low }) hs hbusy hv⟩
  · obtain ⟨low, he⟩ := hostWide_up hr 0 Reg.trDump fun t => writeDump t v.toNat
    exact ⟨_, he, trDump_waits (s := { s with lowPend := low }) hs hbusy hv⟩

end Sys2Proof.Proofs
end

section
/-! PROOFS. Commands on keys and the end of a retirement: O37. -/

namespace Sys2Proof.Proofs
open Sys2Proof.Machine

/-! ### Commands on keys (R316 to R320) -/

/-- A session's command on a key it may act on runs. -/
theorem withKey_runs {s : State} {fn : Fn} {cmd : Nat} {m : KeyMsg} {k : KeyId} {f : KeyId → State} (hsess : (sessionCert s fn m.sess).isSome = true)
    (hrsvd : m.rsvd = 0#24) (hkey : keyOf fn m = some k) (hact : mayAct s fn k = true) : withKey s fn cmd m false f = .next (f k) := by
  unfold withKey
  rw [if_neg (by simpa using Option.isSome_iff_ne_none.mp hsess), if_neg (by simp [hrsvd]), hkey]
  exact congrArg _ (if_pos hact)

theorem keyAnswer_out (s : State) (fn : Fn) (cmd status : Nat) {k : KeyId} {gen code : Nat} (hgen : (keyEnt s k).keygen.toNat = gen)
    (hcode : (keyEnt s k).st.code = code) : (keyAnswer s fn cmd status (some k)).out =
      s.out ++ [.spdm fn (leBytes 8 (packFields [(8, cmd), (8, status), (8, gen), (8, code)]))] := by
  subst hgen hcode
  rfl

theorem keyAnswer_key (s : State) (fn : Fn) (cmd status : Nat) (k? : Option KeyId) (id : KeyId) :
    keyEnt (keyAnswer s fn cmd status k?) id = keyEnt s id := by
  cases id <;> rfl

/-- The retirement that a RETIRE begins: an instance's with its removal (R320, R322). -/
def retireBegun (s : State) (k : KeyId) : State :=
  match k with
  | .instance_ i => beginRetire (beginRemoval s i) k
  | _ => beginRetire s k

theorem beginRetire_idle {s : State} {id : KeyId} (h : (keyEnt s id).st ≠ .active) : beginRetire s id = s := if_pos (by simpa using h)

theorem beginRemoval_key {s : State} {i : Inst} (ha : (s.ikey i).st = .active) (h : inRemoval s i = false) :
    (beginRemoval s i).ikey i = { s.ikey i with st := .retiring } ∧ (beginRemoval s i).dev = s.dev := by
  have hb : beginRemoval s i = removalStep (startRemoval s i) i := if_neg (by simp [h])
  obtain ⟨hdev, -, hkey, -, -⟩ := startRemoval_spec h
  have hk := removalStep_kept (startRemoval s i) i
  rw [hb]
  exact ⟨(hk.keys.keyEnt (.instance_ i)).trans (hkey ha), hk.dev.trans hdev⟩

theorem retireBegun_spec {s : State} {k : KeyId} (ha : (keyEnt s k).st = .active) :
    keyEnt (retireBegun s k) k = { keyEnt s k with st := .retiring } ∧ (retireBegun s k).dev = s.dev := by
  cases k with
  | adapter t => exact ⟨keyEnt_beginRetire ha, (beginRetire_spec s _).dev⟩
  | migration => exact ⟨keyEnt_beginRetire ha, (beginRetire_spec s _).dev⟩
  | instance_ i =>
    show keyEnt (beginRetire (beginRemoval s i) (.instance_ i)) _ = _ ∧ (beginRetire (beginRemoval s i) (.instance_ i)).dev = s.dev
    cases hin : inRemoval s i with
    | true =>
      have hb : beginRemoval s i = s := if_pos hin
      rw [hb]
      exact ⟨keyEnt_beginRetire ha, (beginRetire_spec s _).dev⟩
    | false =>
      obtain ⟨hk, hdev⟩ := beginRemoval_key ha hin
      have hk' : keyEnt (beginRemoval s i) (.instance_ i) = { s.ikey i with st := .retiring } := hk
      rw [beginRetire_idle (by rw [hk']; simp)]
      exact ⟨hk, hdev⟩

section
variable {s : State} {fn : Fn} {m : KeyMsg} {k : KeyId} (hsess : (sessionCert s fn m.sess).isSome = true) (hrsvd : m.rsvd = 0#24)
  (hkey : keyOf fn m = some k) (hact : mayAct s fn k = true)
include hsess hrsvd hkey hact

theorem setkey_installs (hst : (keyEnt s k).st = .absent ∨ (keyEnt s k).st = .retired ∧
      (keyEnt s k).rettime.toNat + Config.quarantine ≤ s.time.toNat) (hgen : m.keygen ≠ 0#8)
    (hnew : (keyEnt s k).lastret = 0#8 ∨ 0 < sdiff8 m.keygen (keyEnt s k).lastret) :
    ∃ t, exec (.setkey fn m) s = .next t ∧ keyEnt t k = { keyEnt s k with
        keygen := m.keygen, st := .active, inst := fin 15 (fn.val - 1), key := m.key, refused := false } ∧
      t.out = s.out ++ [.spdm fn (leBytes 8 (packFields [(8, 1), (8, 0), (8, m.keygen.toNat), (8, 1)]))] ∧ sameMemory s t ∧ t.regs = s.regs := by
  let u := setKeyEnt s k fun x => { x with keygen := m.keygen, st := .active, inst := fin 15 (fn.val - 1), key := m.key, refused := false }
  have hu : keyEnt u k = { keyEnt s k with
      keygen := m.keygen, st := .active, inst := fin 15 (fn.val - 1), key := m.key, refused := false } := keyEnt_setKeyEnt_self _ _ _
  have hmem : sameMemory s u ∧ u.regs = s.regs ∧ u.out = s.out := by
    unfold u setKeyEnt
    split <;> exact ⟨⟨rfl, rfl⟩, rfl, rfl⟩
  have hrun : exec (.setkey fn m) s = .next (keyAnswer u fn 1 0 (some k)) := by
    refine (withKey_runs hsess hrsvd hkey hact).trans (congrArg _ ?_)
    dsimp only
    rw [if_neg (by rcases hst with h | ⟨h, -⟩ <;> simp [h]), if_neg, if_neg]
    · rcases hst with h | ⟨h, htime⟩
      · simp [h]
      · simp [h, htime]
    · rcases hst with h | ⟨h, -⟩ <;> simp [h, hgen, hnew]
  clear_value u
  obtain ⟨hm, hr, ho⟩ := hmem
  refine ⟨_, hrun, (keyAnswer_key u fn 1 0 _ k).trans hu, ?_, hm, hr⟩
  have hgen : (keyEnt u k).keygen.toNat = m.keygen.toNat := by rw [hu]
  have hcode : (keyEnt u k).st.code = 1 := by rw [hu]; rfl
  rw [keyAnswer_out u fn 1 0 hgen hcode, ho]

theorem query_answers (hgen : m.keygen = 0#8) (hk0 : m.key = 0#256) :
    exec (.query fn m) s =
      .next (s.emit (.spdm fn (leBytes 8 (packFields [(8, 3), (8, 0), (8, (keyEnt s k).keygen.toNat), (8, (keyEnt s k).st.code)])))) := by
  have hresv : (decide (m.keygen ≠ 0#8) || decide (m.key ≠ 0#256)) = false := by simp [hgen, hk0]
  show withKey s fn 3 m (decide (m.keygen ≠ 0#8) || decide (m.key ≠ 0#256)) _ = _
  rw [hresv, withKey_runs hsess hrsvd hkey hact]
  rfl

/-- A RETIRE of an active key begins its retirement, and its answer shows it. -/
theorem retire_begins (hgen : (keyEnt s k).keygen = m.keygen) (ha : (keyEnt s k).st = .active) (hk0 : m.key = 0#256) :
    ∃ t o, exec (.retire fn m) s = .next t ∧ (keyEnt t k).st = .retiring ∧ (keyEnt t k).keygen = (keyEnt s k).keygen ∧ t.dev = s.dev ∧
      t.out = o ++ [.spdm fn (leBytes 8 (packFields [(8, 2), (8, 0), (8, (keyEnt s k).keygen.toNat), (8, 2)]))] := by
  have hrun : exec (.retire fn m) s = .next (keyAnswer (retireBegun s k) fn 2 0 (some k)) := by
    show withKey s fn 2 m (decide (m.key ≠ 0#256)) _ = _
    rw [show decide (m.key ≠ 0#256) = false by simp [hk0], withKey_runs hsess hrsvd hkey hact]
    refine congrArg _ ((if_neg (by simp [hgen, ha])).trans ((if_neg (by simp [ha])).trans ?_))
    cases k <;> rfl
  obtain ⟨hk, hdev⟩ := retireBegun_spec ha
  generalize retireBegun s k = u at *
  have hkgen : (keyEnt u k).keygen.toNat = (keyEnt s k).keygen.toNat := by rw [hk]
  have hcode : (keyEnt u k).st.code = 2 := by rw [hk]; rfl
  refine ⟨_, u.out, hrun, ?_, ?_, hdev, keyAnswer_out u fn 2 0 hkgen hcode⟩
  · rw [keyAnswer_key, hk]
  · rw [keyAnswer_key, hk]

end

/-! ### The end of a retirement, and the cache of keys (R320, R307) -/

/-- The removals' steps leave device memory and keys. -/
theorem removalSteps_kept (s : State) : ((List.range 16).foldl removalStep s).dev = s.dev ∧ SameKeys s ((List.range 16).foldl removalStep s) := by
  refine List.foldlRecOn (motive := fun u => u.dev = s.dev ∧ SameKeys s u) _ _ ⟨rfl, rfl, rfl, rfl⟩ fun u hu n hn => ?_
  have hk := removalStep_kept u ⟨n, List.mem_range.mp hn⟩
  exact ⟨hk.dev.trans hu.1, hu.2.trans hk.keys⟩

/-- The key of a retirement that has ended. -/
def keyRetired (s : State) (k : KeyId) : State :=
  setKeyEnt s k fun x => { x with st := .retired, lastret := x.keygen, rettime := s.time, key := 0#256, refused := false }

/-- What else an adapter's retirement leaves: the pages of its copies pass to ZEROING. -/
def retireSwept (s1 : State) (k : KeyId) : State :=
  match k with
  | .adapter t =>
    let d := s1.desc t.toNat
    (zeroingPages s1 (d.prevPages ++ d.newPages)).setDesc t.toNat
      (if d.st == .free then d else { d with prevPages := [], prevDir := 0, newPages := [], newDir := 0, newGrad := 0, newLen := 0 })
  | _ => s1

theorem retireSwept_kept (s1 : State) (k : KeyId) : (retireSwept s1 k).dev = s1.dev ∧ SameKeys s1 (retireSwept s1 k) := by
  cases k with
  | adapter t => exact ⟨rfl, rfl, rfl, rfl⟩
  | instance_ i => exact ⟨rfl, rfl, rfl, rfl⟩
  | migration => exact ⟨rfl, rfl, rfl, rfl⟩

theorem exec_retireFinish {s : State} {k : KeyId} (hst : (keyEnt s k).st = .retiring)
    (hjobs : ∀ t : Tag, k = .adapter t → ∀ j ∈ s.jobs, j.base = false → j.tag ≠ t) :
    exec (.retireFinish k) s = .next ((List.range 16).foldl removalStep (retireSwept (keyRetired s k) k)) := by
  cases k with
  | instance_ i => exact if_neg (by simp [hst])
  | migration => exact if_neg (by simp [hst])
  | adapter t =>
    have hidle : (s.jobs.any fun j => !j.base && j.tag == t) = false := by
      rw [List.any_eq_false]
      intro j hj h
      obtain ⟨hb, ht⟩ := Bool.and_eq_true_iff.mp h
      exact hjobs t rfl j hj (by simpa using hb) (beq_iff_eq.mp ht)
    exact if_neg (by dsimp only; rw [hidle, hst]; decide)

theorem retireFinish_spec {s : State} {k : KeyId} (hst : (keyEnt s k).st = .retiring)
    (hjobs : ∀ t : Tag, k = .adapter t → ∀ j ∈ s.jobs, j.base = false → j.tag ≠ t) :
    ∃ t, exec (.retireFinish k) s = .next t ∧ t.dev = s.dev ∧ keyEnt t k = { keyEnt s k with
      st := .retired, lastret := (keyEnt s k).keygen, rettime := s.time, key := 0#256, refused := false } := by
  have hkey : keyEnt (keyRetired s k) k = { keyEnt s k with
      st := .retired, lastret := (keyEnt s k).keygen, rettime := s.time, key := 0#256, refused := false } := keyEnt_setKeyEnt_self _ _ _
  have hdev : (keyRetired s k).dev = s.dev := by
    unfold keyRetired setKeyEnt
    split <;> rfl
  have hrun := exec_retireFinish hst hjobs
  generalize keyRetired s k = u at *
  obtain ⟨hsdev, hskeys⟩ := retireSwept_kept u k
  generalize retireSwept u k = w at *
  obtain ⟨hrdev, hrkeys⟩ := removalSteps_kept w
  exact ⟨_, hrun, hrdev.trans (hsdev.trans hdev), ((hskeys.trans hrkeys).keyEnt k).trans hkey⟩

/-- Settles O37: SETKEY, RETIRE, QUERY, the end of a retirement, and a fetch of a key. -/
theorem keyCommandsComplete : Obligations.KeyCommandsComplete := by
  unfold Obligations.KeyCommandsComplete
  refine ⟨fun s fn m k hsess hrsvd hkey hact => ⟨setkey_installs hsess hrsvd hkey hact, retire_begins hsess hrsvd hkey hact,
    query_answers hsess hrsvd hkey hact⟩, fun s k => retireFinish_spec, fun s n tag ha => ?_⟩
  exact ⟨_, (if_neg (by simp [ha])).trans (if_pos rfl), Tab.find_insert_self _ _ _, rfl, rfl, rfl, rfl, rfl⟩

end Sys2Proof.Proofs
end

section
/-! PROOFS. Sealing, unsealing and the device's sessions: O39. -/

namespace Sys2Proof.Proofs
open Sys2Proof.Machine

/-! ### Sealing (R327) -/

theorem trPtr_ne_isSealctl (d : Nat) : Reg.isSealctl ≠ Reg.trPtr d := by
  unfold Reg.isSealctl Reg.trPtr
  omega

/-- The trace with its FIFOs and buffers emptied, before its pointers. -/
def traceEmptied (s : State) : State := fset { s with trFifo := [], trDrop := [], trBuf := [], trCopy := [] } Reg.trDump 11 10 0

/-- The trace is gone, and the memories stay. -/
theorem clearTrace_spec (s : State) :
    (clearTrace s).trFifo = [] ∧ (clearTrace s).trBuf = [] ∧ sameMemory s (clearTrace s) ∧ (clearTrace s).out = s.out := by
  show _ ∧ _ ∧ sameMemory s ((List.range 8).foldl (fun t d => fset t (Reg.trPtr d) 63 0 0) (traceEmptied s)) ∧ _
  refine List.foldlRecOn (motive := fun u => u.trFifo = [] ∧ u.trBuf = [] ∧ sameMemory s u ∧ u.out = s.out) (List.range 8)
    (fun t d => fset t (Reg.trPtr d) 63 0 0) (b := traceEmptied s) ⟨rfl, rfl, ⟨rfl, rfl⟩, rfl⟩ fun u hu d _ => ?_
  obtain ⟨hfifo, hbuf, hmem, hout⟩ := hu
  exact ⟨hfifo, hbuf, hmem, hout⟩

/-- IS_SEALCTL once sealed mode has started for the instances of a mask. -/
def sealMarked (u : State) (mask : Nat) : State :=
  fset (fset (fset u Reg.isSealctl 30 30 0) Reg.isSealctl 31 31 1) Reg.isSealctl 15 0 mask

theorem sealMarked_spec (u : State) (mask : W16) :
    sealed (sealMarked u mask.toNat) = true ∧ fbit (sealMarked u mask.toNat) Reg.isSealctl 30 = false ∧
      fget (sealMarked u mask.toNat) Reg.isSealctl 15 0 = mask.toNat ∧ OneReg Reg.isSealctl u (sealMarked u mask.toNat) := by
  unfold sealMarked
  refine ⟨?_, ?_, ?_, (((OneReg.refl _ _).fset _ _ _).fset _ _ _).fset _ _ _⟩
  · exact (fbit_fset_field _ _ _ (by omega) (by omega) (by omega)).trans (fbit_fset_self _ _ _ (by omega))
  · exact (fbit_fset_field _ _ _ (by omega) (by omega) (by omega)).trans
      ((fbit_fset_field _ _ _ (by omega) (by omega) (by omega)).trans (fbit_fset_self _ _ _ (by omega)))
  · exact (fget_fset_self _ _ _ (by omega) (by omega)).trans (Nat.mod_eq_of_lt mask.isLt)

/-- The state that a SEAL leaves. -/
def sealStarted (u : State) (mask : Nat) (cert : BitVec 384) : State :=
  let s1 := sealMarked u mask
  { s1 with sealCert := cert }

theorem sealCert_set (w : State) (cert : BitVec 384) :
    let t : State := { w with sealCert := cert }
    t.regs = w.regs ∧ t.sealCert = cert ∧ t.trFifo = w.trFifo ∧ t.trBuf = w.trBuf ∧ t.dev = w.dev ∧ t.host = w.host ∧ t.out = w.out :=
  ⟨rfl, rfl, rfl, rfl, rfl, rfl, rfl⟩

theorem sealStarted_spec (u : State) (mask : W16) (cert : BitVec 384) :
    let t := sealStarted u mask.toNat cert
    (sealed t = true ∧ fbit t Reg.isSealctl 30 = false ∧ fget t Reg.isSealctl 15 0 = mask.toNat) ∧ t.sealCert = cert ∧ t.trFifo = u.trFifo ∧
      t.trBuf = u.trBuf ∧ t.dev = u.dev ∧ t.host = u.host ∧ t.out = u.out := by
  obtain ⟨h31, h30, hmask, regs, hone, -⟩ := sealMarked_spec u mask
  obtain ⟨hregs, hcert, hfifo, hbuf, hdev, hhost, hout⟩ := sealCert_set (sealMarked u mask.toNat) cert
  have hkept : ∀ w : State, w = { u with regs := regs } → w.trFifo = u.trFifo ∧ w.trBuf = u.trBuf ∧ w.dev = u.dev ∧ w.host = u.host ∧ w.out = u.out := by
    rintro w rfl
    exact ⟨rfl, rfl, rfl, rfl, rfl⟩
  obtain ⟨gfifo, gbuf, gdev, ghost, gout⟩ := hkept _ hone
  exact ⟨⟨(fbit_congr hregs _ _).trans h31, (fbit_congr hregs _ _).trans h30, (fget_congr hregs _ _ _).trans hmask⟩, hcert,
    hfifo.trans gfifo, hbuf.trans gbuf, hdev.trans gdev, hhost.trans ghost, hout.trans gout⟩

/-- An answer only speaks. -/
theorem keyAnswer_frame (w : State) (fn : Fn) (cmd status : Nat) :
    let t := keyAnswer w fn cmd status none
    t.regs = w.regs ∧ t.sealCert = w.sealCert ∧ t.trFifo = w.trFifo ∧ t.trBuf = w.trBuf ∧ t.dev = w.dev ∧ t.host = w.host ∧
      t.out = w.out ++ [.spdm fn (leBytes 8 (packFields [(8, cmd), (8, status), (8, 0), (8, 0)]))] :=
  ⟨rfl, rfl, rfl, rfl, rfl, rfl, rfl⟩

/-- What a session's command of the seal kind has to leave zero. -/
def sealForm (m : KeyMsg) : Prop := m.kind = 0#8 ∧ m.keygen = 0#8 ∧ m.rsvd = 0#24 ∧ m.key = 0#256

theorem execSeal_formed {s : State} {fn : Fn} {m : KeyMsg} {cert : BitVec 384} (hsess : sessionCert s fn m.sess = some cert)
    (hform : sealForm m) :
    execSeal fn m s = if fn.val = 0 then .next (keyAnswer s fn 0x10 1 none)
      else if removing s then .next (keyAnswer (fset s Reg.isSealctl 30 30 0) fn 0x10 6 none)
      else if sealed s || !sealOk s m.tag.toNat cert then .next (keyAnswer s fn 0x10 6 none)
      else .next (keyAnswer (sealStarted (clearTrace s) m.tag.toNat cert) fn 0x10 0 none) := by
  obtain ⟨hkind, hgen, hrsvd, hkey⟩ := hform
  unfold execSeal
  rw [hsess]
  exact if_neg (by simp [hkind, hgen, hrsvd, hkey])

section
variable {s : State} {fn : Fn} {m : KeyMsg} {cert : BitVec 384} (hsess : sessionCert s fn m.sess = some cert) (hform : sealForm m)
  (hfn : fn.val ≠ 0)
include hsess hform hfn

theorem exec_seal (hrem : removing s = false) (hs : sealed s = false) (hok : sealOk s m.tag.toNat cert = true) :
    exec (.seal fn m) s = .next (keyAnswer (sealStarted (clearTrace s) m.tag.toNat cert) fn 0x10 0 none) := by
  show execSeal fn m s = _
  rw [execSeal_formed hsess hform, if_neg hfn, if_neg (by simp [hrem]), if_neg (by simp [hs, hok])]

theorem seal_starts (hrem : removing s = false) (hs : sealed s = false) (hok : sealOk s m.tag.toNat cert = true) :
    ∃ t, exec (.seal fn m) s = .next t ∧ sealed t = true ∧ fbit t Reg.isSealctl 30 = false ∧ fget t Reg.isSealctl 15 0 = m.tag.toNat ∧
      t.sealCert = cert ∧ t.trFifo = [] ∧ t.trBuf = [] ∧ sameMemory s t ∧
      t.out = s.out ++ [.spdm fn (leBytes 8 (packFields [(8, 0x10), (8, 0), (8, 0), (8, 0)]))] := by
  obtain ⟨hfifo, hbuf, hmem, hout⟩ := clearTrace_spec s
  obtain ⟨⟨h31, h30, hmask⟩, hcert, gfifo, gbuf, gdev, ghost, gout⟩ := sealStarted_spec (clearTrace s) m.tag cert
  obtain ⟨hregs, acert, afifo, abuf, adev, ahost, aout⟩ := keyAnswer_frame (sealStarted (clearTrace s) m.tag.toNat cert) fn 0x10 0
  exact ⟨_, exec_seal hsess hform hfn hrem hs hok, (fbit_congr hregs _ _).trans h31, (fbit_congr hregs _ _).trans h30,
    (fget_congr hregs _ _ _).trans hmask, acert.trans hcert, afifo.trans (gfifo.trans hfifo), abuf.trans (gbuf.trans hbuf),
    ⟨adev.trans (gdev.trans hmem.1), ahost.trans (ghost.trans hmem.2)⟩, aout.trans (congrArg (· ++ _) (gout.trans hout))⟩

end

/-! ### Unsealing (R329) -/

/-- Sealed mode is ending, or has ended. -/
def SealEnding (s : State) : Prop := s.unsealing = true ∨ sealed s = false

theorem SealEnding.closed {u : State} (h : sealed u = false) :
    SealEnding { u with unsealing := false, sealCert := 0#384, ideKeys := [] } := .inr h

theorem endSeal_sealEnding {s : State} (h : SealEnding s) : SealEnding (endSeal s) := by
  have hoff : sealed (fset (fset (fset s Reg.isSealctl 31 31 0) Reg.isSealctl 29 29 0) Reg.isSealctl 15 0 0) = false :=
    (fbit_fset_field _ _ _ (by omega) (by omega) (by omega)).trans
      ((fbit_fset_field _ _ _ (by omega) (by omega) (by omega)).trans (fbit_fset_self _ _ _ (by omega)))
  unfold endSeal
  dsimp only
  split
  · exact .closed hoff
  · exact h

theorem SealEnding.of_kept {s t : State} (h : SealEnding s) (hu : t.unsealing = s.unsealing) (hs : rd t Reg.isSealctl = rd s Reg.isSealctl) :
    SealEnding t :=
  h.imp (fun h => hu.trans h) fun h => (fbit_congr_rd hs 31).trans h

theorem isSealctl_ne_isRemove (i : Nat) : Reg.isSealctl ≠ Reg.isRemove i := by
  unfold Reg.isSealctl Reg.isRemove
  omega

theorem pagesGiven_sealEnding {s : State} {i : Nat} (h : SealEnding s) : SealEnding (pagesGiven s i) := by
  have hz : SealEnding (fset (zeroingPages s (tenantPages s i)) (Reg.isRemove i) 29 28 2) :=
    h.of_kept rfl (rd_fset_other _ _ _ _ (isSealctl_ne_isRemove i))
  unfold pagesGiven
  obtain ⟨_, _, _, _, _, _, _, _, _, _, _, _, ht⟩ := tablesEmptied_frame (fset (zeroingPages s (tenantPages s i)) (Reg.isRemove i) 29 28 2) s i
  rw [ht]
  generalize fset (zeroingPages s (tenantPages s i)) (Reg.isRemove i) 29 28 2 = u at *
  exact hz.of_kept rfl rfl

theorem removalClosed_sealEnding {s : State} {i : Nat} (h : SealEnding s) : SealEnding (removalClosed s i) := by
  refine endSeal_sealEnding ?_
  have hf : SealEnding (fset (s.updInst i fun x => { x with removing := [] }) (Reg.isRemove i) 29 28 3) :=
    h.of_kept rfl (rd_fset_other _ _ _ _ (isSealctl_ne_isRemove i))
  have hn := noticed_notify (fset (s.updInst i fun x => { x with removing := [] }) (Reg.isRemove i) 29 28 3) i 0xF3 0
  exact hf.of_kept (hn.proj State.unsealing fun _ _ _ _ _ => rfl) (hn.proj (rd · Reg.isSealctl) fun _ _ _ _ _ => rfl)

theorem removalStep_sealEnding {s : State} {i : Nat} (h : SealEnding s) : SealEnding (removalStep s i) := by
  obtain ⟨u, hu, hstep⟩ := removalStep_cases s i
  have h1 : SealEnding u := by
    obtain rfl | rfl := hu
    · exact h
    · exact pagesGiven_sealEnding h
  obtain hs | hs := hstep
  · exact hs ▸ h1
  · exact hs ▸ removalClosed_sealEnding h1

theorem beginUnseal_sealEnding (s : State) : SealEnding (beginUnseal s) := by
  unfold beginUnseal
  exact endSeal_sealEnding (List.foldlRecOn (motive := SealEnding) _ _ (.inl rfl) fun _ hu _ _ => removalStep_sealEnding hu)

theorem unseal_begins {s : State} {fn : Fn} {m : KeyMsg} (hsess : sessionCert s fn m.sess = some s.sealCert) (hform : sealForm m)
    (hfn : fn.val ≠ 0) (htag : m.tag = 0#16) (hs : sealed s = true) :
    ∃ t o, exec (.unseal fn m) s = .next t ∧ (t.unsealing = true ∨ sealed t = false) ∧
      t.out = o ++ [.spdm fn (leBytes 8 (packFields [(8, 0x11), (8, 0), (8, 0), (8, 0)]))] := by
  obtain ⟨hkind, hgen, hrsvd, hkey⟩ := hform
  have hrun : exec (.unseal fn m) s = .next (keyAnswer (beginUnseal s) fn 0x11 0 none) := by
    show execUnseal fn m s = _
    unfold execUnseal
    rw [hsess]
    dsimp only
    rw [if_neg (by simp [hkind, hgen, hrsvd, hkey, htag]), if_neg (by simp [hfn, hs])]
  exact ⟨_, (beginUnseal s).out, hrun, beginUnseal_sealEnding s, rfl⟩

/-! ### ARM, the IDE streams and the responder (R308, R315, R327) -/

theorem isSealctl_fields : ownField .w1s Reg.isSealctl 30 30 = true ∧ fieldsApart Reg.isSealctl 31 31 = true := by
  decide +kernel

theorem sealArm_sets {s : State} (hr : reachable s = true) {v : W32} (hv : v.getLsbD 30 = true) :
    ∃ t, exec (.sealArm v) s = .next t ∧ fbit t Reg.isSealctl 30 = true ∧ sealed t = sealed s ∧ sameMemory s t ∧
      ∀ off, off ≠ Reg.isSealctl → rd t off = rd s off := by
  obtain ⟨harm, hsealed⟩ := isSealctl_fields
  have hone := OneReg.write s Reg.isSealctl v.toNat
  refine ⟨_, hostCmd_up hr _, fbit_regWritePlain_w1s harm (by omega) ((bit_toNat v 30).trans hv) s, ?_, hone.mem, fun off ho => hone.rd ho⟩
  unfold sealed
  rw [fbit_eq_fget, fbit_eq_fget, fget_regWritePlain_apart hsealed (by omega) (by omega)]

theorem ideKm_keys (s : State) (fn : Fn) (key : BitVec 256) :
    ∃ t, exec (.ideKm fn key) s = .next t ∧ Tab.find t.ideKeys fn.val = some key ∧ sealed t = sealed s ∧
      fbit t Reg.isSealctl 29 = (fn.val == 0 || fbit s Reg.isSealctl 29) := by
  by_cases hfn : fn.val = 0
  · refine ⟨fset { s with ideKeys := Tab.insert s.ideKeys fn.val key } Reg.isSealctl 29 29 1, congrArg _ (if_pos hfn),
      Tab.find_insert_self s.ideKeys _ _, fbit_fset_field _ _ _ (by omega) (by omega) (by omega), ?_⟩
    rw [fbit_fset_self _ _ _ (by omega), hfn]
    rfl
  · refine ⟨{ s with ideKeys := Tab.insert s.ideKeys fn.val key }, congrArg _ (if_neg hfn), Tab.find_insert_self s.ideKeys _ _, rfl, ?_⟩
    rw [beq_eq_false_iff_ne.mpr hfn, Bool.false_or]
    rfl

theorem challenge_answers {s : State} (hj : fbit s Reg.ksStatus 31 = true) (fn : Fn) (nonce : BitVec 256) :
    exec (.spdmRequest fn (.challenge nonce)) s =
      .next (s.emit (.spdm fn (3#8 :: Config.sign Config.identityKey (leBytes 32 nonce.toNat)))) :=
  congrArg _ (if_pos hj)

theorem keyExchange_opens {s : State} (hj : fbit s Reg.ksStatus 31 = true) {fn : Fn} (cert : BitVec 384) (hfree : Tab.find s.spdm (fn.val * 2) = none) :
    exec (.spdmRequest fn (.keyExchange cert)) s =
      .next (State.emit { s with spdm := Tab.insert s.spdm (fn.val * 2) cert } (.spdm fn [0x64#8, 0#8])) := by
  have hfind : ([0, 1].find? fun k => (Tab.find s.spdm (fn.val * 2 + k)).isNone) = some 0 :=
    List.find?_cons_of_pos (by rw [Nat.add_zero, hfree]; rfl)
  show execSpdmRequest fn (.keyExchange cert) s = _
  unfold execSpdmRequest
  dsimp only
  rw [hfind]
  exact congrArg _ (if_pos hj)

/-- Settles O39: SEAL, UNSEAL, ARM, the IDE keys and the responder. -/
theorem sealedModeAndSessions : Obligations.SealedModeAndSessions := by
  unfold Obligations.SealedModeAndSessions
  intro s fn m cert
  refine ⟨fun hsess hkind hgen hrsvd hkey hfn => ⟨seal_starts hsess ⟨hkind, hgen, hrsvd, hkey⟩ hfn, fun htag hs hcert => ?_⟩,
    fun v hr hv => sealArm_sets hr hv, ideKm_keys s fn, fun ver hver => congrArg _ (if_neg (Nat.not_lt.mpr hver)),
    fun hj => ⟨challenge_answers hj fn, keyExchange_opens hj cert⟩⟩
  subst hcert
  exact unseal_begins hsess ⟨hkind, hgen, hrsvd, hkey⟩ hfn htag hs

end Sys2Proof.Proofs
end

section
/-! PROOFS. Freeze, save, restore and thaw of an instance: O42. -/

namespace Sys2Proof.Proofs
open Sys2Proof.Machine

/-! ### Contexts and notices of an instance -/

/-- A value changed at every listed key reads changed, where the default does not change. -/
theorem Tab.get_map {α : Type} {d : α} {f : α → α} (hd : f d = d) (tab : Tab α) (k : Nat) :
    Tab.get d (tab.map fun kv => (kv.1, f kv.2)) k = f (Tab.get d tab k) := by
  induction tab with
  | nil => exact hd.symm
  | cons kv tab ih =>
    obtain ⟨j, v⟩ := kv
    by_cases h : j = k
    · have h1 : Tab.find ((j, f v) :: tab.map fun kv => (kv.1, f kv.2)) k = some (f v) := if_pos h
      have h2 : Tab.find ((j, v) :: tab) k = some v := if_pos h
      unfold Tab.get
      rw [List.map_cons, h1, h2]
      rfl
    · have h1 : Tab.find ((j, f v) :: tab.map fun kv => (kv.1, f kv.2)) k = Tab.find (tab.map fun kv => (kv.1, f kv.2)) k := if_neg h
      have h2 : Tab.find ((j, v) :: tab) k = Tab.find tab k := if_neg h
      unfold Tab.get at ih ⊢
      rw [List.map_cons, h1, h2]
      exact ih

/-- A context that passes from one state to another. -/
def ctxMoved (i frm nxt : Nat) (ok : Nat → Bool) (x : Peer) : Peer :=
  if x.inst.val = i ∧ x.cls ∧ x.st = frm ∧ ok x.group then { x with st := nxt } else x

theorem peer_instContexts (s : State) (i frm nxt : Nat) (ok : Nat → Bool) (c : Nat) :
    (instContexts s i frm nxt ok).peer c = ctxMoved i frm nxt ok (s.peer c) :=
  Tab.get_map (f := ctxMoved i frm nxt ok) (if_neg fun h => absurd h.2.1 Bool.false_ne_true) s.peers c

theorem inst_congr {s t : State} (h : t.insts = s.insts) (i : Nat) : t.inst i = s.inst i := by
  unfold State.inst
  rw [h]

theorem insts_noticed (w : State) (mbDown : Tab W64) (mbDownOwn : Tab W16) (fn vec : Nat) :
    (msix { w with mbDown := mbDown, mbDownOwn := mbDownOwn } fn vec).insts = w.insts := rfl

/-- A notice changes nothing of its instance but the notices. -/
theorem inst_notify (s : State) (i kind arg : Nat) : ∃ ns, (notify s i kind arg).inst i = { s.inst i with notices := ns } := by
  have hq : ∃ ns, (queueNotice s i kind arg).inst i = { s.inst i with notices := ns } := ⟨_, State.inst_updInst s i _⟩
  obtain ⟨ns, hq⟩ := hq
  have hp : ∀ u : State, ∃ ms, (postNotice u i).inst i = { u.inst i with notices := ms } := by
    intro u
    unfold postNotice
    dsimp only
    split
    · exact ⟨_, rfl⟩
    next k a rest _ =>
      split
      · exact ⟨_, rfl⟩
      · exact ⟨rest, (inst_congr (insts_noticed (u.updInst i fun x => { x with notices := rest }) _ _ _ _) i).trans (State.inst_updInst u i _)⟩
  obtain ⟨ms, hp⟩ := hp (queueNotice s i kind arg)
  exact ⟨ms, hp.trans (by rw [hq])⟩

/-! ### Freeze and thaw (R291) -/

/-- The state of an instance whose freeze has ended, but for the notice. -/
def frozen (s : State) (i : Nat) : State :=
  fset (instContexts (s.updInst i fun x => { x with freezing := false, behind := none }) i 1 2 fun _ => true) (Reg.qmInststat i) 4 4 1

theorem frozen_spec (s : State) (i : Inst) :
    fbit (frozen s i) (Reg.qmInststat i) 4 = true ∧ ((frozen s i).inst i).freezing = false ∧ sameMemory s (frozen s i) ∧
      ∀ c, (frozen s i).peer c = ctxMoved i 1 2 (fun _ => true) (s.peer c) := by
  refine ⟨fbit_fset_self _ _ _ (by omega), ?_, ⟨rfl, rfl⟩,
    fun c => peer_instContexts (s.updInst i fun x => { x with freezing := false, behind := none }) i.val 1 2 (fun _ => true) c⟩
  exact congrArg InstX.freezing (State.inst_updInst s i.val fun x => { x with freezing := false, behind := none })

/-- An instance with nothing running freezes at once. -/
theorem beginFreeze_freezes {s : State} {i : Inst} (hrun : mayRun s i = true) (hopen : openInst s i = false) (hroll : rolling s 3 = none)
    (hled : (s.led.any fun kv => kv.2.inst.val == i.val && (kv.2.st == .running || kv.2.st == .finishing)) = false) :
    beginFreeze s i = notify (frozen (s.updInst i fun x => { x with freezing := true, behind := rolling s 3 }) i) i 0xF1 0 := by
  have hinst : (s.updInst i fun x => { x with freezing := true, behind := rolling s 3 }).inst i =
      { s.inst i with freezing := true, behind := rolling s 3 } := State.inst_updInst s i _
  unfold beginFreeze
  rw [if_neg (by simp [hrun])]
  unfold tryFreeze
  rw [hinst]
  refine if_neg ?_
  rw [hroll]
  show ¬ ((!true || openInst s i || (false && rolling s 3 == none) ||
    s.led.any fun kv => kv.2.inst.val == i.val && (kv.2.st == .running || kv.2.st == .finishing)) = true)
  rw [hopen, hled]
  simp

theorem freeze_ends {s : State} {i : Inst} (hr : reachable s = true) (hrun : mayRun s i = true) (hopen : openInst s i = false)
    (hroll : rolling s 3 = none)
    (hled : (s.led.any fun kv => kv.2.inst.val == i.val && (kv.2.st == .running || kv.2.st == .finishing)) = false) :
    ∃ t, exec (.instctlFreeze i 8#32) s = .next t ∧ fbit t (Reg.qmInststat i) 4 = true ∧ (t.inst i).freezing = false ∧ sameMemory s t ∧
      (∀ c, (s.peer c).inst = i → (s.peer c).cls = true → (s.peer c).st = 1 → t.peer c = { s.peer c with st := 2 }) ∧
      ∀ c, (s.peer c).inst ≠ i → t.peer c = s.peer c := by
  have hexec : exec (.instctlFreeze i 8#32) s = .next (beginFreeze s i) := hostCmd_up hr _
  rw [beginFreeze_freezes hrun hopen hroll hled] at hexec
  obtain ⟨h4, hfr, hmem, hpeer⟩ := frozen_spec (s.updInst i fun x => { x with freezing := true, behind := rolling s 3 }) i
  have hn := noticed_notify (frozen (s.updInst i fun x => { x with freezing := true, behind := rolling s 3 }) i) i 0xF1 0
  obtain ⟨ns, hinst⟩ := inst_notify (frozen (s.updInst i fun x => { x with freezing := true, behind := rolling s 3 }) i) i 0xF1 0
  have hp : ∀ c, (notify (frozen (s.updInst i fun x => { x with freezing := true, behind := rolling s 3 }) i) i 0xF1 0).peer c =
      ctxMoved i 1 2 (fun _ => true) (s.peer c) := fun c => (hn.proj (State.peer · c) fun _ _ _ _ _ => rfl).trans (hpeer c)
  refine ⟨_, hexec, (hn.proj (fbit · _ 4) fun _ _ _ _ _ => rfl).trans h4, ?_, ⟨(hn.proj State.dev fun _ _ _ _ _ => rfl).trans hmem.1,
    (hn.proj State.host fun _ _ _ _ _ => rfl).trans hmem.2⟩, fun c hi hc hst => ?_, fun c hi => ?_⟩
  · rw [hinst]
    exact hfr
  · exact (hp c).trans (if_pos ⟨congrArg Fin.val hi, hc, hst, rfl⟩)
  · exact (hp c).trans (if_neg fun h => hi (Fin.ext h.1))

/-- The state of an instance that thaws, but for the notice. -/
def thawed (s : State) (i : Nat) : State :=
  instContexts ((fset (fset s (Reg.qmInststat i) 4 4 0) (Reg.qmInststat i) 5 5 0).updInst i fun x => { x with saving := false }) i 2 1
    fun g => (s.grp g).st == .stable

theorem thaw_eq {s : State} {i : Nat} (hfr : fbit s (Reg.qmInststat i) 4 = true) : thaw s i = notify (thawed s i) i 0xF2 0 :=
  if_neg (by simp [hfr])

theorem thaw_spec {s : State} {i : Inst} (hr : reachable s = true) (hfr : fbit s (Reg.qmInststat i) 4 = true) :
    ∃ t, exec (.instctlThaw i 64#32) s = .next t ∧ fbit t (Reg.qmInststat i) 4 = false ∧ fbit t (Reg.qmInststat i) 5 = false ∧ sameMemory s t ∧
      ∀ c, (s.peer c).inst = i → (s.peer c).cls = true → (s.peer c).st = 2 → (s.grp (s.peer c).group).st = .stable →
        t.peer c = { s.peer c with st := 1 } := by
  have hexec : exec (.instctlThaw i 64#32) s = .next (notify (thawed s i) i 0xF2 0) :=
    (hostCmd_up hr _).trans (congrArg _ (thaw_eq hfr))
  have hn := noticed_notify (thawed s i) i 0xF2 0
  have h4 : fbit (thawed s i) (Reg.qmInststat i) 4 = false :=
    (fbit_fset_field _ _ _ (by omega) (by omega) (by omega)).trans (fbit_fset_self _ _ _ (by omega))
  have h5 : fbit (thawed s i) (Reg.qmInststat i) 5 = false := fbit_fset_self _ _ _ (by omega)
  refine ⟨_, hexec, (hn.proj (fbit · _ 4) fun _ _ _ _ _ => rfl).trans h4, (hn.proj (fbit · _ 5) fun _ _ _ _ _ => rfl).trans h5,
    ⟨(hn.proj State.dev fun _ _ _ _ _ => rfl).trans rfl, (hn.proj State.host fun _ _ _ _ _ => rfl).trans rfl⟩, fun c hi hc hst hg => ?_⟩
  refine (hn.proj (State.peer · c) fun _ _ _ _ _ => rfl).trans ((peer_instContexts _ i.val 2 1 _ c).trans (if_pos ?_))
  exact ⟨congrArg Fin.val hi, hc, hst, beq_iff_eq.mpr hg⟩

/-! ### Save and restore (R291) -/

theorem save_starts {s : State} {i : Inst} (hr : reachable s = true) (hfr : fbit s (Reg.qmInststat i) 4 = true) (hkey : migReady s = true) :
    ∃ t, exec (.instctlSave i 16#32) s = .next t ∧ (t.inst i).saving = true ∧ fbit t (Reg.qmInststat i) 5 = false ∧ sameMemory s t := by
  have hb : beginSave s i = fset (s.updInst i fun x => { x with saving := true }) (Reg.qmInststat i) 5 5 0 := if_neg (by simp [hfr, hkey])
  refine ⟨_, (hostCmd_up hr _).trans (congrArg _ hb), ?_, fbit_fset_self _ _ _ (by omega), rfl, rfl⟩
  rw [inst_fset, State.inst_updInst]

/-- What a restored entry of the ledger leaves of host memory. -/
theorem placeRestored_host {i p base : Nat} {im : Image} {s u : State} {kv : Nat × Led} (h : placeRestored i p base im s kv = some u) :
    u.host = s.host := by
  unfold placeRestored at h
  dsimp only at h
  split at h
  · exact absurd h (by simp)
  · split at h
    · rw [← Option.some.inj h]
    · split at h
      · exact absurd h (by simp)
      · rw [← Option.some.inj h]

/-- The entries of an image's ledger leave host memory. -/
theorem placeAll_host {i p base : Nat} {im : Image} (leds : List (Nat × Led)) (s0 : Option State) {u : State}
    (h : leds.foldl (fun t kv => t.bind fun u => placeRestored i p base im u kv) s0 = some u) : ∃ s, s0 = some s ∧ u.host = s.host := by
  induction leds generalizing s0 with
  | nil => exact ⟨u, h, rfl⟩
  | cons kv leds ih =>
    obtain ⟨w, hw, hu⟩ := ih _ h
    obtain ⟨v, hv, hp⟩ := Option.bind_eq_some_iff.mp hw
    exact ⟨v, hv, hu.trans (placeRestored_host hp)⟩

theorem restoreImage_host {s u : State} {i : Nat} {im : Image} (h : restoreImage s i im = some u) : u.host = s.host := by
  unfold restoreImage at h
  dsimp only at h
  obtain ⟨v, hv, hu⟩ := placeAll_host _ _ h
  rw [hu, ← Option.some.inj hv]

/-- What the end of a restore leaves of the image's state. -/
theorem restoredMark_frame (u : State) (i : Nat) : ∃ regs, fset (ruleChange u i) (Reg.qmInststat i) 4 4 1 = { u with regs := regs } := ⟨_, rfl⟩

theorem restore_takes {s : State} {i : Inst} (hr : reachable s = true) {im : Image} {u : State}
    (him : imageAt s (rd s (Reg.qmMigaddr i)) = some im) (hfits : imageFits s i im = true) (hkeys : imageKeys s i im = true)
    (hnone : nothingOf s i = true) (hu : restoreImage s i im = some u) :
    ∃ t, exec (.instctlRestore i 32#32) s = .next t ∧ fbit t (Reg.qmInststat i) 4 = true ∧ ruleBusy t i = true ∧ t.dev = u.dev ∧
      t.rings = u.rings ∧ t.descs = u.descs ∧ t.pages = u.pages ∧ t.led = u.led ∧ t.host = s.host := by
  have hd : doRestore s i = fset (ruleChange u i) (Reg.qmInststat i) 4 4 1 := by
    unfold doRestore
    dsimp only
    rw [him]
    dsimp only
    rw [if_neg (by simp [hfits, hkeys, hnone]), hu]
  have hne : Reg.isRulectl i ≠ Reg.qmInststat i := by
    unfold Reg.isRulectl Reg.qmInststat
    omega
  refine ⟨_, (hostCmd_up hr _).trans (congrArg _ hd), fbit_fset_self _ _ _ (by omega), ?_, ?_⟩
  · exact (fbit_fset_other _ _ _ _ _ hne).trans (ruleBusy_ruleChange u i)
  · have hhost := restoreImage_host hu
    obtain ⟨regs, hf⟩ := restoredMark_frame u i
    rw [hf]
    exact ⟨rfl, rfl, rfl, rfl, rfl, hhost⟩

/-- The state of an instance whose image is complete. -/
def imageSaved (s : State) (i : Nat) : State :=
  { s with
    host := Memory.write s.host (rd s (Reg.qmMigaddr i))
      ((migImage s i).2 ++ imageSeal s.migKey.key (Config.freeWord (s.draws + 2)).toNat (migImage s i).2)
    images := Tab.insert s.images (rd s (Reg.qmMigaddr i)) (migImage s i).1, draws := s.draws + 3 }

theorem saved_ends {s : State} {i : Inst} (hsav : (s.inst i).saving = true) (hkey : migReady s = true) :
    ∃ t, exec (.saved i) s = .next t ∧ fbit t (Reg.qmInststat i) 5 = true ∧ (t.inst i).saving = false ∧ t.dev = s.dev ∧
      Tab.find t.images (rd s (Reg.qmMigaddr i)) = some (migImage s i).1 := by
  have hrun : exec (.saved i) s =
      .next (fset ((imageSaved s i).updInst i fun x => { x with saving := false }) (Reg.qmInststat i) 5 5 1) :=
    (if_neg (by simp [hsav])).trans (if_neg (by simp [hkey]))
  refine ⟨_, hrun, fbit_fset_self _ _ _ (by omega), ?_, rfl, Tab.find_insert_self s.images _ _⟩
  rw [inst_fset, State.inst_updInst]

/-- Settles O42: freeze, save and its end, restore, thaw. -/
theorem migrationCommandsComplete : Obligations.MigrationCommandsComplete := by
  unfold Obligations.MigrationCommandsComplete
  exact fun s i => ⟨fun hr => ⟨freeze_ends hr, save_starts hr, fun im u => restore_takes hr, thaw_spec hr⟩, saved_ends⟩

end Sys2Proof.Proofs
end

section
/-! PROOFS. Power samples, clock steps and idle states: O50. -/

namespace Sys2Proof.Proofs
open Sys2Proof.Machine

/-! ### What a trace packet leaves (R393) -/

/-- Only the trace changed: its FIFOs, its drops and its counts. -/
def Traced (s t : State) : Prop :=
  (∃ regs trFifo trDrop, t = { s with regs := regs, trFifo := trFifo, trDrop := trDrop }) ∧
    ∀ off, (∀ d, off ≠ Reg.trPtr d) → rd t off = rd s off

section
variable {s t u : State}

theorem Traced.refl : Traced s s := ⟨⟨_, _, _, rfl⟩, fun _ _ => rfl⟩

theorem Traced.trans (h : Traced s t) (g : Traced t u) : Traced s u := by
  obtain ⟨⟨_, _, _, rfl⟩, h⟩ := h
  obtain ⟨⟨_, _, _, rfl⟩, g⟩ := g
  exact ⟨⟨_, _, _, rfl⟩, fun off ho => (g off ho).trans (h off ho)⟩

theorem Traced.rd (h : Traced s t) {off : Nat} (ho : ∀ d, off ≠ Reg.trPtr d) : rd t off = rd s off := h.2 off ho

theorem Traced.proj (h : Traced s t) {α : Type} (π : State → α)
    (hπ : ∀ (u : State) regs trFifo trDrop, π { u with regs := regs, trFifo := trFifo, trDrop := trDrop } = π u) : π t = π s := by
  obtain ⟨⟨_, _, _, rfl⟩, -⟩ := h
  exact hπ _ _ _ _

theorem Traced.mem (h : Traced s t) : sameMemory s t := ⟨h.proj State.dev fun _ _ _ _ => rfl, h.proj State.host fun _ _ _ _ => rfl⟩

theorem Traced.cores (h : Traced s t) : t.cores = s.cores := h.proj State.cores fun _ _ _ _ => rfl

theorem Traced.core (h : Traced s t) (k : Nat) : t.core k = s.core k := core_congr h.cores k

theorem Traced.fsetPtr (h : Traced s t) (d hi lo v : Nat) : Traced s (fset t (Reg.trPtr d) hi lo v) :=
  h.trans ⟨⟨_, _, _, rfl⟩, fun _ ho => rd_fset_other _ _ _ _ (ho d)⟩

theorem Traced.tracePut (h : Traced s t) (src body typ : Nat) : Traced s (tracePut t src body typ) := by
  have hput : ∀ fifo drop, Traced s { t with trFifo := fifo, trDrop := drop } := fun _ _ => h.trans ⟨⟨_, _, _, rfl⟩, fun _ _ => rfl⟩
  unfold Machine.tracePut
  dsimp only
  split
  · exact h
  split
  · exact (hput _ _).fsetPtr _ _ _ _
  split
  · exact hput _ _
  split
  · exact (hput _ _).fsetPtr _ _ _ _
  · exact hput _ _

theorem Traced.traceSync (h : Traced s t) (src : Nat) : Traced s (traceSync t src) := h.tracePut _ _ _

theorem Traced.tracePstate (h : Traced s t) (src old new scope : Nat) : Traced s (tracePstate t src old new scope) := h.tracePut _ _ _

theorem Traced.syncDie (h : Traced s t) (d : Nat) : Traced s (syncDie t d) :=
  List.foldlRecOn (motive := Traced s) _ _ h fun _ hu _ _ => hu.traceSync _

end

theorem ckDie_ne_trPtr (d : Die) (e : Nat) : Reg.ckDie d ≠ Reg.trPtr e := by
  unfold Reg.ckDie Reg.trPtr
  omega

/-! ### Power samples (R390) -/

/-- What a power sample shows in PW_STAT. -/
def powerShown (s1 : State) (avg n : Nat) (capped : Bool) : State :=
  fset (fset (fset s1 Reg.pwStat 15 0 avg) Reg.pwStat 31 31 (b2n capped)) Reg.pwStat 30 25 n

theorem powerShown_spec (s1 : State) (avg : W16) {n : Nat} (hn : n < 64) (capped : Bool) :
    let t := powerShown s1 avg.toNat n capped
    fget t Reg.pwStat 15 0 = avg.toNat ∧ fbit t Reg.pwStat 31 = capped ∧ fget t Reg.pwStat 30 25 = n ∧ OneReg Reg.pwStat s1 t := by
  unfold powerShown
  refine ⟨?_, ?_, ?_, (((OneReg.refl _ _).fset _ _ _).fset _ _ _).fset _ _ _⟩
  · exact (fget_fset_field _ _ _ (by omega) (by omega) (by omega) (by omega)).trans
      ((fget_fset_field _ _ _ (by omega) (by omega) (by omega) (by omega)).trans
        ((fget_fset_self _ _ _ (by omega) (by omega)).trans (Nat.mod_eq_of_lt avg.isLt)))
  · refine (fbit_fset_field _ _ _ (by omega) (by omega) (by omega)).trans ((fbit_fset_self _ _ _ (by omega)).trans ?_)
    cases capped <;> rfl
  · exact (fget_fset_self _ _ _ (by omega) (by omega)).trans (Nat.mod_eq_of_lt hn)

theorem withPw_regs (w : State) (q : Limiter) : { w with pw := q }.regs = w.regs ∧ { w with pw := q }.pw = q ∧ sameMemory w { w with pw := q } :=
  ⟨rfl, rfl, rfl, rfl⟩

/-- The state a power sample counts its throttle in (R390). -/
def powerCounted (s : State) (q : Limiter) : State :=
  if q.since.isSome && s.pw.since.isNone then finc s Reg.pwStat 63 32 1 else s

theorem powerCounted_oneReg (s : State) (q : Limiter) : OneReg Reg.pwStat s (powerCounted s q) := by
  unfold powerCounted
  split
  · exact (OneReg.refl _ _).fset _ _ _
  · exact .refl _ _

theorem powerSample_eq {s : State} (hw : s.pwrWarnN = true) (input avg : W16) {q : Limiter} (hq : q = limit s input.toNat avg.toNat) :
    exec (.powerSample input avg) s = .next { powerShown (powerCounted s q) avg.toNat (if q.c16 then 16 else if q.c24 then 24 else 32)
      (q.c16 || q.c24) with pw := q } := by
  subst hq
  exact if_neg (by simp [hw])

theorem powerSample_shows {s : State} (hw : s.pwrWarnN = true) (input avg : W16) :
    ∃ t, exec (.powerSample input avg) s = .next t ∧ t.pw = limit s input.toNat avg.toNat ∧
      fget t Reg.pwStat 15 0 = avg.toNat ∧ fbit t Reg.pwStat 31 = (t.pw.c16 || t.pw.c24) ∧
      fget t Reg.pwStat 30 25 = (if t.pw.c16 then 16 else if t.pw.c24 then 24 else 32) ∧ sameMemory s t ∧ ∀ o, o ≠ Reg.pwStat → rd t o = rd s o := by
  obtain ⟨q, hq⟩ : ∃ q, q = limit s input.toNat avg.toNat := ⟨_, rfl⟩
  have hexec := powerSample_eq hw input avg hq
  obtain ⟨havg, hcap, hn, h2⟩ := powerShown_spec (powerCounted s q) avg
    (n := if q.c16 then 16 else if q.c24 then 24 else 32) (by split <;> [omega; (split <;> omega)]) (q.c16 || q.c24)
  have h := (powerCounted_oneReg s q).trans h2
  obtain ⟨w, hw'⟩ : ∃ w, powerShown (powerCounted s q) avg.toNat (if q.c16 then 16 else if q.c24 then 24 else 32) (q.c16 || q.c24) = w := ⟨_, rfl⟩
  simp only [hw'] at hexec havg hcap hn h
  obtain ⟨hregs, hpw, hmem⟩ := withPw_regs w q
  obtain ⟨t, ht⟩ : ∃ t, { w with pw := q } = t := ⟨_, rfl⟩
  rw [ht] at hexec hregs hpw hmem
  refine ⟨t, hexec, hpw.trans hq, (fget_congr hregs _ _ _).trans havg, ?_, ?_, ⟨hmem.1.trans h.mem.1, hmem.2.trans h.mem.2⟩,
    fun o ho => (rd_congr hregs o).trans (h.rd ho)⟩
  · rw [fbit_congr hregs, hcap, hpw]
  · rw [fget_congr hregs, hn, hpw]

/-! ### Clock steps (R385 to R387) -/

theorem pinAlert_frame (s : State) : ∃ alertN out, pinAlert s = { s with alertN := alertN, out := out } := by
  unfold pinAlert
  dsimp only
  split
  · exact ⟨_, _, rfl⟩
  · exact ⟨_, _, rfl⟩

theorem clockStep_up {s : State} {d : Die} (htdp : s.pw.tdp = false) (hcap : s.pw.c24 = false)
    (htop : fget s (Reg.ckDie d) 31 16 + 25 ≤ min 1400 (fget s (Reg.ckDie d) 15 0)) :
    ∃ t, exec (.clockStep d true) s = .next t ∧ fget t (Reg.ckDie d) 31 16 = fget s (Reg.ckDie d) 31 16 + 25 ∧
      d.val ∉ t.clkHot ∧ regsBut s t [Reg.ckDie d] ∧ sameMemory s t := by
  have hexec : exec (.clockStep d true) s = .next (pinAlert (syncDie { fset s (Reg.ckDie d) 31 16 (fget s (Reg.ckDie d) 31 16 + 25) with
      clkHot := s.clkHot.filter (· ≠ d.val) } d)) := by
    show execClockStep d true s = _
    unfold execClockStep
    dsimp only
    rw [if_pos rfl, htdp, hcap, if_neg (by simpa using htop)]
  have hset : fget (fset s (Reg.ckDie d) 31 16 (fget s (Reg.ckDie d) 31 16 + 25)) (Reg.ckDie d) 31 16 = fget s (Reg.ckDie d) 31 16 + 25 := by
    rw [fget_fset_self _ _ _ (by omega) (by omega)]
    exact Nat.mod_eq_of_lt (by omega)
  have hone : OneReg (Reg.ckDie d) s (fset s (Reg.ckDie d) 31 16 (fget s (Reg.ckDie d) 31 16 + 25)) := (OneReg.refl _ _).fset _ _ _
  obtain ⟨u, hu⟩ : ∃ u, fset s (Reg.ckDie d) 31 16 (fget s (Reg.ckDie d) 31 16 + 25) = u := ⟨_, rfl⟩
  rw [hu] at hexec hset hone
  have htr : Traced { u with clkHot := s.clkHot.filter (· ≠ d.val) } (syncDie { u with clkHot := s.clkHot.filter (· ≠ d.val) } d) :=
    Traced.refl.syncDie d
  obtain ⟨alertN, out, hpin⟩ := pinAlert_frame (syncDie { u with clkHot := s.clkHot.filter (· ≠ d.val) } d)
  rw [hpin] at hexec
  refine ⟨_, hexec, ?_, ?_, fun off hoff htp => ?_, htr.mem.1.trans hone.mem.1, htr.mem.2.trans hone.mem.2⟩
  · exact (fget_congr_rd (htr.rd (ckDie_ne_trPtr d)) 31 16).trans hset
  · have hhot : (syncDie { u with clkHot := s.clkHot.filter (· ≠ d.val) } d).clkHot = s.clkHot.filter (· ≠ d.val) :=
      htr.proj State.clkHot fun _ _ _ _ => rfl
    intro h
    rw [show _ = s.clkHot.filter (· ≠ d.val) from hhot] at h
    exact of_decide_eq_true (List.mem_filter.mp h).2 rfl
  · exact (htr.rd htp).trans (hone.rd fun he => hoff (List.mem_singleton.mpr he))

theorem clockStep_down {s : State} {d : Die} (hheld : s.pw.tdp = true ∨ s.pw.c24 = true ∨ d.val ∈ s.clkHot ∨
      min 1400 (fget s (Reg.ckDie d) 15 0) < fget s (Reg.ckDie d) 31 16) (hcur : 625 ≤ fget s (Reg.ckDie d) 31 16) :
    ∃ t, exec (.clockStep d false) s = .next t ∧ fget t (Reg.ckDie d) 31 16 = fget s (Reg.ckDie d) 31 16 - 25 ∧
      regsBut s t [Reg.ckDie d] ∧ sameMemory s t := by
  have hexec : exec (.clockStep d false) s = .next (syncDie (fset s (Reg.ckDie d) 31 16 (fget s (Reg.ckDie d) 31 16 - 25)) d) := by
    have hlow : ((s.pw.tdp || s.pw.c24 || s.clkHot.contains d.val || decide (min 1400 (fget s (Reg.ckDie d) 15 0) < fget s (Reg.ckDie d) 31 16)) &&
        decide (625 ≤ fget s (Reg.ckDie d) 31 16)) = true := by
      simp only [Bool.and_eq_true, Bool.or_eq_true, decide_eq_true_eq, List.contains_iff_mem]
      exact ⟨by tauto, hcur⟩
    show execClockStep d false s = _
    unfold execClockStep
    dsimp only
    rw [if_neg Bool.false_ne_true, if_pos hlow]
  have htr : Traced (fset s (Reg.ckDie d) 31 16 (fget s (Reg.ckDie d) 31 16 - 25))
      (syncDie (fset s (Reg.ckDie d) 31 16 (fget s (Reg.ckDie d) 31 16 - 25)) d) := Traced.refl.syncDie d
  have hlt : fget s (Reg.ckDie d) 31 16 < 2 ^ 16 := bits_lt _ _ _
  refine ⟨_, hexec, ?_, fun off hoff htp => ?_, htr.mem⟩
  · rw [fget_congr_rd (htr.rd (ckDie_ne_trPtr d)), fget_fset_self _ _ _ (by omega) (by omega)]
    exact Nat.mod_eq_of_lt (by omega)
  · exact (htr.rd htp).trans (rd_fset_other _ _ _ _ fun he => hoff (List.mem_singleton.mpr he))

/-! ### Idle states (R388) -/

theorem core_updCore_traced {s t : State} {k : Nat} {f : Core → Core} (h : Traced (s.updCore k f) t) :
    t.core k = f (s.core k) ∧ ∀ j, j ≠ k → t.core j = s.core j :=
  ⟨(h.core k).trans (State.core_updCore s k f), fun j hj => (h.core j).trans (State.core_updCore_other s f hj)⟩

theorem dozeEntry_dozes {s : State} {k : PCore} {n : Nat} (hpow : (s.core k).power = .active) (hitem : (s.core k).item = none)
    (hidle : fget s Reg.pwIdle 15 0 ≤ n) :
    ∃ t, exec (.dozeEntry k n) s = .next t ∧ t.core k = { s.core k with power := .doze } ∧ onlyCore s t k ∧ regsBut s t [] := by
  have hexec : exec (.dozeEntry k n) s =
      .next (tracePstate (s.updCore k fun x => { x with power := .doze }) k (if reduced s (dieOf k) then 1 else 0) 2 0) :=
    if_pos (by simp [hpow, hitem, hidle])
  have htr : Traced (s.updCore k fun x => { x with power := .doze })
      (tracePstate (s.updCore k fun x => { x with power := .doze }) k (if reduced s (dieOf k) then 1 else 0) 2 0) := Traced.refl.tracePstate _ _ _ _
  obtain ⟨hk, hj⟩ := core_updCore_traced htr
  exact ⟨_, hexec, hk, ⟨htr.proj besideCores fun _ _ _ _ => rfl, hj⟩, fun off _ htp => htr.rd htp⟩

/-- A FIFO that drains is empty, and no core and no memory changes. -/
theorem drainFifo_spec (s : State) (k : Nat) :
    Tab.get [] (drainFifo s k).trFifo k = [] ∧ (drainFifo s k).cores = s.cores ∧ sameMemory s (drainFifo s k) := by
  have happ : ∀ (u : State) d pks, (bufAppend u d pks).trFifo = u.trFifo ∧ (bufAppend u d pks).cores = u.cores ∧ sameMemory u (bufAppend u d pks) := by
    intro u d pks
    unfold bufAppend
    dsimp only
    split
    · exact ⟨rfl, rfl, rfl, rfl⟩
    split
    · split
      · exact ⟨rfl, rfl, rfl, rfl⟩
      · exact ⟨rfl, rfl, rfl, rfl⟩
    · exact ⟨rfl, rfl, rfl, rfl⟩
  unfold drainFifo
  dsimp only
  split
  next h => exact ⟨h, rfl, rfl, rfl⟩
  next pks _ =>
    obtain ⟨hf, hc, hm⟩ := happ { s with trFifo := Tab.erase s.trFifo k } (if k < 144 then k / 18 else k - 144) (Tab.get [] s.trFifo k)
    refine ⟨?_, hc, hm⟩
    rw [hf]
    show (Tab.find (Tab.erase s.trFifo k) k).getD [] = []
    rw [Tab.find_erase_self]
    rfl

theorem napEntry_naps {s : State} {k : PCore} {us : Nat} (hpow : (s.core k).power = .doze) (hidle : fget s Reg.pwIdle 31 16 ≤ us)
    (hexp : expecting s k = false) :
    ∃ t, exec (.napEntry k us false) s = .next t ∧ t.core k = { s.core k with power := .nap } ∧ (∀ j, j ≠ k.val → t.core j = s.core j) ∧
      Tab.get [] t.trFifo k = [] ∧ sameMemory s t := by
  have hexec : exec (.napEntry k us false) s = .next ((drainFifo (tracePstate s k 2 3 0) k).updCore k fun x => { x with power := .nap }) :=
    if_pos (by simp [hpow, hidle, hexp])
  have htr : Traced s (tracePstate s k 2 3 0) := Traced.refl.tracePstate _ _ _ _
  obtain ⟨hfifo, hcores, hmem⟩ := drainFifo_spec (tracePstate s k 2 3 0) k
  have hc : ∀ j, (drainFifo (tracePstate s k 2 3 0) k).core j = s.core j := fun j => core_congr (hcores.trans htr.cores) j
  refine ⟨_, hexec, ?_, fun j hj => (State.core_updCore_other _ _ hj).trans (hc j), hfifo, hmem.1.trans htr.mem.1, hmem.2.trans htr.mem.2⟩
  rw [State.core_updCore, hc]

theorem dieNap_naps {s : State} {d : Die} {us : Nat} (hcores : ∀ c, c < 18 → (s.core (18 * d.val + c)).power = .nap)
    (hidle : fget s Reg.pwIdle 31 16 ≤ us) (hnap : d ∉ s.dieNap) (hout : d ∉ s.diesOut) :
    ∃ t, exec (.dieNap d us) s = .next t ∧ t.dieNap = s.dieNap ++ [d] ∧ t.cores = s.cores ∧ regsBut s t [] ∧ sameMemory s t := by
  have hasleep : ((List.range 18).all fun c => (s.core (18 * d.val + c)).power == .nap || s.fenced.any fun f => f.val == 18 * d.val + c) = true :=
    List.all_eq_true.mpr fun c hc => Bool.or_eq_true_iff.mpr (.inl (beq_iff_eq.mpr (hcores c (List.mem_range.mp hc))))
  have hexec : exec (.dieNap d us) s = .next (tracePstate { s with dieNap := s.dieNap ++ [d] } (144 + d) (dieState s d) 3 1) := by
    refine if_pos ?_
    rw [hasleep]
    simp [hidle, hnap, hout]
  have htr : Traced { s with dieNap := s.dieNap ++ [d] } (tracePstate { s with dieNap := s.dieNap ++ [d] } (144 + d) (dieState s d) 3 1) :=
    Traced.refl.tracePstate _ _ _ _
  exact ⟨_, hexec, htr.proj State.dieNap fun _ _ _ _ => rfl, htr.cores, fun off _ htp => htr.rd htp, htr.mem⟩

/-- A die that wakes is not napping; cores, registers and memories stay. -/
theorem wakeDie_spec (s : State) (d : Die) :
    d ∉ (wakeDie s d).dieNap ∧ (wakeDie s d).cores = s.cores ∧ regsBut s (wakeDie s d) [] ∧ sameMemory s (wakeDie s d) := by
  unfold wakeDie
  split
  · have htr : Traced { s with dieNap := s.dieNap.filter fun x => x.val ≠ d.val }
        (tracePstate { s with dieNap := s.dieNap.filter fun x => x.val ≠ d.val } (144 + d) 3 0 1) := Traced.refl.tracePstate _ _ _ _
    refine ⟨fun h => ?_, htr.cores, fun off _ htp => htr.rd htp, htr.mem⟩
    rw [show _ = s.dieNap.filter fun x => x.val ≠ d.val from htr.proj State.dieNap fun _ _ _ _ => rfl] at h
    exact of_decide_eq_true (List.mem_filter.mp h).2 rfl
  next h => exact ⟨fun hd => h (List.any_eq_true.mpr ⟨d, hd, beq_iff_eq.mpr rfl⟩), rfl, fun _ _ _ => rfl, rfl, rfl⟩

theorem wakeCore_spec (s : State) (k : Nat) :
    ((wakeCore s k).core k).power ≠ .doze ∧ ((wakeCore s k).core k).power ≠ .nap ∧ (∀ j, j ≠ k → (wakeCore s k).core j = s.core j) ∧
      (wakeCore s k).dieNap = s.dieNap ∧ regsBut s (wakeCore s k) [] ∧ sameMemory s (wakeCore s k) := by
  have htr : Traced (s.updCore k fun c => { c with power := .active }) (traceSync (s.updCore k fun c => { c with power := .active }) k) :=
    Traced.refl.traceSync k
  obtain ⟨hk, hj⟩ := core_updCore_traced htr
  have hwoken : ∀ t, t = traceSync (s.updCore k fun c => { c with power := .active }) k →
      (t.core k).power ≠ .doze ∧ (t.core k).power ≠ .nap ∧ (∀ j, j ≠ k → t.core j = s.core j) ∧ t.dieNap = s.dieNap ∧ regsBut s t [] ∧ sameMemory s t := by
    rintro t rfl
    exact ⟨by rw [hk]; exact PState.noConfusion, by rw [hk]; exact PState.noConfusion, hj, htr.proj State.dieNap fun _ _ _ _ => rfl, fun off _ htp => htr.rd htp, htr.mem⟩
  unfold wakeCore
  split
  · exact hwoken _ rfl
  · exact hwoken _ rfl
  next h1 h2 => exact ⟨fun h => h1 h, fun h => h2 h, fun _ _ => rfl, rfl, fun _ _ _ => rfl, rfl, rfl⟩

/-- Settles O50: a sample, a step of the clock, and the idle states. -/
theorem powerAndClocks : Obligations.PowerAndClocks := by
  unfold Obligations.PowerAndClocks
  intro s
  refine ⟨fun input avg hw => powerSample_shows hw input avg, fun d => ⟨clockStep_up, clockStep_down⟩, fun k n => dozeEntry_dozes,
    fun k us => napEntry_naps, fun d us => dieNap_naps, fun d c hrails => ?_⟩
  obtain ⟨hnap, hcores, hregs, hmem⟩ := wakeDie_spec s d
  obtain ⟨hdoze, hn, hother, hdie, hcregs, hcmem⟩ := wakeCore_spec (wakeDie s d) (18 * d.val + c.val)
  refine ⟨_, if_neg (by simp [hrails]), hdie ▸ hnap, hdoze, hn, fun j hj => (hother j hj).trans (core_congr hcores j),
    fun off hoff htp => (hcregs off hoff htp).trans (hregs off hoff htp), hcmem.1.trans hmem.1, hcmem.2.trans hmem.2⟩

end Sys2Proof.Proofs
end

section
/-! PROOFS. What each fault event takes out of service: O49 fails. -/

namespace Sys2Proof.Proofs
open Sys2Proof.Machine

/-- An uncorrected memory error (kind 0x31) whose ADDR lies 8.25 TiB beyond the 768 GiB of device memory. -/
def farError : W128 := BitVec.ofNat 128 (0x31 * 2 ^ 104 + 9895604649984 * 2 ^ 32)

/-- The device with its memory up after one such error: the next one is the second of its pseudo-channel, which trips the threshold. -/
def oneFarError : State := { fset State.reset Reg.glStatus 15 0 0xFFFF with pcErrs := [(2880, { ue := 1 })] }

theorem farError_names : errPc oneFarError farError.toNat = some 2880 := by decide +kernel

theorem farError_trips : tripsPc oneFarError farError.toNat = true := by decide +kernel

theorem farError_canRetire : (retirePc oneFarError 45 0).isSome = true := by decide +kernel

/-- The PCRETIRE message holds die 0x10 + 45 in five bits, so firmware retires pseudo-channel 0 of stack 13, not the one that tripped. -/
theorem farError_retires :
    ((recordErr (collect { oneFarError with poison := [mAddr farError.toNat / 64] } farError.toNat none) farError.toNat).retired.map (·.pc)) = [832] := by
  decide +kernel

/-- Refutes O49: a memory error beyond device memory trips the threshold of a pseudo-channel number that PCRETIRE cannot carry. -/
theorem not_faultEventsAct : ¬ Obligations.FaultEventsAct := by
  intro h
  obtain ⟨-, -, -, hmem, -⟩ := h oneFarError
  obtain ⟨t, hexec, r, hr, hpc⟩ := hmem farError 2880 (by decide +kernel) (by decide +kernel) farError_names farError_trips
    (fun k hk => absurd hk List.not_mem_nil) farError_canRetire
  have hrun : exec (.faultMessage farError) oneFarError =
      .next (recordErr (collect { oneFarError with poison := [mAddr farError.toNat / 64] } farError.toNat none) farError.toNat) := by
    have hkind : kindLevel (mKind farError.toNat) = some (mLevel farError.toNat) ∧ (!bit farError.toNat 80) = true := by decide +kernel
    have hnew : mKind farError.toNat = 0x31 ∧ (!(oneFarError.poison.contains (mAddr farError.toNat / 64))) = true := by decide +kernel
    show Host.Outcome.next (if _ then _ else _) = _
    rw [if_pos hkind, if_pos hnew]
    rfl
  have ht : t = recordErr (collect { oneFarError with poison := [mAddr farError.toNat / 64] } farError.toNat none) farError.toNat :=
    (Host.Outcome.next.inj (hrun.symm.trans hexec)).symm
  have hin : r.pc ∈ [832] := by
    rw [← farError_retires, ← ht]
    exact List.mem_map_of_mem hr
  rw [hpc] at hin
  exact absurd hin (by decide)

end Sys2Proof.Proofs
end

section
/-! PROOFS. Device quiesce, device halt, and what the collector of faults leaves: for O51 and O53. -/

namespace Sys2Proof.Proofs
open Sys2Proof.Machine

/-! ### Events to the sessions (R362), and abandoned procedures (R378) -/

/-- The sessions were told something, and procedures may have changed. -/
def Told (s t : State) : Prop :=
  ∃ procs sessions out, t = { s with plinth := { s.plinth with procs := procs, sessions := sessions }, out := out }

section
variable {s t u : State}

theorem Told.refl : Told s s := ⟨_, _, _, rfl⟩

theorem Told.trans (h : Told s t) (g : Told t u) : Told s u := by
  obtain ⟨_, _, _, rfl⟩ := h
  obtain ⟨_, _, _, rfl⟩ := g
  exact ⟨_, _, _, rfl⟩

theorem Told.proj (h : Told s t) {α : Type} (π : State → α)
    (hπ : ∀ (u : State) procs sessions out,
      π { u with plinth := { u.plinth with procs := procs, sessions := sessions }, out := out } = π u) : π t = π s := by
  obtain ⟨_, _, _, rfl⟩ := h
  exact hπ _ _ _ _

theorem Told.sessEvent (h : Told s t) (k : Nat) (x : Session) (cmd : Nat) (payload : List Byte) : Told s (sessEvent t k x cmd payload) :=
  h.trans ⟨_, _, _, rfl⟩

theorem Told.foldl {α : Type} {f : State → α → State} {l : List α} (h : Told s t) (hf : ∀ u x, Told s u → Told s (f u x)) : Told s (l.foldl f t) :=
  List.foldlRecOn (motive := Told s) l f h fun u hu x _ => hf u x hu

theorem Told.setProc (h : Told s t) (p : Proc) : Told s (setProc t p) := by
  have hput : Told s { t with plinth := { t.plinth with procs := t.plinth.procs.map fun x => if x.num = p.num then p else x } } :=
    h.trans ⟨_, _, _, rfl⟩
  unfold Machine.setProc
  dsimp only
  split
  · exact hput.foldl fun u x hu => hu.sessEvent _ _ _ _
  · exact hput

theorem Told.abandonProcs (h : Told s t) (hit : Proc → Bool) : Told s (abandonProcs t hit) :=
  h.foldl fun _ _ hu => hu.setProc _

end

/-! ### Notices to the groups (R352) -/

/-- Only the fabric's history, its rails' packet numbers and the output changed. -/
def Noted (s t : State) : Prop :=
  ∃ history macsec out, t = { s with history := history, plinth := { s.plinth with macsec := macsec }, out := out }

section
variable {s t u : State}

theorem Noted.trans (h : Noted s t) (g : Noted t u) : Noted s u := by
  obtain ⟨_, _, _, rfl⟩ := h
  obtain ⟨_, _, _, rfl⟩ := g
  exact ⟨_, _, _, rfl⟩

theorem Noted.proj (h : Noted s t) {α : Type} (π : State → α)
    (hπ : ∀ (u : State) history macsec out,
      π { u with history := history, plinth := { u.plinth with macsec := macsec }, out := out } = π u) : π t = π s := by
  obtain ⟨_, _, _, rfl⟩ := h
  exact hπ _ _ _ _

theorem sendOn_noted (s : State) (p dst route : Nat) (pkt : List Byte) : Noted s (sendOn s p dst route pkt) := by
  unfold sendOn
  dsimp only
  split
  · exact ⟨_, _, _, rfl⟩
  split
  · exact ⟨_, _, _, rfl⟩
  · exact ⟨_, _, _, rfl⟩

theorem sendNotice_noted (s : State) (g : Nat) (suspects : List Nat) : Noted s (sendNotice s g suspects) := by
  unfold sendNotice sendMemb sendPkt
  dsimp only
  split
  · exact sendOn_noted _ _ _ _ _
  · exact ⟨_, _, _, rfl⟩

theorem noticeSelf_noted (s : State) : Noted s (noticeSelf s) := by
  refine List.foldlRecOn (motive := Noted s) _ _ ⟨_, _, _, rfl⟩ fun u hu g _ => ?_
  split
  · exact hu.trans (sendNotice_noted u g _)
  · exact hu

end

/-! ### Stop, quiesce and halt (R353, R354) -/

/-- Items and updates stopped, and the groups and sessions were told: no memory, no key, no page and no register but FC_STATUS and the trace's. -/
def Wound (s t : State) : Prop :=
  (∃ regs cores led sent jobs journal elig ctx trFifo trDrop history plinth out, t = { s with
    regs := regs, cores := cores, led := led, sent := sent, jobs := jobs, journal := journal, elig := elig, ctx := ctx, trFifo := trFifo,
    trDrop := trDrop, history := history, plinth := plinth, out := out }) ∧
  ∀ off, off < 0xB00000 → off ≠ Reg.fcStatus → rd t off = rd s off

section
variable {s t u : State}

theorem Wound.refl : Wound s s := ⟨⟨_, _, _, _, _, _, _, _, _, _, _, _, _, rfl⟩, fun _ _ _ => rfl⟩

theorem Wound.trans (h : Wound s t) (g : Wound t u) : Wound s u := by
  obtain ⟨⟨_, _, _, _, _, _, _, _, _, _, _, _, _, rfl⟩, hr⟩ := h
  obtain ⟨⟨_, _, _, _, _, _, _, _, _, _, _, _, _, rfl⟩, gr⟩ := g
  exact ⟨⟨_, _, _, _, _, _, _, _, _, _, _, _, _, rfl⟩, fun off ho hf => (gr off ho hf).trans (hr off ho hf)⟩

theorem Wound.proj (h : Wound s t) {α : Type} (π : State → α)
    (hπ : ∀ (u : State) regs cores led sent jobs journal elig ctx trFifo trDrop history plinth out, π { u with
      regs := regs, cores := cores, led := led, sent := sent, jobs := jobs, journal := journal, elig := elig, ctx := ctx, trFifo := trFifo,
      trDrop := trDrop, history := history, plinth := plinth, out := out } = π u) : π t = π s := by
  obtain ⟨⟨_, _, _, _, _, _, _, _, _, _, _, _, _, rfl⟩, -⟩ := h
  exact hπ _ _ _ _ _ _ _ _ _ _ _ _ _ _

theorem Wound.mem (h : Wound s t) : sameMemory s t :=
  ⟨h.proj State.dev fun _ _ _ _ _ _ _ _ _ _ _ _ _ _ => rfl, h.proj State.host fun _ _ _ _ _ _ _ _ _ _ _ _ _ _ => rfl⟩

theorem Wound.esc (h : Wound s t) : t.esc = s.esc := h.proj State.esc fun _ _ _ _ _ _ _ _ _ _ _ _ _ _ => rfl

theorem Frees.wound (h : Frees s t) : Wound s t := by
  obtain ⟨⟨_, _, _, _, _, _, _, _, _, _, rfl⟩, hr, -⟩ := h
  exact ⟨⟨_, _, _, _, _, _, _, _, _, _, _, _, _, rfl⟩, fun off ho _ => hr off ho⟩

theorem Noted.wound (h : Noted s t) : Wound s t := by
  obtain ⟨_, _, _, rfl⟩ := h
  exact ⟨⟨_, _, _, _, _, _, _, _, _, _, _, _, _, rfl⟩, fun _ _ _ => rfl⟩

theorem Told.wound (h : Told s t) : Wound s t := by
  obtain ⟨_, _, _, rfl⟩ := h
  exact ⟨⟨_, _, _, _, _, _, _, _, _, _, _, _, _, rfl⟩, fun _ _ _ => rfl⟩

theorem fsetFcStatus_wound (s : State) (hi lo v : Nat) : Wound s (fset s Reg.fcStatus hi lo v) :=
  ⟨⟨_, _, _, _, _, _, _, _, _, _, _, _, _, rfl⟩, fun _ _ hf => rd_fset_other _ _ _ _ hf⟩

end

/-- Nothing of the device is left in the ledger or among the updates, and only released items' state changed. -/
theorem stopAll_spec (s : State) : nothingRuns (stopAll s) ∧ Frees s (stopAll s) := by
  have hfrees : Frees s ((s.led.map (·.1)).foldl (fun t key => releaseItem t key 0) s) := Frees.refl.foldl fun _ _ hu => hu.releaseItem _ _
  refine ⟨⟨?_, rfl⟩, hfrees.still ⟨_, _, _, _, _, _, _, _, _, rfl⟩ fun _ hx => hx⟩
  refine List.eq_nil_iff_forall_not_mem.mpr fun kv hkv => ?_
  obtain ⟨hin, hout⟩ := releases_led _ _ _ kv hkv
  exact hout (List.mem_map_of_mem hin)

theorem withSvc_wound (s : State) (svc : Svc) : Wound s { s with plinth := { s.plinth with svc := svc } } :=
  ⟨⟨_, _, _, _, _, _, _, _, _, _, _, _, _, rfl⟩, fun _ _ _ => rfl⟩

theorem quiesceDevice_wound (s : State) : Wound s (quiesceDevice s) := by
  unfold quiesceDevice
  split
  · exact .refl
  · exact (fsetFcStatus_wound s _ _ _).trans ((stopAll_spec _).2.wound.trans ((noticeSelf_noted _).wound.trans
      ((withSvc_wound _ _).trans (Told.refl.abandonProcs _).wound)))

/-- A device quiesce that begins stops everything and leaves the Plinth in recovery. -/
theorem quiesceDevice_begins {s : State} (h : devQuiesced s = false) :
    ∃ u, nothingRuns u ∧ rd u Reg.fcStatus = rd (fset s Reg.fcStatus 62 62 1) Reg.fcStatus ∧ u.plinth.svc = .recovery ∧ Told u (quiesceDevice s) := by
  obtain ⟨hnone, hfrees⟩ := stopAll_spec (fset s Reg.fcStatus 62 62 1)
  have hnoted := noticeSelf_noted (stopAll (fset s Reg.fcStatus 62 62 1))
  refine ⟨{ noticeSelf (stopAll (fset s Reg.fcStatus 62 62 1)) with
    plinth := { (noticeSelf (stopAll (fset s Reg.fcStatus 62 62 1))).plinth with svc := .recovery } }, ⟨?_, ?_⟩, ?_, rfl, ?_⟩
  · exact (hnoted.proj State.led fun _ _ _ _ => rfl).trans hnone.1
  · exact (hnoted.proj State.jobs fun _ _ _ _ => rfl).trans hnone.2
  · exact (rd_congr (hnoted.proj State.regs fun _ _ _ _ => rfl) _).trans (hfrees.rd (by decide))
  · unfold quiesceDevice
    rw [if_neg (by simpa [devQuiesced] using h)]
    exact Told.refl.abandonProcs _

theorem quiesceDevice_spec (s : State) : devQuiesced (quiesceDevice s) = true ∧
    (devQuiesced s = false → nothingRuns (quiesceDevice s) ∧ (quiesceDevice s).plinth.svc = .recovery) := by
  cases h : devQuiesced s with
  | true =>
    have hsame : quiesceDevice s = s := if_pos h
    rw [hsame]
    exact ⟨h, fun hf => absurd hf (by simp)⟩
  | false =>
    obtain ⟨u, ⟨hled, hjobs⟩, hrd, hsvc, htold⟩ := quiesceDevice_begins h
    have hregs : (quiesceDevice s).regs = u.regs := htold.proj State.regs fun _ _ _ _ => rfl
    refine ⟨?_, fun _ => ⟨⟨(htold.proj State.led fun _ _ _ _ => rfl).trans hled, (htold.proj State.jobs fun _ _ _ _ => rfl).trans hjobs⟩,
      (htold.proj (·.plinth.svc) fun _ _ _ _ => rfl).trans hsvc⟩⟩
    exact (fbit_congr_rd ((rd_congr hregs _).trans hrd) 62).trans (fbit_fset_self _ _ _ (by omega))

/-- A fabric port is disabled and down. -/
def portOff (s : State) (p : Nat) : State := fset (fset s (Reg.fbPortctl p) 31 31 0) (Reg.fbPortstat p) 31 24 0

theorem portOff_spec (s : State) (p : Nat) : (∀ off, off < 0x801000 → rd (portOff s p) off = rd s off) ∧
    fbit (portOff s p) (Reg.fbPortctl p) 31 = false ∧
      ∀ q, fbit s (Reg.fbPortctl q) 31 = false → fbit (portOff s p) (Reg.fbPortctl q) 31 = false := by
  have hne : ∀ q, Reg.fbPortctl q ≠ Reg.fbPortstat p := fun q => by
    unfold Reg.fbPortctl Reg.fbPortstat
    omega
  have hp : fbit (portOff s p) (Reg.fbPortctl p) 31 = false :=
    (fbit_fset_other _ _ _ _ _ (hne p)).trans (fbit_fset_self _ _ _ (by omega))
  refine ⟨fun off ho => ?_, hp, fun q hq => ?_⟩
  · exact (rd_fset_other _ _ _ _ (by unfold Reg.fbPortstat; omega)).trans (rd_fset_other _ _ _ _ (by unfold Reg.fbPortctl; omega))
  · by_cases h : q = p
    · rw [h, hp]
    · exact ((fbit_fset_other _ _ _ _ _ (hne q)).trans (fbit_fset_other _ _ _ _ _ (by unfold Reg.fbPortctl; omega))).trans hq

/-- Only registers of the ports change, and each port named, or disabled before, is disabled. -/
theorem portsOff_spec (l : List Nat) (s : State) : (∃ regs, l.foldl portOff s = { s with regs := regs }) ∧
    (∀ off, off < 0x801000 → rd (l.foldl portOff s) off = rd s off) ∧
      ∀ p, p ∈ l ∨ fbit s (Reg.fbPortctl p) 31 = false → fbit (l.foldl portOff s) (Reg.fbPortctl p) 31 = false := by
  induction l generalizing s with
  | nil => exact ⟨⟨_, rfl⟩, fun _ _ => rfl, fun p h => h.resolve_left List.not_mem_nil⟩
  | cons q l ih =>
    obtain ⟨hlow, hq, hkeep⟩ := portOff_spec s q
    obtain ⟨⟨regs, hl⟩, hrd, hoff⟩ := ih (portOff s q)
    refine ⟨⟨regs, hl⟩, fun off ho => (hrd off ho).trans (hlow off ho), fun p h => hoff p ?_⟩
    rcases h with h | h
    · rcases List.mem_cons.mp h with h | h
      · exact .inr (h ▸ hq)
      · exact .inl h
    · exact .inr (hkeep p h)

/-- A halted device is quiesced, its rails are cut and its ports disabled; what it held in device memory is lost. -/
theorem haltDevice_spec (s : State) : let t := haltDevice s
    devQuiesced t = true ∧ t.halted = true ∧ t.rails = false ∧ t.dev = [] ∧ t.host = s.host ∧ t.esc = s.esc ∧
      ∀ p : Port, fbit t (Reg.fbPortctl p) 31 = false := by
  have hq := (quiesceDevice_spec s).1
  have hw := quiesceDevice_wound s
  obtain ⟨⟨regs, hregs⟩, hrd, hoff⟩ := portsOff_spec (List.range 18) (quiesceDevice s)
  have hhalt : haltDevice s = { cutRails ((List.range 18).foldl portOff (quiesceDevice s)) with halted := true } := rfl
  obtain ⟨u, hu⟩ : ∃ u, (List.range 18).foldl portOff (quiesceDevice s) = u := ⟨_, rfl⟩
  rw [hu] at hregs hrd hoff hhalt
  have hhost : u.host = s.host := (congrArg State.host hregs).trans hw.mem.2
  have hesc : u.esc = s.esc := (congrArg State.esc hregs).trans hw.esc
  rw [hhalt]
  exact ⟨(fbit_congr_rd (hrd _ (by decide)) 62).trans hq, rfl, rfl, rfl, hhost, hesc, fun p => hoff p (.inl (List.mem_range.mpr p.isLt))⟩

/-! ### The collector (R338 to R341) -/

/-- A message was logged: only the collector's registers, the Plinth and the output changed, and no level of FC_STATUS. -/
def Logged (s t : State) : Prop :=
  (∃ regs plinth out, t = { s with regs := regs, plinth := plinth, out := out }) ∧ (∀ off, off < Reg.fcStatus → rd t off = rd s off) ∧
    ∀ b, 32 ≤ b → b < 64 → fbit t Reg.fcStatus b = fbit s Reg.fcStatus b

theorem Logged.trans {s t u : State} (h : Logged s t) (g : Logged t u) : Logged s u := by
  obtain ⟨⟨_, _, _, rfl⟩, hr, hb⟩ := h
  obtain ⟨⟨_, _, _, rfl⟩, gr, gb⟩ := g
  exact ⟨⟨_, _, _, rfl⟩, fun off ho => (gr off ho).trans (hr off ho), fun b h1 h2 => (gb b h1 h2).trans (hb b h1 h2)⟩

theorem Told.logged {s t : State} (h : Told s t) : Logged s t := by
  obtain ⟨_, _, _, rfl⟩ := h
  exact ⟨⟨_, _, _, rfl⟩, fun _ _ => rfl, fun _ _ _ => rfl⟩

theorem setReg_logged (s : State) {off : Nat} (v : Nat) (h : Reg.fcStatus < off) : Logged s (s.setReg off v) :=
  ⟨⟨_, _, _, rfl⟩, fun _ ho => rd_setReg_other _ _ (by omega), fun b _ _ => fbit_congr_rd (rd_setReg_other _ _ (by omega)) b⟩

theorem fset_logged (s : State) {off : Nat} (hi lo v : Nat) (h : Reg.fcStatus < off) : Logged s (fset s off hi lo v) := setReg_logged _ _ h

theorem withPlinth_logged (s : State) (p : Plinth) : Logged s { s with plinth := p } := ⟨⟨_, _, _, rfl⟩, fun _ _ => rfl, fun _ _ _ => rfl⟩

theorem logMsg_logged (s : State) (m : Nat) : Logged s (logMsg s m) := by
  unfold logMsg
  extract_lets m1 c off s1 n s2 s3 s4
  have hoff : Reg.fcStatus < off := by
    show Reg.fcStatus < Reg.fcLstat c
    unfold Reg.fcStatus Reg.fcLstat
    omega
  have h1 : Logged s s1 := by
    unfold s1
    split
    · exact (fset_logged s _ _ _ hoff).trans (fset_logged _ _ _ _ hoff)
    · exact (fset_logged s _ _ _ hoff).trans ((setReg_logged _ _ (by unfold Reg.fcStatus Reg.fcLatchlo; omega)).trans
        (setReg_logged _ _ (by unfold Reg.fcStatus Reg.fcLatchhi; omega)))
  have h2 : Logged s1 s2 := (setReg_logged s1 _ (by unfold Reg.fcStatus Reg.fcLoglo; omega)).trans
    (setReg_logged _ _ (by unfold Reg.fcStatus Reg.fcLoghi; omega))
  have h3 : Logged s2 s3 := ⟨⟨_, _, _, rfl⟩, fun _ ho => rd_fset_other _ _ _ _ (by omega),
    fun b h1 h2 => fbit_fset_field _ _ _ (by omega) (by omega) (by omega)⟩
  have h4 : Logged s3 s4 := by
    unfold s4
    split
    · exact Told.refl.logged
    · exact withPlinth_logged s3 _
  have h5 : ∀ u : State, Told u (u.plinth.sessions.foldl (fun t x =>
      if x.2.level ≤ mLevel m1 then sessEvent t x.1 x.2 0x10 (leBytes 16 m1) else t) u) := fun u => Told.foldl Told.refl fun v x hv => by
    split
    · exact hv.sessEvent _ _ _ _
    · exact hv
  have h1234 : Logged s s4 := h1.trans (h2.trans (h3.trans h4))
  clear_value s4
  exact h1234.trans (h5 s4).logged

theorem mkMsg_kind (s : State) (die unit kind inst tag addr : Nat) : mKind (mkMsg s die unit kind inst tag addr) = kind % 256 := by
  unfold mKind mkMsg bits
  simp only [packFields]
  omega

theorem mkMsg_level (s : State) (die unit kind inst tag addr : Nat) :
    mLevel (mkMsg s die unit kind inst tag addr) = (kindLevel kind).getD 0 % 8 := by
  unfold mLevel mkMsg bits
  simp only [packFields]
  omega

/-- A pending key that is new after a message waits for no pages. -/
def NoNewWants (s t : State) : Prop := ∀ k ∈ t.esc, wantsPages k = true → k ∈ s.esc

theorem collect_of_noNewWants {s : State} {m : Nat} {item : Option Nat} (h : NoNewWants s (collectOne s m item)) :
    collect s m item = pinAlert (if mLevel m = 0 then collectOne s m item else abandonProcs (collectOne s m item) (procHit s m)) := by
  have hesc : (if mLevel m = 0 then collectOne s m item else abandonProcs (collectOne s m item) (procHit s m)).esc = (collectOne s m item).esc := by
    split
    · rfl
    · exact (Told.refl.abandonProcs _).proj State.esc fun _ _ _ _ => rfl
  have hnone : (if mLevel m = 0 then collectOne s m item else abandonProcs (collectOne s m item) (procHit s m)).esc.find?
      (fun k => wantsPages k && !(s.esc.any fun x => wantsPages x && keyEq k.cls k.scope x)) = none := by
    rw [hesc, List.find?_eq_none]
    intro k hk hw
    obtain ⟨hwants, hnew⟩ := Bool.and_eq_true_iff.mp hw
    have hold : (s.esc.any fun x => wantsPages x && keyEq k.cls k.scope x) = true :=
      List.any_eq_true.mpr ⟨k, h k hk hwants, by simp [hwants, keyEq]⟩
    rw [hold] at hnew
    exact Bool.false_ne_true hnew
  unfold collect
  dsimp only
  rw [hnone]

/-- A pending key set without pages to wait for. -/
theorem setKey_noNewWants {s u : State} (hu : u.esc = s.esc) (m lvl : Nat) : NoNewWants s (setKey u m lvl []) := by
  intro k hk hw
  rcases List.mem_append.mp hk with hk | hk
  · exact hu ▸ (List.mem_filter.mp hk).1
  · rw [List.mem_singleton.mp hk] at hw
    exact absurd hw Bool.false_ne_true

/-- A message at level 5 that no pending action holds within quiesces the device. -/
theorem collectOne_level5 {s : State} {m : Nat} (hkind : mKind m = 0x35) (hlvl : mLevel m = 5) :
    devQuiesced (collectOne s m none) = true ∧ NoNewWants s (collectOne s m none) := by
  have hesc : ∀ n, (logMsg s n).esc = s.esc := fun n => by
    obtain ⟨⟨_, _, _, h⟩, -, -⟩ := logMsg_logged s n
    rw [h]
  have hact5 : act (logMsg s m) m 5 none = quiesceDevice (setKey (logMsg s m) m 5 []) := rfl
  have hact6 : ∀ n, act (logMsg s n) n 6 none = haltDevice (setKey (logMsg s n) n 6 []) := fun _ => rfl
  unfold collectOne
  simp only [hkind, hlvl]
  rw [if_neg (by decide), if_neg (by decide)]
  split
  next h =>
    rw [if_neg (by simp [onFenced, hkind]), hact5]
    exact ⟨(quiesceDevice_spec _).1, fun k hk => setKey_noNewWants (hesc m) m 5 k ((quiesceDevice_wound _).esc ▸ hk)⟩
  next k h =>
    rw [if_neg (by simp [within, hkind]), if_neg (by decide), if_neg (by decide)]
    have hup : min 6 (5 + 1) = 6 := rfl
    rw [hup, if_neg (by decide), hact6]
    obtain ⟨hq, -, -, -, -, he, -⟩ := haltDevice_spec (setKey (logMsg s (setBits (setBits m 103 101 6) 80 80 1)) (setBits (setBits m 103 101 6) 80 80 1) 6 [])
    exact ⟨hq, fun k hk => setKey_noNewWants (hesc _) _ 6 k (he ▸ hk)⟩

theorem report_stackfail (s : State) (d : Nat) : devQuiesced (report s d 0x7FF 0x35 0 0 0 none) = true := by
  obtain ⟨hq, hw⟩ := collectOne_level5 (s := s) (mkMsg_kind s d 0x7FF 0x35 0 0 0) (mkMsg_level s d 0x7FF 0x35 0 0 0)
  unfold report
  rw [collect_of_noNewWants hw, if_neg (by rw [mkMsg_level]; decide)]
  obtain ⟨alertN, out, hpin⟩ := pinAlert_frame (abandonProcs (collectOne s (mkMsg s d 0x7FF 0x35 0 0 0) none) (procHit s (mkMsg s d 0x7FF 0x35 0 0 0)))
  have hregs : (abandonProcs (collectOne s (mkMsg s d 0x7FF 0x35 0 0 0) none) (procHit s (mkMsg s d 0x7FF 0x35 0 0 0))).regs =
      (collectOne s (mkMsg s d 0x7FF 0x35 0 0 0) none).regs := (Told.refl.abandonProcs _).proj State.regs fun _ _ _ _ => rfl
  rw [hpin]
  exact (fbit_congr hregs Reg.fcStatus 62).trans hq

end Sys2Proof.Proofs
end

section
/-! PROOFS. Device resets and the steps of start-up: O51. -/

namespace Sys2Proof.Proofs
open Sys2Proof.Machine

/-! ### Device reset (R13) -/

theorem drawKeys_frame (s : State) : ∃ draws sysKey tableKey linkKeys,
    drawKeys s = { s with draws := draws, sysKey := sysKey, tableKey := tableKey, linkKeys := linkKeys } := by
  unfold drawKeys
  refine List.foldlRecOn (motive := fun u : State => ∃ draws sysKey tableKey linkKeys,
    u = { s with draws := draws, sysKey := sysKey, tableKey := tableKey, linkKeys := linkKeys }) _ _ ⟨_, _, _, _, rfl⟩ fun u hu q _ => ?_
  obtain ⟨_, _, _, _, rfl⟩ := hu
  exact ⟨_, _, _, _, rfl⟩

theorem showJournal_frame (s : State) : (∃ regs, showJournal s = { s with regs := regs }) ∧
    ∀ off, off ≠ Reg.ksStatus → off ≠ Reg.ksJgen → rd (showJournal s) off = rd s off := by
  unfold showJournal
  split
  · exact ⟨⟨_, rfl⟩, fun off h1 h2 => (rd_setReg_other _ _ h2).trans ((rd_fset_other _ _ _ _ h1).trans (rd_fset_other _ _ _ _ h1))⟩
  · exact ⟨⟨_, rfl⟩, fun _ _ _ => rfl⟩

/-- What a device reset leaves before keys are drawn and the journal is shown: the reset values and what lies outside the device. -/
def bareReset (s : State) : State := {
  pending := s.pending, time := s.time, draws := s.draws, host := s.host, images := s.images, out := s.out
  perstN := s.perstN, pwrWarnN := s.pwrWarnN, inputIn := s.inputIn, rails := s.plinth.up && s.inputIn, modPwrgd := s.plinth.up && s.inputIn
  plinth := plinthOverReset s.plinth }

theorem deviceReset_frame (s : State) :
    (∃ regs draws sysKey tableKey linkKeys alertN out, deviceReset s = { bareReset s with
      regs := regs, draws := draws, sysKey := sysKey, tableKey := tableKey, linkKeys := linkKeys, alertN := alertN, out := out }) ∧
    ∀ off, off ≠ Reg.ksStatus → off ≠ Reg.ksJgen → rd (deviceReset s) off = rd State.reset off := by
  have hreset : deviceReset s = showJournal (if s.plinth.up then drawKeys (pinAlert { bareReset s with alertN := s.alertN })
      else pinAlert { bareReset s with alertN := s.alertN }) := rfl
  obtain ⟨alertN, out, hpin⟩ := pinAlert_frame { bareReset s with alertN := s.alertN }
  obtain ⟨draws, sysKey, tableKey, linkKeys, hdraw⟩ := drawKeys_frame (pinAlert { bareReset s with alertN := s.alertN })
  have hinner : ∃ draws sysKey tableKey linkKeys alertN out, (if s.plinth.up then drawKeys (pinAlert { bareReset s with alertN := s.alertN })
      else pinAlert { bareReset s with alertN := s.alertN }) = { bareReset s with
        draws := draws, sysKey := sysKey, tableKey := tableKey, linkKeys := linkKeys, alertN := alertN, out := out } := by
    split
    · rw [hdraw, hpin]
      exact ⟨_, _, _, _, _, _, rfl⟩
    · rw [hpin]
      exact ⟨_, _, _, _, _, _, rfl⟩
  obtain ⟨draws, sysKey, tableKey, linkKeys, alertN, out, hinner⟩ := hinner
  rw [hreset, hinner]
  obtain ⟨⟨regs, hshow⟩, hrd⟩ := showJournal_frame { bareReset s with
    draws := draws, sysKey := sysKey, tableKey := tableKey, linkKeys := linkKeys, alertN := alertN, out := out }
  exact ⟨⟨regs, _, _, _, _, _, _, hshow⟩, fun off h1 h2 => hrd off h1 h2⟩

theorem deviceReset_resets (s : State) : let t := deviceReset s
    (∀ off, off ≠ Reg.ksStatus → off ≠ Reg.ksJgen → rd t off = rd State.reset off) ∧
      nothingRuns t ∧ t.ops = [] ∧ t.elig = [] ∧ t.rings = [] ∧ t.ktab = [] ∧ t.ikeys = [] ∧ t.descs = [] ∧ t.pages = [] ∧ t.esc = [] ∧ t.dev = [] ∧
      t.host = s.host ∧ t.time = s.time ∧ t.barUp = false ∧ t.halted = false ∧ t.plinth.log = s.plinth.log ∧ t.plinth.sessions = s.plinth.sessions ∧
      t.plinth.jsel = s.plinth.jsel ∧ (s.plinth.up = true → t.plinth.svc = .startup) ∧ t.perstN = s.perstN := by
  obtain ⟨⟨regs, draws, sysKey, tableKey, linkKeys, alertN, out, ht⟩, hrd⟩ := deviceReset_frame s
  refine ⟨hrd, ?_⟩
  rw [ht]
  exact ⟨⟨rfl, rfl⟩, rfl, rfl, rfl, rfl, rfl, rfl, rfl, rfl, rfl, rfl, rfl, rfl, rfl, rfl, rfl, rfl, fun _ => rfl, rfl⟩

/-! ### Bad cores and dies (R411) -/

/-- What is out of service, and the inputs that start-up follows. -/
def serviceOf (s : State) : List PCore × List Die × Bool × Bool := (s.fenced, s.diesOut, s.perstN, s.barUp)

/-- Work was lost or a core promoted: nothing went out of service and no register below the rings' changed. -/
structure Loses (s t : State) : Prop where
  service : serviceOf t = serviceOf s
  low : ∀ off, off < 0x100000 → rd t off = rd s off

section
variable {s t u : State}

theorem Loses.refl : Loses s s := ⟨rfl, fun _ _ => rfl⟩

theorem Loses.trans (h : Loses s t) (g : Loses t u) : Loses s u :=
  ⟨g.service.trans h.service, fun off ho => (g.low off ho).trans (h.low off ho)⟩

theorem Loses.same (h : Loses s t) (hs : serviceOf u = serviceOf t) (hr : u.regs = t.regs) : Loses s u :=
  h.trans ⟨hs, fun off _ => rd_congr hr off⟩

theorem Loses.foldl {α : Type} {f : State → α → State} {l : List α} (h : Loses s t) (hf : ∀ u x, Loses s u → Loses s (f u x)) :
    Loses s (l.foldl f t) :=
  List.foldlRecOn (motive := Loses s) l f h fun u hu x _ => hf u x hu

theorem Loses.fset (h : Loses s t) {off : Nat} (hi lo v : Nat) (ho : 0x100000 ≤ off) : Loses s (fset t off hi lo v) :=
  h.trans ⟨rfl, fun _ hx => rd_fset_other _ _ _ _ (by omega)⟩

theorem postFixed_low {off : Nat} (h : off < 0x100000) : postFixed off := fun i => by
  unfold Reg.mtEvents Reg.isViol Reg.qmDirtyctl
  omega

theorem Loses.writeCompl (h : Loses s t) (c : Compl) : Loses s (writeCompl t c) := by
  have hp : Posted t (Machine.writeCompl t c) := Posted.refl.writeCompl c
  exact h.trans ⟨hp.proj serviceOf fun _ _ _ _ _ => rfl, fun off ho => hp.rd (postFixed_low ho)⟩

theorem Loses.releaseItem (h : Loses s t) (key status : Nat) : Loses s (releaseItem t key status) := by
  have hf : Frees t (Machine.releaseItem t key status) := Frees.refl.releaseItem key status
  exact h.trans ⟨hf.proj serviceOf fun _ _ _ _ _ _ _ _ _ _ _ => rfl, fun off ho => hf.rd (by omega)⟩

theorem Loses.logMsg (h : Loses s t) (m : Nat) : Loses s (logMsg t m) := by
  obtain ⟨⟨_, _, _, hl⟩, hrd, -⟩ := logMsg_logged t m
  exact h.trans ⟨by rw [hl]; rfl, fun off ho => hrd off (by unfold Reg.fcStatus; omega)⟩

theorem Loses.loseItem (h : Loses s t) (key : Nat) : Loses s (loseItem t key) := by
  unfold Machine.loseItem
  split
  · exact h
  · exact (h.releaseItem _ _).writeCompl _

theorem Loses.loseItemAndStep (h : Loses s t) (key : Nat) : Loses s (loseItemAndStep t key) := by
  unfold Machine.loseItemAndStep
  split
  · exact h
  next e _ =>
    extract_lets s1 s2 s3
    have h1 : Loses s s1 := h.loseItem key
    have h2 : Loses s s2 := by
      unfold s2
      split
      · exact h1.loseItem _
      · split
        · exact (h1.same (u := forgetOp s1 _) rfl rfl).writeCompl _
        · exact h1
    have h3 : Loses s s3 := h2.same rfl rfl
    split
    · exact h3.same rfl rfl
    · exact h3

theorem Loses.updLed (h : Loses s t) (key : Nat) (f : Led → Led) : Loses s (t.updLed key f) := by
  unfold State.updLed
  split
  · exact h.same rfl rfl
  · exact h

theorem Loses.replayItem (h : Loses s t) (key : Nat) : Loses s (replayItem t key) := by
  unfold Machine.replayItem
  split
  · exact h
  next e _ =>
    split
    · exact h.loseItemAndStep key
    · extract_lets s1 s2
      have h1 : Loses s s1 := by
        unfold s1
        split
        · exact h.same rfl rfl
        · exact h
      exact (h1.updLed key _).same rfl rfl

theorem Loses.vacate (h : Loses s t) (k : Nat) : Loses s (vacate t k) := by
  unfold Machine.vacate
  split
  · split
    · exact h
    · exact h.same rfl rfl
  · exact h.same rfl rfl

theorem Loses.promoteSpare (h : Loses s t) (l : Nat) : Loses s (promoteSpare t l) := by
  have hoff : 0x100000 ≤ Reg.scRemap l := by
    unfold Reg.scRemap
    omega
  unfold Machine.promoteSpare
  split
  · exact (h.fset 4 0 _ hoff).same rfl rfl
  · exact h.fset _ _ _ hoff

end

/-- Cores and dies went out of service, and no register below the rings' changed. -/
structure Fences (s t : State) : Prop where
  fenced : ∀ f ∈ s.fenced, f ∈ t.fenced
  diesOut : ∀ d ∈ s.diesOut, d ∈ t.diesOut
  perstN : t.perstN = s.perstN
  barUp : t.barUp = s.barUp
  low : ∀ off, off < 0x100000 → rd t off = rd s off

section
variable {s t u : State}

theorem Fences.refl : Fences s s := ⟨fun _ h => h, fun _ h => h, rfl, rfl, fun _ _ => rfl⟩

theorem Fences.trans (h : Fences s t) (g : Fences t u) : Fences s u :=
  ⟨fun f hf => g.fenced f (h.fenced f hf), fun d hd => g.diesOut d (h.diesOut d hd), g.perstN.trans h.perstN, g.barUp.trans h.barUp,
    fun off ho => (g.low off ho).trans (h.low off ho)⟩

/-- Going out of service and the loss of work after it. -/
theorem Loses.fences (h : Loses s t) {cores : List PCore} {dies : List Die} (hs : serviceOf s = (u.fenced ++ cores, u.diesOut ++ dies, u.perstN, u.barUp))
    (hr : s.regs = u.regs) : Fences u t ∧ (∀ k ∈ cores, k ∈ t.fenced) ∧ ∀ d ∈ dies, d ∈ t.diesOut := by
  have ht := h.service.trans hs
  simp only [serviceOf, Prod.mk.injEq] at ht
  obtain ⟨hf, hd, hp, hb⟩ := ht
  refine ⟨⟨fun f hin => ?_, fun d hin => ?_, hp, hb, fun off ho => (h.low off ho).trans (rd_congr hr off)⟩, fun k hk => ?_, fun d hk => ?_⟩
  · exact hf ▸ List.mem_append_left _ hin
  · exact hd ▸ List.mem_append_left _ hin
  · exact hf ▸ List.mem_append_right _ hk
  · exact hd ▸ List.mem_append_right _ hk

end

theorem fenceCore_spec (s : State) (k : PCore) : k ∈ (fenceCore s k).fenced ∧ Fences s (fenceCore s k) := by
  unfold fenceCore
  split
  next h =>
    obtain ⟨f, hf, hk⟩ := List.any_eq_true.mp h
    exact ⟨(Fin.ext (beq_iff_eq.mp hk) : f = k) ▸ hf, .refl⟩
  · extract_lets keys s1 s2 s3
    have h2 : Loses s1 s2 := by
      unfold s2
      split
      · exact Loses.refl.promoteSpare _
      · exact .refl
    have h4 : Loses s1 (vacate s3 k) := (h2.foldl fun _ _ hu => hu.replayItem _).vacate k
    have hs : serviceOf s1 = (s.fenced ++ [fin 143 k.val], s.diesOut ++ [], s.perstN, s.barUp) := by
      rw [List.append_nil]
      rfl
    obtain ⟨hf, hk, -⟩ := h4.fences hs rfl
    have hfin : fin 143 k.val = k := Fin.ext (Nat.mod_eq_of_lt k.isLt)
    exact ⟨hk k (List.mem_singleton.mpr hfin.symm), hf⟩

theorem fenceDie_spec (s : State) (d : Die) : d ∈ (fenceDie s d).diesOut ∧ Fences s (fenceDie s d) := by
  unfold fenceDie
  split
  next h =>
    obtain ⟨x, hx, hd⟩ := List.any_eq_true.mp h
    exact ⟨(Fin.ext (beq_iff_eq.mp hd) : x = d) ▸ hx, .refl⟩
  · extract_lets keys s1 s2 kept s3 s4
    have h2 : Loses s1 s2 := Loses.refl.foldl fun u j hu => hu.fset _ _ _ (by unfold Reg.scRemap; omega)
    have h3 : Loses s1 s3 := (h2.foldl fun u key hu => by
      split
      · exact hu.loseItemAndStep _
      · exact hu.replayItem _).foldl fun _ _ hu => hu.loseItemAndStep _
    have h4 : Loses s1 s4 := h3.foldl fun _ _ hu => hu.vacate _
    have hs : serviceOf s1 = (s.fenced ++ [], s.diesOut ++ [fin 7 d.val], s.perstN, s.barUp) := by
      rw [List.append_nil]
      rfl
    have hr : s1.regs = s.regs := rfl
    clear_value s4 s1
    obtain ⟨hf, -, hd⟩ := Loses.fences (u := s) (h4.same (u := { s4 with
      scratch := s4.scratch.filter fun x => x.1 / 16 ≠ d.val
      accepted := Tab.erase s4.accepted d
      journal := s4.journal.filter fun j => j.die ≠ d.val }) rfl rfl) hs hr
    have hfin : fin 7 d.val = d := Fin.ext (Nat.mod_eq_of_lt d.isLt)
    exact ⟨hd d (List.mem_singleton.mpr hfin.symm), hf⟩

theorem badCore_spec (s : State) (k : PCore) : k ∈ (badCore s k).fenced ∧ Fences s (badCore s k) := by
  obtain ⟨hk, hf⟩ := fenceCore_spec (logDefect s (dieOf k) (k.val % 18) 0x11) k
  have hl : Loses s (logDefect s (dieOf k) (k.val % 18) 0x11) := Loses.refl.logMsg _
  have hs : serviceOf s = (s.fenced ++ [], s.diesOut ++ [], s.perstN, s.barUp) := by simp [serviceOf]
  exact ⟨hk, (hl.fences hs rfl).1.trans hf⟩

theorem badDie_spec (s : State) (d : Die) : d ∈ (badDie s d).diesOut ∧ Fences s (badDie s d) := by
  obtain ⟨hd, hf⟩ := fenceDie_spec (logDefect s d 0x7FF 0x13) d
  have hl : Loses s (logDefect s d 0x7FF 0x13) := Loses.refl.logMsg _
  have hs : serviceOf s = (s.fenced ++ [], s.diesOut ++ [], s.perstN, s.barUp) := by simp [serviceOf]
  exact ⟨hd, (hl.fences hs rfl).1.trans hf⟩

theorem badCores_spec (cs : List PCore) (s : State) : (∀ k ∈ cs, k ∈ (cs.foldl badCore s).fenced) ∧ Fences s (cs.foldl badCore s) := by
  induction cs generalizing s with
  | nil => exact ⟨fun _ h => absurd h List.not_mem_nil, .refl⟩
  | cons c cs ih =>
    obtain ⟨hc, hf⟩ := badCore_spec s c
    obtain ⟨hcs, hfs⟩ := ih (badCore s c)
    exact ⟨List.forall_mem_cons.mpr ⟨hfs.fenced c hc, hcs⟩, hf.trans hfs⟩

theorem badDies_spec (ds : List Die) (s : State) : (∀ d ∈ ds, d ∈ (ds.foldl badDie s).diesOut) ∧ Fences s (ds.foldl badDie s) := by
  induction ds generalizing s with
  | nil => exact ⟨fun _ h => absurd h List.not_mem_nil, .refl⟩
  | cons d ds ih =>
    obtain ⟨hd, hf⟩ := badDie_spec s d
    obtain ⟨hds, hfs⟩ := ih (badDie s d)
    exact ⟨List.forall_mem_cons.mpr ⟨hfs.diesOut d hd, hds⟩, hf.trans hfs⟩

/-! ### The steps of start-up (R409 to R412) -/

theorem napSpares_frame (s : State) : ∃ cores, napSpares s = { s with cores := cores } := by
  refine List.foldlRecOn (motive := fun u : State => ∃ cores, u = { s with cores := cores }) _ _ ⟨_, rfl⟩ fun u hu k _ => ?_
  obtain ⟨_, rfl⟩ := hu
  split
  · exact ⟨_, rfl⟩
  · exact ⟨_, rfl⟩

/-- What start-up leaves once the cores and dies that failed are out of service. -/
theorem startedUp_spec {u w : State} (hf : Fences u w) : ∃ t, napSpares (fset w Reg.glStatus 14 13 3) = t ∧ t.perstN = u.perstN ∧ t.barUp = u.barUp ∧
    rd t Reg.glTimes = rd u Reg.glTimes ∧ fget t Reg.glStatus 14 13 = 3 ∧ t.fenced = w.fenced ∧ t.diesOut = w.diesOut := by
  obtain ⟨cores, hn⟩ := napSpares_frame (fset w Reg.glStatus 14 13 3)
  refine ⟨_, hn, hf.perstN, hf.barUp, ?_, fget_fset_self w Reg.glStatus 3 (by omega) (by omega), rfl, rfl⟩
  exact (rd_fset_other w _ _ _ (by decide)).trans (hf.low _ (by decide))

theorem perstRelease_starts {s : State} (ms : W32) (cs : List PCore) (ds : List Die) (hp : s.modPwrgd = true) (hb : s.barUp = false)
    (hh : s.halted = false) :
    ∃ t, exec (.perstRelease ms cs ds) s = .next t ∧ t.perstN = true ∧ t.barUp = true ∧ fget t Reg.glTimes 31 0 = ms.toNat ∧
      fget t Reg.glStatus 14 13 = 3 ∧ (∀ k ∈ cs, k ∈ t.fenced) ∧ ∀ d ∈ ds, d ∈ t.diesOut := by
  obtain ⟨u, hu⟩ : ∃ u, fset { s with perstN := true, barUp := true } Reg.glTimes 31 0 ms.toNat = u := ⟨_, rfl⟩
  have hexec : exec (.perstRelease ms cs ds) s = .next (napSpares (fset (ds.foldl badDie (cs.foldl badCore u)) Reg.glStatus 14 13 3)) := by
    rw [← hu]
    exact if_neg (by simp [hp, hb, hh])
  have hperst : u.perstN = true := hu ▸ rfl
  have hbar : u.barUp = true := hu ▸ rfl
  have htimes : fget u Reg.glTimes 31 0 = ms.toNat := by
    rw [← hu, fget_fset_self _ _ _ (by omega) (by omega)]
    exact Nat.mod_eq_of_lt ms.isLt
  obtain ⟨hcs, hfc⟩ := badCores_spec cs u
  obtain ⟨hds, hfd⟩ := badDies_spec ds (cs.foldl badCore u)
  obtain ⟨t, ht, htp, htb, htt, hts, htf, htd⟩ := startedUp_spec (hfc.trans hfd)
  refine ⟨t, hexec.trans (congrArg _ ht), htp.trans hperst, htb.trans hbar, (fget_congr_rd htt 31 0).trans htimes, hts, fun k hk => ?_, fun d hd => ?_⟩
  · exact htf ▸ hfd.fenced k (hcs k hk)
  · exact htd ▸ hds d hd

/-- Pages left the pool for a pseudo-channel or for a table: no memory, no base held, and GL_STATUS stays. -/
def Draws (s t : State) : Prop :=
  (∃ regs plinth out pages retired claims bnorms updLog, t = { s with
    regs := regs, plinth := plinth, out := out, pages := pages, retired := retired, claims := claims, bnorms := bnorms, updLog := updLog }) ∧
  rd t Reg.glStatus = rd s Reg.glStatus

section
variable {s t u : State}

theorem Draws.refl : Draws s s := ⟨⟨_, _, _, _, _, _, _, _, rfl⟩, rfl⟩

theorem Draws.trans (h : Draws s t) (g : Draws t u) : Draws s u := by
  obtain ⟨⟨_, _, _, _, _, _, _, _, rfl⟩, h⟩ := h
  obtain ⟨⟨_, _, _, _, _, _, _, _, rfl⟩, g⟩ := g
  exact ⟨⟨_, _, _, _, _, _, _, _, rfl⟩, g.trans h⟩

theorem Draws.proj (h : Draws s t) {α : Type} (π : State → α)
    (hπ : ∀ (u : State) regs plinth out pages retired claims bnorms updLog, π { u with
      regs := regs, plinth := plinth, out := out, pages := pages, retired := retired, claims := claims, bnorms := bnorms,
      updLog := updLog } = π u) : π t = π s := by
  obtain ⟨⟨_, _, _, _, _, _, _, _, rfl⟩, -⟩ := h
  exact hπ _ _ _ _ _ _ _ _ _

theorem Draws.fset (s : State) {off : Nat} (hi lo v : Nat) (h : Reg.glStatus ≠ off) : Draws s (fset s off hi lo v) :=
  ⟨⟨_, _, _, _, _, _, _, _, rfl⟩, rd_fset_other _ _ _ _ h⟩

theorem Draws.same (h : ∃ pages retired claims bnorms updLog, t = { s with
    pages := pages, retired := retired, claims := claims, bnorms := bnorms, updLog := updLog }) : Draws s t := by
  obtain ⟨_, _, _, _, _, rfl⟩ := h
  exact ⟨⟨_, _, _, _, _, _, _, _, rfl⟩, rfl⟩

theorem retirePc_draws {stack pc : Nat} (h : retirePc s stack pc = some t) : Draws s t := by
  unfold retirePc at h
  dsimp only at h
  split at h
  · exact Option.some.inj h ▸ .refl
  split at h
  · exact absurd h (by simp)
  · rw [← Option.some.inj h]
    exact (Draws.same ⟨_, _, _, _, _, rfl⟩).trans (Draws.fset _ _ _ _ (by decide))

theorem badPc_draws (s : State) (x : Fin 12 × Fin 64) : Draws s (badPc s x) := by
  have hl : Draws s (logDefect s (0x10 + x.1) x.2 0x33) := by
    obtain ⟨⟨_, _, _, hl⟩, hrd, -⟩ := logMsg_logged s (mkMsg s (0x10 + x.1) x.2 0x33 0 0 0)
    exact ⟨⟨_, _, _, _, _, _, _, _, hl⟩, hrd _ (by decide)⟩
  unfold badPc
  dsimp only
  cases hr : retirePc (logDefect s (0x10 + x.1) x.2 0x33) x.1 x.2 with
  | none => exact hl
  | some u => exact hl.trans (retirePc_draws hr)

theorem clearTable_draws (s : State) (off : Nat) : Draws s (clearTable s off) := by
  unfold clearTable
  dsimp only
  split
  · exact .same ⟨_, _, _, _, _, rfl⟩
  split
  · exact .same ⟨_, _, _, _, _, rfl⟩
  · exact .refl

theorem claimTable_draws (s : State) {off : Nat} (v ext : Nat) (h : off ≠ Reg.glStatus) : Draws s (claimTable s off v ext) := by
  have hw : Draws s (regWritePlain s off v) := by
    obtain ⟨regs, hw⟩ := regWritePlain_frame s off v
    exact ⟨⟨_, _, _, _, _, _, _, _, hw⟩, rd_regWritePlain_other _ _ (Ne.symm h)⟩
  unfold claimTable
  extract_lets w a ns old s1 s2
  split
  · exact Draws.fset _ _ _ _ (by decide)
  · have h1 : Draws s s1 := hw.trans (.same ⟨_, _, _, _, _, rfl⟩)
    have h2 : Draws s s2 := by
      unfold s2
      split
      · exact h1
      · exact h1.trans (clearTable_draws _ _)
    exact h2.trans (.same ⟨_, _, _, _, _, rfl⟩)

theorem claimHeld_draws (s : State) : Draws { s with heldBase := [] } (claimHeld s) := by
  refine List.foldlRecOn (motive := Draws _) _ _ .refl fun u hu kv _ => ?_
  split
  next ext h =>
    have hoff : kv.1 ≠ Reg.glStatus := fun he => by
      have hnone : tableExtent Reg.glStatus = none := by decide
      exact Option.some_ne_none ext (h.symm.trans ((congrArg tableExtent he).trans hnone))
    exact hu.trans (claimTable_draws _ _ _ hoff)
  · exact hu

end

/-- Memory is up and its stacks are ready: what the last step of MEMDONE leaves. -/
theorem portsDone_ready {w : State} (hm : memDone w = true) : memDone (portsDone w) = true ∧
    fget (portsDone w) Reg.glStatus 11 0 = fget w Reg.glStatus 11 0 ∧ (∃ regs, portsDone w = { w with regs := regs }) ∧
      (w.portWait = [] → fbit (portsDone w) Reg.glStatus 12 = true) := by
  unfold portsDone
  split
  · exact ⟨(fbit_fset_field _ _ _ (by omega) (by omega) (by omega)).trans hm, fget_fset_field _ _ _ (by omega) (by omega) (by omega) (by omega),
      ⟨_, rfl⟩, fun _ => fbit_fset_self _ _ _ (by omega)⟩
  next h => exact ⟨hm, rfl, ⟨_, rfl⟩, fun hw => absurd (Bool.and_eq_true_iff.mpr ⟨hm, by rw [hw]; rfl⟩) h⟩

/-- Device memory after training: zeroed, with every stack up. -/
def memoryUp (s : State) : State := fset (fset { s with dev := [], poison := [] } Reg.glStatus 11 0 0xFFF) Reg.glStatus 15 15 1

theorem memoryUp_spec (s : State) : memDone (memoryUp s) = true ∧ fget (memoryUp s) Reg.glStatus 11 0 = 0xFFF ∧ (memoryUp s).dev = [] ∧
    (memoryUp s).host = s.host ∧ (memoryUp s).portWait = s.portWait :=
  ⟨fbit_fset_self _ _ _ (by omega), (fget_fset_field _ _ _ (by omega) (by omega) (by omega) (by omega)).trans
    (fget_fset_self _ _ _ (by omega) (by omega)), rfl, rfl, rfl⟩

section
variable {s : State} (hb : s.barUp = true) (hh : s.halted = false) (hm : memDone s = false)
include hb hh hm

theorem memdone_ready (pcs : List (Fin 12 × Fin 64)) :
    ∃ t, exec (.memdone pcs []) s = .next t ∧ memDone t = true ∧ fget t Reg.glStatus 11 0 = 0xFFF ∧ t.dev = [] ∧ t.host = s.host ∧
      t.heldBase = [] ∧ (s.portWait = [] → fbit t Reg.glStatus 12 = true) := by
  have hexec : exec (.memdone pcs []) s = .next (portsDone (claimHeld (pcs.foldl badPc (memoryUp s)))) := by
    have hmask : ((List.range 12).filter fun m => !(([] : List (Fin 12)).any fun b => b.val == m)).foldl (fun w m => w + 2 ^ m) 0 = 0xFFF := by decide
    refine (if_neg (by simp [hb, hh, hm])).trans ?_
    rw [hmask]
    rfl
  obtain ⟨hmd, hstk, hdev, hhost, hwait⟩ := memoryUp_spec s
  have hbad : Draws (memoryUp s) (pcs.foldl badPc (memoryUp s)) :=
    List.foldlRecOn (motive := Draws _) _ _ .refl fun u hu x _ => hu.trans (badPc_draws u x)
  have hclaim := claimHeld_draws (pcs.foldl badPc (memoryUp s))
  generalize memoryUp s = u at *
  generalize pcs.foldl badPc u = v at *
  generalize claimHeld v = w at *
  have hrd : rd w Reg.glStatus = rd u Reg.glStatus := hclaim.2.trans hbad.2
  obtain ⟨hdone, hup, ⟨regs, hp⟩, hports⟩ := portsDone_ready (w := w) ((fbit_congr_rd hrd 15).trans hmd)
  refine ⟨_, hexec, hdone, hup.trans ((fget_congr_rd hrd 11 0).trans hstk), ?_, ?_, ?_, fun hs => hports ?_⟩
  · rw [hp]
    exact (hclaim.proj State.dev fun _ _ _ _ _ _ _ _ _ => rfl).trans ((hbad.proj State.dev fun _ _ _ _ _ _ _ _ _ => rfl).trans hdev)
  · rw [hp]
    exact (hclaim.proj State.host fun _ _ _ _ _ _ _ _ _ => rfl).trans ((hbad.proj State.host fun _ _ _ _ _ _ _ _ _ => rfl).trans hhost)
  · rw [hp]
    exact hclaim.proj State.heldBase fun _ _ _ _ _ _ _ _ _ => rfl
  · exact ((hclaim.proj State.portWait fun _ _ _ _ _ _ _ _ _ => rfl).trans
      ((hbad.proj State.portWait fun _ _ _ _ _ _ _ _ _ => rfl).trans hwait)).trans hs

/-- A stack that fails ends start-up: the last report, as any of STACKFAIL, quiesces the device. -/
theorem memdone_fails (pcs : List (Fin 12 × Fin 64)) {ms : List (Fin 12)} (hms : ms ≠ []) :
    ∃ t, exec (.memdone pcs ms) s = .next t ∧ fbit t Reg.glStatus 30 = true ∧ devQuiesced t = true := by
  have hexec : ∃ u : State, exec (.memdone pcs ms) s =
      .next (fset (ms.foldl (fun t (m : Fin 12) => report t (0x10 + m.val) 0x7FF 0x35 0 0 0 none) u) Reg.glStatus 30 30 1) :=
    ⟨_, (if_neg (by simp [hb, hh, hm])).trans (if_pos (by simpa using hms))⟩
  have hquiesced : ∀ u : State, devQuiesced (ms.foldl (fun t (m : Fin 12) => report t (0x10 + m.val) 0x7FF 0x35 0 0 0 none) u) = true := fun u => by
    obtain ⟨l, m, rfl⟩ := (List.eq_nil_or_concat ms).resolve_left hms
    rw [List.concat_eq_append, List.foldl_append]
    exact report_stackfail _ _
  obtain ⟨u, hexec⟩ := hexec
  exact ⟨_, hexec, fbit_fset_self _ _ _ (by omega), (fbit_fset_other _ _ _ _ _ (by decide)).trans (hquiesced u)⟩

end

theorem withPlinth_spec (u : State) (p : Plinth) : { u with plinth := p }.regs = u.regs ∧ sameMemory u { u with plinth := p } := ⟨rfl, rfl, rfl⟩

/-- GL_STATUS and GL_TIMES once every step of start-up is done. -/
theorem readyShown_spec (s : State) (ms : W32) : let u := fset (fset s Reg.glStatus 31 31 1) Reg.glTimes 63 32 ms.toNat
    fbit u Reg.glStatus 31 = true ∧ fget u Reg.glTimes 63 32 = ms.toNat ∧ sameMemory s u ∧
      ∀ o, o ≠ Reg.glStatus → o ≠ Reg.glTimes → rd u o = rd s o := by
  refine ⟨(fbit_fset_other _ _ _ _ _ (by decide)).trans (fbit_fset_self _ _ _ (by omega)), ?_, ⟨rfl, rfl⟩,
    fun o h1 h2 => (rd_fset_other _ _ _ _ h2).trans (rd_fset_other _ _ _ _ h1)⟩
  rw [fget_fset_self _ _ _ (by omega) (by omega)]
  exact Nat.mod_eq_of_lt ms.isLt

theorem ready_starts {s : State} (ms : W32) (hsteps : fget s Reg.glStatus 15 12 = 15) (hfail : fbit s Reg.glStatus 30 = false)
    (hsvc : s.plinth.svc = .startup) (hq : devQuiesced s = false) :
    ∃ t, exec (.ready ms) s = .next t ∧ fbit t Reg.glStatus 31 = true ∧ fget t Reg.glTimes 63 32 = ms.toNat ∧ t.plinth.svc = .normal ∧
      sameMemory s t ∧ ∀ o, o ≠ Reg.glStatus → o ≠ Reg.glTimes → rd t o = rd s o := by
  obtain ⟨u, hu⟩ : ∃ u, fset (fset s Reg.glStatus 31 31 1) Reg.glTimes 63 32 ms.toNat = u := ⟨_, rfl⟩
  have hexec : exec (.ready ms) s = .next { u with plinth := { u.plinth with svc := .normal } } := by
    rw [← hu]
    exact if_neg (by simp [hsteps, hfail, hsvc, hq])
  obtain ⟨hready, htimes, hmem, hrd⟩ := readyShown_spec s ms
  rw [hu] at hready htimes hmem hrd
  obtain ⟨hregs, hsame⟩ := withPlinth_spec u { u.plinth with svc := .normal }
  exact ⟨_, hexec, (fbit_congr hregs _ _).trans hready, (fget_congr hregs _ _ _).trans htimes, rfl,
    ⟨hsame.1.trans hmem.1, hsame.2.trans hmem.2⟩, fun o h1 h2 => (rd_congr hregs o).trans (hrd o h1 h2)⟩

/-! ### The Plinth's start (R325, R403) -/

/-- The journal's slot is shown. -/
theorem showJournal_shows {s : State} {b : Bool} (h : s.plinth.jsel = some b) : let t := showJournal s
    fbit t Reg.ksStatus 31 = true ∧ fbit t Reg.ksStatus 30 = b ∧ rd t Reg.ksJgen = (s.plinth.slot b).gen.toNat := by
  have hshow : showJournal s =
      (fset (fset s Reg.ksStatus 31 31 1) Reg.ksStatus 30 30 (b2n b)).setReg Reg.ksJgen (s.plinth.slot b).gen.toNat := by
    unfold showJournal
    rw [h]
  have hst : rd (showJournal s) Reg.ksStatus = rd (fset (fset s Reg.ksStatus 31 31 1) Reg.ksStatus 30 30 (b2n b)) Reg.ksStatus := by
    rw [hshow]
    exact rd_setReg_other _ _ (by decide)
  refine ⟨(fbit_congr_rd hst 31).trans ?_, (fbit_congr_rd hst 30).trans ?_, ?_⟩
  · exact (fbit_fset_field _ _ _ (by omega) (by omega) (by omega)).trans (fbit_fset_self _ _ _ (by omega))
  · rw [fbit_fset_self _ _ _ (by omega)]
    cases b <;> rfl
  · rw [hshow]
    exact (rd_setReg_self _ _ _).trans (Nat.mod_eq_of_lt (lt_of_lt_of_le (s.plinth.slot b).gen.isLt (by decide)))

/-- The main input's effect at a start of the Plinth: warnings end, and with a cool inlet the rails come up. -/
def supplied (v54 inletOk : Bool) (s1 : State) : State :=
  let s2 := if v54 then { s1 with pwrWarnN := true, inputIn := s1.inputIn || inletOk } else s1
  if v54 && inletOk && !s2.halted then { s2 with rails := true, modPwrgd := true } else s2

theorem supplied_spec (v54 inletOk : Bool) (u : State) : let t := supplied v54 inletOk u
    t.regs = u.regs ∧ t.plinth = u.plinth ∧ sameMemory u t ∧
      (v54 = true → inletOk = true → u.halted = false → t.rails = true ∧ t.modPwrgd = true) ∧
      (v54 = false ∨ inletOk = false → t.rails = u.rails) := by
  cases v54 with
  | false => exact ⟨rfl, rfl, ⟨rfl, rfl⟩, fun h => absurd h Bool.false_ne_true, fun _ => rfl⟩
  | true =>
    cases inletOk with
    | false => exact ⟨rfl, rfl, ⟨rfl, rfl⟩, fun _ h => absurd h Bool.false_ne_true, fun _ => rfl⟩
    | true =>
      cases hu : u.halted with
      | false =>
        have hon : supplied true true u = { u with pwrWarnN := true, inputIn := u.inputIn || true, rails := true, modPwrgd := true } :=
          if_pos (by simp [hu])
        rw [hon]
        exact ⟨rfl, rfl, ⟨rfl, rfl⟩, fun _ _ _ => ⟨rfl, rfl⟩, fun h => absurd h (by simp)⟩
      | true =>
        have hoff : supplied true true u = { u with pwrWarnN := true, inputIn := u.inputIn || true } := if_neg (by simp [hu])
        rw [hoff]
        exact ⟨rfl, rfl, ⟨rfl, rfl⟩, fun _ _ h => absurd h (by simp), fun h => absurd h (by simp)⟩

/-- The Plinth as it starts: up, with its journal slot and its image selected. -/
def booted (s : State) : State := { s with plinth := { s.plinth with
  up := true, jsel := selectSlot s.plinth, active := Tab.put 0 s.plinth.active 0 (bootSlot s) } }

theorem showDrawn_spec {t : State} {b : Bool} (h : t.plinth.jsel = some b) : let u := showJournal (drawKeys t)
    u.plinth = t.plinth ∧ u.halted = t.halted ∧ u.rails = t.rails ∧ sameMemory t u ∧
      fbit u Reg.ksStatus 31 = true ∧ fbit u Reg.ksStatus 30 = b ∧ rd u Reg.ksJgen = (t.plinth.slot b).gen.toNat := by
  have hdrawn : (drawKeys t).plinth = t.plinth ∧ (drawKeys t).halted = t.halted ∧ (drawKeys t).rails = t.rails ∧ sameMemory t (drawKeys t) := by
    obtain ⟨draws, sysKey, tableKey, linkKeys, hd⟩ := drawKeys_frame t
    rw [hd]
    exact ⟨rfl, rfl, rfl, rfl, rfl⟩
  generalize drawKeys t = w at *
  obtain ⟨hplinth, hhalted, hrails, hmem⟩ := hdrawn
  obtain ⟨h31, h30, hj⟩ := showJournal_shows (s := w) (hplinth ▸ h)
  obtain ⟨⟨regs, hs⟩, -⟩ := showJournal_frame w
  refine ⟨?_, ?_, ?_, ?_, h31, h30, hplinth ▸ hj⟩
  · rw [hs]
    exact hplinth
  · rw [hs]
    exact hhalted
  · rw [hs]
    exact hrails
  · rw [hs]
    exact hmem

theorem booted_spec (s : State) : (booted s).plinth.up = true ∧ (booted s).plinth.jsel = selectSlot s.plinth ∧ (∀ b, (booted s).plinth.slot b = s.plinth.slot b) ∧
    (booted s).halted = s.halted ∧ (booted s).rails = s.rails ∧ sameMemory s (booted s) := ⟨rfl, rfl, fun _ => rfl, rfl, rfl, rfl, rfl⟩

theorem plinthBoot_starts {s : State} {stby v54 inlet b : Bool} (hsup : (stby || v54) = true) (hup : s.plinth.up = false)
    (hsel : selectSlot s.plinth = some b) :
    ∃ t, exec (.plinthBoot stby v54 inlet) s = .next t ∧ t.plinth.up = true ∧ t.plinth.jsel = some b ∧ fbit t Reg.ksStatus 31 = true ∧
      fbit t Reg.ksStatus 30 = b ∧ rd t Reg.ksJgen = (s.plinth.slot b).gen.toNat ∧ sameMemory s t ∧
      (v54 = true → inlet = true → s.halted = false → t.rails = true ∧ t.modPwrgd = true) ∧ (v54 = false ∨ inlet = false → t.rails = s.rails) := by
  have hrun : exec (.plinthBoot stby v54 inlet) s = .next (supplied v54 inlet (if s.plinth.up then s else
      if (showJournal (drawKeys (booted s))).plinth.jsel.isNone then report (showJournal (drawKeys (booted s))) 12 0x003 0x64 0 0 0 none
      else showJournal (drawKeys (booted s)))) := if_neg (by simp [hsup])
  obtain ⟨hbup, hbsel, hslot, hbh, hbr, hbm⟩ := booted_spec s
  obtain ⟨hp, hh, hr, hm, h31, h30, hj⟩ := showDrawn_spec (hbsel.trans hsel)
  rw [if_neg (by simp [hup])] at hrun
  generalize booted s = t at *
  generalize showJournal (drawKeys t) = u at *
  rw [if_neg (by simp [hp, hbsel, hsel])] at hrun
  obtain ⟨hregs, hplinth, hmem, hon, hoff⟩ := supplied_spec v54 inlet u
  generalize supplied v54 inlet u = w at *
  refine ⟨w, hrun, ?_, ?_, (fbit_congr hregs _ _).trans h31, (fbit_congr hregs _ _).trans h30, ?_, ?_, fun h1 h2 h3 => hon h1 h2 (hh.trans (hbh.trans h3)),
    fun h => (hoff h).trans (hr.trans hbr)⟩
  · rw [hplinth, hp, hbup]
  · rw [hplinth, hp, hbsel, hsel]
  · rw [rd_congr hregs, hj, hslot]
  · exact ⟨hmem.1.trans (hm.1.trans hbm.1), hmem.2.trans (hm.2.trans hbm.2)⟩

/-! ### Loss of power (R352, R403) -/

theorem cutRails_spec (w : State) : let t := cutRails w
    t.pwrWarnN = w.pwrWarnN ∧ t.barUp = w.barUp ∧ t.led = w.led ∧ t.jobs = w.jobs ∧ t.rails = false ∧ t.modPwrgd = false ∧ t.dev = [] ∧ t.host = w.host ∧
      t.plinth = w.plinth := ⟨rfl, rfl, rfl, rfl, rfl, rfl, rfl, rfl, rfl⟩

/-- The device as its power goes, before the rails: Off, and the Plinth keeps the end of its log. -/
def goneOff (w : State) (tail : List W128) : State := { w with barUp := false, halted := true, plinth := { w.plinth with logTail := tail } }

theorem goneOff_spec (w : State) (tail : List W128) : let t := goneOff w tail
    t.pwrWarnN = w.pwrWarnN ∧ t.barUp = false ∧ t.led = w.led ∧ t.jobs = w.jobs ∧ t.host = w.host ∧ t.plinth.logTail = tail :=
  ⟨rfl, rfl, rfl, rfl, rfl, rfl⟩

theorem powerGone_spec (w : State) (tail : List W128) : let t := cutRails (goneOff w tail)
    t.pwrWarnN = w.pwrWarnN ∧ t.barUp = false ∧ t.led = w.led ∧ t.jobs = w.jobs ∧ t.rails = false ∧ t.modPwrgd = false ∧ t.dev = [] ∧ t.host = w.host ∧
      t.plinth.logTail = tail := by
  obtain ⟨h1, h2, h3, h4, h5, h6⟩ := goneOff_spec w tail
  generalize goneOff w tail = v at *
  obtain ⟨g1, g2, g3, g4, g5, g6, g7, g8, g9⟩ := cutRails_spec v
  exact ⟨g1.trans h1, g2.trans h2, g3.trans h3, g4.trans h4, g5, g6, g7, g8.trans h5, (congrArg Plinth.logTail g9).trans h6⟩

theorem powerDown_eq (s : State) : powerDown s =
    cutRails (goneOff (noticeSelf (stopAll { s with pwrWarnN := false, inputIn := false }))
      ((noticeSelf (stopAll { s with pwrWarnN := false, inputIn := false })).plinth.log.drop
        ((noticeSelf (stopAll { s with pwrWarnN := false, inputIn := false })).plinth.log.length - 4096))) := rfl

theorem inputGone_spec (s : State) : let u := { s with pwrWarnN := false, inputIn := false }
    u.pwrWarnN = false ∧ u.host = s.host ∧ u.plinth = s.plinth := ⟨rfl, rfl, rfl⟩

theorem powerDown_stops (s : State) : let t := powerDown s
    t.pwrWarnN = false ∧ t.barUp = false ∧ nothingRuns t ∧ t.rails = false ∧ t.modPwrgd = false ∧ t.dev = [] ∧ t.host = s.host ∧
      t.plinth.logTail = s.plinth.log.drop (s.plinth.log.length - 4096) := by
  rw [powerDown_eq]
  obtain ⟨hpw, hhost, hplinth⟩ := inputGone_spec s
  obtain ⟨u, hu⟩ : ∃ u : State, { s with pwrWarnN := false, inputIn := false } = u := ⟨_, rfl⟩
  rw [hu] at hpw hhost hplinth ⊢
  obtain ⟨⟨hled, hjobs⟩, hfrees⟩ := stopAll_spec u
  have hnoted := noticeSelf_noted (stopAll u)
  obtain ⟨gpw, gbar, gled, gjobs, grails, gmod, gdev, ghost, glog⟩ := powerGone_spec (noticeSelf (stopAll u))
    ((noticeSelf (stopAll u)).plinth.log.drop ((noticeSelf (stopAll u)).plinth.log.length - 4096))
  have hlog : (noticeSelf (stopAll u)).plinth.log = s.plinth.log := (hnoted.proj (·.plinth.log) fun _ _ _ _ => rfl).trans
    (congrArg Plinth.log ((hfrees.proj State.plinth fun _ _ _ _ _ _ _ _ _ _ _ => rfl).trans hplinth))
  refine ⟨gpw.trans ((hnoted.proj State.pwrWarnN fun _ _ _ _ => rfl).trans ((hfrees.proj State.pwrWarnN fun _ _ _ _ _ _ _ _ _ _ _ => rfl).trans hpw)),
    gbar, ⟨gled.trans ((hnoted.proj State.led fun _ _ _ _ => rfl).trans hled), gjobs.trans ((hnoted.proj State.jobs fun _ _ _ _ => rfl).trans hjobs)⟩,
    grails, gmod, gdev,
    ghost.trans ((hnoted.proj State.host fun _ _ _ _ => rfl).trans ((hfrees.proj State.host fun _ _ _ _ _ _ _ _ _ _ _ => rfl).trans hhost)), ?_⟩
  rw [glog, hlog]

/-- Settles O51: a device reset, and each step of start-up. -/
theorem resetsAndStartUp : Obligations.ResetsAndStartUp := by
  unfold Obligations.ResetsAndStartUp
  refine ⟨fun s c hc => ?_, fun s => ⟨fun ms cs ds => perstRelease_starts ms cs ds, fun pcs ms hb hh hm => ⟨?_, memdone_fails hb hh hm pcs⟩,
    fun ms => ready_starts ms, fun stby v54 inlet b => plinthBoot_starts, fun c hc hw => ?_, fun us hus => ?_⟩⟩
  · rcases hc with rfl | rfl
    · obtain ⟨hrd, hrun, h1, h2, h3, h4, h5, h6, h7, h8, h9, h10, h11, h12, h13, h14, h15, h16, hsvc, -⟩ := deviceReset_resets s
      exact ⟨_, rfl, hrd, hrun, h1, h2, h3, h4, h5, h6, h7, h8, h9, h10, h11, h12, h13, h14, h15, h16, hsvc, fun h => nomatch h⟩
    · obtain ⟨hrd, hrun, h1, h2, h3, h4, h5, h6, h7, h8, h9, h10, h11, h12, h13, h14, h15, h16, hsvc, hp⟩ := deviceReset_resets { s with perstN := false }
      exact ⟨_, rfl, hrd, hrun, h1, h2, h3, h4, h5, h6, h7, h8, h9, h10, h11, h12, h13, h14, h15, h16, hsvc, fun _ => hp⟩
  · rintro rfl
    exact memdone_ready hb hh hm pcs
  · have hexec : exec c s = .next (powerDown s) := by
      rcases hc with rfl | rfl
      · exact congrArg _ (if_pos hw)
      · exact congrArg _ (if_pos hw)
    exact ⟨_, hexec, powerDown_stops s⟩
  · refine ⟨_, rfl, ?_⟩
    rw [if_neg (by omega)]
    exact ⟨rfl, ⟨rfl, rfl⟩, rfl, rfl, rfl, rfl, rfl, rfl, rfl, rfl, rfl⟩

end Sys2Proof.Proofs
end

section
/-! PROOFS. Sessions and reports of Ecneuz: O52. -/

namespace Sys2Proof.Proofs
open Sys2Proof.Machine

/-! ### A command of a session (R362 to R366) -/

theorem ecCmd_ready {s : State} {h : EcHdr} {x : Session} {cmd len : Nat} {control g : Bool} (hready : ecReady s h x cmd len control g)
    {formOk : Bool} (hform : formOk = true) (f : State → State × Nat × List Byte) :
    ecCmd s h cmd control g len formOk f = .next (respond (f s).1 h cmd (f s).2.1 (f s).2.2) := by
  obtain ⟨hon, hsess, hrole, hver, htype, hrsvd, hlen, hmax, hperm, hsealed⟩ := hready
  have hnotSealed : (sealed s && (cmd == 0x41 || cmd == 0x42)) = false := by
    cases hs : sealed s with
    | false => rfl
    | true => simp [hsealed hs]
  have hmay : (control && x.role != .control) = false := by
    cases control with
    | false => rfl
    | true => simp [hrole rfl]
  unfold ecCmd
  rw [hon, hsess]
  dsimp only
  rw [if_neg (by simp [hver, htype, hrsvd, hlen, hmax, hform]), hmay, if_neg Bool.false_ne_true, hperm, hnotSealed, if_neg (by simp)]

/-! ### Reports (R363, R368) -/

section
variable {s : State} {h : EcHdr} {x : Session}

theorem ident_answers (hr : ecReady s h x 0x01 0 false true) :
    ∃ bs, exec (.ident h) s = .next (respond s h 0x01 0 bs) ∧ bs.length = 59 ∧ bs.take 7 = ascii "MDN-T25" := by
  have hseven : (ascii "MDN-T25").length = 7 := by decide
  show ∃ bs, execIdent h s = _ ∧ _
  unfold execIdent
  rw [ecCmd_ready hr rfl]
  refine ⟨_, rfl, ?_, ?_⟩
  · simp [List.flatMap, List.range, List.range.loop, hseven]
  · simp only [List.append_assoc]
    rw [List.take_append_of_le_length (by rw [hseven]), ← hseven, List.take_length]

theorem attest_answers (hr : ecReady s h x 0x02 32 false true) (nonce : BitVec 256) : exec (.attest h nonce) s =
    .next (respond s h 0x02 0 ((List.range 5).flatMap (fun k => (measurement s (k + 1)).getD []) ++ Config.sign Config.identityKey
      (leBytes 32 nonce.toNat ++ (List.range 5).flatMap fun k => (measurement s (k + 1)).getD []))) := by
  show execAttest h nonce s = _
  unfold execAttest
  rw [ecCmd_ready hr rfl]

theorem certs_answers (hr : ecReady s h x 0x03 0 false true) :
    exec (.certs h) s = .next (respond s h 0x03 0 (Config.measure 0 ++ Config.measure 6)) := by
  show execCerts h s = _
  unfold execCerts
  rw [ecCmd_ready hr rfl]

theorem telem_answers (hr : ecReady s h x 0x11 4 false true) (mask : W32) : exec (.telem h mask) s =
    .next (respond s h 0x11 0 ((s.plinth.sensors.filter fun y => bit mask.toNat y.group.toNat).flatMap sensorRec)) := by
  show execTelem h mask s = _
  unfold execTelem
  rw [ecCmd_ready hr rfl]

theorem length_logRecords (ms : List W128) (f : W128 → Nat) : (ms.flatMap fun m => leBytes 16 (f m)).length = 16 * ms.length := by
  induction ms with
  | nil => rfl
  | cons m ms ih =>
    rw [List.flatMap_cons, List.length_append, ih, length_leBytes, List.length_cons]
    omega

theorem hideAddr_unsealed (hs : sealed s = false) (m : Nat) : hideAddr s m = false := by
  unfold hideAddr
  rw [hs]
  rfl

theorem logread_answers (hr : ecReady s h x 0x10 6 false true) (first : W32) (count : W16) (hc : count.toNat ≤ 4096)
    (hb : s.plinth.logBase ≤ first.toNat) :
    ∃ bs, exec (.logread h first count) s = .next (respond s h 0x10 0 bs) ∧
      bs.length = 16 * min count.toNat (s.plinth.log.length - (first.toNat - s.plinth.logBase)) ∧
      (sealed s = false → bs = ((s.plinth.log.drop (first.toNat - s.plinth.logBase)).take count.toNat).flatMap fun m => leBytes 16 m.toNat) := by
  show ∃ bs, execLogread h first count s = _ ∧ _
  unfold execLogread
  rw [ecCmd_ready hr (decide_eq_true hc)]
  refine ⟨_, rfl, ?_, fun hs => ?_⟩
  · rw [length_logRecords, List.length_take, List.length_drop, if_neg (by omega)]
  · dsimp only
    rw [if_neg (by omega)]
    simp only [hideAddr_unsealed hs, Bool.false_eq_true, if_false]

theorem subscribe_answers (hr : ecReady s h x 0x12 3 false false) (level : Byte) (iv : W16) :
    ∃ t, exec (.subscribe h level iv) s = .next (respond t h 0x12 0 []) ∧
      Tab.find t.plinth.sessions h.sess = some { x with level := level.toNat, interval := iv.toNat } ∧ t.regs = s.regs ∧ t.out = s.out ∧
      sameMemory s t := by
  have hsess := hr.2.1
  refine ⟨{ s with plinth := { s.plinth with sessions := Tab.insert s.plinth.sessions h.sess { x with level := level.toNat, interval := iv.toNat } } },
    ?_, Tab.find_insert_self _ _ _, rfl, rfl, rfl, rfl⟩
  show execSubscribe h level iv s = _
  unfold execSubscribe
  rw [ecCmd_ready hr rfl]
  dsimp only
  rw [hsess]
  rfl

theorem telemetryEvent_sends (hon : plinthOn s = true) {k : Fin 4} (l : List Sensor) (hk : Tab.find s.plinth.sessions k = some x)
    (hiv : x.interval ≠ 0) :
    ∃ t, exec (.telemetryEvent k l) s = .next t ∧ t.plinth.sensors = l ∧ t.out = s.out ++ [.ecEvent k 0x11 x.evSeq (l.flatMap sensorRec)] ∧
      Tab.find t.plinth.sessions k = some { x with evSeq := x.evSeq + 1 } ∧ t.regs = s.regs ∧ sameMemory s t := by
  have hexec : exec (.telemetryEvent k l) s =
      .next (sessEvent { s with plinth := { s.plinth with sensors := l } } k x 0x11 (l.flatMap sensorRec)) := by
    refine (if_neg (by simp [hon])).trans (congrArg _ ?_)
    dsimp only
    rw [hk]
    exact if_neg hiv
  exact ⟨_, hexec, rfl, rfl, Tab.find_insert_self _ _ _, rfl, rfl, rfl⟩

theorem procstat_answers (hr : ecReady s h x 0x63 2 false true) {n : W16} {p : Proc}
    (hp : s.plinth.procs.find? (fun p => p.num == n.toNat) = some p) :
    exec (.procstat h n) s = .next (respond s h 0x63 0 (procPayload s p)) := by
  have hany : (s.plinth.procs.any fun p => p.num == n.toNat) = true :=
    List.any_eq_true.mpr ⟨p, List.mem_of_find?_eq_some hp, List.find?_some (p := fun p : Proc => p.num == n.toNat) hp⟩
  show execProcstat h n s = _
  unfold execProcstat
  rw [ecCmd_ready hr hany]
  dsimp only
  rw [hp]
  rfl

theorem armatureConnect_accepts {c : TlsHello} {k : Nat} (hc : clientOk s c = true)
    (hk : [0, 1, 2, 3].find? (fun k => (Tab.find s.plinth.sessions k).isNone) = some k) :
    ∃ t, exec (.armatureConnect c) s = .next t ∧
      Tab.find t.plinth.sessions k = some { role := if c.anchor = some 0 then Role.control else Role.observe } ∧ t.out = s.out ∧ t.regs = s.regs ∧
      sameMemory s t := by
  refine ⟨{ s with plinth := { s.plinth with sessions := Tab.insert s.plinth.sessions k { role := if c.anchor = some 0 then Role.control else Role.observe } } },
    ?_, Tab.find_insert_self _ _ _, rfl, rfl, rfl, rfl⟩
  show execArmatureConnect c s = _
  unfold execArmatureConnect
  rw [hc, hk]

theorem pldmAnchorInstall_installs (hon : plinthOn s = true) {slot : Byte} {cert : List Byte} (hslot : slot.toNat < 2)
    (hnone : Tab.find s.plinth.anchors slot.toNat = none) (hcert : cert ≠ []) :
    ∃ t, exec (.pldmAnchorInstall slot cert) s = .next t ∧ Tab.find t.plinth.anchors slot.toNat = some cert ∧ t.regs = s.regs ∧ sameMemory s t := by
  have hexec : exec (.pldmAnchorInstall slot cert) s =
      .next (State.emit { s with plinth := { s.plinth with anchors := Tab.insert s.plinth.anchors slot.toNat cert } } (.mctp [0x3F#8, 0#8])) :=
    (if_neg (by simp [hon])).trans (if_pos ⟨hslot, by rw [hnone]; rfl, hcert⟩)
  exact ⟨_, hexec, Tab.find_insert_self _ _ _, rfl, rfl, rfl⟩

end

/-- Settles O52: sessions, and what each report answers. -/
theorem plinthReports : Obligations.PlinthReports := by
  unfold Obligations.PlinthReports
  intro s h x
  refine ⟨fun c k => armatureConnect_accepts, fun c hc => ?_, ident_answers, fun hr nonce => ⟨_, rfl, attest_answers hr nonce⟩,
    certs_answers, logread_answers, telem_answers, subscribe_answers,
    fun hon k l => telemetryEvent_sends hon l, fun hr n p => procstat_answers hr, fun hon => ⟨if_neg (by simp [hon]), if_neg (by simp [hon]),
      fun data => if_neg (by simp [hon]), fun slot cert hs hn hc => pldmAnchorInstall_installs hon hs hn hc⟩⟩
  show execArmatureConnect c s = _
  unfold execArmatureConnect
  rw [hc]

end Sys2Proof.Proofs
end

section
/-! PROOFS. Control operations of Ecneuz: O53. -/

namespace Sys2Proof.Proofs
open Sys2Proof.Machine

/-! ### What holds the keys (R309, R330) -/

/-- What holds the keys, and KS_STATUS. -/
def vault (s : State) : (Tab KeyEnt × Tab KeyEnt × KeyEnt) × Tab Byte × BitVec 256 × BitVec 256 × Nat :=
  ((s.ktab, s.ikeys, s.migKey), s.kcache, s.sysKey, s.tableKey, rd s Reg.ksStatus)

theorem vault_keyEnt {s t : State} (h : vault t = vault s) (id : KeyId) : keyEnt t id = keyEnt s id := by
  simp only [vault, Prod.mk.injEq] at h
  obtain ⟨hk, -⟩ := h
  exact SameKeys.keyEnt hk id

theorem vault_fset (s : State) {off : Nat} (hi lo v : Nat) (h : Reg.ksStatus ≠ off) : vault (fset s off hi lo v) = vault s := by
  unfold vault
  rw [rd_fset_other _ _ _ _ h]
  rfl

theorem ksStatus_ne_isRemove (i : Nat) : Reg.ksStatus ≠ Reg.isRemove i := by
  unfold Reg.ksStatus Reg.isRemove
  omega

theorem ksStatus_ne_qmInststat (i : Inst) : Reg.ksStatus ≠ Reg.qmInststat i := by
  unfold Reg.ksStatus Reg.qmInststat
  omega

theorem Noticed.vault {s t : State} (h : Noticed s t) : vault t = vault s := h.proj Proofs.vault fun _ _ _ _ _ => rfl

theorem Cut.vault {s t : State} (h : Cut s t) : vault t = vault s := by
  have hrd : rd t Reg.ksStatus = rd s Reg.ksStatus := h.2.1 _ (by decide) fun p => by
    unfold Reg.ksStatus Reg.adSwapstat
    omega
  have hkeys := h.sameKeys
  have hcache : (t.kcache, t.sysKey, t.tableKey) = (s.kcache, s.sysKey, s.tableKey) :=
    h.proj (fun u => (u.kcache, u.sysKey, u.tableKey)) fun _ _ _ _ _ _ _ _ _ _ _ _ _ _ _ _ _ _ _ _ _ _ _ _ _ _ => rfl
  obtain ⟨hk, hi, hm⟩ := hkeys
  simp only [Prod.mk.injEq] at hcache
  obtain ⟨hc, hs, ht⟩ := hcache
  unfold Proofs.vault
  rw [hrd, hk, hi, hm, hc, hs, ht]

theorem resetMarked_vault (u : State) (i : Inst) : vault (resetMarked u i) = vault u := by
  have hne := ksStatus_ne_qmInststat i
  unfold resetMarked
  rw [vault_fset _ _ _ _ hne, vault_fset _ _ _ _ hne, vault_fset _ _ _ _ hne]
  rfl

theorem instanceReset_vault (s : State) (i : Inst) (cause : Nat) : vault (instanceReset s i cause) = vault s := by
  obtain ⟨u, hn, -, hc, -⟩ := instanceReset_noticed s i cause
  rw [hn.vault, resetMarked_vault, hc.vault]

theorem keysOf_active_idle {s : State} (h : ∀ id, (keyEnt s id).st ≠ .active) (l : List Nat) :
    l.foldl (fun t g => beginRetire t (.adapter (BitVec.ofNat 16 g))) s = s := by
  induction l with
  | nil => rfl
  | cons g l ih => rw [List.foldl_cons, beginRetire_idle (h _), ih]

/-- With no active key a removal's start retires nothing. -/
theorem startRemoval_vault {s : State} (h : ∀ id, (keyEnt s id).st ≠ .active) (i : Inst) : vault (startRemoval s i) = vault s := by
  have hmark : vault (fset (instanceReset s i 0) (Reg.isRemove i) 29 28 1) = vault s :=
    (vault_fset _ _ _ _ (ksStatus_ne_isRemove i)).trans (instanceReset_vault s i 0)
  have hidle : ∀ id, (keyEnt (fset (instanceReset s i 0) (Reg.isRemove i) 29 28 1) id).st ≠ .active := fun id => by
    rw [vault_keyEnt hmark]
    exact h id
  unfold startRemoval
  split
  · rfl
  · dsimp only
    rw [beginRetire_idle (hidle _), keysOf_active_idle hidle]
    exact hmark

theorem endSeal_vault (s : State) : vault (endSeal s) = vault s := by
  have hne : Reg.ksStatus ≠ Reg.isSealctl := by decide
  have hoff : vault (fset (fset (fset s Reg.isSealctl 31 31 0) Reg.isSealctl 29 29 0) Reg.isSealctl 15 0 0) = vault s := by
    rw [vault_fset _ _ _ _ hne, vault_fset _ _ _ _ hne, vault_fset _ _ _ _ hne]
  have hclosed : ∀ u : State, vault { u with unsealing := false, sealCert := 0#384, ideKeys := [] } = vault u := fun _ => rfl
  unfold endSeal
  dsimp only
  split
  · exact (hclosed _).trans hoff
  · rfl

theorem removalStep_vault (s : State) (i : Nat) : vault (removalStep s i) = vault s := by
  have hgiven : vault (pagesGiven s i) = vault s := by
    have hempty : ∀ u, vault (tablesEmptied u s i) = vault u := fun u => by
      obtain ⟨_, _, _, _, _, _, _, _, _, _, _, _, ht⟩ := tablesEmptied_frame u s i
      rw [ht]
      rfl
    have hinst : ∀ (u : State) (f : InstX → InstX), vault (u.updInst i f) = vault u := fun _ _ => rfl
    unfold pagesGiven
    rw [hinst, hempty, vault_fset _ _ _ _ (ksStatus_ne_isRemove i)]
    rfl
  have hclosed : ∀ u, vault (removalClosed u i) = vault u := fun u => by
    unfold removalClosed
    rw [endSeal_vault, (noticed_notify _ _ _ _).vault, vault_fset _ _ _ _ (ksStatus_ne_isRemove i)]
    rfl
  obtain ⟨u, hu, hstep⟩ := removalStep_cases s i
  have h1 : vault u = vault s := by
    obtain rfl | rfl := hu
    · rfl
    · exact hgiven
  obtain hs | hs := hstep
  · rw [hs, h1]
  · rw [hs, hclosed, h1]

theorem beginUnseal_vault {s : State} (h : ∀ id, (keyEnt s id).st ≠ .active) : vault (beginUnseal s) = vault s := by
  have hstart : ∀ l : List Nat, vault (l.foldl (fun t i => startRemoval t (fin 15 i)) s) = vault s := fun l =>
    List.foldlRecOn (motive := fun u => vault u = vault s) l _ rfl fun u hu i _ =>
      (startRemoval_vault (fun id => vault_keyEnt hu id ▸ h id) _).trans hu
  unfold beginUnseal
  rw [endSeal_vault]
  exact List.foldlRecOn (motive := fun u => vault u = vault s) _ _ (hstart _) fun u hu i _ => (removalStep_vault u i).trans hu

/-! ### Zeroise (R329, R330) -/

/-- A key's entry once it is zeroised. -/
def wiped (e : KeyEnt) : KeyEnt := { e with
  key := 0#256
  st := if e.st == .absent then .absent else .retired
  lastret := if e.st == .active || e.st == .retiring then e.keygen else e.lastret }

theorem get_wiped (tab : Tab KeyEnt) (k : Nat) : Tab.get {} (tab.map fun kv => (kv.1, wiped kv.2)) k = wiped (Tab.get {} tab k) := Tab.get_map rfl tab k

theorem zeroiseKeys_keyEnt (s : State) (id : KeyId) : keyEnt (zeroiseKeys s) id = wiped (keyEnt s id) := by
  cases id with
  | adapter t => exact get_wiped s.ktab t.toNat
  | instance_ i => exact get_wiped s.ikeys i.val
  | migration => rfl

/-- The vault after a zeroise: no key is active and every one is 0. -/
theorem zeroiseKeys_spec (s : State) : let u := zeroiseKeys s
    (∀ id, (keyEnt u id).key = 0#256) ∧ (∀ id, (keyEnt u id).st ≠ .active) ∧ u.kcache = [] ∧ u.sysKey = 0#256 ∧ u.tableKey = 0#256 ∧
      fbit u Reg.ksStatus 29 = true := by
  refine ⟨fun id => ?_, fun id => ?_, rfl, rfl, rfl, fbit_fset_self _ _ _ (by omega)⟩
  · rw [zeroiseKeys_keyEnt]
    rfl
  · rw [zeroiseKeys_keyEnt]
    show (if (keyEnt s id).st == .absent then KState.absent else .retired) ≠ .active
    split
    · exact KState.noConfusion
    · exact KState.noConfusion

theorem toRecovery_told (s : State) : Told { s with plinth := { s.plinth with svc := .recovery } } (toRecovery s) := Told.refl.abandonProcs _

theorem toRecovery_vault (s : State) : vault (toRecovery s) = vault s := by
  have hsvc : ∀ p, vault { s with plinth := p } = vault s := fun _ => rfl
  exact ((toRecovery_told s).proj vault fun _ _ _ _ => rfl).trans (hsvc _)

theorem toRecovery_svc (s : State) : (toRecovery s).plinth.svc = .recovery := (toRecovery_told s).proj (·.plinth.svc) fun _ _ _ _ => rfl

/-! ### The operations (R355, R363, R366) -/

section
variable {s : State} {h : EcHdr} {x : Session}

theorem zeroise_wipes (hr : ecReady s h x 0x24 0 true true) :
    ∃ t, exec (.zeroise h) s = .next (respond t h 0x24 0 []) ∧ (∀ k, (keyEnt t k).key = 0#256) ∧ t.kcache = [] ∧
      t.sysKey = 0#256 ∧ t.tableKey = 0#256 ∧ fbit t Reg.ksStatus 29 = true ∧ t.plinth.svc = .recovery := by
  obtain ⟨hkeys, hactive, hcache, hsys, htable, h29⟩ := zeroiseKeys_spec s
  have hv : vault (toRecovery (if sealed (zeroiseKeys s) then beginUnseal (zeroiseKeys s) else zeroiseKeys s)) = vault (zeroiseKeys s) := by
    rw [toRecovery_vault]
    split
    · exact beginUnseal_vault hactive
    · rfl
  have hsvc := toRecovery_svc (if sealed (zeroiseKeys s) then beginUnseal (zeroiseKeys s) else zeroiseKeys s)
  have hexec : exec (.zeroise h) s = .next (respond
      (toRecovery (if sealed (zeroiseKeys s) then beginUnseal (zeroiseKeys s) else zeroiseKeys s)) h 0x24 0 []) := by
    show execZeroise h s = _
    unfold execZeroise
    rw [ecCmd_ready hr rfl]
    rfl
  refine ⟨_, hexec, fun k => (congrArg KeyEnt.key (vault_keyEnt hv k)).trans (hkeys k), ?_⟩
  simp only [vault, Prod.mk.injEq] at hv
  obtain ⟨-, hc, hs, ht, hrd⟩ := hv
  exact ⟨hc.trans hcache, hs.trans hsys, ht.trans htable, (fbit_congr_rd hrd 29).trans h29, hsvc⟩

/-- The cores named are idle; nothing else changes. -/
theorem idleCores_frame (l : List Nat) (s : State) : ∃ cores, l.foldl (fun u k => u.updCore k Core.idle) s = { s with cores := cores } := by
  refine List.foldlRecOn (motive := fun u : State => ∃ cores, u = { s with cores := cores }) _ _ ⟨_, rfl⟩ fun u hu k _ => ?_
  obtain ⟨_, rfl⟩ := hu
  exact ⟨_, rfl⟩

theorem instreset_resets (hr : ecReady s h x 0x20 1 true true) (i : Inst) (b : Byte) (late : Bool) (hb : b.toNat = i.val) :
    ∃ t, exec (.instreset h b late) s = .next (respond t h 0x20 0 []) ∧
      (∀ o ∈ t.ops, o.inst ≠ i) ∧ (∀ e ∈ t.led, e.2.inst ≠ i) ∧ (∀ r : RingId, t.ring i r = {}) ∧ fbit t (Reg.qmInststat i) 2 = true ∧
      sameMemory s t := by
  obtain ⟨hempty, hrings, -, hdone, -⟩ := instanceReset_empties (s := s) (i := i) (cause := 0) rfl
  obtain ⟨hdev, hhost, -, -, -⟩ := instanceReset_kept (s := s) (i := i.val) (cause := 0) rfl
  obtain ⟨cores, hcores⟩ := idleCores_frame
    ((List.range 144).filter fun k => late && (itemOf s k).any fun y => y.2.inst.val == i.val) (instanceReset s i 0)
  have hexec : exec (.instreset h b late) s = .next (respond (((List.range 144).filter fun k => late && (itemOf s k).any fun y =>
      y.2.inst.val == i.val).foldl (fun u k => u.updCore k Core.idle) (instanceReset s i 0)) h 0x20 0 []) := by
    show execInstreset h b late s = _
    unfold execInstreset
    rw [hb, ecCmd_ready hr (decide_eq_true i.isLt)]
    dsimp only [ok]
  rw [hcores] at hexec
  obtain ⟨hops, -, hled⟩ := hempty
  generalize instanceReset s i 0 = u at *
  exact ⟨_, hexec, fun o ho he => hops o ho (congrArg Fin.val he), fun e he hi => hled e he (congrArg Fin.val hi), hrings, hdone, hdev, hhost⟩

theorem quiesce_quiesces (hr : ecReady s h x 0x21 0 true true) :
    ∃ t, exec (.quiesce h) s = .next (respond t h 0x21 0 []) ∧ devQuiesced t = true ∧
      (devQuiesced s = false → nothingRuns t ∧ t.plinth.svc = .recovery) ∧ sameMemory s t := by
  obtain ⟨hq, hstop⟩ := quiesceDevice_spec s
  refine ⟨quiesceDevice s, ?_, hq, hstop, (quiesceDevice_wound s).mem⟩
  show execQuiesce h s = _
  unfold execQuiesce
  rw [ecCmd_ready hr rfl]
  rfl

theorem halt_halts (hr : ecReady s h x 0x22 0 true true) :
    ∃ t, exec (.halt h) s = .next (respond t h 0x22 0 []) ∧ t.halted = true ∧ t.rails = false ∧ t.dev = [] ∧ t.host = s.host ∧
      ∀ p : Port, fbit t (Reg.fbPortctl p) 31 = false := by
  obtain ⟨-, hhalt, hrails, hdev, hhost, -, hports⟩ := haltDevice_spec s
  refine ⟨haltDevice s, ?_, hhalt, hrails, hdev, hhost, hports⟩
  show execHalt h s = _
  unfold execHalt
  rw [ecCmd_ready hr rfl]
  rfl

theorem cutCompute_spec (u : State) : let t := cutCompute u
    t.rails = false ∧ t.cores = [] ∧ t.led = u.led ∧ t.jobs = u.jobs ∧ sameMemory u t := ⟨rfl, rfl, rfl, rfl, rfl, rfl⟩

theorem railcut_cuts (hr : ecReady s h x 0x23 0 true true) :
    ∃ t, exec (.railcut h) s = .next (respond t h 0x23 0 []) ∧ t.rails = false ∧ t.cores = [] ∧ nothingRuns t ∧ t.plinth.svc = .recovery ∧
      sameMemory s t := by
  obtain ⟨⟨hled, hjobs⟩, hfrees⟩ := stopAll_spec s
  obtain ⟨grails, gcores, gled, gjobs, gmem⟩ := cutCompute_spec (stopAll s)
  have htold := toRecovery_told (cutCompute (stopAll s))
  have hmem : sameMemory s (stopAll s) := hfrees.wound.mem
  have hexec : exec (.railcut h) s = .next (respond (toRecovery (cutCompute (stopAll s))) h 0x23 0 []) := by
    show execRailcut h s = _
    unfold execRailcut
    rw [ecCmd_ready hr rfl]
    rfl
  refine ⟨_, hexec, ?_, ?_, ⟨?_, ?_⟩, toRecovery_svc _, ?_, ?_⟩
  · exact (htold.proj State.rails fun _ _ _ _ => rfl).trans grails
  · exact (htold.proj State.cores fun _ _ _ _ => rfl).trans gcores
  · exact (htold.proj State.led fun _ _ _ _ => rfl).trans (gled.trans hled)
  · exact (htold.proj State.jobs fun _ _ _ _ => rfl).trans (gjobs.trans hjobs)
  · exact (htold.proj State.dev fun _ _ _ _ => rfl).trans (gmem.1.trans hmem.1)
  · exact (htold.proj State.host fun _ _ _ _ => rfl).trans (gmem.2.trans hmem.2)

theorem faultack_acks (hr : ecReady s h x 0x26 3 true false) (c : Byte) (sc : W16) (k : EscKey) (hc : c.toNat < 16)
    (hk : s.esc.find? (keyEq c.toNat sc.toNat) = some k) (hl : 3 ≤ k.level) :
    ∃ t, exec (.faultack h c sc) s = .next (respond t h 0x26 0 []) ∧ notPending t c.toNat sc.toNat ∧ t.led = s.led ∧ t.regs = s.regs ∧
      sameMemory s t := by
  have hack : ackKey s c.toNat sc.toNat = (pinAlert { s with esc := s.esc.filter fun y => !keyEq c.toNat sc.toNat y }, true) := by
    unfold ackKey
    rw [hk]
    exact if_pos hl
  obtain ⟨alertN, out, hpin⟩ := pinAlert_frame { s with esc := s.esc.filter fun y => !keyEq c.toNat sc.toNat y }
  have hexec : exec (.faultack h c sc) s =
      .next (respond (pinAlert { s with esc := s.esc.filter fun y => !keyEq c.toNat sc.toNat y }) h 0x26 0 []) := by
    show execFaultack h c sc s = _
    unfold execFaultack
    rw [ecCmd_ready hr (decide_eq_true hc)]
    dsimp only
    rw [hack]
    rfl
  rw [hpin] at hexec
  refine ⟨_, hexec, fun y hy hcls hscope => ?_, rfl, rfl, rfl, rfl⟩
  have hne := (List.mem_filter.mp hy).2
  simp [keyEq, hcls, hscope] at hne

/-- The Plinth in a service state. -/
def inSvc (s : State) (y : Svc) : State := { s with plinth := { s.plinth with svc := y } }

/-- What SVCSTATE does and answers (R366). -/
def svcMove (s : State) (new : Nat) : State × Nat × List Byte :=
  match new, s.plinth.svc with
  | 3, _ => ok (inSvc s .recovery)
  | 2, .normal => ok (inSvc s .test)
  | 1, .test => ok (inSvc s .normal)
  | 1, .recovery => if deepPending s then (s, 3, []) else ok (inSvc s .normal)
  | _, _ => (s, 3, [])

theorem svcstate_moves (hr : ecReady s h x 0x30 1 true false) {new : Byte} (hn : new.toNat < 4) {t : State} {status : Nat} {bs : List Byte}
    (hm : svcMove s new.toNat = (t, status, bs)) : exec (.svcstate h new) s = .next (respond t h 0x30 status bs) := by
  have hexec : execSvcstate h new s = .next (respond (svcMove s new.toNat).1 h 0x30 (svcMove s new.toNat).2.1 (svcMove s new.toNat).2.2) :=
    ecCmd_ready hr (decide_eq_true hn) fun t => svcMove t new.toNat
  rw [hm] at hexec
  exact hexec

theorem svcMove_test (hn : s.plinth.svc = .normal) : svcMove s 2 = ok (inSvc s .test) := by
  unfold svcMove
  rw [hn]
  rfl

theorem svcMove_normal (hn : s.plinth.svc = .test ∨ s.plinth.svc = .recovery ∧ deepPending s = false) : svcMove s 1 = ok (inSvc s .normal) := by
  unfold svcMove
  rcases hn with hn | ⟨hn, hd⟩
  · rw [hn]
    rfl
  · rw [hn]
    exact if_neg (by simp [hd])

theorem svcMove_refused (hn : s.plinth.svc = .recovery) (hd : deepPending s = true) : svcMove s 1 = (s, 3, []) := by
  unfold svcMove
  rw [hn]
  exact if_pos hd

end

/-- Settles O53: what each operation answers and leaves. -/
theorem plinthControls : Obligations.PlinthControls := by
  unfold Obligations.PlinthControls
  intro s h x
  refine ⟨instreset_resets, quiesce_quiesces, halt_halts, railcut_cuts, zeroise_wipes, fun hr => ?_, faultack_acks,
    fun hr => ⟨⟨inSvc s .recovery, svcstate_moves hr (new := 3#8) (by decide) rfl, rfl⟩,
      fun hn => ⟨inSvc s .test, svcstate_moves hr (new := 2#8) (by decide) (svcMove_test hn), rfl⟩,
      fun hn => ⟨inSvc s .normal, svcstate_moves hr (new := 1#8) (by decide) (svcMove_normal hn), rfl⟩,
      fun hn hd => svcstate_moves hr (new := 1#8) (by decide) (svcMove_refused hn hd)⟩⟩
  show execDevreset h s = _
  unfold execDevreset
  rw [ecCmd_ready hr rfl]
  rfl

end Sys2Proof.Proofs
end

section
/-! PROOFS. Images, procedures and the Plinth's handover: O54. -/

namespace Sys2Proof.Proofs
open Sys2Proof.Machine

/-! ### Procedures (R378) -/

theorem setProc_procs (s : State) (p : Proc) : (setProc s p).plinth.procs = s.plinth.procs.map fun x => if x.num = p.num then p else x := by
  have hsess : ∀ (l : List (Nat × Session)) (bs : List Byte) (u : State),
      (l.foldl (fun t x => sessEvent t x.1 x.2 0x63 bs) u).plinth.procs = u.plinth.procs := fun l bs u =>
    List.foldlRecOn (motive := fun t : State => t.plinth.procs = u.plinth.procs) l _ rfl fun _ ht _ _ => ht
  unfold setProc
  dsimp only
  split
  · exact hsess _ _ _
  · rfl

/-- Only the Plinth and the output changed, and not the Plinth's images, journal and anchors. -/
def PlinthTold (s t : State) : Prop :=
  ∃ procs procNum sessions out, t = { s with plinth := { s.plinth with procs := procs, procNum := procNum, sessions := sessions }, out := out }

theorem PlinthTold.proj {s t : State} (h : PlinthTold s t) {α : Type} (π : State → α)
    (hπ : ∀ (u : State) procs procNum sessions out,
      π { u with plinth := { u.plinth with procs := procs, procNum := procNum, sessions := sessions }, out := out } = π u) : π t = π s := by
  obtain ⟨_, _, _, _, rfl⟩ := h
  exact hπ _ _ _ _ _

theorem PlinthTold.mem {s t : State} (h : PlinthTold s t) : sameMemory s t :=
  ⟨h.proj State.dev fun _ _ _ _ _ => rfl, h.proj State.host fun _ _ _ _ _ => rfl⟩

theorem PlinthTold.regs {s t : State} (h : PlinthTold s t) : t.regs = s.regs := h.proj State.regs fun _ _ _ _ _ => rfl

/-- A procedure as it starts. -/
def procStarted (s : State) (kind res arg : Nat) (finish : Option W64) : Proc :=
  { num := s.plinth.procNum + 1, kind := kind, res := res, st := .running, start := s.time, finish := finish, arg := arg }

theorem startProc_spec (s : State) (kind res arg : Nat) (finish : Option W64) :
    ∃ t, startProc s kind res arg finish = (t, 0, leBytes 2 (s.plinth.procNum + 1)) ∧ t.plinth.procNum = s.plinth.procNum + 1 ∧ PlinthTold s t ∧
      procStarted s kind res arg finish ∈ t.plinth.procs := by
  have hqueue : ∀ q : Proc, ∃ u : State, u = { s with plinth := { s.plinth with procs := s.plinth.procs ++ [q], procNum := s.plinth.procNum + 1 } } := fun _ => ⟨_, rfl⟩
  obtain ⟨u, hu⟩ := hqueue { procStarted s kind res arg finish with st := .queued }
  have hstart : startProc s kind res arg finish = (setProc u (procStarted s kind res arg finish), 0, leBytes 2 (s.plinth.procNum + 1)) := by
    rw [hu]
    rfl
  have htold : Told u (setProc u (procStarted s kind res arg finish)) := Told.refl.setProc _
  have hprocs : u.plinth.procs = s.plinth.procs ++ [{ procStarted s kind res arg finish with st := .queued }] := by rw [hu]
  refine ⟨_, hstart, (htold.proj (·.plinth.procNum) fun _ _ _ _ => rfl).trans (by rw [hu]), ?_, ?_⟩
  · obtain ⟨procs, sessions, out, ht⟩ := htold
    rw [ht, hu]
    exact ⟨_, _, _, _, rfl⟩
  · rw [setProc_procs, hprocs]
    exact List.mem_map.mpr ⟨_, List.mem_append_right _ (List.mem_singleton.mpr rfl), if_pos rfl⟩

/-- What an abandoned list of procedures holds: each is ABANDONED, or as it was and none that was hit. -/
theorem abandonProcs_procs (s : State) (hit : Proc → Bool) : ∀ p ∈ (abandonProcs s hit).plinth.procs,
    p.st = .abandoned ∨ ¬ ((p.st == .running || p.st == .queued) && hit p) = true := by
  have hfold : ∀ (l : List Proc) (u : State), (∀ p ∈ u.plinth.procs, p.st = .abandoned ∨ p ∈ l ∨ ¬ ((p.st == .running || p.st == .queued) && hit p) = true) →
      ∀ p ∈ (l.foldl (fun t p => setProc t { p with st := .abandoned, finish := none }) u).plinth.procs,
        p.st = .abandoned ∨ ¬ ((p.st == .running || p.st == .queued) && hit p) = true := by
    intro l
    induction l with
    | nil => exact fun u hu p hp => (hu p hp).imp_right fun h => h.resolve_left List.not_mem_nil
    | cons q l ih =>
      intro u hu
      refine ih _ fun p hp => ?_
      rw [setProc_procs] at hp
      obtain ⟨y, hy, rfl⟩ := List.mem_map.mp hp
      by_cases hnum : y.num = q.num
      · rw [if_pos hnum]
        exact .inl rfl
      · rw [if_neg hnum]
        rcases hu y hy with h | h | h
        · exact .inl h
        · rcases List.mem_cons.mp h with h | h
          · exact absurd (congrArg Proc.num h) hnum
          · exact .inr (.inl h)
        · exact .inr (.inr h)
  refine hfold _ s fun p hp => .inr ?_
  by_cases h : ((p.st == .running || p.st == .queued) && hit p) = true
  · exact .inl (List.mem_filter.mpr ⟨hp, h⟩)
  · exact .inr h

section
variable {s : State} {h : EcHdr} {x : Session}

/-! ### The journal (R326) -/

/-- The Plinth with a slot of the journal rewritten. -/
def slotPut (p : Plinth) (one : Bool) (j : JSlot) : Plinth := if one then { p with jslot1 := j } else { p with jslot0 := j }

theorem slot_slotPut (p : Plinth) (b : Bool) (j : JSlot) (sel : Option Bool) :
    ({ slotPut p (!b) j with jsel := sel } : Plinth).slot (!b) = j ∧ ({ slotPut p (!b) j with jsel := sel } : Plinth).slot b = p.slot b := by
  cases b with
  | false => exact ⟨rfl, rfl⟩
  | true => exact ⟨rfl, rfl⟩

/-- The slot that a rewrite of the journal leaves: one generation on. -/
def nextSlot (s : State) (b : Bool) (mode : Byte) : JSlot :=
  { bodyOk := true, gen := (s.plinth.slot b).gen + 1#32, commitOk := true, cgen := (s.plinth.slot b).gen + 1#32
    sealKey := if mode = 1#8 then Config.random s.draws else (s.plinth.slot b).sealKey }

/-- The device with the rewritten slot selected, before it is shown. -/
def slotSelected (s : State) (b : Bool) (j : JSlot) : State :=
  { s with draws := s.draws + 1, plinth := { slotPut s.plinth (!b) j with jsel := some (!b) } }

theorem showJournal_kept (u : State) : (showJournal u).plinth = u.plinth ∧ sameMemory u (showJournal u) := by
  obtain ⟨⟨regs, hs⟩, -⟩ := showJournal_frame u
  rw [hs]
  exact ⟨rfl, rfl, rfl⟩

theorem jrnlupd_rewrites (hr : ecReady s h x 0x42 1 true false) (mode : Byte) (b : Bool) (hm : mode.toNat < 2) (hb : s.plinth.jsel = some b) :
    ∃ t, exec (.jrnlupd h mode true) s = .next (respond t h 0x42 0 []) ∧ t.plinth.jsel = some (!b) ∧ t.plinth.slot b = s.plinth.slot b ∧
      (t.plinth.slot (!b)).valid = true ∧ (t.plinth.slot (!b)).gen = (s.plinth.slot b).gen + 1#32 ∧
      (mode = 0#8 → (t.plinth.slot (!b)).sealKey = (s.plinth.slot b).sealKey) ∧ rd t Reg.ksJgen = ((s.plinth.slot b).gen + 1#32).toNat ∧ sameMemory s t := by
  have hexec : exec (.jrnlupd h mode true) s = .next (respond (showJournal (slotSelected s b (nextSlot s b mode))) h 0x42 0 []) := by
    show execJrnlupd h mode true s = _
    unfold execJrnlupd
    rw [ecCmd_ready hr (decide_eq_true hm)]
    dsimp only
    rw [hb]
    cases b <;> rfl
  obtain ⟨hself, hother⟩ := slot_slotPut s.plinth b (nextSlot s b mode) (some (!b))
  have hsel : (slotSelected s b (nextSlot s b mode)).plinth = { slotPut s.plinth (!b) (nextSlot s b mode) with jsel := some (!b) } := rfl
  have hmem : sameMemory s (slotSelected s b (nextSlot s b mode)) := ⟨rfl, rfl⟩
  rw [← hsel] at hself hother
  have hjsel : (slotSelected s b (nextSlot s b mode)).plinth.jsel = some (!b) := rfl
  generalize slotSelected s b (nextSlot s b mode) = u at *
  obtain ⟨hp, hum⟩ := showJournal_kept u
  obtain ⟨-, -, hj⟩ := showJournal_shows hjsel
  rw [hself] at hj
  refine ⟨_, hexec, hp ▸ hjsel, hp ▸ hother, ?_, ?_, fun h0 => ?_, hj, ⟨hum.1.trans hmem.1, hum.2.trans hmem.2⟩⟩
  · rw [hp, hself]
    simp [JSlot.valid, nextSlot]
  · rw [hp, hself]
    rfl
  · rw [hp, hself]
    exact if_neg (by rw [h0]; decide)

/-! ### Images (R369) -/

theorem imgAt_setImg (s : State) (t slot a : Nat) (y : Img) : imgAt (setImg s t slot y) t a = if a = slot then y else imgAt s t a := by
  split
  next h => rw [h]; exact Tab.get_insert_self _ _ _ _
  next h => exact Tab.get_insert_other _ _ _ (by omega)

theorem imgwrite_writes (tg : Byte) (off : W32) (data : List Byte) (hr : ecReady s h x 0x40 (5 + data.length) true false) (ht : tg.toNat < 4)
    (hlen : data.length ≤ 65528) (hend : off.toNat + data.length ≤ slotBytes tg.toNat) (hbusy : imageBusy s = false) :
    ∃ t, exec (.imgwrite h tg off data) s = .next (respond t h 0x40 0 []) ∧
      Memory.read (imgAt t tg.toNat (1 - activeSlot s tg.toNat)).bytes off.toNat data.length = data ∧
      imgAt t tg.toNat (activeSlot s tg.toNat) = imgAt s tg.toNat (activeSlot s tg.toNat) ∧ t.plinth.active = s.plinth.active ∧ t.regs = s.regs ∧
      sameMemory s t := by
  obtain ⟨old, hold⟩ : ∃ old : Img, (if off = 0#32 then {} else imgAt s tg.toNat (1 - activeSlot s tg.toNat)) = old := ⟨_, rfl⟩
  obtain ⟨y, hy, hbytes⟩ : ∃ y : Img, y = { bytes := Memory.write old.bytes off.toNat data, erased := false, version := BitVec.ofNat 32 (Memory.num (Memory.write old.bytes off.toNat data) 8 4), valid := false } ∧
      y.bytes = Memory.write old.bytes off.toNat data := ⟨_, rfl, rfl⟩
  have hexec : exec (.imgwrite h tg off data) s = .next (respond (setImg s tg.toNat (1 - activeSlot s tg.toNat) y) h 0x40 0 []) := by
    show execImgwrite h tg off data s = _
    unfold execImgwrite
    rw [ecCmd_ready hr (by simp [ht, hlen, hend])]
    dsimp only
    rw [hbusy, hold, hy]
    rfl
  refine ⟨_, hexec, ?_, ?_, rfl, rfl, rfl, rfl⟩
  · rw [imgAt_setImg, if_pos rfl, hbytes, Memory.read_write]
  · rw [imgAt_setImg, if_neg (by omega)]

theorem setImg_frame (s : State) (t slot : Nat) (y : Img) : sameMemory s (setImg s t slot y) ∧ (setImg s t slot y).plinth.procNum = s.plinth.procNum := ⟨⟨rfl, rfl⟩, rfl⟩

theorem imgact_starts (tg fl : Byte) (hr : ecReady s h x 0x41 2 true false) (ht : tg.toNat < 4) (hf : fl.toNat < 2) (hbusy : imageBusy s = false)
    (hok : stagedOk s tg.toNat = true) :
    ∃ t, exec (.imgact h tg fl) s = .next (respond t h 0x41 0 (leBytes 2 (s.plinth.procNum + 1))) ∧ t.plinth.procNum = s.plinth.procNum + 1 ∧ sameMemory s t ∧
      ∃ p ∈ t.plinth.procs, p.num = s.plinth.procNum + 1 ∧ p.kind = 0 ∧ p.res = tg.toNat ∧ p.st = .running ∧ p.step = 0 ∧ p.arg = fl.toNat := by
  obtain ⟨v, hv⟩ : ∃ v, setImg s tg.toNat (1 - activeSlot s tg.toNat) { imgAt s tg.toNat (1 - activeSlot s tg.toNat) with valid := true } = v := ⟨_, rfl⟩
  obtain ⟨hmem, hnum⟩ := setImg_frame s tg.toNat (1 - activeSlot s tg.toNat) { imgAt s tg.toNat (1 - activeSlot s tg.toNat) with valid := true }
  rw [hv] at hmem hnum
  obtain ⟨t, hstart, hn, htold, hp⟩ := startProc_spec v 0 tg.toNat fl.toNat (if tg.toNat = 1 then after v 40000 else none)
  rw [hnum] at hstart hn
  have hexec : exec (.imgact h tg fl) s = .next (respond t h 0x41 0 (leBytes 2 (s.plinth.procNum + 1))) := by
    show execImgact h tg fl s = _
    unfold execImgact
    rw [ecCmd_ready hr (by simp [ht, hf])]
    dsimp only
    rw [hbusy, if_neg Bool.false_ne_true, hok, if_neg (by simp), hv, hstart]
  exact ⟨t, hexec, hn, ⟨htold.mem.1.trans hmem.1, htold.mem.2.trans hmem.2⟩, _, hp, congrArg (· + 1) hnum, rfl, rfl, rfl, rfl, rfl⟩

/-! ### Associations and anchors (R361, R379) -/

theorem macsec_installs (hr : ecReady s h x 0x50 68 true false) (a : MacsecSa) (h1 : a.rail.toNat < 6) (h2 : a.dir.toNat < 2) (h3 : a.an.toNat < 4)
    (h4 : a.active.toNat < 2) :
    ∃ t, exec (.macsec h a) s = .next (respond t h 0x50 0 []) ∧
      Tab.find t.plinth.macsec (saKey a.rail.toNat (a.dir == 1#8) a.an.toNat a.sci) = some (a.sci, a.pn, a.sak, a.active == 1#8) ∧ t.regs = s.regs ∧
      sameMemory s t := by
  show ∃ t, execMacsec h a s = _ ∧ _
  unfold execMacsec
  rw [ecCmd_ready hr (by simp [h1, h2, h3, h4])]
  exact ⟨_, rfl, Tab.find_insert_self _ _ _, rfl, rfl, rfl⟩

theorem anchor_installs (slot : Byte) (cert : List Byte) (hr : ecReady s h x 0x51 (1 + cert.length) true false) (hs : slot.toNat < 2) (hc : cert ≠ []) :
    ∃ t, exec (.anchor h slot cert) s = .next (respond t h 0x51 0 []) ∧ Tab.find t.plinth.anchors slot.toNat = some cert ∧ t.regs = s.regs ∧
      sameMemory s t := by
  show ∃ t, execAnchor h slot cert s = _ ∧ _
  unfold execAnchor
  rw [ecCmd_ready hr (by simp [hs, hc])]
  exact ⟨_, rfl, Tab.find_insert_self _ _ _, rfl, rfl, rfl⟩

/-! ### Live procedures (R375 to R377) -/

section
variable (hr : ecReady s h x 0x60 3 true false) {m c : Byte} (hm : m.toNat < 12) (hc : c.toNat < 64)
  (hbusy : procBusy s 1 (fun r => r / 64 == m.toNat) = false) (hret : ∀ r ∈ s.retired, r.pc ≠ m.toNat * 64 + c.toNat)
include hr hm hc hbusy hret

/-- A PCTRAIN that passes its checks starts its procedure. -/
theorem pctrain_runs {mode : Byte} (hmode : mode.toNat < 2) : exec (.pctrain h m c mode) s =
    .next (let r := if mode = 0#8 then startProc s 1 (m.toNat * 64 + c.toNat) 0 (after s 20000)
      else match retirePc s m.toNat c.toNat with
        | some u => startProc u 1 (m.toNat * 64 + c.toNat) 1 (after u 134080000)
        | none => (s, 6, [])
      respond r.1 h 0x60 r.2.1 r.2.2) := by
  have hnone : (s.retired.any fun r => r.pc == m.toNat * 64 + c.toNat) = false :=
    List.any_eq_false.mpr fun r hin => by simpa using hret r hin
  show execPctrain h m c mode s = _
  unfold execPctrain
  rw [ecCmd_ready hr (by simp [hm, hc, hmode])]
  dsimp only
  rw [hbusy, if_neg Bool.false_ne_true, hnone, if_neg Bool.false_ne_true] <;> rfl

theorem pctrain_recalibrates : ∃ t, exec (.pctrain h m c 0#8) s = .next (respond t h 0x60 0 (leBytes 2 (s.plinth.procNum + 1))) ∧ t.pages = s.pages ∧
    t.regs = s.regs ∧ sameMemory s t ∧ ∃ p ∈ t.plinth.procs, p.num = s.plinth.procNum + 1 ∧ p.kind = 1 ∧ p.res = m.toNat * 64 + c.toNat ∧
      p.st = .running ∧ p.finish = after s 20000 := by
  obtain ⟨t, hstart, -, htold, hp⟩ := startProc_spec s 1 (m.toNat * 64 + c.toNat) 0 (after s 20000)
  have hexec := pctrain_runs hr hm hc hbusy hret (mode := 0#8) (by decide)
  rw [if_pos rfl, hstart] at hexec
  exact ⟨t, hexec, htold.proj State.pages fun _ _ _ _ _ => rfl, htold.regs, htold.mem, _, hp, rfl, rfl, rfl, rfl, rfl⟩

theorem pctrain_retrains {u : State} (hu : retirePc s m.toNat c.toNat = some u) :
    ∃ t, exec (.pctrain h m c 1#8) s = .next (respond t h 0x60 0 (leBytes 2 (s.plinth.procNum + 1))) ∧ t.pages = u.pages ∧ t.retired = u.retired ∧
      sameMemory s t ∧ ∃ p ∈ t.plinth.procs, p.num = s.plinth.procNum + 1 ∧ p.kind = 1 ∧ p.st = .running ∧ p.arg = 1 := by
  have hnum : u.plinth.procNum = s.plinth.procNum ∧ sameMemory s u := by
    unfold retirePc at hu
    dsimp only at hu
    split at hu
    · exact Option.some.inj hu ▸ ⟨rfl, rfl, rfl⟩
    split at hu
    · exact absurd hu (by simp)
    · exact Option.some.inj hu ▸ ⟨rfl, rfl, rfl⟩
  obtain ⟨hnum, hmem⟩ := hnum
  obtain ⟨t, hstart, -, htold, hp⟩ := startProc_spec u 1 (m.toNat * 64 + c.toNat) 1 (after u 134080000)
  rw [hnum] at hstart
  have hexec := pctrain_runs hr hm hc hbusy hret (mode := 1#8) (by decide)
  rw [if_neg (by decide), hu] at hexec
  dsimp only at hexec
  rw [hstart] at hexec
  exact ⟨t, hexec, htold.proj State.pages fun _ _ _ _ _ => rfl, htold.proj State.retired fun _ _ _ _ _ => rfl,
    ⟨htold.mem.1.trans hmem.1, htold.mem.2.trans hmem.2⟩, _, hp, congrArg (· + 1) hnum, rfl, rfl, rfl⟩

end

theorem resendHistory_noted (s : State) (pkts : List (List Byte)) (q : Nat) : Noted s (resendHistory s pkts q) :=
  List.foldlRecOn (motive := Noted s) _ _ ⟨_, _, _, rfl⟩ fun u hu pkt _ => by
    split
    · exact hu.trans (sendOn_noted u _ _ _ _)
    · exact hu

theorem afterLoss_noted (s : State) (p : Nat) (pkts : List (List Byte)) : Noted s (afterLoss s p pkts) := by
  have herase : Noted s { s with history := Tab.erase s.history p } := ⟨_, _, _, rfl⟩
  unfold afterLoss
  split
  · exact resendHistory_noted _ _ _
  · split
    · exact herase.trans (resendHistory_noted _ _ _)
    · exact ⟨_, _, _, rfl⟩

/-- The port without the lane's pair (R376). -/
def laneOut (s : State) (p l : Nat) : State :=
  if p < 12 then fset (fset s (Reg.fbPortstat p) 30 28 2) (Reg.fbPortstat p) 27 24 (fget s (Reg.fbPortstat p) 27 24 &&& (if l < 2 then 12 else 3))
  else fset s (Reg.fbPortstat p) 31 28 0

theorem laneOut_frame (s : State) (p l : Nat) : ∃ regs, laneOut s p l = { s with regs := regs } := by
  unfold laneOut
  split
  · exact ⟨_, rfl⟩
  · exact ⟨_, rfl⟩

theorem laneeq_starts (hr : ecReady s h x 0x61 2 true false) (p l : Byte) (hp : p.toNat < 18) (hl : l.toNat < 4)
    (hbusy : procBusy s 2 (· == p.toNat) = false) (hup : portUp s p.toNat = true) :
    ∃ t, exec (.laneeq h p l) s = .next (respond t h 0x61 0 (leBytes 2 (s.plinth.procNum + 1))) ∧ sameMemory s t ∧
      ∃ q ∈ t.plinth.procs, q.num = s.plinth.procNum + 1 ∧ q.kind = 2 ∧ q.res = p.toNat ∧ q.st = .running ∧ q.finish = after s 5000000 := by
  obtain ⟨v, hv⟩ : ∃ v, afterLoss (laneOut s p.toNat l.toNat) p.toNat (Tab.get [] s.history p.toNat) = v := ⟨_, rfl⟩
  have hnoted := afterLoss_noted (laneOut s p.toNat l.toNat) p.toNat (Tab.get [] s.history p.toNat)
  rw [hv] at hnoted
  obtain ⟨hnum, htime, hdev, hhost⟩ : v.plinth.procNum = s.plinth.procNum ∧ (laneOut s p.toNat l.toNat).time = s.time ∧ v.dev = s.dev ∧ v.host = s.host := by
    obtain ⟨regs, hlane⟩ := laneOut_frame s p.toNat l.toNat
    rw [hlane] at hnoted ⊢
    exact ⟨hnoted.proj (·.plinth.procNum) fun _ _ _ _ => rfl, rfl, hnoted.proj State.dev fun _ _ _ _ => rfl, hnoted.proj State.host fun _ _ _ _ => rfl⟩
  have hafter : after (laneOut s p.toNat l.toNat) 5000000 = after s 5000000 := by
    unfold after
    rw [htime]
  obtain ⟨t, hstart, -, htold, hq⟩ := startProc_spec v 2 p.toNat (if p.toNat < 12 ∧ fget s (Reg.fbPortstat p.toNat) 27 24 = 15 then 1 else 0) (after s 5000000)
  rw [hnum] at hstart
  have hexec : exec (.laneeq h p l) s = .next (respond t h 0x61 0 (leBytes 2 (s.plinth.procNum + 1))) := by
    show execLaneeq h p l s = _
    unfold execLaneeq
    rw [ecCmd_ready hr (by simp [hp, hl])]
    dsimp only
    rw [hbusy, if_neg Bool.false_ne_true, hup, if_neg (by simp)]
    show Host.Outcome.next ((fun r : State × Nat × List Byte => respond r.1 h 0x61 r.2.1 r.2.2)
      (startProc (afterLoss (laneOut s p.toNat l.toNat) p.toNat (Tab.get [] s.history p.toNat)) 2 p.toNat
        (if p.toNat < 12 ∧ fget s (Reg.fbPortstat p.toNat) 27 24 = 15 then 1 else 0) (after (laneOut s p.toNat l.toNat) 5000000))) = _
    rw [hv, hafter, hstart]
  exact ⟨t, hexec, ⟨htold.mem.1.trans hdev, htold.mem.2.trans hhost⟩, _, hq, congrArg (· + 1) hnum, rfl, rfl, rfl, rfl⟩

theorem corerepl_starts (hr : ecReady s h x 0x62 2 true false) (k fl : Byte) (hk : k.toNat < 144) (hf : fl.toNat < 2)
    (hbusy : procBusy s 3 (fun r => r / 18 == k.toNat / 18) = false) (hfenced : ∀ f ∈ s.fenced, f.val ≠ k.toNat)
    (hspare : fl = 1#8 ∨ spareLeft s k.toNat = true) :
    ∃ t, exec (.corerepl h k fl) s = .next (respond t h 0x62 0 (leBytes 2 (s.plinth.procNum + 1))) ∧ t.fenced = s.fenced ∧
      replacing t k.toNat = true ∧ sameMemory s t := by
  obtain ⟨t, hstart, -, htold, hp⟩ := startProc_spec s 3 k.toNat fl.toNat none
  have hnone : (s.fenced.any fun f => f.val == k.toNat) = false := List.any_eq_false.mpr fun f hin => by simpa using hfenced f hin
  have hleft : (decide (fl = 0#8) && !spareLeft s k.toNat) = false := by
    rcases hspare with rfl | hs
    · rfl
    · simp [hs]
  have hexec : exec (.corerepl h k fl) s = .next (respond t h 0x62 0 (leBytes 2 (s.plinth.procNum + 1))) := by
    show execCorerepl h k fl s = _
    unfold execCorerepl
    rw [ecCmd_ready hr (by simp [hk, hf])]
    rw [hbusy, if_neg Bool.false_ne_true, hnone, hleft, if_neg (by simp), hstart]
  exact ⟨t, hexec, htold.proj State.fenced fun _ _ _ _ _ => rfl, List.any_eq_true.mpr ⟨_, hp, by simp [procStarted]⟩, htold.mem⟩

end

/-! ### The Plinth's handover (R373, R374) -/

theorem handoverTimeout_abandons (s : State) : ∃ t, exec .handoverTimeout s = .next t ∧ sameMemory s t ∧ t.regs = s.regs ∧
    ∀ p ∈ t.plinth.procs, p.kind = 0 → p.res = 1 → p.st ≠ .running ∧ p.st ≠ .queued := by
  have htold : Told s (abandonProcs s fun p => p.kind == 0 && p.res == 1) := Told.refl.abandonProcs _
  refine ⟨_, rfl, htold.wound.mem, htold.proj State.regs fun _ _ _ _ => rfl, fun p hp hk hres => ?_⟩
  rcases abandonProcs_procs s _ p hp with h | h
  · rw [h]
    exact ⟨ProcState.noConfusion, ProcState.noConfusion⟩
  · constructor
    · intro hst
      exact h (by simp [hst, hk, hres])
    · intro hst
      exact h (by simp [hst, hk, hres])

section
variable {s : State} {p : Proc} (hp : s.plinth.procs.find? (fun p => p.kind == 0 && p.res == 0 && p.st == .running) = some p)
include hp

theorem plinthReboot_leaves (ha : s.plinth.away = none) : ∃ t, exec .plinthReboot s = .next t ∧ t.plinth.away = some (fget s Reg.fcStatus 31 0) ∧
    t.plinth.sessions = [] ∧ t.regs = s.regs ∧ sameMemory s t := by
  have hclosed : ∃ plinth out, closeSessions s = { s with plinth := plinth, out := out } ∧ plinth.sessions = [] := by
    obtain ⟨out, ho⟩ : ∃ out, s.plinth.sessions.foldl (fun (t : State) x => t.emit (.ecClose x.1)) s = { s with out := out } := by
      refine List.foldlRecOn (motive := fun u : State => ∃ out, u = { s with out := out }) _ _ ⟨_, rfl⟩ fun u hu y _ => ?_
      obtain ⟨_, rfl⟩ := hu
      exact ⟨_, rfl⟩
    unfold closeSessions
    rw [ho]
    exact ⟨_, _, rfl, rfl⟩
  obtain ⟨plinth, out, hc, hsess⟩ := hclosed
  have hexec : exec .plinthReboot s = .next { closeSessions s with
      plinth := { (closeSessions s).plinth with away := some (fget (closeSessions s) Reg.fcStatus 31 0) } } := by
    show execPlinthReboot s = _
    unfold execPlinthReboot
    rw [ha, hp]
  rw [hc] at hexec
  exact ⟨_, hexec, rfl, hsess, rfl, rfl, rfl⟩

omit hp in
theorem plinthLog_frame (q : Plinth) (ms : List W128) : ∃ log logBase, plinthLog q ms = { q with log := log, logBase := logBase } := ⟨_, _, rfl⟩

omit hp in
/-- An image procedure of the Plinth's own image that is done switches its slot. -/
theorem imageDone_spec (u : State) (hres : p.res = 0) : activeSlot (imageDone u p) 0 = 1 - activeSlot u 0 ∧
    (imageDone u p).plinth.away = u.plinth.away ∧ (imageDone u p).plinth.jsel = u.plinth.jsel ∧ (imageDone u p).regs = u.regs ∧
    sameMemory u (imageDone u p) := by
  obtain ⟨v, hv, hactive⟩ : ∃ v : State, Told v (imageDone u p) ∧ ∃ svnMin, v = { u with plinth := { u.plinth with
      active := Tab.put 0 u.plinth.active p.res (1 - activeSlot u p.res), svnMin := svnMin } } := ⟨_, Told.refl.setProc _, _, rfl⟩
  obtain ⟨svnMin, rfl⟩ := hactive
  refine ⟨?_, hv.proj (·.plinth.away) fun _ _ _ _ => rfl, hv.proj (·.plinth.jsel) fun _ _ _ _ => rfl, hv.proj State.regs fun _ _ _ _ => rfl,
    hv.proj State.dev fun _ _ _ _ => rfl, hv.proj State.host fun _ _ _ _ => rfl⟩
  refine (hv.proj (activeSlot · 0) fun _ _ _ _ => rfl).trans ?_
  show Tab.get 0 (Tab.put 0 u.plinth.active p.res (1 - activeSlot u p.res)) 0 = _
  rw [hres]
  exact Tab.get_put_self 0 u.plinth.active 0 _

theorem plinthReboot_returns (ha : s.plinth.away.isSome = true) : ∃ t, exec .plinthReboot s = .next t ∧ t.plinth.away = none ∧
    activeSlot t 0 = 1 - activeSlot s 0 ∧ t.plinth.jsel = selectSlot s.plinth ∧ t.regs = s.regs ∧ sameMemory s t := by
  obtain ⟨n, hn⟩ := Option.isSome_iff_exists.mp ha
  obtain ⟨log, logBase, hq⟩ := plinthLog_frame s.plinth (logSince s n)
  have hres : p.res = 0 := by
    have h := List.find?_some (p := fun p : Proc => p.kind == 0 && p.res == 0 && p.st == .running) hp
    simp only [Bool.and_eq_true, beq_iff_eq] at h
    exact h.1.2
  obtain ⟨gap, hexec⟩ : ∃ gap, exec .plinthReboot s = .next (imageDone { s with plinth := { plinthLog s.plinth (logSince s n) with
      away := none, gap := gap, jsel := selectSlot (plinthLog s.plinth (logSince s n)) } } p) := by
    refine ⟨(plinthLog s.plinth (logSince s n)).gap || decide (4096 < fget s Reg.fcStatus 31 0 - n), ?_⟩
    show execPlinthReboot s = _
    unfold execPlinthReboot
    rw [hn, hp]
  rw [hq] at hexec
  obtain ⟨hslot, haway, hjsel, hregs, hmem⟩ := imageDone_spec { s with plinth := { s.plinth with
    log := log, logBase := logBase, away := none, gap := gap, jsel := selectSlot s.plinth } } hres
  exact ⟨_, hexec, haway, hslot, hjsel, hregs, hmem⟩

end

/-- Settles O54: images, procedures, and the Plinth's handover. -/
theorem plinthProcedures : Obligations.PlinthProcedures := by
  unfold Obligations.PlinthProcedures
  intro s h x
  exact ⟨jrnlupd_rewrites, imgwrite_writes, imgact_starts, macsec_installs, anchor_installs,
    fun hr m c hm hc hbusy hret => ⟨pctrain_recalibrates hr hm hc hbusy hret, fun u => pctrain_retrains hr hm hc hbusy hret⟩, laneeq_starts, corerepl_starts,
    handoverTimeout_abandons s, fun p hp => ⟨plinthReboot_leaves hp, plinthReboot_returns hp⟩⟩

end Sys2Proof.Proofs
end

section
/-! PROOFS. Forwarding, rails, lost lanes and lost ports: O36. -/

namespace Sys2Proof.Proofs
open Sys2Proof.Machine

/-! ### Forwarding (R217, R221) -/

section
variable {s : State} {p : Port} {pkt : List Byte} {h : FHdr} {len : Nat} {bad : Bool} {q : Nat}

theorem packetForward_sends (hhdr : readHdr (ofLe (pkt.take 40)) = some (h, len, bad)) (hlen : 48 ≤ pkt.length) (hp : p.val < 12)
    (hup : portUp s p = true) (hdst : h.dstMod ≠ modId s) (hrack : sameRack (modId s) h.dstMod = true) (hhops : h.counts = true → h.hops ≠ 0)
    (hq : portFor s (modId s) h.dstMod h.route = some q) (fecBad : Bool) :
    exec (.packetForward p pkt fecBad) s = .next (sendOn (if fecBad then finc s (Reg.fbPorterr p) 63 32 1 else s) q h.dstMod h.route
      (if fecBad then invertCrc (if h.counts then patchByte pkt 27 fun b => b - 16#8 else pkt)
        else if h.counts then patchByte pkt 27 fun b => b - 16#8 else pkt)) := by
  have hpass : ¬ (pkt.length < 48 ∨ 12 ≤ p.val ∨ portUp s p = false ∨ h.dstMod = modId s ∨ (!sameRack (modId s) h.dstMod) = true ∨
      (h.counts = true ∧ h.hops = 0)) := by
    rw [hup, hrack]
    rintro (h1 | h1 | h1 | h1 | h1 | ⟨h1, h2⟩)
    · omega
    · omega
    · simp at h1
    · exact hdst h1
    · simp at h1
    · exact hhops h1 h2
  show execPacketForward p pkt fecBad s = _
  unfold execPacketForward
  dsimp only
  rw [hhdr]
  dsimp only
  rw [if_neg hpass, hq]

end

/-! ### Rails (R226 to R228) -/

theorem macsecIn_frame {s t : State} {r : Nat} {f : RailFrame} (h : macsecIn s r f = some t) : ∃ m, t = { s with pnSeen := m } := by
  unfold macsecIn at h
  dsimp only at h
  split at h
  · exact absurd h (by simp)
  · split at h
    · exact absurd h (by simp)
    · exact ⟨_, (Option.some.inj h).symm⟩

theorem railFrame_takes {s t : State} {r : Rail} {f : RailFrame} (hup : portUp s (12 + r.val) = true) (hin : macsecIn s r f = some t)
    (hdst : f.dst = railAddr s r (modId s)) (hudp : f.udpDst.toNat = fget s Reg.fbUdp 15 0) :
    exec (.railFrame r f) s = .next (packetIn t (12 + r.val) f.payload) := by
  show execRailFrame r f s = _
  unfold execRailFrame
  dsimp only
  rw [hup, if_neg (by simp), hin]
  dsimp only
  rw [if_neg (by simp [hdst, hudp])]

/-! ### Lost lanes and ports (R235) -/

theorem bit_laneCleared (w : Nat) (l : Fin 4) : bit ((w &&& (15 - 2 ^ l.val)) % 16) l = false := by
  rw [bit_eq_testBit]
  have hmask : ((15 - 2 ^ l.val).testBit l.val) = false := by
    revert l
    decide
  have h16 : (16 : Nat) = 2 ^ 4 := rfl
  rw [h16, Nat.testBit_mod_two_pow, Nat.testBit_and, hmask]
  simp

theorem lane_leaves {s : State} {p : Port} (hup : portUp s p = true) (l : Fin 4) (hl : bit (fget s (Reg.fbPortstat p) 27 24) l = true) :
    ∃ t, exec (.lane p l) s = .next t ∧ bit (fget t (Reg.fbPortstat p) 27 24) l = false := by
  have hexec : ∃ u : State, exec (.lane p l) s = .next (afterLoss (fset u (Reg.fbPortstat p) 27 24
      (fget u (Reg.fbPortstat p) 27 24 &&& (15 - 2 ^ l.val))) p (Tab.get [] s.history p)) :=
    ⟨report s (8 + portQuad p) (0x40 + 4 * p.val + l.val) 0x41 0 0 (p.val + 256 * l.val) none, if_neg (by simp [hup, hl])⟩
  obtain ⟨u, hexec⟩ := hexec
  refine ⟨_, hexec, ?_⟩
  have hregs := (afterLoss_noted (fset u (Reg.fbPortstat p) 27 24 (fget u (Reg.fbPortstat p) 27 24 &&& (15 - 2 ^ l.val))) p
    (Tab.get [] s.history p)).proj State.regs fun _ _ _ _ => rfl
  rw [fget_congr hregs, fget_fset_self _ _ _ (by omega) (by omega)]
  exact bit_laneCleared _ l

/-- Bit 31 of a field that is 0. -/
theorem fbit31_of_field {s : State} {off : Nat} (h : fget s off 31 28 = 0) : fbit s off 31 = false := by
  have htop : fget s off 31 31 = 0 := by
    unfold fget bits at *
    omega
  rw [fbit_eq_fget, htop]
  rfl

theorem portDown_down (s : State) (p : Nat) : portUp (portDown s p) p = false := by
  unfold portUp portDown
  split
  · have h0 : fget (fset s (Reg.fbPortstat p) 31 28 0) (Reg.fbPortstat p) 31 28 = 0 := fget_fset_self _ _ _ (by omega) (by omega)
    exact (fbit_fset_field _ _ _ (by omega) (by omega) (by omega)).trans (fbit31_of_field h0)
  next h => exact Bool.eq_false_iff.mpr h

theorem portLoss_downs {s : State} {p : Port} (hup : portUp s p = true) : ∃ t, exec (.portLoss p) s = .next t ∧ portUp t p = false := by
  have hexec : ∃ u : State, exec (.portLoss p) s = .next (afterLoss (portDown u p) p (Tab.get [] s.history p)) :=
    ⟨report s (8 + portQuad p) p.val 0x42 0 0 p.val none, if_neg (by simp [hup])⟩
  obtain ⟨u, hexec⟩ := hexec
  have hregs := (afterLoss_noted (portDown u p) p (Tab.get [] s.history p)).proj State.regs fun _ _ _ _ => rfl
  exact ⟨_, hexec, (fbit_congr hregs _ _).trans (portDown_down u p)⟩

/-- Settles O36: forwarding, rails, lanes and ports. -/
theorem forwardingAndPortLoss : Obligations.ForwardingAndPortLoss := by
  unfold Obligations.ForwardingAndPortLoss
  exact ⟨⟨fun s p pkt h len bad q hhdr hlen hp hup hdst hrack hhops hq =>
      ⟨packetForward_sends hhdr hlen hp hup hdst hrack hhops hq false, packetForward_sends hhdr hlen hp hup hdst hrack hhops hq true⟩,
    fun s t r f hup hin hdst hudp => ⟨railFrame_takes hup hin hdst hudp, macsecIn_frame hin⟩⟩,
    fun s p hup => ⟨lane_leaves hup, portLoss_downs hup⟩⟩

end Sys2Proof.Proofs
end

section
/-! PROOFS. Shards, reports and resends of FLP: O35. -/

namespace Sys2Proof.Proofs
open Sys2Proof.Machine

section
variable {s : State} {p : Port} {pkt pl sl : List Byte} {h : FHdr}

/-- A torus packet for this module that passes the link's checks goes to its type's handler. -/
theorem torusIn_passes {typ : Nat} (hp : p.val < 12) (htyp : pktType pkt = typ) (hup : portUp s p = true) (hcrc : crcOk pkt = true)
    (hparse : parsePacket pkt = some (h, pl, sl)) (hdst : h.dstMod = modId s) : torusIn typ p pkt s = match h.typ with
      | 1 => dataIn s (portQuad p) h pl sl
      | 2 => match records pl with
        | some rs => rs.foldl reportRecord s
        | none => finc s Reg.fbStat 47 32 1
      | 3 => match records pl with
        | some rs => if rs.any fun r => bits r 57 55 ≠ 0 then finc s Reg.fbStat 47 32 1 else rs.foldl reqRecord s
        | none => finc s Reg.fbStat 47 32 1
      | _ => membIn s pl := by
  unfold torusIn packetIn
  rw [if_pos ⟨hp, htyp⟩, hup, hcrc, hparse, if_neg (by simp), if_neg (by simp)]
  dsimp only
  rw [if_neg (by simp [hdst])] <;> rfl

/-! ### Arrival (R220, R225, R231) -/

theorem dataIn_assembles {quad : Nat} (hctx : h.engine = false → (s.peer h.dstCtx).st ≠ 0) (hepoch : epochOk s h = true) (hok : ctxOk s h = true) :
    dataIn s quad h pl sl = assemble s quad h pl sl := by
  have hfree : (!h.engine && (s.peer h.dstCtx).st == 0) = false := by
    cases he : h.engine with
    | true => rfl
    | false => simp [hctx he]
  unfold dataIn
  rw [hfree, hepoch, hok, if_neg Bool.false_ne_true, if_neg (by simp), if_neg (by simp)]

theorem assemble_first {quad : Nat} (hnone : s.asm.find? (fun a => a.isFor h) = none) (hn : h.nshard ≠ 0) (hsh : h.shard ≤ h.nshard)
    (hroom : (s.asm.filter fun a => a.quad.val == quad).length < 256) : assemble s quad h pl sl = { s with asm := s.asm ++
      [{ quad := fin 3 quad, hdr := ofLe (h.bytes pl.length), got := [(h.shard, pl)], sealB := sl, first := s.time,
         ctx := if h.engine then none else some h.dstCtx }] } := by
  unfold assemble
  rw [if_neg (by omega)]
  dsimp only
  rw [hnone]
  dsimp only
  rw [if_neg hn, if_neg (by omega)]

theorem assemble_whole {quad : Nat} (hnone : s.asm.find? (fun a => a.isFor h) = none) (hn : h.nshard = 0) (hsh : h.shard = 0) :
    assemble s quad h pl sl = completeTile s h pl sl := by
  unfold assemble
  rw [if_neg (by omega)]
  dsimp only
  rw [hnone]
  dsimp only
  rw [if_pos hn]

theorem completeTile_delivers (hgen : genCheck s h = none) (hnonce : h.sealB = true → ofLe ((sl.drop 16).take 12) = h.nonce.toNat) {bs : List Byte}
    (hbs : (if h.sealB then gcmOpen (keyG (hdrKey s h).key) h.nonce h.aad pl (BitVec.ofNat 128 (ofLe (sl.take 16))) else some pl) = some bs) :
    completeTile s h pl sl = answerData (deliverTile s h bs).1 h 0 true (deliverTile s h bs).2 := by
  have hplain : (if !h.sealB then some pl else if ofLe ((sl.drop 16).take 12) = h.nonce.toNat then
      gcmOpen (keyG (hdrKey s h).key) h.nonce h.aad pl (BitVec.ofNat 128 (ofLe (sl.take 16))) else none) = some bs := by
    rw [← hbs]
    cases hs : h.sealB with
    | false => rfl
    | true => simp [hnonce hs]
  unfold completeTile
  rw [hgen]
  dsimp only
  rw [hplain]

/-! ### Reports and requests (R222, R232) -/

section
variable {r : Nat} {x : Sent} (hx : findSent s (bits r 50 48) (bit r 51) (bits r 47 0) = some x)
include hx

theorem reportRecord_accepts (hc : bits r 57 55 = 0 ∨ bits r 57 55 = 1 ∨ bits r 57 55 = 5) : reportRecord s r = endRetention s x := by
  unfold reportRecord recFields
  dsimp only
  rw [hx]
  rcases hc with hc | hc | hc
  · rw [hc]
    rfl
  · rw [hc]
    rfl
  · rw [hc]
    rfl

theorem reportRecord_refuses (hc : bits r 57 55 = 2 ∨ bits r 57 55 = 3 ∨ bits r 57 55 = 4) : reportRecord s r = refuseSent s x := by
  unfold reportRecord recFields
  dsimp only
  rw [hx]
  rcases hc with hc | hc | hc
  · rw [hc]
    rfl
  · rw [hc]
    rfl
  · rw [hc]
    rfl

theorem reqRecord_resends (hall : bit r 54 = false) (hheld : heldTile s x = false)
    (hself : s.sent.find? (fun (y : Sent) => y.led == x.led && y.n == x.n) = some x) {sh : Shard} (hsh : x.shards[bits r 53 52]? = some sh)
    (hatt : sh.attempts < 3) :
    let y := { x with shards := x.shards.set (bits r 53 52) { attempts := sh.attempts + 1, route := (sh.route + 1) % 4, last := s.time } }
    reqRecord s r = sendShard (finc (setSent s y) Reg.fbRetry 63 32 1) y (bits r 53 52) ((sh.route + 1) % 4) true := by
  have hone : ([bits r 53 52].filter fun i => match x.shards[i]? with
      | some h => decide (h.attempts < 3)
      | none => false) = [bits r 53 52] := List.filter_cons_of_pos (by simp [hsh, hatt])
  have hattempt : attemptShards s x [bits r 53 52] = attemptShard s x (bits r 53 52) := by
    unfold attemptShards
    rw [List.foldl_cons, List.foldl_nil, hself]
  have hrun : reqRecord s r = attemptShards s x [bits r 53 52] := by
    unfold reqRecord recFields
    dsimp only
    rw [hx, hall]
    exact congrArg (attemptShards s x) hone
  rw [hrun, hattempt]
  exact attemptShard_resends hsh hheld hatt

end

theorem records_report {r : Nat} (hp : p.val < 12) (htyp : pktType pkt = 2) (hup : portUp s p = true) (hcrc : crcOk pkt = true)
    (hparse : parsePacket pkt = some (h, pl, sl)) (hdst : h.dstMod = modId s) (hr : records pl = some [r]) (ht : h.typ = 2) :
    exec (.report p pkt) s = .next (reportRecord s r) := by
  show Host.Outcome.next (torusIn 2 p pkt s) = _
  rw [torusIn_passes hp htyp hup hcrc hparse hdst, ht, hr]
  rfl

theorem records_req {r : Nat} (hp : p.val < 12) (htyp : pktType pkt = 3) (hup : portUp s p = true) (hcrc : crcOk pkt = true)
    (hparse : parsePacket pkt = some (h, pl, sl)) (hdst : h.dstMod = modId s) (hr : records pl = some [r]) (ht : h.typ = 3) (hc : bits r 57 55 = 0) :
    exec (.req p pkt) s = .next (reqRecord s r) := by
  show Host.Outcome.next (torusIn 3 p pkt s) = _
  rw [torusIn_passes hp htyp hup hcrc hparse hdst, ht, hr]
  dsimp only
  rw [if_neg (by simp [hc])]
  rfl

end

/-! ### Timers (R232) -/

theorem shardResendTimeout_resends {s : State} {home : BitVec 3} {engine : Bool} {seq : BitVec 48} {i : BitVec 2} {x : Sent} {sh : Shard}
    (hx : findSent s home.toNat engine seq.toNat = some x) (hsh : x.shards[i.toNat]? = some sh) (hdue : sh.last.toNat + 200000 ≤ s.time.toNat)
    (hheld : heldTile s x = false) (hatt : sh.attempts < 3) :
    let y := { x with shards := x.shards.set i.toNat { attempts := sh.attempts + 1, route := (sh.route + 1) % 4, last := s.time } }
    exec (.shardResendTimeout home engine seq i) s =
      .next (sendShard (finc (setSent s y) Reg.fbRetry 63 32 1) y i.toNat ((sh.route + 1) % 4) true) := by
  show execShardResendTimeout home engine seq i s = _
  unfold execShardResendTimeout
  rw [hx]
  dsimp only
  rw [hsh]
  dsimp only
  rw [if_pos hdue, attemptShard_resends hsh hheld hatt]
  rfl

theorem sendPkt_noted (s : State) (x : FHdr) (payload sl : List Byte) : Noted s (sendPkt s x payload sl) := by
  unfold sendPkt
  dsimp only
  split
  · exact sendOn_noted _ _ _ _ _
  · exact ⟨_, _, _, rfl⟩

/-- The entries of a tile counted one REQ more. -/
def reqCounted (s : State) (key : FHdr) (a : Asm) : State :=
  finc { s with asm := s.asm.map fun x => if x.isFor key then { a with reqs := a.reqs + 1 } else x } Reg.fbRetry 15 0 1

theorem reqCounted_spec (s : State) (key : FHdr) (a : Asm) :
    fget (reqCounted s key a) Reg.fbRetry 15 0 = satAdd 16 (fget s Reg.fbRetry 15 0) 1 ∧
      (reqCounted s key a).asm = s.asm.map (fun x => if x.isFor key then { a with reqs := a.reqs + 1 } else x) ∧ sameMemory s (reqCounted s key a) :=
  ⟨fget_finc_self _ _ _ (by omega) (by omega), rfl, rfl, rfl⟩

theorem reqTimeout_asks {s : State} {src : BitVec 19} {home : BitVec 3} {engine : Bool} {seq : BitVec 48} {a : Asm} {h : FHdr} {len : Nat} {bad : Bool}
    (ha : s.asm.find? (fun a => a.isFor { srcMod := src.toNat, home := home.toNat, engine := engine, seq := seq.toNat }) = some a)
    (hhdr : readHdr a.hdr = some (h, len, bad)) (hdue : a.first.toNat + 200000 * (a.reqs + 1) ≤ s.time.toNat)
    (hheld : fbit s (Reg.fbGroup (hdrGroup s h)) 31 = false) (hreqs : a.reqs < 3) :
    ∃ t, exec (.reqTimeout src home engine seq) s = .next t ∧ fget t Reg.fbRetry 15 0 = satAdd 16 (fget s Reg.fbRetry 15 0) 1 ∧
      t.asm = s.asm.map (fun x => if x.isFor { srcMod := src.toNat, home := home.toNat, engine := engine, seq := seq.toNat }
        then { a with reqs := a.reqs + 1 } else x) ∧ sameMemory s t := by
  have hexec : exec (.reqTimeout src home engine seq) s = .next (sendReq (reqCounted s { srcMod := src.toNat, home := home.toNat, engine := engine, seq := seq.toNat } a) h
      ((List.range (h.nshard + 1)).filter fun i => (Tab.find a.got i).isNone)) := by
    show execReqTimeout src home engine seq s = _
    unfold execReqTimeout
    dsimp only
    rw [ha]
    dsimp only
    rw [hhdr]
    dsimp only
    rw [if_neg (by rw [hheld]; simp; omega), if_neg (by omega)]
    rfl
  obtain ⟨hretry, hasm, hmem⟩ := reqCounted_spec s { srcMod := src.toNat, home := home.toNat, engine := engine, seq := seq.toNat } a
  have hn : ∀ u l, Noted u (sendReq u h l) := fun u l => sendPkt_noted u _ _ _
  have hnoted := hn (reqCounted s { srcMod := src.toNat, home := home.toNat, engine := engine, seq := seq.toNat } a)
    ((List.range (h.nshard + 1)).filter fun i => (Tab.find a.got i).isNone)
  refine ⟨_, hexec, (fget_congr (hnoted.proj State.regs fun _ _ _ _ => rfl) _ _ _).trans hretry, (hnoted.proj State.asm fun _ _ _ _ => rfl).trans hasm,
    (hnoted.proj State.dev fun _ _ _ _ => rfl).trans hmem.1, (hnoted.proj State.host fun _ _ _ _ => rfl).trans hmem.2⟩

/-- Settles O35: shards, reports, requests and their timers. -/
theorem shardsReportsAndResends : Obligations.ShardsReportsAndResends := by
  unfold Obligations.ShardsReportsAndResends
  refine ⟨fun s p pkt pl sl h hp htyp hup hcrc hparse hdst ht hctx hepoch hok hnone => ?_,
    ⟨fun s p pkt pl sl h r x hp hup hcrc hparse hdst hr hx => ⟨fun htyp ht hc => ⟨fun hk => ?_, fun hk => ?_⟩, fun htyp ht hc => ?_,
      fun htyp ht hc hall hheld hself sh hsh hatt => ?_⟩,
    fun s home engine seq i x sh => shardResendTimeout_resends, fun s src home engine seq a h len bad => reqTimeout_asks⟩⟩
  · have hin : exec (.dataShard p pkt) s = .next (assemble s (portQuad p) h pl sl) := by
      show Host.Outcome.next (torusIn 1 p pkt s) = _
      rw [torusIn_passes hp htyp hup hcrc hparse hdst, ht]
      exact congrArg _ (dataIn_assembles hctx hepoch hok)
    refine ⟨fun hn hsh hroom => ?_, fun hn hsh hgen hnonce bs hbs => ?_⟩
    · rw [hin, assemble_first hnone hn hsh hroom]
    · rw [hin, assemble_whole hnone hn hsh, completeTile_delivers hgen hnonce hbs]
  · rw [records_report hp htyp hup hcrc hparse hdst hr ht, reportRecord_accepts hx hc]
    exact congrArg _ (if_pos hk)
  · rw [records_report hp htyp hup hcrc hparse hdst hr ht, reportRecord_accepts hx hc]
    exact congrArg _ (if_neg (by rw [hk]; decide))
  · rw [records_report hp htyp hup hcrc hparse hdst hr ht, reportRecord_refuses hx hc]
    rfl
  · rw [records_req hp htyp hup hcrc hparse hdst hr ht hc, reqRecord_resends hx hall hheld hself hsh hatt]

end Sys2Proof.Proofs
end

section
/-! PROOFS. The slot map of a group, its barrier under no handle, and what an install leaves alone: for O33 and O34. -/

namespace Sys2Proof.Proofs
open Sys2Proof.Machine

/-! ### What a group's map rests on (R241) -/

/-- What a group's slot map and this module's place in it rest on is as it was. -/
structure SameMap (g : Nat) (s t : State) : Prop where
  dev  : t.dev = s.dev
  cfg  : rd t (Reg.ceGrpcfg g) = rd s (Reg.ceGrpcfg g)
  map  : rd t (Reg.ceSlotmap g) = rd s (Reg.ceSlotmap g)
  self : rd t Reg.fbModid = rd s Reg.fbModid

section
variable {g : Nat} {s t u : State}

theorem SameMap.refl : SameMap g s s := ⟨rfl, rfl, rfl, rfl⟩

theorem SameMap.trans (h : SameMap g s t) (k : SameMap g t u) : SameMap g s u :=
  ⟨k.dev.trans h.dev, k.cfg.trans h.cfg, k.map.trans h.map, k.self.trans h.self⟩

theorem SameMap.of_regs (hd : t.dev = s.dev) (hr : t.regs = s.regs) : SameMap g s t :=
  ⟨hd, rd_congr hr _, rd_congr hr _, rd_congr hr _⟩

/-- The map rests on registers of the link and of the collectives, none of them a status of the group. -/
theorem SameMap.of_rd (hg : g < 16) (hd : t.dev = s.dev)
    (hr : ∀ off, 0x800000 ≤ off → off < 0x902000 → off ≠ Reg.ceGrpstat g → off ≠ Reg.ceGrpcoord g → off ≠ Reg.fbGroup g → off ≠ Reg.fbRetry →
      rd t off = rd s off) : SameMap g s t := by
  refine ⟨hd, hr _ ?_ ?_ ?_ ?_ ?_ ?_, hr _ ?_ ?_ ?_ ?_ ?_ ?_, hr _ ?_ ?_ ?_ ?_ ?_ ?_⟩ <;>
  · simp only [Reg.ceGrpcfg, Reg.ceGrpstat, Reg.ceGrpcoord, Reg.ceSlotmap, Reg.fbGroup, Reg.fbRetry, Reg.fbModid, ne_eq]
    omega

theorem SameMap.modId (h : SameMap g s t) : modId t = modId s := fget_congr_rd h.self _ _

theorem SameMap.slotsOf (h : SameMap g s t) : slotsOf t g = slotsOf s g := fget_congr_rd h.cfg _ _

theorem SameMap.slotMod (h : SameMap g s t) : slotMod t g = slotMod s g := by
  funext q
  unfold Machine.slotMod slotEntry
  rw [h.dev, h.map]

theorem SameMap.mySlots (h : SameMap g s t) : mySlots t g = mySlots s g := by
  unfold Machine.mySlots
  rw [h.slotsOf, h.slotMod, h.modId]

theorem SameMap.members (h : SameMap g s t) : members t g = members s g := by
  unfold Machine.members
  rw [h.slotsOf, h.slotMod]

theorem SameMap.slotMods (h : SameMap g s t) : slotMods t g = slotMods s g := by
  unfold Machine.slotMods mapEntries slotEntry
  rw [h.slotsOf, h.dev, h.map]

theorem SameMap.newMods (h : SameMap g s t) (out : List Nat) : newMods t g out = newMods s g out := by
  unfold Machine.newMods
  rw [h.slotMods]

end

/-! ### The barrier under no handle (R241, R254) -/

/-- From `s` to `t` only the group's barrier went on: its headers and arrivals, CE_GRPSTAT, and what went out. -/
structure Barred (g : Nat) (s t : State) : Prop where
  frame : ∃ regs grps out, t = { s with regs := regs, grps := grps, out := out }
  regs  : ∀ off, off ≠ Reg.ceGrpstat g → rd t off = rd s off
  grp   : ∃ b, t.grp g = { s.grp g with bar := b }
  out   : s.out ⊆ t.out

section
variable {g : Nat} {s t u : State}

theorem Barred.refl : Barred g s s := ⟨⟨_, _, _, rfl⟩, fun _ _ => rfl, ⟨_, rfl⟩, fun _ h => h⟩

theorem Barred.trans (h : Barred g s t) (k : Barred g t u) : Barred g s u := by
  obtain ⟨⟨_, _, _, ht⟩, hr, ⟨b, hb⟩, ho⟩ := h
  obtain ⟨⟨_, _, _, hu⟩, kr, ⟨c, hc⟩, ko⟩ := k
  exact ⟨⟨_, _, _, by rw [hu, ht]⟩, fun off hoff => (kr off hoff).trans (hr off hoff), ⟨c, by rw [hc, hb]⟩, fun x hx => ko (ho hx)⟩

/-- What ignores what a barrier changes is as it was. -/
theorem Barred.proj (h : Barred g s t) {α : Type} (π : State → α)
    (hπ : ∀ (u : State) regs grps out, π { u with regs := regs, grps := grps, out := out } = π u) : π t = π s := by
  obtain ⟨_, _, _, rfl⟩ := h.frame
  exact hπ _ _ _ _

theorem Barred.foldl {α : Type} {f : State → α → State} {l : List α} (h : Barred g s t) (hf : ∀ u x, Barred g s u → Barred g s (f u x)) :
    Barred g s (l.foldl f t) :=
  List.foldlRecOn (motive := Barred g s) l f h fun u hu x _ => hf u x hu

theorem Barred.noteArrivals (h : Barred g s t) (heard : List (Nat × Nat × Nat)) : Barred g s (noteArrivals t g heard) :=
  h.trans ⟨⟨_, _, _, rfl⟩, fun _ ho => rd_fset_other _ _ _ _ ho, ⟨_, rfl⟩, fun _ hx => hx⟩

theorem Barred.setBar (h : Barred g s t) (b : Stream) : Barred g s (t.setGrp g { t.grp g with bar := b }) :=
  h.trans ⟨⟨_, _, _, rfl⟩, fun _ _ => rfl, ⟨b, State.grp_setGrp _ _ _⟩, fun _ hx => hx⟩

theorem Barred.emit (h : Barred g s t) (o : Out) : Barred g s (t.emit o) :=
  h.trans ⟨⟨_, _, _, rfl⟩, fun _ _ => rfl, ⟨_, rfl⟩, List.subset_append_left _ _⟩

theorem Barred.barSend (h : Barred g s t) (op : Nat) (digest : Option W64) : Barred g s (barSend t g op digest) := by
  unfold Machine.barSend
  refine h.foldl fun u f hu => ?_
  dsimp only
  split
  · exact hu
  · exact (hu.setBar _).emit _

theorem Barred.barStart (h : Barred g s t) (op : Nat) (digest : Option W64) : Barred g s (barStart t g op digest) :=
  ((h.setBar _).noteArrivals []).barSend op digest

theorem Barred.barTake (h : Barred g s t) (op : Nat) (digest : Option W64) (ms : List HeaderMsg) : Barred g s (barTake t g op digest ms) :=
  h.foldl fun _ _ hu => ((hu.setBar _).noteArrivals _).barSend op digest

theorem Barred.sameMap (h : Barred g s t) (hg : g < 16) : SameMap g s t :=
  .of_rd hg (h.proj State.dev fun _ _ _ _ => rfl) fun off _ _ hs _ _ _ => h.regs off hs

end

/-! ### The first headers of a barrier (R241, R254; log 169) -/

/-- What goes out for a transfer of a barrier. -/
def headerOut (s : State) (g op : Nat) (digest : Option W64) (bar : Stream) (f : Xfer) : Out :=
  .header g ((slotMod s g f.dst).getD 0) (headerBytes (bar.header s op digest f))

/-- The bytes of a header rest on what it is of, on its level and on its source. -/
theorem headerOut_congr (s : State) (g op : Nat) (digest : Option W64) (bar : Stream) {f f' : Xfer} (hl : f.lvl = f'.lvl)
    (hs : f.src = f'.src) (hd : f.dst = f'.dst) : headerOut s g op digest bar f = headerOut s g op digest bar f' := by
  unfold headerOut headerBytes Stream.header
  rw [hl, hs, hd]

theorem headerOut_sentTo (s : State) (g op : Nat) (digest : Option W64) (bar : Stream) (l : List ((Nat × Nat × Nat × Nat) × Nat)) (f : Xfer) :
    headerOut s g op digest { bar with sentTo := l } f = headerOut s g op digest bar f := by
  unfold headerOut Stream.header
  rfl

/-- A barrier's headers rest on the group's map. -/
theorem SameMap.headerOut {g : Nat} {s t : State} (h : SameMap g s t) (op : Nat) (digest : Option W64) {bar : Stream} (hb : bar.group = g)
    (f : Xfer) : headerOut t g op digest bar f = headerOut s g op digest bar f := by
  subst hb
  unfold Proofs.headerOut Stream.header
  rw [h.slotsOf, h.slotMod]

/-- A barrier at its start. -/
def freshBar (g : Part) : Stream := { op := 0, group := g, st := .active }

/-- Its first headers. -/
def firstOf (s : State) (g : Part) : List Xfer :=
  ((freshBar g).outgoing ((freshBar g).slots s).1 ((freshBar g).slots s).2).filter fun f => f.lvl = 1

theorem SameMap.firstOf {g : Part} {s t : State} (h : SameMap g s t) : firstOf t g = firstOf s g := by
  unfold Proofs.firstOf Stream.slots
  rw [show Machine.slotsOf t (freshBar g).group = Machine.slotsOf s (freshBar g).group from h.slotsOf,
    show Machine.mySlots t (freshBar g).group = Machine.mySlots s (freshBar g).group from h.mySlots]

/-- Every header that the barrier `bar` of `s` has marked as sent went out. -/
structure BarSends (s : State) (g op : Nat) (digest : Option W64) (bar : Stream) (t : State) : Prop where
  stands : ∃ l, (t.grp g).bar = { bar with sentTo := l }
  sent   : ∀ f, (t.grp g).bar.wasSent f 0 = true → headerOut s g op digest bar f ∈ t.out

theorem wasSent_append (x : Stream) (f f' : Xfer) :
    Stream.wasSent { x with sentTo := x.sentTo ++ [((f.phase, f.lvl, f.src, f.dst), 0)] } f' 0 = true ↔
      x.wasSent f' 0 = true ∨ f'.phase = f.phase ∧ f'.lvl = f.lvl ∧ f'.src = f.src ∧ f'.dst = f.dst := by
  simp [Stream.wasSent]

/-- A header leaves, and is marked. -/
def sendFirst (s : State) (g op : Nat) (digest : Option W64) (t : State) (f : Xfer) : State :=
  (t.setGrp g { t.grp g with bar := { (t.grp g).bar with sentTo := (t.grp g).bar.sentTo ++ [((f.phase, f.lvl, f.src, f.dst), 0)] } }).emit
    (headerOut s g op digest (t.grp g).bar f)

theorem BarSends.send {s t : State} {g op : Nat} {digest : Option W64} {bar : Stream} (h : BarSends s g op digest bar t) (f : Xfer) :
    BarSends s g op digest bar (sendFirst s g op digest t f) ∧ ((sendFirst s g op digest t f).grp g).bar.wasSent f 0 = true := by
  obtain ⟨l, hl⟩ := h.stands
  have hgrp : ((sendFirst s g op digest t f).grp g).bar =
      { (t.grp g).bar with sentTo := (t.grp g).bar.sentTo ++ [((f.phase, f.lvl, f.src, f.dst), 0)] } :=
    congrArg Grp.bar (State.grp_setGrp t g _)
  have hhead : headerOut s g op digest (t.grp g).bar f = headerOut s g op digest bar f := by
    rw [hl]
    exact headerOut_sentTo s g op digest bar l f
  have hout : (sendFirst s g op digest t f).out = t.out ++ [headerOut s g op digest bar f] := by
    rw [← hhead]
    rfl
  generalize sendFirst s g op digest t f = u at *
  refine ⟨⟨⟨_, by rw [hgrp, hl]⟩, fun f' hf' => ?_⟩, ?_⟩
  · rw [hgrp, wasSent_append] at hf'
    rw [hout]
    rcases hf' with hold | ⟨-, hlvl, hsrc, hdst⟩
    · exact List.mem_append_left _ (h.sent f' hold)
    · exact List.mem_append_right _ (List.mem_singleton.mpr (headerOut_congr _ _ _ _ _ hlvl hsrc hdst))
  · rw [hgrp, wasSent_append]
    exact .inr ⟨rfl, rfl, rfl, rfl⟩

/-- A barrier comes to one transfer: its header leaves once its slot has what it rests on. -/
def barPass (s : State) (g op : Nat) (digest : Option W64) (n : Nat) (mine : List Nat) (t : State) (f : Xfer) : State :=
  if (t.grp g).bar.wasSent f 0 || !(t.grp g).bar.reached n mine (f.lvl - 1) f.src then t else sendFirst s g op digest t f

theorem barSend_eq (s : State) (g op : Nat) (digest : Option W64) :
    barSend s g op digest = ((s.grp g).bar.outgoing ((s.grp g).bar.slots s).1 ((s.grp g).bar.slots s).2).foldl
      (barPass s g op digest ((s.grp g).bar.slots s).1 ((s.grp g).bar.slots s).2) s := rfl

section
variable {s t : State} {g op : Nat} {digest : Option W64} {bar : Stream} {n : Nat} {mine : List Nat}

/-- No slot waits for anything to send a header of level 1. -/
theorem BarSends.pass (h : BarSends s g op digest bar t) (hbar : bar.barrier = true) (f : Xfer) :
    BarSends s g op digest bar (barPass s g op digest n mine t f) ∧
      (f.lvl = 1 → headerOut s g op digest bar f ∈ (barPass s g op digest n mine t f).out) := by
  have hreach : f.lvl = 1 → (t.grp g).bar.reached n mine (f.lvl - 1) f.src = true := fun hlvl => by
    obtain ⟨sentTo, hl⟩ := h.stands
    rw [hlvl, hl]
    show (bar.barrier || _) = true
    rw [hbar, Bool.true_or]
  unfold barPass
  split
  next hstay =>
    refine ⟨h, fun hlvl => h.sent f ?_⟩
    rwa [hreach hlvl, Bool.not_true, Bool.or_false] at hstay
  next =>
    obtain ⟨hu, hs⟩ := h.send f
    exact ⟨hu, fun _ => hu.sent f hs⟩

theorem barPass_out (s : State) (g op : Nat) (digest : Option W64) (n : Nat) (mine : List Nat) (t : State) (f : Xfer) :
    t.out ⊆ (barPass s g op digest n mine t f).out := by
  unfold barPass
  split
  · exact fun _ h => h
  · exact List.subset_append_left _ _

theorem barPass_foldl_out (l : List Xfer) (t : State) : t.out ⊆ (l.foldl (barPass s g op digest n mine) t).out :=
  List.foldlRecOn (motive := fun u : State => t.out ⊆ u.out) l _ (fun _ h => h) fun u hu f _ =>
    List.Subset.trans hu (barPass_out s g op digest n mine u f)

/-- What has been sent stays sent, and a transfer of level 1 is sent where the barrier comes to it. -/
theorem BarSends.foldl (hbar : bar.barrier = true) : ∀ (l : List Xfer) (t : State), BarSends s g op digest bar t →
    ∀ f ∈ l, f.lvl = 1 → headerOut s g op digest bar f ∈ (l.foldl (barPass s g op digest n mine) t).out := by
  intro l
  induction l with
  | nil => exact fun t _ f hf => nomatch hf
  | cons f l ih =>
    intro t h f' hf' hlvl
    obtain ⟨hu, hsent⟩ := h.pass (n := n) (mine := mine) hbar f
    rcases List.mem_cons.mp hf' with rfl | hf'
    · exact barPass_foldl_out l _ (hsent hlvl)
    · exact ih _ hu f' hf' hlvl

end

/-- The state in which a barrier's first headers go. -/
theorem barStart_first (s : State) (g : Part) (op : Nat) (digest : Option W64) {f : Xfer} (hf : f ∈ firstOf s g) :
    headerOut s g op digest (freshBar g) f ∈ (barStart s g op digest).out := by
  have hbar : Barred g s (noteArrivals (s.setGrp g { s.grp g with bar := freshBar g }) g []) := (Barred.refl.setBar _).noteArrivals []
  have hstart : barStart s g op digest = barSend (noteArrivals (s.setGrp g { s.grp g with bar := freshBar g }) g []) g op digest := by
    unfold barStart freshBar
    rw [show fin 15 g.val = g from Fin.ext (Nat.mod_eq_of_lt g.isLt)]
  have hgrp : ((noteArrivals (s.setGrp g { s.grp g with bar := freshBar g }) g []).grp g).bar = freshBar g :=
    congrArg Grp.bar (State.grp_setGrp s g _)
  rw [hstart]
  generalize noteArrivals (s.setGrp g { s.grp g with bar := freshBar g }) g [] = u at *
  have hmap : SameMap g s u := hbar.sameMap g.isLt
  rw [← hmap.headerOut op digest (bar := freshBar g) rfl f]
  rw [← hmap.firstOf] at hf
  obtain ⟨hf, hlvl⟩ := List.mem_filter.mp hf
  rw [barSend_eq, hgrp]
  exact BarSends.foldl rfl _ u ⟨⟨[], hgrp⟩, fun f' hf' => by rw [hgrp] at hf'; exact absurd hf' Bool.false_ne_true⟩ f hf (of_decide_eq_true hlvl)

end Sys2Proof.Proofs
end

section
/-! PROOFS. How an install and a reset end a group's streams and the items that hold its tiles: for O33 and O34. -/

namespace Sys2Proof.Proofs
open Sys2Proof.Machine

/-! ### Streams that abort, items that stop (R238, R254) -/

/-- Streams aborted, items stopped and operations completed: no device memory, no register of the link or of a group changed, and a stream
that changed is ABORTED. -/
def Aborts (s t : State) : Prop :=
  (∃ regs cores led sent jobs journal elig ctx trFifo trDrop host rings out ops streams, t = { s with
    regs := regs, cores := cores, led := led, sent := sent, jobs := jobs, journal := journal, elig := elig, ctx := ctx, trFifo := trFifo,
    trDrop := trDrop, host := host, rings := rings, out := out, ops := ops, streams := streams }) ∧
  (∀ off, 0x800000 ≤ off → off < 0x902000 → rd t off = rd s off) ∧
  ∀ h, t.stream h = s.stream h ∨ (t.stream h).st = .aborted

section
variable {s t u : State}

theorem Aborts.refl : Aborts s s := ⟨⟨_, _, _, _, _, _, _, _, _, _, _, _, _, _, _, rfl⟩, fun _ _ _ => rfl, fun _ => .inl rfl⟩

theorem Aborts.trans (h : Aborts s t) (g : Aborts t u) : Aborts s u := by
  obtain ⟨⟨_, _, _, _, _, _, _, _, _, _, _, _, _, _, _, ht⟩, hr, hs⟩ := h
  obtain ⟨⟨_, _, _, _, _, _, _, _, _, _, _, _, _, _, _, hu⟩, kr, ks⟩ := g
  refine ⟨⟨_, _, _, _, _, _, _, _, _, _, _, _, _, _, _, by rw [hu, ht]⟩, fun off hl hh => (kr off hl hh).trans (hr off hl hh), fun h => ?_⟩
  rcases ks h with he | ha
  · rw [he]
    exact hs h
  · exact .inr ha

/-- What ignores what an abort changes is as it was. -/
theorem Aborts.proj (h : Aborts s t) {α : Type} (π : State → α)
    (hπ : ∀ (u : State) regs cores led sent jobs journal elig ctx trFifo trDrop host rings out ops streams, π { u with
      regs := regs, cores := cores, led := led, sent := sent, jobs := jobs, journal := journal, elig := elig, ctx := ctx, trFifo := trFifo,
      trDrop := trDrop, host := host, rings := rings, out := out, ops := ops, streams := streams } = π u) : π t = π s := by
  obtain ⟨⟨_, _, _, _, _, _, _, _, _, _, _, _, _, _, _, rfl⟩, -⟩ := h
  exact hπ _ _ _ _ _ _ _ _ _ _ _ _ _ _ _ _

theorem Aborts.foldl {α : Type} {f : State → α → State} {l : List α} (h : Aborts s t) (hf : ∀ u x, Aborts u (f u x)) : Aborts s (l.foldl f t) :=
  List.foldlRecOn (motive := Aborts s) l f h fun u hu x _ => hu.trans (hf u x)

theorem Aborts.dev (h : Aborts s t) : t.dev = s.dev := h.proj State.dev fun _ _ _ _ _ _ _ _ _ _ _ _ _ _ _ _ => rfl

theorem Aborts.grp (h : Aborts s t) (g : Nat) : t.grp g = s.grp g := h.proj (State.grp · g) fun _ _ _ _ _ _ _ _ _ _ _ _ _ _ _ _ => rfl

theorem Aborts.peer (h : Aborts s t) (c : Nat) : t.peer c = s.peer c := h.proj (State.peer · c) fun _ _ _ _ _ _ _ _ _ _ _ _ _ _ _ _ => rfl

/-- A stream that is ABORTED stays so. -/
theorem Aborts.aborted (h : Aborts s t) {n : Nat} (ha : (s.stream n).st = .aborted) : (t.stream n).st = .aborted := by
  rcases h.2.2 n with he | h
  · rwa [he]
  · exact h

theorem Aborts.sameMap (h : Aborts s t) {g : Nat} (hg : g < 16) : SameMap g s t :=
  .of_rd hg h.dev fun off hl hh _ _ _ _ => h.2.1 off hl hh

theorem Aborts.of_frees (h : Frees s t) : Aborts s t := by
  have hs : ∀ h, t.stream h = s.stream h := fun n => h.proj (State.stream · n) fun _ _ _ _ _ _ _ _ _ _ _ => rfl
  obtain ⟨⟨_, _, _, _, _, _, _, _, _, _, he⟩, hr, -⟩ := h
  exact ⟨⟨_, _, _, _, _, _, _, _, _, _, _, _, _, _, _, he⟩, fun off _ ho => hr off (by omega), fun n => .inl (hs n)⟩

theorem Aborts.of_posted (h : Posted s t) : Aborts s t := by
  have hs : ∀ h, t.stream h = s.stream h := fun n => h.proj (State.stream · n) fun _ _ _ _ _ => rfl
  have hr : ∀ off, 0x800000 ≤ off → rd t off = rd s off := fun off ho => h.rd fun i => by
    unfold Reg.mtEvents Reg.isViol Reg.qmDirtyctl
    omega
  obtain ⟨_, _, _, _, he, -⟩ := h
  exact ⟨⟨_, _, _, _, _, _, _, _, _, _, _, _, _, _, _, he⟩, fun off ho _ => hr off ho, fun n => .inl (hs n)⟩

theorem Aborts.completeOp (h : Aborts s t) (o : Op) (status value : Nat) : Aborts s (completeOp t o status value) := by
  have hd : Aborts t (dropOp t o) := ⟨⟨_, _, _, _, _, _, _, _, _, _, _, _, _, _, _, rfl⟩, fun _ _ _ => rfl, fun _ => .inl rfl⟩
  exact h.trans (hd.trans (.of_posted (completeOp_posted t o status value)))

theorem stopKey_aborts (s : State) (key : Nat) {st : Stop} (hst : st = .aborted ∨ st = .grpReset) : Aborts s (stopKey s key st) := by
  unfold stopKey
  split
  next e _ =>
    rcases hst with rfl | rfl
    · exact (Aborts.of_frees (Frees.refl.releaseItem key _)).trans (.of_posted (Posted.refl.writeCompl _))
    · exact (Aborts.of_frees (Frees.refl.releaseItem key _)).trans (.of_posted (Posted.refl.writeCompl _))
  · exact .refl

theorem stopKeys_aborts (s : State) (items : List Nat) {st : Stop} (hst : st = .aborted ∨ st = .grpReset) :
    Aborts s (items.foldl (fun t k => stopKey t k st) s) :=
  Aborts.refl.foldl fun u k => stopKey_aborts u k hst

/-- An ended stream is ABORTED. -/
theorem setStream_aborts (s : State) (h : Nat) {x : Stream} (hx : x.st = .aborted) : Aborts s (s.setStream h x) := by
  refine ⟨⟨_, _, _, _, _, _, _, _, _, _, _, _, _, _, _, rfl⟩, fun _ _ _ => rfl, fun k => ?_⟩
  by_cases hk : k = h
  · subst hk
    exact .inr ((congrArg Stream.st (State.stream_setStream s k x)).trans hx)
  · exact .inl (Tab.get_put_other _ _ _ hk)

theorem fsetCeStat_aborts (s : State) (n hi lo v : Nat) : Aborts s (finc s (Reg.ceStat n) hi lo v) :=
  ⟨⟨_, _, _, _, _, _, _, _, _, _, _, _, _, _, _, rfl⟩, fun off _ ho => rd_fset_other _ _ _ _ (by unfold Reg.ceStat; omega), fun _ => .inl rfl⟩

/-- The stream as an abort leaves it. -/
def abortedStream (x : Stream) : Stream := { x with
  st := .aborted, opener := none, contrib := [], kids := [], nodes := [], vals := [], heard := [], sentTo := [], came := [], took := [] }

/-- The state in which the senders to a stream that aborts are stopped. -/
def abortMarked (s : State) (h : Nat) : State := finc (s.setStream h (abortedStream (s.stream h))) (Reg.ceStat (h / 1024)) 47 32 1

theorem abortMarked_aborts (s : State) (h : Nat) : Aborts s (abortMarked s h) := (setStream_aborts s h rfl).trans (fsetCeStat_aborts _ _ _ _ _)

theorem abortMarked_self (s : State) (h : Nat) : ((abortMarked s h).stream h).st = .aborted :=
  congrArg Stream.st (State.stream_setStream s h (abortedStream (s.stream h)))

theorem endStream_open {s : State} {h : Nat} (ho : ((s.stream h).st == .open_ || (s.stream h).st == .active) = true) (status : Nat) (st : Stop) :
    endStream s h status st = match (s.stream h).opener with
      | some o => completeOp (stopSenders (abortMarked s h) h st) o status (s.stream h).epoch.toNat
      | none => stopSenders (abortMarked s h) h st := by
  unfold endStream
  dsimp only
  rw [ho, if_neg (by decide)] <;> rfl

theorem endStream_marked {s : State} {h : Nat} (ho : ((s.stream h).st == .open_ || (s.stream h).st == .active) = true) (status : Nat) {st : Stop}
    (hst : st = .aborted ∨ st = .grpReset) : Aborts (abortMarked s h) (endStream s h status st) := by
  have h1 : Aborts (abortMarked s h) (stopSenders (abortMarked s h) h st) := stopKeys_aborts _ _ hst
  rw [endStream_open ho]
  split
  · exact h1.completeOp _ _ _
  · exact h1

theorem endStream_aborts (s : State) (h status : Nat) {st : Stop} (hst : st = .aborted ∨ st = .grpReset) : Aborts s (endStream s h status st) := by
  cases ho : (s.stream h).st == .open_ || (s.stream h).st == .active
  · have hstay : endStream s h status st = s := if_pos (by rw [ho]; rfl)
    rw [hstay]
    exact .refl
  · exact (abortMarked_aborts s h).trans (endStream_marked ho status hst)

theorem abortStream_aborts (s : State) (h status : Nat) {st : Stop} (hst : st = .aborted ∨ st = .grpReset) : Aborts s (abortStream s h status st) := by
  unfold abortStream
  split
  · exact .refl
  · refine Aborts.trans (t := { s with sent := s.sent.filter fun y => !(y.dkind == 3 && y.dest % 4096 == h) }) ?_ (endStream_aborts _ _ _ hst)
    exact ⟨⟨_, _, _, _, _, _, _, _, _, _, _, _, _, _, _, rfl⟩, fun _ _ _ => rfl, fun _ => .inl rfl⟩

theorem abortStreams_aborts (s : State) (l : List Nat) (status : Nat) {st : Stop} (hst : st = .aborted ∨ st = .grpReset) :
    Aborts s (l.foldl (fun t h => abortStream t h status st) s) :=
  Aborts.refl.foldl fun u h => abortStream_aborts u h status hst

/-- A stream that is open or active ends ABORTED. -/
theorem abortStream_self (s : State) {h : Nat} (ho : (s.stream h).st = .open_ ∨ (s.stream h).st = .active) (status : Nat) {st : Stop}
    (hst : st = .aborted ∨ st = .grpReset) : ((abortStream s h status st).stream h).st = .aborted := by
  have hopen : ((s.stream h).st == .open_ || (s.stream h).st == .active) = true := by
    rcases ho with ho | ho <;> rw [ho] <;> rfl
  unfold abortStream
  rw [hopen, if_neg (by decide)]
  exact (endStream_marked (s := { s with sent := s.sent.filter fun y => !(y.dkind == 3 && y.dest % 4096 == h) }) hopen status hst).aborted
    (abortMarked_self _ h)

/-- Streams named to abort end ABORTED. -/
theorem abortStreams_self {status : Nat} {st : Stop} (hst : st = .aborted ∨ st = .grpReset) {h : Nat} : ∀ (l : List Nat) (s : State), h ∈ l →
    ((s.stream h).st = .open_ ∨ (s.stream h).st = .active) → ((l.foldl (fun t h => abortStream t h status st) s).stream h).st = .aborted := by
  intro l
  induction l with
  | nil => exact fun _ hm => nomatch hm
  | cons k l ih =>
    intro s hm ho
    have hstep : Aborts s (abortStream s k status st) := abortStream_aborts s k status hst
    have hrest : Aborts (abortStream s k status st) (l.foldl (fun t h => abortStream t h status st) (abortStream s k status st)) :=
      abortStreams_aborts _ l status hst
    rcases List.mem_cons.mp hm with rfl | hm
    · exact hrest.aborted (abortStream_self s ho status hst)
    rcases hstep.2.2 h with he | ha
    · exact ih _ hm (by rwa [he])
    · exact hrest.aborted ha

/-- A value that differs from the default is listed. -/
theorem Tab.mem_of_get_ne {α : Type} {d : α} {tab : Tab α} {k : Nat} (h : Tab.get d tab k ≠ d) : (k, Tab.get d tab k) ∈ tab := by
  induction tab with
  | nil => exact absurd rfl h
  | cons kv tab ih =>
    obtain ⟨j, v⟩ := kv
    by_cases hj : j = k
    · have hget : Tab.get d ((j, v) :: tab) k = v := congrArg (Option.getD · d) (if_pos hj)
      rw [hget, ← hj]
      exact List.mem_cons_self
    · have hget : Tab.get d ((j, v) :: tab) k = Tab.get d tab k := congrArg (Option.getD · d) (if_neg hj)
      rw [hget] at h ⊢
      exact List.mem_cons_of_mem _ (ih h)

/-- A group's streams that are open or active are among those that an install aborts. -/
theorem mem_groupStreams {s : State} {g h : Nat} (hg : (s.stream h).group.val = g)
    (ho : (s.stream h).st = .open_ ∨ (s.stream h).st = .active) : h ∈ groupStreams s g := by
  have hlisted : (h, s.stream h) ∈ s.streams := by
    refine Proofs.Tab.mem_of_get_ne fun hd => ?_
    rw [show s.stream h = _ from hd] at ho
    exact ho.elim (nomatch ·) (nomatch ·)
  refine List.mem_map.mpr ⟨_, List.mem_filter.mpr ⟨hlisted, ?_⟩, rfl⟩
  rcases ho with ho | ho <;> simp [hg, ho]

theorem abortGroup_self (s : State) (g status : Nat) {st : Stop} (hst : st = .aborted ∨ st = .grpReset) {h : Nat}
    (hg : (s.stream h).group.val = g) (ho : (s.stream h).st = .open_ ∨ (s.stream h).st = .active) :
    (((groupStreams s g).foldl (fun t h => abortStream t h status st) s).stream h).st = .aborted :=
  abortStreams_self hst _ s (mem_groupStreams hg ho) ho

end

end Sys2Proof.Proofs
end

section
/-! PROOFS. What the install of an epoch leaves: for O33 and O34. -/

namespace Sys2Proof.Proofs
open Sys2Proof.Machine

/-! ### Retained tiles that leave again (R238) -/

/-- Retained tiles left again: what the fabric changes, and FB_RETRY. -/
def Resends (s t : State) : Prop :=
  (∃ regs sent history plinth draws out,
    t = { s with regs := regs, sent := sent, history := history, plinth := plinth, draws := draws, out := out }) ∧
  ∀ off, off ≠ Reg.fbRetry → rd t off = rd s off

section
variable {s t u : State}

theorem Resends.refl : Resends s s := ⟨⟨_, _, _, _, _, _, rfl⟩, fun _ _ => rfl⟩

theorem Resends.trans (h : Resends s t) (g : Resends t u) : Resends s u := by
  obtain ⟨⟨_, _, _, _, _, _, ht⟩, hr⟩ := h
  obtain ⟨⟨_, _, _, _, _, _, hu⟩, kr⟩ := g
  exact ⟨⟨_, _, _, _, _, _, by rw [hu, ht]⟩, fun off ho => (kr off ho).trans (hr off ho)⟩

/-- What ignores what resends change is as it was. -/
theorem Resends.proj (h : Resends s t) {α : Type} (π : State → α)
    (hπ : ∀ (u : State) regs sent history plinth draws out,
      π { u with regs := regs, sent := sent, history := history, plinth := plinth, draws := draws, out := out } = π u) : π t = π s := by
  obtain ⟨⟨_, _, _, _, _, _, rfl⟩, -⟩ := h
  exact hπ _ _ _ _ _ _ _

theorem Resends.foldl {α : Type} {f : State → α → State} {l : List α} (h : Resends s t) (hf : ∀ u x, Resends u (f u x)) :
    Resends s (l.foldl f t) :=
  List.foldlRecOn (motive := Resends s) l f h fun u hu x _ => hu.trans (hf u x)

theorem Resends.of_carried (h : Carried s t) : Resends s t := by
  obtain ⟨_, _, _, _, _, rfl⟩ := h
  exact ⟨⟨_, _, _, _, _, _, rfl⟩, fun _ _ => rfl⟩

theorem finc_resends (s : State) (hi lo n : Nat) : Resends s (finc s Reg.fbRetry hi lo n) :=
  ⟨⟨_, _, _, _, _, _, rfl⟩, fun _ ho => rd_fset_other _ _ _ _ ho⟩

theorem restamp_resends (began : W64) (s : State) (x : Sent) : Resends s (restamp began s x) := by
  unfold restamp
  split
  · exact .refl
  · exact (((Resends.of_carried (Carried.refl.setSent _)).trans (finc_resends _ _ _ _))).foldl fun u h =>
      .of_carried (Carried.refl.sendShard _ _ _ _)

end

/-! ### A group's state (R237, R240, R263) -/

section
variable (s : State) (g : Nat) (x : GState)

theorem ceGrpstat_ne_fbGroup : Reg.ceGrpstat g ≠ Reg.fbGroup g := by
  unfold Reg.ceGrpstat Reg.fbGroup
  omega

theorem rd_setGState_other {off : Nat} (hs : off ≠ Reg.ceGrpstat g) (hb : off ≠ Reg.fbGroup g) : rd (setGState s g x) off = rd s off :=
  (rd_fset_other _ _ _ _ hb).trans (rd_fset_other _ _ _ _ hs)

theorem fget_setGState_stat : fget (setGState s g x) (Reg.ceGrpstat g) 63 60 = x.code := by
  refine (fget_fset_other _ _ _ _ _ _ (ceGrpstat_ne_fbGroup g)).trans ?_
  rw [fget_fset_self _ _ _ (by omega) (by omega)]
  cases x <;> rfl

theorem grpEpoch_setGState : grpEpoch (setGState s g x) g = grpEpoch s g := by
  unfold grpEpoch setGState
  rw [fget_fset_field _ _ _ (by omega) (by omega) (by omega) (by omega), fget_fset_other _ _ _ _ _ _ (ceGrpstat_ne_fbGroup g).symm]
  rfl

theorem fbit_setGState : fbit (setGState s g x) (Reg.fbGroup g) 31 = (x == .changing || x == .noquorum || x == .resetting) := by
  unfold setGState
  rw [fbit_fset_self _ _ _ (by omega)]
  cases x <;> rfl

theorem grp_setGState : (setGState s g x).grp g = { s.grp g with st := x } := State.grp_setGrp s g _

end

/-! ### The install (R236, R238, R256) -/

/-- A context as an install leaves it: of a member ACTIVE at the new epoch, of a module that left CLOSED. -/
def installedPeer (g e : Nat) (ms : List Nat) (x : Peer) : Peer :=
  if x.group.val == g && (x.st == 1 || x.st == 2) then
    if ms.contains x.remmod.toNat then { x with st := 1, epoch := BitVec.ofNat 32 e } else { x with st := 3 }
  else x

/-- What an install leaves. -/
structure Installs (g e : Nat) (s t : State) : Prop where
  dev   : t.dev = s.dev
  descs : t.descs = s.descs
  regs  : ∀ off, 0x800000 ≤ off → off < 0x902000 → off ≠ Reg.ceGrpstat g → off ≠ Reg.fbGroup g → off ≠ Reg.fbRetry → rd t off = rd s off
  stat  : fget t (Reg.ceGrpstat g) 63 60 = 1
  epoch : e < 2 ^ 32 → grpEpoch t g = e
  clear : fbit t (Reg.fbGroup g) 31 = false
  st    : (t.grp g).st = .stable
  calm  : mySuspects s g = [] → mySuspects t g = []
  ended : ∀ h, (s.stream h).st = .aborted ∨ (s.stream h).group.val = g ∧ ((s.stream h).st = .open_ ∨ (s.stream h).st = .active) →
    (t.stream h).st = .aborted
  peers : ∀ c, t.peer c = installedPeer g e (members s g) (s.peer c)

/-- The group's streams are aborted. -/
def streamsEnded (s : State) (g : Nat) : State := (groupStreams s g).foldl (fun t h => abortStream t h 9 .aborted) s

/-- Other peer contexts. -/
def withPeers (s : State) (peers : Tab Peer) : State := { s with peers := peers }

theorem withPeers_regs (s : State) (peers : Tab Peer) : (withPeers s peers).regs = s.regs := rfl

theorem withPeers_dev (s : State) (peers : Tab Peer) : (withPeers s peers).dev = s.dev := rfl

theorem withPeers_descs (s : State) (peers : Tab Peer) : (withPeers s peers).descs = s.descs := rfl

theorem withPeers_stream (s : State) (peers : Tab Peer) (h : Nat) : (withPeers s peers).stream h = s.stream h := rfl

theorem withPeers_grp (s : State) (peers : Tab Peer) (g : Nat) : (withPeers s peers).grp g = s.grp g := rfl

theorem withPeers_peer (s : State) (peers : Tab Peer) (c : Nat) : (withPeers s peers).peer c = Tab.get {} peers c := rfl

/-- The group is STABLE at the epoch, and its contexts are moved. -/
def epochMarked (s : State) (g e : Nat) : State :=
  withPeers (fset (setGState s g .stable) (Reg.fbGroup g) 63 32 e) (s.peers.map fun kv => (kv.1, installedPeer g e (members s g) kv.2))

/-- The contexts of modules that left. -/
def goneOf (s : State) (g : Nat) : List Nat :=
  (s.peers.filter fun kv => (kv.2.group.val == g && (kv.2.st == 1 || kv.2.st == 2)) && !(members s g).contains kv.2.remmod.toNat).map (·.1)

/-- The contexts of members. -/
def liveOf (s : State) (g : Nat) : List Nat :=
  (s.peers.filter fun kv => (kv.2.group.val == g && (kv.2.st == 1 || kv.2.st == 2)) && (members s g).contains kv.2.remmod.toNat).map (·.1)

/-- The items with tiles to modules that left. -/
def goneItems (s : State) (g : Nat) : List Nat :=
  dedup ((s.sent.filter fun (x : Sent) => x.dkind == 1 && (goneOf s g).contains x.dest).map (·.led))

/-- The suspects that this module named and that stay. -/
def ownSuspects (s : State) (g : Nat) : List Nat := (mySuspects s g).filter (members s g).contains

/-- The change ends: `s` is the state in which the streams have ended, `t` the one in which the items of modules that left have. -/
def changeEnded (s : State) (g : Nat) (t : State) : State :=
  (dropAsmOf (resumeRcvs t g (s.grp g).start) (goneOf s g).contains).setGrp g { t.grp g with
    voted := [], suspects := if (ownSuspects s g).isEmpty then [] else [(modId s, ownSuspects s g)], resetReq := false, bar := {}, ahead := 0#32 }

theorem installEpoch_eq (s : State) (g e : Nat) (st : Stop) :
    installEpoch s g e st =
      ((changeEnded (streamsEnded s g) g ((goneItems (streamsEnded s g) g).foldl (fun t k => stopKey t k st)
          (epochMarked (streamsEnded s g) g e))).sent.filter fun (x : Sent) =>
            x.dkind == 1 && (liveOf (streamsEnded s g) g).contains x.dest).foldl
        (restamp ((streamsEnded s g).grp g).start)
        (changeEnded (streamsEnded s g) g ((goneItems (streamsEnded s g) g).foldl (fun t k => stopKey t k st)
          (epochMarked (streamsEnded s g) g e))) := rfl

theorem grp_fset (s : State) (off hi lo v g : Nat) : (fset s off hi lo v).grp g = s.grp g := rfl

theorem grp_epochMarked (s : State) (g e : Nat) : (epochMarked s g e).grp g = { s.grp g with st := .stable } := by
  unfold epochMarked
  rw [withPeers_grp, grp_fset, grp_setGState]

theorem regs_epochMarked (s : State) (g e : Nat) : (epochMarked s g e).regs = (fset (setGState s g .stable) (Reg.fbGroup g) 63 32 e).regs :=
  withPeers_regs _ _

theorem rd_epochMarked_other (s : State) (g e : Nat) {off : Nat} (hs : off ≠ Reg.ceGrpstat g) (hb : off ≠ Reg.fbGroup g) :
    rd (epochMarked s g e) off = rd s off := by
  rw [rd_congr (regs_epochMarked s g e), rd_fset_other _ _ _ _ hb, rd_setGState_other s g .stable hs hb]

theorem fget_epochMarked_stat (s : State) (g e : Nat) : fget (epochMarked s g e) (Reg.ceGrpstat g) 63 60 = 1 := by
  rw [fget_congr (regs_epochMarked s g e), fget_fset_other _ _ _ _ _ _ (ceGrpstat_ne_fbGroup g), fget_setGState_stat]
  rfl

theorem fget_epochMarked_epoch (s : State) (g : Nat) {e : Nat} (he : e < 2 ^ 32) : fget (epochMarked s g e) (Reg.fbGroup g) 63 32 = e := by
  rw [fget_congr (regs_epochMarked s g e), fget_fset_self _ _ _ (by omega) (by omega)]
  exact Nat.mod_eq_of_lt he

theorem fbit_epochMarked (s : State) (g e : Nat) : fbit (epochMarked s g e) (Reg.fbGroup g) 31 = false := by
  rw [fbit_congr (regs_epochMarked s g e), fbit_fset_field _ _ _ (by omega) (by omega) (by omega), fbit_setGState]
  rfl

theorem setGState_frame (s : State) (g : Nat) (x : GState) : ∃ regs grps, setGState s g x = { s with regs := regs, grps := grps } := ⟨_, _, rfl⟩

/-- What rests on none of the registers, the groups and the contexts is as it was. -/
theorem epochMarked_frame (s : State) (g e : Nat) :
    ∃ regs grps peers, epochMarked s g e = { s with regs := regs, grps := grps, peers := peers } := by
  obtain ⟨regs, grps, hu⟩ := setGState_frame s g .stable
  unfold epochMarked fset State.setReg withPeers
  rw [hu]
  exact ⟨_, _, _, rfl⟩

theorem peer_epochMarked (s : State) (g e c : Nat) : (epochMarked s g e).peer c = installedPeer g e (members s g) (s.peer c) := by
  unfold epochMarked
  rw [withPeers_peer]
  exact Tab.get_map (f := installedPeer g e (members s g)) (if_neg fun h => by simp at h) s.peers c

/-- The end of a change leaves the registers, the memories, the descriptors, the streams and the contexts. -/
theorem changeEnded_frame (s : State) (g : Nat) (t : State) :
    ∃ cores ctx asm grps, changeEnded s g t = { t with cores := cores, ctx := ctx, asm := asm, grps := grps } := ⟨_, _, _, _, rfl⟩

theorem grp_changeEnded (s : State) (g : Nat) (t : State) : (changeEnded s g t).grp g = { t.grp g with
    voted := [], suspects := if (ownSuspects s g).isEmpty then [] else [(modId s, ownSuspects s g)], resetReq := false, bar := {}, ahead := 0#32 } :=
  State.grp_setGrp (dropAsmOf (resumeRcvs t g (s.grp g).start) (goneOf s g).contains) g _

theorem st_changeEnded (s : State) (g : Nat) (t : State) : ((changeEnded s g t).grp g).st = (t.grp g).st := by rw [grp_changeEnded]

theorem suspects_changeEnded (s : State) (g : Nat) (t : State) (h : ownSuspects s g = []) : ((changeEnded s g t).grp g).suspects = [] := by
  rw [grp_changeEnded, h]
  rfl

/-- What an install leaves, once the group's streams have ended. -/
theorem install_of_ended (s : State) {g : Nat} (hg : g < 16) (e : Nat) {t u : State} (h3 : Aborts (epochMarked s g e) t)
    (hr : Resends (changeEnded s g t) u) :
    (u.dev = s.dev ∧ u.descs = s.descs ∧ (u.grp g).st = .stable ∧ (ownSuspects s g = [] → (u.grp g).suspects = []) ∧
      (∀ h, (s.stream h).st = .aborted → (u.stream h).st = .aborted) ∧ ∀ c, u.peer c = installedPeer g e (members s g) (s.peer c)) ∧
    ∀ off, 0x800000 ≤ off → off < 0x902000 → off ≠ Reg.fbRetry → rd u off = rd (epochMarked s g e) off := by
  have hgrp : u.grp g = (changeEnded s g t).grp g := hr.proj (State.grp · g) fun _ _ _ _ _ _ _ => rfl
  have hregs : (changeEnded s g t).regs = t.regs := by
    obtain ⟨_, _, _, _, he⟩ := changeEnded_frame s g t
    rw [he]
  have hold : ∀ {α : Type} (π : State → α), (∀ (v : State) regs sent history plinth draws out,
      π { v with regs := regs, sent := sent, history := history, plinth := plinth, draws := draws, out := out } = π v) →
      (∀ (v : State) cores ctx asm grps, π { v with cores := cores, ctx := ctx, asm := asm, grps := grps } = π v) → π u = π t := by
    intro α π h1 h2
    rw [hr.proj π h1]
    obtain ⟨_, _, _, _, he⟩ := changeEnded_frame s g t
    rw [he, h2]
  have hmark : ∀ {α : Type} (π : State → α), (∀ (v : State) regs grps peers, π { v with regs := regs, grps := grps, peers := peers } = π v) →
      π (epochMarked s g e) = π s := by
    intro α π h1
    obtain ⟨_, _, _, he⟩ := epochMarked_frame s g e
    rw [he, h1]
  refine ⟨⟨?_, ?_, ?_, fun ho => ?_, fun h ha => ?_, fun c => ?_⟩, fun off hl hh hf => ?_⟩
  · rw [hold State.dev (fun _ _ _ _ _ _ _ => rfl) fun _ _ _ _ _ => rfl, h3.dev, hmark State.dev fun _ _ _ _ => rfl]
  · rw [hold State.descs (fun _ _ _ _ _ _ _ => rfl) fun _ _ _ _ _ => rfl, h3.proj State.descs fun _ _ _ _ _ _ _ _ _ _ _ _ _ _ _ _ => rfl,
      hmark State.descs fun _ _ _ _ => rfl]
  · rw [hgrp, st_changeEnded, h3.grp, grp_epochMarked]
  · rw [hgrp, suspects_changeEnded s g t ho]
  · rw [hold (State.stream · h) (fun _ _ _ _ _ _ _ => rfl) fun _ _ _ _ _ => rfl]
    exact h3.aborted (by rwa [hmark (State.stream · h) fun _ _ _ _ => rfl])
  · rw [hold (State.peer · c) (fun _ _ _ _ _ _ _ => rfl) fun _ _ _ _ _ => rfl, h3.peer, peer_epochMarked]
  · rw [hr.2 off hf, rd_congr hregs, h3.2.1 off hl hh]

theorem installEpoch_installs (s : State) {g : Nat} (hg : g < 16) (e : Nat) {st : Stop} (hst : st = .aborted ∨ st = .grpReset) :
    Installs g e s (installEpoch s g e st) := by
  have h0 : Aborts s (streamsEnded s g) := abortStreams_aborts _ _ _ (.inl rfl)
  have hself : ∀ h, (s.stream h).st = .aborted ∨ (s.stream h).group.val = g ∧ ((s.stream h).st = .open_ ∨ (s.stream h).st = .active) →
      ((streamsEnded s g).stream h).st = .aborted := fun h hh =>
    hh.elim h0.aborted fun hh => abortGroup_self s g 9 (.inl rfl) hh.1 hh.2
  have hmap : SameMap g s (streamsEnded s g) := h0.sameMap hg
  have hown : mySuspects s g = [] → ownSuspects (streamsEnded s g) g = [] := fun hm => by
    unfold ownSuspects mySuspects
    rw [h0.grp, hmap.modId]
    exact congrArg (List.filter _) hm
  have h3 : Aborts (epochMarked (streamsEnded s g) g e) ((goneItems (streamsEnded s g) g).foldl (fun t k => stopKey t k st)
    (epochMarked (streamsEnded s g) g e)) := stopKeys_aborts _ _ hst
  have hr : ∀ (t : State) (l : List Sent), Resends t (l.foldl (restamp ((streamsEnded s g).grp g).start) t) := fun t l =>
    Resends.refl.foldl fun u x => restamp_resends _ u x
  rw [installEpoch_eq]
  generalize (goneItems (streamsEnded s g) g).foldl (fun t k => stopKey t k st) (epochMarked (streamsEnded s g) g e) = t at *
  generalize hl : (changeEnded (streamsEnded s g) g t).sent.filter _ = l
  have hr := hr (changeEnded (streamsEnded s g) g t) l
  generalize l.foldl (restamp ((streamsEnded s g).grp g).start) (changeEnded (streamsEnded s g) g t) = u at *
  obtain ⟨⟨hdev, hdescs, hst, hsus, hstr, hpeer⟩, hrd⟩ := install_of_ended _ hg e h3 hr
  generalize streamsEnded s g = s1 at *
  have hstat : rd u (Reg.ceGrpstat g) = rd (epochMarked s1 g e) (Reg.ceGrpstat g) := hrd _ (by simp only [Reg.ceGrpstat]; omega)
    (by simp only [Reg.ceGrpstat]; omega) (by simp only [Reg.ceGrpstat, Reg.fbRetry]; omega)
  have hgroup : rd u (Reg.fbGroup g) = rd (epochMarked s1 g e) (Reg.fbGroup g) := hrd _ (by simp only [Reg.fbGroup]; omega)
    (by simp only [Reg.fbGroup]; omega) (by simp only [Reg.fbGroup, Reg.fbRetry]; omega)
  exact {
    dev := hdev.trans h0.dev
    descs := hdescs.trans (h0.proj State.descs fun _ _ _ _ _ _ _ _ _ _ _ _ _ _ _ _ => rfl)
    regs := fun off hl hh hs hb hf => ((hrd off hl hh hf).trans (rd_epochMarked_other s1 g e hs hb)).trans (h0.2.1 off hl hh)
    stat := (fget_congr_rd hstat _ _).trans (fget_epochMarked_stat s1 g e)
    epoch := fun he => (fget_congr_rd hgroup _ _).trans (fget_epochMarked_epoch s1 g he)
    clear := (fbit_congr_rd hgroup _).trans (fbit_epochMarked s1 g e)
    st := hst
    calm := fun hm => by
      unfold mySuspects
      rw [hsus (hown hm)]
      rfl
    ended := fun h hh => hstr h (hself h hh)
    peers := fun c => by rw [hpeer c, hmap.members, h0.peer] }

end Sys2Proof.Proofs
end

section
/-! PROOFS. Groups form and reset: O33. -/

namespace Sys2Proof.Proofs
open Sys2Proof.Machine

/-! ### A formation (R241) -/

/-- A message of level 0 is logged, and no group hears of it. -/
theorem grp_cfgMismatch (s : State) (h g k : Nat) : (cfgMismatch s h g).grp k = s.grp k := by
  obtain ⟨m, hm⟩ : ∃ m, m = mkMsg s (8 + h / 1024) 0x200 0x53 0 0 (h % 65536 + g * 65536) := ⟨_, rfl⟩
  have hkind : mKind m = 0x53 := hm ▸ mkMsg_kind _ _ _ _ _ _ _
  have hlvl : mLevel m = 0 := hm ▸ mkMsg_level _ _ _ _ _ _ _
  have hone : collectOne s m none = logMsg s m := by
    unfold collectOne
    simp only [hkind, hlvl]
    rfl
  obtain ⟨⟨_, _, _, hlog⟩, -, -⟩ := logMsg_logged s m
  have hnew : NoNewWants s (collectOne s m none) := fun x hx _ => by
    rw [hone, hlog] at hx
    exact hx
  have hrep : cfgMismatch s h g = pinAlert (logMsg s m) := by
    unfold cfgMismatch report
    rw [← hm, collect_of_noNewWants hnew, if_pos hlvl, hone]
  obtain ⟨_, _, hpin⟩ := pinAlert_frame (logMsg s m)
  rw [hrep, hpin, hlog]
  rfl

theorem writeGrpcfg_frame (s : State) (g v : Nat) : ∃ regs, writeGrpcfg s g v = { s with regs := regs } := by
  obtain ⟨_, h⟩ := regWritePlain_frame s (Reg.ceGrpcfg g) v
  unfold writeGrpcfg
  rw [h]
  exact ⟨_, rfl⟩

/-- A write of CE_GRPCFG, as a function's access makes it, leaves all but registers and the half that waits. -/
theorem cfgWritten_frame (s : State) (g : Part) (v : W64) :
    ∃ regs low, writeGrpcfg (s.dropLow 0 (Reg.ceGrpcfg g)) g v.toNat = { s with regs := regs, lowPend := low } := by
  obtain ⟨low, hlow⟩ := dropLow_frame s 0 (Reg.ceGrpcfg g)
  obtain ⟨regs, h⟩ := writeGrpcfg_frame (s.dropLow 0 (Reg.ceGrpcfg g)) g v.toNat
  exact ⟨regs, low, by rw [h, hlow]⟩

/-- The slots of the map are as many as CE_GRPCFG was written with. -/
theorem slotsOf_writeGrpcfg (s : State) (g : Part) (v : Nat) : slotsOf (writeGrpcfg s g v) g = bits v 20 0 := by
  have hfield : ∀ g : Part, hasField .rw (Reg.ceGrpcfg g) 20 0 = true := by decide +kernel
  unfold slotsOf writeGrpcfg
  rw [fget_fset_field _ _ _ (by omega) (by omega) (by omega) (by omega)]
  exact fget_regWritePlain_rw (hfield g) (by omega) (by omega) s v

/-- What GROUP_FORM does to a group that may form. -/
theorem groupForm_runs {s : State} {g : Part} {v : W64} (heard : List HeaderMsg) (hr : reachable s = true) (hv : v.getLsbD 63 = true)
    (hst : (s.grp g).st = .unformed ∨ (s.grp g).st = .formfail ∨ (s.grp g).st = .noquorum) :
    exec (.groupForm g v heard) s = .next (
      let s1 := writeGrpcfg (s.dropLow 0 (Reg.ceGrpcfg g)) g v.toNat
      let d := mapDigest s1 g
      if !mapOk s1 g || heard.any fun m => !m.form || m.digest ≠ d then
        cfgMismatch (setGState (barStart s1 g 0 (some d)) g .formfail) 0 g
      else
        let s2 := barTake (barStart s1 g 0 (some d)) g 0 (some d) heard
        if barDone s2 g then formGroup s2 g else s2) := by
  have hbit : bit v.toNat 63 = true := (bit_toNat v 63).trans hv
  have hmay : ((s.grp g).st == .unformed || (s.grp g).st == .formfail || (s.grp g).st == .noquorum) = true := by
    rcases hst with h | h | h <;> rw [h] <;> rfl
  show execGroupForm g v heard s = _
  unfold execGroupForm hostWide
  rw [hostCmd_up hr]
  dsimp only
  rw [hbit, hmay, if_neg (by decide)]

/-- The barrier of a formation sends its first headers. -/
theorem formation_first (s : State) (g : Part) (op : Nat) (digest : Option W64) (heard : List HeaderMsg) {f : Xfer} (hf : f ∈ firstOf s g) :
    headerOut s g op digest (freshBar g) f ∈ (barTake (barStart s g op digest) g op digest heard).out :=
  (Barred.refl.barTake op digest heard).out (barStart_first s g op digest hf)

/-- A group whose barrier is complete is STABLE at epoch 1. -/
theorem formGroup_spec (s : State) {g : Nat} (hg : g < 16) (hreset : (s.grp g).resetReq = false) : Installs g 1 s (formGroup s g) := by
  have hform : formGroup s g = installEpoch s g 1 .aborted := by
    unfold formGroup
    rw [hreset]
    rfl
  rw [hform]
  exact installEpoch_installs s hg 1 (.inl rfl)

/-! ### A reset (R254) -/

/-- A context that a change or a reset moves. -/
def groupCtxMoved (g frm nxt : Nat) (x : Peer) : Peer := if x.group.val = g ∧ x.st = frm then { x with st := nxt } else x

theorem peer_moveContexts (s : State) (g frm nxt : Nat) (hf : frm ≠ 0) (c : Nat) :
    (moveContexts s g frm nxt).peer c = groupCtxMoved g frm nxt (s.peer c) :=
  Tab.get_map (f := groupCtxMoved g frm nxt) (if_neg fun h => hf h.2.symm) s.peers c

theorem grp_moveContexts (s : State) (g frm nxt k : Nat) : (moveContexts s g frm nxt).grp k = s.grp k := rfl

/-- A group's contexts are HELD, and its entry is another. -/
def ctxHeld (s : State) (g : Nat) (x : Grp) : State := (moveContexts s g 1 2).setGrp g x

theorem ctxHeld_frame (s : State) (g : Nat) (x : Grp) : ∃ grps peers, ctxHeld s g x = { s with grps := grps, peers := peers } := ⟨_, _, rfl⟩

theorem ctxHeld_regs (s : State) (g : Nat) (x : Grp) : (ctxHeld s g x).regs = s.regs := rfl

theorem grp_ctxHeld (s : State) (g : Nat) (x : Grp) : (ctxHeld s g x).grp g = x := State.grp_setGrp _ _ _

theorem peer_ctxHeld (s : State) (g : Nat) (x : Grp) (c : Nat) : (ctxHeld s g x).peer c = groupCtxMoved g 1 2 (s.peer c) :=
  peer_moveContexts s g 1 2 (by omega) c

/-- The group is RESETTING and its contexts are HELD. -/
def groupReset (s : State) (g : Nat) : State :=
  ctxHeld (setGState s g .resetting) g { s.grp g with st := .resetting, start := s.time }

theorem startReset_eq (s : State) (g : Nat) : startReset s g = barStart (groupReset s g) g 6 none := by
  have hg : (moveContexts (setGState s g .resetting) g 1 2).grp g = { s.grp g with st := .resetting } :=
    (grp_moveContexts _ _ _ _ _).trans (grp_setGState s g .resetting)
  unfold startReset groupReset ctxHeld
  dsimp only
  rw [hg]

theorem groupReset_frame (s : State) (g : Nat) : ∃ regs grps peers, groupReset s g = { s with regs := regs, grps := grps, peers := peers } := by
  obtain ⟨regs, grps, h⟩ := setGState_frame s g .resetting
  obtain ⟨_, _, hc⟩ := ctxHeld_frame (setGState s g .resetting) g { s.grp g with st := .resetting, start := s.time }
  unfold groupReset
  rw [hc, h]
  exact ⟨_, _, _, rfl⟩

theorem regs_groupReset (s : State) (g : Nat) : (groupReset s g).regs = (setGState s g .resetting).regs := ctxHeld_regs _ _ _

theorem grp_groupReset (s : State) (g : Nat) : (groupReset s g).grp g = { s.grp g with st := .resetting, start := s.time } := grp_ctxHeld _ _ _

theorem peer_setGState (s : State) (g : Nat) (x : GState) (c : Nat) : (setGState s g x).peer c = s.peer c := by
  obtain ⟨_, _, h⟩ := setGState_frame s g x
  rw [h]
  rfl

theorem peer_groupReset (s : State) (g c : Nat) : (groupReset s g).peer c = groupCtxMoved g 1 2 (s.peer c) := by
  unfold groupReset
  rw [peer_ctxHeld, peer_setGState]

/-- A reset that starts. -/
structure ResetStarts (g : Part) (s t : State) : Prop where
  mem   : sameMemory s t
  st    : (t.grp g).st = .resetting
  held  : fbit t (Reg.fbGroup g) 31 = true
  first : ∀ f ∈ firstOf s g, headerOut s g 6 none (freshBar g) f ∈ t.out
  peers : ∀ c, t.peer c = groupCtxMoved g 1 2 (s.peer c)

theorem startReset_starts (s : State) (g : Part) : ResetStarts g s (startReset s g) := by
  rw [startReset_eq]
  have hbar : Barred g (groupReset s g) (barStart (groupReset s g) g 6 none) := Barred.refl.barStart 6 none
  have hrd : ∀ off, off ≠ Reg.ceGrpstat g → off ≠ Reg.fbGroup g → rd (groupReset s g) off = rd s off := fun off hs hb =>
    (rd_congr (regs_groupReset s g) off).trans (rd_setGState_other s g .resetting hs hb)
  obtain ⟨_, _, _, hframe⟩ := groupReset_frame s g
  have hmap : SameMap g s (groupReset s g) := .of_rd g.isLt (by rw [hframe]) fun off _ _ hs _ hb _ => hrd off hs hb
  have hfirst : ∀ f ∈ firstOf (groupReset s g) g, headerOut (groupReset s g) g 6 none (freshBar g) f ∈
      (barStart (groupReset s g) g 6 none).out := fun f hf =>
    barStart_first (groupReset s g) g 6 none hf
  have hst : ((groupReset s g).grp g).st = .resetting := by rw [grp_groupReset]
  have hheld : fbit (groupReset s g) (Reg.fbGroup g) 31 = true :=
    (fbit_congr (regs_groupReset s g) _ _).trans (fbit_setGState s g .resetting)
  have hpeer : ∀ c, (groupReset s g).peer c = groupCtxMoved g 1 2 (s.peer c) := peer_groupReset s g
  have hmem : sameMemory s (groupReset s g) := by rw [hframe]; exact ⟨rfl, rfl⟩
  generalize barStart (groupReset s g) g 6 none = t at *
  generalize groupReset s g = u at *
  obtain ⟨_, hb⟩ := hbar.grp
  exact {
    mem := ⟨(hbar.proj State.dev fun _ _ _ _ => rfl).trans hmem.1, (hbar.proj State.host fun _ _ _ _ => rfl).trans hmem.2⟩
    st := by rw [hb]; exact hst
    held := (fbit_congr_rd (hbar.regs _ (ceGrpstat_ne_fbGroup g).symm) _).trans hheld
    first := fun f hf => by
      have := hfirst f (hmap.firstOf.symm ▸ hf)
      rwa [hmap.headerOut 6 none rfl f] at this
    peers := fun c => (hbar.proj (State.peer · c) fun _ _ _ _ => rfl).trans (hpeer c) }

/-- The streams and the items that a reset ends, before the next epoch installs. -/
def resetEnded (s : State) (g : Nat) : State :=
  let s1 := (groupStreams s g).foldl (fun t h => abortStream t h 0x0A .grpReset) s
  (dedup ((s1.sent.filter fun (x : Sent) => x.dkind == 1 && (s1.peer x.dest).group.val == g).map (·.led))).foldl
    (fun t k => stopKey t k .grpReset) s1

theorem applyReset_eq (s : State) (g : Part) :
    applyReset s g = installEpoch (dropAsm (resetEnded s g) g) g (nextEpoch (grpEpoch (resetEnded s g) g)) .grpReset := rfl

theorem dropAsm_frame (s : State) (g : Nat) : ∃ asm, dropAsm s g = { s with asm := asm } := ⟨_, rfl⟩

theorem nextEpoch_lt {e : Nat} : nextEpoch e < 2 ^ 32 := by
  unfold nextEpoch
  split <;> omega

theorem resetEnded_spec (s : State) (g : Nat) : Aborts s (resetEnded s g) ∧
    ∀ h, (s.stream h).group.val = g → ((s.stream h).st = .open_ ∨ (s.stream h).st = .active) → ((resetEnded s g).stream h).st = .aborted := by
  have h1 : Aborts s ((groupStreams s g).foldl (fun t h => abortStream t h 0x0A .grpReset) s) := abortStreams_aborts _ _ _ (.inr rfl)
  have hself : ∀ h, (s.stream h).group.val = g → ((s.stream h).st = .open_ ∨ (s.stream h).st = .active) →
      (((groupStreams s g).foldl (fun t h => abortStream t h 0x0A .grpReset) s).stream h).st = .aborted := fun h hg ho =>
    abortGroup_self s g 0x0A (.inr rfl) hg ho
  unfold resetEnded
  dsimp only
  generalize (groupStreams s g).foldl (fun t h => abortStream t h 0x0A .grpReset) s = u at *
  have h2 := stopKeys_aborts u (dedup ((u.sent.filter fun (x : Sent) => x.dkind == 1 && (u.peer x.dest).group.val == g).map (·.led)))
    (.inr (rfl : Stop.grpReset = .grpReset))
  exact ⟨h1.trans h2, fun h hg ho => h2.aborted (hself h hg ho)⟩

/-- What a complete reset leaves. -/
theorem applyReset_spec (s : State) (g : Part) :
    let t := applyReset s g
    (t.grp g).st = .stable ∧ grpEpoch t g = nextEpoch (grpEpoch s g) ∧ t.dev = s.dev ∧
      (∀ h, (s.stream h).group = g → ((s.stream h).st = .open_ ∨ (s.stream h).st = .active) → (t.stream h).st = .aborted) ∧
      ∀ c, t.peer c = installedPeer g (nextEpoch (grpEpoch s g)) (members s g) (s.peer c) := by
  intro t
  obtain ⟨hends, hself⟩ := resetEnded_spec s g
  obtain ⟨_, hasm⟩ := dropAsm_frame (resetEnded s g) g
  have hi : Installs g (nextEpoch (grpEpoch (resetEnded s g) g)) (dropAsm (resetEnded s g) g) t := by
    show Installs _ _ _ (applyReset s g)
    rw [applyReset_eq]
    exact installEpoch_installs _ g.isLt _ (.inr rfl)
  clear_value t
  have hepoch : grpEpoch (resetEnded s g) g = grpEpoch s g := fget_congr_rd (hends.2.1 _ (by simp only [Reg.fbGroup]; omega)
    (by simp only [Reg.fbGroup]; omega)) _ _
  have hmap : SameMap g s (resetEnded s g) := hends.sameMap g.isLt
  rw [hasm, hepoch] at hi
  generalize resetEnded s g = u at *
  refine ⟨hi.st, hi.epoch nextEpoch_lt, hi.dev.trans hends.dev, fun h hg ho => hi.ended h (.inl (hself h (congrArg Fin.val hg) ho)), fun c => ?_⟩
  rw [hi.peers c]
  show installedPeer g _ (members u g) (u.peer c) = _
  rw [hmap.members, hends.peer]

/-- A reset of a STABLE group starts. -/
theorem requestReset_stable {s : State} {g : Part} {v : W64} (hv : v.getLsbD 62 = true) (hst : (s.grp g).st = .stable) :
    requestReset s g v.toNat = startReset (writeGrpcfg s g v.toNat) g := by
  unfold requestReset
  rw [bit_toNat, hv, hst]

/-- A group that resets takes the headers, and the reset takes effect once its barrier is complete. -/
theorem resetApply_resetting {s : State} {g : Part} {heard : List HeaderMsg} (hst : (s.grp g).st = .resetting) :
    exec (.groupResetApply g heard) s = .next (
      if barDone (barTake s g 6 none (heard.filter fun m => m.op = 6#8)) g = true
        then applyReset (barTake s g 6 none (heard.filter fun m => m.op = 6#8)) g
      else barTake s g 6 none (heard.filter fun m => m.op = 6#8)) := by
  have hno : ∀ b : Bool, ((s.grp g).st == .stable && b) = false := fun b => by rw [hst]; rfl
  show execGroupResetApply g heard s = _
  unfold execGroupResetApply
  dsimp only
  rw [hno, if_neg Bool.false_ne_true, hst, if_neg (by decide)]

/-- A STABLE group that hears of a reset joins it. -/
theorem resetApply_joins {s : State} {g : Part} {heard : List HeaderMsg} (hst : (s.grp g).st = .stable)
    (hne : (heard.filter fun m => m.op = 6#8) ≠ [])
    (hdone : barDone (barTake (startReset s g) g 6 none (heard.filter fun m => m.op = 6#8)) g = false) :
    exec (.groupResetApply g heard) s = .next (barTake (startReset s g) g 6 none (heard.filter fun m => m.op = 6#8)) := by
  have hjoin : ((s.grp g).st == .stable && !(heard.filter fun m => m.op = 6#8).isEmpty) = true := by
    rw [hst, List.isEmpty_eq_false_iff.mpr hne]
    rfl
  show execGroupResetApply g heard s = _
  unfold execGroupResetApply
  dsimp only
  rw [hjoin, if_pos rfl, (startReset_starts s g).st, if_neg (by decide), if_neg (Bool.eq_false_iff.mp hdone)]

/-! ### The statement -/

/-- A write of CE_GRPCFG as a function's access makes it. -/
def cfgWritten (s : State) (g : Part) (v : W64) : State := writeGrpcfg (s.dropLow 0 (Reg.ceGrpcfg g)) g v.toNat

theorem grp_cfgWritten (s : State) (g : Part) (v : W64) : (cfgWritten s g v).grp g = s.grp g := by
  obtain ⟨_, _, h⟩ := cfgWritten_frame s g v
  unfold cfgWritten
  rw [h]
  rfl

theorem dev_cfgWritten (s : State) (g : Part) (v : W64) : (cfgWritten s g v).dev = s.dev := by
  obtain ⟨_, _, h⟩ := cfgWritten_frame s g v
  unfold cfgWritten
  rw [h]

theorem slotsOf_cfgWritten (s : State) (g : Part) (v : W64) : slotsOf (cfgWritten s g v) g = bits v.toNat 20 0 := slotsOf_writeGrpcfg _ g v.toNat

/-- The barrier of a formation, once the headers have been taken. -/
def formation (s : State) (g : Part) (heard : List HeaderMsg) : State :=
  barTake (barStart s g 0 (some (mapDigest s g))) g 0 (some (mapDigest s g)) heard

section
variable {s : State} {g : Part} {v : W64} {heard : List HeaderMsg} (hr : reachable s = true) (hv : v.getLsbD 63 = true)
  (hst : (s.grp g).st = .unformed ∨ (s.grp g).st = .formfail ∨ (s.grp g).st = .noquorum)
include hr hv hst

/-- Where every header agrees, the formation goes on, or is done. -/
theorem groupForm_agrees (hok : mapOk (cfgWritten s g v) g = true)
    (hall : ∀ m ∈ heard, m.form = true ∧ m.digest = mapDigest (cfgWritten s g v) g) :
    exec (.groupForm g v heard) s = .next (if barDone (formation (cfgWritten s g v) g heard) g = true
      then formGroup (formation (cfgWritten s g v) g heard) g else formation (cfgWritten s g v) g heard) := by
  have hnone : (!mapOk (cfgWritten s g v) g || heard.any fun m => !m.form || decide (m.digest ≠ mapDigest (cfgWritten s g v) g)) = false := by
    rw [hok, List.any_eq_false.mpr fun m hm => by obtain ⟨hf, hd⟩ := hall m hm; simp [hf, hd]]
    rfl
  exact (groupForm_runs heard hr hv hst).trans (congrArg Host.Outcome.next (if_neg (Bool.eq_false_iff.mp hnone)))

/-- Where one differs, or the map cannot be formed on, it fails. -/
theorem groupForm_differs (hbad : mapOk (cfgWritten s g v) g = false ∨
    ∃ m ∈ heard, m.form = false ∨ m.digest ≠ mapDigest (cfgWritten s g v) g) :
    ∃ t, exec (.groupForm g v heard) s = .next t ∧ (t.grp g).st = .formfail := by
  have hsome : (!mapOk (cfgWritten s g v) g || heard.any fun m => !m.form || decide (m.digest ≠ mapDigest (cfgWritten s g v) g)) = true := by
    rcases hbad with hok | ⟨m, hm, hm'⟩
    · rw [hok]
      rfl
    · rw [List.any_eq_true.mpr ⟨m, hm, by rcases hm' with h | h <;> simp [h]⟩, Bool.or_true]
  refine ⟨_, (groupForm_runs heard hr hv hst).trans (congrArg Host.Outcome.next (if_pos hsome)), ?_⟩
  rw [grp_cfgMismatch, grp_setGState]

end

/-- A group that forms. -/
theorem formation_forms (s : State) (g : Part) (heard : List HeaderMsg) (hreset : (s.grp g).resetReq = false) :
    Installs g 1 (formation s g heard) (formGroup (formation s g heard) g) ∧ SameMap g s (formGroup (formation s g heard) g) := by
  have hbar : Barred g s (formation s g heard) := (Barred.refl.barStart _ _).barTake _ _ heard
  obtain ⟨b, hb⟩ := hbar.grp
  have hi : Installs g 1 (formation s g heard) (formGroup (formation s g heard) g) := formGroup_spec _ g.isLt (by rw [hb]; exact hreset)
  exact ⟨hi, (hbar.sameMap g.isLt).trans (.of_rd g.isLt hi.dev fun off hl hh hs _ hb hf => hi.regs off hl hh hs hb hf)⟩

/-- A reset that a function asks for. -/
theorem groupReset_starts {s : State} {g : Part} {v : W64} (hr : reachable s = true) (hv : v.getLsbD 62 = true) (hst : (s.grp g).st = .stable) :
    exec (.groupReset g v) s = .next (startReset (cfgWritten s g v) g) := by
  have hgrp : (s.dropLow 0 (Reg.ceGrpcfg g)).grp g = s.grp g := by
    obtain ⟨_, h⟩ := dropLow_frame s 0 (Reg.ceGrpcfg g)
    rw [h]
    rfl
  show hostWide s 0 (Reg.ceGrpcfg g) (fun t => requestReset t g v.toNat) = _
  unfold hostWide
  rw [hostCmd_up hr]
  dsimp only
  rw [requestReset_stable hv (by rw [hgrp]; exact hst)]
  rfl

theorem startReset_cfgWritten (s : State) (g : Part) (v : W64) :
    sameMemory s (startReset (cfgWritten s g v) g) ∧ ∀ c, (startReset (cfgWritten s g v) g).peer c = groupCtxMoved g 1 2 (s.peer c) := by
  have hs := startReset_starts (cfgWritten s g v) g
  obtain ⟨_, _, h⟩ := cfgWritten_frame s g v
  have hsame : sameMemory s (cfgWritten s g v) := by unfold cfgWritten; rw [h]; exact ⟨rfl, rfl⟩
  have hpeer : ∀ c, (cfgWritten s g v).peer c = s.peer c := fun c => by unfold cfgWritten; rw [h]; rfl
  exact ⟨⟨hs.mem.1.trans hsame.1, hs.mem.2.trans hsame.2⟩, fun c => by rw [hs.peers c, hpeer c]⟩

/-- A reset whose barrier is complete, from the state before the last headers came. -/
theorem applyReset_taken (s : State) (g : Part) (ms : List HeaderMsg) :
    let t := applyReset (barTake s g 6 none ms) g
    (t.grp g).st = .stable ∧ grpEpoch t g = nextEpoch (grpEpoch s g) ∧ t.dev = s.dev ∧
      (∀ h, (s.stream h).group = g → ((s.stream h).st = .open_ ∨ (s.stream h).st = .active) → (t.stream h).st = .aborted) ∧
      ∀ c, (s.peer c).group = g → ((s.peer c).st = 1 ∨ (s.peer c).st = 2) → (members s g).contains (s.peer c).remmod.toNat = true →
        (t.peer c).st = 1 ∧ (t.peer c).epoch = BitVec.ofNat 32 (nextEpoch (grpEpoch s g)) := by
  intro t
  have hbar : Barred g s (barTake s g 6 none ms) := Barred.refl.barTake 6 none ms
  have hmap : SameMap g s (barTake s g 6 none ms) := hbar.sameMap g.isLt
  obtain ⟨hstable, hepoch, hdev, hstr, hpeer⟩ := applyReset_spec (barTake s g 6 none ms) g
  have ht : t = applyReset (barTake s g 6 none ms) g := rfl
  rw [← ht] at hstable hepoch hdev hstr hpeer
  clear_value t
  clear ht
  generalize barTake s g 6 none ms = u at *
  have hu : grpEpoch u g = grpEpoch s g := fget_congr_rd (hbar.regs _ (ceGrpstat_ne_fbGroup g).symm) _ _
  have hstream : ∀ h, u.stream h = s.stream h := fun h => hbar.proj (State.stream · h) fun _ _ _ _ => rfl
  have hctx : ∀ c, u.peer c = s.peer c := fun c => hbar.proj (State.peer · c) fun _ _ _ _ => rfl
  refine ⟨hstable, hu ▸ hepoch, hdev.trans hmap.dev, fun h hg ho => hstr h (by rwa [hstream]) (by rwa [hstream]), fun c hg hst hmem => ?_⟩
  have hmine : (((s.peer c).group.val == g.val) && ((s.peer c).st == 1 || (s.peer c).st == 2)) = true := by
    rcases hst with h | h <;> simp [hg, h]
  rw [hpeer c, hctx c, hmap.members, hu]
  unfold installedPeer
  rw [if_pos hmine, if_pos hmem]
  exact ⟨rfl, rfl⟩

/-- Settles O33: headers that are marked as sent went out, an install leaves the map and the memories, and a stream that was aborted stays
so. -/
theorem groupsFormAndReset : Obligations.GroupsFormAndReset := by
  unfold Obligations.GroupsFormAndReset
  intro s g v
  refine ⟨fun heard hr hv hst => ⟨fun hok hall => ⟨?_, fun hdone => ?_, fun hdone hreset => ?_⟩, fun hbad => ?_⟩, fun hr hv hst => ?_,
    fun heard => ⟨fun hst hne hdone => ?_, fun hst hdone => ?_, fun hst hdone => ?_⟩⟩
  · exact fun f hf => formation_first (cfgWritten s g v) g 0 _ heard hf
  · exact (groupForm_agrees hr hv hst hok hall).trans (congrArg Host.Outcome.next (if_neg (Bool.eq_false_iff.mp hdone)))
  · obtain ⟨hi, hmap⟩ := formation_forms (cfgWritten s g v) g heard (by rw [grp_cfgWritten]; exact hreset)
    exact ⟨_, (groupForm_agrees hr hv hst hok hall).trans (congrArg Host.Outcome.next (if_pos hdone)), hi.st,
      hi.epoch (by omega), hi.stat, hi.clear, hmap.slotsOf.trans (slotsOf_cfgWritten s g v), hmap.dev.trans (dev_cfgWritten s g v)⟩
  · exact groupForm_differs hr hv hst hbad
  · have hs := startReset_starts (cfgWritten s g v) g
    obtain ⟨hmem, hpeer⟩ := startReset_cfgWritten s g v
    refine ⟨_, groupReset_starts hr hv hst, hs.st, hs.held, hmem, hs.first, fun c hg h1 => ?_, fun c hn => ?_⟩
    · rw [hpeer c]
      exact if_pos ⟨congrArg Fin.val hg, h1⟩
    · rw [hpeer c]
      exact if_neg fun h => hn.elim (fun hg => hg (Fin.ext h.1)) fun h1 => h1 h.2
  · exact resetApply_joins hst hne hdone
  · exact (resetApply_resetting hst).trans (congrArg Host.Outcome.next (if_neg (Bool.eq_false_iff.mp hdone)))
  · exact ⟨_, (resetApply_resetting hst).trans (congrArg Host.Outcome.next (if_pos hdone)), applyReset_taken s g _⟩

end Sys2Proof.Proofs
end

section
/-! PROOFS. The messages and timeouts of a membership change: O34. -/

namespace Sys2Proof.Proofs
open Sys2Proof.Machine

/-! ### A message that arrives (R257) -/

/-- The type that a payload is read with is that of its first byte. -/
theorem membType_of_read {pl : List Byte} {m : Memb} (h : readMemb pl = some m) : membType pl = m.typ := by
  have htyp : m.typ = bits (ofLe (pl.take 24)) 3 0 := by
    unfold readMemb at h
    dsimp only at h
    split at h
    · exact nomatch h
    · rw [← Option.some.inj h]
  rw [htyp]
  unfold membType
  cases pl with
  | nil => rfl
  | cons b bs =>
    show bits (b.toNat + 256 * 0) 3 0 = bits (b.toNat + 256 * ofLe (bs.take 23)) 3 0
    simp only [bits_eq_mod_div _ 3 0 (by omega)]
    omega

/-- A message for this module goes to what takes its type. -/
theorem memb_taken {s : State} {p : Port} {pkt : List Byte} {m : Memb} (h : membArrives s p pkt m) :
    ∃ pl, readMemb pl = some m ∧ membCmd m.typ p pkt s = match m.typ with
      | 1 => takeNotice pl s
      | 2 => takeChange pl s
      | 3 => takeVote pl s
      | 4 => takeCommit pl s
      | 5 => takeTakeover pl s
      | _ => finc s Reg.fbStat 47 32 1 := by
  obtain ⟨hp, hup, hcrc, htyp, hmt, hd, pl, sl, hparse, htyp4, hdst, hread⟩ := h
  refine ⟨pl, hread, ?_⟩
  unfold membCmd
  rw [if_pos hmt, torusIn_passes hp htyp hup hcrc hparse hdst, htyp4]
  show membIn s pl = _
  unfold membIn
  rw [hread, if_neg (by simp), membType_of_read hread] <;> rfl

/-- A message of the group's epoch acts. -/
theorem withMemb_acts {s : State} {pl : List Byte} {m : Memb} (hread : readMemb pl = some m) (hepoch : m.epoch = grpEpoch s m.grp)
    (hformed : formed s m.grp = true) (f : Memb → State) : withMemb m.typ pl s f = f m := by
  have hdiff : sdiff32 (BitVec.ofNat 32 m.epoch) (BitVec.ofNat 32 (grpEpoch s m.grp)) = 0 := by
    rw [hepoch]
    simp [sdiff32]
  unfold withMemb
  rw [hread]
  dsimp only
  rw [hdiff, if_neg (by simp [hformed]), if_pos rfl]

/-! ### What the steps of a change leave (R237, R258) -/

/-- A change goes on: no memory changes, no register but the group's own statuses, and not its epoch. -/
structure Changes (g : Nat) (s t : State) : Prop where
  mem   : sameMemory s t
  regs  : ∀ off, off ≠ Reg.ceGrpstat g → off ≠ Reg.ceGrpcoord g → off ≠ Reg.fbGroup g → rd t off = rd s off
  epoch : grpEpoch t g = grpEpoch s g

section
variable {g : Nat} {s t u : State}

theorem Changes.refl : Changes g s s := ⟨⟨rfl, rfl⟩, fun _ _ _ _ => rfl, rfl⟩

theorem Changes.trans (h : Changes g s t) (k : Changes g t u) : Changes g s u :=
  ⟨⟨k.mem.1.trans h.mem.1, k.mem.2.trans h.mem.2⟩, fun off hs hc hb => (k.regs off hs hc hb).trans (h.regs off hs hc hb), k.epoch.trans h.epoch⟩

theorem Changes.of_regs (hm : sameMemory s t) (hr : t.regs = s.regs) : Changes g s t := ⟨hm, fun _ _ _ _ => rd_congr hr _, fget_congr hr _ _ _⟩

theorem Changes.sameMap (h : Changes g s t) (hg : g < 16) : SameMap g s t :=
  .of_rd hg h.mem.1 fun off _ _ hs hc hb _ => h.regs off hs hc hb

theorem Noted.changes (h : Noted s t) : Changes g s t := by
  obtain ⟨_, _, _, rfl⟩ := h
  exact .of_regs ⟨rfl, rfl⟩ rfl

theorem setGrp_changes (s : State) (g : Nat) (x : Grp) : Changes g s (s.setGrp g x) := .of_regs ⟨rfl, rfl⟩ rfl

theorem addSuspects_changes (s : State) (g a : Nat) (bs : List Nat) : Changes g s (addSuspects s g a bs) := setGrp_changes _ _ _

theorem setGState_changes (s : State) (g : Nat) (x : GState) : Changes g s (setGState s g x) := by
  obtain ⟨_, _, h⟩ := setGState_frame s g x
  exact ⟨by rw [h]; exact ⟨rfl, rfl⟩, fun off hs _ hb => rd_setGState_other s g x hs hb, grpEpoch_setGState s g x⟩

theorem ctxHeld_changes (s : State) (g : Nat) (x : Grp) : Changes g s (ctxHeld s g x) := .of_regs ⟨rfl, rfl⟩ rfl

theorem ceGrpcoord_ne_fbGroup : Reg.fbGroup g ≠ Reg.ceGrpcoord g := by
  unfold Reg.fbGroup Reg.ceGrpcoord
  omega

theorem setCoord_changes (s : State) (g c : Nat) : Changes g s (setCoord s g c) :=
  ⟨⟨rfl, rfl⟩, fun _ _ hc _ => rd_fset_other (s.setGrp g _) _ _ _ hc, fget_fset_other (s.setGrp g _) _ _ _ _ _ ceGrpcoord_ne_fbGroup⟩

theorem grp_setCoord (s : State) (g c : Nat) : (setCoord s g c).grp g = { s.grp g with coord := c, since := s.time } := by
  unfold setCoord
  rw [grp_fset, State.grp_setGrp]

theorem fget_setCoord (s : State) (g c : Nat) : fget (setCoord s g c) (Reg.ceGrpcoord g) 18 0 = c % 2 ^ 19 :=
  fget_fset_self _ _ _ (by omega) (by omega)

theorem fbit_setCoord (s : State) (g c : Nat) : fbit (setCoord s g c) (Reg.fbGroup g) 31 = fbit s (Reg.fbGroup g) 31 :=
  fbit_fset_other (s.setGrp g _) _ _ _ _ ceGrpcoord_ne_fbGroup

theorem sendMemb_noted (s : State) (g dst typ coord : Nat) (recs : List Nat) : Noted s (sendMemb s g dst typ coord recs) := sendPkt_noted _ _ _ _

theorem castMemb_noted (s : State) (g typ coord : Nat) (out recs : List Nat) : Noted s (castMemb s g typ coord out recs) :=
  List.foldlRecOn (motive := Noted s) _ _ ⟨_, _, _, rfl⟩ fun _ hu _ _ => hu.trans (sendMemb_noted _ _ _ _ _ _)

theorem Noted.grp (h : Noted s t) (g : Nat) : t.grp g = s.grp g := h.proj (State.grp · g) fun _ _ _ _ => rfl

theorem Noted.regs (h : Noted s t) : t.regs = s.regs := h.proj State.regs fun _ _ _ _ => rfl

end

/-- A group that enters CHANGING from a state in which it was not. -/
theorem enterChanging_eq (s : State) (g : Nat) (hst : (s.grp g).st = .stable) : enterChanging s g = ctxHeld (setGState s g .changing) g
    { s.grp g with st := .changing, start := s.time, since := s.time, voted := [], resetReq := false } := by
  have hg : (moveContexts (setGState s g .changing) g 1 2).grp g = { s.grp g with st := .changing } :=
    (grp_moveContexts _ _ _ _ _).trans (grp_setGState s g .changing)
  unfold enterChanging ctxHeld
  dsimp only
  rw [hg, hst]
  rfl

theorem enterChanging_stays {s : State} {g : Nat} (hst : (s.grp g).st = .changing) : enterChanging s g = s := by
  unfold enterChanging
  rw [hst]
  rfl

/-- A group that enters a change, or is in one. -/
structure Enters (g : Nat) (s t : State) : Prop extends Changes g s t where
  st       : (t.grp g).st = .changing
  suspects : (t.grp g).suspects = (s.grp g).suspects
  held     : (s.grp g).st = .stable → fbit t (Reg.fbGroup g) 31 = true

theorem enterChanging_enters {s : State} {g : Nat} (hst : (s.grp g).st = .stable ∨ (s.grp g).st = .changing) : Enters g s (enterChanging s g) := by
  rcases hst with h | h
  · have hc : Changes g s (enterChanging s g) := by
      rw [enterChanging_eq s g h]
      exact (setGState_changes s g .changing).trans (ctxHeld_changes _ g _)
    refine { hc with st := ?_, suspects := ?_, held := fun _ => ?_ }
    · rw [enterChanging_eq s g h, grp_ctxHeld]
    · rw [enterChanging_eq s g h, grp_ctxHeld]
    · rw [enterChanging_eq s g h, fbit_congr (ctxHeld_regs _ _ _), fbit_setGState]
      rfl
  · rw [enterChanging_stays h]
    exact { Changes.refl with st := h, suspects := rfl, held := fun h' => absurd (h.symm.trans h') (by decide) }

/-- The coordinator waits for a member that has not voted and is not suspect. -/
theorem decideIfAll_waits {s : State} {g : Part} (h : ∃ x ∈ members s g, x ∉ (s.grp g).voted ∧ (suspected s g).contains x = false) :
    decideIfAll s g = s := by
  obtain ⟨x, hx, hv, hs⟩ := h
  have hall : (members s g).all (fun m => (s.grp g).voted.contains m || (suspected s g).contains m) = false :=
    List.all_eq_false.mpr ⟨x, hx, by rw [hs, Bool.or_false]; simpa using hv⟩
  unfold decideIfAll
  dsimp only
  rw [hall, Bool.and_false, if_neg Bool.false_ne_true]

/-- This module coordinates a change, whose CHANGE has gone out. -/
structure Coordinates (g : Part) (s t : State) : Prop extends Changes g s t where
  st    : (t.grp g).st = .changing
  coord : (t.grp g).coord = modId s
  voted : (t.grp g).voted = [modId s]
  named : fget t (Reg.ceGrpcoord g) 18 0 = modId s
  held  : (s.grp g).st = .stable → fbit t (Reg.fbGroup g) 31 = true

theorem suspected_congr {s t : State} {g : Nat} (h : (t.grp g).suspects = (s.grp g).suspects) : suspected t g = suspected s g := by
  unfold suspected
  rw [h]

theorem modId_lt (s : State) : modId s < 2 ^ 19 := Nat.mod_lt _ (by decide)

theorem coordinate_coordinates {s : State} {g : Part} (hst : (s.grp g).st = .stable ∨ (s.grp g).st = .changing)
    (hx : ∃ x ∈ members s g, x ≠ modId s ∧ (suspected s g).contains x = false) : Coordinates g s (coordinate s g) := by
  have he : Enters g s (enterChanging s g) := enterChanging_enters hst
  obtain ⟨u, hu⟩ : ∃ u, enterChanging s g = u := ⟨_, rfl⟩
  rw [hu] at he
  obtain ⟨v, hv⟩ : ∃ v, (setCoord u g (modId s)).setGrp g { (setCoord u g (modId s)).grp g with voted := [modId s] } = v := ⟨_, rfl⟩
  have hgv : v.grp g = { u.grp g with coord := modId s, since := u.time, voted := [modId s] } := by
    rw [← hv, State.grp_setGrp, grp_setCoord]
  have hregs : v.regs = (setCoord u g (modId s)).regs := by rw [← hv]; rfl
  have hcv : Changes g s v := hv ▸ (he.toChanges.trans (setCoord_changes u g (modId s))).trans (setGrp_changes _ g _)
  have hn : Noted v (castMemb v g 2 (modId s) (suspected v g) (suspected v g)) := castMemb_noted _ _ _ _ _ _
  have hco : coordinate s g = decideIfAll (castMemb v g 2 (modId s) (suspected v g) (suspected v g)) g := by
    unfold coordinate
    dsimp only
    rw [hu, hv]
  generalize castMemb v g 2 (modId s) (suspected v g) (suspected v g) = w at *
  have hcw : Changes g s w := hcv.trans hn.changes
  have hgw : w.grp g = v.grp g := hn.grp g
  have hsus : suspected w g = suspected s g := suspected_congr (by rw [hgw, hgv]; exact he.suspects)
  have hwaits : decideIfAll w g = w := by
    obtain ⟨x, hmem, hne, hno⟩ := hx
    refine decideIfAll_waits ⟨x, by rw [(hcw.sameMap g.isLt).members]; exact hmem, ?_, by rw [hsus]; exact hno⟩
    rw [hgw, hgv]
    exact fun h => hne (List.mem_singleton.mp h)
  rw [hco, hwaits]
  refine { hcw with st := ?_, coord := ?_, voted := ?_, named := ?_, held := fun h => ?_ }
  · rw [hgw, hgv]
    exact he.st
  · rw [hgw, hgv]
  · rw [hgw, hgv]
  · rw [fget_congr hn.regs, fget_congr hregs, fget_setCoord, Nat.mod_eq_of_lt (modId_lt s)]
  · rw [fbit_congr hn.regs, fbit_congr hregs, fbit_setCoord]
    exact he.held h

theorem grp_addSuspects (s : State) (g a : Nat) (bs : List Nat) : ∃ l, (addSuspects s g a bs).grp g = { s.grp g with suspects := l } :=
  ⟨_, State.grp_setGrp s g _⟩

/-! ### NOTICE, CHANGE, VOTE and TAKEOVER (R237, R257, R258) -/

section
variable {s : State} {p : Port} {pkt : List Byte} {m : Memb} (hm : membArrives s p pkt m) (hepoch : m.epoch = grpEpoch s m.grp)
  (hformed : formed s m.grp = true)

include hm hepoch hformed

theorem notice_coordinates (htyp : m.typ = 1) (hst : (s.grp m.grp).st = .stable) :
    exec (.notice p pkt) s = .next (coordinate (addSuspects s m.grp m.sender m.recs) m.grp) := by
  obtain ⟨pl, hread, htake⟩ := memb_taken hm
  have hacts := withMemb_acts hread hepoch hformed
  rw [htyp] at htake hacts
  show Host.Outcome.next (membCmd 1 p pkt s) = _
  rw [htake]
  show Host.Outcome.next (withMemb 1 pl s _) = _
  rw [hacts, hst]

theorem change_votes (htyp : m.typ = 2) :
    exec (.change p pkt) s = .next (sendVote
      (castMemb (setCoord (enterChanging s m.grp) m.grp m.coord) m.grp 2 m.coord m.recs m.recs) m.grp m.coord) := by
  obtain ⟨pl, hread, htake⟩ := memb_taken hm
  have hacts := withMemb_acts hread hepoch hformed
  rw [htyp] at htake hacts
  show Host.Outcome.next (membCmd 2 p pkt s) = _
  rw [htake]
  show Host.Outcome.next (withMemb 2 pl s _) = _
  rw [hacts]

theorem vote_counts (htyp : m.typ = 3) (hst : (s.grp m.grp).st = .changing) (hcoord : (s.grp m.grp).coord = modId s) :
    exec (.vote p pkt) s = .next (decideIfAll ((addSuspects s m.grp m.sender m.recs).setGrp m.grp
      { (addSuspects s m.grp m.sender m.recs).grp m.grp with voted := insertAsc m.sender ((addSuspects s m.grp m.sender m.recs).grp m.grp).voted })
      m.grp) := by
  obtain ⟨pl, hread, htake⟩ := memb_taken hm
  have hacts := withMemb_acts hread hepoch hformed
  rw [htyp] at htake hacts
  have hmine : ((s.grp m.grp).st != .changing || decide ((s.grp m.grp).coord ≠ modId s)) = false := by
    rw [hst, hcoord]
    simp
  show Host.Outcome.next (membCmd 3 p pkt s) = _
  rw [htake]
  show Host.Outcome.next (withMemb 3 pl s _) = _
  rw [hacts]
  dsimp only
  rw [hmine, if_neg Bool.false_ne_true]

theorem takeover_passes (htyp : m.typ = 5) :
    exec (.takeover p pkt) s = .next (let s1 := addSuspects (enterChanging s m.grp) m.grp m.sender m.recs
      castMemb (setCoord (s1.setGrp m.grp { s1.grp m.grp with voted := [] }) m.grp m.sender) m.grp 5 m.sender m.recs m.recs) := by
  obtain ⟨pl, hread, htake⟩ := memb_taken hm
  have hacts := withMemb_acts hread hepoch hformed
  rw [htyp] at htake hacts
  show Host.Outcome.next (membCmd 5 p pkt s) = _
  rw [htake]
  show Host.Outcome.next (withMemb 5 pl s _) = _
  rw [hacts]

end

theorem mem_insertAsc {x y : Nat} : ∀ {l : List Nat}, y ∈ insertAsc x l ↔ y = x ∨ y ∈ l
  | [] => by simp [insertAsc]
  | z :: l => by
    unfold insertAsc
    split
    · simp
    split
    next h => subst h; simp
    · rw [List.mem_cons, mem_insertAsc, List.mem_cons]
      tauto

/-- A member that hears of a change enters it, passes the message on and votes. -/
theorem change_spec (s : State) (g : Part) (c : Nat) (recs : List Nat) (hst : (s.grp g).st = .stable) :
    let t := sendVote (castMemb (setCoord (enterChanging s g) g c) g 2 c recs recs) g c
    (t.grp g).st = .changing ∧ (t.grp g).coord = c ∧ (∃ u, t = sendMemb u g c 3 c (mySuspects s g)) ∧ Changes g s t := by
  intro t
  have he : Enters g s (enterChanging s g) := enterChanging_enters (.inl hst)
  have hn : Noted (setCoord (enterChanging s g) g c) (castMemb (setCoord (enterChanging s g) g c) g 2 c recs recs) := castMemb_noted _ _ _ _ _ _
  have hg := grp_setCoord (enterChanging s g) g c
  have hc : Changes g s (setCoord (enterChanging s g) g c) := he.toChanges.trans (setCoord_changes _ _ _)
  have ht : t = sendVote (castMemb (setCoord (enterChanging s g) g c) g 2 c recs recs) g c := rfl
  clear_value t
  generalize castMemb (setCoord (enterChanging s g) g c) g 2 c recs recs = u at *
  generalize setCoord (enterChanging s g) g c = v at *
  have hcu : Changes g s u := hc.trans hn.changes
  have hsus : mySuspects u g = mySuspects s g := by
    unfold mySuspects
    rw [hn.grp, hg, (hcu.sameMap g.isLt).modId]
    exact congrArg (fun l : List (Nat × List Nat) => (l.filter _).flatMap _) he.suspects
  have ht' : t = sendMemb u g c 3 c (mySuspects s g) := by rw [ht]; unfold sendVote; rw [hsus]
  have hnt : Noted u t := ht' ▸ sendMemb_noted _ _ _ _ _ _
  refine ⟨?_, ?_, ⟨u, ht'⟩, hcu.trans hnt.changes⟩
  · rw [hnt.grp, hn.grp, hg]
    exact he.st
  · rw [hnt.grp, hn.grp, hg]

/-- A member that hears of a takeover follows its sender. -/
theorem takeover_spec (s : State) (g : Part) (a : Nat) (recs : List Nat) (hst : (s.grp g).st = .stable ∨ (s.grp g).st = .changing) :
    let s1 := addSuspects (enterChanging s g) g a recs
    let t := castMemb (setCoord (s1.setGrp g { s1.grp g with voted := [] }) g a) g 5 a recs recs
    (t.grp g).st = .changing ∧ (t.grp g).coord = a ∧ (t.grp g).voted = [] ∧ sameMemory s t := by
  intro s1 t
  have he : Enters g s (enterChanging s g) := enterChanging_enters hst
  have hst1 : (s1.grp g).st = .changing := by
    obtain ⟨l, hl⟩ := grp_addSuspects (enterChanging s g) g a recs
    exact (congrArg Grp.st hl).trans he.st
  have hc1 : Changes g s s1 := he.toChanges.trans (addSuspects_changes _ _ _ _)
  clear_value s1
  have hg : (setCoord (s1.setGrp g { s1.grp g with voted := [] }) g a).grp g =
      { s1.grp g with voted := [], coord := a, since := s1.time } := by
    rw [grp_setCoord, State.grp_setGrp]
    rfl
  have hc : Changes g s (setCoord (s1.setGrp g { s1.grp g with voted := [] }) g a) :=
    (hc1.trans (setGrp_changes s1 g _)).trans (setCoord_changes _ g a)
  have hn : Noted (setCoord (s1.setGrp g { s1.grp g with voted := [] }) g a) t := castMemb_noted _ _ _ _ _ _
  refine ⟨?_, ?_, ?_, (hc.trans (hn.changes (g := g))).mem⟩ <;> rw [hn.grp, hg]
  exact hst1

/-- A vote that the coordinator records while another is out. -/
theorem vote_spec (s : State) (g : Part) (a : Nat) (recs : List Nat) (hst : (s.grp g).st = .changing)
    (hx : ∃ x ∈ members s g, x ∉ (s.grp g).voted ∧ x ≠ a ∧ (suspected (addSuspects s g a recs) g).contains x = false) :
    let s1 := addSuspects s g a recs
    let t := decideIfAll (s1.setGrp g { s1.grp g with voted := insertAsc a (s1.grp g).voted }) g
    a ∈ (t.grp g).voted ∧ (∀ x ∈ (s.grp g).voted, x ∈ (t.grp g).voted) ∧ (t.grp g).st = .changing ∧ t.regs = s.regs ∧ t.out = s.out ∧
      sameMemory s t := by
  intro s1
  obtain ⟨l, hl⟩ : ∃ l, s1.grp g = { s.grp g with suspects := l } := grp_addSuspects s g a recs
  have hregs : s1.regs = s.regs ∧ s1.out = s.out ∧ sameMemory s s1 := ⟨rfl, rfl, rfl, rfl⟩
  have hmap : SameMap g s s1 := (addSuspects_changes s g a recs).sameMap g.isLt
  have hx : ∃ x ∈ members s g, x ∉ (s.grp g).voted ∧ x ≠ a ∧ (suspected s1 g).contains x = false := hx
  clear_value s1
  have hg : (s1.setGrp g { s1.grp g with voted := insertAsc a (s1.grp g).voted }).grp g =
      { s1.grp g with voted := insertAsc a (s1.grp g).voted } := State.grp_setGrp _ _ _
  have hwaits : decideIfAll (s1.setGrp g { s1.grp g with voted := insertAsc a (s1.grp g).voted }) g =
      s1.setGrp g { s1.grp g with voted := insertAsc a (s1.grp g).voted } := by
    obtain ⟨x, hmem, hv, hne, hno⟩ := hx
    refine decideIfAll_waits ⟨x, ?_, ?_, ?_⟩
    · rw [((setGrp_changes s1 g _).sameMap g.isLt).members, hmap.members]
      exact hmem
    · rw [hg]
      show x ∉ insertAsc a (s1.grp g).voted
      rw [mem_insertAsc, hl]
      exact fun h => h.elim hne hv
    · rw [suspected_congr (s := s1) (by rw [hg])]
      exact hno
  intro t
  have ht : t = s1.setGrp g { s1.grp g with voted := insertAsc a (s1.grp g).voted } := hwaits
  clear_value t
  rw [ht, hg]
  refine ⟨mem_insertAsc.mpr (.inl rfl), fun x hx => mem_insertAsc.mpr (.inr (by rw [hl]; exact hx)), ?_, hregs.1, hregs.2.1, hregs.2.2⟩
  rw [hl]
  exact hst

/-! ### The descriptors that a COMMIT rewrites (R259) -/

/-- No adapter is being restored. -/
def noneRestoring (s : State) : Prop := ∀ kv ∈ s.descs, kv.2.st ≠ .restoring

/-- Roles were rewritten: descriptors, the update log and the stages 12 may have changed, and no adapter is being restored. -/
def Rewrites (s t : State) : Prop :=
  (∃ descs updLog stage12, t = { s with descs := descs, updLog := updLog, stage12 := stage12 }) ∧ noneRestoring t

section
variable {s t u : State}

theorem Rewrites.refl (h : noneRestoring s) : Rewrites s s := ⟨⟨_, _, _, rfl⟩, h⟩

theorem Rewrites.trans (h : Rewrites s t) (g : Rewrites t u) : Rewrites s u := by
  obtain ⟨⟨_, _, _, rfl⟩, -⟩ := h
  obtain ⟨⟨_, _, _, rfl⟩, g⟩ := g
  exact ⟨⟨_, _, _, rfl⟩, g⟩

theorem Rewrites.ite {c : Prop} [Decidable c] {a b : State} (ha : Rewrites s a) (hb : Rewrites s b) : Rewrites s (if c then a else b) := by
  split
  · exact ha
  · exact hb

theorem desc_not_restoring (h : noneRestoring s) (t : Nat) : (s.desc t).st ≠ .restoring := fun hr =>
  h _ (Proofs.Tab.mem_of_get_ne (d := ({} : Desc)) (tab := s.descs) (k := t) fun hd => by
    rw [show s.desc t = _ from hd] at hr
    exact nomatch hr) hr

/-- A descriptor that changes, but not in its state. -/
theorem updDesc_rewrites (h : noneRestoring s) (t : Nat) {f : Desc → Desc} (hf : ∀ d, (f d).st = d.st) : Rewrites s (s.updDesc t f) := by
  refine ⟨⟨_, _, _, rfl⟩, fun kv hkv => ?_⟩
  have hkv : kv ∈ Tab.put {} s.descs t (f (s.desc t)) := hkv
  unfold Tab.put at hkv
  split at hkv
  · exact h kv (Tab.mem_erase hkv)
  rcases Tab.mem_insert hkv with rfl | hold
  · show (f (s.desc t)).st ≠ _
    rw [hf]
    exact desc_not_restoring h t
  · exact h kv hold

theorem setPartner_rewrites (h : noneRestoring s) (g t m : Nat) : Rewrites s (setPartner s g t m) := by
  unfold setPartner
  split
  · exact updDesc_rewrites h t fun _ => rfl
  · exact .refl h

theorem rebuildStage_rewrites (h : noneRestoring s) (g : Part) (t : Nat) (n : W32) : Rewrites s (rebuildStage s g t n) := ⟨⟨_, _, _, rfl⟩, h⟩

theorem logMirror_rewrites (h : noneRestoring s) (g : Part) (t : Nat) : Rewrites s (logMirror s g t) := by
  unfold logMirror
  split
  · exact ⟨⟨_, _, _, rfl⟩, h⟩
  · exact .refl h

theorem rebuildOwner_rewrites (h : noneRestoring s) (g : Part) (t : Nat) (promoted : Bool) : Rewrites s (rebuildOwner s g t promoted) := by
  unfold rebuildOwner
  dsimp only
  split
  · have hl := logMirror_rewrites h g t
    exact hl.trans (rebuildStage_rewrites hl.2 g t _)
  split
  next hr => exact absurd (eq_of_beq hr) (desc_not_restoring h t)
  · exact rebuildStage_rewrites h g t _

theorem rewriteRole_rewrites (h : noneRestoring s) (g : Part) (ms ns out : List Nat) (t : Nat) : Rewrites s (rewriteRole s g ms ns out t) := by
  have hrole : ∀ r : ARole, Rewrites s (s.updDesc t fun y => { y with role := r }) := fun r => updDesc_rewrites h t fun _ => rfl
  have hown : ∀ m, Rewrites s (setPartner (s.updDesc t fun y => { y with role := .owner }) g t m) := fun m =>
    (hrole .owner).trans (setPartner_rewrites (hrole .owner).2 g t m)
  have hpartner : ∀ m, Rewrites s (setPartner s g t m) := setPartner_rewrites h g t
  have hbuddy : ∀ m, Rewrites s ((setPartner s g t m).updDesc t fun y => { y with role := .buddy }) := fun m =>
    (hpartner m).trans (updDesc_rewrites (hpartner m).2 t fun _ => rfl)
  unfold rewriteRole
  dsimp only
  refine .ite (.refl h) (.ite ?_ (.ite ?_ (hpartner _)))
  · exact (hown _).trans (rebuildOwner_rewrites (hown _).2 g t _)
  · exact (hbuddy _).trans (rebuildStage_rewrites (hbuddy _).2 g t _)

theorem rewriteRoles_rewrites (h : noneRestoring s) (g : Part) (ms ns out : List Nat) : Rewrites s (rewriteRoles s g ms ns out) :=
  List.foldlRecOn (motive := Rewrites s) _ _ (.refl h) fun _ hu tag _ => hu.trans (rewriteRole_rewrites hu.2 g ms ns out tag)

/-- Without an adapter that is being restored nobody asks again. -/
theorem askAgain_none (h : noneRestoring s) (was : Nat → Bool) : askAgain s was = s := by
  have hnone : (s.descs.filter fun kv => kv.2.st == .restoring && kv.2.role == .owner && was kv.2.peerctx.toNat) = [] :=
    List.filter_eq_nil_iff.mpr fun kv hkv => by
      have := h kv hkv
      simp [this]
  unfold askAgain
  rw [hnone]
  rfl

end

/-! ### COMMIT (R238, R256, R258) -/

/-- What a COMMIT installs at a member that stays. -/
def installed (s : State) (g : Part) (out : List Nat) (t : State) : Prop :=
  (t.grp g).st = .stable ∧ grpEpoch t g = nextEpoch (grpEpoch s g) ∧ fbit t (Reg.fbGroup g) 31 = false ∧
    t.dev = Memory.write s.dev (rd s (Reg.ceSlotmap g)) ((newMods s g out).flatMap fun m => leBytes 4 (m + 2 ^ 31)) ∧
    ∀ h, (s.stream h).group = g → ((s.stream h).st = .open_ ∨ (s.stream h).st = .active) → (t.stream h).st = .aborted

/-- The state in which a COMMIT's epoch installs. -/
def mapWritten (s : State) (g : Part) (coord : Nat) (out : List Nat) : State := setCoord (writeMap s g out) g coord

theorem writeMap_frame (s : State) (g : Nat) (out : List Nat) : ∃ dev, writeMap s g out = { s with dev := dev } := ⟨_, rfl⟩

theorem setCoord_frame (s : State) (g c : Nat) : ∃ regs grps, setCoord s g c = { s with regs := regs, grps := grps } := ⟨_, _, rfl⟩

theorem mapWritten_frame (s : State) (g : Part) (coord : Nat) (out : List Nat) :
    ∃ dev regs grps, mapWritten s g coord out = { s with dev := dev, regs := regs, grps := grps } := by
  obtain ⟨_, h1⟩ := writeMap_frame s g out
  obtain ⟨_, _, h2⟩ := setCoord_frame (writeMap s g out) g coord
  unfold mapWritten
  rw [h2, h1]
  exact ⟨_, _, _, rfl⟩

/-- A COMMIT that keeps this module, where no reset waits and no adapter is being restored. -/
theorem applyCommit_stays {s : State} {g : Part} {coord : Nat} {out : List Nat} (hout : out.contains (modId s) = false)
    (hreset : (s.grp g).resetReq = false) :
    ∃ ms ns lastMs held, applyCommit s g coord out =
      askAgain (rewriteRoles (fset (finc (installEpoch (mapWritten s g coord out) g (nextEpoch (grpEpoch (mapWritten s g coord out) g)) .aborted)
        (Reg.ceGrpstat g) 31 16 1) (Reg.ceGrpstat g) 15 0 lastMs) g ms ns out) held := by
  refine ⟨slotMods s g, newMods s g out, min 0xFFFF ((s.time.toNat - (s.grp g).start.toNat) / 1000000),
    fun c => (s.peer c).st == 2 && (s.peer c).group == g, ?_⟩
  unfold applyCommit
  dsimp only
  rw [hout, if_neg Bool.false_ne_true, hreset, if_neg Bool.false_ne_true]
  rfl

theorem modId_mapWritten (s : State) (g : Part) (coord : Nat) (out : List Nat) : modId (mapWritten s g coord out) = modId s := by
  have hmod : rd (mapWritten s g coord out) Reg.fbModid = rd (writeMap s g out) Reg.fbModid :=
    (setCoord_changes (writeMap s g out) g coord).regs _ (by simp only [Reg.fbModid, Reg.ceGrpstat]; omega)
      (by simp only [Reg.fbModid, Reg.ceGrpcoord]; omega) (by simp only [Reg.fbModid, Reg.fbGroup]; omega)
  exact fget_congr_rd hmod _ _

/-- The change is counted, and how long it took is noted (R263). -/
theorem changeCounted_frame (s : State) (g lastMs : Nat) :
    (∃ regs, fset (finc s (Reg.ceGrpstat g) 31 16 1) (Reg.ceGrpstat g) 15 0 lastMs = { s with regs := regs }) ∧
      ∀ off, off ≠ Reg.ceGrpstat g → rd (fset (finc s (Reg.ceGrpstat g) 31 16 1) (Reg.ceGrpstat g) 15 0 lastMs) off = rd s off :=
  ⟨⟨_, rfl⟩, fun _ ho => (rd_fset_other _ _ _ _ ho).trans (rd_fset_other _ _ _ _ ho)⟩

theorem applyCommit_installs {s : State} {g : Part} {coord : Nat} {out : List Nat} (hout : out.contains (modId s) = false)
    (hreset : (s.grp g).resetReq = false) (hdescs : noneRestoring s) :
    installed s g out (applyCommit s g coord out) ∧ (mySuspects s g = [] → mySuspects (applyCommit s g coord out) g = []) := by
  obtain ⟨ms, ns, lastMs, held, heq⟩ := applyCommit_stays (coord := coord) hout hreset
  have hi : Installs g (nextEpoch (grpEpoch (mapWritten s g coord out) g)) (mapWritten s g coord out)
      (installEpoch (mapWritten s g coord out) g (nextEpoch (grpEpoch (mapWritten s g coord out) g)) .aborted) :=
    installEpoch_installs _ g.isLt _ (.inl rfl)
  obtain ⟨_, _, _, hframe⟩ := mapWritten_frame s g coord out
  have hdev : (mapWritten s g coord out).dev =
      Memory.write s.dev (rd s (Reg.ceSlotmap g)) ((newMods s g out).flatMap fun m => leBytes 4 (m + 2 ^ 31)) := rfl
  have hepoch : grpEpoch (mapWritten s g coord out) g = grpEpoch s g := (setCoord_changes (writeMap s g out) g coord).epoch
  have hown : mySuspects (mapWritten s g coord out) g = mySuspects s g := by
    unfold mySuspects
    rw [← modId_mapWritten s g coord out]
    unfold mapWritten
    rw [grp_setCoord]
    rfl
  have hstream : ∀ h, (mapWritten s g coord out).stream h = s.stream h := fun h => by rw [hframe]; rfl
  have hnone : noneRestoring (mapWritten s g coord out) := by rw [hframe]; exact hdescs
  rw [hepoch] at hi heq
  generalize mapWritten s g coord out = u at *
  generalize installEpoch u g (nextEpoch (grpEpoch s g)) .aborted = v at *
  have hcount := changeCounted_frame v g lastMs
  generalize fset (finc v (Reg.ceGrpstat g) 31 16 1) (Reg.ceGrpstat g) 15 0 lastMs = w at *
  obtain ⟨⟨_, hw⟩, hrd⟩ := hcount
  have hnone' : noneRestoring w := by
    unfold noneRestoring
    rw [hw]
    show ∀ kv ∈ v.descs, _
    rw [hi.descs]
    exact hnone
  have hroles : Rewrites w (rewriteRoles w g ms ns out) := rewriteRoles_rewrites hnone' g ms ns out
  rw [askAgain_none hroles.2] at heq
  rw [heq]
  obtain ⟨_, _, _, hr⟩ := hroles.1
  generalize rewriteRoles w g ms ns out = r at *
  have hregs : ∀ off, off ≠ Reg.ceGrpstat g → rd r off = rd v off := fun off ho => (rd_congr (by rw [hr]) off).trans (hrd off ho)
  have hgroup : rd r (Reg.fbGroup g) = rd v (Reg.fbGroup g) := hregs _ (ceGrpstat_ne_fbGroup g).symm
  have hgrp : r.grp g = v.grp g := by rw [hr, hw]; rfl
  have hmod : modId r = modId v := fget_congr_rd (hregs _ (by simp only [Reg.fbModid, Reg.ceGrpstat]; omega)) _ _
  refine ⟨⟨by rw [hgrp]; exact hi.st, (fget_congr_rd hgroup _ _).trans (hi.epoch nextEpoch_lt), (fbit_congr_rd hgroup _).trans hi.clear, ?_,
    fun h hg ho => ?_⟩, fun hm => ?_⟩
  · rw [hr, hw]
    exact hi.dev.trans hdev
  · have hv : (v.stream h).st = .aborted := hi.ended h (.inr ⟨by rw [hstream, hg], by rwa [hstream]⟩)
    rw [hr, hw]
    exact hv
  · have hv : mySuspects v g = [] := hi.calm (hown.trans hm)
    unfold mySuspects at hv ⊢
    rw [hgrp, hmod]
    exact hv

/-- What a COMMIT installs rests on nothing that a message changes. -/
theorem installed_congr {s s' : State} {g : Part} {out : List Nat} {t : State} (h : Noted s s') (hi : installed s' g out t) :
    installed s g out t := by
  have hc : Changes g s s' := h.changes
  have hmap : SameMap g s s' := hc.sameMap g.isLt
  obtain ⟨hst, hepoch, hclear, hdev, hstr⟩ := hi
  have hstream : ∀ n, s'.stream n = s.stream n := fun n => h.proj (State.stream · n) fun _ _ _ _ => rfl
  refine ⟨hst, hc.epoch ▸ hepoch, hclear, ?_, fun n hg ho => hstr n (by rwa [hstream]) (by rwa [hstream])⟩
  rw [hdev, hmap.dev, hmap.map, hmap.newMods]

/-- A COMMIT that is passed on, then installed. -/
theorem commit_installs {s : State} {g : Part} {coord : Nat} {out : List Nat} (recs : List Nat) (hout : out.contains (modId s) = false)
    (hreset : (s.grp g).resetReq = false) (hdescs : noneRestoring s) :
    installed s g out (applyCommit (castMemb s g 4 coord out recs) g coord out) ∧
      (mySuspects s g = [] → mySuspects (applyCommit (castMemb s g 4 coord out recs) g coord out) g = []) := by
  have hn : Noted s (castMemb s g 4 coord out recs) := castMemb_noted _ _ _ _ _ _
  generalize castMemb s g 4 coord out recs = u at *
  have hmod : modId u = modId s := ((hn.changes (g := g)).sameMap g.isLt).modId
  have hd : noneRestoring u := by
    unfold noneRestoring
    rw [show u.descs = s.descs from hn.proj State.descs fun _ _ _ _ => rfl]
    exact hdescs
  have hown : mySuspects u g = mySuspects s g := by
    unfold mySuspects
    rw [hn.grp, hmod]
  obtain ⟨hi, hcalm⟩ := applyCommit_installs (s := u) (coord := coord) (out := out) (by rwa [hmod]) (by rw [hn.grp]; exact hreset) hd
  exact ⟨installed_congr hn hi, fun hm => hcalm (hown.trans hm)⟩

/-- A COMMIT at a member without suspects of its own. -/
theorem commit_runs {s : State} {p : Port} {pkt : List Byte} {m : Memb} (hm : membArrives s p pkt m) (htyp : m.typ = 4)
    (hepoch : m.epoch = grpEpoch s m.grp) (hformed : formed s m.grp = true) (hout : m.recs.contains (modId s) = false)
    (hreset : (s.grp m.grp).resetReq = false) (hdescs : noneRestoring s) (hcalm : mySuspects s m.grp = []) :
    exec (.commit p pkt) s = .next (applyCommit (castMemb s m.grp 4 m.coord m.recs m.recs) m.grp m.coord m.recs) := by
  obtain ⟨pl, hread, htake⟩ := memb_taken hm
  have hacts := withMemb_acts hread hepoch hformed
  rw [htyp] at htake hacts
  have hstays := (commit_installs (coord := m.coord) m.recs hout hreset hdescs).2 hcalm
  show Host.Outcome.next (membCmd 4 p pkt s) = _
  rw [htake]
  show Host.Outcome.next (withMemb 4 pl s _) = _
  rw [hacts]
  dsimp only
  rw [if_neg fun h => h.2 hstays]

/-! ### The ends of the waits (R258) -/

/-- The vote window's end decides. -/
theorem voteWindow_decides {s : State} {g : Part} (hst : (s.grp g).st = .changing) (hcoord : (s.grp g).coord = modId s)
    (htime : (s.grp g).since.toNat + fget s (Reg.ceGrpcfg g) 47 40 * 1000000 ≤ s.time.toNat) :
    exec (.voteWindowExpiry g) s = .next (match removedSet (members s g) (s.grp g).voted (s.grp g).suspects with
      | none => setGState s g .noquorum
      | some out => applyCommit (castMemb s g 4 (modId s) out out) g (modId s) out) := by
  show execVoteWindowExpiry g s = _
  unfold execVoteWindowExpiry
  dsimp only
  rw [hst, hcoord, decide_eq_true htime, if_pos (by simp)]
  rfl

/-- The coordinator is suspect once its time is over. -/
theorem takeoverTimeout_runs {s : State} {g : Part} (hst : (s.grp g).st = .changing) (hcoord : (s.grp g).coord ≠ modId s)
    (htime : (s.grp g).since.toNat + fget s (Reg.ceGrpcfg g) 39 32 * 1000000 ≤ s.time.toNat) :
    exec (.takeoverTimeout g) s = (
      let s1 := addSuspects s g (modId s) [(s.grp g).coord]
      let c := coordOf s1 g (mySuspects s1 g)
      if c = modId s then .next (coordinate (castMemb (setCoord s1 g c) g 5 c (mySuspects s1 g) (mySuspects s1 g)) g)
      else .next (setCoord s1 g c)) := by
  have hlate : decide (s.time.toNat < (s.grp g).since.toNat + fget s (Reg.ceGrpcfg g) 39 32 * 1000000) = false :=
    decide_eq_false (by omega)
  show execTakeoverTimeout g s = _
  unfold execTakeoverTimeout
  dsimp only
  rw [hst, hlate, if_neg (by simp [hcoord])]

/-- The lowest of the rest takes over. -/
theorem takeover_coordinates {s : State} {g : Part} (hst : (s.grp g).st = .changing) (c : Nat) (recs : List Nat) (sus : List Nat)
    (hx : ∃ x ∈ members s g, x ≠ modId s ∧ (suspected (addSuspects s g (modId s) sus) g).contains x = false) :
    let t := coordinate (castMemb (setCoord (addSuspects s g (modId s) sus) g c) g 5 c recs recs) g
    (t.grp g).st = .changing ∧ (t.grp g).coord = modId s ∧ (t.grp g).voted = [modId s] ∧ sameMemory s t := by
  have hc1 : Changes g s (addSuspects s g (modId s) sus) := addSuspects_changes _ _ _ _
  obtain ⟨l, hl⟩ := grp_addSuspects s g (modId s) sus
  generalize addSuspects s g (modId s) sus = s1 at *
  have hc2 : Changes g s (setCoord s1 g c) := hc1.trans (setCoord_changes s1 g c)
  have hg2 := grp_setCoord s1 g c
  have hn : Noted (setCoord s1 g c) (castMemb (setCoord s1 g c) g 5 c recs recs) := castMemb_noted _ _ _ _ _ _
  generalize castMemb (setCoord s1 g c) g 5 c recs recs = u at *
  generalize setCoord s1 g c = v at *
  have hcu : Changes g s u := hc2.trans hn.changes
  have hmap : SameMap g s u := hcu.sameMap g.isLt
  have hgu : u.grp g = { s1.grp g with coord := c, since := s1.time } := (hn.grp g).trans hg2
  have hco : Coordinates g u (coordinate u g) := by
    refine coordinate_coordinates (.inr (by rw [hgu, hl]; exact hst)) ?_
    rw [hmap.members, hmap.modId, suspected_congr (s := s1) (by rw [hgu])]
    exact hx
  exact ⟨hco.st, hco.coord.trans hmap.modId, by rw [hco.voted, hmap.modId], (hcu.trans hco.toChanges).mem⟩

/-! ### The statement -/

/-- The messages of a change at a member and at the coordinator. -/
theorem messages_spec (s : State) (p : Port) (pkt : List Byte) (m : Memb) (hm : membArrives s p pkt m) (hepoch : m.epoch = grpEpoch s m.grp)
    (hformed : formed s m.grp = true) :
    let g := m.grp
    let s1 := addSuspects s g m.sender m.recs
    (m.typ = 1 → (s.grp g).st = .stable → (∃ x ∈ members s g, x ≠ modId s ∧ (suspected s1 g).contains x = false) →
      ∃ t, exec (.notice p pkt) s = .next t ∧ (t.grp g).st = .changing ∧ (t.grp g).coord = modId s ∧ (t.grp g).voted = [modId s] ∧
        fget t (Reg.ceGrpcoord g) 18 0 = modId s ∧ fbit t (Reg.fbGroup g) 31 = true ∧ grpEpoch t g = m.epoch ∧ sameMemory s t) ∧
    (m.typ = 2 → (s.grp g).st = .stable →
      ∃ t u, exec (.change p pkt) s = .next t ∧ (t.grp g).st = .changing ∧ (t.grp g).coord = m.coord ∧
        t = sendMemb u g m.coord 3 m.coord (mySuspects s g) ∧ grpEpoch t g = m.epoch ∧ sameMemory s t) ∧
    (m.typ = 3 → (s.grp g).st = .changing → (s.grp g).coord = modId s →
      (∃ x ∈ members s g, x ∉ (s.grp g).voted ∧ x ≠ m.sender ∧ (suspected s1 g).contains x = false) →
      ∃ t, exec (.vote p pkt) s = .next t ∧ m.sender ∈ (t.grp g).voted ∧ (∀ x ∈ (s.grp g).voted, x ∈ (t.grp g).voted) ∧
        (t.grp g).st = .changing ∧ t.regs = s.regs ∧ t.out = s.out ∧ sameMemory s t) ∧
    (m.typ = 5 → ((s.grp g).st = .stable ∨ (s.grp g).st = .changing) →
      ∃ t, exec (.takeover p pkt) s = .next t ∧ (t.grp g).st = .changing ∧ (t.grp g).coord = m.sender ∧ (t.grp g).voted = [] ∧ sameMemory s t) := by
  intro g s1
  refine ⟨fun htyp hst hx => ?_, fun htyp hst => ?_, fun htyp hst hcoord hx => ?_, fun htyp hst => ?_⟩
  · have hs1 : Changes g s s1 := addSuspects_changes _ _ _ _
    have hmap : SameMap g s s1 := hs1.sameMap g.isLt
    obtain ⟨l, hl⟩ : ∃ l, s1.grp g = { s.grp g with suspects := l } := grp_addSuspects _ _ _ _
    have hst1 : (s1.grp g).st = .stable := (congrArg Grp.st hl).trans hst
    have hco : Coordinates g s1 (coordinate s1 g) := coordinate_coordinates (.inl hst1) (by rw [hmap.members, hmap.modId]; exact hx)
    have hc : Changes g s (coordinate s1 g) := hs1.trans hco.toChanges
    rw [← hmap.modId]
    exact ⟨_, notice_coordinates hm hepoch hformed htyp hst, hco.st, hco.coord, hco.voted, hco.named, hco.held hst1, hc.epoch.trans hepoch.symm,
      hc.mem⟩
  · obtain ⟨hst', hcoord, ⟨u, hu⟩, hc⟩ := change_spec s g m.coord m.recs hst
    exact ⟨_, u, change_votes hm hepoch hformed htyp, hst', hcoord, hu, hc.epoch.trans hepoch.symm, hc.mem⟩
  · exact ⟨_, vote_counts hm hepoch hformed htyp hst hcoord, vote_spec s g m.sender m.recs hst hx⟩
  · exact ⟨_, takeover_passes hm hepoch hformed htyp, takeover_spec s g m.sender m.recs hst⟩

/-- Settles O34: messages touch no register but the group's own statuses, an install aborts the group's streams, and the roles that a COMMIT
rewrites touch the descriptors, the update log and the stages 12 alone. -/
theorem membershipMessages : Obligations.MembershipMessages := by
  unfold Obligations.MembershipMessages
  refine ⟨messages_spec, fun s g coord out hout hreset hdescs => ⟨fun p pkt m hm htyp hepoch hgrp hformed hcoord hrecs hcalm => ?_,
    fun hst hco htime => ⟨fun hset => ⟨_, ?_, (commit_installs (coord := modId s) out hout hreset hdescs).1⟩, fun hset => ?_⟩⟩,
    fun s g hst hco htime => ⟨fun hc => ?_, fun hc hx => ?_⟩⟩
  · subst hgrp hcoord hrecs
    exact ⟨_, commit_runs hm htyp hepoch hformed hout hreset hdescs hcalm, (commit_installs m.recs hout hreset hdescs).1⟩
  · rw [voteWindow_decides hst hco htime, hset]
  · have hc := setGState_changes s g .noquorum
    refine ⟨setGState s g .noquorum, by rw [voteWindow_decides hst hco htime, hset], by rw [grp_setGState], ?_, hc.mem⟩
    rw [fbit_setGState]
    rfl
  · exact (takeoverTimeout_runs hst hco htime).trans (if_neg hc)
  · exact ⟨_, (takeoverTimeout_runs hst hco htime).trans (if_pos hc), takeover_coordinates hst _ _ _ hx⟩

end Sys2Proof.Proofs
end
